-- ==== Sys2Proof/Word.lean ====
section
/-!
DEFINITION. The word types of the E9 and their plainest arithmetic (spec/00_scope.md R2, R4, R7).
-/

namespace Sys2Proof

/-- A byte of memory. -/
abbrev Byte := BitVec 8

/-- One lane of a general register, one uniform or sequencer register (R7). -/
abbrev Word := BitVec 32

/-- A doubleword: a register pair, an instruction word, a descriptor dword (R4, R7). -/
abbrev DWord := BitVec 64

/-- A field of `len` bits of a word, its least significant bit at `lo` (R2). -/
def field {w : Nat} (x : BitVec w) (lo len : Nat) : BitVec len := x.extractLsb' lo len

/-- The value of a field of `len` bits at `lo`. -/
def fieldN {w : Nat} (x : BitVec w) (lo len : Nat) : Nat := x.toNat / 2 ^ lo % 2 ^ len

/-- Bit `i` of a word. -/
def bitAt {w : Nat} (x : BitVec w) (i : Nat) : Bool := x.getLsbD i

end Sys2Proof
end

