-- ==== Sys2Proof/Syntax.lean ====
section
/-!
DEFINITION. The instructions of the E9: one constructor for each row of spec/opcode_table.json. The rows of the lane,
matrix and copy streams carry the fields of their format (spec/16, R277 to R284); the Xdisp rows carry their register
numbers (spec/12, R222); the rows that are steps of an engine, of the I/O die, of the monitor or of a link carry the
operands that say which object the step concerns and what arrives from outside.
-/

namespace Sys2Proof

/-- Format A (R277): three register sources. -/
structure FmtA where
  gd : BitVec 4
  d : BitVec 8
  a : BitVec 8
  b : BitVec 8
  c : BitVec 8
  na : BitVec 1
  aa : BitVec 1
  nb : BitVec 1
  ab : BitVec 1
  nc : BitVec 1
  ac : BitVec 1
  clp : BitVec 2
  sc : BitVec 3
  ty : BitVec 4
  deriving DecidableEq, Repr

/-- Format B (R278): one register source and an immediate; `imm32` is the extension word's when `x` is 1. -/
structure FmtB where
  x : BitVec 1
  gd : BitVec 4
  d : BitVec 8
  a : BitVec 8
  imm16 : BitVec 16
  na : BitVec 1
  aa : BitVec 1
  clp : BitVec 2
  sc : BitVec 3
  ty : BitVec 4
  imm32 : BitVec 32
  deriving DecidableEq, Repr

/-- Format F (R279): the format-slot lane operations. -/
structure FmtF where
  gd : BitVec 4
  d : BitVec 8
  a : BitVec 8
  b : BitVec 8
  fs : BitVec 3
  ew : BitVec 5
  na : BitVec 1
  aa : BitVec 1
  nb : BitVec 1
  ab : BitVec 1
  clp : BitVec 2
  sc : BitVec 3
  rm : BitVec 4
  deriving DecidableEq, Repr

/-- Format M (R280): memory accesses; the last six fields are the extension word's. -/
structure FmtM where
  x : BitVec 1
  gd : BitVec 4
  v : BitVec 8
  ab : BitVec 8
  ofs : BitVec 22
  sz : BitVec 3
  sp : BitVec 2
  ord : BitVec 2
  sco : BitVec 2
  ew : BitVec 5
  cph : BitVec 2
  sprd : BitVec 3
  meth : BitVec 4
  opr : BitVec 8
  ty : BitVec 4
  deriving DecidableEq, Repr

/-- Format C (R281): control transfer. -/
structure FmtC where
  gd : BitVec 4
  l : BitVec 8
  t20 : BitVec 20
  j20 : BitVec 20
  deriving DecidableEq, Repr

/-- Format Y (R282): synchronisation. -/
structure FmtY where
  gd : BitVec 4
  d : BitVec 8
  a : BitVec 8
  b : BitVec 8
  imm12 : BitVec 12
  nb : BitVec 4
  flg : BitVec 4
  deriving DecidableEq, Repr

/-- Format MX (R283): the matrix jobs. -/
structure FmtMX where
  gd : BitVec 4
  acc : BitVec 4
  da : BitVec 4
  db : BitVec 4
  fa : BitVec 3
  fb : BitVec 3
  fd : BitVec 3
  qm : BitVec 6
  qn : BitVec 6
  qk : BitVec 6
  am : BitVec 2
  asrc : BitVec 1
  zc : BitVec 1
  fbk : BitVec 1
  bn : BitVec 4
  deriving DecidableEq, Repr

/-- Format S (R284): system, slot, tile-management and sequencer instructions. -/
structure FmtS where
  gd : BitVec 4
  d : BitVec 8
  a : BitVec 8
  imm16 : BitVec 16
  sel : BitVec 16
  deriving DecidableEq, Repr

/-- The streams of R287, and the combiner wave of R171. -/
inductive Stream where
  | lane | mx | cp | wave
  deriving DecidableEq, Repr

/-- An agent that fetches and issues instructions. -/
inductive Agent where
  /-- A quarter of a core (R92): its choice among its ready gangs is R215's. -/
  | quarter (core q : Nat)
  /-- The gang of a warp that holds a slice (R212). -/
  | gang (core warp slice : Nat)
  /-- A block's matrix stream (`copy = false`) or copy stream (R211). -/
  | seq (core block : Nat) (copy : Bool)
  /-- A scheduler core (R219). -/
  | sched (c : Nat)
  /-- The copy engine of a core, under whose name its misses wait (R34); it issues no instruction. -/
  | engine (core : Nat)
  /-- No agent. -/
  | none
  deriving DecidableEq, Repr

/-- The use of a bank of the pool (R81). -/
inductive PoolUse where
  | scr | acc | reg
  deriving DecidableEq, Repr

/-- Who makes an access of the management space (R265). -/
inductive MgmtAgent where
  | host
  | sched (c : Nat)
  deriving DecidableEq, Repr

/-- The two mailboxes of the monitor (R250). -/
inductive Mailbox where
  | host | fw
  deriving DecidableEq, Repr

/-- A host access of device memory (R263, R47). -/
inductive HostOp where
  | read (pa len : Nat)
  | write (pa : Nat) (bytes : List Byte)
  /-- A host atomic on an aligned 32 or 64-bit word, its `op` and operands as R162 codes them. -/
  | atomic (pa op ty : Nat) (opr cmp : DWord)
  /-- The read and the write of a host atomic on a page with SA = 0, as two accesses (R47). -/
  | splitRead (pa ty : Nat)
  | splitWrite (pa op ty : Nat) (opr cmp : DWord)
  /-- A read of a register of the management space (R265), of 32 or 64 bits. -/
  | readReg (ofs width : Nat)
  /-- A read and a write of 32 or 64 bits at a host physical address that the attach may map to the management space (R265). -/
  | mmioRead (addr width : Nat)
  | mmioWrite (addr width : Nat) (v : DWord)
  /-- BOOTSTAT read on the UCIe sideband of module 0 (R266). -/
  | sideband
  /-- The host's store to its own memory, and its atomic on a word of it (R47). -/
  | own (pa : Nat) (bytes : List Byte)
  | ownAtomic (pa op ty : Nat) (opr cmp : DWord)
  /-- A write of the attach's MGMTBASE configuration word (R265). -/
  | baseWrite (v : DWord)
  /-- A write of a register of the management space, of 32 or 64 bits. -/
  | writeReg (ofs width : Nat) (v : DWord)
  deriving DecidableEq, Repr

/-- What a fabric flit carries (R267). -/
inductive FabricMsg where
  /-- A peer's access, with its own tag, which the reply carries; its offset in the home's HBM, its page's mode and key slot (R41). A
  store writes the bits of `mask` alone (R58, R296), or its bytes whole where the mask is 0; an atomic carries the operand and the value
  compared with of every lane that it stands for, in order (R163). -/
  | load (src tag pa len crypt key : Nat)
  | store (src tag pa : Nat) (bytes : List Byte) (mask : Nat) (poison : Bool) (crypt key : Nat)
  | atomic (src tag pa op ty : Nat) (ops : List (DWord × DWord)) (crypt key : Nat)
  /-- A mirror write (R271): its record's id as tag, the partner's offset, the bytes as they stand, under the page's mode and key. -/
  | mirror (src tag ofs : Nat) (bytes : List Byte) (poison : Bool) (crypt key : Nat)
  /-- The reply to an access by its tag, which is the request's id, and what the home's check of the crypt attributes said. -/
  | reply (tag : Nat) (bytes : List Byte) (poison ca : Bool)
  | message (src : Nat) (bytes : List Byte)
  /-- The acknowledgement of a mirror write, or its refusal (R196, R271), by its tag. -/
  | mirrorAck (tag : Nat) (refused : Bool)
  deriving DecidableEq, Repr

/-- What stops at a halt (R235). -/
inductive StopAgent where
  | slice (core warp sl : Nat)
  | seq (core block : Nat) (copy : Bool)
  | array (core : Nat)
  | copyEngine (core : Nat)
  | format (core : Nat)
  | command (slot : Nat)
  deriving DecidableEq, Repr

/-- The operands of ROOTACT (R260). -/
structure RootArgs where
  rcb : Nat
  ctx : Nat
  fn : Nat
  ed : BitVec 384
  ml : BitVec 384
  ring : Nat
  logn : Nat
  cblk : Nat
  deriving DecidableEq, Repr

/-- The operands of ROOTSET (R260): the budgets, the counter and the two signatures over them. -/
structure RootSetArgs where
  root : Nat
  counter : DWord
  bcyc : DWord
  bpool : DWord
  bhbm : DWord
  blink : DWord
  edSig : BitVec 512
  mlSig : List Byte
  deriving DecidableEq, Repr

/-- One constructor for each row of spec/opcode_table.json, in the table's order. -/
inductive Instr where
  /-- IADD (R328). -/
  | iadd (f : FmtA)
  /-- ISUB (R328). -/
  | isub (f : FmtA)
  /-- IMUL (R328). -/
  | imul (f : FmtA)
  /-- IMULH (R328). -/
  | imulh (f : FmtA)
  /-- IMAD (R328). -/
  | imad (f : FmtA)
  /-- IMIN (R328). -/
  | imin (f : FmtA)
  /-- IMAX (R328). -/
  | imax (f : FmtA)
  /-- IDIF (R328). -/
  | idif (f : FmtA)
  /-- AND (R328). -/
  | and (f : FmtA)
  /-- OR (R328). -/
  | or (f : FmtA)
  /-- XOR (R328). -/
  | xor (f : FmtA)
  /-- ANDN (R328). -/
  | andn (f : FmtA)
  /-- SHL (R329). -/
  | shl (f : FmtA)
  /-- SHR (R329). -/
  | shr (f : FmtA)
  /-- SHRA (R329). -/
  | shra (f : FmtA)
  /-- ROTL (R329). -/
  | rotl (f : FmtA)
  /-- POPC (R328). -/
  | popc (f : FmtA)
  /-- CLZ (R328). -/
  | clz (f : FmtA)
  /-- BREV (R328). -/
  | brev (f : FmtA)
  /-- PRMT (R330). -/
  | prmt (f : FmtA)
  /-- SEL (R330). -/
  | sel (f : FmtA)
  /-- LEA (R330). -/
  | lea (f : FmtA)
  /-- BFE (R330). -/
  | bfe (f : FmtA)
  /-- BFI (R330). -/
  | bfi (f : FmtA)
  /-- IADD_IMM (R328). -/
  | iaddImm (f : FmtB)
  /-- ISUB_IMM (R328). -/
  | isubImm (f : FmtB)
  /-- IMUL_IMM (R328). -/
  | imulImm (f : FmtB)
  /-- IMULH_IMM (R328). -/
  | imulhImm (f : FmtB)
  /-- IMIN_IMM (R328). -/
  | iminImm (f : FmtB)
  /-- IMAX_IMM (R328). -/
  | imaxImm (f : FmtB)
  /-- IDIF_IMM (R328). -/
  | idifImm (f : FmtB)
  /-- AND_IMM (R328). -/
  | andImm (f : FmtB)
  /-- OR_IMM (R328). -/
  | orImm (f : FmtB)
  /-- XOR_IMM (R328). -/
  | xorImm (f : FmtB)
  /-- ANDN_IMM (R328). -/
  | andnImm (f : FmtB)
  /-- SHL_IMM (R329). -/
  | shlImm (f : FmtB)
  /-- SHR_IMM (R329). -/
  | shrImm (f : FmtB)
  /-- SHRA_IMM (R329). -/
  | shraImm (f : FmtB)
  /-- ROTL_IMM (R329). -/
  | rotlImm (f : FmtB)
  /-- BFE_IMM (R330). -/
  | bfeImm (f : FmtB)
  /-- ICMP (R331). -/
  | icmp (cc : BitVec 5) (f : FmtA)
  /-- ICMPI (R331). -/
  | icmpi (cc : BitVec 5) (f : FmtB)
  /-- MOV (R332). -/
  | mov (f : FmtB)
  /-- MOVI (R332). -/
  | movi (f : FmtB)
  /-- PMOV_GET (R332). -/
  | pmovGet (f : FmtB)
  /-- PMOV_SET (R332). -/
  | pmovSet (f : FmtB)
  /-- FADD (R333). -/
  | fadd (f : FmtA)
  /-- FSUB (R333). -/
  | fsub (f : FmtA)
  /-- FMUL (R333). -/
  | fmul (f : FmtA)
  /-- FFMA (R333). -/
  | ffma (f : FmtA)
  /-- FMIN (R334). -/
  | fmin (f : FmtA)
  /-- FMAX (R334). -/
  | fmax (f : FmtA)
  /-- FADD_IMM (R333). -/
  | faddImm (f : FmtB)
  /-- FSUB_IMM (R333). -/
  | fsubImm (f : FmtB)
  /-- FMUL_IMM (R333). -/
  | fmulImm (f : FmtB)
  /-- FFMA_IMM (R333). -/
  | ffmaImm (f : FmtB)
  /-- FMIN_IMM (R334). -/
  | fminImm (f : FmtB)
  /-- FMAX_IMM (R334). -/
  | fmaxImm (f : FmtB)
  /-- FCMP (R335). -/
  | fcmp (cc : BitVec 5) (f : FmtA)
  /-- FRCP (R336). -/
  | frcp (f : FmtA)
  /-- FRSQ (R336). -/
  | frsq (f : FmtA)
  /-- FSQRT (R336). -/
  | fsqrt (f : FmtA)
  /-- FEXP2 (R336). -/
  | fexp2 (f : FmtA)
  /-- FLOG2 (R336). -/
  | flog2 (f : FmtA)
  /-- FSIN (R336). -/
  | fsin (f : FmtA)
  /-- FCOS (R336). -/
  | fcos (f : FmtA)
  /-- FTANH (R336). -/
  | ftanh (f : FmtA)
  /-- CVT (R338). -/
  | cvt (f : FmtA)
  /-- FRND (R340). -/
  | frnd (f : FmtA)
  /-- SHFLI (R342). -/
  | shfli (f : FmtA)
  /-- SHFLU (R342). -/
  | shflu (f : FmtA)
  /-- SHFLD (R342). -/
  | shfld (f : FmtA)
  /-- SHFLX (R342). -/
  | shflx (f : FmtA)
  /-- VALL (R343). -/
  | vall (f : FmtA)
  /-- VANY (R343). -/
  | vany (f : FmtA)
  /-- VBAL (R343). -/
  | vbal (f : FmtA)
  /-- MATCHANY (R344). -/
  | matchany (f : FmtA)
  /-- MATCHALL (R344). -/
  | matchall (f : FmtA)
  /-- REDUX (R345). -/
  | redux (f : FmtA)
  /-- DEC (R347). -/
  | dec (f : FmtF)
  /-- DEC_BLK (R347). -/
  | decBlk (f : FmtF)
  /-- ENC (R348). -/
  | enc (f : FmtF)
  /-- ENC_BLK (R349). -/
  | encBlk (f : FmtF)
  /-- REQ (R351). -/
  | req (f : FmtF)
  /-- REQ_BLK (R351). -/
  | reqBlk (f : FmtF)
  /-- SCLQ (R352). -/
  | sclq (f : FmtF)
  /-- FMTQ (R353). -/
  | fmtq (f : FmtF)
  /-- SLOTBIND (R137). -/
  | slotbind (f : FmtS)
  /-- SLOTFENCE (R138). -/
  | slotfence (f : FmtS)
  /-- SLOTREL (R139). -/
  | slotrel (f : FmtS)
  /-- SLOT_RECONFIGURE_START (R137). -/
  | slotReconfigureStart (core fs : Nat)
  /-- SLOT_RECONFIGURE_END (R137). -/
  | slotReconfigureEnd (core fs : Nat) (readbackOk : Bool)
  /-- LD (R300). -/
  | ld (f : FmtM)
  /-- LDF (R301). -/
  | ldf (f : FmtM)
  /-- LDFK (R301). -/
  | ldfk (f : FmtM)
  /-- LDA16 (R306). -/
  | lda16 (f : FmtM)
  /-- ST (R302). -/
  | st (f : FmtM)
  /-- STE (R303). -/
  | ste (f : FmtM)
  /-- STF (R303). -/
  | stf (f : FmtM)
  /-- TAGCLR (R303). -/
  | tagclr (f : FmtM)
  /-- XSTART (R305). -/
  | xstart (f : FmtM)
  /-- COPY_ACCEPT (R49). -/
  | copyAccept (core : Nat)
  /-- COPY_CHUNK (R61). -/
  | copyChunk (core job : Nat)
  /-- COPY_ARRIVAL (R64). -/
  | copyArrival (core job : Nat)
  /-- LDA16_ARRIVAL (R64). -/
  | lda16Arrival (core id : Nat)
  /-- PREF (R307). -/
  | pref (f : FmtM)
  /-- IPREF (R308). -/
  | ipref (f : FmtM)
  /-- CCTL_WB (R309). -/
  | cctlWb (f : FmtM)
  /-- CCTL_EVICT (R309). -/
  | cctlEvict (f : FmtM)
  /-- CCTL_PDROP (R309). -/
  | cctlPdrop (f : FmtM)
  /-- FENCE (R310). -/
  | fence (f : FmtM)
  /-- FENCEMIR (R311). -/
  | fencemir (f : FmtM)
  /-- ISYNC (R312). -/
  | isync (f : FmtM)
  /-- XTSET (R314). -/
  | xtset (f : FmtY)
  /-- XQUERY (R315). -/
  | xquery (f : FmtY)
  /-- RINGINIT (R316). -/
  | ringinit (f : FmtY)
  /-- AWAITF (R317). -/
  | awaitf (f : FmtY)
  /-- RELS (R318). -/
  | rels (f : FmtY)
  /-- RELS_KEEP (R318). -/
  | relsKeep (f : FmtY)
  /-- YIELDC (R319). -/
  | yieldc (f : FmtY)
  /-- DSET (R321). -/
  | dset (f : FmtS)
  /-- DSET_W (R321). -/
  | dsetW (f : FmtS)
  /-- LEASE (R323). -/
  | lease (f : FmtS)
  /-- UNLEASE (R325). -/
  | unlease (f : FmtS)
  /-- LEASE_EXPIRY (R46). -/
  | leaseExpiry (slice lease : Nat)
  /-- ATOM_ADD (R162). -/
  | atomAdd (f : FmtM)
  /-- ATOM_MIN (R162). -/
  | atomMin (f : FmtM)
  /-- ATOM_MAX (R162). -/
  | atomMax (f : FmtM)
  /-- ATOM_AND (R162). -/
  | atomAnd (f : FmtM)
  /-- ATOM_OR (R162). -/
  | atomOr (f : FmtM)
  /-- ATOM_XOR (R162). -/
  | atomXor (f : FmtM)
  /-- ATOM_EXCH (R162). -/
  | atomExch (f : FmtM)
  /-- ATOM_CAS (R162). -/
  | atomCas (f : FmtM)
  /-- ROUTER_REQUEST_ARRIVAL (R165). -/
  | routerRequestArrival (entry arriving : Nat)
  /-- ATOM_HOME_PERFORM (R167). -/
  | atomHomePerform (req : Nat)
  /-- LOAD_WRITEBACK (R99). -/
  | loadWriteback (req : Nat)
  /-- CMB (R369). -/
  | cmb (f : FmtM)
  /-- CMB_REQUEST_ARRIVAL (R170). -/
  | cmbRequestArrival (req : Nat)
  /-- COMBINER_WAVE_START (R172). -/
  | combinerWaveStart (slice : Nat)
  /-- COMBINER_WAVE_END (R173). -/
  | combinerWaveEnd (slice : Nat) (residue : Bool)
  /-- COBJ_INIT (R371). -/
  | cobjInit (f : FmtS)
  /-- COBJ_ARM (R372). -/
  | cobjArm (f : FmtS)
  /-- COBJ_QUERY (R373). -/
  | cobjQuery (f : FmtS)
  /-- BARINIT (R378). -/
  | barinit (f : FmtY)
  /-- BARINIT_NB (R379). -/
  | barinitNb (f : FmtY)
  /-- BARARV (R378). -/
  | bararv (f : FmtY)
  /-- BARWAIT (R378). -/
  | barwait (f : FmtY)
  /-- BARSYNC (R378). -/
  | barsync (f : FmtY)
  /-- NBARV (R376). -/
  | nbarv (f : FmtY)
  /-- NBWAIT (R376). -/
  | nbwait (f : FmtY)
  /-- NBSYNC (R376). -/
  | nbsync (f : FmtY)
  /-- BRA (R381). -/
  | bra (f : FmtC)
  /-- BRX (R382). -/
  | brx (f : FmtC)
  /-- CALL (R382). -/
  | call (f : FmtC)
  /-- RET (R382). -/
  | ret (f : FmtC)
  /-- EXIT (R383). -/
  | exit (f : FmtC)
  /-- REGANG (R384). -/
  | regang (f : FmtC)
  /-- BRKPT (R385). -/
  | brkpt (f : FmtC)
  /-- NOP (R385). -/
  | nop (f : FmtC)
  /-- FORK (R211). -/
  | fork (f : FmtS)
  /-- RDV (R211). -/
  | rdv (f : FmtS)
  /-- SEQEND (R386). -/
  | seqend (f : FmtS)
  /-- SOW (R388). -/
  | sow (f : FmtS)
  /-- WAITP (R389). -/
  | waitp (f : FmtS)
  /-- TRIGGER (R389). -/
  | trigger (f : FmtS)
  /-- CSRR (R390). -/
  | csrr (f : FmtS)
  /-- CSRW (R390). -/
  | csrw (f : FmtS)
  /-- SVC (R393). -/
  | svc (f : FmtS)
  /-- TRAP (R394). -/
  | trap (f : FmtS)
  /-- MMA (R357). -/
  | mma (f : FmtMX)
  /-- ACZ (R358). -/
  | acz (f : FmtMX)
  /-- ACDRN (R359). -/
  | acdrn (f : FmtMX)
  /-- ACCLOSE (R360). -/
  | acclose (f : FmtMX)
  /-- JOB_DISPATCH (R144). -/
  | jobDispatch (core : Nat) (drain : Bool)
  /-- MMA_OUTPUT_BLOCK (R152). -/
  | mmaOutputBlock (core : Nat) (residue : Bool)
  /-- MATRIX_JOB_COMPLETE (R356). -/
  | matrixJobComplete (core job : Nat)
  /-- ACDRN_LINE (R160). -/
  | acdrnLine (core : Nat)
  /-- TILE_CLOSE (R360). -/
  | tileClose (core job : Nat)
  /-- ACAL (R362). -/
  | acal (f : FmtS)
  /-- ACFREE (R363). -/
  | acfree (f : FmtS)
  /-- ACSTAT (R364). -/
  | acstat (f : FmtS)
  /-- ACSTAT_BLK (R364). -/
  | acstatBlk (f : FmtS)
  /-- ACBAND (R365). -/
  | acband (f : FmtS)
  /-- ACBAND_REL (R365). -/
  | acbandRel (f : FmtS)
  /-- ACRD (R366). -/
  | acrd (f : FmtA)
  /-- ACRDCLR (R366). -/
  | acrdclr (f : FmtA)
  /-- RFETCH (R224). -/
  | rfetch (rd : BitVec 5)
  /-- BFX (R225). -/
  | bfx (rd rs1 rs2 : BitVec 5)
  /-- SWAIT (R226). -/
  | swait (rd rs1 : BitVec 5)
  /-- DISP (R227). -/
  | disp (rd rs1 rs2 : BitVec 5)
  /-- LAUNCH (R228). -/
  | recLaunch (slot : Nat) (desc : DWord)
  /-- LAUNCHN (R228). -/
  | recLaunchn (slot : Nat) (desc naddr stride : DWord)
  /-- WAITSIG (R228). -/
  | recWaitsig (slot : Nat) (addr v : DWord)
  /-- SETSIG (R228). -/
  | recSetsig (slot : Nat) (addr v : DWord)
  /-- SKIPIF (R228). -/
  | recSkipif (slot : Nat) (cond : BitVec 4) (n : BitVec 16) (addr v : DWord)
  /-- EXEC (R228). -/
  | recExec (slot : Nat) (buf naddr : DWord)
  /-- LAUNCH_PLACEMENT (R205). -/
  | launchPlacement (launch : Nat)
  /-- BLOCK_PLACEMENT (R209). -/
  | blockPlacement (core : Nat)
  /-- QSLOT_MAP (R219). -/
  | qslotMap (slot core : Nat) (v : DWord)
  /-- QSLOT_UNMAP (R220). -/
  | qslotUnmap (slot core : Nat) (v : DWord)
  /-- KICK (R220). -/
  | kick (v : Word)
  /-- XLINV_CTL_WRITE (R37). -/
  | xlinvCtlWrite (v : Word)
  /-- INVALIDATION_COMPLETE (R37). -/
  | invalidationComplete
  /-- WALKER_START (R34). -/
  | walkerStart (slice : Nat)
  /-- WALK_COMPLETE (R35). -/
  | walkComplete (walk : Nat)
  /-- HOME_ACCESS_PERFORM (R180). -/
  | homeAccessPerform (req : Nat)
  /-- HOST_ACCESS (R263). -/
  | hostAccess (op : HostOp)
  /-- POOL_SCRUB_ROW (R84). -/
  | poolScrubRow (core : Nat) (use : PoolUse) (bank row : Nat)
  /-- POOL_FAULT_MAP_WRITE (R78). -/
  | poolFaultMapWrite (slab group : Nat) (v : Word)
  /-- PREEMPT_REQUEST (R238). -/
  | preemptRequest (ctx : Nat) (forLaunch : Option Nat)
  /-- BUDGET_REACHED (R201). -/
  | budgetReached (rcb : Nat) (kind : Nat)
  /-- AGENT_STOP (R235). -/
  | agentStop (ctx : Nat) (who : StopAgent)
  /-- SAVE_COMPLETE (R238). -/
  | saveComplete (ctx : Nat)
  /-- EVQI_WRITE (R264). -/
  | evqiWrite (dom : Nat) (v : DWord)
  /-- CTX_SAVE (R242). -/
  | ctxSave (v : DWord)
  /-- CTX_RESTORE (R241). -/
  | ctxRestore (v : DWord) (imageError : Option Bool)
  /-- CTX_TERMINATE (R242). -/
  | ctxTerminate (v : DWord)
  /-- FLR (R259). -/
  | flr (v : Word)
  /-- FULL_RESET (R245). -/
  | fullReset (fuseOk : Bool)
  /-- MGMTBASE_WRITE (R265). -/
  | mgmtbaseWrite (v : DWord)
  /-- FWLOAD (R248). -/
  | fwload (mb : Mailbox) (base : Nat)
  /-- ATTEST (R252). -/
  | attest (mb : Mailbox) (nonce : BitVec 384)
  /-- ATTEST_CERTS (R252). -/
  | attestCerts (mb : Mailbox)
  /-- CONFSET (R254). -/
  | confset (mb : Mailbox) (mode : Nat)
  /-- DBGEN (R250). -/
  | dbgen (mb : Mailbox)
  /-- ROOTACT (R260). -/
  | rootact (mb : Mailbox) (args : RootArgs)
  /-- ROOTSET (R260). -/
  | rootset (mb : Mailbox) (args : RootSetArgs)
  /-- ROOTDEL (R260). -/
  | rootdel (mb : Mailbox) (root : Nat)
  /-- USAGEREQ (R262). -/
  | usagereq (mb : Mailbox) (rcb : Nat)
  /-- USAGE_RECORD_WRITE (R262). -/
  | usageRecordWrite (root : Nat)
  /-- KEYNEW_GENERATE (R257). -/
  | keynewGenerate (mb : Mailbox)
  /-- KEYNEW_IMPORT (R257). -/
  | keynewImport (mb : Mailbox)
  /-- KEYERASE (R258). -/
  | keyerase (mb : Mailbox)
  /-- TAGSET (R258). -/
  | tagset (mb : Mailbox)
  /-- SAVESET_CREATE (R240). -/
  | savesetCreate (mb : Mailbox)
  /-- SAVESET_RELEASE (R240). -/
  | savesetRelease (mb : Mailbox)
  /-- IMGREG (R132). -/
  | imgreg (mb : Mailbox)
  /-- MONDB_UNKNOWN_COMMAND (R250). -/
  | mondbUnknownCommand (mb : Mailbox) (code : Word)
  /-- FWMQPOP (R251). -/
  | fwmqpop (v : Word)
  /-- FWPOSTDB (R251). -/
  | fwpostdb (v : Word)
  /-- MIRCFG_WRITE (R271). -/
  | mircfgWrite (v : DWord)
  /-- MIRROR_WRITE_RECEIVE (R271). -/
  | mirrorWriteReceive (src ofs : Nat) (bytes : List Byte)
  /-- FABRIC_FLIT_RECEIVE (R267). -/
  | fabricFlitReceive (port : Nat) (checkOk : Bool) (msg : FabricMsg)
  /-- ETHERNET_FRAME_RECEIVE (R267). -/
  | ethernetFrameReceive (port : Nat) (frame : List Byte)
  /-- LANE_LOSS (R269). -/
  | laneLoss (link : Nat)
  /-- POWER_CAP_INTERVAL (R253). -/
  | powerCapInterval (avg : Nat)
  /-- REGISTER_WRITE (R265). -/
  | registerWrite (who : MgmtAgent) (ofs width : Nat) (v : DWord)
  /-- REGION_ACTIVATION (R200). -/
  | regionActivation (rcb ctx : Nat)
  /-- REGION_RETIREMENT (R261). -/
  | regionRetirement (rcb : Nat)
  /-- FALLBACK_COUNTER_CLEAR (R158). -/
  | fallbackCounterClear (rcb : Nat)
  /-- INSTRUCTION_FETCH (R397). -/
  | instructionFetch (who : Agent)
  /-- ICACHE_FILL_ARRIVAL (R397). -/
  | icacheFillArrival (core fill : Nat)
  /-- LINK_TRAINED (R249). -/
  | linkTrained (link : Nat)
  /-- PEER_SILENCE_DETECTED (R272). -/
  | peerSilenceDetected (device : Nat)
  deriving DecidableEq, Repr

end Sys2Proof
end

