-- ==== Sys2Proof/Config.lean ====
section
/-!
DEFINITION. What is fixed for the machine and what the manual leaves open. A constant with a body is a figure the manual
gives. A constant with no body (`opaque`) is a FREE VALUE: nothing can be proved of it but what its type says.
-/

namespace Sys2Proof

/-- An exact value before rounding: NaN, an infinity, or a sign with mantissa × 2^exponent (R98, R106). -/
inductive FpVal where
  | nan
  | inf (neg : Bool)
  | fin (neg : Bool) (mant : Nat) (exp : Int)
  deriving DecidableEq, Repr, Inhabited

namespace Config

/-! ## Figures of the shipped part (R10, R22) -/

def numCores : Nat := 128
def numSlices : Nat := 48
def slicesPerStack : Nat := 12
def walkersPerStack : Nat := 96
def hbmBytes : Nat := 768 * 2 ^ 30
def maxCopies : Nat := 128
def numSched : Nat := 16

/-! ## Free values: a fresh one for each value of the state's counter -/

/-- A free word: an undefined or unstated 64-bit result. -/
opaque freeDWord : Nat → BitVec 64

/-- The core cycles that an issue takes, beyond one (R217: CYCLE counts them; the manual fixes no count per step). -/
opaque freeCycles : Nat → Nat

/-- The device save key generated at a full reset, a key generated by KEYNEW (R245, R257). -/
opaque freeKey : Nat → BitVec 512

/-- Whether the service firmware knows a selector besides IMGREG (R393 names no other; log 43). -/
opaque serviceKnown : BitVec 16 → Bool

/-- The result of a service of the firmware, low word and status (R393; log 43). -/
opaque service : Nat → BitVec 16 → BitVec 64 → BitVec 64

/-- Whether placement is full when a launch is submitted (R227: the manual states no capacity; log 9). -/
opaque placementFull : Nat → Bool

/-! ## What an implementation fixes -/

/-- The fixed hash that chooses a line's home slice (R43). -/
opaque homeHash : Nat → Nat

/-- The home slice of a local line. -/
def homeSlice (line : Nat) : Nat := homeHash line % numSlices

/-- The set of a slice that holds a line (R43: 2,048 sets). -/
opaque setHash : Nat → Nat
def l2Set (line : Nat) : Nat := setHash line % 2048

/-- Whether a line lies in the ways of its set that a slice reserves for a lease (R324): the manual places no line in a way. -/
opaque inLeasedWays (lease line : Nat) : Bool

/-- The fuse map: a front end of (stack, site) is good; half `h` of slab site (stack, site) is good (R13, R16). -/
opaque frontEndGood : Nat → Nat → Bool
opaque halfGood : Nat → Nat → Nat → Bool

/-- The pool's failed bank recorded at test for word `32 × slab + group`: FV and FB of R78. -/
opaque poolFuse : Nat → BitVec 32

/-- Which of a core's check groups serves a unit of its pool: a permutation for each core and partition word (R83: not visible to
software). -/
opaque poolGroups (core : Nat) (pword : Word) (n : Nat) : Equiv.Perm (Fin n)

/-- What a read finds of a codeword with more bad symbols than the manual speaks for (R75: no promise): uncorrectable, or the
differences from the right symbols that it returns. -/
opaque poolMany : List Byte → Option (List Byte)

/-- Whether the bad symbols of an uncorrectable codeword can be placed (R79). -/
opaque poolPlaced : List Byte → Bool

/-- This device's number among up to 8,192 (R31, R272). -/
opaque deviceNumber : Nat

/-- Whether a scale-out port's link leads to a device, directly or through others (R270). -/
opaque portReaches : Nat → Nat → Bool

/-- The cost and the hops of the path to a device beyond a port's own link (R270). -/
opaque pathCost : Nat → Nat → Nat
opaque pathHops : Nat → Nat → Nat

/-- The redundant lanes of a UCIe module when it is trained (R269, R270). -/
opaque spareLanes : Nat → Nat

/-- The steps by which HBM bandwidth can be throttled (R253). -/
opaque hbmSteps : Nat

/-- SHA-384 of a byte string (R246). -/
opaque sha384 : List Byte → BitVec 384

/-- The two signature checks: under the key of a digest, over a body, with the signature bytes (R132, R248, R260). -/
opaque ed25519Ok : BitVec 384 → List Byte → List Byte → Bool
opaque mldsaOk : BitVec 384 → List Byte → List Byte → Bool

/-- The digests of the Strelhel public keys that are fused (R248), and the key that signed a format image. -/
opaque fusedEd : BitVec 384
opaque fusedMl : BitVec 384
opaque imageKey : List Byte → BitVec 384

/-- The monitor's signatures over a report or a usage record: Ed25519, ML-DSA-65 (R252, R261). -/
opaque edSign : List Byte → List Byte
opaque mlSign : List Byte → List Byte

/-- The identity certificates, the ML-KEM-768 encapsulation key, the ROM's digest (R245, R252). -/
opaque certs : List Byte
opaque encapKey : List Byte
opaque romDigest : BitVec 384

/-- The physical ranges that the monitor tags secure at full reset (R244): the manual names no address. -/
opaque secureRanges : List (Nat × Nat)

/-- The digest of the fuse state, whose burnt part is the rollback counters of classes 0 to 3 (R245, R247): the rest is fixed. -/
opaque fuseState : List Nat → BitVec 384

/-- The tag of a GCM line under a key: the line, its counter, its bytes; and the root of a range's counter tree after a write of a line:
the root before, the line, its counter (R39, R42). -/
opaque gcmTag : BitVec 512 → Nat → Nat → List Byte → BitVec 128
opaque ctrRoot : BitVec 64 → Nat → Nat → BitVec 64

/-- Whether the host keeps the poison indication of a write (R406). -/
opaque hostKeepsPoison : Bool

/-- The send window and the arbitration weight of a link at full width (R269). -/
opaque sendWindow : Nat → Nat
opaque sendWeight : Nat → Nat

/-- Unwrapping of an import block: the key, or nothing when it does not verify (R257). -/
opaque unwrap : List Byte → Option (BitVec 512)

/-- The decode of a code of an image's own family by its strips: the image's digest, format word, width, code (R404). -/
opaque stripDecode : BitVec 384 → BitVec 32 → Nat → Nat → FpVal

/-- The encode of a value into a code by an image's strips: the image's digest, format word, width, rounding code, the value in its one
canonical form (R404, R405). -/
opaque stripEncode : BitVec 384 → BitVec 32 → Nat → Nat → FpVal → Nat

/-- The largest finite magnitude of an own-family format (R404): the image's digest, format word, width. -/
opaque stripMax : BitVec 384 → BitVec 32 → Nat → FpVal

/-- The delivered value of a special function whose bound leaves a choice: function, operand (R336). -/
opaque fspec : Nat → BitVec 32 → BitVec 32

/-- The header dwords of the five shipped images: FAMS, DRM and BSOK of R131; NIM 0. R131 states no IMGSZ, and nothing of
the model reads it of a shipped image. -/
def shippedHeader (handle : Nat) : Option (BitVec 64) :=
  if handle = 1 then some (BitVec.ofNat 64 (2 ^ 48 * 1 + 2 ^ 44 * 1 + 2 ^ 39 + 1))
  else if handle = 2 then some (BitVec.ofNat 64 (2 ^ 48 * 2 + 2 ^ 44 * 1 + 2 ^ 39 + 1))
  else if handle = 3 then some (BitVec.ofNat 64 (2 ^ 48 * 4 + 2 ^ 44 * 1 + 1))
  else if handle = 4 then some (BitVec.ofNat 64 (2 ^ 48 * 8 + 2 ^ 44 * 1 + 1))
  else if handle = 5 then some (BitVec.ofNat 64 (2 ^ 48 * 16 + 2 ^ 44 * 1 + 1))
  else none

end Config

end Sys2Proof
end

