-- ==== Sys2Proof/Machine/Fp.lean ====
section
/-!
DEFINITION. Floating-point values exactly, and rounding into a format (spec/06, R98, R106, R107, R108, R111, R112, R118,
R119), and the special functions of R336 and R337.
-/

namespace Sys2Proof

/-- A binary format with a sign bit: exponent and fraction widths, bias, and the specials policy of R111 (0 for the fixed
formats of R106). -/
structure FpFmt where
  e : Nat
  f : Nat
  b : Int
  spc : Nat
  deriving DecidableEq, Repr

def fp32 : FpFmt := ⟨8, 23, 127, 0⟩
def bf16 : FpFmt := ⟨8, 7, 127, 0⟩
def fp16 : FpFmt := ⟨5, 10, 15, 0⟩

/-- The width of a code. -/
def FpFmt.width (t : FpFmt) : Nat := 1 + t.e + t.f

/-- The largest finite code without its sign (R106, R112). -/
def FpFmt.maxCode (t : FpFmt) : Nat :=
  if t.spc = 0 then (2 ^ t.e - 1) * 2 ^ t.f - 1
  else if t.spc = 1 then (if t.f = 0 then 2 ^ t.e - 2 else 2 ^ (t.e + t.f) - 2)
  else 2 ^ (t.e + t.f) - 1

def FpFmt.infCode (t : FpFmt) : Nat := (2 ^ t.e - 1) * 2 ^ t.f

/-- The canonical NaN (R106, R112); SPC 2 has none, and a NaN encodes as +0 (R119). -/
def FpFmt.nanCode (t : FpFmt) : Nat :=
  if t.spc = 0 then t.infCode + 2 ^ (t.f - 1) else if t.spc = 1 then 2 ^ (t.e + t.f) - 1 else 0

/-- The value of a code (R106, R112). -/
def FpFmt.decode (t : FpFmt) (c : Nat) : FpVal :=
  let neg := c / 2 ^ (t.e + t.f) % 2 == 1
  let e := c / 2 ^ t.f % 2 ^ t.e
  let m := c % 2 ^ t.f
  if e = 2 ^ t.e - 1 ∧ t.spc = 0 then (if m = 0 then .inf neg else .nan)
  else if e = 2 ^ t.e - 1 ∧ t.spc = 1 ∧ m = 2 ^ t.f - 1 then .nan
  else if e = 0 then .fin neg m (1 - t.b - t.f)
  else .fin neg (2 ^ t.f + m) (e - t.b - t.f)

/-- A magnitude `m × 2^e` rounded to units of `2^q` in a mode of R118 (1 RNE, 2 RNA, 3 RZ, 4 RU, 5 RD); `odd` says that an
even number of units is an odd code (R119: MF with F = 0). -/
def roundMag (mode : Nat) (neg odd : Bool) (m : Nat) (e q : Int) : Nat :=
  if q ≤ e then m * 2 ^ (e - q).toNat
  else
    let d := 2 ^ (q - e).toNat
    let n := m / d
    let r := m % d
    let up :=
      if r = 0 then false
      else if mode = 1 then decide (d < 2 * r) || (decide (d = 2 * r) && ((n % 2 == 1) != odd))
      else if mode = 2 then decide (d ≤ 2 * r)
      else if mode = 4 then !neg
      else if mode = 5 then neg
      else false
    if up then n + 1 else n

/-- The overflow result without its sign (R119). -/
def FpFmt.overflow (t : FpFmt) (mode : Nat) (neg : Bool) : Nat :=
  if t.spc ≠ 0 then t.maxCode
  else if mode = 3 ∨ (mode = 4 ∧ neg) ∨ (mode = 5 ∧ !neg) then t.maxCode
  else t.infCode

/-- A sign bit at its place. -/
def FpFmt.signed (t : FpFmt) (neg : Bool) (c : Nat) : Nat := if neg then 2 ^ (t.e + t.f) + c else c

/-- The exact value rounded once into the format (R119). -/
def FpFmt.encode (t : FpFmt) (mode : Nat) : FpVal → Nat
  | .nan => t.nanCode
  | .inf neg => t.signed neg (if t.spc = 0 then t.infCode else t.maxCode)
  | .fin neg m e =>
    if m = 0 then t.signed neg 0
    else
      let q : Int := max ((m.log2 : Int) + e) (1 - t.b) - t.f
      let base := (q + t.f + t.b - 1).toNat * 2 ^ t.f
      let c := base + roundMag mode neg (base % 2 == 1) m e q
      t.signed neg (if t.maxCode < c then t.overflow mode neg else c)

/-! ## Exact arithmetic (R98, R107) -/

def FpVal.neg? : FpVal → Bool
  | .nan => false
  | .inf n => n
  | .fin n _ _ => n

def FpVal.flip : FpVal → FpVal
  | .nan => .nan
  | .inf n => .inf (!n)
  | .fin n m e => .fin (!n) m e

def FpVal.isZero : FpVal → Bool
  | .fin _ m _ => m == 0
  | _ => false

/-- The one form of an exact value: its mantissa is odd, or zero (R405). -/
def FpVal.canon : FpVal → FpVal
  | .fin n m e =>
    if m = 0 then .fin n 0 0
    else
      let k := (m &&& (2 ^ (m.log2 + 1) - m)).log2
      .fin n (m / 2 ^ k) (e + k)
  | v => v

/-- A long mantissa cut to its highest bits and a sticky bit. -/
def FpVal.cut : FpVal → FpVal
  | .fin n m e =>
    if m.log2 ≤ 72 then .fin n m e
    else
      let k := m.log2 - 72
      .fin n (2 * (m / 2 ^ k) + (if m % 2 ^ k = 0 then 0 else 1)) (e + k - 1)
  | v => v

/-- The signed integer of a finite value in units of `2^q`, q at most its exponent. -/
def finInt (neg : Bool) (m : Nat) (e q : Int) : Int :=
  let v : Int := m * 2 ^ (e - q).toNat
  if neg then -v else v

/-- The exact sum; the zero rule of R107 for every mode but RD, which no addition uses. -/
def FpVal.add : FpVal → FpVal → FpVal
  | .nan, _ => .nan
  | _, .nan => .nan
  | .inf a, .inf b => if a = b then .inf a else .nan
  | .inf a, _ => .inf a
  | _, .inf b => .inf b
  | .fin na ma ea, .fin nb mb eb =>
    if ma = 0 ∧ mb = 0 then .fin (na && nb) 0 0
    else
      let q := min ea eb
      let s := finInt na ma ea q + finInt nb mb eb q
      if s = 0 then .fin false 0 0 else .fin (decide (s < 0)) s.natAbs q

/-- The exact product; infinity × 0 is NaN. -/
def FpVal.mul : FpVal → FpVal → FpVal
  | .nan, _ => .nan
  | _, .nan => .nan
  | .inf a, .inf b => .inf (a != b)
  | .inf a, .fin b m _ => if m = 0 then .nan else .inf (a != b)
  | .fin a m _, .inf b => if m = 0 then .nan else .inf (a != b)
  | .fin na ma ea, .fin nb mb eb => .fin (na != nb) (ma * mb) (ea + eb)

/-- The exact product with `2^s`. -/
def FpVal.scale (s : Int) : FpVal → FpVal
  | .fin n m e => .fin n m (e + s)
  | v => v

/-- The order of two values, ±0 equal; none when either is NaN. -/
def FpVal.cmp : FpVal → FpVal → Option Ordering
  | .nan, _ => none
  | _, .nan => none
  | .inf a, .inf b => some (if a = b then .eq else if a then .lt else .gt)
  | .inf a, .fin _ _ _ => some (if a then .lt else .gt)
  | .fin _ _ _, .inf b => some (if b then .gt else .lt)
  | .fin na ma ea, .fin nb mb eb =>
    let q := min ea eb
    some (compare (finInt na ma ea q) (finInt nb mb eb q))

/-- The smaller (`mx` false) or larger value of R334: −0 below +0, a NaN yields the other operand. -/
def FpVal.pick (mx : Bool) (a b : FpVal) : FpVal :=
  match a, b with
  | .nan, y => y
  | x, .nan => x
  | x, y =>
    match FpVal.cmp x y with
    | some .lt => if mx then y else x
    | some .gt => if mx then x else y
    | _ => if x.neg? then (if mx then y else x) else (if mx then x else y)

/-! ## Elements: flush, clamp (R98, R108) -/

/-- A subnormal code. -/
def FpFmt.subnormal (t : FpFmt) (c : Nat) : Bool := c / 2 ^ t.f % 2 ^ t.e == 0 && c % 2 ^ t.f != 0

/-- FTZ of a code: a subnormal becomes zero of its sign. -/
def FpFmt.flush (t : FpFmt) (ftz : Bool) (c : Nat) : Nat :=
  if ftz && t.subnormal c then c / 2 ^ (t.e + t.f) * 2 ^ (t.e + t.f) else c

/-- One as a code. -/
def FpFmt.one (t : FpFmt) : Nat := t.encode 1 (.fin false 1 0)

/-- The destination clamp on a rounded code: 1 sat01, 2 satsym (R98). -/
def FpFmt.clamp (t : FpFmt) (clp : Nat) (c : Nat) : Nat :=
  let v := t.decode c
  if clp = 1 then
    match FpVal.cmp v (.fin false 0 0) with
    | some .gt => if FpVal.cmp v (.fin false 1 0) = some .gt then t.one else c
    | _ => 0
  else if clp = 2 then
    match FpVal.cmp v (.fin false 1 0) with
    | none => 0
    | some .gt => t.one
    | _ => if FpVal.cmp v (.fin true 1 0) = some .lt then t.signed true t.one else c
  else c

/-- A result delivered: scaled exactly, rounded once, flushed under FTZ, clamped (R98, R108). -/
def FpFmt.deliver (t : FpFmt) (mode : Nat) (s : Int) (ftz : Bool) (clp : Nat) (v : FpVal) : Nat :=
  t.clamp clp (t.flush ftz (t.encode mode (v.scale s)))

/-- The source modifiers on a code: absolute value clears the sign bit, negate flips it, NaN included (R98). -/
def FpFmt.modify (t : FpFmt) (n a : Bool) (c : Nat) : Nat :=
  let sb := 2 ^ (t.e + t.f)
  let c := if a then c % sb else c
  if n then (if c / sb % 2 = 1 then c - sb else c + sb) else c

/-! ## Integral rounding and integers (R339, R340) -/

/-- A finite value rounded to an integer in a mode. -/
def roundInt (mode : Nat) (neg : Bool) (m : Nat) (e : Int) : Int :=
  let n := roundMag mode neg false m e 0
  if neg then -(n : Int) else n

/-- R339: an f32 value to an integer range. -/
def FpVal.toIntRange (mode : Nat) (lo hi : Int) : FpVal → Int
  | .nan => 0
  | .inf n => if n then lo else hi
  | .fin n m e => max lo (min hi (roundInt mode n m e))

/-- R340: an integral value of the same format, the sign of zero kept. -/
def FpVal.integral (mode : Nat) : FpVal → FpVal
  | .fin n m e => if 0 ≤ e then .fin n m e else .fin n (roundMag mode n false m e 0) 0
  | v => v

def intFp (i : Int) : FpVal := .fin (decide (i < 0)) i.natAbs 0

/-! ## Special functions (R336, R337) -/

/-- The integer square root, `n` bits of it. -/
def isqrtFrom (x : Nat) : Nat → Nat → Nat
  | 0, r => r
  | n + 1, r => isqrtFrom x n (if (r + 2 ^ n) * (r + 2 ^ n) ≤ x then r + 2 ^ n else r)

def isqrt (x : Nat) : Nat := isqrtFrom x (x.log2 / 2 + 1) 0

/-- A quotient `a / b` in units of `2^-k`, its last bit sticky: exact enough for one rounding to any format. -/
def quotFp (neg : Bool) (a b k : Nat) (e : Int) : FpVal :=
  let n := a * 2 ^ k
  .fin neg (2 * (n / b) + (if n % b = 0 then 0 else 1)) (e - k - 1)

def recipFp (neg : Bool) (m : Nat) (e : Int) : FpVal := quotFp neg 1 m (m.log2 + 80) (-e)

/-- The square root of `m × 2^e`, its last bit sticky. -/
def sqrtFp (m : Nat) (e : Int) : FpVal :=
  let m' := if e % 2 = 0 then m else 2 * m
  let e' := if e % 2 = 0 then e else e - 1
  let x := m' * 2 ^ 160
  let r := isqrt x
  .fin false (2 * r + (if r * r = x then 0 else 1)) (e' / 2 - 81)

/-- Fixed point with 160 fraction bits, for the references of the bounded functions. -/
def fxOne : Nat := 2 ^ 160
def fxPi : Nat := 8112377246730971238862271351300894519161151600179265203591191037615230905373990498745523360926816815427566779727327576236
def fxLog2e : Nat := 2108501164428393954197770173035669514763056903505

/-- `2^(f / 2^160)` for f below 2^160, in fixed point: the product of the repeated square roots of two that f selects. -/
def exp2Frac (f : Nat) : Nat → Nat → Nat → Nat
  | 0, _, acc => acc
  | n + 1, root, acc =>
    let root := isqrt (root * fxOne)
    exp2Frac f n root (if f / 2 ^ (160 - (81 - (n + 1))) % 2 = 1 then acc * root / fxOne else acc)

/-- `2^(f / 2^160)`. -/
def fxExp2 (f : Nat) : Nat := exp2Frac f 80 (2 * fxOne) fxOne

/-- The fraction bits of log2 of a fixed-point value from 1 to 2, by repeated squaring. -/
def log2Frac : Nat → Nat → Nat → Nat
  | 0, _, acc => acc
  | n + 1, y, acc =>
    let y := y * y / fxOne
    if 2 * fxOne ≤ y then log2Frac n (y / 2) (2 * acc + 1) else log2Frac n y (2 * acc)

/-- The sum of a Taylor series in fixed point: `t` the term, `k` its index, `x2` the square. -/
def taylor (x2 : Int) : Nat → Int → Nat → Int → Int
  | 0, _, _, acc => acc
  | n + 1, t, k, acc =>
    let t := -(t * x2) / (fxOne : Int) / ((k + 1) * (k + 2))
    taylor x2 n t (k + 2) (acc + t)

/-- `|x|` reduced modulo 2π, in fixed point, for a finite magnitude. -/
def reduce2Pi (m : Nat) (e : Int) : Nat :=
  let p := 2 * fxPi
  let x := if 0 ≤ e + 400 then m * 2 ^ (e + 400).toNat else m / 2 ^ (-(e + 400)).toNat
  x % p / 2 ^ 240

/-- Reference values, exact to far less than the bounds of R336. -/
def sinRef (m : Nat) (e : Int) : FpVal :=
  let r : Int := reduce2Pi m e
  let pi : Int := fxPi / 2 ^ 240
  let r := if r > pi then r - 2 * pi else r
  let v := taylor (r * r / fxOne) 30 r 1 r
  .fin (decide (v < 0)) v.natAbs (-160)

def cosRef (m : Nat) (e : Int) : FpVal :=
  let r : Int := reduce2Pi m e
  let pi : Int := fxPi / 2 ^ 240
  let r := if r > pi then r - 2 * pi else r
  let v := taylor (r * r / fxOne) 30 fxOne 0 fxOne
  .fin (decide (v < 0)) v.natAbs (-160)

/-- `2^x` for a finite x, in which the integer part scales exactly. -/
def exp2Ref (neg : Bool) (m : Nat) (e : Int) : FpVal :=
  if 10 < (m.log2 : Int) + e then (if neg then .fin false 1 (-2000) else .fin false 1 2000)
  else
    let x := finInt neg (if 0 ≤ e + 160 then m * 2 ^ (e + 160).toNat else m / 2 ^ (-(e + 160)).toNat) 0 0
    .fin false (fxExp2 (x % (fxOne : Int)).toNat) (x / (fxOne : Int) - 160)

def log2Ref (m : Nat) (e : Int) : FpVal :=
  let y := m * 2 ^ (160 - m.log2)
  let v : Int := ((m.log2 : Int) + e) * 2 ^ 80 + log2Frac 80 y 0
  .fin (decide (v < 0)) v.natAbs (-80)

/-- tanh of a positive finite value below 9. -/
def tanhRef (m : Nat) (e : Int) : FpVal :=
  let x := if 0 ≤ e + 160 then m * 2 ^ (e + 160).toNat else m / 2 ^ (-(e + 160)).toNat
  let y := 2 * x * fxLog2e / fxOne
  let p := fxExp2 (y % fxOne) * 2 ^ (y / fxOne)
  quotFp false (p - fxOne) (p + fxOne) 80 0

/-- Whether a value lies within `2^b` of a reference. -/
def within (b : Int) (v r : FpVal) : Bool :=
  match FpVal.add v r.flip with
  | .fin _ m e => FpVal.cmp (.fin false m e) (.fin false 1 b) != some .gt
  | _ => false

/-- The exponent of one ulp of a reference value (R336). -/
def ulpExp : FpVal → Int
  | .fin _ m e => max ((m.log2 : Int) + e) (-126) - 23
  | _ => 0

/-- A delivered value of a bounded function: the implementation's own choice where it lies within the bound, else the
reference rounded to nearest (R336; log 8). -/
def bounded (fn : Nat) (arg : Nat) (b : Int) (r : FpVal) : Nat :=
  let c := (Config.fspec fn (BitVec.ofNat 32 arg)).toNat
  if within b (fp32.decode c) r then c else fp32.encode 1 r

/-- Whether a finite value is an integer. -/
def isIntegral (m : Nat) (e : Int) : Bool := 0 ≤ e || m % 2 ^ (-e).toNat == 0

/-- The result of a special function, as an f32 code, before the scale (R336, R337): `x` is the operand's code. -/
def fspecCode (fn : Nat) (x : Nat) : Nat :=
  let one := fp32.one
  match fn, fp32.decode x with
  | _, .nan => fp32.nanCode
  | 0, .inf n => fp32.signed n 0
  | 0, .fin n m e => if m = 0 then fp32.signed n fp32.infCode else fp32.encode 1 (recipFp n m e)
  | 1, .inf n => if n then fp32.nanCode else 0
  | 1, .fin n m e =>
    if m = 0 then fp32.signed n fp32.infCode
    else if n then fp32.nanCode
    else
      match sqrtFp m e with
      | .fin _ r k =>
        let q := recipFp false r k
        let exact := r % 2 == 0 && r == 2 ^ r.log2
        if exact then fp32.encode 1 q
        else if bitAt (Config.fspec 1 (BitVec.ofNat 32 x)) 0 then fp32.encode 4 q else fp32.encode 3 q
      | _ => fp32.nanCode
  | 2, .inf n => if n then fp32.nanCode else fp32.infCode
  | 2, .fin n m e => if m = 0 then fp32.signed n 0 else if n then fp32.nanCode else fp32.encode 1 (sqrtFp m e)
  | 3, .inf n => if n then 0 else fp32.infCode
  | 3, .fin n m e =>
    if m = 0 then one
    else
      let r := exp2Ref n m e
      let i := roundInt 3 n m e
      if isIntegral m e && (-149 ≤ i && i ≤ 127) then fp32.encode 1 (.fin false 1 i)
      else bounded 3 x (ulpExp r + 1) r
  | 4, .inf n => if n then fp32.nanCode else fp32.infCode
  | 4, .fin n m e =>
    if m = 0 then fp32.signed true fp32.infCode
    else if n then fp32.nanCode
    else if m = 2 ^ m.log2 then fp32.encode 1 (intFp ((m.log2 : Int) + e))
    else
      let r := log2Ref m e
      let near := FpVal.cmp (.fin false m e) (.fin false 1 (-1)) != some .lt && FpVal.cmp (.fin false m e) (.fin false 1 1) != some .gt
      bounded 4 x (if near then -22 else ulpExp r + 1) r
  | 5, .inf _ => fp32.nanCode
  | 5, .fin n m e =>
    if m = 0 then fp32.signed n 0 else fp32.modify n false (bounded 5 (x % 2 ^ 31) (-21) (sinRef m e))
  | 6, .inf _ => fp32.nanCode
  | 6, .fin _ m e => if m = 0 then one else bounded 6 (x % 2 ^ 31) (-21) (cosRef m e)
  | 7, .inf n => fp32.signed n one
  | 7, .fin n m e =>
    if m = 0 then fp32.signed n 0
    else if FpVal.cmp (.fin false m e) (.fin false 9 0) != some .lt then fp32.signed n one
    else fp32.modify n false (bounded 7 (x % 2 ^ 31) (-21) (tanhRef m e))
  | _, _ => fp32.nanCode

end Sys2Proof
end

