-- ==== Sys2Proof/WellFormed.lean ====
section
/-!
DEFINITION. Which instructions are legal (spec/16 R274, R276, R280, R287 and the entries of spec/17 to spec/20): the
register operands of each instruction, the checks of its fields, and the streams that accept it. A word whose
instruction is not legal in the stream that fetched it raises II (R274).
-/

namespace Sys2Proof

/-- An operand is read, or written, or both. -/
inductive Role where
  | src | dst
  deriving DecidableEq, Repr

/-- A register operand: its code, how many consecutive registers it names, whether only k (q) codes or gz may name it. -/
structure Opnd where
  code : BitVec 8
  n : Nat
  role : Role
  kOnly : Bool
  deriving DecidableEq, Repr

/-- `gz` (R7). -/
def isGz (c : BitVec 8) : Bool := c == 0xFF#8

/-- A g code (R7). -/
def isG (c : BitVec 8) : Bool := c.toNat < 0xC0

/-- A k code, or a q code in a sequencer stream (R7). -/
def isK (c : BitVec 8) : Bool := 0xC0 ≤ c.toNat && c.toNat ≤ 0xFE

/-- The number of the k or q register that a code names. -/
def kIdx (c : BitVec 8) : Nat := c.toNat - 0xC0

/-- A register, pair or quad code that R96 and R295 allow (the declared count apart, R93). -/
def codeOk (n : Nat) (c : BitVec 8) : Bool :=
  isGz c || (isG c && c.toNat % n == 0 && c.toNat + n ≤ 0xC0)
    || (isK c && kIdx c % n == 0 && (n == 1 || kIdx c + n ≤ 62))

/-- A predicate code in a field of 8 bits (R276). -/
def predOk (c : BitVec 8) : Bool := c.toNat < 8

/-- The types of R285 by class. -/
def isBit (ty : BitVec 4) : Bool := ty == 0 || ty == 10
def isSigned (ty : BitVec 4) : Bool := ty == 1 || ty == 6 || ty == 8 || ty == 11
def isUnsigned (ty : BitVec 4) : Bool := ty == 2 || ty == 7 || ty == 9 || ty == 12
def isInt (ty : BitVec 4) : Bool := isSigned ty || isUnsigned ty
def isFloat (ty : BitVec 4) : Bool := ty == 3 || ty == 4 || ty == 5
def is64 (ty : BitVec 4) : Bool := ty == 10 || ty == 11 || ty == 12
def isPacked (ty : BitVec 4) : Bool := 4 ≤ ty.toNat && ty.toNat ≤ 9

/-- Registers that an operand of the type takes (R96). -/
def nreg (ty : BitVec 4) : Nat := if is64 ty then 2 else 1

/-- Registers that V takes by SZ (R295). -/
def nregSz (sz : BitVec 3) : Nat := if sz == 3 then 2 else if sz == 4 then 4 else 1

/-- A guard other than !pt (R94). -/
def guardOk (gd : BitVec 4) : Bool := gd != 0xF#4

/-- Source modifiers of one source under R97; `on` says whether the entry lets the source carry them at all. -/
def modOk (ty : BitVec 4) (on : Bool) (n a : BitVec 1) : Bool := (n == 0 && a == 0) || (on && (isSigned ty || isFloat ty))

/-- CLP and SC under R97 for a destination of the type. -/
def clpScOk (ty : BitVec 4) (clp : BitVec 2) (sc : BitVec 3) : Bool :=
  if isFloat ty then clp != 3 else if isInt ty then (clp == 0 || clp == 3) && sc == 0 else clp == 0 && sc == 0

/-- The fields of an IALU instruction (R328): which types, whether B and C are used and may carry modifiers, whether
satint is accepted, and whether C is a register (a special C is checked by the caller). -/
def ialuOk (f : FmtA) (types : List Nat) (bUse bMod cUse cMod sat : Bool) : Bool :=
  types.contains f.ty.toNat && (f.clp == 0 || (sat && f.clp == 3)) && f.sc == 0
    && modOk f.ty true f.na f.aa && modOk f.ty bMod f.nb f.ab && modOk f.ty cMod f.nc f.ac
    && (bUse || isGz f.b) && (cUse || isGz f.c)

/-- The immediate of format B under R278. -/
def immOk (f : FmtB) : Bool :=
  (f.x == 0 && f.imm32 == 0 && (!(f.ty == 8 || f.ty == 9) || f.imm16.toNat < 256)) || (f.x == 1 && f.imm16 == 0)

/-- The fields of an IALUI instruction (R328); `cnt`: the immediate is a count, whose IMM16[15:8] is zero (R329). -/
def ialuiOk (f : FmtB) (types : List Nat) (sat cnt : Bool) : Bool :=
  types.contains f.ty.toNat && (f.clp == 0 || (sat && f.clp == 3)) && f.sc == 0 && modOk f.ty true f.na f.aa && immOk f
    && (!cnt || f.imm16.toNat < 256)

/-- The integer types, the 32 and 64-bit ones among them, and the bit types (R328). -/
def tInt : List Nat := [1, 2, 6, 7, 8, 9, 11, 12]
def tMul : List Nat := [1, 2, 6, 7, 11, 12]
def tI4 : List Nat := [1, 2, 11, 12]
def tBit : List Nat := [0, 10]

/-- The mode byte of R327 for an instruction other than FRND. -/
def modeOk (c : BitVec 8) : Bool := c == 0xFF#8 || c == 0xEF#8

/-- The fields of a two-source FALU instruction (R333). -/
def faluOk (f : FmtA) (fma : Bool) : Bool :=
  isFloat f.ty && clpScOk f.ty f.clp f.sc && (fma || (modeOk f.c && f.nc == 0 && f.ac == 0))

/-- FALUI (R333). -/
def faluiOk (f : FmtB) : Bool := isFloat f.ty && clpScOk f.ty f.clp f.sc && immOk f

/-- FSPEC (R336). -/
def fspecOk (f : FmtA) : Bool :=
  f.ty == 3 && clpScOk f.ty f.clp f.sc && isGz f.b && f.nb == 0 && f.ab == 0 && f.nc == 0 && f.ac == 0 && modeOk f.c

/-- ICMP and ICMPI (R331). -/
def icmpOk (cc : BitVec 5) (ty : BitVec 4) : Bool := tI4.contains ty.toNat || (isBit ty && cc.toNat < 2)

/-- CVT's source type and rounding code. -/
def cvtSrc (f : FmtA) : BitVec 4 := field f.c 4 4
def cvtRnd (f : FmtA) : BitVec 4 := field f.c 0 4

/-- The pairs of CVT (R338): whether B is a second source, whether NB selects the element, whether a rounding code is
accepted. -/
def cvtRow (d s : Nat) : Option (Bool × Bool × Bool) :=
  if d == 3 && (s == 4 || s == 5) then some (false, true, false)
  else if (d == 4 || d == 5) && s == 3 then some (true, false, true)
  else if (d == 4 && s == 5) || (d == 5 && s == 4) then some (false, false, true)
  else if d == 3 && tI4.contains s then some (false, false, true)
  else if tI4.contains d && s == 3 then some (false, false, true)
  else if (d == 6 || d == 7) && s == 3 then some (true, false, true)
  else if (d == 11 && s == 1) || (d == 12 && s == 2) then some (false, false, false)
  else if (d == 1 && s == 11) || (d == 2 && s == 12) || (d == 1 && s == 2) || (d == 2 && s == 1) then some (false, false, false)
  else if d == 3 && s == 3 then some (false, false, false)
  else none

/-- CVT (R338). -/
def cvtOk (f : FmtA) : Bool :=
  match cvtRow f.ty.toNat (cvtSrc f).toNat with
  | none => false
  | some (two, hi, rnd) =>
    f.nc == 0 && f.ac == 0 && ((cvtRnd f).toNat ≤ if rnd then 5 else 0) && clpScOk f.ty f.clp f.sc
      && modOk (cvtSrc f) true f.na f.aa
      && (if two then modOk (cvtSrc f) true f.nb f.ab else isGz f.b && f.ab == 0 && (hi || f.nb == 0))

/-- FRND (R327, R340). -/
def frndOk (f : FmtA) : Bool :=
  isFloat f.ty && clpScOk f.ty f.clp f.sc && isGz f.b && f.nb == 0 && f.ab == 0 && f.nc == 0 && f.ac == 0
    && (field f.c 4 4 == 0xF#4 || field f.c 4 4 == 0xE#4) && (field f.c 0 4).toNat ≤ 5

/-- The modifiers of the LANE group (R341); `grp`: field C is the group byte, otherwise gz. -/
def laneOk (f : FmtA) (grp : Bool) : Bool :=
  f.na == 0 && f.aa == 0 && f.nb == 0 && f.ab == 0 && f.nc == 0 && f.ac == 0 && f.sc == 0
    && (if grp then f.c.toNat ≤ 5 else isGz f.c)

/-- REDUX (R345). -/
def reduxOk (f : FmtA) : Bool :=
  let op := (field f.b 0 4).toNat
  laneOk f true && (field f.b 6 2 == 0) && (field f.b 4 2).toNat ≤ 2 && op ≤ 5
    && (if op ≤ 2 then tI4.contains f.ty.toNat || f.ty == 3 else isBit f.ty)
    && (f.clp == 0 || (f.clp == 3 && op == 0 && isInt f.ty))

/-- The FMT group (R346). -/
def fmtOk (f : FmtF) (mods clp sc : Bool) : Bool :=
  (mods || (f.na == 0 && f.aa == 0)) && f.ab == 0 && (if clp then f.clp != 3 else f.clp == 0) && (sc || f.sc == 0)
    && f.rm != 6 && f.rm != 7

/-- A field that must name a k (q) register, pair or quad, never gz. -/
def kReg (n : Nat) (c : BitVec 8) : Bool := isK c && codeOk n c

/-- The address base by SP (R23). -/
def abOk (sp : BitVec 2) (ab : BitVec 8) : Bool := if sp == 0 then codeOk 2 ab && !isK ab else codeOk 1 ab

/-- The extension word of format M (R280, R294): opaque width, cache policy (where allowed), all else zero. -/
def mExtOk (f : FmtM) (cphOk : Bool) : Bool :=
  (f.x == 1 || (f.ew == 0 && f.cph == 0)) && (if f.sz == 5 then f.x == 1 && 2 ≤ f.ew.toNat else f.ew == 0)
    && f.cph != 3 && (cphOk || f.cph == 0) && f.sprd == 0 && f.meth == 0 && f.opr == 0 && f.ty == 0

/-- A row of the table of R294. -/
def mRow (f : FmtM) (szs sps ords : List Nat) (sco cphOk : Bool) : Bool :=
  szs.contains f.sz.toNat && sps.contains f.sp.toNat && ords.contains f.ord.toNat && (sco || f.sco == 0) && mExtOk f cphOk
    && abOk f.sp f.ab

/-- ATOM (R162, R367). -/
def atomOk (f : FmtM) (types : List Nat) : Bool :=
  f.x == 1 && types.contains f.ty.toNat && (f.sz == if is64 f.ty then 3 else 2) && (f.sp == 0 || f.sp == 1)
    && abOk f.sp f.ab && f.ew == 0 && f.cph == 0 && f.sprd == 0 && f.meth == 0

/-- The operand registers of CAS: cmp and, next to it, new (R162). -/
def casOk (f : FmtM) : Bool :=
  let n := nreg f.ty
  isGz f.opr || (codeOk n f.opr && (if isG f.opr then f.opr.toNat + 2 * n ≤ 0xC0 else kIdx f.opr + 2 * n ≤ 63))

/-- CMB (R367). -/
def cmbOk (f : FmtM) : Bool :=
  f.x == 1 && f.sz == 3 && f.sp == 0 && abOk 0 f.ab && f.ew == 0 && f.cph == 0 && f.ty == 10

/-- The control registers of R390: 64-bit ones, 32-bit ones. -/
def csr64 : List Nat := [0x010, 0x012, 0x019]
def csr32 : List Nat := [0x000, 0x001, 0x002, 0x003, 0x004, 0x008, 0x009, 0x00A, 0x00B, 0x011, 0x018]

/-- Unused fields of format MX (R356). -/
def mxZero (f : FmtMX) : Bool :=
  f.fd == 0 && f.qn == 0 && f.qk == 0 && f.am == 0 && f.asrc == 0 && f.zc == 0 && f.fbk == 0


/-- The register operands of an instruction, in the order D, A, B, C (V, AB, OPR in format M). -/
def operands : Instr → List Opnd
  | .iadd f | .isub f | .imul f | .imulh f | .imin f | .imax f | .idif f | .and f | .or f | .xor f | .andn f => [⟨f.d, nreg f.ty, .dst, false⟩, ⟨f.a, nreg f.ty, .src, false⟩, ⟨f.b, nreg f.ty, .src, false⟩]
  | .imad f => [⟨f.d, nreg f.ty, .dst, false⟩, ⟨f.a, nreg f.ty, .src, false⟩, ⟨f.b, nreg f.ty, .src, false⟩, ⟨f.c, nreg f.ty, .src, false⟩]
  | .shl f | .shr f | .shra f | .rotl f | .bfe f | .lea f => [⟨f.d, nreg f.ty, .dst, false⟩, ⟨f.a, nreg f.ty, .src, false⟩, ⟨f.b, 1, .src, false⟩]
  | .popc f | .clz f | .brev f => [⟨f.d, nreg f.ty, .dst, false⟩, ⟨f.a, nreg f.ty, .src, false⟩]
  | .prmt f => [⟨f.d, nreg f.ty, .dst, false⟩, ⟨f.a, nreg f.ty, .src, false⟩, ⟨f.b, nreg f.ty, .src, false⟩, ⟨f.c, nreg f.ty, .src, false⟩]
  | .sel f => [⟨f.d, nreg f.ty, .dst, false⟩, ⟨f.a, nreg f.ty, .src, false⟩, ⟨f.b, nreg f.ty, .src, false⟩]
  | .bfi f => [⟨f.d, nreg f.ty, .dst, false⟩, ⟨f.a, nreg f.ty, .src, false⟩, ⟨f.b, 1, .src, false⟩, ⟨f.c, nreg f.ty, .src, false⟩]
  | .iaddImm f | .isubImm f | .imulImm f | .imulhImm f | .iminImm f | .imaxImm f | .idifImm f | .andImm f | .orImm f | .xorImm f | .andnImm f | .shlImm f | .shrImm f | .shraImm f | .rotlImm f | .bfeImm f => [⟨f.d, nreg f.ty, .dst, false⟩, ⟨f.a, nreg f.ty, .src, false⟩]
  | .icmp _ f => [⟨f.a, nreg f.ty, .src, false⟩, ⟨f.b, nreg f.ty, .src, false⟩]
  | .icmpi _ f => [⟨f.a, nreg f.ty, .src, false⟩]
  | .mov f => [⟨f.d, nreg f.ty, .dst, false⟩, ⟨f.a, nreg f.ty, .src, false⟩]
  | .movi f => [⟨f.d, nreg f.ty, .dst, false⟩]
  | .pmovGet f => [⟨f.d, 1, .dst, false⟩]
  | .pmovSet f => [⟨f.a, 1, .src, false⟩]
  | .fadd f | .fsub f | .fmul f | .fmin f | .fmax f => [⟨f.d, nreg f.ty, .dst, false⟩, ⟨f.a, nreg f.ty, .src, false⟩, ⟨f.b, nreg f.ty, .src, false⟩]
  | .ffma f => [⟨f.d, nreg f.ty, .dst, false⟩, ⟨f.a, nreg f.ty, .src, false⟩, ⟨f.b, nreg f.ty, .src, false⟩, ⟨f.c, nreg f.ty, .src, false⟩]
  | .faddImm f | .fsubImm f | .fmulImm f | .fminImm f | .fmaxImm f => [⟨f.d, nreg f.ty, .dst, false⟩, ⟨f.a, nreg f.ty, .src, false⟩]
  | .ffmaImm f => [⟨f.d, nreg f.ty, .dst, false⟩, ⟨f.d, nreg f.ty, .src, false⟩, ⟨f.a, nreg f.ty, .src, false⟩]
  | .fcmp _ f => [⟨f.a, nreg f.ty, .src, false⟩, ⟨f.b, nreg f.ty, .src, false⟩]
  | .frcp f | .frsq f | .fsqrt f | .fexp2 f | .flog2 f | .fsin f | .fcos f | .ftanh f => [⟨f.d, nreg f.ty, .dst, false⟩, ⟨f.a, nreg f.ty, .src, false⟩]
  | .cvt f => [⟨f.d, nreg f.ty, .dst, false⟩, ⟨f.a, nreg (cvtSrc f), .src, false⟩, ⟨f.b, 1, .src, false⟩]
  | .frnd f => [⟨f.d, nreg f.ty, .dst, false⟩, ⟨f.a, nreg f.ty, .src, false⟩]
  | .shfli f | .shflu f | .shfld f | .shflx f => [⟨f.d, nreg f.ty, .dst, false⟩, ⟨f.a, nreg f.ty, .src, false⟩, ⟨f.b, 1, .src, false⟩]
  | .vall _ | .vany _ => []
  | .vbal f => [⟨f.d, 1, .dst, false⟩]
  | .matchany f | .matchall f => [⟨f.d, 1, .dst, false⟩, ⟨f.a, nreg f.ty, .src, false⟩]
  | .redux f => [⟨f.d, nreg f.ty, .dst, false⟩, ⟨f.a, nreg f.ty, .src, false⟩]
  | .dec f => [⟨f.d, 1, .dst, false⟩, ⟨f.a, 1, .src, false⟩, ⟨f.b, 1, .src, false⟩]
  | .decBlk f => [⟨f.d, 1, .dst, false⟩, ⟨f.a, 2, .src, false⟩, ⟨f.b, 1, .src, false⟩]
  | .enc f | .req f => [⟨f.d, 1, .dst, false⟩, ⟨f.a, 1, .src, false⟩, ⟨f.b, 1, .src, false⟩]
  | .encBlk f => [⟨f.d, 2, .dst, false⟩, ⟨f.a, 1, .src, false⟩, ⟨f.b, 4, .src, true⟩]
  | .reqBlk f => [⟨f.d, 1, .dst, false⟩, ⟨f.a, 1, .src, false⟩, ⟨f.b, 2, .src, false⟩]
  | .sclq f => [⟨f.d, 1, .dst, false⟩, ⟨f.a, 1, .src, false⟩, ⟨f.b, 2, .src, true⟩]
  | .fmtq f => [⟨f.d, 1, .dst, false⟩, ⟨f.b, 1, .src, true⟩]
  | .slotbind f => [⟨f.a, 1, .src, true⟩]
  | .slotfence f => [⟨f.d, 1, .dst, true⟩]
  | .slotrel _ => []
  | .ld f | .ldf f | .ldfk f => [⟨f.v, nregSz f.sz, .dst, false⟩, ⟨f.ab, (if f.sp == 0 then 2 else 1), .src, false⟩]
  | .lda16 f => [⟨f.v, 2, .src, false⟩, ⟨f.ab, (if f.sp == 0 then 2 else 1), .src, false⟩]
  | .st f | .ste f | .stf f | .xstart f => [⟨f.v, nregSz f.sz, .src, false⟩, ⟨f.ab, (if f.sp == 0 then 2 else 1), .src, false⟩]
  | .tagclr f | .pref f | .ipref f | .cctlWb f | .cctlEvict f | .cctlPdrop f => [⟨f.ab, (if f.sp == 0 then 2 else 1), .src, false⟩]
  | .fence _ | .fencemir _ | .isync _ => []
  | .atomAdd f | .atomMin f | .atomMax f | .atomAnd f | .atomOr f | .atomXor f | .atomExch f => [⟨f.v, nreg f.ty, .dst, false⟩, ⟨f.ab, (if f.sp == 0 then 2 else 1), .src, false⟩, ⟨f.opr, nreg f.ty, .src, false⟩]
  | .atomCas f => ⟨f.v, nreg f.ty, .dst, false⟩ :: ⟨f.ab, (if f.sp == 0 then 2 else 1), .src, false⟩ :: ⟨f.opr, nreg f.ty, .src, false⟩ ::
      (if isGz f.opr then [] else [⟨f.opr + BitVec.ofNat 8 (nreg f.ty), nreg f.ty, .src, false⟩])
  | .cmb f => [⟨f.v, 2, .dst, false⟩, ⟨f.ab, (if f.sp == 0 then 2 else 1), .src, false⟩, ⟨f.opr, 2, .src, false⟩]
  | .cobjInit f => [⟨f.d, 1, .dst, true⟩, ⟨f.a, 2, .src, true⟩, ⟨f.a + 2#8, 1, .src, true⟩]
  | .cobjArm f => [⟨f.d, 1, .dst, true⟩, ⟨f.a, 2, .src, true⟩]
  | .cobjQuery f => [⟨f.d, 4, .dst, true⟩, ⟨f.a, 2, .src, true⟩]
  | .barinit f | .barsync f => [⟨f.a, 1, .src, false⟩]
  | .barinitNb _ | .nbarv _ | .nbwait _ | .nbsync _ => []
  | .bararv f => [⟨f.d, 1, .dst, false⟩, ⟨f.a, 1, .src, false⟩]
  | .barwait f => [⟨f.a, 1, .src, false⟩, ⟨f.b, 1, .src, false⟩]
  | .ringinit f => [⟨f.a, 1, .src, false⟩, ⟨f.b, 1, .src, false⟩]
  | .awaitf f | .yieldc f => [⟨f.d, 1, .dst, false⟩, ⟨f.a, 1, .src, false⟩, ⟨f.b, 1, .src, false⟩]
  | .rels f => [⟨f.d, 1, .src, false⟩, ⟨f.a, 1, .src, false⟩, ⟨f.b, 1, .src, false⟩]
  | .relsKeep f => [⟨f.a, 1, .src, false⟩, ⟨f.b, 1, .src, false⟩]
  | .xtset f => [⟨f.a, 1, .src, false⟩]
  | .xquery f => [⟨f.d, 1, .dst, false⟩]
  | .mma _ | .acz _ | .acdrn _ | .acclose _ => []
  | .acal f => [⟨f.d, 1, .dst, true⟩, ⟨f.a, 2, .src, true⟩]
  | .acfree _ | .acbandRel _ => []
  | .acstat f => [⟨f.d, 2, .dst, true⟩]
  | .acstatBlk f => [⟨f.d, 1, .dst, true⟩]
  | .acband f => [⟨f.a, 1, .src, true⟩]
  | .acrd f | .acrdclr f => [⟨f.d, 1, .dst, false⟩, ⟨f.a, 1, .src, false⟩, ⟨f.b, 1, .src, false⟩]
  | .dset f => [⟨f.a, 1, .src, false⟩]
  | .dsetW f => [⟨f.a, 2, .src, false⟩]
  | .bra _ | .exit _ | .regang _ | .brkpt _ | .nop _ => []
  | .brx f | .ret f => [⟨f.l, 2, .src, false⟩]
  | .call f => if f.t20 == 0 then [⟨f.l, 2, .dst, false⟩, ⟨f.l, 2, .src, false⟩] else [⟨f.l, 2, .dst, false⟩]
  | .fork f => [⟨f.a, 2, .src, true⟩]
  | .rdv _ | .seqend _ | .waitp _ | .trigger _ | .trap _ => []
  | .sow f => [⟨f.d, 1, .dst, false⟩, ⟨f.a, if bitAt f.sel 15 then 4 else 2, .src, true⟩]
  | .csrr f => [⟨f.d, if csr64.contains f.sel.toNat then 2 else 1, .dst, false⟩]
  | .csrw f => [⟨f.a, if csr64.contains f.sel.toNat then 2 else 1, .src, false⟩]
  | .svc f => [⟨f.d, 2, .dst, true⟩, ⟨f.a, 2, .src, true⟩]
  | .lease f => [⟨f.d, 1, .dst, false⟩, ⟨f.a, 2, .src, true⟩, ⟨f.a + 2#8, 1, .src, true⟩]
  | .unlease f => [⟨f.d, 1, .dst, false⟩, ⟨f.a, 1, .src, false⟩]
  | .slotReconfigureStart _ _ | .slotReconfigureEnd _ _ _ | .copyAccept _ | .copyChunk _ _ | .copyArrival _ _ | .lda16Arrival _ _ | .leaseExpiry _ _ | .routerRequestArrival _ _ | .atomHomePerform _ | .loadWriteback _ | .cmbRequestArrival _ | .combinerWaveStart _ | .combinerWaveEnd _ _ | .jobDispatch _ _ | .mmaOutputBlock _ _ | .matrixJobComplete _ _ | .acdrnLine _ | .tileClose _ _ | .rfetch _ | .bfx _ _ _ | .swait _ _ | .disp _ _ _ | .recLaunch _ _ | .recLaunchn _ _ _ _ | .recWaitsig _ _ _ | .recSetsig _ _ _ | .recSkipif _ _ _ _ _ | .recExec _ _ _ | .launchPlacement _ | .blockPlacement _ | .qslotMap _ _ _ | .qslotUnmap _ _ _ | .kick _ | .xlinvCtlWrite _ | .invalidationComplete | .walkerStart _ | .walkComplete _ | .homeAccessPerform _ | .hostAccess _ | .poolScrubRow _ _ _ _ | .poolFaultMapWrite _ _ _ | .preemptRequest _ _ | .budgetReached _ _ | .agentStop _ _ | .saveComplete _ | .evqiWrite _ _ | .ctxSave _ | .ctxRestore _ _ | .ctxTerminate _ | .flr _ | .fullReset _ | .mgmtbaseWrite _ | .fwload _ _ | .attest _ _ | .attestCerts _ | .confset _ _ | .dbgen _ | .rootact _ _ | .rootset _ _ | .rootdel _ _ | .usagereq _ _ | .usageRecordWrite _ | .keynewGenerate _ | .keynewImport _ | .keyerase _ | .tagset _ | .savesetCreate _ | .savesetRelease _ | .imgreg _ | .mondbUnknownCommand _ _ | .fwmqpop _ | .fwpostdb _ | .mircfgWrite _ | .mirrorWriteReceive _ _ _ | .fabricFlitReceive _ _ _ | .ethernetFrameReceive _ _ | .laneLoss _ | .powerCapInterval _ | .registerWrite _ _ _ _ | .regionActivation _ _ | .regionRetirement _ | .fallbackCounterClear _ | .instructionFetch _ | .icacheFillArrival _ _ | .linkTrained _ | .peerSilenceDetected _ => []

/-- Predicate operands besides the guard (R276): the predicate code and whether it is written. -/
def predOperands : Instr → List (Nat × Role)
  | .sel f => [(f.c.toNat % 8, .src)]
  | .icmp _ f => [(f.d.toNat % 8, .dst)]
  | .icmpi _ f => [(f.d.toNat % 8, .dst)]
  | .fcmp _ f => [(f.d.toNat % 8, .dst)]
  | .pmovGet f => (List.range 7).map fun n => (n, .src)
  | .pmovSet f => ((List.range 7).filter fun n => bitAt f.imm16 (8 + n)).map fun n => (n, .dst)
  | .vall f | .vany f => [(f.d.toNat % 8, .dst), (f.a.toNat % 8, .src)]
  | .vbal f => [(f.a.toNat % 8, .src)]
  | .cmb f => [(f.sprd.toNat, .dst)]
  | .barinit f | .barwait f | .barsync f | .nbwait f | .nbsync f => [(f.d.toNat % 8, .dst)]
  | .iadd _ | .isub _ | .imul _ | .imulh _ | .imad _ | .imin _ | .imax _ | .idif _ | .and _ | .or _ | .xor _ | .andn _ | .shl _ | .shr _ | .shra _ | .rotl _ | .popc _ | .clz _ | .brev _ | .prmt _ | .lea _ | .bfe _ | .bfi _ | .iaddImm _ | .isubImm _ | .imulImm _ | .imulhImm _ | .iminImm _ | .imaxImm _ | .idifImm _ | .andImm _ | .orImm _ | .xorImm _ | .andnImm _ | .shlImm _ | .shrImm _ | .shraImm _ | .rotlImm _ | .bfeImm _ | .mov _ | .movi _ | .fadd _ | .fsub _ | .fmul _ | .ffma _ | .fmin _ | .fmax _ | .faddImm _ | .fsubImm _ | .fmulImm _ | .ffmaImm _ | .fminImm _ | .fmaxImm _ | .frcp _ | .frsq _ | .fsqrt _ | .fexp2 _ | .flog2 _ | .fsin _ | .fcos _ | .ftanh _ | .cvt _ | .frnd _ | .shfli _ | .shflu _ | .shfld _ | .shflx _ | .matchany _ | .matchall _ | .redux _ | .dec _ | .decBlk _ | .enc _ | .encBlk _ | .req _ | .reqBlk _ | .sclq _ | .fmtq _ | .slotbind _ | .slotfence _ | .slotrel _ | .slotReconfigureStart _ _ | .slotReconfigureEnd _ _ _ | .ld _ | .ldf _ | .ldfk _ | .lda16 _ | .st _ | .ste _ | .stf _ | .tagclr _ | .xstart _ | .copyAccept _ | .copyChunk _ _ | .copyArrival _ _ | .lda16Arrival _ _ | .pref _ | .ipref _ | .cctlWb _ | .cctlEvict _ | .cctlPdrop _ | .fence _ | .fencemir _ | .isync _ | .xtset _ | .xquery _ | .ringinit _ | .awaitf _ | .rels _ | .relsKeep _ | .yieldc _ | .dset _ | .dsetW _ | .lease _ | .unlease _ | .leaseExpiry _ _ | .atomAdd _ | .atomMin _ | .atomMax _ | .atomAnd _ | .atomOr _ | .atomXor _ | .atomExch _ | .atomCas _ | .routerRequestArrival _ _ | .atomHomePerform _ | .loadWriteback _ | .cmbRequestArrival _ | .combinerWaveStart _ | .combinerWaveEnd _ _ | .cobjInit _ | .cobjArm _ | .cobjQuery _ | .barinitNb _ | .bararv _ | .nbarv _ | .bra _ | .brx _ | .call _ | .ret _ | .exit _ | .regang _ | .brkpt _ | .nop _ | .fork _ | .rdv _ | .seqend _ | .sow _ | .waitp _ | .trigger _ | .csrr _ | .csrw _ | .svc _ | .trap _ | .mma _ | .acz _ | .acdrn _ | .acclose _ | .jobDispatch _ _ | .mmaOutputBlock _ _ | .matrixJobComplete _ _ | .acdrnLine _ | .tileClose _ _ | .acal _ | .acfree _ | .acstat _ | .acstatBlk _ | .acband _ | .acbandRel _ | .acrd _ | .acrdclr _ | .rfetch _ | .bfx _ _ _ | .swait _ _ | .disp _ _ _ | .recLaunch _ _ | .recLaunchn _ _ _ _ | .recWaitsig _ _ _ | .recSetsig _ _ _ | .recSkipif _ _ _ _ _ | .recExec _ _ _ | .launchPlacement _ | .blockPlacement _ | .qslotMap _ _ _ | .qslotUnmap _ _ _ | .kick _ | .xlinvCtlWrite _ | .invalidationComplete | .walkerStart _ | .walkComplete _ | .homeAccessPerform _ | .hostAccess _ | .poolScrubRow _ _ _ _ | .poolFaultMapWrite _ _ _ | .preemptRequest _ _ | .budgetReached _ _ | .agentStop _ _ | .saveComplete _ | .evqiWrite _ _ | .ctxSave _ | .ctxRestore _ _ | .ctxTerminate _ | .flr _ | .fullReset _ | .mgmtbaseWrite _ | .fwload _ _ | .attest _ _ | .attestCerts _ | .confset _ _ | .dbgen _ | .rootact _ _ | .rootset _ _ | .rootdel _ _ | .usagereq _ _ | .usageRecordWrite _ | .keynewGenerate _ | .keynewImport _ | .keyerase _ | .tagset _ | .savesetCreate _ | .savesetRelease _ | .imgreg _ | .mondbUnknownCommand _ _ | .fwmqpop _ | .fwpostdb _ | .mircfgWrite _ | .mirrorWriteReceive _ _ _ | .fabricFlitReceive _ _ _ | .ethernetFrameReceive _ _ | .laneLoss _ | .powerCapInterval _ | .registerWrite _ _ _ _ | .regionActivation _ _ | .regionRetirement _ | .fallbackCounterClear _ | .instructionFetch _ | .icacheFillArrival _ _ | .linkTrained _ | .peerSilenceDetected _ => []

/-- The guard of an instruction; an event has none. -/
def guardOf : Instr → BitVec 4
  | .iadd f | .isub f | .imul f | .imulh f | .imad f | .imin f | .imax f | .idif f | .and f | .or f | .xor f | .andn f | .shl f | .shr f | .shra f | .rotl f | .popc f | .clz f | .brev f | .prmt f | .sel f | .lea f | .bfe f | .bfi f | .icmp _ f | .fadd f | .fsub f | .fmul f | .ffma f | .fmin f | .fmax f | .fcmp _ f | .frcp f | .frsq f | .fsqrt f | .fexp2 f | .flog2 f | .fsin f | .fcos f | .ftanh f | .cvt f | .frnd f | .shfli f | .shflu f | .shfld f | .shflx f | .vall f | .vany f | .vbal f | .matchany f | .matchall f | .redux f | .acrd f | .acrdclr f => f.gd
  | .iaddImm f | .isubImm f | .imulImm f | .imulhImm f | .iminImm f | .imaxImm f | .idifImm f | .andImm f | .orImm f | .xorImm f | .andnImm f | .shlImm f | .shrImm f | .shraImm f | .rotlImm f | .bfeImm f | .icmpi _ f | .mov f | .movi f | .pmovGet f | .pmovSet f | .faddImm f | .fsubImm f | .fmulImm f | .ffmaImm f | .fminImm f | .fmaxImm f => f.gd
  | .dec f | .decBlk f | .enc f | .encBlk f | .req f | .reqBlk f | .sclq f | .fmtq f => f.gd
  | .ld f | .ldf f | .ldfk f | .lda16 f | .st f | .ste f | .stf f | .tagclr f | .xstart f | .pref f | .ipref f | .cctlWb f | .cctlEvict f | .cctlPdrop f | .fence f | .fencemir f | .isync f | .atomAdd f | .atomMin f | .atomMax f | .atomAnd f | .atomOr f | .atomXor f | .atomExch f | .atomCas f | .cmb f => f.gd
  | .bra f | .brx f | .call f | .ret f | .exit f | .regang f | .brkpt f | .nop f => f.gd
  | .xtset f | .xquery f | .ringinit f | .awaitf f | .rels f | .relsKeep f | .yieldc f | .barinit f | .barinitNb f | .bararv f | .barwait f | .barsync f | .nbarv f | .nbwait f | .nbsync f => f.gd
  | .mma f | .acz f | .acdrn f | .acclose f => f.gd
  | .slotbind f | .slotfence f | .slotrel f | .dset f | .dsetW f | .lease f | .unlease f | .cobjInit f | .cobjArm f | .cobjQuery f | .fork f | .rdv f | .seqend f | .sow f | .waitp f | .trigger f | .csrr f | .csrw f | .svc f | .trap f | .acal f | .acfree f | .acstat f | .acstatBlk f | .acband f | .acbandRel f => f.gd
  | .slotReconfigureStart _ _ | .slotReconfigureEnd _ _ _ | .copyAccept _ | .copyChunk _ _ | .copyArrival _ _ | .lda16Arrival _ _ | .leaseExpiry _ _ | .routerRequestArrival _ _ | .atomHomePerform _ | .loadWriteback _ | .cmbRequestArrival _ | .combinerWaveStart _ | .combinerWaveEnd _ _ | .jobDispatch _ _ | .mmaOutputBlock _ _ | .matrixJobComplete _ _ | .acdrnLine _ | .tileClose _ _ | .rfetch _ | .bfx _ _ _ | .swait _ _ | .disp _ _ _ | .recLaunch _ _ | .recLaunchn _ _ _ _ | .recWaitsig _ _ _ | .recSetsig _ _ _ | .recSkipif _ _ _ _ _ | .recExec _ _ _ | .launchPlacement _ | .blockPlacement _ | .qslotMap _ _ _ | .qslotUnmap _ _ _ | .kick _ | .xlinvCtlWrite _ | .invalidationComplete | .walkerStart _ | .walkComplete _ | .homeAccessPerform _ | .hostAccess _ | .poolScrubRow _ _ _ _ | .poolFaultMapWrite _ _ _ | .preemptRequest _ _ | .budgetReached _ _ | .agentStop _ _ | .saveComplete _ | .evqiWrite _ _ | .ctxSave _ | .ctxRestore _ _ | .ctxTerminate _ | .flr _ | .fullReset _ | .mgmtbaseWrite _ | .fwload _ _ | .attest _ _ | .attestCerts _ | .confset _ _ | .dbgen _ | .rootact _ _ | .rootset _ _ | .rootdel _ _ | .usagereq _ _ | .usageRecordWrite _ | .keynewGenerate _ | .keynewImport _ | .keyerase _ | .tagset _ | .savesetCreate _ | .savesetRelease _ | .imgreg _ | .mondbUnknownCommand _ _ | .fwmqpop _ | .fwpostdb _ | .mircfgWrite _ | .mirrorWriteReceive _ _ _ | .fabricFlitReceive _ _ _ | .ethernetFrameReceive _ _ | .laneLoss _ | .powerCapInterval _ | .registerWrite _ _ _ _ | .regionActivation _ _ | .regionRetirement _ | .fallbackCounterClear _ | .instructionFetch _ | .icacheFillArrival _ _ | .linkTrained _ | .peerSilenceDetected _ => 7#4

/-- The checks of an instruction's own fields (R274 and its entry), the stream and the declared register count apart. -/
def fieldsOk : Instr → Bool
  | .iadd f | .isub f | .idif f => ialuOk f tInt true true false false true
  | .imul f => ialuOk f tMul true true false false true
  | .imulh f => ialuOk f tI4 true true false false false
  | .imin f | .imax f => ialuOk f tInt true true false false false
  | .and f | .or f | .xor f | .andn f => ialuOk f tBit true false false false false
  | .imad f => ialuOk f tI4 true true true true true
  | .shl f | .shr f | .rotl f => ialuOk f tBit true false false false false
  | .shra f => ialuOk f [1, 11] true false false false false
  | .popc f | .clz f | .brev f => ialuOk f tBit false false false false false
  | .prmt f => ialuOk f [0] true false true false false
  | .sel f => ialuOk f tBit true false true false false && predOk f.c
  | .lea f => ialuOk f [11, 12] true true true false false && predOk f.c
  | .bfe f => ialuOk f tI4 true false false false false
  | .bfi f => ialuOk f tBit true false true false false
  | .iaddImm f | .isubImm f | .idifImm f => ialuiOk f tInt true false
  | .imulImm f => ialuiOk f tMul true false
  | .imulhImm f => ialuiOk f tI4 false false
  | .iminImm f | .imaxImm f => ialuiOk f tInt false false
  | .andImm f | .orImm f | .xorImm f | .andnImm f => ialuiOk f tBit false false
  | .shlImm f | .shrImm f | .rotlImm f => ialuiOk f tBit false true
  | .shraImm f => ialuiOk f [1, 11] false true
  | .bfeImm f => ialuiOk f tI4 false false
  | .icmp cc f => cc.toNat < 6 && icmpOk cc f.ty && predOk f.d && isGz f.c && f.nc == 0 && f.ac == 0 && f.clp == 0
      && f.sc == 0 && modOk f.ty true f.na f.aa && modOk f.ty true f.nb f.ab
  | .icmpi cc f => cc.toNat < 6 && icmpOk cc f.ty && predOk f.d && f.clp == 0 && f.sc == 0 && modOk f.ty true f.na f.aa
      && immOk f
  | .mov f => f.imm16 == 0 && f.x == 0 && f.imm32 == 0 && f.ty.toNat ≤ 12 && clpScOk f.ty f.clp f.sc
      && modOk f.ty true f.na f.aa
  | .movi f => f.ty.toNat ≤ 12 && isGz f.a && f.na == 0 && f.aa == 0 && f.clp == 0 && f.sc == 0 && immOk f
  | .pmovGet f => f.ty == 0 && f.na == 0 && f.aa == 0 && f.clp == 0 && f.sc == 0 && f.x == 0 && f.imm32 == 0 && isGz f.a
      && !bitAt f.imm16 15 && field f.imm16 0 8 == 0
  | .pmovSet f => f.ty == 0 && f.na == 0 && f.aa == 0 && f.clp == 0 && f.sc == 0 && f.x == 0 && f.imm32 == 0 && isGz f.d
      && !bitAt f.imm16 15 && field f.imm16 0 8 == 1
  | .fadd f | .fsub f | .fmul f | .fmin f | .fmax f => faluOk f false
  | .ffma f => faluOk f true
  | .faddImm f | .fsubImm f | .fmulImm f | .ffmaImm f | .fminImm f | .fmaxImm f => faluiOk f
  | .fcmp cc f => cc.toNat < 8 && f.ty == 3 && predOk f.d && modeOk f.c && f.nc == 0 && f.ac == 0 && f.clp == 0 && f.sc == 0
  | .frcp f | .frsq f | .fsqrt f | .fexp2 f | .flog2 f | .fsin f | .fcos f | .ftanh f => fspecOk f
  | .cvt f => cvtOk f
  | .frnd f => frndOk f
  | .shfli f | .shflu f | .shfld f | .shflx f => laneOk f true && f.clp == 0 && isBit f.ty
  | .vall f | .vany f => laneOk f true && f.clp == 0 && f.ty == 0 && isGz f.b && predOk f.a && predOk f.d
  | .vbal f => laneOk f false && f.clp == 0 && f.ty == 0 && isGz f.b && predOk f.a
  | .matchany f | .matchall f => laneOk f false && f.clp == 0 && isBit f.ty && isGz f.b
  | .redux f => reduxOk f
  | .dec f => fmtOk f false true true && f.nb == 0
  | .decBlk f => fmtOk f false true true && f.nb == 1
  | .enc f => fmtOk f true false true && f.nb == 0
  | .encBlk f => fmtOk f true false true && f.nb == 1 && kReg 4 f.b
  | .req f => fmtOk f true true true && f.nb == 0
  | .reqBlk f => fmtOk f true true true && f.nb == 1
  | .sclq f => fmtOk f false false false && f.nb == 0 && kReg 2 f.b
  | .fmtq f => fmtOk f false false false && f.nb == 0 && isGz f.a
  | .slotbind f => f.sel.toNat < 8 && f.imm16 == 0 && isGz f.d
  | .slotfence f => f.sel.toNat < 8 && f.imm16 == 0 && isGz f.a
  | .slotrel f => f.sel.toNat < 8 && f.imm16 == 0 && isGz f.a && isGz f.d
  | .ld f => mRow f [0, 1, 2, 3, 4, 5] [0, 1] [0, 1] true true
  | .ldf f | .ldfk f => mRow f [2, 3] [1] [0, 1] true false
  | .lda16 f => mRow f [4] [0] [0, 1] true true && !isGz f.ab
  | .st f => mRow f [0, 1, 2, 3, 4, 5] [0, 1] [0, 2] true true
  | .xstart f => mRow f [3] [2] [0, 2] true true
  | .ste f | .stf f => mRow f [2, 3] [1] [0, 2] true false
  | .tagclr f => mRow f [2, 3] [1] [0, 2] true false && isGz f.v
  | .pref f => mRow f [0] [0] [0] false true && isGz f.v
  | .ipref f => mRow f [0] [0] [0] false false && isGz f.v
  | .cctlWb f => mRow f [0] [0] [0] false false && isGz f.v
  | .cctlEvict f => mRow f [1] [0] [0] false false && isGz f.v
  | .cctlPdrop f => mRow f [2] [0] [0] false false && isGz f.v
  | .fence f => mRow f [0] [0] [1, 2, 3] true false && isGz f.v && isGz f.ab && f.ofs == 0
  | .fencemir f | .isync f => mRow f [0] [0] [0] false false && isGz f.v && isGz f.ab && f.ofs == 0
  | .atomAdd f => atomOk f [1, 2, 11, 3, 4]
  | .atomMin f | .atomMax f => atomOk f [1, 2, 11, 12, 3]
  | .atomAnd f | .atomOr f | .atomXor f | .atomExch f => atomOk f [0, 10]
  | .atomCas f => atomOk f [0, 10] && casOk f
  | .cmb f => cmbOk f
  | .cobjInit f => f.imm16 == 0 && f.sel == 0 && kReg 2 f.a
  | .cobjArm f => f.imm16 == 0 && f.sel == 0 && kReg 2 f.a
  | .cobjQuery f => f.imm16 == 0 && f.sel == 0 && kReg 2 f.a
  | .barinit f => predOk f.d && isGz f.b && f.imm12 != 0 && f.nb == 0 && f.flg == 0
  | .barinitNb f => isGz f.d && isGz f.a && isGz f.b && f.imm12 != 0 && f.flg == 1
  | .bararv f => isGz f.b && f.imm12 == 0 && f.nb == 0 && f.flg == 0
  | .barwait f => predOk f.d && f.imm12 == 0 && f.nb == 0 && f.flg == 0
  | .barsync f => predOk f.d && isGz f.b && f.imm12 == 0 && f.nb == 0 && f.flg == 0
  | .nbarv f => isGz f.d && isGz f.a && isGz f.b && f.imm12 == 0 && f.flg == 0
  | .nbwait f | .nbsync f => predOk f.d && isGz f.a && isGz f.b && f.imm12 == 0 && f.flg == 0
  | .ringinit f => isGz f.d && f.nb == 0 && f.flg == 0
  | .awaitf f => f.nb == 0 && f.flg == 0
  | .rels f => f.nb == 0 && f.flg == 0
  | .relsKeep f => f.nb == 0 && f.flg == 1 && isGz f.d
  | .yieldc f => f.nb == 0 && f.flg == 0 && f.imm12 != 0
  | .xtset f => isGz f.d && isGz f.b && f.nb == 0 && f.flg == 0
  | .xquery f => isGz f.a && isGz f.b && f.nb == 0 && f.flg == 0
      && (f.imm12.toNat ≤ 1 || (0x40 ≤ f.imm12.toNat && f.imm12.toNat ≤ 0x7F))
  | .mma f => f.qm != 63 && f.qn != 63 && f.qk != 63 && f.am != 3 && (f.fbk == 1 || f.fd == 0)
  | .acz f => mxZero f && f.da == 0 && f.db == 0 && f.fa == 0 && f.fb == 0 && f.qm == 0
  | .acdrn f => mxZero f && f.da == 0 && f.fa == 0 && f.qm == 0
  | .acclose f => mxZero f && f.da == 0 && f.db == 0 && f.fb == 0 && f.qm != 63
  | .acal f => f.imm16 == 0 && f.sel.toNat < 32
  | .acfree f => f.imm16 == 0 && f.sel.toNat < 16 && isGz f.d && isGz f.a
  | .acstat f => f.imm16 == 0 && f.sel.toNat < 16 && isGz f.a
  | .acstatBlk f => f.imm16 == 0 && f.sel.toNat < 64 && bitAt f.sel 4 && isGz f.a
  | .acband f => f.imm16 == 0 && f.sel.toNat < 16 && isGz f.d
  | .acbandRel f => f.imm16 == 0 && f.sel.toNat < 32 && bitAt f.sel 4 && isGz f.d && isGz f.a
  | .acrd f | .acrdclr f => f.c.toNat < 16 && f.ty.toNat ≤ 12 && f.na == 0 && f.aa == 0 && f.nb == 0 && f.ab == 0
      && f.nc == 0 && f.ac == 0 && f.clp == 0 && f.sc == 0
  | .dset f => f.imm16 == 0 && isGz f.d && f.sel.toNat < 16
  | .dsetW f => f.imm16 == 0 && isGz f.d && f.sel.toNat < 256 && bitAt f.sel 7 && !bitAt f.sel 4
  | .bra f => f.l == 0
  | .brx f | .ret f => f.t20 == 0 && f.j20 == 0
  | .call f => f.j20 == 0
  | .exit f | .nop f => f.l == 0 && f.t20 == 0 && f.j20 == 0
  | .regang f => f.gd == 7 && f.t20 == 0 && f.j20 == 0
  | .brkpt f => f.t20 == 0 && f.j20 == 0
  | .fork f => isGz f.d && f.sel.toNat < 2 && (isGz f.a || f.imm16 == 0)
  | .rdv f => isGz f.d && isGz f.a && f.imm16 == 0 && f.sel.toNat < 2
  | .seqend f => isGz f.d && isGz f.a && f.imm16 == 0 && f.sel == 0
  | .sow f => (if bitAt f.sel 15 then f.imm16 == 0 && kReg 4 f.a else true) && f.sel.toNat % 0x8000 < 8
  | .waitp f | .trigger f => isGz f.d && isGz f.a && f.imm16 == 0 && f.sel == 0
  | .csrr f => isGz f.a && f.imm16 == 0 && (csr32.contains f.sel.toNat || csr64.contains f.sel.toNat)
  | .csrw f => isGz f.d && f.imm16 == 0 && (f.sel == 0x018 || f.sel == 0x019)
  | .svc f => f.imm16 == 0
  | .trap f => isGz f.d && isGz f.a && f.sel == 0
  | .lease f => f.imm16 == 0 && f.sel == 0 && kReg 2 f.a
  | .unlease f => f.imm16 == 0 && f.sel == 0
  | .slotReconfigureStart _ _ | .slotReconfigureEnd _ _ _ | .copyAccept _ | .copyChunk _ _ | .copyArrival _ _ | .lda16Arrival _ _ | .leaseExpiry _ _ | .routerRequestArrival _ _ | .atomHomePerform _ | .loadWriteback _ | .cmbRequestArrival _ | .combinerWaveStart _ | .combinerWaveEnd _ _ | .jobDispatch _ _ | .mmaOutputBlock _ _ | .matrixJobComplete _ _ | .acdrnLine _ | .tileClose _ _ | .rfetch _ | .bfx _ _ _ | .swait _ _ | .disp _ _ _ | .recLaunch _ _ | .recLaunchn _ _ _ _ | .recWaitsig _ _ _ | .recSetsig _ _ _ | .recSkipif _ _ _ _ _ | .recExec _ _ _ | .launchPlacement _ | .blockPlacement _ | .qslotMap _ _ _ | .qslotUnmap _ _ _ | .kick _ | .xlinvCtlWrite _ | .invalidationComplete | .walkerStart _ | .walkComplete _ | .homeAccessPerform _ | .hostAccess _ | .poolScrubRow _ _ _ _ | .poolFaultMapWrite _ _ _ | .preemptRequest _ _ | .budgetReached _ _ | .agentStop _ _ | .saveComplete _ | .evqiWrite _ _ | .ctxSave _ | .ctxRestore _ _ | .ctxTerminate _ | .flr _ | .fullReset _ | .mgmtbaseWrite _ | .fwload _ _ | .attest _ _ | .attestCerts _ | .confset _ _ | .dbgen _ | .rootact _ _ | .rootset _ _ | .rootdel _ _ | .usagereq _ _ | .usageRecordWrite _ | .keynewGenerate _ | .keynewImport _ | .keyerase _ | .tagset _ | .savesetCreate _ | .savesetRelease _ | .imgreg _ | .mondbUnknownCommand _ _ | .fwmqpop _ | .fwpostdb _ | .mircfgWrite _ | .mirrorWriteReceive _ _ _ | .fabricFlitReceive _ _ _ | .ethernetFrameReceive _ _ | .laneLoss _ | .powerCapInterval _ | .registerWrite _ _ _ _ | .regionActivation _ _ | .regionRetirement _ | .fallbackCounterClear _ | .instructionFetch _ | .icacheFillArrival _ _ | .linkTrained _ | .peerSilenceDetected _ => true

/-- The scalar instructions that the sequencer streams accept (R287). -/
def isScalar : Instr → Bool
  | .iadd _ | .isub _ | .imul _ | .imulh _ | .imad _ | .imin _ | .imax _ | .idif _ | .and _ | .or _ | .xor _ | .andn _ | .shl _ | .shr _ | .shra _ | .rotl _ | .popc _ | .clz _ | .brev _ | .prmt _ | .sel _ | .lea _ | .bfe _ | .bfi _ | .iaddImm _ | .isubImm _ | .imulImm _ | .imulhImm _ | .iminImm _ | .imaxImm _ | .idifImm _ | .andImm _ | .orImm _ | .xorImm _ | .andnImm _ | .shlImm _ | .shrImm _ | .shraImm _ | .rotlImm _ | .bfeImm _ | .icmp _ _ | .icmpi _ _ | .mov _ | .movi _ | .pmovGet _ | .pmovSet _ => true
  | _ => false

/-- The instructions each stream accepts (R287), and those a combiner method may hold (R171). -/
def accepts : Stream → Instr → Bool
  | .lane, i => match i with
    | .mma _ | .acz _ | .acdrn _ | .acclose _ | .seqend _ => false
    | .iadd _ | .isub _ | .imul _ | .imulh _ | .imad _ | .imin _ | .imax _ | .idif _ | .and _ | .or _ | .xor _ | .andn _ | .shl _ | .shr _ | .shra _ | .rotl _ | .popc _ | .clz _ | .brev _ | .prmt _ | .sel _ | .lea _ | .bfe _ | .bfi _ | .iaddImm _ | .isubImm _ | .imulImm _ | .imulhImm _ | .iminImm _ | .imaxImm _ | .idifImm _ | .andImm _ | .orImm _ | .xorImm _ | .andnImm _ | .shlImm _ | .shrImm _ | .shraImm _ | .rotlImm _ | .bfeImm _ | .icmp _ _ | .icmpi _ _ | .mov _ | .movi _ | .pmovGet _ | .pmovSet _ | .fadd _ | .fsub _ | .fmul _ | .ffma _ | .fmin _ | .fmax _ | .faddImm _ | .fsubImm _ | .fmulImm _ | .ffmaImm _ | .fminImm _ | .fmaxImm _ | .fcmp _ _ | .frcp _ | .frsq _ | .fsqrt _ | .fexp2 _ | .flog2 _ | .fsin _ | .fcos _ | .ftanh _ | .cvt _ | .frnd _ | .shfli _ | .shflu _ | .shfld _ | .shflx _ | .vall _ | .vany _ | .vbal _ | .matchany _ | .matchall _ | .redux _ | .dec _ | .decBlk _ | .enc _ | .encBlk _ | .req _ | .reqBlk _ | .sclq _ | .fmtq _ | .slotbind _ | .slotfence _ | .slotrel _ | .ld _ | .ldf _ | .ldfk _ | .lda16 _ | .st _ | .ste _ | .stf _ | .tagclr _ | .xstart _ | .pref _ | .ipref _ | .cctlWb _ | .cctlEvict _ | .cctlPdrop _ | .fence _ | .fencemir _ | .isync _ | .xtset _ | .xquery _ | .ringinit _ | .awaitf _ | .rels _ | .relsKeep _ | .yieldc _ | .dset _ | .dsetW _ | .lease _ | .unlease _ | .atomAdd _ | .atomMin _ | .atomMax _ | .atomAnd _ | .atomOr _ | .atomXor _ | .atomExch _ | .atomCas _ | .cmb _ | .cobjInit _ | .cobjArm _ | .cobjQuery _ | .barinit _ | .barinitNb _ | .bararv _ | .barwait _ | .barsync _ | .nbarv _ | .nbwait _ | .nbsync _ | .bra _ | .brx _ | .call _ | .ret _ | .exit _ | .regang _ | .brkpt _ | .nop _ | .fork _ | .rdv _ | .sow _ | .waitp _ | .trigger _ | .csrr _ | .csrw _ | .svc _ | .trap _ | .acal _ | .acfree _ | .acstat _ | .acstatBlk _ | .acband _ | .acbandRel _ | .acrd _ | .acrdclr _ => true
    | _ => false
  | .mx, i => isScalar i || match i with
    | .mma _ | .acz _ | .acdrn _ | .acclose _ | .acal _ | .acfree _ | .acstat _ | .acstatBlk _ | .acband _ | .acbandRel _ | .dset _ | .dsetW _ | .slotbind _ | .slotfence _ | .slotrel _ | .seqend _ | .nbarv _ | .nbwait _ | .nbsync _ => true
    | .bra f => f.j20 == 0
    | .brx _ | .call _ | .ret _ | .exit _ | .brkpt _ | .nop _ => true
    | _ => false
  | .cp, i => isScalar i || match i with
    | .xstart _ | .ringinit _ | .awaitf _ | .rels _ | .relsKeep _ | .xtset _ | .xquery _ | .seqend _ | .nbarv _ | .nbwait _ | .nbsync _ => true
    | .bra f => f.j20 == 0
    | .brx _ | .call _ | .ret _ | .exit _ | .brkpt _ | .nop _ => true
    | _ => false
  | .wave, i => isScalar i || match i with
    | .fadd _ | .fsub _ | .fmul _ | .ffma _ | .fmin _ | .fmax _ | .faddImm _ | .fsubImm _ | .fmulImm _ | .ffmaImm _ | .fminImm _ | .fmaxImm _ | .fcmp _ _ | .cvt _ | .shfli _ | .shflu _ | .shfld _ | .shflx _ | .vall _ | .vany _ | .vbal _ | .matchany _ | .matchall _ | .redux _ => true
    | .bra f => 0 < f.t20.toNat && f.t20.toNat < 0x80000
    | .exit _ => true
    | .ld f | .st f => f.sp == 1
    | _ => false

/-- The register codes a stream admits (R93, R287; R171 for a wave). -/
def streamCodeOk (st : Stream) (o : Opnd) : Bool :=
  codeOk o.n o.code && (!o.kOnly || !isG o.code) && match st with
    | .lane => true
    | .mx | .cp => !isG o.code
    | .wave => isGz o.code || (isG o.code && o.code.toNat + o.n ≤ 32) || (isK o.code && kIdx o.code + o.n ≤ 16)

/-- An instruction that is legal in a stream (R274): the stream accepts it, its guard is not !pt, its own fields are as
its entry says and its register codes are ones the stream admits. -/
def legal (st : Stream) (i : Instr) : Bool :=
  accepts st i && guardOk (guardOf i) && fieldsOk i && (operands i).all (streamCodeOk st)

/-- A row whose instruction is a word of a stream. -/
def isWord (i : Instr) : Bool := accepts .lane i || accepts .mx i || accepts .cp i

/-- A command record whose fields its entry admits: the conditions of SKIPIF are 1 to 3 (R228). -/
def recordOk : Instr → Bool
  | .recSkipif _ cond _ _ _ => 1 ≤ cond.toNat && cond.toNat ≤ 3
  | _ => true

/-- A well-formed instruction: a word legal in some stream, or a row that is no stream's word; a record as its entry admits it. -/
def wellFormed (i : Instr) : Bool := recordOk i && (!isWord i || legal .lane i || legal .mx i || legal .cp i)

/-- A declared register count that covers every g register the instruction names (R93). -/
def countOk (nregs : Nat) (i : Instr) : Bool := (operands i).all fun o => !isG o.code || o.code.toNat + o.n ≤ nregs

end Sys2Proof
end

