-- ==== Sys2Proof/Decode.lean ====
section
/-!
DEFINITION. The decoder and the encoder, written from the layouts of spec/16 (R273, R277 to R284) and spec/12 (R222,
R228): fields out of a word, fields into a word, the opcode map of R286. Decoding is total; what is no instruction is
rejected by the name of its defect, and raises II (R274) or, on a scheduler core, the illegal-instruction exception.
-/

namespace Sys2Proof

/-- Why a word is no instruction (R274; R222, R228). -/
inductive Reject where
  /-- OPC is not assigned (R286). -/
  | badOpcode
  /-- SUB names no mnemonic of the major opcode (R286). -/
  | badSub
  /-- A reserved field of the first or the extension word is not zero (R3). -/
  | reserved
  /-- X = 1 in a format that takes no extension word (R280). -/
  | noExtension
  /-- A field, a register, a modifier or a type that the entry or the stream does not accept (R274, R287). -/
  | illegalField
  deriving DecidableEq, Repr

/-- The first word of a format-A instruction. -/
def packA (opc : BitVec 7) (sub : BitVec 5) (f : FmtA) : DWord :=
  0#1 ++ opc ++ f.gd ++ f.d ++ f.a ++ f.b ++ f.c ++ f.na ++ f.aa ++ f.nb ++ f.ab ++ f.nc ++ f.ac ++ f.clp ++ f.sc ++ sub ++ f.ty

/-- The fields of a format-A instruction. -/
def unpackA (w : DWord) : FmtA where
  gd := field w 52 4
  d := field w 44 8
  a := field w 36 8
  b := field w 28 8
  c := field w 20 8
  na := field w 19 1
  aa := field w 18 1
  nb := field w 17 1
  ab := field w 16 1
  nc := field w 15 1
  ac := field w 14 1
  clp := field w 12 2
  sc := field w 9 3
  ty := field w 0 4

/-- The first word of a format-B instruction. -/
def packB (opc : BitVec 7) (sub : BitVec 5) (f : FmtB) : DWord :=
  f.x ++ opc ++ f.gd ++ f.d ++ f.a ++ f.imm16 ++ f.na ++ f.aa ++ f.clp ++ f.sc ++ sub ++ 0#4 ++ f.ty

/-- The fields of a format-B instruction. -/
def unpackB (w ext : DWord) : FmtB where
  x := field w 63 1
  gd := field w 52 4
  d := field w 44 8
  a := field w 36 8
  imm16 := field w 20 16
  na := field w 19 1
  aa := field w 18 1
  clp := field w 16 2
  sc := field w 13 3
  ty := field w 0 4
  imm32 := if bitAt w 63 then field ext 0 32 else 0

/-- The first word of a format-F instruction. -/
def packF (opc : BitVec 7) (sub : BitVec 5) (f : FmtF) : DWord :=
  0#1 ++ opc ++ f.gd ++ f.d ++ f.a ++ f.b ++ f.fs ++ f.ew ++ f.na ++ f.aa ++ f.nb ++ f.ab ++ 0#2 ++ f.clp ++ f.sc ++ sub ++ f.rm

/-- The fields of a format-F instruction. -/
def unpackF (w : DWord) : FmtF where
  gd := field w 52 4
  d := field w 44 8
  a := field w 36 8
  b := field w 28 8
  fs := field w 25 3
  ew := field w 20 5
  na := field w 19 1
  aa := field w 18 1
  nb := field w 17 1
  ab := field w 16 1
  clp := field w 12 2
  sc := field w 9 3
  rm := field w 0 4

/-- The first word of a format-M instruction. -/
def packM (opc : BitVec 7) (sub : BitVec 5) (f : FmtM) : DWord :=
  f.x ++ opc ++ f.gd ++ f.v ++ f.ab ++ f.ofs ++ f.sz ++ f.sp ++ f.ord ++ f.sco ++ sub

/-- The fields of a format-M instruction. -/
def unpackM (w ext : DWord) : FmtM where
  x := field w 63 1
  gd := field w 52 4
  v := field w 44 8
  ab := field w 36 8
  ofs := field w 14 22
  sz := field w 11 3
  sp := field w 9 2
  ord := field w 7 2
  sco := field w 5 2
  ew := if bitAt w 63 then field ext 27 5 else 0
  cph := if bitAt w 63 then field ext 25 2 else 0
  sprd := if bitAt w 63 then field ext 16 3 else 0
  meth := if bitAt w 63 then field ext 12 4 else 0
  opr := if bitAt w 63 then field ext 4 8 else 0
  ty := if bitAt w 63 then field ext 0 4 else 0

/-- The first word of a format-C instruction. -/
def packC (opc : BitVec 7) (sub : BitVec 4) (f : FmtC) : DWord :=
  0#1 ++ opc ++ f.gd ++ f.l ++ f.t20 ++ f.j20 ++ sub

/-- The fields of a format-C instruction. -/
def unpackC (w : DWord) : FmtC where
  gd := field w 52 4
  l := field w 44 8
  t20 := field w 24 20
  j20 := field w 4 20

/-- The first word of a format-Y instruction. -/
def packY (opc : BitVec 7) (sub : BitVec 4) (f : FmtY) : DWord :=
  0#1 ++ opc ++ f.gd ++ f.d ++ f.a ++ f.b ++ f.imm12 ++ f.nb ++ f.flg ++ sub ++ 0#4

/-- The fields of a format-Y instruction. -/
def unpackY (w : DWord) : FmtY where
  gd := field w 52 4
  d := field w 44 8
  a := field w 36 8
  b := field w 28 8
  imm12 := field w 16 12
  nb := field w 12 4
  flg := field w 8 4

/-- The first word of a format-MX instruction. -/
def packMX (opc : BitVec 7) (sub : BitVec 4) (f : FmtMX) : DWord :=
  0#1 ++ opc ++ f.gd ++ f.acc ++ f.da ++ f.db ++ f.fa ++ f.fb ++ f.fd ++ f.qm ++ f.qn ++ f.qk ++ f.am ++ f.asrc ++ f.zc ++ f.fbk ++ f.bn ++ sub

/-- The fields of a format-MX instruction. -/
def unpackMX (w : DWord) : FmtMX where
  gd := field w 52 4
  acc := field w 48 4
  da := field w 44 4
  db := field w 40 4
  fa := field w 37 3
  fb := field w 34 3
  fd := field w 31 3
  qm := field w 25 6
  qn := field w 19 6
  qk := field w 13 6
  am := field w 11 2
  asrc := field w 10 1
  zc := field w 9 1
  fbk := field w 8 1
  bn := field w 4 4

/-- The first word of a format-S instruction. -/
def packS (opc : BitVec 7) (sub : BitVec 4) (f : FmtS) : DWord :=
  0#1 ++ opc ++ f.gd ++ f.d ++ f.a ++ f.imm16 ++ f.sel ++ sub

/-- The fields of a format-S instruction. -/
def unpackS (w : DWord) : FmtS where
  gd := field w 52 4
  d := field w 44 8
  a := field w 36 8
  imm16 := field w 20 16
  sel := field w 4 16

/-- The extension word of a format-M instruction. -/
def packMExt (f : FmtM) : DWord :=
  if f.x = 1 then 0#32 ++ f.ew ++ f.cph ++ 0#6 ++ f.sprd ++ f.meth ++ f.opr ++ f.ty else 0

/-- The extension word of a format-B instruction. -/
def packBExt (f : FmtB) : DWord := if f.x = 1 then 0#32 ++ f.imm32 else 0

/-- The sub codes of major opcode 0x01 (R286). -/
def decode01 (w : DWord) : Except Reject Instr :=
  let f := unpackA w
  match (field w 4 5).toNat with
  | 0 => .ok (.iadd f)
  | 1 => .ok (.isub f)
  | 2 => .ok (.imul f)
  | 3 => .ok (.imulh f)
  | 4 => .ok (.imad f)
  | 5 => .ok (.imin f)
  | 6 => .ok (.imax f)
  | 7 => .ok (.idif f)
  | 8 => .ok (.and f)
  | 9 => .ok (.or f)
  | 10 => .ok (.xor f)
  | 11 => .ok (.andn f)
  | 12 => .ok (.shl f)
  | 13 => .ok (.shr f)
  | 14 => .ok (.shra f)
  | 15 => .ok (.rotl f)
  | 16 => .ok (.popc f)
  | 17 => .ok (.clz f)
  | 18 => .ok (.brev f)
  | 19 => .ok (.prmt f)
  | 20 => .ok (.sel f)
  | 21 => .ok (.lea f)
  | 22 => .ok (.bfe f)
  | 23 => .ok (.bfi f)
  | _ => .error .badSub

/-- The sub codes of major opcode 0x02 (R286). -/
def decode02 (w ext : DWord) : Except Reject Instr :=
  let f := unpackB w ext
  match (field w 8 5).toNat with
  | 0 => .ok (.iaddImm f)
  | 1 => .ok (.isubImm f)
  | 2 => .ok (.imulImm f)
  | 3 => .ok (.imulhImm f)
  | 5 => .ok (.iminImm f)
  | 6 => .ok (.imaxImm f)
  | 7 => .ok (.idifImm f)
  | 8 => .ok (.andImm f)
  | 9 => .ok (.orImm f)
  | 10 => .ok (.xorImm f)
  | 11 => .ok (.andnImm f)
  | 12 => .ok (.shlImm f)
  | 13 => .ok (.shrImm f)
  | 14 => .ok (.shraImm f)
  | 15 => .ok (.rotlImm f)
  | 22 => .ok (.bfeImm f)
  | _ => .error .badSub

/-- The sub codes of major opcode 0x03 (R286). -/
def decode03 (w : DWord) : Except Reject Instr :=
  if (field w 4 5).toNat < 6 then .ok (.icmp (field w 4 5) (unpackA w)) else .error .badSub

/-- The sub codes of major opcode 0x04 (R286). -/
def decode04 (w ext : DWord) : Except Reject Instr :=
  if (field w 8 5).toNat < 6 then .ok (.icmpi (field w 8 5) (unpackB w ext)) else .error .badSub

/-- The sub codes of major opcode 0x05 (R286). -/
def decode05 (w ext : DWord) : Except Reject Instr :=
  let f := unpackB w ext
  match (field w 8 5).toNat with
  | 0 => .ok (.mov f)
  | 1 => .ok (.movi f)
  | 2 => if f.imm16.getLsbD 0 = false then .ok (.pmovGet f) else .ok (.pmovSet f)
  | _ => .error .badSub

/-- The sub codes of major opcode 0x08 (R286). -/
def decode08 (w : DWord) : Except Reject Instr :=
  let f := unpackA w
  match (field w 4 5).toNat with
  | 0 => .ok (.fadd f)
  | 1 => .ok (.fsub f)
  | 2 => .ok (.fmul f)
  | 3 => .ok (.ffma f)
  | 4 => .ok (.fmin f)
  | 5 => .ok (.fmax f)
  | _ => .error .badSub

/-- The sub codes of major opcode 0x09 (R286). -/
def decode09 (w ext : DWord) : Except Reject Instr :=
  let f := unpackB w ext
  match (field w 8 5).toNat with
  | 0 => .ok (.faddImm f)
  | 1 => .ok (.fsubImm f)
  | 2 => .ok (.fmulImm f)
  | 3 => .ok (.ffmaImm f)
  | 4 => .ok (.fminImm f)
  | 5 => .ok (.fmaxImm f)
  | _ => .error .badSub

/-- The sub codes of major opcode 0x0A (R286). -/
def decode0A (w : DWord) : Except Reject Instr :=
  if (field w 4 5).toNat < 8 then .ok (.fcmp (field w 4 5) (unpackA w)) else .error .badSub

/-- The sub codes of major opcode 0x0B (R286). -/
def decode0B (w : DWord) : Except Reject Instr :=
  let f := unpackA w
  match (field w 4 5).toNat with
  | 0 => .ok (.frcp f)
  | 1 => .ok (.frsq f)
  | 2 => .ok (.fsqrt f)
  | 3 => .ok (.fexp2 f)
  | 4 => .ok (.flog2 f)
  | 5 => .ok (.fsin f)
  | 6 => .ok (.fcos f)
  | 7 => .ok (.ftanh f)
  | _ => .error .badSub

/-- The sub codes of major opcode 0x0C (R286). -/
def decode0C (w : DWord) : Except Reject Instr :=
  let f := unpackA w
  match (field w 4 5).toNat with
  | 0 => .ok (.cvt f)
  | _ => .error .badSub

/-- The sub codes of major opcode 0x0D (R286). -/
def decode0D (w : DWord) : Except Reject Instr :=
  let f := unpackA w
  match (field w 4 5).toNat with
  | 0 => .ok (.frnd f)
  | _ => .error .badSub

/-- The sub codes of major opcode 0x10 (R286). -/
def decode10 (w : DWord) : Except Reject Instr :=
  let f := unpackA w
  match (field w 4 5).toNat with
  | 0 => .ok (.shfli f)
  | 1 => .ok (.shflu f)
  | 2 => .ok (.shfld f)
  | 3 => .ok (.shflx f)
  | 4 => .ok (.vall f)
  | 5 => .ok (.vany f)
  | 6 => .ok (.vbal f)
  | 7 => .ok (.matchany f)
  | 8 => .ok (.matchall f)
  | 9 => .ok (.redux f)
  | _ => .error .badSub

/-- The sub codes of major opcode 0x18 (R286). -/
def decode18 (w : DWord) : Except Reject Instr :=
  let f := unpackF w
  match (field w 4 5).toNat with
  | 0 => if f.nb = 0 then .ok (.dec f) else .ok (.decBlk f)
  | 1 => if f.nb = 0 then .ok (.enc f) else .ok (.encBlk f)
  | 2 => if f.nb = 0 then .ok (.req f) else .ok (.reqBlk f)
  | 3 => .ok (.sclq f)
  | 4 => .ok (.fmtq f)
  | _ => .error .badSub

/-- The sub codes of major opcode 0x19 (R286). -/
def decode19 (w : DWord) : Except Reject Instr :=
  let f := unpackS w
  match (field w 0 4).toNat with
  | 0 => .ok (.slotbind f)
  | 1 => .ok (.slotfence f)
  | 2 => .ok (.slotrel f)
  | _ => .error .badSub

/-- The sub codes of major opcode 0x20 (R286). -/
def decode20 (w ext : DWord) : Except Reject Instr :=
  let f := unpackM w ext
  match (field w 0 5).toNat with
  | 0 => .ok (.ld f)
  | 1 => .ok (.ldf f)
  | 2 => .ok (.ldfk f)
  | 3 => .ok (.lda16 f)
  | _ => .error .badSub

/-- The sub codes of major opcode 0x21 (R286). -/
def decode21 (w ext : DWord) : Except Reject Instr :=
  let f := unpackM w ext
  match (field w 0 5).toNat with
  | 0 => if f.sp ≠ 2 then .ok (.st f) else .ok (.xstart f)
  | 1 => .ok (.ste f)
  | 2 => .ok (.stf f)
  | 3 => .ok (.tagclr f)
  | _ => .error .badSub

/-- The sub codes of major opcode 0x22 (R286). -/
def decode22 (w ext : DWord) : Except Reject Instr :=
  let f := unpackM w ext
  match (field w 0 5).toNat with
  | 0 => .ok (.pref f)
  | 1 => .ok (.ipref f)
  | 2 => if f.sz = 0 then .ok (.cctlWb f) else if f.sz = 1 then .ok (.cctlEvict f) else if f.sz = 2 then .ok (.cctlPdrop f) else .error .illegalField
  | _ => .error .badSub

/-- The sub codes of major opcode 0x23 (R286). -/
def decode23 (w ext : DWord) : Except Reject Instr :=
  let f := unpackM w ext
  match (field w 0 5).toNat with
  | 0 => .ok (.fence f)
  | 1 => .ok (.fencemir f)
  | 2 => .ok (.isync f)
  | _ => .error .badSub

/-- The sub codes of major opcode 0x32 (R286). -/
def decode32 (w : DWord) : Except Reject Instr :=
  let f := unpackY w
  match (field w 4 4).toNat with
  | 0 => .ok (.xtset f)
  | 1 => .ok (.xquery f)
  | _ => .error .badSub

/-- The sub codes of major opcode 0x31 (R286). -/
def decode31 (w : DWord) : Except Reject Instr :=
  let f := unpackY w
  match (field w 4 4).toNat with
  | 0 => .ok (.ringinit f)
  | 1 => .ok (.awaitf f)
  | 2 => if f.flg.getLsbD 0 = false then .ok (.rels f) else .ok (.relsKeep f)
  | 3 => .ok (.yieldc f)
  | _ => .error .badSub

/-- The sub codes of major opcode 0x3B (R286). -/
def decode3B (w : DWord) : Except Reject Instr :=
  let f := unpackS w
  match (field w 0 4).toNat with
  | 0 => if f.sel.getLsbD 7 = false then .ok (.dset f) else .ok (.dsetW f)
  | _ => .error .badSub

/-- The sub codes of major opcode 0x50 (R286). -/
def decode50 (w : DWord) : Except Reject Instr :=
  let f := unpackS w
  match (field w 0 4).toNat with
  | 0 => .ok (.sow f)
  | 1 => .ok (.waitp f)
  | 2 => .ok (.trigger f)
  | 3 => .ok (.csrr f)
  | 4 => .ok (.csrw f)
  | 5 => .ok (.svc f)
  | 6 => .ok (.trap f)
  | 7 => .ok (.lease f)
  | 8 => .ok (.unlease f)
  | _ => .error .badSub

/-- The sub codes of major opcode 0x28 (R286). -/
def decode28 (w ext : DWord) : Except Reject Instr :=
  let f := unpackM w ext
  match (field w 0 5).toNat with
  | 0 => .ok (.atomAdd f)
  | 1 => .ok (.atomMin f)
  | 2 => .ok (.atomMax f)
  | 3 => .ok (.atomAnd f)
  | 4 => .ok (.atomOr f)
  | 5 => .ok (.atomXor f)
  | 6 => .ok (.atomExch f)
  | 7 => .ok (.atomCas f)
  | _ => .error .badSub

/-- The sub codes of major opcode 0x29 (R286). -/
def decode29 (w ext : DWord) : Except Reject Instr :=
  let f := unpackM w ext
  match (field w 0 5).toNat with
  | 0 => .ok (.cmb f)
  | _ => .error .badSub

/-- The sub codes of major opcode 0x2A (R286). -/
def decode2A (w : DWord) : Except Reject Instr :=
  let f := unpackS w
  match (field w 0 4).toNat with
  | 0 => .ok (.cobjInit f)
  | 1 => .ok (.cobjArm f)
  | 2 => .ok (.cobjQuery f)
  | _ => .error .badSub

/-- The sub codes of major opcode 0x30 (R286). -/
def decode30 (w : DWord) : Except Reject Instr :=
  let f := unpackY w
  match (field w 4 4).toNat with
  | 0 => if f.flg.getLsbD 0 = false then .ok (.barinit f) else .ok (.barinitNb f)
  | 1 => .ok (.bararv f)
  | 2 => .ok (.barwait f)
  | 3 => .ok (.barsync f)
  | 4 => .ok (.nbarv f)
  | 5 => .ok (.nbwait f)
  | 6 => .ok (.nbsync f)
  | _ => .error .badSub

/-- The sub codes of major opcode 0x40 (R286). -/
def decode40 (w : DWord) : Except Reject Instr :=
  let f := unpackC w
  match (field w 0 4).toNat with
  | 0 => .ok (.bra f)
  | 1 => .ok (.brx f)
  | 2 => .ok (.call f)
  | 3 => .ok (.ret f)
  | 4 => .ok (.exit f)
  | 5 => .ok (.regang f)
  | 6 => .ok (.brkpt f)
  | 7 => .ok (.nop f)
  | _ => .error .badSub

/-- The sub codes of major opcode 0x48 (R286). -/
def decode48 (w : DWord) : Except Reject Instr :=
  let f := unpackS w
  match (field w 0 4).toNat with
  | 0 => .ok (.fork f)
  | 1 => .ok (.rdv f)
  | 2 => .ok (.seqend f)
  | _ => .error .badSub

/-- The sub codes of major opcode 0x38 (R286). -/
def decode38 (w : DWord) : Except Reject Instr :=
  let f := unpackMX w
  match (field w 0 4).toNat with
  | 0 => .ok (.mma f)
  | 1 => .ok (.acz f)
  | 2 => .ok (.acdrn f)
  | 3 => .ok (.acclose f)
  | _ => .error .badSub

/-- The sub codes of major opcode 0x39 (R286). -/
def decode39 (w : DWord) : Except Reject Instr :=
  let f := unpackS w
  match (field w 0 4).toNat with
  | 0 => .ok (.acal f)
  | 1 => .ok (.acfree f)
  | 2 => if f.sel.getLsbD 4 = false then .ok (.acstat f) else .ok (.acstatBlk f)
  | 3 => if f.sel.getLsbD 4 = false then .ok (.acband f) else .ok (.acbandRel f)
  | _ => .error .badSub

/-- The sub codes of major opcode 0x3A (R286). -/
def decode3A (w : DWord) : Except Reject Instr :=
  let f := unpackA w
  match (field w 4 5).toNat with
  | 0 => .ok (.acrd f)
  | 1 => .ok (.acrdclr f)
  | _ => .error .badSub

/-- The instruction of a first word and its extension word, before the checks of its fields. -/
def decodeRaw (w ext : DWord) : Except Reject Instr :=
  match (field w 56 7).toNat with
  | 0x01 => if field w 63 1 = 1 then .error .noExtension else decode01 w
  | 0x02 => if field w 4 4 = 0 ∧ (field w 63 1 = 0 ∨ field ext 32 32 = 0) then decode02 w ext else .error .reserved
  | 0x03 => if field w 63 1 = 1 then .error .noExtension else decode03 w
  | 0x04 => if field w 4 4 = 0 ∧ (field w 63 1 = 0 ∨ field ext 32 32 = 0) then decode04 w ext else .error .reserved
  | 0x05 => if field w 4 4 = 0 ∧ (field w 63 1 = 0 ∨ field ext 32 32 = 0) then decode05 w ext else .error .reserved
  | 0x08 => if field w 63 1 = 1 then .error .noExtension else decode08 w
  | 0x09 => if field w 4 4 = 0 ∧ (field w 63 1 = 0 ∨ field ext 32 32 = 0) then decode09 w ext else .error .reserved
  | 0x0A => if field w 63 1 = 1 then .error .noExtension else decode0A w
  | 0x0B => if field w 63 1 = 1 then .error .noExtension else decode0B w
  | 0x0C => if field w 63 1 = 1 then .error .noExtension else decode0C w
  | 0x0D => if field w 63 1 = 1 then .error .noExtension else decode0D w
  | 0x10 => if field w 63 1 = 1 then .error .noExtension else decode10 w
  | 0x18 => if field w 63 1 = 1 then .error .noExtension else if field w 14 2 = 0 then decode18 w else .error .reserved
  | 0x19 => if field w 63 1 = 1 then .error .noExtension else decode19 w
  | 0x20 => if field w 63 1 = 0 ∨ (field ext 32 32 = 0 ∧ field ext 19 6 = 0) then decode20 w ext else .error .reserved
  | 0x21 => if field w 63 1 = 0 ∨ (field ext 32 32 = 0 ∧ field ext 19 6 = 0) then decode21 w ext else .error .reserved
  | 0x22 => if field w 63 1 = 0 ∨ (field ext 32 32 = 0 ∧ field ext 19 6 = 0) then decode22 w ext else .error .reserved
  | 0x23 => if field w 63 1 = 0 ∨ (field ext 32 32 = 0 ∧ field ext 19 6 = 0) then decode23 w ext else .error .reserved
  | 0x32 => if field w 63 1 = 1 then .error .noExtension else if field w 0 4 = 0 then decode32 w else .error .reserved
  | 0x31 => if field w 63 1 = 1 then .error .noExtension else if field w 0 4 = 0 then decode31 w else .error .reserved
  | 0x3B => if field w 63 1 = 1 then .error .noExtension else decode3B w
  | 0x50 => if field w 63 1 = 1 then .error .noExtension else decode50 w
  | 0x28 => if field w 63 1 = 0 ∨ (field ext 32 32 = 0 ∧ field ext 19 6 = 0) then decode28 w ext else .error .reserved
  | 0x29 => if field w 63 1 = 0 ∨ (field ext 32 32 = 0 ∧ field ext 19 6 = 0) then decode29 w ext else .error .reserved
  | 0x2A => if field w 63 1 = 1 then .error .noExtension else decode2A w
  | 0x30 => if field w 63 1 = 1 then .error .noExtension else if field w 0 4 = 0 then decode30 w else .error .reserved
  | 0x40 => if field w 63 1 = 1 then .error .noExtension else decode40 w
  | 0x48 => if field w 63 1 = 1 then .error .noExtension else decode48 w
  | 0x38 => if field w 63 1 = 1 then .error .noExtension else decode38 w
  | 0x39 => if field w 63 1 = 1 then .error .noExtension else decode39 w
  | 0x3A => if field w 63 1 = 1 then .error .noExtension else decode3A w
  | _ => .error .badOpcode

/-- The instruction that a stream reads from a first word and its extension word (R273, R274, R287); the extension word
counts only where X = 1. -/
def decode (st : Stream) (w ext : DWord) : Except Reject Instr :=
  match decodeRaw w ext with
  | .ok i => if legal st i then .ok i else .error .illegalField
  | .error e => .error e

/-- An instruction word of a scheduler core that is of the Xdisp extension (R222). `none`: the word lies outside
custom-0 and custom-1. -/
def decodeXdisp (w : Word) : Option (Except Reject Instr) :=
  let f3 := (field w 12 3).toNat
  let f7 := field w 25 7
  let rd := field w 7 5
  let rs1 := field w 15 5
  let rs2 := field w 20 5
  match (field w 0 7).toNat with
  | 0x0B =>
    if f7 ≠ 0 then some (.error .badSub)
    else if f3 = 0 then some (if rs1 = 0 ∧ rs2 = 0 then .ok (.rfetch rd) else .error .reserved)
    else if f3 = 1 then some (.ok (.bfx rd rs1 rs2))
    else some (.error .badSub)
  | 0x2B =>
    if f7 ≠ 0 then some (.error .badSub)
    else if f3 = 0 then some (if rs2 = 0 then .ok (.swait rd rs1) else .error .reserved)
    else if f3 = 1 then some (.ok (.disp rd rs1 rs2))
    else some (.error .badSub)
  | _ => none

/-- The command record of slot `slot` held in eight dwords (R228): OP in dword 0 [63:56], every unnamed field zero. -/
def decodeRecord (slot : Nat) (d : List DWord) : Except Reject Instr :=
  let at' (n : Nat) : DWord := d.getD n 0
  let zeroFrom (n : Nat) : Bool := (d.drop n).all (· == 0)
  let d0 := at' 0
  let low := field d0 0 56
  match (field d0 56 8).toNat with
  | 0x01 => if low = 0 ∧ zeroFrom 2 then .ok (.recLaunch slot (at' 1)) else .error .reserved
  | 0x02 => if low = 0 ∧ zeroFrom 4 then .ok (.recLaunchn slot (at' 1) (at' 2) (at' 3)) else .error .reserved
  | 0x03 => if low = 0 ∧ zeroFrom 3 then .ok (.recWaitsig slot (at' 1) (at' 2)) else .error .reserved
  | 0x04 => if low = 0 ∧ zeroFrom 3 then .ok (.recSetsig slot (at' 1) (at' 2)) else .error .reserved
  | 0x05 =>
    let cond := field d0 32 4
    if field d0 36 20 = 0 ∧ field d0 16 16 = 0 ∧ zeroFrom 3 then
      if cond.toNat = 0 ∨ 3 < cond.toNat then .error .illegalField
      else .ok (.recSkipif slot cond (field d0 0 16) (at' 1) (at' 2))
    else .error .reserved
  | 0x06 => if low = 0 ∧ zeroFrom 3 then .ok (.recExec slot (at' 1) (at' 2)) else .error .reserved
  | _ => .error .badOpcode

/-- The first word of an instruction of a stream; 0 for a row that is none. -/
def encodeWord : Instr → DWord
  | .iadd f => packA 0x01#7 0x0#5 f
  | .isub f => packA 0x01#7 0x1#5 f
  | .imul f => packA 0x01#7 0x2#5 f
  | .imulh f => packA 0x01#7 0x3#5 f
  | .imad f => packA 0x01#7 0x4#5 f
  | .imin f => packA 0x01#7 0x5#5 f
  | .imax f => packA 0x01#7 0x6#5 f
  | .idif f => packA 0x01#7 0x7#5 f
  | .and f => packA 0x01#7 0x8#5 f
  | .or f => packA 0x01#7 0x9#5 f
  | .xor f => packA 0x01#7 0xA#5 f
  | .andn f => packA 0x01#7 0xB#5 f
  | .shl f => packA 0x01#7 0xC#5 f
  | .shr f => packA 0x01#7 0xD#5 f
  | .shra f => packA 0x01#7 0xE#5 f
  | .rotl f => packA 0x01#7 0xF#5 f
  | .popc f => packA 0x01#7 0x10#5 f
  | .clz f => packA 0x01#7 0x11#5 f
  | .brev f => packA 0x01#7 0x12#5 f
  | .prmt f => packA 0x01#7 0x13#5 f
  | .sel f => packA 0x01#7 0x14#5 f
  | .lea f => packA 0x01#7 0x15#5 f
  | .bfe f => packA 0x01#7 0x16#5 f
  | .bfi f => packA 0x01#7 0x17#5 f
  | .iaddImm f => packB 0x02#7 0x0#5 f
  | .isubImm f => packB 0x02#7 0x1#5 f
  | .imulImm f => packB 0x02#7 0x2#5 f
  | .imulhImm f => packB 0x02#7 0x3#5 f
  | .iminImm f => packB 0x02#7 0x5#5 f
  | .imaxImm f => packB 0x02#7 0x6#5 f
  | .idifImm f => packB 0x02#7 0x7#5 f
  | .andImm f => packB 0x02#7 0x8#5 f
  | .orImm f => packB 0x02#7 0x9#5 f
  | .xorImm f => packB 0x02#7 0xA#5 f
  | .andnImm f => packB 0x02#7 0xB#5 f
  | .shlImm f => packB 0x02#7 0xC#5 f
  | .shrImm f => packB 0x02#7 0xD#5 f
  | .shraImm f => packB 0x02#7 0xE#5 f
  | .rotlImm f => packB 0x02#7 0xF#5 f
  | .bfeImm f => packB 0x02#7 0x16#5 f
  | .icmp cc f => packA 0x03#7 cc f
  | .icmpi cc f => packB 0x04#7 cc f
  | .mov f => packB 0x05#7 0x0#5 f
  | .movi f => packB 0x05#7 0x1#5 f
  | .pmovGet f => packB 0x05#7 0x2#5 f
  | .pmovSet f => packB 0x05#7 0x2#5 f
  | .fadd f => packA 0x08#7 0x0#5 f
  | .fsub f => packA 0x08#7 0x1#5 f
  | .fmul f => packA 0x08#7 0x2#5 f
  | .ffma f => packA 0x08#7 0x3#5 f
  | .fmin f => packA 0x08#7 0x4#5 f
  | .fmax f => packA 0x08#7 0x5#5 f
  | .faddImm f => packB 0x09#7 0x0#5 f
  | .fsubImm f => packB 0x09#7 0x1#5 f
  | .fmulImm f => packB 0x09#7 0x2#5 f
  | .ffmaImm f => packB 0x09#7 0x3#5 f
  | .fminImm f => packB 0x09#7 0x4#5 f
  | .fmaxImm f => packB 0x09#7 0x5#5 f
  | .fcmp cc f => packA 0x0A#7 cc f
  | .frcp f => packA 0x0B#7 0x0#5 f
  | .frsq f => packA 0x0B#7 0x1#5 f
  | .fsqrt f => packA 0x0B#7 0x2#5 f
  | .fexp2 f => packA 0x0B#7 0x3#5 f
  | .flog2 f => packA 0x0B#7 0x4#5 f
  | .fsin f => packA 0x0B#7 0x5#5 f
  | .fcos f => packA 0x0B#7 0x6#5 f
  | .ftanh f => packA 0x0B#7 0x7#5 f
  | .cvt f => packA 0x0C#7 0x0#5 f
  | .frnd f => packA 0x0D#7 0x0#5 f
  | .shfli f => packA 0x10#7 0x0#5 f
  | .shflu f => packA 0x10#7 0x1#5 f
  | .shfld f => packA 0x10#7 0x2#5 f
  | .shflx f => packA 0x10#7 0x3#5 f
  | .vall f => packA 0x10#7 0x4#5 f
  | .vany f => packA 0x10#7 0x5#5 f
  | .vbal f => packA 0x10#7 0x6#5 f
  | .matchany f => packA 0x10#7 0x7#5 f
  | .matchall f => packA 0x10#7 0x8#5 f
  | .redux f => packA 0x10#7 0x9#5 f
  | .dec f => packF 0x18#7 0x0#5 f
  | .decBlk f => packF 0x18#7 0x0#5 f
  | .enc f => packF 0x18#7 0x1#5 f
  | .encBlk f => packF 0x18#7 0x1#5 f
  | .req f => packF 0x18#7 0x2#5 f
  | .reqBlk f => packF 0x18#7 0x2#5 f
  | .sclq f => packF 0x18#7 0x3#5 f
  | .fmtq f => packF 0x18#7 0x4#5 f
  | .slotbind f => packS 0x19#7 0x0#4 f
  | .slotfence f => packS 0x19#7 0x1#4 f
  | .slotrel f => packS 0x19#7 0x2#4 f
  | .ld f => packM 0x20#7 0x0#5 f
  | .ldf f => packM 0x20#7 0x1#5 f
  | .ldfk f => packM 0x20#7 0x2#5 f
  | .lda16 f => packM 0x20#7 0x3#5 f
  | .st f => packM 0x21#7 0x0#5 f
  | .ste f => packM 0x21#7 0x1#5 f
  | .stf f => packM 0x21#7 0x2#5 f
  | .tagclr f => packM 0x21#7 0x3#5 f
  | .xstart f => packM 0x21#7 0x0#5 f
  | .pref f => packM 0x22#7 0x0#5 f
  | .ipref f => packM 0x22#7 0x1#5 f
  | .cctlWb f => packM 0x22#7 0x2#5 f
  | .cctlEvict f => packM 0x22#7 0x2#5 f
  | .cctlPdrop f => packM 0x22#7 0x2#5 f
  | .fence f => packM 0x23#7 0x0#5 f
  | .fencemir f => packM 0x23#7 0x1#5 f
  | .isync f => packM 0x23#7 0x2#5 f
  | .xtset f => packY 0x32#7 0x0#4 f
  | .xquery f => packY 0x32#7 0x1#4 f
  | .ringinit f => packY 0x31#7 0x0#4 f
  | .awaitf f => packY 0x31#7 0x1#4 f
  | .rels f => packY 0x31#7 0x2#4 f
  | .relsKeep f => packY 0x31#7 0x2#4 f
  | .yieldc f => packY 0x31#7 0x3#4 f
  | .dset f => packS 0x3B#7 0x0#4 f
  | .dsetW f => packS 0x3B#7 0x0#4 f
  | .lease f => packS 0x50#7 0x7#4 f
  | .unlease f => packS 0x50#7 0x8#4 f
  | .atomAdd f => packM 0x28#7 0x0#5 f
  | .atomMin f => packM 0x28#7 0x1#5 f
  | .atomMax f => packM 0x28#7 0x2#5 f
  | .atomAnd f => packM 0x28#7 0x3#5 f
  | .atomOr f => packM 0x28#7 0x4#5 f
  | .atomXor f => packM 0x28#7 0x5#5 f
  | .atomExch f => packM 0x28#7 0x6#5 f
  | .atomCas f => packM 0x28#7 0x7#5 f
  | .cmb f => packM 0x29#7 0x0#5 f
  | .cobjInit f => packS 0x2A#7 0x0#4 f
  | .cobjArm f => packS 0x2A#7 0x1#4 f
  | .cobjQuery f => packS 0x2A#7 0x2#4 f
  | .barinit f => packY 0x30#7 0x0#4 f
  | .barinitNb f => packY 0x30#7 0x0#4 f
  | .bararv f => packY 0x30#7 0x1#4 f
  | .barwait f => packY 0x30#7 0x2#4 f
  | .barsync f => packY 0x30#7 0x3#4 f
  | .nbarv f => packY 0x30#7 0x4#4 f
  | .nbwait f => packY 0x30#7 0x5#4 f
  | .nbsync f => packY 0x30#7 0x6#4 f
  | .bra f => packC 0x40#7 0x0#4 f
  | .brx f => packC 0x40#7 0x1#4 f
  | .call f => packC 0x40#7 0x2#4 f
  | .ret f => packC 0x40#7 0x3#4 f
  | .exit f => packC 0x40#7 0x4#4 f
  | .regang f => packC 0x40#7 0x5#4 f
  | .brkpt f => packC 0x40#7 0x6#4 f
  | .nop f => packC 0x40#7 0x7#4 f
  | .fork f => packS 0x48#7 0x0#4 f
  | .rdv f => packS 0x48#7 0x1#4 f
  | .seqend f => packS 0x48#7 0x2#4 f
  | .sow f => packS 0x50#7 0x0#4 f
  | .waitp f => packS 0x50#7 0x1#4 f
  | .trigger f => packS 0x50#7 0x2#4 f
  | .csrr f => packS 0x50#7 0x3#4 f
  | .csrw f => packS 0x50#7 0x4#4 f
  | .svc f => packS 0x50#7 0x5#4 f
  | .trap f => packS 0x50#7 0x6#4 f
  | .mma f => packMX 0x38#7 0x0#4 f
  | .acz f => packMX 0x38#7 0x1#4 f
  | .acdrn f => packMX 0x38#7 0x2#4 f
  | .acclose f => packMX 0x38#7 0x3#4 f
  | .acal f => packS 0x39#7 0x0#4 f
  | .acfree f => packS 0x39#7 0x1#4 f
  | .acstat f => packS 0x39#7 0x2#4 f
  | .acstatBlk f => packS 0x39#7 0x2#4 f
  | .acband f => packS 0x39#7 0x3#4 f
  | .acbandRel f => packS 0x39#7 0x3#4 f
  | .acrd f => packA 0x3A#7 0x0#5 f
  | .acrdclr f => packA 0x3A#7 0x1#5 f
  | .slotReconfigureStart _ _ | .slotReconfigureEnd _ _ _ | .copyAccept _ | .copyChunk _ _ | .copyArrival _ _ | .lda16Arrival _ _ | .leaseExpiry _ _ | .routerRequestArrival _ _ | .atomHomePerform _ | .loadWriteback _ | .cmbRequestArrival _ | .combinerWaveStart _ | .combinerWaveEnd _ _ | .jobDispatch _ _ | .mmaOutputBlock _ _ | .matrixJobComplete _ _ | .acdrnLine _ | .tileClose _ _ | .rfetch _ | .bfx _ _ _ | .swait _ _ | .disp _ _ _ | .recLaunch _ _ | .recLaunchn _ _ _ _ | .recWaitsig _ _ _ | .recSetsig _ _ _ | .recSkipif _ _ _ _ _ | .recExec _ _ _ | .launchPlacement _ | .blockPlacement _ | .qslotMap _ _ _ | .qslotUnmap _ _ _ | .kick _ | .xlinvCtlWrite _ | .invalidationComplete | .walkerStart _ | .walkComplete _ | .homeAccessPerform _ | .hostAccess _ | .poolScrubRow _ _ _ _ | .poolFaultMapWrite _ _ _ | .preemptRequest _ _ | .budgetReached _ _ | .agentStop _ _ | .saveComplete _ | .evqiWrite _ _ | .ctxSave _ | .ctxRestore _ _ | .ctxTerminate _ | .flr _ | .fullReset _ | .mgmtbaseWrite _ | .fwload _ _ | .attest _ _ | .attestCerts _ | .confset _ _ | .dbgen _ | .rootact _ _ | .rootset _ _ | .rootdel _ _ | .usagereq _ _ | .usageRecordWrite _ | .keynewGenerate _ | .keynewImport _ | .keyerase _ | .tagset _ | .savesetCreate _ | .savesetRelease _ | .imgreg _ | .mondbUnknownCommand _ _ | .fwmqpop _ | .fwpostdb _ | .mircfgWrite _ | .mirrorWriteReceive _ _ _ | .fabricFlitReceive _ _ _ | .ethernetFrameReceive _ _ | .laneLoss _ | .powerCapInterval _ | .registerWrite _ _ _ _ | .regionActivation _ _ | .regionRetirement _ | .fallbackCounterClear _ | .instructionFetch _ | .icacheFillArrival _ _ | .linkTrained _ | .peerSilenceDetected _ => 0

/-- The extension word of an instruction of a stream (0 where it has none). -/
def encodeExt : Instr → DWord
  | .iaddImm f | .isubImm f | .imulImm f | .imulhImm f | .iminImm f | .imaxImm f | .idifImm f | .andImm f | .orImm f | .xorImm f | .andnImm f | .shlImm f | .shrImm f | .shraImm f | .rotlImm f | .bfeImm f | .icmpi _ f | .mov f | .movi f | .pmovGet f | .pmovSet f | .faddImm f | .fsubImm f | .fmulImm f | .ffmaImm f | .fminImm f | .fmaxImm f => packBExt f
  | .ld f | .ldf f | .ldfk f | .lda16 f | .st f | .ste f | .stf f | .tagclr f | .xstart f | .pref f | .ipref f | .cctlWb f | .cctlEvict f | .cctlPdrop f | .fence f | .fencemir f | .isync f | .atomAdd f | .atomMin f | .atomMax f | .atomAnd f | .atomOr f | .atomXor f | .atomExch f | .atomCas f | .cmb f => packMExt f
  | .iadd _ | .isub _ | .imul _ | .imulh _ | .imad _ | .imin _ | .imax _ | .idif _ | .and _ | .or _ | .xor _ | .andn _ | .shl _ | .shr _ | .shra _ | .rotl _ | .popc _ | .clz _ | .brev _ | .prmt _ | .sel _ | .lea _ | .bfe _ | .bfi _ | .icmp _ _ | .fadd _ | .fsub _ | .fmul _ | .ffma _ | .fmin _ | .fmax _ | .fcmp _ _ | .frcp _ | .frsq _ | .fsqrt _ | .fexp2 _ | .flog2 _ | .fsin _ | .fcos _ | .ftanh _ | .cvt _ | .frnd _ | .shfli _ | .shflu _ | .shfld _ | .shflx _ | .vall _ | .vany _ | .vbal _ | .matchany _ | .matchall _ | .redux _ | .dec _ | .decBlk _ | .enc _ | .encBlk _ | .req _ | .reqBlk _ | .sclq _ | .fmtq _ | .slotbind _ | .slotfence _ | .slotrel _ | .slotReconfigureStart _ _ | .slotReconfigureEnd _ _ _ | .copyAccept _ | .copyChunk _ _ | .copyArrival _ _ | .lda16Arrival _ _ | .xtset _ | .xquery _ | .ringinit _ | .awaitf _ | .rels _ | .relsKeep _ | .yieldc _ | .dset _ | .dsetW _ | .lease _ | .unlease _ | .leaseExpiry _ _ | .routerRequestArrival _ _ | .atomHomePerform _ | .loadWriteback _ | .cmbRequestArrival _ | .combinerWaveStart _ | .combinerWaveEnd _ _ | .cobjInit _ | .cobjArm _ | .cobjQuery _ | .barinit _ | .barinitNb _ | .bararv _ | .barwait _ | .barsync _ | .nbarv _ | .nbwait _ | .nbsync _ | .bra _ | .brx _ | .call _ | .ret _ | .exit _ | .regang _ | .brkpt _ | .nop _ | .fork _ | .rdv _ | .seqend _ | .sow _ | .waitp _ | .trigger _ | .csrr _ | .csrw _ | .svc _ | .trap _ | .mma _ | .acz _ | .acdrn _ | .acclose _ | .jobDispatch _ _ | .mmaOutputBlock _ _ | .matrixJobComplete _ _ | .acdrnLine _ | .tileClose _ _ | .acal _ | .acfree _ | .acstat _ | .acstatBlk _ | .acband _ | .acbandRel _ | .acrd _ | .acrdclr _ | .rfetch _ | .bfx _ _ _ | .swait _ _ | .disp _ _ _ | .recLaunch _ _ | .recLaunchn _ _ _ _ | .recWaitsig _ _ _ | .recSetsig _ _ _ | .recSkipif _ _ _ _ _ | .recExec _ _ _ | .launchPlacement _ | .blockPlacement _ | .qslotMap _ _ _ | .qslotUnmap _ _ _ | .kick _ | .xlinvCtlWrite _ | .invalidationComplete | .walkerStart _ | .walkComplete _ | .homeAccessPerform _ | .hostAccess _ | .poolScrubRow _ _ _ _ | .poolFaultMapWrite _ _ _ | .preemptRequest _ _ | .budgetReached _ _ | .agentStop _ _ | .saveComplete _ | .evqiWrite _ _ | .ctxSave _ | .ctxRestore _ _ | .ctxTerminate _ | .flr _ | .fullReset _ | .mgmtbaseWrite _ | .fwload _ _ | .attest _ _ | .attestCerts _ | .confset _ _ | .dbgen _ | .rootact _ _ | .rootset _ _ | .rootdel _ _ | .usagereq _ _ | .usageRecordWrite _ | .keynewGenerate _ | .keynewImport _ | .keyerase _ | .tagset _ | .savesetCreate _ | .savesetRelease _ | .imgreg _ | .mondbUnknownCommand _ _ | .fwmqpop _ | .fwpostdb _ | .mircfgWrite _ | .mirrorWriteReceive _ _ _ | .fabricFlitReceive _ _ _ | .ethernetFrameReceive _ _ | .laneLoss _ | .powerCapInterval _ | .registerWrite _ _ _ _ | .regionActivation _ _ | .regionRetirement _ | .fallbackCounterClear _ | .instructionFetch _ | .icacheFillArrival _ _ | .linkTrained _ | .peerSilenceDetected _ => 0

/-- The word of an Xdisp instruction (R222). -/
def encodeXdisp : Instr → Option Word
  | .rfetch rd => some (0#20 ++ rd ++ 0x0B#7)
  | .bfx rd rs1 rs2 => some (0#7 ++ rs2 ++ rs1 ++ 1#3 ++ rd ++ 0x0B#7)
  | .swait rd rs1 => some (0#12 ++ rs1 ++ 0#3 ++ rd ++ 0x2B#7)
  | .disp rd rs1 rs2 => some (0#7 ++ rs2 ++ rs1 ++ 1#3 ++ rd ++ 0x2B#7)
  | _ => none

/-- The eight dwords of a command record (R228). -/
def encodeRecord : Instr → Option (List DWord)
  | .recLaunch _ d => some [0x01#8 ++ 0#56, d, 0, 0, 0, 0, 0, 0]
  | .recLaunchn _ d n st => some [0x02#8 ++ 0#56, d, n, st, 0, 0, 0, 0]
  | .recWaitsig _ a v => some [0x03#8 ++ 0#56, a, v, 0, 0, 0, 0, 0]
  | .recSetsig _ a v => some [0x04#8 ++ 0#56, a, v, 0, 0, 0, 0, 0]
  | .recSkipif _ c n a v => some [0x05#8 ++ 0#20 ++ c ++ 0#16 ++ n, a, v, 0, 0, 0, 0, 0]
  | .recExec _ b n => some [0x06#8 ++ 0#56, b, n, 0, 0, 0, 0, 0]
  | _ => none

/-- An instruction as the words that hold it: the first word and the extension word. -/
def encode (i : Instr) : DWord × DWord := (encodeWord i, encodeExt i)

/-- Length of an instruction in bytes: 16 with an extension word, otherwise 8 (R273). -/
def wordBytes (w : DWord) : Nat := if bitAt w 63 then 16 else 8

/-- The host's question: the instruction of `nbits` bits read as the table numbers them. 32-bit rows are the Xdisp
instructions of the scheduler cores; 64 and 128-bit rows are a first word and its extension word, read as the lane
stream reads them, then as the matrix stream and the copy stream do. -/
def decodeTableWord (nbits w : Nat) : Option Instr :=
  if nbits ≤ 32 then
    match decodeXdisp (BitVec.ofNat 32 w) with
    | some (.ok i) => some i
    | _ => none
  else
    let w0 := BitVec.ofNat 64 w
    let ext := BitVec.ofNat 64 (w / 2 ^ 64)
    match decode .lane w0 ext, decode .mx w0 ext, decode .cp w0 ext with
    | .ok i, _, _ => some i
    | _, .ok i, _ => some i
    | _, _, .ok i => some i
    | _, _, _ => none

end Sys2Proof
end

