-- ==== Sys2Proof/Machine/Sparse.lean ====
section
/-!
DEFINITION. Sparse maps: how every memory, register file and table of the state is held. A map is a list of (key, value)
in ONE canonical form: keys strictly rising, no value equal to what an unlisted key reads as. Equal maps are equal lists.
-/

namespace Sys2Proof.Machine

/-- A map from numbers, with a default that each use of it names. -/
abbrev Sparse (α : Type) := List (Nat × α)

namespace Sparse

variable {α : Type}

/-- The value at a key; `d` where the key is not listed. -/
def get (d : α) : Sparse α → Nat → α
  | [], _ => d
  | (k, v) :: r, n => if k = n then v else get d r n

/-- The map without a key. -/
def erase : Sparse α → Nat → Sparse α
  | [], _ => []
  | (k, v) :: r, n => if k = n then erase r n else (k, v) :: erase r n

/-- The map with a key listed, keys rising. -/
def insert : Sparse α → Nat → α → Sparse α
  | [], n, x => [(n, x)]
  | (k, v) :: r, n, x => if n < k then (n, x) :: (k, v) :: r else if n = k then (n, x) :: r else (k, v) :: insert r n x

/-- The map with the value of a key set: writing the default removes the entry. -/
def set [DecidableEq α] (d : α) (m : Sparse α) (n : Nat) (x : α) : Sparse α := if x = d then erase m n else insert m n x

/-- The map with the value of a key changed. -/
def modify [DecidableEq α] (d : α) (m : Sparse α) (n : Nat) (f : α → α) : Sparse α := set d m n (f (get d m n))

/-- Every listed value changed by a function; a default is not listed. -/
def mapVals [DecidableEq α] (d : α) (m : Sparse α) (f : Nat → α → α) : Sparse α :=
  m.foldr (fun p r => set d r p.1 (f p.1 p.2)) []

/-- The keys listed. -/
def keys (m : Sparse α) : List Nat := m.map Prod.fst

/-- The canonical form: keys strictly rising from `lo`, no default listed. -/
def wfFrom [DecidableEq α] (d : α) : Nat → Sparse α → Bool
  | _, [] => true
  | lo, (k, v) :: r => decide (lo ≤ k) && decide (v ≠ d) && wfFrom d (k + 1) r

/-- The canonical form. -/
def wf [DecidableEq α] (d : α) (m : Sparse α) : Bool := wfFrom d 0 m

end Sparse

/-- A memory: (address, byte) pairs in the canonical form; an unlisted byte reads as zero. -/
abbrev Memory := List Host.Cell

/-- The canonical form of a memory. -/
def Memory.wf (m : Memory) : Bool := Sparse.wf (0 : Byte) m

end Sys2Proof.Machine
end

