-- ==== Sys2Proof/Machine/State.lean ====
section
/-!
DEFINITION. The state of the E9: everything the manual gives the device, as plain data, and the device right after reset.
INVENTORY.md lists every field with its rule and reset value.
-/

namespace Sys2Proof.Machine

/-- How the machine itself stops. A program fault, a machine check and an exception of a scheduler core are no stops:
they are next states. -/
inductive Fault where
  /-- Raised by `step` once the fuse array has failed its check code (R245 step 1: the device stops). Safe: the manual
  says that nothing runs. -/
  | deviceStopped
  deriving DecidableEq, Repr

/-- Why an instruction has no meaning in a state. -/
inductive Refusal where
  /-- Raised by an arm of Dispatch whose instruction has no meaning yet. Safe. -/
  | notModelled (mnemonic : String)
  /-- Raised by `step` for a word of a scheduler core outside custom-0 and custom-1: the base RV64GC instructions, which the
  manual names (spec/12) and does not describe. Safe. -/
  | rvBase
  /-- Raised by a meaning of a stream or Xdisp instruction when no agent that could issue it is current. `step` always
  names one. Safe. -/
  | noIssuer
  deriving DecidableEq, Repr

/-! ## Warps -/

/-- Registers of a warp, a sequencer or a wave: g by `32 × reg + lane`, k (q) by number, predicates by
`32 × code + lane` (R7). -/
structure RF where
  g : Sparse Word
  k : Sparse Word
  p : Sparse Bool
  deriving DecidableEq, Repr

def RF.zero : RF := ⟨[], [], []⟩

/-- An entry of the mask stack (R213). -/
structure DivEntry where
  join : DWord
  m : BitVec 4
  ppc : DWord
  pend : BitVec 4
  deriving DecidableEq, Repr

/-- ST of a stop record (R236, R411): for a sequencer `exited` is idle. -/
inductive St where
  | running | faulted | parked | exited
  deriving DecidableEq, Repr

/-- PARK of a stop record (R236). -/
inductive Park where
  | none | fullEmpty | barrier | awaitf | yieldc | waitp | regang | sow | fork
  deriving DecidableEq, Repr

/-- A task that waits in a queue (R206), or that a parked SOW holds (R388). -/
structure TaskRec where
  launch : Nat
  entry : DWord
  arg : DWord
  stage : Nat
  num : Word
  seq : Nat
  seed : Bool
  deriving DecidableEq, Repr

/-- A slice: four lanes with one program counter (R212, R213, R236). `issued` is the core's CYCLE at its gang's last first
issue, from which the gang's age follows (R215); `ready` says that the slot on which it is parked has filled (R65), or that a restore
has put it back to its REGANG (R384); `fence` the widest FENCE
with rel or ar that it has executed: 0 none, 1 at warp or block scope, 2 at device or system scope (R181); `ir` the words of the
instruction that it last fetched, at which it stands while it is parked (R397). -/
structure Slice where
  pc : DWord
  mask : BitVec 4
  stack : List DivEntry
  st : St
  park : Park
  code : BitVec 8
  fva : DWord
  opw : DWord
  gang : BitVec 8
  issued : DWord
  rgMask : BitVec 8
  wph : Sparse Word
  tok : Option DWord
  served : BitVec 4
  ready : Bool
  fence : Nat
  held : Option TaskRec
  ir : DWord × DWord
  deriving DecidableEq, Repr

/-- A slice of a warp that has just started (R212), but for its pc. -/
def Slice.init : Slice :=
  { pc := 0, mask := 0xF, stack := [], st := .running, park := .none, code := 0, fva := 0, opw := 0, gang := 0xFF, issued := 0,
    rgMask := 0, wph := [], tok := none, served := 0, ready := false, fence := 0, held := none, ir := (0, 0) }

/-- A warp (R91 to R99, R390): `uid` names this residence of the warp number; pending bits of g registers by `8 × reg + slice`, of
predicates by `8 × code + slice`; the poison of its rows of the register file, a row being a register in the four lanes of a slice
(R79, R82), by `8 × reg + slice`; `runs` are the runs of 8 warp-registers of the register file that hold its registers, in order (R82), `tch` its touched rows (R84), `bad`
what is wrong in the symbols of its rows' codewords (R74), by `16 × (18 × (reg / 2) + symbol) + byte`. -/
structure Warp where
  live : Bool
  uid : Nat
  block : Nat
  rank : Nat
  nregs : Nat
  rf : RF
  pg : Sparse Bool
  pk : Sparse Bool
  pp : Sparse Bool
  rp : Sparse Bool
  runs : List Nat
  tch : Sparse Bool
  bad : Sparse Byte
  slices : Sparse Slice
  instret : DWord
  pmsel : Word
  pmcnt : DWord
  deriving DecidableEq, Repr

def Warp.absent : Warp :=
  { live := false, uid := 0, block := 0, rank := 0, nregs := 0, rf := RF.zero, pg := [], pk := [], pp := [], rp := [], runs := [], tch := [], bad := [], slices := [],
    instret := 0, pmsel := 0, pmcnt := 0 }

/-! ## Blocks -/

/-- A sequencer (R142, R211, R275, R411): `rf.k` are its q registers, its predicates are those of lane 0. -/
structure Seq where
  st : St
  pc : DWord
  rf : RF
  park : Park
  code : BitVec 8
  fva : DWord
  opw : DWord
  wph : Sparse Word
  tok : Option DWord
  ready : Bool
  jobs : List Nat
  deriving DecidableEq, Repr

def Seq.idle : Seq :=
  { st := .exited, pc := 0, rf := RF.zero, park := .none, code := 0, fva := 0, opw := 0, wph := [], tok := none, ready := false, jobs := [] }

/-- A barrier (R374, R375, R377): expected and counted arrivals, completed phases, abandoned phases, the arrivals recorded
by slices and not yet in effect, the warps arrived in this phase, the counted warps, and what the next phase changes. -/
structure Bar where
  exp : Nat
  next : Option Nat
  arr : Nat
  ph : Word
  abh : Word
  recd : Sparse (BitVec 8)
  arrived : List Nat
  counted : List Nat
  all : Bool
  less : Nat
  aband : Bool
  deriving DecidableEq, Repr

/-- A barrier with nothing arrived. -/
def Bar.init (exp : Nat) (all : Bool) : Bar :=
  { exp := exp, next := none, arr := 0, ph := 0, abh := 0, recd := [], arrived := [], counted := [], all := all, less := 0,
    aband := false }

/-- A registered barrier object (R377). -/
structure BarObj where
  ofs : Nat
  block : Nat
  bar : Bar
  deriving DecidableEq, Repr

/-- A block (R208): its warps at block start (R375) and those still resident, descriptors, matrix status (R159), numbered
barriers, both sequencers. -/
structure Block where
  live : Bool
  ctx : Nat
  launch : Nat
  task : Word
  stage : Nat
  nwarps : Nat
  warps : List Nat
  desc : Sparse (BitVec 256)
  ua : Bool
  trb : Bool
  fbs : Bool
  fbn : Nat
  nbar : Sparse Bar
  mx : Seq
  cp : Seq
  deriving DecidableEq, Repr

def Block.absent : Block :=
  { live := false, ctx := 0, launch := 0, task := 0, stage := 0, nwarps := 0, warps := [], desc := [], ua := false, trb := false,
    fbs := false, fbn := 0, nbar := [], mx := Seq.idle, cp := Seq.idle }

/-! ## The accumulator store, the copy engine, the format slots -/

/-- A band of a tile (R150). -/
structure Band where
  row0 : Nat
  nrows : Nat
  warp : Nat
  deriving DecidableEq, Repr

/-- A tile (R147 to R149): `state` 0 free, 1 open, 2 closed. -/
structure Tile where
  state : Nat
  i32 : Bool
  satx : Bool
  satm : Bool
  bands : List Band
  first : Nat
  nbk : Nat
  rows : Nat
  cols : Nat
  slot : Nat
  word : Word
  deriving DecidableEq, Repr

def Tile.free : Tile :=
  { state := 0, i32 := false, satx := false, satm := false, bands := [], first := 0, nbk := 0, rows := 0,
    cols := 0, slot := 0, word := 0 }

/-- A bulk copy from the issue of its XSTART (R407) to its arrival: `inst` names the XSTART, `gang` the slices that complete
with it at `next`; the card as installed, its bases as bit addresses with EOFS applied, EOFS as a displacement in bits, the
addresses of its ring words; chunks written, the next element, whether every chunk is written; what the reads of the next chunk's sources at a
peer have returned, by granule, with its poison (R56, R267). -/
structure CopyRec where
  id : Nat
  inst : Nat
  ctx : Nat
  block : Nat
  warp : Option Nat
  uid : Nat
  gang : BitVec 8
  next : DWord
  ch : Nat
  tidx : Nat
  rsl : Nat
  card : List DWord
  src : Int
  dst : Int
  shift : Int
  otgt : Bool
  hdr : Nat
  slot : Nat
  after : List Nat
  chunks : Nat
  pos : Nat
  fin : Bool
  got : List (Nat × BitVec 128 × Bool)
  code : BitVec 8
  fva : DWord
  deriving DecidableEq, Repr

/-- The attempt at an MMA's current output block that a stop has cut (R152, R154, R411): whether it is wide, the k-groups added, the
checkpoint, which is the chains of the block's written elements, row by row; whether a chain turned from finite to infinite in it,
whether an add clamped, whether poison was read. -/
structure MxAtt where
  wide : Bool
  next : Nat
  cp : List DWord
  turned : Bool
  sat : Bool
  pois : Bool
  deriving DecidableEq, Repr

/-- An accepted job of a matrix stream (R143, R356, R411): the output block, with the attempt at it that has begun, or the destination line
that is next, whether what it writes is poisoned (R80, R103), the fault found after acceptance (R153). -/
structure MxJob where
  id : Nat
  block : Nat
  sub : Nat
  jpc : DWord
  opw : DWord
  f : FmtMX
  da : BitVec 256
  db : BitVec 256
  m : Nat
  n : Nat
  k : Nat
  word : Word
  started : Bool
  bi : Nat
  bj : Nat
  att : Option MxAtt
  next : Nat
  pois : Bool
  code : BitVec 8
  fva : DWord
  done : Bool
  deriving DecidableEq, Repr

/-- An entry of the job window, in entry order (R60). -/
inductive WinEnt where
  | copy (id : Nat)
  | job (id : Nat)
  deriving DecidableEq, Repr

/-- An LDA16 lane in flight (R69, R190, R306): `reqs` are the requests of its source read that have still to return, two for a source at
a peer or the host (R297), and `id` names the first; `data` is what they have read, and `pois` whether it is poisoned. -/
structure LdaRec where
  id : Nat
  inst : Nat
  block : Nat
  warp : Nat
  uid : Nat
  slices : BitVec 8
  lane : Nat
  dst : Nat
  slot : Nat
  hdr : Nat
  reqs : List Nat
  data : BitVec 128
  pois : Bool
  deriving DecidableEq, Repr

/-- An accepted bind (`some handle`) or release of a slot (R135). -/
structure SlotOp where
  id : Nat
  bind : Option Word
  deriving DecidableEq, Repr

/-- A format slot (R135). -/
structure FSlot where
  handle : Word
  gen : BitVec 16
  queue : List SlotOp
  reconf : Bool
  deriving DecidableEq, Repr

def FSlot.unbound : FSlot := { handle := 0, gen := 0, queue := [], reconf := false }

/-! ## Fetch, translation, full/empty waits, upsets -/

/-- A line of the instruction cache, most recently used first in its list (R397), with the poison of its granules as the fill brought it
(R42, R269, R406). -/
structure ILine where
  asn : BitVec 16
  line : Nat
  data : List DWord
  pois : BitVec 8
  deriving DecidableEq, Repr

/-- A fill in flight (R397): `dead` when an ISYNC intervened. -/
structure Fill where
  id : Nat
  asn : BitVec 16
  line : Nat
  loc : Nat
  pa : Nat
  dead : Bool
  deriving DecidableEq, Repr

/-- A cached translation (R36): the page number at the page's own size. -/
structure TlbEnt where
  asn : BitVec 16
  page : Nat
  log : Nat
  leaf : DWord
  deriving DecidableEq, Repr

/-- The report of a failed walk to the misses of a core (R33, R36): it is delivered once and is not cached. -/
structure WalkFault where
  who : Agent
  asn : BitVec 16
  vpage : Nat
  deriving DecidableEq, Repr

/-- An access that waits at a bank for a full/empty tag (R87, R301, R303), in arrival order: `core`, `warp`, `slice`, `lane` say
whose it is, `slices` the slices that stand for it (every acting slice on the scalar path, R95), `next` where they go on; `sys` marks an
acquire at system scope (R298); `conf` are the bank cycles that its instruction has still to count (R401). -/
structure Waiter where
  core : Nat
  warp : Nat
  slice : Nat
  slices : BitVec 8
  lane : Nat
  ofs : Nat
  two : Bool
  full : Bool
  keep : Bool
  sys : Bool
  v : BitVec 8
  data : DWord
  next : DWord
  pc : DWord
  opw : DWord
  conf : Nat
  deriving DecidableEq, Repr

/-- Where a physical upset strikes (R91, R100, R412): the datapath of a physical lane of a quarter, the address generator of a lane, one
of a quarter's two lock-stepped scalar units, one of a sequencer's, the multiplier array. -/
inductive Struck where
  | lane (quarter pos : Nat)
  | address (quarter pos : Nat)
  | scalar (quarter : Nat)
  | seq (block : Nat) (cp : Bool)
  | array
  deriving DecidableEq, Repr

/-- A physical upset (R101 to R103, R412): an input of the outside world. It changes the bits `xv` of the first result that it meets, of
a first issue or of a check issue (`check`); one that is `stuck` changes both, of the replay too. `synd` is the residue syndrome that it
leaves in a datapath whose inner value no register shows. -/
structure Upset where
  at_ : Struck
  check : Bool
  stuck : Bool
  xv : DWord
  synd : BitVec 3
  deriving DecidableEq, Repr

/-! ## A core -/

/-- A core. `bad` holds what is wrong in the symbols of the codewords of its scratchpad and accumulator banks: each is the difference
of the symbol in the array from that of the codeword (R74, R75), by `Core.symKey`; `charged` is CYCLE when the core's use was last charged (R201). -/
structure Core where
  use : Option Nat
  pword : Word
  warps : Sparse Warp
  blocks : Sparse Block
  scr : Memory
  tags : Sparse Bool
  scrPois : Sparse Bool
  acc : Sparse DWord
  accPois : Sparse Bool
  bad : Sparse Byte
  touched : Sparse Bool
  clean : Sparse Bool
  tiles : Sparse Tile
  units : Sparse (List DWord)
  cardAt : Sparse Nat
  install : List (Agent × DWord)
  apq : List CopyRec
  copies : List CopyRec
  window : List WinEnt
  jobs : List MxJob
  arr : Option Nat
  drn : Option Nat
  lastArr : Option Nat
  lastDrn : Option Nat
  lda : List LdaRec
  slots : Sparse FSlot
  icache : List ILine
  fills : List Fill
  tlb : List TlbEnt
  wfault : List WalkFault
  waiters : List Waiter
  bars : List BarObj
  cycle : DWord
  charged : DWord
  chkrpl : Word
  upset : Option Upset
  deriving DecidableEq, Repr

/-- A core after full reset: nothing resident, counters 0 (R390, R409). -/
def Core.reset : Core :=
  { use := none, pword := 0, warps := [], blocks := [], scr := [], tags := [], scrPois := [], acc := [], accPois := [], bad := [],
    touched := [], clean := [], tiles := [], units := [], cardAt := [], install := [], apq := [], copies := [], window := [], jobs := [],
    arr := none, drn := none, lastArr := none, lastDrn := none, lda := [], slots := [], icache := [], fills := [], tlb := [],
    wfault := [], waiters := [], bars := [], cycle := 0, charged := 0, chkrpl := 0, upset := none }

/-! ## Device memory, L2 and the requests on their way -/

/-- An L2 line record (R43, R46): dirty, the lease that pins it, and its place in the order in which leases placed lines (R324). -/
structure L2Line where
  held : Bool
  dirty : Bool
  pin : Option Nat
  placed : Nat
  deriving DecidableEq, Repr

def L2Line.absent : L2Line := ⟨false, false, none, 0⟩

/-- A crypt-tag entry (R39). -/
structure Tag where
  mode : Nat
  slot : Nat
  sv : Bool
  deriving DecidableEq, Repr

def Tag.clear : Tag := ⟨0, 0, false⟩

/-- What the last eighth of a GCM range holds of a line (R39, R42): its counter and its integrity tag. -/
structure GcmLine where
  ctr : Nat
  tag : BitVec 128
  deriving DecidableEq, Repr

def GcmLine.zero : GcmLine := ⟨0, 0⟩

/-- Memory: HBM, host and peer bytes by physical address (R31: a peer address carries its device number), the poison of
local, peer and host granules (R406), the counters and tags of GCM lines, the lines that failed to verify and have not been written since (R42, R243), the peers' own crypt-tag tables by page (R41), L2 line records,
the peer-read cache by line (R44). -/
structure Mem where
  hbm : Memory
  host : Memory
  peer : Memory
  pois : Sparse Bool
  peerPois : Sparse Bool
  hostPois : Sparse Bool
  gcm : Sparse GcmLine
  failed : List Nat
  peerTags : Sparse Tag
  l2 : Sparse L2Line
  peerRd : Sparse (Option (List Byte))
  deriving DecidableEq, Repr

def Mem.reset : Mem := { hbm := [], host := [], peer := [], pois := [], peerPois := [], hostPois := [], gcm := [], failed := [], peerTags := [], l2 := [], peerRd := [] }

/-- A lease (R45, R323): remaining slice cycles per named slice; a slice whose count has ended is not listed. -/
structure Lease where
  id : Nat
  rcb : Nat
  handle : Nat
  ways : Nat
  left : Sparse Nat
  deriving DecidableEq, Repr

/-- What a request asks for. -/
inductive ReqKind where
  | load | store | atom | cmb | svc
  deriving DecidableEq, Repr

/-- The home of an access (R180): 0 local HBM, 1 peer, 2 host (R31), 3 scratchpad of core `core`. -/
structure Home where
  loc : Nat
  core : Nat
  addr : Nat
  deriving DecidableEq, Repr

/-- One lane's part of a request: who gets the reply, with which operands; `lanes` those whose status predicate it sets (every acting
lane, on the scalar path: R95); `live` until its warp is gone. -/
structure Part where
  core : Nat
  warp : Nat
  uid : Nat
  lane : Nat
  lanes : List Nat
  v : BitVec 8
  inst : Nat
  opr : DWord
  cmp : DWord
  live : Bool
  deriving DecidableEq, Repr

/-- A request in flight, of slices of one warp. `inst` names the instruction that sent it; `sec` its half of a 128-bit access
to a peer or the host; `bit` and `width` the element of an opaque access (`width` 0: none); `n` the registers of V; `op` an
ATOM's operation or a store's tags (0 kept, 1 full, 2 empty); `pol` the effective cache policy; `split` what the first of two
separate accesses read; `conf` the bank cycles beyond one of its instruction; `after` what must be performed before it
(R185), `leaves` what must have left the core before a release at warp or block scope, `left` whether it has itself left the core, `wide`
whether it waits for all that the core tracks (R180); `mask` the bits that a store writes, 0 for all (R58); `copy` the bulk copy whose access
it is, and its source's granule; `crypt` and `key` the mode and the key slot that its leaf gives (R41); `sent` the port on which a request
to a peer went out (R267), `ans` what the peer, which has performed it, answers: the request is complete when that is back (R180); `merge` the requests that merged into it, in merge order, and `into` whether it merged into another; `replies` what
its parts receive. -/
structure Req where
  id : Nat
  inst : Nat
  ctx : Nat
  core : Nat
  block : Nat
  warp : Nat
  uid : Nat
  slices : BitVec 8
  pc : DWord
  opw : DWord
  kind : ReqKind
  home : Home
  va : DWord
  sec : Nat
  len : Nat
  bit : Nat
  width : Nat
  n : Nat
  ord : Nat
  sco : Nat
  op : Nat
  ty : BitVec 4
  meth : Nat
  sprd : Nat
  pol : Nat
  split : Option DWord
  sa : Bool
  mir : Bool
  crypt : Nat
  key : Nat
  sent : Option Nat
  ans : Option (List Byte)
  conf : Nat
  data : BitVec 128
  mask : BitVec 128
  copy : Option (Nat × Nat)
  parts : List Part
  after : List Nat
  leaves : List Nat
  left : Bool
  wide : Bool
  tracked : Bool
  done : Bool
  pois : Bool
  merge : List Nat
  into : Bool
  replies : List (BitVec 128)
  deriving DecidableEq, Repr

/-- A request of no slice, that comes after nothing and whose reply no register awaits. -/
def Req.plain (kind : ReqKind) (home : Home) (len : Nat) : Req :=
  { id := 0, inst := 0, ctx := 0, core := 0, block := 0, warp := 0, uid := 0, slices := 0, pc := 0, opw := 0, kind := kind, home := home, va := 0,
    sec := 0, len := len, bit := 0, width := 0, n := 0, ord := 0, sco := 0, op := 0, ty := 0, meth := 0, sprd := 7, pol := 2, split := none,
    sa := false, mir := false, crypt := 0, key := 0, sent := none, ans := none, conf := 0, data := 0, mask := 0, copy := none, parts := [],
    after := [], leaves := [], left := false, wide := false, tracked := false, done := false, pois := false, merge := [], into := false,
    replies := [] }

/-- A write for the mirror partner that is not yet acknowledged (R196, R271): who made it, as warps' uids and slices (a merged ATOM is
of several), its local bytes, whether they are poisoned (R406), the port on which it
was sent: none is while mirroring is broken. -/
structure MirRec where
  id : Nat
  makers : List (Nat × BitVec 8)
  pa : Nat
  bytes : List Byte
  pois : Bool
  sent : Option Nat
  deriving DecidableEq, Repr

/-- A fence in force for a slice (R185, R310): the requests before it, whether it orders every later access or stores only, and whether it
is a release at device or system scope, which what the core comes to track also precedes (R183). -/
structure FenceRec where
  core : Nat
  uid : Nat
  slice : Nat
  before : List Nat
  storesOnly : Bool
  wide : Bool
  deriving DecidableEq, Repr

/-- A combinable object tracked by its home slice (R168 to R173): pending requests in arrival order, each with its place in the
slice's order of arrivals; the methods as taken at the last ARM, by word, each with the word that follows it; the arming region, the
header's virtual address and the page's MIR; the wave that runs, its method and requests. -/
structure CObj where
  armed : Bool
  trug : List (Nat × Nat)
  methods : Sparse (List (DWord × DWord))
  armRcb : Nat
  armVa : DWord
  mir : Bool
  wave : Option (Nat × List Nat)
  deriving DecidableEq, Repr

def CObj.none : CObj := { armed := false, trug := [], methods := [], armRcb := 0, armVa := 0, mir := false, wave := Option.none }

/-- A miss that waits in a slice, and a walk in progress (R34). -/
structure Miss where
  slice : Nat
  ctx : Nat
  asn : BitVec 16
  vpage : Nat
  who : Agent
  deriving DecidableEq, Repr

structure Walk where
  id : Nat
  slice : Nat
  ctx : Nat
  asn : BitVec 16
  vpage : Nat
  whos : List Agent
  dead : Bool
  deriving DecidableEq, Repr

/-- L2 and the mesh: slice TLBs, misses, walks, leases, objects, busy engines, requests, fences, mirror writes. -/
structure Fab where
  stlb : Sparse (List TlbEnt)
  misses : List Miss
  walks : List Walk
  leases : List Lease
  objs : Sparse CObj
  engines : Sparse (Option Nat)
  reqs : List Req
  fences : List FenceRec
  mirror : List MirRec
  deriving DecidableEq, Repr

def Fab.reset : Fab :=
  { stlb := [], misses := [], walks := [], leases := [], objs := [], engines := [], reqs := [], fences := [],
    mirror := [] }

/-! ## Regions, contexts, launches -/

/-- A live region's effective values, charges and counters (R198 to R201, R158, R210, R261); `hbm` and `link` say that accesses of it have
moved bytes of HBM, or over a link, since its charges were last observed. -/
structure Region where
  live : Bool
  root : Nat
  parent : Nat
  ctx : Nat
  prio : Nat
  fdom : Nat
  chk : Nat
  asn : BitVec 16
  troot : Nat
  budget : List Nat
  charge : List Nat
  keys : BitVec 128
  imgs : List (BitVec 384)
  px : Nat
  py : Nat
  pw : Nat
  ph : Nat
  pgf : Nat
  preempted : Bool
  fbcnt : Nat
  fbsat : Bool
  lost : Bool
  hbm : Bool
  link : Bool
  tags : List Nat
  deriving DecidableEq, Repr

def Region.none : Region :=
  { live := false, root := 0, parent := 0, ctx := 0, prio := 0, fdom := 0, chk := 0, asn := 0, troot := 0, budget := [],
    charge := [], keys := 0, imgs := [], px := 0, py := 0, pw := 0, ph := 0, pgf := 0, preempted := false, fbcnt := 0,
    fbsat := false, lost := false, hbm := false, link := false, tags := [] }

/-- A stop record (R236, R411): its place in the order of R240, its dwords, whether it holds a fault. -/
structure StopRec where
  key : List Nat
  dwords : List DWord
  flt : Bool
  fva : DWord
  deriving DecidableEq, Repr

/-- Where a context is: running, halting, halted without a save area, saved, or gone. -/
inductive CtxSt where
  | none | running | halting | waiting | saved
  deriving DecidableEq, Repr

/-- A context (R233 to R243). `size` is SIZE of its image (R413); `first` is the code of its first fault (R234), 0 for none; `saved` holds the image's internal sections,
each core by relative index; `cmd` says that a command of CTXCMD awaits its end; `kill` 1 that its state is to be discarded at the
end of the halt, 2 that its image is; `queued` holds the launches that wait for its cores, in the order of R239. -/
structure Ctx where
  st : CtxSt
  rcb : Nat
  flt : Bool
  recs : List StopRec
  acks : List StopAgent
  saved : Sparse Core
  area : Option Nat
  pgf : Nat
  pw : Nat
  ph : Nat
  px : Nat
  py : Nat
  cmd : Bool
  kill : Nat
  first : BitVec 8
  size : Nat
  queued : List Nat
  deriving DecidableEq, Repr

def Ctx.none : Ctx :=
  { st := .none, rcb := 0, flt := false, recs := [], acks := [], saved := [], area := Option.none, pgf := 0, pw := 0, ph := 0,
    px := 0, py := 0, cmd := false, kill := 0, first := 0, size := 0, queued := [] }

/-- A launch (R202 to R207, R210): `phase` 0 accepted, 1 started, 2 ended; where its signal word lies, and whether on a mirror page. -/
structure Launch where
  ctx : Nat
  rcb : Nat
  d : List DWord
  stages : List (DWord × DWord)
  phase : Nat
  counter : Nat
  retired : Nat
  nextNum : Nat
  triggered : Bool
  sigLeaf : DWord
  sigPa : Nat
  queues : Sparse (List TaskRec)
  deriving DecidableEq, Repr

def Launch.none : Launch :=
  { ctx := 0, rcb := 0, d := [], stages := [], phase := 2, counter := 0, retired := 0, nextNum := 0, triggered := false, sigLeaf := 0, sigPa := 0,
    queues := [] }

/-! ## The I/O die -/

/-- A hardware queue slot (R219, R221): the RCB that its QCB named when it was mapped; the records that RFETCH has handed to the firmware
and it has not finished, oldest first, each with its RI; where its EXEC stands (R228, R411), and where its LAUNCHN does: launches
made, of how many. -/
structure QSlot where
  map : Bool
  dbl : Bool
  qid : Nat
  qcba : Nat
  prio : Nat
  age : Nat
  rcb : Nat
  recs : List (Word × List DWord)
  skip : Nat
  pass : Option (Nat × Nat)
  left : Nat
  buf : DWord
  laun : Option (Nat × Nat)
  deriving DecidableEq, Repr

def QSlot.empty : QSlot :=
  { map := false, dbl := false, qid := 0, qcba := 0, prio := 0, age := 0, rcb := 0, recs := [], skip := 0, pass := none, left := 0, buf := 0,
    laun := none }

/-- An event queue (R230, R264): EVQB, the fields of EVQI, a message not yet acknowledged. -/
structure EvQ where
  b : DWord
  ovf : Nat
  ri : BitVec 16
  wi : BitVec 16
  msg : Bool
  deriving DecidableEq, Repr

def EvQ.reset : EvQ := { b := 0, ovf := 0, ri := 0, wi := 0, msg := false }

/-- A link (R253, R267, R269, R270): LNKSTAT's fields, its route cost, its send window and arbitration weight, the credits that it holds,
the messages and frames received for firmware and the host, the messages that wait for a credit, with their destinations, the messages and frames sent; the
priorities on which the partner has paused frames, and the frames that wait for it. -/
structure Link where
  up : Bool
  wid : Nat
  mode : Nat
  rtry : Nat
  spare : Nat
  cost : Nat
  win : Nat
  weight : Nat
  cred : Nat
  rx : List (List Byte)
  wait : List (Nat × FabricMsg)
  tx : List FabricMsg
  txf : List (List Byte)
  paused : BitVec 8
  txw : List (List Byte)
  deriving DecidableEq, Repr

def Link.reset : Link :=
  { up := false, wid := 0, mode := 0, rtry := 0, spare := 0, cost := 1, win := 0, weight := 0, cred := 0, rx := [], wait := [], tx := [],
    txf := [], paused := 0, txw := [] }

/-- The I/O die's registers and queues (R18, R37, R219, R220, R230, R242, R251, R264 to R271, R78); the range of the invalidation in
progress (R37); what the last host access returned, what the read of a split host atomic did (R47), the host accesses that wait for the
attach to retrain (R249), what the last call of the region unit returned to firmware (a status, a counter), and the granules of peers and of
the host that the I/O die has read for a command record (R267). -/
structure IO where
  binding : Sparse Word
  poolMap : Sparse (Option Word)
  poolCnt : Sparse Nat
  valo : Word
  vahi : Word
  xlctl : Word
  xlLo : Word
  xlHi : Word
  xlwait : List Nat
  qslots : Sparse QSlot
  pendArr : Sparse Bool
  evq : Sparse EvQ
  irqs : List Nat
  ctxBusy : Bool
  ctxStat : Nat
  links : Sparse Link
  mircfg : DWord
  mirrx : DWord
  pwrcap : Nat
  clock : Nat
  hbmStep : Nat
  flrBusy : Bool
  flrFn : Nat
  flrDone : Bool
  dmaA : Sparse DWord
  dmaB : Sparse DWord
  mgmtBase : DWord
  bootstat : BitVec 8
  postbuf : Sparse Word
  fwmq : List (List Byte)
  monmq : List (List Byte)
  lost : List Nat
  hostRd : List Byte
  hostSplit : List Byte
  hostq : List HostOp
  fwReply : DWord
  got : List (Nat × Nat × BitVec 128 × Bool)
  deriving DecidableEq, Repr

def IO.reset : IO :=
  { binding := [], poolMap := [], poolCnt := [], valo := 0, vahi := 0, xlctl := 0, xlLo := 0, xlHi := 0, xlwait := [], qslots := [], pendArr := [], evq := [],
    irqs := [], ctxBusy := false, ctxStat := 0, links := [], mircfg := 0, mirrx := 0, pwrcap := 2800, clock := 1600,
    hbmStep := 0, flrBusy := false, flrFn := 0, flrDone := false, dmaA := [], dmaB := [], mgmtBase := 0, bootstat := 0,
    postbuf := [], fwmq := [], monmq := [], lost := [], hostRd := [], hostSplit := [], hostq := [], fwReply := 0, got := [] }

/-- A scheduler core (R218, R222 to R226, R245): `x` by number, the exception registers, the command window. -/
structure Sched where
  x : Sparse DWord
  pc : DWord
  mepc : DWord
  mcause : DWord
  mtval : DWord
  mtvec : DWord
  mstatus : DWord
  asleep : Bool
  inReset : Bool
  win : List DWord
  deriving DecidableEq, Repr

def Sched.reset : Sched :=
  { x := [], pc := 0, mepc := 0, mcause := 0, mtval := 0, mtvec := 0, mstatus := 0, asleep := false, inReset := true, win := [] }

/-! ## The monitor -/

/-- A key slot (R256): `st` 0 empty, 1 active, 2 erasing; the counter-tree roots of a GCM key, by range of 512 KiB (R39). -/
structure KeySlot where
  st : Nat
  gcm : Bool
  root : Nat
  key : BitVec 512
  roots : Sparse DWord
  deriving DecidableEq, Repr

def KeySlot.empty : KeySlot := ⟨0, false, 0, 0, []⟩

/-- A registered image (R132, R133). -/
structure Image where
  hdr : DWord
  own : DWord
  digest : BitVec 384
  key : BitVec 384
  rcb : Nat
  deriving DecidableEq, Repr

/-- A quota root (R260 to R262). -/
structure Root where
  held : Bool
  rcb : Nat
  fn : Nat
  ed : BitVec 384
  ml : BitVec 384
  counter : DWord
  ring : Nat
  logn : Nat
  cblk : Nat
  seq : Nat
  written : Nat
  prev : BitVec 384
  records : List (List Byte)
  full : Bool
  deriving DecidableEq, Repr

def Root.none : Root :=
  { held := false, rcb := 0, fn := 0, ed := 0, ml := 0, counter := 0, ring := 0, logn := 0, cblk := 0, seq := 0, written := 0,
    prev := 0, records := [], full := false }

/-- A save area (R240, R413), in order of creation: the context whose image it holds. -/
structure SaveArea where
  base : Nat
  size : Nat
  ctx : Option Nat
  deriving DecidableEq, Repr

/-- The secure world (R244 to R262): the physical ranges that are tagged secure, the device save key's counter-tree roots (R240), the
commands being served, by mailbox, which mailbox was served last (R250), the key slot that a KEYERASE in progress erases (R258), deleted roots whose last records are still to be
written, by number (R262). -/
structure Mon where
  meas : Sparse (BitVec 384)
  deny : Word
  roll : Sparse Nat
  conf : Bool
  confNext : Bool
  dbg : Bool
  fwrange : Option (Nat × Nat)
  secured : List (Nat × Nat)
  keys : Sparse KeySlot
  tags : Sparse Tag
  saveKey : BitVec 512
  saveRoots : Sparse DWord
  areas : List SaveArea
  images : List (Nat × Image)
  nextHandle : Nat
  roots : Sparse Root
  late : List (Nat × Root)
  bufHost : Sparse Byte
  bufFw : Sparse Byte
  stHost : Word
  stFw : Word
  cmdHost : Word
  cmdFw : Word
  last : Mailbox
  erase : Option Nat
  report : List Byte
  deriving DecidableEq, Repr

def Mon.reset : Mon :=
  { meas := [], deny := 0, roll := [], conf := false, confNext := false, dbg := false, fwrange := none, secured := [], keys := [], tags := [],
    saveKey := 0, saveRoots := [], areas := [], images := [], nextHandle := 0x100, roots := [], late := [], bufHost := [], bufFw := [], stHost := 0,
    stFw := 0, cmdHost := 0, cmdFw := 0, last := .fw, erase := none, report := [] }

/-! ## The device -/

/-- A row of the pool (R73, R79): a 16-byte row of the scratchpad, of a warp's registers (by `8 × reg + slice`), of the accumulator
store (two elements). -/
inductive PoolRow where
  | scr (row : Nat)
  | reg (warp key : Nat)
  | acc (row : Nat)
  deriving DecidableEq, Repr

/-- A symbol of a slab's pool goes bad (R75): an input of the outside world. `slab` is the mesh core to which the slab is bound at gang
factor 1, `group` its check group, `sym` 0 to 15 the data bank and 16, 17 the check bank of the group (R78), `row` and `byte` the codeword,
`xv` the difference. -/
structure SymErr where
  slab : Nat
  group : Nat
  sym : Nat
  row : Nat
  byte : Nat
  xv : Byte
  deriving DecidableEq, Repr

/-- What happens next: an event of the table, an agent that issues, or an input of the outside world that no event names. -/
inductive Move where
  | event (i : Instr)
  | run (a : Agent)
  | symbol (e : SymErr)
  | upset (core : Nat) (u : Upset)
  /-- A GCM read of a line, by its number, finds that its tag or counter does not verify (R42, R406). -/
  | gcmFail (line : Nat)
  /-- A peer's monitor changes an entry of the peer's own crypt-tag table (R41). -/
  | peerTag (page : Nat) (t : Tag)
  /-- A peer's own agents write its memory (R31, R44, R186). -/
  | peerStore (addr : Nat) (bytes : List Byte) (poison : Bool)
  /-- A link's partner returns credits (R253, R267). -/
  | credit (port n : Nat)
  /-- Firmware or the host sends a message, or a frame, on a scale-out port (R267). -/
  | sendBytes (port dev : Nat) (bytes : List Byte)
  /-- Firmware or the host takes the oldest message or frame that a port received (R267). -/
  | takeBytes (port : Nat)
  /-- The time of a pause is over on priorities of an Ethernet port (R267). -/
  | pauseOver (port : Nat) (prios : BitVec 8)
  /-- A load and a store of a scheduler core, of 32 or 64 bits, at a local or a host physical address (R253, R265): `loc` as R31 codes it. -/
  | schedLoad (core loc addr width : Nat) (rd : BitVec 5)
  | schedStore (core loc addr width : Nat) (v : DWord)
  deriving DecidableEq, Repr

structure State where
  agenda : List Move
  cur : Agent
  focus : Agent
  freeCtr : Nat
  nextId : Nat
  mem : Mem
  fab : Fab
  cores : Sparse Core
  regions : Sparse Region
  ctxs : Sparse Ctx
  launches : Sparse Launch
  io : IO
  sched : Sparse Sched
  mon : Mon
  deriving DecidableEq, Repr

/-- The device at power-on, before the monitor's sequence of R245 (the event FULL_RESET) has run. -/
def State.reset : State :=
  { agenda := [], cur := .none, focus := .none, freeCtr := 0, nextId := 0, mem := Mem.reset, fab := Fab.reset, cores := [],
    regions := [], ctxs := [], launches := [], io := IO.reset, sched := [], mon := Mon.reset }

end Sys2Proof.Machine
end

