-- ==== Sys2Proof/Machine/Code.lean ====
section
/-!
DEFINITION. The check code of the SRAM pool (spec/04 R74 to R76): RS(18,16) over GF(2^8), its encoder and its decoder.
-/

namespace Sys2Proof.Machine

/-! ## GF(2^8) (R74) -/

/-- Multiplication by α = 0x02, modulo x^8 + x^4 + x^3 + x^2 + 1. -/
def gfX (a : Byte) : Byte := if bitAt a 7 then (a <<< 1) ^^^ 0x1D else a <<< 1

/-- α^n · a. -/
def gfPow : Nat → Byte → Byte
  | 0, a => a
  | n + 1, a => gfX (gfPow n a)

/-! ## The code -/

/-- The two check symbols of 16 data symbols: the remainder of their polynomial times x^2 by the generator
(x − 1)(x − α) = x^2 + (α + 1)x + α, the first data symbol being the highest coefficient (R74; DEDUCED, log 94). -/
def checkSymbols (data : List Byte) : Byte × Byte :=
  data.foldl (fun r d => (r.2 ^^^ (gfX (d ^^^ r.1) ^^^ (d ^^^ r.1)), gfX (d ^^^ r.1))) (0, 0)

/-- The codeword of 16 data symbols. -/
def codeword (data : List Byte) : List Byte := data ++ [(checkSymbols data).1, (checkSymbols data).2]

/-- The value of a word's polynomial at 1 and at α: both are zero for a codeword. -/
def syndromes (w : List Byte) : Byte × Byte := w.foldl (fun s d => (s.1 ^^^ d, gfX s.2 ^^^ d)) (0, 0)

/-- What the decoder of a word of 18 symbols answers. -/
inductive Decoded where
  /-- A codeword: nothing is changed. -/
  | clean
  /-- The symbol at a place is taken to be wrong by a difference. -/
  | fix (sym : Nat) (v : Byte)
  /-- No codeword is near enough: uncorrectable. -/
  | bad
  deriving DecidableEq, Repr

/-- The decoding of a word (R75, R76): one wrong symbol is placed by the two syndromes; with a failed bank its symbol is an erasure,
rebuilt from the other 17, and any disagreement of the second syndrome is an error that cannot be placed. -/
def decodeWord (failed : Option Nat) (w : List Byte) : Decoded :=
  let s := syndromes w
  match failed with
  | some p => if p < 18 then (if s.2 = gfPow (17 - p) s.1 then .fix p s.1 else .bad) else if s = (0, 0) then .clean else .bad
  | none =>
    if s = (0, 0) then .clean
    else
      match (List.range 18).find? fun p => s.1 ≠ 0 && s.2 = gfPow (17 - p) s.1 with
      | some p => .fix p s.1
      | none => .bad

end Sys2Proof.Machine
end

