-- ==== Sys2Proof/Machine/Ops.lean ====
section
/-!
DEFINITION. The named operations over registers, memory and the parts of a device, taking an exception (a program fault:
spec/13, R233, R234; a machine check: R104, R105, R237) and the return from one (R242), and the posting of event records
(R230 to R232).
-/

namespace Sys2Proof.Machine

/-! ## Bytes -/

/-- The little-endian number of a byte list (R4). -/
def leNat : List Byte → Nat
  | [] => 0
  | b :: r => b.toNat + 256 * leNat r

/-- The `n` little-endian bytes of a number (R4). -/
def leBytes : Nat → Nat → List Byte
  | 0, _ => []
  | n + 1, v => BitVec.ofNat 8 v :: leBytes n (v / 256)

/-- A number with one bit of a mask set or cleared. -/
def setBit {w : Nat} (m : BitVec w) (i : Nat) (b : Bool) : BitVec w :=
  if b then m ||| BitVec.ofNat w (2 ^ i) else m &&& ~~~ BitVec.ofNat w (2 ^ i)

/-- The positions of the set bits below `n`, rising. -/
def bitsOf {w : Nat} (m : BitVec w) (n : Nat) : List Nat := (List.range n).filter fun i => bitAt m i

/-- The mask of a list of positions. -/
def maskOf (w : Nat) (l : List Nat) : BitVec w := l.foldl (fun m i => setBit m i true) 0

/-! ## Registers (R7, R94 to R96) -/

/-- g register `n` of a lane. -/
def RF.readG (r : RF) (n lane : Nat) : Word := Sparse.get 0 r.g (32 * n + lane)

/-- k or q register `n`. -/
def RF.readK (r : RF) (n : Nat) : Word := Sparse.get 0 r.k n

/-- Predicate `p` of a lane; pt is always true. -/
def RF.readP (r : RF) (p lane : Nat) : Bool := if p = 7 then true else Sparse.get false r.p (32 * p + lane)

def RF.writeG (r : RF) (n lane : Nat) (v : Word) : RF := { r with g := Sparse.set 0 r.g (32 * n + lane) v }

def RF.writeK (r : RF) (n : Nat) (v : Word) : RF := { r with k := Sparse.set 0 r.k n v }

/-- A write of a predicate of a lane; a write to pt is discarded (R276). -/
def RF.writeP (r : RF) (p lane : Nat) (b : Bool) : RF :=
  if p = 7 then r else { r with p := Sparse.set false r.p (32 * p + lane) b }

/-- The register that a code names, as a lane reads it: gz reads zero. -/
def RF.read1 (r : RF) (c : BitVec 8) (lane : Nat) : Word :=
  if isGz c then 0 else if isG c then r.readG c.toNat lane else r.readK (kIdx c)

/-- The pair that a code names: the low word in the even register. -/
def RF.read2 (r : RF) (c : BitVec 8) (lane : Nat) : DWord :=
  if isGz c then 0 else r.read1 (c + 1) lane ++ r.read1 c lane

/-- The quad that a code names. -/
def RF.read4 (r : RF) (c : BitVec 8) (lane : Nat) : BitVec 128 :=
  if isGz c then 0 else r.read2 (c + 2) lane ++ r.read2 c lane

/-- One register or a pair, as a doubleword. -/
def RF.readD (r : RF) (n : Nat) (c : BitVec 8) (lane : Nat) : DWord :=
  if n = 1 then (r.read1 c lane).setWidth 64 else r.read2 c lane

/-- A write of the register that a code names: gz discards it. -/
def RF.write1 (r : RF) (c : BitVec 8) (lane : Nat) (v : Word) : RF :=
  if isGz c then r else if isG c then r.writeG c.toNat lane v else r.writeK (kIdx c) v

def RF.write2 (r : RF) (c : BitVec 8) (lane : Nat) (v : DWord) : RF :=
  if isGz c then r else (r.write1 c lane (v.setWidth 32)).write1 (c + 1) lane (v.extractLsb' 32 32)

def RF.write4 (r : RF) (c : BitVec 8) (lane : Nat) (v : BitVec 128) : RF :=
  if isGz c then r else (r.write2 c lane (v.setWidth 64)).write2 (c + 2) lane (v.extractLsb' 64 64)

/-- One register or a pair, from a doubleword. -/
def RF.writeD (r : RF) (n : Nat) (c : BitVec 8) (lane : Nat) (v : DWord) : RF :=
  if n = 1 then r.write1 c lane (v.setWidth 32) else r.write2 c lane v

/-- One, two or four registers, from 128 bits. -/
def RF.writeQ (r : RF) (n : Nat) (c : BitVec 8) (lane : Nat) (v : BitVec 128) : RF :=
  if n = 4 then r.write4 c lane v else r.writeD n c lane (v.setWidth 64)

/-- One, two or four registers, as 128 bits. -/
def RF.readQ (r : RF) (n : Nat) (c : BitVec 8) (lane : Nat) : BitVec 128 :=
  if n = 4 then r.read4 c lane else (r.readD n c lane).setWidth 128

/-- The write of a destination in every lane in which an instruction acts (R94, R95): a g register in each of them, a k
register once, with the value of the lowest; the values are those of `v`, formed before anything is written. -/
def RF.writeLanes (r : RF) (n : Nat) (c : BitVec 8) (acting : List Nat) (v : Nat → DWord) : RF :=
  if isK c then
    match acting with
    | [] => r
    | l :: _ => r.writeD n c l (v l)
  else acting.foldl (fun r l => r.writeD n c l (v l)) r

/-- The write of a predicate in every lane in which an instruction acts. -/
def RF.writePreds (r : RF) (p : Nat) (acting : List Nat) (v : Nat → Bool) : RF :=
  acting.foldl (fun r l => r.writeP p l (v l)) r

/-- A guard in one lane (R94). -/
def RF.guard (r : RF) (gd : BitVec 4) (lane : Nat) : Bool := r.readP (fieldN gd 0 3) lane != bitAt gd 3

/-! ## The parts of the device -/

def State.core (s : State) (c : Nat) : Core := Sparse.get Core.reset s.cores c
def State.setCore (s : State) (c : Nat) (k : Core) : State := { s with cores := Sparse.set Core.reset s.cores c k }
def State.modCore (s : State) (c : Nat) (f : Core → Core) : State := s.setCore c (f (s.core c))

def Core.warp (k : Core) (w : Nat) : Warp := Sparse.get Warp.absent k.warps w
def Core.setWarp (k : Core) (w : Nat) (x : Warp) : Core := { k with warps := Sparse.set Warp.absent k.warps w x }
def Core.modWarp (k : Core) (w : Nat) (f : Warp → Warp) : Core := k.setWarp w (f (k.warp w))

def Core.block (k : Core) (b : Nat) : Block := Sparse.get Block.absent k.blocks b
def Core.setBlock (k : Core) (b : Nat) (x : Block) : Core := { k with blocks := Sparse.set Block.absent k.blocks b x }
def Core.modBlock (k : Core) (b : Nat) (f : Block → Block) : Core := k.setBlock b (f (k.block b))

def Warp.slice (w : Warp) (j : Nat) : Slice := Sparse.get Slice.init w.slices j
def Warp.setSlice (w : Warp) (j : Nat) (x : Slice) : Warp := { w with slices := Sparse.set Slice.init w.slices j x }
def Warp.modSlice (w : Warp) (j : Nat) (f : Slice → Slice) : Warp := w.setSlice j (f (w.slice j))

/-- A block's sequencer: its matrix stream, or its copy stream. -/
def Block.seq (b : Block) (cp : Bool) : Seq := if cp then b.cp else b.mx
def Block.setSeq (b : Block) (cp : Bool) (q : Seq) : Block := if cp then { b with cp := q } else { b with mx := q }

def Core.seq (k : Core) (b : Nat) (cp : Bool) : Seq := (k.block b).seq cp
def Core.setSeq (k : Core) (b : Nat) (cp : Bool) (q : Seq) : Core := k.modBlock b fun x => x.setSeq cp q

def State.warp (s : State) (c w : Nat) : Warp := (s.core c).warp w
def State.modWarp (s : State) (c w : Nat) (f : Warp → Warp) : State := s.modCore c fun k => k.modWarp w f
def State.modBlock (s : State) (c b : Nat) (f : Block → Block) : State := s.modCore c fun k => k.modBlock b f
def State.setSeq (s : State) (c b : Nat) (cp : Bool) (q : Seq) : State := s.modCore c fun k => k.setSeq b cp q

/-- The registers of a warp replaced. -/
def State.setRF (s : State) (c w : Nat) (r : RF) : State := s.modWarp c w fun x => { x with rf := r }

def State.ctx (s : State) (n : Nat) : Ctx := Sparse.get Ctx.none s.ctxs n
def State.modCtx (s : State) (n : Nat) (f : Ctx → Ctx) : State :=
  { s with ctxs := Sparse.modify Ctx.none s.ctxs n f }

def State.region (s : State) (r : Nat) : Region := Sparse.get Region.none s.regions r
def State.modRegion (s : State) (r : Nat) (f : Region → Region) : State :=
  { s with regions := Sparse.modify Region.none s.regions r f }

def State.launch (s : State) (l : Nat) : Launch := Sparse.get Launch.none s.launches l
def State.modLaunch (s : State) (l : Nat) (f : Launch → Launch) : State :=
  { s with launches := Sparse.modify Launch.none s.launches l f }

/-- The region of a context. -/
def State.ctxRegion (s : State) (n : Nat) : Region := s.region (s.ctx n).rcb

/-- A fresh name for a request, a job, a task. -/
def State.fresh (s : State) : Nat × State := (s.nextId, { s with nextId := s.nextId + 1 })

/-- The next free value of the manual's open values (log 2). -/
def State.free (s : State) : DWord := Config.freeDWord s.freeCtr
def State.bump (s : State) : State := { s with freeCtr := s.freeCtr + 1 }

/-! ## Mesh, partitions, pool sizes -/

/-- The gang factor of a code (R81, R19). -/
def gfOf (code : Nat) : Nat := 2 ^ code

/-- The width and height of a gang group in mesh cores (R19). -/
def gangDim (code : Nat) : Nat × Nat := (if code = 0 then 1 else 2, if code = 2 then 2 else 1)

/-- The mesh coordinates of a core (R17). -/
def coreX (c : Nat) : Nat := c % 16
def coreY (c : Nat) : Nat := c / 16

/-- The cores of a gang group, lead first, then east, south, south-east (R19, R20). -/
def gangCores (code c : Nat) : List Nat :=
  if code = 0 then [c] else if code = 1 then [c, c + 1] else [c, c + 1, c + 16, c + 17]

/-- The (lead) cores of a rectangle, by rising relative index (R17, R19, R240). -/
def rectCores (px py pw ph code : Nat) : List Nat :=
  let d := gangDim code
  (List.range (ph / d.2)).flatMap fun j => (List.range (pw / d.1)).map fun i => 16 * (py + d.2 * j) + px + d.1 * i

/-- The relative index of a core in a rectangle (R240). -/
def relIndex (px py pw c : Nat) : Nat := (coreY c - py) * pw + (coreX c - px)

/-- The partition word's fields (R81). -/
def pwGF (p : Word) : Nat := fieldN p 24 2
def pwACU (p : Word) : Nat := fieldN p 16 8
def pwSPU (p : Word) : Nat := fieldN p 8 8
def pwRFU (p : Word) : Nat := fieldN p 0 8

def Core.gf (k : Core) : Nat := gfOf (pwGF k.pword)

/-- The scratchpad's size in bytes and its banks (R83). -/
def Core.scrSize (k : Core) : Nat := pwSPU k.pword * 131072
def Core.scrBanks (k : Core) : Nat := 16 * pwSPU k.pword

/-- The accumulator store's banks (R83). -/
def Core.accBanks (k : Core) : Nat := 16 * pwACU k.pword

/-- The quarter of a warp (R91). -/
def Core.quarterOf (k : Core) (w : Nat) : Nat := w % (4 * k.gf)

/-- The warp-registers of a warp of `n` registers (R82). -/
def gw (n : Nat) : Nat := (n + 7) / 8 * 8

/-! ## The pool: check groups (R73), rows that read zero until first written (R84), poison (R79) -/

/-- The key of a symbol in `bad`: its unit of 16 data banks, which is one check group, the symbol's bank in the group, row, byte. The
units are those of the register file, then the scratchpad's, then the accumulator store's. -/
def Core.symKey (unit sym row byte : Nat) : Nat := ((18 * unit + sym) * 512 + row) * 16 + byte

/-- The key of a symbol in a warp's `bad`: the pair of registers whose 16 rows are a row of their group, the symbol's bank, the byte. -/
def Warp.symKey (pair sym byte : Nat) : Nat := 16 * (18 * pair + sym) + byte

/-- What is wrong in a symbol and in its check symbols is gone: a write recomputes them (R74). -/
def mendSyms (key : Nat → Nat) (sym : Nat) (m : Sparse Byte) : Sparse Byte :=
  if m.isEmpty then m else [sym, 16, 17].foldl (fun m y => Sparse.erase m (key y)) m

/-- A bank's number in the `clean` map: scratchpad banks from 0, accumulator banks from 4096, register-file banks from 8192. -/
def bankKey (use : PoolUse) (bank : Nat) : Nat :=
  match use with
  | .scr => bank
  | .acc => 4096 + bank
  | .reg => 8192 + bank

/-- A row's number in the `touched` map. -/
def rowKey (use : PoolUse) (bank row : Nat) : Nat := 512 * bankKey use bank + row

/-- Whether a row of a bank still reads as all zero (R84). -/
def Core.freshRow (k : Core) (use : PoolUse) (bank row : Nat) : Bool :=
  Sparse.get false k.clean (bankKey use bank) && !Sparse.get false k.touched (rowKey use bank row)

/-- The bank and row of a 16-byte row of the scratchpad (R88). -/
def Core.scrBank (k : Core) (r16 : Nat) : Nat := r16 % k.scrBanks
def Core.scrRow (k : Core) (r16 : Nat) : Nat := r16 / k.scrBanks
def Core.scrFresh (k : Core) (r16 : Nat) : Bool := k.freshRow .scr (k.scrBank r16) (k.scrRow r16)

/-- Where a 16-byte row of the scratchpad, or a row of the accumulator store, lies: its unit, its bank in the group, its row (R73, R83,
R88, R90). -/
def Core.scrPlace (k : Core) (r16 : Nat) : Nat × Nat × Nat :=
  (pwRFU k.pword + k.scrBank r16 / 16, k.scrBank r16 % 16, k.scrRow r16)
def Core.accPlace (k : Core) (r : Nat) : Nat × Nat × Nat := (pwRFU k.pword + pwSPU k.pword + r / 8192, r / 512 % 16, r % 512)

/-- A write of bytes of a row recomputes the check symbols of their codewords (R74). -/
def Core.mend (k : Core) (pl : Nat × Nat × Nat) (bytes : List Nat) : Core :=
  { k with bad := bytes.foldl (fun m b => mendSyms (fun y => Core.symKey pl.1 y pl.2.2 b) pl.2.1 m) k.bad }

/-- The four words of a barrier object (R377). -/
def Bar.words (b : Bar) : Nat :=
  (b.exp % 4096) * 2 ^ 20 + (b.arr % 4096) * 2 ^ 8 + b.ph.toNat * 2 ^ 32 + b.abh.toNat * 2 ^ 64

/-- The registered barrier object that holds a byte (R377). -/
def Core.barAt (k : Core) (ofs : Nat) : Option BarObj := k.bars.find? fun o => o.ofs ≤ ofs && ofs < o.ofs + 16

/-- A scratchpad byte: a registered barrier object's state (R377), zero in a row not yet touched (R84), or the stored byte. -/
def Core.scrByte (k : Core) (ofs : Nat) : Byte :=
  match k.barAt ofs with
  | some o => BitVec.ofNat 8 (o.bar.words / 256 ^ (ofs - o.ofs))
  | none => if k.scrFresh (ofs / 16) then 0 else Sparse.get 0 k.scr ofs

/-- The full/empty tag of a scratchpad word (R84, R86). -/
def Core.scrTag (k : Core) (w : Nat) : Bool := !k.scrFresh (w / 4) && Sparse.get false k.tags w

/-- The poison of a scratchpad row (R79, R84). -/
def Core.scrPoison (k : Core) (r16 : Nat) : Bool := !k.scrFresh r16 && Sparse.get false k.scrPois r16

/-- The first write to a row: a zero row, tags empty, no poison, and the row is touched (R84). -/
def Core.touchScr (k : Core) (r16 : Nat) : Core :=
  let k := if k.scrFresh r16 then
      { k with
        scr := (List.range 16).foldl (fun m i => Sparse.set 0 m (16 * r16 + i) 0) k.scr
        tags := (List.range 4).foldl (fun m i => Sparse.set false m (4 * r16 + i) false) k.tags
        scrPois := Sparse.set false k.scrPois r16 false }.mend (k.scrPlace r16) (List.range 16)
    else k
  { k with touched := Sparse.set false k.touched (rowKey .scr (k.scrBank r16) (k.scrRow r16)) true }

/-- A write of one scratchpad byte; a byte of a registered barrier object discards it (R377). -/
def Core.putScr (k : Core) (ofs : Nat) (b : Byte) : Core :=
  if (k.barAt ofs).isSome then k
  else { k.touchScr (ofs / 16) with scr := Sparse.set 0 (k.touchScr (ofs / 16)).scr ofs b }.mend (k.scrPlace (ofs / 16)) [ofs % 16]

/-- The 16-byte units that a write of `len` bytes at `a` covers whole. -/
def wholeUnits (a len : Nat) : List Nat :=
  (List.range ((len + 31) / 16)).filterMap fun i =>
    let r := a / 16 + i
    if a ≤ 16 * r && 16 * r + 16 ≤ a + len then some r else none

/-- The 16-byte units that `len` bytes at `a` touch. -/
def units16 (a len : Nat) : List Nat := if len = 0 then [] else (List.range ((a + len - 1) / 16 + 1 - a / 16)).map (a / 16 + ·)

def putScrAll (k : Core) : Nat → List Byte → Core
  | _, [] => k
  | ofs, b :: r => putScrAll (k.putScr ofs b) (ofs + 1) r

/-- A write to the scratchpad: a row covered whole loses its poison (R79). -/
def Core.writeScr (k : Core) (ofs : Nat) (bs : List Byte) : Core :=
  let k := putScrAll k ofs bs
  { k with scrPois := (wholeUnits ofs bs.length).foldl (fun m r => Sparse.set false m r false) k.scrPois }

def Core.readScr (k : Core) (ofs len : Nat) : List Byte := (List.range len).map fun i => k.scrByte (ofs + i)

def Core.scrNat (k : Core) (ofs len : Nat) : Nat := leNat (k.readScr ofs len)

/-- The first poisoned row that an access touches. -/
def Core.scrPoisonAt (k : Core) (ofs len : Nat) : Option Nat := (units16 ofs len).find? fun r => k.scrPoison r

/-- A row written poisoned; a registered barrier object discards the write (R377). -/
def Core.poisonScr (k : Core) (r16 : Nat) : Core :=
  if (k.barAt (16 * r16)).isSome then k
  else { k.touchScr r16 with scrPois := Sparse.set false (k.touchScr r16).scrPois r16 true }

def Core.setTag (k : Core) (w : Nat) (full : Bool) : Core :=
  { k.touchScr (w / 4) with tags := Sparse.set false (k.touchScr (w / 4)).tags w full }

/-- A tile element by its number in the store, 1,024 to a bank (R90): chain E low, chain O high; zero in an untouched row. -/
def Core.accElem (k : Core) (e : Nat) : DWord :=
  if k.freshRow .acc (e / 1024) (e % 1024 / 2) then 0 else Sparse.get 0 k.acc e

/-- The poison of an element: that of its row (R79, R90). -/
def Core.accPoison (k : Core) (e : Nat) : Bool :=
  !k.freshRow .acc (e / 1024) (e % 1024 / 2) && Sparse.get false k.accPois (e / 2)

/-- A write of one tile element: a part of its row, which stays poisoned if it was (R79); in an untouched row the other element is
zero (R84). -/
def Core.putAcc (k : Core) (e : Nat) (v : DWord) : Core :=
  let bank := e / 1024
  let row := e % 1024 / 2
  let twin := if e % 2 = 0 then e + 1 else e - 1
  let k := if k.freshRow .acc bank row then
      { k with acc := Sparse.set 0 k.acc twin 0, accPois := Sparse.set false k.accPois (e / 2) false }.mend (k.accPlace (e / 2)) (List.range 16)
    else k
  { k with acc := Sparse.set 0 k.acc e v, touched := Sparse.set false k.touched (rowKey .acc bank row) true }.mend (k.accPlace (e / 2))
    ((List.range 8).map (8 * (e % 2) + ·))

/-- The rows whose two elements follow one another in a list of elements written together lose their poison (R79). -/
def Core.clearAccRows (k : Core) (es : List Nat) : Core :=
  { k with accPois := (es.zip (es.drop 1)).foldl (fun m p =>
      if p.1 % 2 = 0 ∧ p.2 = p.1 + 1 then Sparse.set false m (p.1 / 2) false else m) k.accPois }

/-- The row of an element marked poisoned. -/
def Core.poisonAcc (k : Core) (e : Nat) : Core := { k with accPois := Sparse.set false k.accPois (e / 2) true }

/-- Banks handed over to a use (R84): clean bits set, touched bits cleared. -/
def Core.handOver (k : Core) : Core :=
  { k with
    bad := []
    clean := ((List.range k.scrBanks).map (bankKey .scr) ++ (List.range k.accBanks).map (bankKey .acc)
      ++ (List.range (16 * pwRFU k.pword)).map (bankKey .reg)).map fun b => (b, true)
    touched := [] }

/-- The register rows of a warp handed over at its start (R85): the clean bits of their banks are set; the warp has touched none of them. -/
def Core.handOverRuns (k : Core) (runs : List Nat) : Core :=
  { k with clean := runs.foldl (fun m r => (List.range 16).foldl (fun m i => Sparse.set false m (bankKey .reg (16 * (r / 128) + i)) true) m) k.clean }

/-! ## The register file in the pool (R79, R82, R84, R85) -/

/-- Whether a row of a warp's registers reads as zero: it has not been touched since the warp started (R84, R85); the clean bit of a bank with
such a row is set. -/
def Warp.freshRow (x : Warp) (key : Nat) : Bool := !Sparse.get false x.tch key

/-- Registers written in lanes, as (register, lane): their rows are touched, and the check symbols recomputed, of the whole row when it
was not touched before (R74, R84). -/
def Warp.wrote (x : Warp) (ws : List (Nat × Nat)) : Warp :=
  ws.foldl (fun x p =>
    let key := 8 * p.1 + p.2 / 4
    let bytes := if x.freshRow key then List.range 16 else (List.range 4).map (4 * (p.2 % 4) + ·)
    { x with
      tch := Sparse.set false x.tch key true
      bad := bytes.foldl (fun m b => mendSyms (fun y => Warp.symKey (p.1 / 2) y b) (8 * (p.1 % 2) + p.2 / 4) m) x.bad }) x

/-- A zero row that the scrubber writes into an untouched row of a warp's registers. -/
def Warp.scrubRow (x : Warp) (key : Nat) : Warp :=
  if x.freshRow key then
    { x with
      tch := Sparse.set false x.tch key true
      bad := (List.range 16).foldl (fun m b => mendSyms (fun y => Warp.symKey (key / 16) y b) (key % 16) m) x.bad }
  else x

/-! ## Global memory (R31, R406) -/

/-- A byte by location (0 local HBM, 1 peer, 2 host) and physical address. -/
def Mem.byte (m : Mem) (loc a : Nat) : Byte :=
  if loc = 0 then Sparse.get 0 m.hbm a else if loc = 1 then Sparse.get 0 m.peer a else Sparse.get 0 m.host a

def Mem.put (m : Mem) (loc a : Nat) (b : Byte) : Mem :=
  if loc = 0 then { m with hbm := Sparse.set 0 m.hbm a b }
  else if loc = 1 then { m with peer := Sparse.set 0 m.peer a b }
  else { m with host := Sparse.set 0 m.host a b }

def Mem.putAll (m : Mem) (loc : Nat) : Nat → List Byte → Mem
  | _, [] => m
  | a, b :: r => Mem.putAll (m.put loc a b) loc (a + 1) r

/-- The poison of a granule: local and peer memory keep it, host memory where the host does (R406). -/
def Mem.granPoison (m : Mem) (loc g : Nat) : Bool :=
  if loc = 0 then Sparse.get false m.pois g else if loc = 1 then Sparse.get false m.peerPois g else Sparse.get false m.hostPois g

def Mem.setPoison (m : Mem) (loc g : Nat) (b : Bool) : Mem :=
  if loc = 0 then { m with pois := Sparse.set false m.pois g b }
  else if loc = 1 then { m with peerPois := Sparse.set false m.peerPois g b }
  else if loc = 2 then { m with hostPois := Sparse.set false m.hostPois g (b && Config.hostKeepsPoison) }
  else m

/-- A write: a granule covered whole loses its poison (R406); a write to a peer discards the local peer-read copies of the
lines it touches (R44). -/
def Mem.write (m : Mem) (loc a : Nat) (bs : List Byte) : Mem :=
  let m := m.putAll loc a bs
  let m := (wholeUnits a bs.length).foldl (fun m g => m.setPoison loc g false) m
  if loc = 1 then
    { m with peerRd := (units16 a bs.length).foldl (fun t g => Sparse.set none t (g / 8) none) m.peerRd }
  else m

/-- A write some of whose bytes are discarded: the granules of which every byte is written lose their poison (R406). -/
def Mem.writeBut (hid : Nat → Bool) (m : Mem) (loc a : Nat) (bs : List Byte) : Mem :=
  let m := ((List.range bs.length).zip bs).foldl (fun m p => if hid (a + p.1) then m else m.put loc (a + p.1) p.2) m
  let m := ((wholeUnits a bs.length).filter fun g => !(List.range 16).any fun i => hid (16 * g + i)).foldl (fun m g => m.setPoison loc g false) m
  if loc = 1 then
    { m with peerRd := (units16 a bs.length).foldl (fun t g => Sparse.set none t (g / 8) none) m.peerRd }
  else m

def Mem.read (m : Mem) (loc a len : Nat) : List Byte := (List.range len).map fun i => m.byte loc (a + i)

def Mem.readNat (m : Mem) (loc a len : Nat) : Nat := leNat (m.read loc a len)

def Mem.poisoned (m : Mem) (loc a len : Nat) : Bool := (units16 a len).any fun g => m.granPoison loc g

/-- A doubleword of local HBM. -/
def Mem.dword (m : Mem) (a : Nat) : DWord := BitVec.ofNat 64 (m.readNat 0 a 8)

/-- The effect of an access on the record of a local line (R43): `pol` 2 does not keep the line. -/
def Mem.touchLine (m : Mem) (a pol : Nat) (dirty : Bool) : Mem :=
  let l := Sparse.get L2Line.absent m.l2 (a / 128)
  if pol = 2 && !l.held then m
  else { m with l2 := Sparse.set L2Line.absent m.l2 (a / 128) { l with held := true, dirty := l.dirty || dirty } }

/-- Whether no byte of memory is closed to the other agents: no carve-out of the service firmware (R248), no range that is tagged
secure (R244). -/
def State.openMem (s : State) : Bool := s.mon.fwrange.isNone && s.mon.secured.isEmpty

/-- Whether a byte is closed to every agent but the scheduler cores: it lies in the service firmware's carve-out (R248), or in a range
that the monitor tagged secure (R244). -/
def State.inFirmware (s : State) (loc a : Nat) : Bool :=
  loc == 0 && (s.mon.fwrange.toList ++ s.mon.secured).any fun r => decide (r.1 ≤ a) && decide (a < r.1 + r.2)

/-- An access denied: counted in DENY (R244). -/
def State.deny (s : State) : State :=
  { s with mon := { s.mon with deny := if s.mon.deny = 0xFFFFFFFF then s.mon.deny else s.mon.deny + 1 } }

/-- Whether an access touches a byte that is closed to it. -/
def State.closed (s : State) (loc a len : Nat) : Bool := !s.openMem && (List.range len).any fun i => s.inFirmware loc (a + i)

/-- A read of closed bytes is counted (R244). -/
def State.denyRead (s : State) (loc a len : Nat) : State := if s.closed loc a len then s.deny else s

/-- The crypt-tag entry of a page (R39). -/
def State.tag (s : State) (page : Nat) : Tag := Sparse.get Tag.clear s.mon.tags page

def State.key (s : State) (n : Nat) : KeySlot := Sparse.get KeySlot.empty s.mon.keys n

/-- A line of a GCM page written: its counter and its tag change, and its range's counter-tree root on chip, in the page's key slot or
beside the device save key (R39, R42). They stand beside memory; what the bytes of the range's last eighth, where the device lays them out, then hold
is open: free values (DESIGN CHOICE, log 128). -/
def State.gcmLine (s : State) (line : Nat) : State :=
  let t := s.tag (line / 512)
  if t.mode ≠ 2 then s
  else
    let ctr := (Sparse.get GcmLine.zero s.mem.gcm line).ctr + 1
    let key := if t.sv then s.mon.saveKey else (s.key t.slot).key
    let tag := Config.gcmTag key line ctr (s.mem.read 0 (128 * line) 128)
    let root := fun (m : Sparse DWord) => Sparse.modify 0 m (line / 4096) fun r => Config.ctrRoot r line ctr
    { s with
      mem := { s.mem with gcm := Sparse.set GcmLine.zero s.mem.gcm line ⟨ctr, tag⟩, failed := s.mem.failed.filter (· != line) }
      mon := if t.sv then { s.mon with saveRoots := root s.mon.saveRoots }
        else { s.mon with keys := Sparse.modify KeySlot.empty s.mon.keys t.slot fun k => { k with roots := root k.roots } } }

/-- The GCM lines of a local write (R42). -/
def State.gcmWrote (s : State) (loc a len : Nat) : State :=
  if loc = 0 && s.mon.tags.any fun p => p.2.mode == 2 then
    ((units16 a len).map (· / 8)).dedup.foldl State.gcmLine s
  else s

/-- A write of memory by any agent: the bytes that are closed to it are discarded, and the write is counted (R244, R248). -/
def State.writeMem (s : State) (loc a : Nat) (bs : List Byte) : State :=
  if s.closed loc a bs.length then
    ({ s.deny with mem := s.mem.writeBut (s.inFirmware loc) loc a bs } : State).gcmWrote loc a bs.length
  else ({ s with mem := s.mem.write loc a bs } : State).gcmWrote loc a bs.length

/-- Whether a byte lies in the header of an armed object other than `own`, which discards the stores of every agent (R169). -/
def State.inHeader (s : State) (own : Option Nat) (loc a : Nat) : Bool :=
  loc == 0 && s.fab.objs.any fun o => o.2.armed && own != some o.1 && o.1 ≤ a && a < o.1 + 64

/-- Whether a range meets the header of an armed object. -/
def State.armedHeader (s : State) (loc a len : Nat) : Bool :=
  loc == 0 && s.fab.objs.any fun o => o.2.armed && o.1 < a + len && a < o.1 + 64

/-- A write of local memory of which some bytes are discarded for a reason of the writer's own, beside those that are closed to it: those
in the headers of armed objects (R169), and those that the host may not write (R240, R254). -/
def State.writeHid (s : State) (hid : Nat → Bool) (a : Nat) (bs : List Byte) : State :=
  let t := if s.closed 0 a bs.length then s.deny else s
  ({ t with mem := s.mem.writeBut (fun i => hid i || s.inFirmware 0 i) 0 a bs } : State).gcmWrote 0 a bs.length

/-- Whether a store by an agent to a range is discarded: its bytes are closed to it, or lie in the header of an armed object. -/
def State.discards (s : State) (loc a len : Nat) : Bool := s.closed loc a len || s.armedHeader loc a len

/-- A granule written poisoned (R72, R406), unless the write is discarded (R169, R248). -/
def State.poisonMem (s : State) (loc g : Nat) : State :=
  if s.inFirmware loc (16 * g) || s.armedHeader loc (16 * g) 16 then s else { s with mem := s.mem.setPoison loc g true }

/-- What an agent other than a scheduler core reads: closed bytes read zero (R244, R248; log 27). -/
def State.readGlobal (s : State) (loc a len : Nat) : Nat :=
  if s.openMem then s.mem.readNat loc a len
  else leNat ((List.range len).map fun i => if s.inFirmware loc (a + i) then 0 else s.mem.byte loc (a + i))

/-- Memory as it reads to an agent: closed bytes are zero, without poison (R244, R248). -/
def Mem.without (m : Mem) (rs : List (Nat × Nat)) : Mem :=
  if rs.isEmpty then m
  else
    let out := fun (a : Nat) => !rs.any fun r => decide (r.1 ≤ a) && decide (a < r.1 + r.2)
    { m with hbm := m.hbm.filter fun c => out c.1, pois := m.pois.filter fun c => out (16 * c.1) }

/-- Memory as every agent but the monitor and the scheduler cores reads it. -/
def State.seen (s : State) : Mem := s.mem.without (s.mon.fwrange.toList ++ s.mon.secured)

/-- Memory as the scheduler cores read it: the service firmware's carve-out is theirs (R248), a range that is tagged secure is not
(R244). -/
def State.seenSched (s : State) : Mem := s.mem.without s.mon.secured

/-- A read of the scheduler cores that touches a secure range is counted (R244). -/
def State.denySched (s : State) (a len : Nat) : State :=
  if s.mon.secured.any fun r => decide (r.1 < a + len) && decide (a < r.1 + r.2) then s.deny else s

def State.writeHbm64 (s : State) (a : Nat) (v : DWord) : State := s.writeMem 0 a (leBytes 8 v.toNat)

/-- The device's peer-read cache discarded (R44). -/
def State.dropPeerReads (s : State) : State := { s with mem := { s.mem with peerRd := [] } }

/-! ## Event records (R230 to R232, R264) -/

/-- Whether a queue accepts records: EN, and LOGN from 4 to 15. -/
def EvQ.open? (q : EvQ) : Bool := bitAt q.b 63 && 4 ≤ fieldN q.b 58 5 && fieldN q.b 58 5 ≤ 15

/-- One record to the event queue of a fault domain: written and counted in WI, with an interrupt message unless one is
unacknowledged, or dropped and counted in OVF. -/
def State.post (s : State) (dom : Nat) (d0 d1 d2 d3 : DWord) : State :=
  let q := Sparse.get EvQ.reset s.io.evq dom
  if q.open? && (q.wi - q.ri).toNat != 2 ^ fieldN q.b 58 5 then
    let a := fieldN q.b 0 53 / 32 * 32 + 32 * (q.wi.toNat % 2 ^ fieldN q.b 58 5)
    let s := s.writeMem 0 a (leBytes 8 d0.toNat ++ leBytes 8 d1.toNat ++ leBytes 8 d2.toNat ++ leBytes 8 d3.toNat)
    { s with io := { s.io with
        evq := Sparse.set EvQ.reset s.io.evq dom { q with wi := q.wi + 1, msg := true }
        irqs := if q.msg then s.io.irqs else s.io.irqs ++ [dom] } }
  else
    { s with io := { s.io with evq := Sparse.set EvQ.reset s.io.evq dom { q with ovf := min 65535 (q.ovf + 1) } } }

/-- Dword 2 of a record other than MC (R231). -/
def evDword2 (code : Nat) (asn : BitVec 16) (fdom info2 : Nat) : DWord :=
  BitVec.ofNat 64 (code * 2 ^ 56 + asn.toNat * 2 ^ 40 + (fdom % 256) * 2 ^ 32 + info2 % 2 ^ 32)

/-- A record to the fault domain of a region (R232). -/
def State.postRegion (s : State) (rcb code : Nat) (i0 i1 : DWord) (i2 : Nat) (i3 : DWord) : State :=
  let r := s.region rcb
  s.post r.fdom i0 i1 (evDword2 code r.asn r.fdom i2) i3

/-- A record to the device-health domain 255 (R232): no region's ASN stands in it. -/
def State.postHealth (s : State) (code : Nat) (i0 i1 : DWord) (i2 : Nat) : State :=
  s.post 255 i0 i1 (evDword2 code 0 255 i2) 0

/-! ## Taking a program fault (R233, R234, R236), and the return from one (R242) -/

/-- The fault codes of R229. -/
def cIF : BitVec 8 := 0x01
def cII : BitVec 8 := 0x02
def cPF : BitVec 8 := 0x03
def cPP : BitVec 8 := 0x04
def cAL : BitVec 8 := 0x05
def cCA : BitVec 8 := 0x06
def cBD : BitVec 8 := 0x07
def cGM : BitVec 8 := 0x08
def cAU : BitVec 8 := 0x09
def cAB : BitVec 8 := 0x0A
def cSL : BitVec 8 := 0x0B
def cQF : BitVec 8 := 0x0C
def cTP : BitVec 8 := 0x0D
def cXF : BitVec 8 := 0x0E
def cSQMC : BitVec 8 := 0x0F

/-- A context gone: the launches that wait for its cores keep their ranking (R239). -/
def Ctx.gone (x : Ctx) : Ctx := { Ctx.none with queued := x.queued }

/-- The halt line of a context raised (R233, R239): a running context starts to halt; a fault code marks its image, and the first
is kept (R234). -/
def Ctx.halt (x : Ctx) (code : BitVec 8) : Ctx :=
  { x with st := if x.st = .running then .halting else x.st, flt := x.flt || code != 0, first := if x.first = 0 then code else x.first }

/-- The fields of a slice that its record shows: it stays at the faulting instruction (R234, R236). -/
def Slice.fault (x : Slice) (code : BitVec 8) (fva opw : DWord) : Slice :=
  { x with st := .faulted, park := .none, code := code, fva := fva, opw := opw }

/-- A program fault taken by slices of a warp: each stops at the instruction and holds its record's fields, and the halt
line of the context rises (R233, R234, R236). -/
def State.raise (s : State) (c w : Nat) (sls : List Nat) (code : BitVec 8) (fva opw : DWord) : State :=
  (s.modWarp c w fun x => sls.foldl (fun x j => x.modSlice j fun y => y.fault code fva opw) x).modCtx
    ((s.core c).block (s.warp c w).block).ctx fun x => x.halt code

/-- A program fault taken by a sequencer (R211, R411). -/
def State.raiseSeq (s : State) (c b : Nat) (cp : Bool) (code : BitVec 8) (fva opw : DWord) : State :=
  (s.setSeq c b cp { (s.core c).seq b cp with st := .faulted, park := .none, code := code, fva := fva, opw := opw }).modCtx
    ((s.core c).block b).ctx fun x => x.halt code

/-! ## Exceptions of a scheduler core (R222, R223) -/

def State.schedCore (s : State) (c : Nat) : Sched := Sparse.get Sched.reset s.sched c
def State.modSched (s : State) (c : Nat) (f : Sched → Sched) : State :=
  { s with sched := Sparse.modify Sched.reset s.sched c f }

/-- A synchronous exception taken by a scheduler core (R222, R223): `mepc` holds the address of the instruction, `mcause` the
cause, `mtval` zero; `mstatus` keeps MIE in MPIE, clears MIE and holds machine mode in MPP; the pc goes to `mtvec`'s base
(PRESUMED: the machine-mode entry of RISC-V, which the manual names and does not describe, log 6). -/
def Sched.trap (k : Sched) (cause : Nat) : Sched :=
  let mie := bitAt k.mstatus 3
  { k with
    mepc := k.pc
    mcause := BitVec.ofNat 64 cause
    mtval := 0
    mstatus := setBit (setBit (setBit (setBit k.mstatus 7 mie) 3 false) 11 true) 12 true
    pc := k.mtvec &&& ~~~3
    asleep := false }

/-- The exception on a core of the device. -/
def State.schedTrap (s : State) (c cause : Nat) : State := s.modSched c fun k => k.trap cause

/-- Register `x n`: x0 reads zero. -/
def Sched.read (k : Sched) (n : BitVec 5) : DWord := if n = 0 then 0 else Sparse.get 0 k.x n.toNat

/-- A write of register `x n`: x0 discards it. -/
def Sched.write (k : Sched) (n : BitVec 5) (v : DWord) : Sched :=
  if n = 0 then k else { k with x := Sparse.set 0 k.x n.toNat v }

/-- An instruction of a scheduler core completes: its result, and the next pc. -/
def State.schedDone (s : State) (c : Nat) (rd : BitVec 5) (v : DWord) : State :=
  s.modSched c fun k => { k.write rd v with pc := k.pc + 4, asleep := false }

/-! ## Slices and gangs (R212, R213) -/

/-- The boundary rule of R213, repeated while the slice stands at the join of its innermost entry: `n` bounds the rounds. -/
def Slice.settle : Nat → Slice → Slice
  | 0, x => x
  | n + 1, x =>
    match x.stack with
    | [] => if x.mask = 0 then { x with st := .exited, park := .none } else x
    | top :: rest =>
      if x.pc = top.join || x.mask = 0 then
        if top.pend ≠ 0 then
          Slice.settle n { x with pc := top.ppc, mask := top.pend, stack := { top with pend := 0 } :: rest }
        else Slice.settle n { x with pc := top.join, mask := top.m, stack := rest }
      else x

/-- A slice that goes on at an address: 57 bits (R24, R382). -/
def Slice.goto (x : Slice) (pc : DWord) : Slice :=
  Slice.settle 24 { x with pc := pc &&& 0x1FFFFFFFFFFFFFF, st := .running, park := .none, served := 0, tok := none, ready := false }

/-- The slices of the gang of slice `j` that have not exited (R212). -/
def Warp.gangOf (w : Warp) (j : Nat) : List Nat :=
  (List.range 8).filter fun i => bitAt (w.slice j).gang i && (w.slice i).st != .exited

/-- The gangs into which the slices of one gang part: one per distinct next PC (R212). An exited slice is in no gang. A gang
that made a first issue now (`first`), or that forms now, has age 0 (R215). -/
def Warp.part (w : Warp) (ms : List Nat) (now : DWord) (first : Bool) : Warp :=
  ms.foldl (fun v i =>
    let same := ms.filter fun j => (w.slice j).st != .exited && (w.slice i).st != .exited && (w.slice j).pc == (w.slice i).pc
    v.modSlice i fun x => { x with gang := maskOf 8 same, issued := if first || x.gang != maskOf 8 same then now else x.issued }) w

/-- The slices of a gang that complete go to their next PCs; then the gang parts (R212). -/
def Warp.advance (w : Warp) (ms : List Nat) (next : List (Nat × DWord)) (now : DWord) (first : Bool) : Warp :=
  (next.foldl (fun v p => v.modSlice p.1 fun x => x.goto p.2) w).part ms now first

/-- The lanes of a slice that its mask holds. -/
def Warp.activeLanes (w : Warp) (j : Nat) : List Nat := ((List.range 4).filter fun i => bitAt (w.slice j).mask i).map (4 * j + ·)

/-- The acting lanes of slices under a guard, rising (R92, R94). -/
def Warp.actingLanes (w : Warp) (ms : List Nat) (gd : BitVec 4) : List Nat :=
  ms.flatMap fun j => (w.activeLanes j).filter fun l => w.rf.guard gd l

/-- The slices of a list that hold an acting lane. -/
def actingSlices (acting ms : List Nat) : List Nat := ms.filter fun j => acting.any fun l => l / 4 == j

/-- The gangs that a restored or retried warp holds: the slices of each recorded gang that agree on the PC (R212). -/
def Warp.regroup (w : Warp) (now : DWord) : Warp :=
  (List.range 8).foldl (fun v j => v.part (v.gangOf j) now false) w

/-- The return from a program fault (R242): RES = 1 retries the instruction; RES = 2 goes on at the following one, past an
extension word (R273), at PC + 8 for a fetch fault (R399). RES = 3, which kills the warp, is the caller's. -/
def Slice.resume (x : Slice) (res : Nat) : Slice :=
  if x.st = .faulted then
    let y := { x with st := .running, code := 0, fva := 0, opw := 0 }
    if res = 2 then y.goto (x.pc + (if bitAt x.opw 63 then 16 else 8)) else y
  else x

def Seq.resume (x : Seq) (res : Nat) : Seq :=
  if x.st = .faulted then
    let y := { x with st := if res = 3 then .exited else .running, code := 0, fva := 0, opw := 0 }
    if res = 2 then { y with pc := x.pc + (if bitAt x.opw 63 then 16 else 8) } else y
  else x

/-! ## Barriers (R374, R375, R237) -/

/-- A phase completes: ABH shows whether it is abandoned; the next phase takes the count that a BARINIT.nb or a kill left. -/
def Bar.complete (b : Bar) : Bar :=
  { b with
    arr := 0
    ph := b.ph + 1
    abh := setBit b.abh (b.ph.toNat % 32) b.aband
    aband := false
    arrived := []
    exp := (b.next.getD b.exp) - b.less
    next := none
    less := 0 }

def Bar.check (b : Bar) : Bar := if b.exp ≤ b.arr then b.complete else b

/-- One arrival that is no warp's: a sequencer's, or a matrix job's (R374). -/
def Bar.arrive (b : Bar) : Bar := Bar.check { b with arr := b.arr + 1 }

/-- A warp's arrival takes effect when every slice that has not exited has recorded one (R374). -/
def Bar.take (b : Bar) (w : Nat) (left : BitVec 8) : Bar :=
  let r := Sparse.get 0 b.recd w
  if r ≠ 0 ∧ left &&& ~~~ r = 0 then
    Bar.check { b with
      recd := Sparse.set 0 b.recd w 0
      arr := b.arr + 1
      arrived := if b.arrived.contains w then b.arrived else b.arrived ++ [w]
      counted := if b.counted.contains w then b.counted else b.counted ++ [w] }
  else b

/-- A slice records its arrival; `left` are the slices of the warp that have not exited. -/
def Bar.record (b : Bar) (w j : Nat) (left : BitVec 8) : Bar :=
  Bar.take { b with recd := Sparse.set 0 b.recd w (setBit (Sparse.get 0 b.recd w) j true) } w left

/-- Whether a slice's earlier arrival has not yet taken effect (R374). -/
def Bar.pending (b : Bar) (w j : Nat) : Bool := bitAt (Sparse.get 0 b.recd w) j

/-- A killed warp leaves a barrier in which it was counted (R237). -/
def Bar.leave (b : Bar) (w : Nat) : Bar :=
  let out := { b with recd := Sparse.set 0 b.recd w 0, counted := b.counted.filter (· != w) }
  if b.all || b.counted.contains w then
    if b.arrived.contains w then { out with less := out.less + 1 }
    else Bar.check { out with exp := out.exp - 1, aband := true }
  else out

/-- The slices of a warp that have not exited. -/
def Warp.left (w : Warp) : BitVec 8 := maskOf 8 ((List.range 8).filter fun i => (w.slice i).st != .exited)

/-- A numbered barrier of a block: at block start EXPC is the warp count and every warp is counted (R374, R375). -/
def Block.bar (b : Block) (n : Nat) : Bar := Sparse.get (Bar.init b.nwarps true) b.nbar n
def Block.setBar (b : Block) (n : Nat) (x : Bar) : Block :=
  { b with nbar := Sparse.set (Bar.init b.nwarps true) b.nbar n x }

/-- Every barrier of a warp's block changed by one function. -/
def Core.modBars (k : Core) (b : Nat) (f : Bar → Bar) : Core :=
  let k := k.modBlock b fun x => (List.range 16).foldl (fun x n => x.setBar n (f (x.bar n))) x
  { k with bars := k.bars.map fun o => if o.block = b then { o with bar := f o.bar } else o }

/-! ## The end of a warp and of a task (R207, R383, R104) -/

/-- Whether every slice of a warp has exited. -/
def Warp.done (w : Warp) : Bool := (List.range 8).all fun i => (w.slice i).st == .exited

/-- The bands of a warp released in every tile of its block (R150, R383). -/
def Core.releaseBands (k : Core) (b w : Nat) : Core :=
  { k with tiles := Sparse.mapVals Tile.free k.tiles fun h t =>
      if h / 16 = b then { t with bands := t.bands.filter fun x => x.warp != w } else t }

/-- Replies to a warp that is gone are discarded; the accesses themselves go on (R104, R383). -/
def Fab.dropReplies (f : Fab) (uid : Nat) : Fab :=
  { f with reqs := (f.reqs.map fun r =>
      { r with parts := r.parts.map fun p => if p.uid = uid then { p with live := false } else p }).filter fun r =>
        !r.done || r.parts.any fun p => p.live }

/-- The waiters of a warp leave every bank (R304). -/
def State.dropWaiters (s : State) (c w : Nat) : State :=
  { s with cores := Sparse.mapVals Core.reset s.cores fun _ k =>
      { k with waiters := k.waiters.filter fun y => !(y.core = c && y.warp = w) } }

/-! ## Charges (R201; log 29) -/

/-- The kinds of charge with a budget: core-cycles, bank-cycles, HBM bytes, link bytes; the fifth counter of a usage record is the
matrix operations. -/
def budgetKinds : Nat := 4

def Region.chargeOf (r : Region) (k : Nat) : Nat := r.charge.getD k 0
def Region.budgetOf (r : Region) (k : Nat) : Nat := r.budget.getD k 0

/-- A region and its ancestors; `fuel` bounds the depth. -/
def State.chain (s : State) : Nat → Nat → List Nat
  | 0, r => [r]
  | n + 1, r => if (s.region r).parent = 0 then [r] else r :: s.chain n (s.region r).parent

/-- Use added to a region and to every ancestor (R201). -/
def State.addCharge (s : State) (rcb : Nat) (l : List Nat) : State :=
  (s.chain s.regions.length rcb).foldl (fun t r => t.modRegion r fun q =>
    { q with charge := (List.range 5).map fun i => q.chargeOf i + l.getD i 0 }) s

/-- The data banks held for the region that uses a core (R81). -/
def Core.banksHeld (k : Core) : Nat := 16 * (pwRFU k.pword + pwSPU k.pword + pwACU k.pword)

/-- The core-cycles and bank-cycles of a core since they were last charged (R201). -/
def State.coreCharge (s : State) (c : Nat) : State :=
  let k := s.core c
  let n := (k.cycle - k.charged).toNat
  match k.use with
  | none => s
  | some r => if n = 0 then s else (s.addCharge r [k.gf * n, k.banksHeld * n, 0, 0, 0]).modCore c fun k => { k with charged := k.cycle }

/-- Those of every core. -/
def State.coreCharges (s : State) : State := (s.cores.map Prod.fst).foldl State.coreCharge s

/-- An access of a region moved bytes of local HBM, or over a link (R201). -/
def State.moves (s : State) (rcb loc : Nat) : State :=
  let r := s.region rcb
  if loc = 0 then (if r.hbm || !r.live then s else s.modRegion rcb fun r => { r with hbm := true })
  else if loc = 1 ∨ loc = 2 then (if r.link || !r.live then s else s.modRegion rcb fun r => { r with link := true })
  else s

/-! ## Warps that leave -/

/-- PMCNT of a warp counts `n` of an event that PMSEL selects (R392). -/
def Warp.counts (x : Warp) (ev n : Nat) : Warp := if x.pmsel.toNat = ev then { x with pmcnt := x.pmcnt + BitVec.ofNat 64 n } else x

/-- A warp is gone, exited or killed: its bands, its waits and its replies (R104, R150, R304, R383). A task that it held while it was parked at
SOW goes with it and is counted on: the launch does not complete (DESIGN CHOICE, log 136). -/
def State.endWarp (s : State) (c w : Nat) : State :=
  let x := s.warp c w
  let s := (s.modCore c fun k => (k.releaseBands x.block w).setWarp w Warp.absent).dropWaiters c w
  { s with fab := s.fab.dropReplies x.uid }

end Sys2Proof.Machine
end

