-- ==== Sys2Proof/Machine/Operands.lean ====
section
/-!
DEFINITION. Operand forms (spec/05 R96 to R98, spec/06 R109, spec/16 R278, R285): elements of a typed value, the source
modifiers, immediates, the source lanes of a shuffle (spec/18 R341, R342), and the result of an integer operation wrapped or clamped.
-/

namespace Sys2Proof.Machine

/-- The width of an element of a type and the number of elements (R285). -/
def elemW (ty : BitVec 4) : Nat :=
  if 10 ≤ ty.toNat then 64 else if ty.toNat ≤ 3 then 32 else if ty.toNat ≤ 7 then 16 else 8

def elemN (ty : BitVec 4) : Nat := if isPacked ty then 32 / elemW ty else 1

/-- Element `i` of a value, as its bits. -/
def elem (ty : BitVec 4) (v : DWord) (i : Nat) : Nat := v.toNat / 2 ^ (elemW ty * i) % 2 ^ elemW ty

/-- A value from the bits of its elements (R109: element 0 in the least significant bits). -/
def pack (ty : BitVec 4) (f : Nat → Nat) : DWord :=
  BitVec.ofNat 64 ((List.range (elemN ty)).foldr (fun i acc => f i % 2 ^ elemW ty * 2 ^ (elemW ty * i) + acc) 0)

/-- The integer that an element's bits stand for: two's complement for a signed type. -/
def intOf (ty : BitVec 4) (x : Nat) : Int :=
  if isSigned ty && 2 ^ (elemW ty - 1) ≤ x then (x : Int) - 2 ^ elemW ty else x

/-- The range of an element of an integer type (R109). -/
def intLo (ty : BitVec 4) : Int := if isSigned ty then -(2 ^ (elemW ty - 1)) else 0
def intHi (ty : BitVec 4) : Int := if isSigned ty then 2 ^ (elemW ty - 1) - 1 else 2 ^ elemW ty - 1

/-- The bits of an integer modulo 2^w. -/
def wrapInt (w : Nat) (x : Int) : Nat := (x % (2 ^ w : Int)).toNat

/-- The bits of an exact result: clamped to the type's range under satint, wrapped otherwise (R97, R98, R328). -/
def fitInt (ty : BitVec 4) (clp : BitVec 2) (x : Int) : Nat :=
  wrapInt (elemW ty) (if clp = 3 then max (intLo ty) (min (intHi ty) x) else x)

/-- The floating format of a type (R285). -/
def fmtOf (ty : BitVec 4) : FpFmt := if ty = 4 then bf16 else if ty = 5 then fp16 else fp32

/-- The source modifiers on an element's bits, absolute value first; integers wrap (R98). -/
def modBits (ty : BitVec 4) (n a : BitVec 1) (x : Nat) : Nat :=
  if isFloat ty then (fmtOf ty).modify (n == 1) (a == 1) x
  else
    let x := if a = 1 ∧ intOf ty x < 0 then wrapInt (elemW ty) (-(intOf ty x)) else x
    if n = 1 then wrapInt (elemW ty) (-(intOf ty x)) else x

/-- A source operand of a type in a lane, its modifiers applied to each element (R98). -/
def RF.src (r : RF) (ty : BitVec 4) (c : BitVec 8) (n a : BitVec 1) (lane : Nat) : DWord :=
  let v := r.readD (nreg ty) c lane
  if n = 0 ∧ a = 0 then v else pack ty fun i => modBits ty n a (elem ty v i)

/-- Source operands of formats A and B. -/
def srcA (f : FmtA) (r : RF) (l : Nat) : DWord := r.src f.ty f.a f.na f.aa l
def srcB (f : FmtA) (r : RF) (l : Nat) : DWord := r.src f.ty f.b f.nb f.ab l
def srcC (f : FmtA) (r : RF) (l : Nat) : DWord := r.src f.ty f.c f.nc f.ac l
def srcI (f : FmtB) (r : RF) (l : Nat) : DWord := r.src f.ty f.a f.na f.aa l

/-- The immediate operand I of format B (R278). -/
def immOf (f : FmtB) : DWord :=
  if f.x = 1 then (if f.ty = 11 then f.imm32.signExtend 64 else f.imm32.setWidth 64)
  else if f.ty = 1 then (f.imm16.signExtend 32).setWidth 64
  else if f.ty = 11 then f.imm16.signExtend 64
  else if f.ty = 3 then (f.imm16 ++ (0 : BitVec 16)).setWidth 64
  else if f.ty = 4 ∨ f.ty = 5 ∨ f.ty = 6 ∨ f.ty = 7 then (f.imm16 ++ f.imm16).setWidth 64
  else if f.ty = 8 ∨ f.ty = 9 then
    let b : BitVec 8 := f.imm16.setWidth 8
    (b ++ b ++ b ++ b).setWidth 64
  else f.imm16.setWidth 64

/-- An integer operation on two values, element by element, formed exactly (R328). -/
def intOp2 (ty : BitVec 4) (clp : BitVec 2) (op : Int → Int → Int) (a b : DWord) : DWord :=
  pack ty fun i => fitInt ty clp (op (intOf ty (elem ty a i)) (intOf ty (elem ty b i)))

def intOp3 (ty : BitVec 4) (clp : BitVec 2) (op : Int → Int → Int → Int) (a b c : DWord) : DWord :=
  pack ty fun i => fitInt ty clp (op (intOf ty (elem ty a i)) (intOf ty (elem ty b i)) (intOf ty (elem ty c i)))

/-- The scale exponent of SC (R97). -/
def scaleOf (sc : BitVec 3) : Int := sc.toInt

/-- The flush of a mode byte: FZ = 0xE (R327). -/
def flushOf (c : BitVec 8) : Bool := field c 4 4 == 0xE#4

/-- A rounding code in a field where 0 is RNE (R118). -/
def modeOf (c : Nat) : Nat := if c = 0 then 1 else c

/-- An operation on the exact values of two sources, element by element, scaled, rounded with RNE and clamped (R98, R333). -/
def fpOp2 (ty : BitVec 4) (clp : BitVec 2) (sc : BitVec 3) (ftz : Bool) (op : FpVal → FpVal → FpVal) (a b : DWord) : DWord :=
  let t := fmtOf ty
  pack ty fun i => t.deliver 1 (scaleOf sc) ftz clp.toNat
    (op (t.decode (t.flush ftz (elem ty a i))) (t.decode (t.flush ftz (elem ty b i))))

def fpOp3 (ty : BitVec 4) (clp : BitVec 2) (sc : BitVec 3) (op : FpVal → FpVal → FpVal → FpVal) (a b c : DWord) : DWord :=
  let t := fmtOf ty
  pack ty fun i => t.deliver 1 (scaleOf sc) false clp.toNat
    (op (t.decode (elem ty a i)) (t.decode (elem ty b i)) (t.decode (elem ty c i)))

/-- The exact product and sum of FFMA (R333). -/
def fma (a b c : FpVal) : FpVal := (a.mul b).add c

/-! ## The lanes of a shuffle -/

/-- The width and the base of a lane's group (R341). -/
def groupW (c : BitVec 8) : Nat := 2 ^ fieldN c 0 3
def groupBase (c : BitVec 8) (l : Nat) : Nat := l - l % groupW c

/-- The source lanes of the four shuffles (R342). -/
def srcIndex (c : BitVec 8) (l b : Nat) : Nat := groupBase c l + b % groupW c
def srcUp (c : BitVec 8) (l b : Nat) : Nat := groupBase c l + (l % groupW c + groupW c - b % groupW c) % groupW c
def srcDown (c : BitVec 8) (l b : Nat) : Nat := groupBase c l + (l % groupW c + b) % groupW c
def srcXor (c : BitVec 8) (l b : Nat) : Nat := groupBase c l + ((l % groupW c) ^^^ (b % groupW c))

end Sys2Proof.Machine
end

