-- ==== Sys2Proof/Machine/Pool.lean ====
section
/-!
DEFINITION. The pool's check groups, what a read finds in their codewords, and the fault map (spec/04 R73 to R80); the background
scrubber (R84).
-/

namespace Sys2Proof.Machine

/-! ## The fault map (R77, R78) -/

/-- The number of a check group: 32 to a slab (R73, R78). -/
def groupKey (slab group : Nat) : Nat := 32 * slab + group

/-- A word of the pool fault map (R78): FV and FB as manufacturing test recorded them until they are written. -/
def State.poolWord (s : State) (slab group : Nat) : Word :=
  match Sparse.get none s.io.poolMap (groupKey slab group) with
  | some w => w
  | none => Config.poolFuse (groupKey slab group) &&& 0xBE000000

def State.setPoolWord (s : State) (slab group : Nat) (w : Word) : State :=
  { s with io := { s.io with poolMap := Sparse.set none s.io.poolMap (groupKey slab group) (some w) } }

/-- The pool-reliability event (R77, R231). -/
def State.postPool (s : State) (slab group : Nat) : State :=
  s.postHealth 0x80 (BitVec.ofNat 64 slab) (BitVec.ofNat 64 group) (s.poolWord slab group).toNat

/-- A bank marked as its group's failed bank (R77, R78). -/
def markFailed (w : Word) (bank : Nat) : Word := (w &&& 0xC1FFFFFF) ||| BitVec.ofNat 32 (2 ^ 31 + bank % 32 * 2 ^ 25)

/-- POOL_FAULT_MAP_WRITE (R78): a write of FV = 1 while it is 0 marks bank FB. A number from 18 to 31, which names no bank, is marked as
it stands (DESIGN CHOICE, log 95). -/
def execPoolFaultMapWrite (slab group : Nat) (v : Word) (s : State) : Host.Outcome State Fault Refusal :=
  .next <|
    let w := s.poolWord slab group
    if Config.numCores ≤ slab || 32 ≤ group || bitAt w 31 || !bitAt v 31 then s
    else (s.setPoolWord slab group (markFailed w (fieldN v 25 5))).postPool slab group

/-- A symbol corrected in a bank (R77, R78): the group's and the bank's counts; the sixty-fourth marks the bank failed, or
sets DEG. -/
def State.countSymbol (s : State) (slab group bank : Nat) : State :=
  let w := s.poolWord slab group
  let key := 18 * groupKey slab group + bank
  let n := Sparse.get 0 s.io.poolCnt key + 1
  let w := (w &&& 0xFFFF00E0) ||| BitVec.ofNat 32 (min 255 (fieldN w 8 8 + 1) * 256 + bank % 32)
  let s := { s with io := { s.io with poolCnt := Sparse.set 0 s.io.poolCnt key n } }
  if n ≠ 64 then s.setPoolWord slab group w
  else
    let w := if bitAt w 31 then w ||| 0x40000000 else markFailed w bank
    (s.setPoolWord slab group w).postPool slab group

/-! ## The rows of a check group (R20, R73, R83) -/

/-- The check group of a core that serves a unit of its pool (R83): 0 to 32 × f − 1. -/
def Core.groupOf (k : Core) (c unit : Nat) : Nat :=
  if h : unit < 32 * k.gf then (Config.poolGroups c k.pword (32 * k.gf) ⟨unit, h⟩).val else unit

/-- The slab and the group in it of a group of a core: slab k of a gang holds data banks 512k and up, check banks 64k and up (R20,
R73). -/
def Core.slabOf (k : Core) (c g : Nat) : Nat × Nat := ((gangCores (pwGF k.pword) c).getD (g / 32) c, g % 32)

/-- The row of warp-register pairs of the register file that holds a pair of a warp's registers; 16 rows of a group are a pair, and four
pairs a run (R82). -/
def Warp.pairRow (x : Warp) (pair : Nat) : Nat := 4 * x.runs.getD (pair / 4) 0 + pair % 4

/-- The warp whose registers a row of the register file holds, and the number of its first register there (R82). -/
def Core.warpAt (k : Core) (row : Nat) : Option (Nat × Nat) :=
  (k.warps.find? fun p => p.2.live && p.2.runs.contains (row / 4)).map fun p => (p.1, 2 * (4 * p.2.runs.idxOf (row / 4) + row % 4))

/-- The row that a data bank of a unit holds. -/
def Core.rowAt (k : Core) (unit sym row : Nat) : Option PoolRow :=
  if unit < pwRFU k.pword then (k.warpAt (512 * unit + row)).map fun p => .reg p.1 (8 * p.2 + sym)
  else if unit < pwRFU k.pword + pwSPU k.pword then some (.scr (k.scrBanks * row + (16 * (unit - pwRFU k.pword) + sym)))
  else if unit < pwRFU k.pword + pwSPU k.pword + pwACU k.pword then
    some (.acc (512 * (16 * (unit - pwRFU k.pword - pwSPU k.pword) + sym) + row))
  else none

/-- Whether a row still reads as zero (R84). -/
def Core.rowFresh (k : Core) : PoolRow → Bool
  | .scr r => k.scrFresh r
  | .reg w key => (k.warp w).freshRow key
  | .acc r => k.freshRow .acc (r / 512) (r % 512)

/-- A byte that a row holds by its codeword. -/
def Core.rowByte (k : Core) (byte : Nat) : PoolRow → Byte
  | .scr r => Sparse.get 0 k.scr (16 * r + byte)
  | .reg w key => ((k.warp w).rf.readG (key / 8) (4 * (key % 8) + byte / 4)).extractLsb' (8 * (byte % 4)) 8
  | .acc r => (Sparse.get 0 k.acc (2 * r + byte / 8)).extractLsb' (8 * (byte % 8)) 8

/-- A byte of a row changed by a difference. -/
def Core.flipByte (k : Core) (byte : Nat) (x : Byte) : PoolRow → Core
  | .scr r => { k with scr := Sparse.modify 0 k.scr (16 * r + byte) (· ^^^ x) }
  | .reg w key => k.modWarp w fun v =>
    let l := 4 * (key % 8) + byte / 4
    { v with rf := v.rf.writeG (key / 8) l (v.rf.readG (key / 8) l ^^^ (x.setWidth 32 <<< (8 * (byte % 4)))) }
  | .acc r => { k with acc := Sparse.modify 0 k.acc (2 * r + byte / 8) (· ^^^ (x.setWidth 64 <<< (8 * (byte % 8)))) }

/-- A row marked poisoned (R79); a row that is not yet touched reads as zero whatever its bank holds (R84). -/
def Core.poisonRow (k : Core) : PoolRow → Core
  | .scr r => if k.scrFresh r then k else k.poisonScr r
  | .reg w key => k.modWarp w fun x => if x.freshRow key then x else { x with rp := Sparse.set false x.rp key true }
  | .acc r => if k.freshRow .acc (r / 512) (r % 512) then k else k.poisonAcc (2 * r)

/-! ## Codewords (R74) -/

/-- The codeword that byte `byte` of row `row` of a unit's group belongs to, as it should be: an untouched row holds zero (R84). -/
def Core.word (k : Core) (unit row byte : Nat) : List Byte :=
  codeword ((List.range 16).map fun i => match k.rowAt unit i row with
    | some r => if k.rowFresh r then 0 else k.rowByte byte r
    | none => 0)

/-- What is wrong in its 18 symbols in the array. -/
def Core.wrong (k : Core) (unit row byte : Nat) : List Byte :=
  (List.range 18).map fun y =>
    if unit < pwRFU k.pword then
      match k.warpAt (512 * unit + row) with
      | some p => Sparse.get 0 (k.warp p.1).bad (Warp.symKey (p.2 / 2) y byte)
      | none => 0
    else Sparse.get 0 k.bad (Core.symKey unit y row byte)

/-- The symbols in the array changed by differences. -/
def Core.strike (k : Core) (unit row byte : Nat) (d : List Byte) : Core :=
  if unit < pwRFU k.pword then
    match k.warpAt (512 * unit + row) with
    | some p => k.modWarp p.1 fun v => { v with bad := (List.range 18).foldl (fun m y =>
        Sparse.modify 0 m (Warp.symKey (p.2 / 2) y byte) (· ^^^ d.getD y 0)) v.bad }
    | none => k
  else { k with bad := (List.range 18).foldl (fun m y => Sparse.modify 0 m (Core.symKey unit y row byte) (· ^^^ d.getD y 0)) k.bad }

/-- What a read takes the codeword to be changed by a codeword of differences `d`: the array stays as it is, so what was wrong in it is
told from the new word (R75: correction writes nothing back). -/
def Core.misread (k : Core) (unit row byte : Nat) (d : List Byte) : Core :=
  (List.range 16).foldl (fun k i => match k.rowAt unit i row with
    | some r => if d.getD i 0 = 0 || k.rowFresh r then k else k.flipByte byte (d.getD i 0) r
    | none => k) (k.strike unit row byte d)

/-- An uncorrectable codeword poisons the row that holds the bad symbol, or every data row of the group row (R79). -/
def Core.poisonGroup (k : Core) (unit row : Nat) (e : List Byte) : Core :=
  let bad := (List.range 16).filter fun i => e.getD i 0 != 0
  (if Config.poolPlaced e && !bad.isEmpty then bad else List.range 16).foldl (fun k i => match k.rowAt unit i row with
    | some r => k.poisonRow r
    | none => k) k

/-! ## Reads (R75 to R77) -/

/-- A read of core `c` decodes a codeword, with the fault map as it stood when the access began (R75, R77): it is right, or corrected
and counted, or taken for another codeword, or it poisons. -/
def State.meetWord (s0 : State) (c : Nat) (s : State) (at_ : Nat × Nat × Nat) : State :=
  let k := s.core c
  let (unit, row, byte) := at_
  let e := k.wrong unit row byte
  if e.all (· == 0) then s
  else
    let g := k.slabOf c (k.groupOf c unit)
    let w := s0.poolWord g.1 g.2
    let failed := if bitAt w 31 then some (fieldN w 25 5) else none
    let e := match failed with
      | some p => e.set p 0
      | none => e
    let n := (e.filter (· != 0)).length
    if (if failed.isSome then 2 else 3) ≤ n then
      match Config.poolMany e with
      | some d => s.modCore c fun k => k.misread unit row byte d
      | none => s.modCore c fun k => k.poisonGroup unit row e
    else
      match decodeWord failed ((k.word unit row byte).zipWith (· ^^^ ·) (k.wrong unit row byte)) with
      | .clean => s
      | .bad => s.modCore c fun k => k.poisonGroup unit row e
      | .fix p v =>
        if failed.isSome then s
        else
          let d := e.set p (e.getD p 0 ^^^ v)
          (if d.all (· == 0) then s else s.modCore c fun k => k.misread unit row byte d).countSymbol g.1 g.2 p

/-- A read of codewords by one access. -/
def State.meetWords (s : State) (c : Nat) (ws : List (Nat × Nat × Nat)) : State := ws.dedup.foldl (s.meetWord c) s

/-- A read of bytes of a core's scratchpad; a row not yet touched reads as zero (R84). -/
def State.meetScr (s : State) (c ofs len : Nat) : State :=
  let k := s.core c
  if k.bad.isEmpty then s
  else s.meetWords c (((List.range len).filter fun i => !k.scrFresh ((ofs + i) / 16)).map fun i =>
    ((k.scrPlace ((ofs + i) / 16)).1, (k.scrPlace ((ofs + i) / 16)).2.2, (ofs + i) % 16))

/-- A read of elements of a core's accumulator store. -/
def State.meetAcc (s : State) (c : Nat) (es : List Nat) : State :=
  let k := s.core c
  if k.bad.isEmpty then s
  else s.meetWords c ((es.filter fun e => !k.rowFresh (.acc (e / 2))).flatMap fun e => (List.range 8).map fun i =>
    ((k.accPlace (e / 2)).1, (k.accPlace (e / 2)).2.2, 8 * (e % 2) + i))

/-- A read of rows of a warp's registers. -/
def State.meetRegs (s : State) (c w : Nat) (rows : List Nat) : State :=
  let x := s.warp c w
  if x.bad.isEmpty then s
  else s.meetWords c ((rows.filter fun r => !x.freshRow r).flatMap fun r => (List.range 16).map fun i =>
    let p := x.pairRow (r / 16)
    (p / 512, p % 512, i))

/-- A read of everything that a core's pool holds. -/
def State.meetCore (s : State) (c : Nat) : State :=
  let k := s.core c
  let s := if k.bad.isEmpty then s
    else s.meetWords c (k.bad.map fun p => (p.1 / 16 / 512 / 18, p.1 / 16 % 512, p.1 % 16))
  k.warps.foldl (fun s p => s.meetRegs c p.1 (List.range (8 * p.2.nregs))) s

/-- The lead core in whose pool a slab lies. -/
def State.leadOf (s : State) (slab : Nat) : Option Nat :=
  [slab, slab - 1, slab - 16, slab - 17].find? fun c => (s.core c).use.isSome && (gangCores (pwGF (s.core c).pword) c).contains slab

/-- A symbol of the array goes bad (R75). A row not yet touched reads as zero whatever its bank holds, and so does a check symbol of such
rows alone (R84). -/
def State.symbolBad (s : State) (e : SymErr) : State :=
  match s.leadOf e.slab with
  | none => s
  | some c =>
    let k := s.core c
    match (List.range (32 * k.gf)).find? fun u => k.slabOf c (k.groupOf c u) == (e.slab, e.group) with
    | none => s
    | some u =>
      let held := fun y => match k.rowAt u y e.row with
        | some r => !k.rowFresh r
        | none => false
      if 18 ≤ e.sym || 512 ≤ e.row || 16 ≤ e.byte || !(if e.sym < 16 then held e.sym else (List.range 16).any held) then s
      else s.modCore c fun k => k.strike u e.row e.byte ((List.replicate 18 0).set e.sym e.xv)

/-! ## The scrubber (R84) -/

/-- The banks of a use (R83). -/
def Core.banksOf (k : Core) : PoolUse → Nat
  | .scr => k.scrBanks
  | .acc => k.accBanks
  | .reg => 16 * pwRFU k.pword

/-- Whether a row of a bank is touched: one of a register-file bank that a warp holds, by the warp. -/
def Core.touchedRow (k : Core) (use : PoolUse) (bank row : Nat) : Bool :=
  match (if use = .reg then k.rowAt (bank / 16) (bank % 16) row else none) with
  | some r => !k.rowFresh r
  | none => Sparse.get false k.touched (rowKey use bank row)

/-- Whether every row of a bank is touched. -/
def Core.bankTouched (k : Core) (use : PoolUse) (bank : Nat) : Bool := (List.range 512).all fun r => k.touchedRow use bank r

/-- A zero row written into an untouched row of a bank: of a register-file bank, in the warp that holds it, or beside the warps. -/
def Core.scrubRow (k : Core) (use : PoolUse) (bank row : Nat) : Core :=
  match use with
  | .acc => (k.putAcc (1024 * bank + 2 * row) 0).putAcc (1024 * bank + 2 * row + 1) 0
  | .scr => k.touchScr (k.scrBanks * row + bank)
  | .reg =>
    match k.rowAt (bank / 16) (bank % 16) row with
    | some (.reg w key) => k.modWarp w fun x => x.scrubRow key
    | some (.scr _) | some (.acc _) | none => { k with touched := Sparse.set false k.touched (rowKey .reg bank row) true }

/-- POOL_SCRUB_ROW (R84): a zero row written into an untouched row of a clean bank; the clean bit goes once every row is
touched. -/
def execPoolScrubRow (core : Nat) (use : PoolUse) (bank row : Nat) (s : State) : Host.Outcome State Fault Refusal :=
  .next <| s.modCore core fun k =>
    if k.banksOf use ≤ bank || 512 ≤ row || !Sparse.get false k.clean (bankKey use bank) then k
    else
      let k := if k.touchedRow use bank row then k else k.scrubRow use bank row
      if k.bankTouched use bank then { k with clean := Sparse.set false k.clean (bankKey use bank) false } else k

end Sys2Proof.Machine
end

