-- ==== Sys2Proof/Machine/Translate.lean ====
section
/-!
DEFINITION. Translation of global addresses (spec/02, R23, R24, R30 to R36), the checks of a leaf (R33, R40, R41), and
scratchpad addresses (R25 to R27).
-/

namespace Sys2Proof.Machine

/-- What an access asks of a leaf (R33). -/
inductive Want where
  | read | write | update | fetch
  deriving DecidableEq, Repr

/-- The index of a walk's entry at a level (R30). -/
def walkIndex (level : Nat) (va : Nat) : Nat :=
  if level = 0 then va / 2 ^ 16 % 32 else va / 2 ^ (12 + 9 * level) % 512

/-- The logarithm of the page that a leaf of a level maps (R30). -/
def leafLog (level : Nat) : Nat := if level = 0 then 16 else 12 + 9 * level

/-- Fields of a translation entry (R31). -/
def ePA (e : DWord) : Nat := fieldN e 12 41 * 4096
def eKey (e : DWord) : Nat := fieldN e 56 7
def eCrypt (e : DWord) : Nat := fieldN e 54 2
def eLoc (e : DWord) : Nat := fieldN e 5 2
def eCP (e : DWord) : Nat := fieldN e 7 2
def eMir (e : DWord) : Bool := bitAt e 11
def eSA (e : DWord) : Bool := bitAt e 10
def eSEC (e : DWord) : Bool := bitAt e 9

/-- A walk's defects in a leaf of a level (R32). -/
def leafBad (level : Nat) (e : DWord) : Bool :=
  bitAt e 63 || bitAt e 53 || eCrypt e == 3 || eCP e == 3 || eLoc e == 3 || 3 ≤ level || ePA e % 2 ^ leafLog level != 0
    || (eMir e && eLoc e != 0) || (eLoc e == 0 && Config.hbmBytes ≤ ePA e)

/-- A walk's defects in an entry that points to a table (R32). -/
def tableBad (level : Nat) (e : DWord) : Bool :=
  bitAt e 63 || level == 0 || fieldN e 53 10 != 0 || fieldN e 2 10 != 0 || Config.hbmBytes ≤ ePA e

/-- A walk from the table at `base` of a level down to its leaf, with the leaf's page size, or PF (R30, R32). -/
def walkFrom (m : Mem) (va : Nat) : Nat → Nat → Option (DWord × Nat)
  | level, base =>
    let e := m.dword (base + 8 * walkIndex level va)
    if !bitAt e 0 then none
    else if bitAt e 1 then (if leafBad level e then none else some (e, leafLog level))
    else if tableBad level e then none
    else match level with
      | 0 => none
      | l + 1 => walkFrom m va l (ePA e)

/-- The entries that a walk reads. -/
def walkReads (m : Mem) (va : Nat) : Nat → Nat → List Nat
  | level, base =>
    let a := base + 8 * walkIndex level va
    let e := m.dword a
    if !bitAt e 0 || bitAt e 1 || tableBad level e then [a]
    else match level with
      | 0 => [a]
      | l + 1 => a :: walkReads m va l (ePA e)

/-- A walk of a region's tables (R30). -/
def Mem.walk (m : Mem) (troot va : Nat) : Option (DWord × Nat) :=
  if Config.hbmBytes ≤ troot then none else walkFrom m va 4 troot

/-- The cached translation that covers an address. -/
def tlbFind (t : List TlbEnt) (asn : BitVec 16) (va : Nat) : Option TlbEnt :=
  t.find? fun e => e.asn = asn && e.page = va / 2 ^ e.log

/-- The physical address under a leaf. -/
def TlbEnt.pa (e : TlbEnt) (va : Nat) : Nat := ePA e.leaf + va % 2 ^ e.log

/-- Whether a key slot serves a region with an active key (R40, R256). -/
def State.keyServes (s : State) (slot : Nat) (r : Region) : Bool :=
  let k := s.key slot
  k.st == 1 && k.root == r.root && bitAt r.keys slot

/-- The check of a receiver against an entry of its crypt-tag table (R40, R41). -/
def Tag.admits (t : Tag) (crypt key : Nat) (write : Bool) : Bool :=
  if t.sv then !write && crypt == 2 && t.mode == 2 else t.mode != 3 && crypt == t.mode && (crypt == 0 || key == t.slot)

/-- The entry of a peer's own crypt-tag table for a page (R41). -/
def State.peerTag (s : State) (pa : Nat) : Tag := Sparse.get Tag.clear s.mem.peerTags (pa / 65536)

/-- The crypt checks (R40, R41): the fault they raise. A peer's check of its own table is made here, at the instruction, so that its CA is
precise (R234; log 18). -/
def State.cryptFault (s : State) (r : Region) (leaf : DWord) (pa : Nat) (w : Want) : Option (BitVec 8) :=
  if eLoc leaf = 2 then (if eCrypt leaf = 2 then some cCA else none)
  else if eLoc leaf = 1 then
    (if (s.peerTag pa).admits (eCrypt leaf) (eKey leaf) (w = .write || w = .update) then none else some cCA)
  else
    let t := s.tag (pa / 65536)
    if t.sv then
      if w = .write ∨ w = .update then some cPP
      else if eCrypt leaf ≠ 2 ∨ t.mode = 3 then some cCA else none
    else if eCrypt leaf ≠ t.mode ∨ t.mode = 3 then some cCA
    else if eCrypt leaf ≠ 0 ∧ (eKey leaf ≠ t.slot ∨ !s.keyServes t.slot r) then some cCA
    else none

/-- Whether the host lets a device access reach a host address: a window of R266 that is in force holds it, with WOK for a
write or an atomic (R253). -/
def State.dmaOk (s : State) (pa : Nat) (w : Want) : Bool :=
  (List.range 16).any fun n =>
    let b := Sparse.get 0 s.io.dmaB n
    let base := fieldN (Sparse.get 0 s.io.dmaA n) 12 41
    bitAt b 63 && base * 4096 ≤ pa && pa < (base + fieldN b 0 41) * 4096 && ((w = .read || w = .fetch) || bitAt b 62)

/-! ## Links and routes (R253, R263, R267 to R270) -/

def State.port (s : State) (n : Nat) : Link := Sparse.get Link.reset s.io.links n
def State.modLink (s : State) (n : Nat) (f : Link → Link) : State :=
  { s with io := { s.io with links := Sparse.modify Link.reset s.io.links n f } }

/-- Whether a module of the attach is trained (R249). -/
def State.attachUp (s : State) : Bool := [8, 9, 10, 11].any fun n => (s.port n).up

/-- Whether no module of the attach is left: all are down (R269). -/
def State.attachGone (s : State) : Bool := [8, 9, 10, 11].all fun n => (s.port n).wid == 2

/-- Whether the attach lets the host in: the boot sequence has opened it (R245), and a module is trained (R249). -/
def State.attachOpen (s : State) : Bool := (s.io.bootstat == 1 || s.io.bootstat == 2) && s.attachUp

/-- Whether a port's link is up in fabric mode and leads to a device (R268, R269). -/
def State.leads (s : State) (dev p : Nat) : Bool :=
  (s.port p).up && (s.port p).wid != 2 && (s.port p).mode == 1 && Config.portReaches p dev

/-- Whether a peer device has a route. -/
def State.routes (s : State) (dev : Nat) : Bool := !s.io.lost.contains dev && (List.range 8).any (s.leads dev)

/-- The port of the chosen route to a device (R270): least cost, then fewest hops, then the lowest port. -/
def State.routePort (s : State) (dev : Nat) : Option Nat :=
  if s.io.lost.contains dev then none
  else
    let cost := fun p => (s.port p).cost + Config.pathCost p dev
    ((List.range 8).filter (s.leads dev)).foldl (fun best p =>
      match best with
      | none => some p
      | some b =>
        if cost p < cost b || (cost p == cost b && Config.pathHops p dev < Config.pathHops b dev) then some p else best) none

/-- A message given to a link: it is sent against a credit, or waits for one behind those that wait (R253, R267). -/
def Link.push (l : Link) (dev : Nat) (m : FabricMsg) : Link :=
  if 0 < l.cred && l.wait.isEmpty then { l with cred := l.cred - 1, tx := l.tx ++ [m] } else { l with wait := l.wait ++ [(dev, m)] }

/-- Credits that the partner returns, of which a link holds no more than its send window (R269): the waiting messages go, oldest first. -/
def Link.credit (l : Link) (n : Nat) : Link :=
  let c := min l.win (l.cred + n)
  { l with cred := c - min c l.wait.length, tx := l.tx ++ (l.wait.take c).map Prod.snd, wait := l.wait.drop c }

/-- The module of the attach that has a credit for an access to the host (R253): the lowest. -/
def State.hostPort (s : State) : Option Nat := [8, 9, 10, 11].find? fun n => (s.port n).up && decide (0 < (s.port n).cred)

/-- A credit of a port used. -/
def State.useCredit (s : State) (p : Nat) : State := s.modLink p fun l => { l with cred := l.cred - 1 }

/-- Whether a home is reached on a link: a peer's, or the host's. -/
def Home.remote (h : Home) : Bool := h.loc == 1 || h.loc == 2

/-- The name under which a remote granule's data is kept. -/
def Home.granule (h : Home) : Nat := 4 * (h.addr / 16) + h.loc

/-- A message for a device on its chosen route. -/
def State.sendTo (s : State) (dev : Nat) (m : FabricMsg) : State :=
  match s.routePort dev with
  | some p => s.modLink p fun l => l.push dev m
  | none => s

/-- The mirror write that a message carries, by its record's id. -/
def mirrorTag : FabricMsg → Option Nat
  | .mirror _ t _ _ _ _ _ => some t
  | .load _ _ _ _ _ _ | .store _ _ _ _ _ _ _ _ | .atomic _ _ _ _ _ _ _ _ | .reply _ _ _ _ | .message _ _ | .mirrorAck _ _ => none

/-- The request that a message carries, by its tag. -/
def requestTag : FabricMsg → Option Nat
  | .load _ t _ _ _ _ => some t
  | .store _ t _ _ _ _ _ _ => some t
  | .atomic _ t _ _ _ _ _ _ => some t
  | .mirror _ _ _ _ _ _ _ => none
  | .reply _ _ _ _ => none
  | .message _ _ => none
  | .mirrorAck _ _ => none

/-- The checks of an access against its leaf, in the order of R33; a peer without a route is PF before anything is sent (R268), so
before the peer's own check; then the DMA windows (R253). -/
def State.leafFault (s : State) (r : Region) (leaf : DWord) (pa : Nat) (w : Want) : Option (BitVec 8) :=
  let bad := match w with
    | .read => !bitAt leaf 2
    | .write => !bitAt leaf 3
    | .update => !(bitAt leaf 2 && bitAt leaf 3)
    | .fetch => !bitAt leaf 4
  if bad || eSEC leaf then some (if w = .fetch then cIF else cPP)
  else if eLoc leaf = 1 ∧ !s.routes (pa / 2 ^ 40) then some (if w = .fetch then cIF else cPF)
  else match s.cryptFault r leaf pa w with
    | some c => some (if w = .fetch ∧ c = cPP then cIF else c)
    | none => if eLoc leaf = 2 ∧ !s.dmaOk pa w then some (if w = .fetch then cIF else cPP) else none

/-- What a translation answers. -/
inductive Tr where
  /-- The page's leaf and the physical address. -/
  | ok (leaf : DWord) (pa : Nat)
  | fault (code : BitVec 8)
  /-- No cached translation: the access waits for a walk (R34). -/
  | miss
  deriving DecidableEq, Repr

/-- The TLB slice of a core's stack that serves an address (R34). -/
def tlbSlice (c va : Nat) : Nat := coreX c / 4 * 12 + va / 2 ^ 21 % 12

/-- A translation and its checks for an agent of a core, from the core's TLB, then its slice's (R34); a failed walk that
was reported to this agent is PF (R36). -/
def State.translate (s : State) (c : Nat) (who : Agent) (r : Region) (va : DWord) (w : Want) : Tr :=
  let pf := if w = .fetch then cIF else cPF
  if va.toNat ≥ 2 ^ 57 then .fault pf
  else
    let k := s.core c
    let hit := match tlbFind k.tlb r.asn va.toNat with
      | some e => some e
      | none => tlbFind (Sparse.get [] s.fab.stlb (tlbSlice c va.toNat)) r.asn va.toNat
    match hit with
    | some e =>
      match s.leafFault r e.leaf (e.pa va.toNat) w with
      | some code => .fault code
      | none => .ok e.leaf (e.pa va.toNat)
    | none =>
      if k.wfault.any fun f => f.who = who ∧ f.asn = r.asn ∧ f.vpage = va.toNat / 65536 then .fault pf else .miss

/-- The entries of a walk that are closed to the walker read zero, and are counted (R244). -/
def State.walkDenied (s : State) (troot va : Nat) : State :=
  if s.openMem || Config.hbmBytes ≤ troot then s
  else (walkReads s.seen va 4 troot).foldl (fun t a => t.denyRead 0 a 8) s

/-- An engine's translation: as `translate`, but a miss walks the tables at once (R35; log 7). -/
def State.engineTranslate (s : State) (c : Nat) (r : Region) (va : DWord) (w : Want) : Tr :=
  match s.translate c .none r va w with
  | .miss =>
    match s.seen.walk r.troot va.toNat with
    | none => .fault (if w = .fetch then cIF else cPF)
    | some (leaf, log) =>
      let pa := ePA leaf + va.toNat % 2 ^ log
      match s.leafFault r leaf pa w with
      | some code => .fault code
      | none => .ok leaf pa
  | t => t

/-- The misses of an agent queued for their slices (R34), each once. -/
def State.queueMiss (s : State) (c : Nat) (who : Agent) (ctx : Nat) (asn : BitVec 16) (va : DWord) : State :=
  let m : Miss := { slice := tlbSlice c va.toNat, ctx := ctx, asn := asn, vpage := va.toNat / 65536, who := who }
  let joined := s.fab.walks.any fun x => !x.dead && x.slice = m.slice && x.ctx = ctx && x.vpage = m.vpage && x.whos.contains who
  if s.fab.misses.contains m || joined then s else { s with fab := { s.fab with misses := s.fab.misses ++ [m] } }

/-- The reports of failed walks that an agent has used are gone (R36: nothing of a failed walk is cached). -/
def Core.clearWalkFaults (k : Core) (who : Agent) : Core := { k with wfault := k.wfault.filter fun f => f.who ≠ who }

/-- A global address formed in a lane (R23): the pair, or gz, plus the sign-extended offset. -/
def globalAddr (base : DWord) (ofs : BitVec 22) : DWord := base + ofs.signExtend 64

/-- A scratchpad or aperture address formed in a lane (R23). -/
def scrAddr (base : Word) (ofs : BitVec 22) : Word := base + ofs.signExtend 32

/-- The target core and offset of a scratchpad address for a core of a context (R25, R26), or PF; the offset is still to be
checked against the target's size. -/
def scrTarget (x : Ctx) (c : Nat) (a : Word) : Option (Nat × Nat) :=
  let ofs := fieldN a 0 24
  if !bitAt a 31 then (if fieldN a 24 7 ≠ 0 then none else some (c, ofs))
  else
    let dx := (field a 27 4).toInt
    let dy := (field a 24 3).toInt
    let d := gangDim x.pgf
    let tx := (coreX c : Int) + dx * d.1
    let ty := (coreY c : Int) + dy * d.2
    if dx = -8 ∨ dy = -4 ∨ tx < x.px ∨ ty < x.py ∨ tx ≥ (x.px + x.pw : Nat) ∨ ty ≥ (x.py + x.ph : Nat) then none
    else some (16 * ty.toNat + tx.toNat, ofs)

/-- An own-scratchpad operand (R27): RMT = 0 and `len` bytes below the size. -/
def Core.ownScr (k : Core) (a : Word) (len : Nat) : Bool := fieldN a 24 8 == 0 && fieldN a 0 24 + len ≤ k.scrSize

end Sys2Proof.Machine
end

