-- ==== Sys2Proof/Machine/Issue.lean ====
section
/-!
DEFINITION. What every instruction of a stream shares: who issues it and where it acts (spec/05, R92 to R95; spec/11, R212,
R213), the checks before it acts (R93, R99, R274), the replay and the machine check of a mismatch (R100 to R105, R412), the
accounting of an issue (R390, R392), and the end of a warp and of a task (R104, R207, R237, R383).
-/

namespace Sys2Proof.Machine

/-! ## Machine-check records (R105) -/

/-- The fields of a machine-check record. -/
structure McRec where
  kind : Nat
  unit : Nat
  synd : Nat
  mult : Bool
  lane : Nat
  seq : Bool
  xv : DWord
  deriving DecidableEq, Repr

/-- Dword 2 of a machine-check record. -/
def mcDword2 (r : McRec) (c w b q : Nat) : DWord :=
  BitVec.ofNat 64 (0x10 * 2 ^ 56 + r.kind * 2 ^ 54 + r.unit * 2 ^ 51 + r.synd * 2 ^ 48 + (if r.mult then 2 ^ 47 else 0)
    + r.lane * 2 ^ 42 + (if r.seq then 0 else r.lane / 4) * 2 ^ 39 + (if r.seq then 0 else w) * 2 ^ 31
    + (if r.seq then 2 ^ 30 else 0) + b * 2 ^ 22 + coreX c * 2 ^ 18 + coreY c * 2 ^ 15 + q / 4 * 2 ^ 13
    + (if q % 4 < 2 then 0 else 2 ^ 12))

/-- The record of a machine check of a warp, or of a sequencer or the matrix array, posted to its region's domain (R232). A sequencer and
the matrix array are in no quarter: SLB and HALF are zero in their records (DESIGN CHOICE, log 97). -/
def State.postMc (s : State) (c w b : Nat) (r : McRec) (pc opw : DWord) : State :=
  let q := if r.seq then 0 else (s.core c).quarterOf w
  s.post (s.ctxRegion ((s.core c).block b).ctx).fdom opw pc (mcDword2 r c w b q) r.xv

/-! ## The end of a task and of a launch (R204, R207) -/

/-- A store to local memory by an agent: the header of an armed object discards it (R169). -/
def State.storeGlobal (s : State) (loc a : Nat) (bs : List Byte) : State :=
  if s.armedHeader loc a bs.length then s.writeHid (s.inHeader none 0) a bs else s.writeMem loc a bs

/-- Mirroring breaks (R271): no mirror write is sent; those that still wait for a credit are no longer on their way. -/
def State.breakMirror (s : State) : State :=
  let late := s.io.links.flatMap fun l => l.2.wait.filterMap fun m => mirrorTag m.2
  { s with
    io := { s.io with
      mircfg := setBit s.io.mircfg 62 true
      links := Sparse.mapVals Link.reset s.io.links fun _ l => { l with wait := l.wait.filter fun m => (mirrorTag m.2).isNone } }
    fab := { s.fab with mirror := s.fab.mirror.map fun m => if late.contains m.id then { m with sent := none } else m } }

/-- The message of a mirror write, under the page's own mode and key (R41, R271). -/
def State.mirrorMsg (s : State) (m : MirRec) : FabricMsg :=
  let t := s.tag (m.pa / 65536)
  .mirror Config.deviceNumber m.id (fieldN s.io.mircfg 0 24 * 65536 + m.pa) m.bytes m.pois t.mode t.slot

/-- A write to a mirror page is sent to the partner, unless mirroring is off (R271). Without a route to the partner mirroring
breaks, and the write waits (R271). It carries the poison of what it writes (R406). -/
def State.mirrorPut (s : State) (id : Nat) (makers : List (Nat × BitVec 8)) (h : Home) (bs : List Byte) : State :=
  if h.loc == 0 && bitAt s.io.mircfg 63 then
    let part := fieldN s.io.mircfg 24 13
    let port := if bitAt s.io.mircfg 62 then none else s.routePort part
    let m : MirRec := { id := id, makers := makers, pa := h.addr, bytes := bs, pois := s.mem.poisoned 0 h.addr bs.length, sent := port }
    let s : State := { s with fab := { s.fab with mirror := s.fab.mirror ++ [m] } }
    match port with
    | some p => s.modLink p fun l => l.push part (s.mirrorMsg m)
    | none => s.breakMirror
  else s

/-- A request of the I/O die: it comes after its own earlier ones to a common byte, and crosses a link as any other (R253, R267). -/
def State.ioSend (s : State) (q : Req) : State :=
  let q := { q with
    id := s.nextId, core := Config.numCores
    after := (s.fab.reqs.filter fun e => e.core == Config.numCores && !e.done && e.home.loc == q.home.loc && e.home.addr < q.home.addr + q.len
      && q.home.addr < e.home.addr + e.len).map Req.id }
  { s with nextId := s.nextId + 1, fab := { s.fab with reqs := s.fab.reqs ++ [q] } }

/-- A store by an agent that is no warp to a page, mirrored where the page is a mirror page (R271); one to a peer or the host goes out on a
link. -/
def State.storePage (s : State) (ctx : Nat) (leaf : DWord) (pa : Nat) (bs : List Byte) : State :=
  if eLoc leaf = 0 then
    let t := s.storeGlobal 0 pa bs
    if eMir leaf && !s.discards 0 pa bs.length then
      let (id, t) := t.fresh
      t.mirrorPut id [] ⟨0, 0, pa⟩ bs
    else t
  else s.ioSend { Req.plain .store ⟨eLoc leaf, 0, pa⟩ bs.length with
    ctx := ctx, sa := eSA leaf, crypt := eCrypt leaf, key := eKey leaf, data := BitVec.ofNat 128 (leNat bs) }

/-- The signal word of R204. -/
def signalWord (stat ntask : Nat) : DWord := BitVec.ofNat 64 (2 ^ 63 + stat * 2 ^ 56 + min ntask (2 ^ 32 - 1))

/-- The signal word of a launch written, once: completion, refusal, termination or loss (R204). -/
def State.signal (s : State) (l stat : Nat) : State :=
  let x := s.launch l
  if x.phase = 2 then s
  else (s.storePage x.ctx x.sigLeaf x.sigPa (leBytes 8 (signalWord stat x.retired).toNat)).modLaunch l fun y =>
    { y with phase := 2, queues := [] }

/-- Whether an access of a block's warps is not yet performed, or a job of its matrix stream or a copy that it started is not complete
(R192, R207). -/
def State.blockBusy (s : State) (c b : Nat) : Bool :=
  let k := s.core c
  k.jobs.any (fun j => j.block = b) || s.fab.reqs.any (fun r => r.core = c && r.block = b && !r.done)
    || k.lda.any (fun x => x.block = b) || (k.copies ++ k.apq).any fun r => r.block = b

/-- The end of a block on its core: its barrier objects are no longer registered and keep their last state (R377); its tiles go
with it (R147: a bank is refused to a tile of a block on the core; log 26). -/
def Core.endBlock (k : Core) (b : Nat) : Core :=
  let mine := k.bars.filter fun o => o.block = b
  let k := { k with bars := k.bars.filter fun o => o.block != b }
  let k := mine.foldl (fun k o => k.writeScr o.ofs (leBytes 16 o.bar.words)) k
  let k := { k.setBlock b Block.absent with tiles := k.tiles.filter fun t => t.1 / 16 != b }
  if k.blocks.any fun x => x.2.live then k else { k with use := none }

/-- A task retires when every warp is gone and both sequencers are idle, its accesses performed; the launch completes when
its counter reaches zero (R207, R192). -/
def State.retire (s : State) (c b : Nat) : State :=
  let x := (s.core c).block b
  if x.live && x.warps.isEmpty && x.mx.st == .exited && x.cp.st == .exited && !s.blockBusy c b then
    let s := ((s.coreCharge c).modCore c fun k => k.endBlock b).modLaunch x.launch fun l =>
      { l with counter := l.counter - 1, retired := l.retired + 1 }
    if (s.launch x.launch).counter = 0 then s.signal x.launch 0 else s
  else s

/-- A warp that leaves its block: gone, and the task may retire. -/
def State.leaveBlock (s : State) (c w : Nat) : State :=
  let b := (s.warp c w).block
  ((s.endWarp c w).modBlock c b fun x => { x with warps := x.warps.filter (· != w) }).retire c b

/-- A warp all of whose slices have exited (R374, R383): an arrival that waited for its last slices takes effect. -/
def State.warpExited (s : State) (c w : Nat) : State :=
  (s.modCore c fun k => k.modBars (k.warp w).block fun b => b.take w 0).leaveBlock c w

/-- A warp taken out by a machine check (R104, R237). -/
def State.takeOut (s : State) (c w : Nat) : State :=
  (s.modCore c fun k => k.modBars (k.warp w).block fun b => b.leave w).leaveBlock c w

/-- The slices that complete go on; a warp whose slices have all exited is gone (R212, R383). -/
def State.advance (s : State) (c w : Nat) (ms : List Nat) (next : List (Nat × DWord)) (first : Bool) : State :=
  let s := s.modWarp c w fun x => x.advance ms next (s.core c).cycle first
  if (s.warp c w).done then s.warpExited c w else s

/-! ## Pending destinations (R99), rows of registers written (R79) -/

/-- The pending bits of a register, pair or quad set or cleared: a g register for slices, a k register for the warp. -/
def Warp.mark (w : Warp) (v : BitVec 8) (n : Nat) (sls : List Nat) (b : Bool) : Warp :=
  if isGz v then w
  else if isG v then
    let keys := (List.range n).flatMap fun i => sls.map fun j => 8 * (v.toNat + i) + j
    { w with pg := keys.foldl (fun m k => Sparse.set false m k b) w.pg }
  else { w with pk := (List.range n).foldl (fun m i => Sparse.set false m (kIdx v + i) b) w.pk }

/-- Rows written whole lose their poison (R79), but for those whose data is still to come. -/
def Warp.rowsDone (x : Warp) (rows : List Nat) : Warp :=
  if x.rp.isEmpty then x
  else { x with rp := rows.foldl (fun m r => if Sparse.get false x.pg r then m else Sparse.set false m r false) x.rp }

/-- The registers of a g destination in lanes, as (register, lane). -/
def regLanes (v : BitVec 8) (n : Nat) (lanes : List Nat) : List (Nat × Nat) :=
  if isG v then (List.range n).flatMap fun i => lanes.map fun l => (v.toNat + i, l) else []

/-! ## Waits at the banks (R86, R87) -/

/-- Where a poisoned scratchpad row lies, for a storage machine check (R105). -/
def Core.scrXv (k : Core) (r16 : Nat) : DWord := BitVec.ofNat 64 (2 ^ 21 + k.scrRow r16 % 512 * 2 ^ 12 + k.scrBank r16 % 4096)

/-- The record of a storage machine check (R105, R299). -/
def storageMc (lane : Nat) (mult : Bool) (xv : DWord) : McRec :=
  { kind := 2, unit := 5, synd := 0, mult := mult, lane := lane, seq := false, xv := xv }

/-- The scratchpad words that a full/empty access covers. -/
def tagWords (ofs : Nat) (two : Bool) : List Nat := if two then [ofs / 4, ofs / 4 + 1] else [ofs / 4]

def Waiter.words (w : Waiter) : List Nat := tagWords w.ofs w.two

/-- The bytes of a waiting access. -/
def Waiter.len (w : Waiter) : Nat := if w.two then 8 else 4

/-- Whether a waiting access's condition holds (R86). -/
def Core.tagsAre (k : Core) (w : Waiter) : Bool := w.words.all fun n => k.scrTag n == w.full

/-- Whether two waiting accesses share a word (R87). -/
def Waiter.meets (a b : Waiter) : Bool := a.words.any fun n => b.words.contains n

/-- Whether a waiting access waits no longer: its condition holds, or the row is poisoned, which covers the tags (R79). -/
def Core.decides (k : Core) (w : Waiter) : Bool := k.tagsAre w || (k.scrPoisonAt w.ofs w.len).isSome

/-- The first waiting access that can be served: its condition holds and no earlier one covers one of its words (R87). -/
def nextServed (k : Core) : List Waiter → List Waiter → Option Waiter
  | _, [] => none
  | seen, w :: rest => if k.decides w && !seen.any w.meets then some w else nextServed k (seen ++ [w]) rest

/-- Whether an access of a slice still waits at a bank. -/
def State.waitsAtBank (s : State) (c w j : Nat) : Bool :=
  s.cores.any fun k => k.2.waiters.any fun y => y.core = c && y.warp = w && bitAt y.slices j

/-- Whether two waiting accesses are of one instruction of a warp. -/
def Waiter.mate (a b : Waiter) : Bool := a.core == b.core && a.warp == b.warp && a.pc == b.pc

/-- PMCNT's event 3, when a waiting access is performed at its banks (R401): what its instruction has not counted yet. -/
def State.countServed (s : State) (t : Nat) (w : Waiter) : State :=
  let n := w.conf + (((s.core t).waiters.filter w.mate).map Waiter.conf).sum
  if n = 0 then s
  else (s.modCore t fun k => { k with waiters := k.waiters.map fun y => if w.mate y then { y with conf := 0 } else y }).modWarp w.core w.warp
    fun x => x.counts 3 n

/-- A served access of core `t`'s scratchpad: the read, the write and the tags, as one step (R301, R303), and the destination is no
longer pending where nothing of the slice waits (R99); an acquire at system scope discards the peer-read cache (R44); a poisoned row is a storage machine check of the warp (R80, R299). -/
def State.serve (s : State) (t : Nat) (w : Waiter) : State :=
  let s := if w.full then s.meetScr t w.ofs w.len else s
  let s := s.countServed t w
  let k := s.core t
  match k.scrPoisonAt w.ofs w.len with
  | some r =>
    (s.postMc w.core w.warp (s.warp w.core w.warp).block (storageMc w.lane false (k.scrXv r)) w.pc w.opw).takeOut w.core w.warp
  | none =>
    let s := s.modCore t fun k =>
      let k := if w.full then k else k.writeScr w.ofs (leBytes w.len w.data.toNat)
      if w.keep then k else w.words.foldl (fun k n => k.setTag n !w.full) k
    let more := s.waitsAtBank w.core w.warp w.slice
    let s := if w.sys then s.dropPeerReads else s
    s.modWarp w.core w.warp fun v =>
      let v := if !w.full then v
        else
          let v := { v with rf := v.rf.writeD (w.len / 4) w.v w.lane (BitVec.ofNat 64 (k.scrNat w.ofs w.len)) }
          let v := v.wrote (regLanes w.v (w.len / 4) [w.lane])
          if more && isG w.v then v else v.mark w.v (w.len / 4) [w.slice] false
      v.modSlice w.slice fun y => { y with served := setBit y.served (w.lane % 4) true }

/-- The slices parked for an access whose every lane has been served complete their instruction (R301): rows of registers written
whole lose their poison (R79). -/
def State.slicesServed (s : State) (w : Waiter) : State :=
  let v := s.warp w.core w.warp
  let js := (bitsOf w.slices 8).filter fun j => (v.slice j).park == .fullEmpty && !s.waitsAtBank w.core w.warp j
  if js.isEmpty then s
  else
    let rows := if w.full && isG w.v then (List.range (w.len / 4)).flatMap fun i =>
        (js.filter fun j => (v.slice j).served == 0xF).map fun j => 8 * (w.v.toNat + i) + j
      else []
    (s.modWarp w.core w.warp fun v => v.rowsDone rows).advance w.core w.warp (v.gangOf (js.headD 0)) (js.map fun j => (j, w.next)) false

/-- Waiting accesses served as far as they can be, in every scratchpad; `fuel` is their number. A warp that is taken out leaves the
banks where it waited, and others may go on there (R87, R304). -/
def State.serveAll : Nat → State → State
  | 0, s => s
  | fuel + 1, s =>
    match s.cores.findSome? fun p => (nextServed p.2 [] p.2.waiters).map fun w => (p.1, w) with
    | none => s
    | some (t, w) =>
      let s := s.modCore t fun k => { k with waiters := k.waiters.erase w }
      State.serveAll fuel ((s.serve t w).slicesServed w)

/-- A change of tags, or of who waits: waiting accesses may go on (R87). -/
def State.wakeTags (s : State) : State := State.serveAll (s.cores.map fun p => p.2.waiters.length).sum s

/-- A warp killed by a machine check (R104, R237). -/
def State.killWarp (s : State) (c w : Nat) : State := (s.takeOut c w).wakeTags

/-- Taking a machine check of a warp: the record is posted and the warp is killed; nothing of the instruction is written
(R103, R104). -/
def State.machineCheck (s : State) (c w : Nat) (r : McRec) (pc opw : DWord) : State :=
  (s.postMc c w (s.warp c w).block r pc opw).killWarp c w

/-- An access arrives at its bank: V is pending, it waits behind the earlier ones, and is served when it can be (R87, R99). -/
def State.arriveTag (s : State) (t : Nat) (w : Waiter) : State :=
  ((s.meetScr t w.ofs w.len).modWarp w.core w.warp fun v => if w.full then v.mark w.v (w.len / 4) [w.slice] true else v)
    |>.modCore t (fun k => { k with waiters := k.waiters ++ [w] })
    |>.wakeTags

/-! ## What is checked (R100, R105) -/

/-- The datapath of an instruction by UNIT, for the vector ALU groups: 0 integer, 2 FMA path, 3 other (R105). -/
def unitOf : Instr → Option Nat
  | .iadd _ | .isub _ | .imul _ | .imulh _ | .imad _ | .imin _ | .imax _ | .idif _ | .and _ | .or _ | .xor _ | .andn _
  | .shl _ | .shr _ | .shra _ | .rotl _ | .popc _ | .clz _ | .brev _ | .prmt _ | .sel _ | .lea _ | .bfe _ | .bfi _
  | .iaddImm _ | .isubImm _ | .imulImm _ | .imulhImm _ | .iminImm _ | .imaxImm _ | .idifImm _ | .andImm _ | .orImm _
  | .xorImm _ | .andnImm _ | .shlImm _ | .shrImm _ | .shraImm _ | .rotlImm _ | .bfeImm _ | .icmp _ _ | .icmpi _ _
  | .mov _ | .movi _ | .pmovGet _ | .pmovSet _ => some 0
  | .fadd _ | .fsub _ | .fmul _ | .ffma _ | .faddImm _ | .fsubImm _ | .fmulImm _ | .ffmaImm _ | .acrd _ | .acrdclr _ => some 2
  | .fmin _ | .fmax _ | .fminImm _ | .fmaxImm _ | .fcmp _ _ | .frcp _ | .frsq _ | .fsqrt _ | .fexp2 _ | .flog2 _
  | .fsin _ | .fcos _ | .ftanh _ | .cvt _ | .frnd _ | .dec _ | .decBlk _ | .enc _ | .encBlk _ | .req _ | .reqBlk _
  | .sclq _ | .fmtq _ | .shfli _ | .shflu _ | .shfld _ | .shflx _ | .vall _ | .vany _ | .vbal _ | .matchany _ | .matchall _
  | .redux _ => some 3
  | _ => none

/-- Whether an instruction forms addresses (UNIT 1). -/
def formsAddress : Instr → Bool
  | .ld _ | .ldf _ | .ldfk _ | .lda16 _ | .st _ | .ste _ | .stf _ | .tagclr _ | .xstart _ | .pref _ | .ipref _ | .cctlWb _
  | .cctlEvict _ | .cctlPdrop _ | .atomAdd _ | .atomMin _ | .atomMax _ | .atomAnd _ | .atomOr _ | .atomXor _
  | .atomExch _ | .atomCas _ | .cmb _ | .encBlk _ | .cobjInit _ | .cobjArm _ | .cobjQuery _ | .barinit _ | .bararv _ | .barwait _ | .barsync _
  | .ringinit _ | .awaitf _ | .rels _ | .relsKeep _ | .yieldc _ | .xtset _ | .dset _ => true
  | _ => false

/-- The arithmetic of the vector ALUs that a residue checks under either policy (R100). -/
def residueArith : Instr → Bool
  | .iadd _ | .isub _ | .imul _ | .imulh _ | .imad _ | .idif _ | .lea _ | .iaddImm _ | .isubImm _ | .imulImm _
  | .imulhImm _ | .idifImm _ | .fadd _ | .fsub _ | .fmul _ | .ffma _ | .faddImm _ | .fsubImm _ | .fmulImm _
  | .ffmaImm _ | .acrd _ | .acrdclr _ => true
  | _ => false

/-- What a residue checks under either policy (R100). -/
def residueChecked (i : Instr) : Bool := residueArith i || formsAddress i

/-- The LANE group never uses the scalar path, and PMOV and SEL read predicates of lanes (R95, R326, R341). -/
def readsLanes : Instr → Bool
  | .sel _ | .pmovGet _ | .shfli _ | .shflu _ | .shfld _ | .shflx _ | .vall _ | .vany _ | .vbal _ | .matchany _ | .matchall _
  | .redux _ => true
  | _ => false

def isShuffle : Instr → Bool
  | .shfli _ | .shflu _ | .shfld _ | .shflx _ => true
  | _ => false

/-- An instruction that runs once on the quarter's scalar path (R95): its sources are k registers, gz or immediates. -/
def onScalarPath (i : Instr) : Bool :=
  !(operands i).isEmpty && !readsLanes i && (operands i).all fun o => o.role == .dst || !isG o.code

/-! ### Residues (R102) -/

/-- The residue of a value. -/
def residue (x : Int) : Nat := (x % 7).toNat

/-- The residues predicted for a sum of `w` bits with carry out `c`, for a full product, for an absolute difference whose exact difference
is negative or not. -/
def predictAdd (w ra rb c : Nat) : Nat := (ra + rb + 7 - 2 ^ w % 7 * c) % 7
def predictMul (ra rb : Nat) : Nat := ra * rb % 7
def predictDif (ra rb : Nat) (neg : Bool) : Nat :=
  let d := (ra + 7 - rb) % 7
  if neg then (7 - d) % 7 else d

/-- What a checked datapath forms: the bits of an upset that meet it (from bit `lo`, `n` of them), the bit of the value on which they fall,
the width of the value, whether it is signed, the value, and the residue predicted for it. -/
structure Formed where
  lo : Nat
  n : Nat
  at_ : Nat
  w : Nat
  signed : Bool
  value : Int
  pred : Nat
  deriving DecidableEq, Repr

/-- A sum of `w` bits; a difference is the sum with the complement. -/
def formSum (lo w a b : Nat) : Formed :=
  { lo := lo, n := w, at_ := 0, w := w, signed := false, value := ((a + b) % 2 ^ w : Nat),
    pred := predictAdd w (a % 7) (b % 7) (if 2 ^ w ≤ a + b then 1 else 0) }

/-- A full product of `2 w` bits; of a 64-bit one the upset meets the half that is delivered. -/
def formProduct (i w : Nat) (signed high : Bool) (a b : Int) : Formed :=
  { lo := if w = 64 then 0 else 2 * w * i, n := min 64 (2 * w), at_ := if w = 64 ∧ high then 64 else 0, w := 2 * w, signed := signed,
    value := a * b, pred := predictMul (residue a) (residue b) }

/-- The absolute value of an exact difference. -/
def formDif (lo w : Nat) (a b : Int) : Formed :=
  { lo := lo, n := w, at_ := 0, w := w, signed := false, value := (a - b).natAbs, pred := predictDif (residue a) (residue b) (decide (a < b)) }

/-- The same for each element of a type. -/
def formSums (ty : BitVec 4) (a b : DWord) : List Formed :=
  (List.range (elemN ty)).map fun i => formSum (elemW ty * i) (elemW ty) (elem ty a i) (elem ty b i)
def formSubs (ty : BitVec 4) (a b : DWord) : List Formed :=
  (List.range (elemN ty)).map fun i => formSum (elemW ty * i) (elemW ty) (elem ty a i) (2 ^ elemW ty - elem ty b i)
def formProducts (ty : BitVec 4) (high : Bool) (a b : DWord) : List Formed :=
  (List.range (elemN ty)).map fun i => formProduct i (elemW ty) (isSigned ty) high (intOf ty (elem ty a i)) (intOf ty (elem ty b i))
def formDifs (ty : BitVec 4) (a b : DWord) : List Formed :=
  (List.range (elemN ty)).map fun i => formDif (elemW ty * i) (elemW ty) (intOf ty (elem ty a i)) (intOf ty (elem ty b i))

/-- The product of two significands; none for infinities and NaNs. -/
def formSignificands (ty : BitVec 4) (a b : DWord) : List Formed :=
  (List.range (elemN ty)).filterMap fun i =>
    match (fmtOf ty).decode (elem ty a i), (fmtOf ty).decode (elem ty b i) with
    | .fin _ m _, .fin _ n _ => some (formProduct i (elemW ty) false false m n)
    | _, _ => none

/-- What the datapath of an instruction forms in a lane, element by element (R102). For FADD, FSUB, FFMA and the accumulator reads, which
form sums of significands, how these are aligned is open (log 5). -/
def formedBy (i : Instr) (r : RF) (l : Nat) : List Formed :=
  match i with
  | .iadd f => formSums f.ty (srcA f r l) (srcB f r l)
  | .iaddImm f => formSums f.ty (srcI f r l) (immOf f)
  | .isub f => formSubs f.ty (srcA f r l) (srcB f r l)
  | .isubImm f => formSubs f.ty (srcI f r l) (immOf f)
  | .imul f | .imad f => formProducts f.ty false (srcA f r l) (srcB f r l)
  | .imulh f => formProducts f.ty true (srcA f r l) (srcB f r l)
  | .imulImm f => formProducts f.ty false (srcI f r l) (immOf f)
  | .imulhImm f => formProducts f.ty true (srcI f r l) (immOf f)
  | .idif f => formDifs f.ty (srcA f r l) (srcB f r l)
  | .idifImm f => formDifs f.ty (srcI f r l) (immOf f)
  | .lea f =>
    let b := (r.src (if f.ty = 11 then 1 else 2) f.b f.nb f.ab l).setWidth 32
    [formSum 0 64 (srcA f r l).toNat ((if f.ty = 11 then b.signExtend 64 else b.setWidth 64) <<< fieldN f.c 0 3).toNat]
  | .fmul f => formSignificands f.ty (srcA f r l) (srcB f r l)
  | .fmulImm f => formSignificands f.ty (srcI f r l) (immOf f)
  | _ => []

/-- The sum that the address generator of a lane forms (R23, R102): base and offset, of 64 bits, or of 32 for the scratchpad; of an
instruction that names an object by a register alone, its value. -/
def formedAddress (i : Instr) (r : RF) (l : Nat) : List Formed :=
  let mem := fun (f : FmtM) =>
    if f.sp = 0 then [formSum 0 64 (r.read2 f.ab l).toNat (f.ofs.signExtend 64).toNat]
    else [formSum 0 32 (r.read1 f.ab l).toNat (f.ofs.signExtend 32).toNat]
  let one := fun (a : BitVec 8) => [formSum 0 32 (r.read1 a l).toNat 0]
  match i with
  | .ld f | .ldf f | .ldfk f | .lda16 f | .st f | .ste f | .stf f | .tagclr f | .xstart f | .pref f | .ipref f | .cctlWb f
  | .cctlEvict f | .cctlPdrop f | .atomAdd f | .atomMin f | .atomMax f | .atomAnd f | .atomOr f | .atomXor f | .atomExch f
  | .atomCas f | .cmb f => mem f
  | .cobjInit f | .cobjArm f | .cobjQuery f => [formSum 0 64 (r.read2 f.a l).toNat 0]
  | .dset f => one f.a
  | .barinit f | .bararv f | .barwait f | .barsync f | .ringinit f | .awaitf f | .rels f | .relsKeep f | .yieldc f | .xtset f => one f.a
  | .encBlk f => [formSum 0 32 (fieldN (r.read1 (f.b + 2) l) 4 20 * 16) 0]
  | _ => []

/-- The syndrome of a formed value some of whose bits an upset changes: actual less predicted residue, modulo 7 (R105). -/
def Formed.syndrome (v : Formed) (xv : DWord) : Nat :=
  let flip := BitVec.ofNat 128 (xv.toNat / 2 ^ v.lo % 2 ^ v.n * 2 ^ v.at_)
  let x := BitVec.ofInt v.w v.value ^^^ flip.setWidth v.w
  (residue (if v.signed then x.toInt else x.toNat) + 7 - v.pred) % 7

/-- The syndrome that the check of a lane shows: of the first value that fails; where no register shows what the datapath forms, the
upset's own, from 1 to 6 (log 5). -/
def syndrome (i : Instr) (vs : List Formed) (u : Upset) : Nat :=
  match vs with
  | [] => if formsAddress i then 0 else 1 + u.synd.toNat % 6
  | vs => ((vs.map fun v => v.syndrome u.xv).find? (· != 0)).getD 0

/-! ### What the checks find (R100, R101) -/

/-- The bits of an instruction's result in a lane: one register, a pair, or a predicate; of PMOV.set the predicates that it writes (R332). -/
def resultBits (i : Instr) : DWord :=
  match i with
  | .pmovSet f => (f.imm16 >>> 8 &&& 0x7F).setWidth 64
  | _ =>
    match (operands i).find? fun o => o.role == .dst with
    | some o => if o.n = 1 then 0xFFFFFFFF else 0xFFFFFFFFFFFFFFFF
    | none => 1

/-- The physical lane of a quarter on which the check issue performs the work of a lane (R101). -/
def checkLane (l : Nat) : Nat := 4 * (l / 4) + (l + 1) % 4

/-- The lanes whose two results differ when a physical lane of their quarter is struck: those whose first issue, or whose check issue,
ran on it (R101). -/
def differing (u : Upset) (pos : Nat) (acting : List Nat) : List Nat :=
  acting.filter fun l => ((u.stuck || !u.check) && l == pos) || ((u.stuck || u.check) && checkLane l == pos)

/-- What the checks of an instruction of a gang in quarter `q` find of an upset (R100 to R102): the record of the mismatch. Where
results are compared and residues checked, the mismatch of the results is the one recorded. -/
def upsetFinds (u : Upset) (q chk : Nat) (i : Instr) (r : RF) (acting : List Nat) : Option McRec :=
  let xv := u.xv &&& resultBits i
  match u.at_ with
  | .scalar q' =>
    if q' == q && onScalarPath i && !acting.isEmpty && xv != 0 then
      some { kind := 1, unit := 4, synd := 0, mult := false, lane := acting.headD 0, seq := false, xv := xv }
    else none
  | .lane q' p =>
    match unitOf i with
    | none => none
    | some n =>
      let ls := differing u p acting
      if q' != q || onScalarPath i then none
      else if chk == 0 && xv != 0 && !ls.isEmpty then
        some { kind := 1, unit := n, synd := 0, mult := decide (1 < ls.length), lane := ls.headD 0, seq := false, xv := xv }
      else if residueArith i && acting.contains p && (u.stuck || !u.check) && syndrome i (formedBy i r p) u != 0 then
        some { kind := 0, unit := n, synd := syndrome i (formedBy i r p) u, mult := false, lane := p, seq := false, xv := 0 }
      else none
  | .address q' p =>
    if q' == q && formsAddress i && acting.contains p && syndrome i (formedAddress i r p) u != 0 then
      some { kind := 0, unit := 1, synd := syndrome i (formedAddress i r p) u, mult := false, lane := p, seq := false, xv := 0 }
    else none
  | .seq _ _ | .array => none

/-- The bits of a sequencer's scalar work for an instruction (R412): the result of IALU, IALUI, ICMP, ICMPI and MOV; for another, its guard
or the condition of its branch. An address that it forms is not in R412's list (DEDUCED, log 96). -/
def seqBits (i : Instr) : DWord := if unitOf i = some 0 then resultBits i else if guardOf i = 7 then 0 else 1

/-! ## Poison of the register file (R79, R80) -/

/-- The slices in which an instruction acts in some lane, in every lane. -/
def slicesIn (acting : List Nat) : List Nat := (List.range 8).filter fun j => acting.any fun l => l / 4 == j
def slicesWhole (acting : List Nat) : List Nat := (List.range 8).filter fun j => (List.range 4).all fun l => acting.contains (4 * j + l)

/-- The rows of the register file that an instruction reads, and those that it writes whole; a shuffle of fewer than 32 lanes may
leave a lane unfed (R342). -/
def rowsRead (i : Instr) (acting : List Nat) : List Nat :=
  ((operands i).filter fun o => o.role == .src && isG o.code).flatMap fun o =>
    (List.range o.n).flatMap fun n => (slicesIn acting).map fun j => 8 * (o.code.toNat + n) + j
def rowsWritten (i : Instr) (acting : List Nat) : List Nat :=
  if isShuffle i && decide (acting.length < 32) then []
  else
    ((operands i).filter fun o => o.role == .dst && isG o.code).flatMap fun o =>
      (List.range o.n).flatMap fun n => (slicesWhole acting).map fun j => 8 * (o.code.toNat + n) + j

/-- The poisoned rows that an instruction reads. -/
def Warp.poisonRead (x : Warp) (i : Instr) (acting : List Nat) : List Nat :=
  if x.rp.isEmpty then [] else (rowsRead i acting).filter fun r => Sparse.get false x.rp r

/-- The lanes in which an instruction writes its destination: of a shuffle, those whose source lane participates (R342). -/
def lanesWritten (i : Instr) (r : RF) (acting : List Nat) : List Nat :=
  let fed := fun (f : FmtA) (src : BitVec 8 → Nat → Nat → Nat) => acting.filter fun l => acting.contains (src f.c l (r.read1 f.b l).toNat)
  match i with
  | .shfli f => fed f srcIndex
  | .shflu f => fed f srcUp
  | .shfld f => fed f srcDown
  | .shflx f => fed f srcXor
  | _ => acting

/-- The registers that an instruction writes, as (register, lane). -/
def regsWritten (i : Instr) (lanes : List Nat) : List (Nat × Nat) :=
  ((operands i).filter fun o => o.role == .dst).flatMap fun o => regLanes o.code o.n lanes

/-- The pool data bank of the core and the row in it that hold a row of a warp's registers (R105). -/
def Core.regXv (k : Core) (c w key : Nat) : DWord :=
  let p := (k.warp w).pairRow (key / 16)
  BitVec.ofNat 64 (p % 512 * 2 ^ 12 + (16 * k.groupOf c (p / 512) + key % 16) % 4096)

/-- The record of a storage machine check for poisoned rows of the register file: it names the lowest acting lane of a slice that reads
one, and the first such row. -/
def Core.regMc (k : Core) (c w : Nat) (rows acting : List Nat) : McRec :=
  let ls := acting.filter fun l => rows.any fun r => r % 8 == l / 4
  storageMc (ls.headD 0) (decide (1 < ls.length)) (k.regXv c w ((rows.filter fun r => r % 8 == ls.headD 0 / 4).headD 0))

/-! ## Issue -/

/-- Who issues an instruction and where it acts: the gang's slices, the acting lanes rising, the addresses of the
instruction and of the next one; `again` when the slices re-enter a park; the rows of the register file that it writes whole, and the registers that it
writes in lanes. For a sequencer `warp` and `slices` are empty and
lane 0 acts when the guard holds (R275). -/
structure Issue where
  core : Nat
  warp : Nat
  block : Nat
  cp : Bool
  slices : List Nat
  acting : List Nat
  pc : DWord
  next : DWord
  opw : DWord
  again : Bool
  rows : List Nat
  writes : List (Nat × Nat)
  deriving DecidableEq, Repr

/-- What an instruction does when it issues. -/
inductive Act where
  /-- It completes, and every slice of the gang goes on at the next instruction. -/
  | done (s : State)
  /-- The slices listed go on at the addresses given; the others stay where they are (parked, if `s` says so). -/
  | go (s : State) (next : List (Nat × DWord))
  /-- It does not issue now: nothing changes. -/
  | wait
  /-- Nothing of it happens but a request for a translation: the gang waits. -/
  | miss (s : State)
  /-- A program fault in the slices listed. -/
  | fault (sls : List Nat) (code : BitVec 8) (fva : DWord)
  /-- A machine check of the warp, after what the instruction's reads found (R75). -/
  | check (s : State) (r : McRec)

/-- The length of an instruction in bytes (R273). -/
def instrLen (i : Instr) : Nat := wordBytes (encodeWord i)

/-- Whether an agent of a context may still issue: the context runs, or its halt has not reached the agent (R233, R235). -/
def Ctx.runs (x : Ctx) (who : List StopAgent) : Bool :=
  x.st == .running || (x.st == .halting && who.all fun a => !x.acks.contains a)

/-- Whether the gang of a slice can issue: resident, its slices running or waiting at the instruction, not stopped. -/
def State.gangRuns (s : State) (c w j : Nat) : Bool :=
  let x := s.warp c w
  let ms := x.gangOf j
  x.live && ms.contains j && (ms.all fun i => (x.slice i).st == .running || (x.slice i).st == .parked)
    && (s.ctx ((s.core c).block x.block).ctx).runs (ms.map fun i => .slice c w i)

/-- The scoreboard's bar to an issue (R99): a pending write of a register that the instruction names; FORK reads k0 to k15 (R142). -/
def Warp.pending (x : Warp) (ms : List Nat) (i : Instr) : Bool :=
  ((operands i).any fun o => !isGz o.code && (List.range o.n).any fun n =>
      if isG o.code then ms.any fun j => Sparse.get false x.pg (8 * (o.code.toNat + n) + j)
      else Sparse.get false x.pk (kIdx o.code + n))
    || ((predOperands i).any fun p => ms.any fun j => Sparse.get false x.pp (8 * p.1 + j))
    || (ms.any fun j => Sparse.get false x.pp (8 * fieldN (guardOf i) 0 3 + j))
    || match i with
      | .fork _ => (List.range 16).any fun n => Sparse.get false x.pk n
      | _ => false

/-- Whether a reply to one of the slices is still awaited: a fault record waits for it (R234). -/
def State.awaits (s : State) (uid : Nat) (sls : List Nat) : Bool :=
  s.fab.reqs.any fun r => r.kind != .store && r.parts.any fun p =>
    p.live && p.uid == uid && sls.contains (p.lane / 4) && (r.kind == .load || !isGz p.v)

/-- The accounting of a first issue: CYCLE, INSTRET, the selected event 1 (R217, R390, R392). -/
def State.account (s : State) (c w : Nat) (pmsel : Word) : State :=
  (s.modCore c fun k =>
    { k with cycle := k.cycle + 1 + BitVec.ofNat 64 (Config.freeCycles s.freeCtr) }.modWarp w fun x =>
      { x with instret := x.instret + 1, pmcnt := if pmsel = 1 then x.pmcnt + 1 else x.pmcnt }).bump

/-- Registers written now: those whose data is still to come are written later (R99). -/
def Warp.wroteNow (x : Warp) (ws : List (Nat × Nat)) : Warp := x.wrote (ws.filter fun p => !Sparse.get false x.pg (8 * p.1 + p.2 / 4))

/-- The outcome of an instruction's meaning for the gang that issued it. -/
def State.finishGang (s : State) (x : Issue) (pmsel : Word) : Act → State
  | .wait => s
  | .miss t => t
  | .fault sls code fva =>
    if s.awaits (s.warp x.core x.warp).uid sls then s
    else (s.raise x.core x.warp sls code fva x.opw).modCore x.core fun k => k.clearWalkFaults (.gang x.core x.warp (x.slices.headD 0))
  | .check t r => t.machineCheck x.core x.warp r x.pc x.opw
  | .done t =>
    let t := if x.again then t else t.account x.core x.warp pmsel
    let t := t.modWarp x.core x.warp fun w => (w.rowsDone x.rows).wroteNow x.writes
    t.advance x.core x.warp x.slices (x.slices.map fun j => (j, x.next)) !x.again
  | .go t next =>
    let t := if x.again then t else t.account x.core x.warp pmsel
    let t := t.modWarp x.core x.warp fun w => (w.rowsDone (x.rows.filter fun r => next.any fun p => p.1 == r % 8)).wroteNow
      (x.writes.filter fun q => next.any fun p => p.1 == q.2 / 4)
    t.advance x.core x.warp x.slices next !x.again

/-- A check-replay counted (R103, R390). -/
def State.countReplay (s : State) (c : Nat) (u : Upset) : State :=
  s.modCore c fun k => { k with
    upset := if u.stuck then some u else none
    chkrpl := if k.chkrpl = 0xFFFFFFFF then k.chkrpl else k.chkrpl + 1 }

/-- The issue of an instruction by a gang that the scoreboard lets issue: poison (R80), the checks and the replay (R101 to R103), and
its meaning. -/
def State.issueChecked (s : State) (x : Issue) (i : Instr) (body : Issue → State → Act) : State :=
  let v := s.warp x.core x.warp
  let k := s.core x.core
  if !(v.poisonRead i x.acting).isEmpty then
    s.finishGang x v.pmsel (.check s (k.regMc x.core x.warp (v.poisonRead i x.acting) x.acting))
  else
    match k.upset.bind fun u => (upsetFinds u (k.quarterOf x.warp) (s.ctxRegion (k.block v.block).ctx).chk i v.rf x.acting).map fun r => (u, r) with
    | none => s.finishGang x v.pmsel (body x s)
    | some (u, r) =>
      let t := s.countReplay x.core u
      if u.stuck then t.finishGang x v.pmsel (.check t r)
      else
        match body x t with
        | .wait => s
        | .fault sls code fva => if s.awaits v.uid sls then s else t.finishGang x v.pmsel (.fault sls code fva)
        | a => t.finishGang x v.pmsel a

/-- The issue of an instruction by a gang. -/
def State.issueGang (s : State) (c w j : Nat) (i : Instr) (body : Issue → State → Act) : State :=
  let v := s.warp c w
  let ms := v.gangOf j
  let pc := (v.slice j).pc
  let acting := v.actingLanes ms (guardOf i)
  let x : Issue :=
    { core := c, warp := w, block := v.block, cp := false, slices := ms, acting := acting, pc := pc,
      next := pc + BitVec.ofNat 64 (instrLen i), opw := encodeWord i, again := (v.slice j).st == .parked,
      rows := rowsWritten i acting,
      writes := regsWritten i (lanesWritten i v.rf acting) }
  if !s.gangRuns c w j then s
  else if !(legal .lane i && countOk v.nregs i) then s.finishGang x v.pmsel (.fault ms cII 0)
  else if !x.again && v.pending ms i then s
  else (s.meetRegs c w (rowsRead i acting)).issueChecked x i body

/-- Whether a sequencer can issue. -/
def State.seqRuns (s : State) (c b : Nat) (cp : Bool) : Bool :=
  let q := (s.core c).seq b cp
  (q.st == .running || q.st == .parked) && (s.ctx ((s.core c).block b).ctx).runs [.seq c b cp]

/-- The outcome of an instruction's meaning for the sequencer that issued it. -/
def State.finishSeq (s : State) (x : Issue) : Act → State
  | .wait => s
  | .miss t => t
  | .fault _ code fva => s.raiseSeq x.core x.block x.cp code fva x.opw
  | .check _ _ => s
  | .done t => t.bump.setSeq x.core x.block x.cp { (t.core x.core).seq x.block x.cp with pc := x.next, st := .running, park := .none, tok := none, ready := false }
  | .go t next =>
    match next with
    | [] => t.bump
    | (_, pc) :: _ =>
      t.bump.setSeq x.core x.block x.cp { (t.core x.core).seq x.block x.cp with pc := pc &&& 0x1FFFFFFFFFFFFFF, st := .running, park := .none, tok := none, ready := false }

/-- Whether an upset meets the scalar work of a sequencer (R412). -/
def Upset.meetsSeq (u : Upset) (b : Nat) (cp : Bool) (i : Instr) : Bool :=
  u.at_ == .seq b cp && u.xv &&& seqBits i != 0

/-- The issue of an instruction by a sequencer: a second mismatch of its scalar units is SQMC (R412). -/
def State.issueSeq (s : State) (c b : Nat) (cp : Bool) (i : Instr) (body : Issue → State → Act) : State :=
  let q := (s.core c).seq b cp
  let x : Issue :=
    { core := c, warp := 0, block := b, cp := cp, slices := [], acting := if q.rf.guard (guardOf i) 0 then [0] else [],
      pc := q.pc, next := q.pc + BitVec.ofNat 64 (instrLen i), opw := encodeWord i, again := q.st == .parked, rows := [], writes := [] }
  if !s.seqRuns c b cp then s
  else if !legal (if cp then .cp else .mx) i then s.finishSeq x (.fault [] cII 0)
  else
    match (s.core c).upset.filter fun u => u.meetsSeq b cp i with
    | none => s.finishSeq x (if x.acting.isEmpty then .done s else body x s)
    | some u =>
      let t := s.countReplay c u
      if u.stuck then
        let xv := u.xv &&& seqBits i
        (t.postMc c 0 b { kind := 1, unit := 4, synd := 0, mult := false, lane := if cp then 1 else 0, seq := true, xv := xv } q.pc (encodeWord i)).raiseSeq c b cp cSQMC 0 (encodeWord i)
      else
        match (if x.acting.isEmpty then .done t else body x t : Act) with
        | .wait => s
        | a => t.finishSeq x a

/-- The issue of an instruction of a stream by whoever issues now: `lane` is its meaning for a gang, `seq` for a sequencer,
whose guard holds (R275). -/
def State.issue (s : State) (i : Instr) (lane seq : Issue → State → Act) : Host.Outcome State Fault Refusal :=
  match s.cur with
  | .gang c w j => .next (s.issueGang c w j i lane)
  | .seq c b cp => .next (s.issueSeq c b cp i seq)
  | .quarter _ _ | .sched _ | .engine _ | .none => .refused .noIssuer

/-- An instruction that only the lane stream accepts. -/
def State.issueLane (s : State) (i : Instr) (lane : Issue → State → Act) : Host.Outcome State Fault Refusal :=
  s.issue i lane fun _ _ => .wait

/-- An instruction that only the sequencer streams accept. -/
def State.issueStream (s : State) (i : Instr) (seq : Issue → State → Act) : Host.Outcome State Fault Refusal :=
  s.issue i (fun _ _ => .wait) seq

/-- An instruction that reads and writes registers only: what it does to the registers, given the acting lanes (R326). -/
def State.issueAlu (s : State) (i : Instr) (f : RF → List Nat → RF) : Host.Outcome State Fault Refusal :=
  s.issue i (fun x t => .done (t.setRF x.core x.warp (f (t.warp x.core x.warp).rf x.acting)))
    (fun x t =>
      let q := (t.core x.core).seq x.block x.cp
      .done (t.setSeq x.core x.block x.cp { q with rf := f q.rf x.acting }))

/-- Slices of a gang parked (R236), each park counted under event 5 (R392). -/
def State.park (s : State) (x : Issue) (sls : List Nat) (p : Park) : State :=
  s.modWarp x.core x.warp fun w =>
    let w := sls.foldl (fun w j => w.modSlice j fun y => { y with st := .parked, park := p }) w
    { w with pmcnt := if w.pmsel = 5 then w.pmcnt + BitVec.ofNat 64 sls.length else w.pmcnt }

end Sys2Proof.Machine
end

