-- ==== Sys2Proof/Machine/Fetch.lean ====
section
/-!
DEFINITION. Instruction fetch (spec/23 R397, R399; spec/16 R273; spec/10 R195): the instruction cache, the fetch of a gang or
a sequencer, the arrival of a fill.
-/

namespace Sys2Proof.Machine

/-- A cached line (R397). -/
def Core.iline (k : Core) (asn : BitVec 16) (line : Nat) : Option ILine :=
  k.icache.find? fun l => l.asn = asn && l.line = line

/-- A cached 64-bit word. -/
def Core.iword (k : Core) (asn : BitVec 16) (va : DWord) : Option DWord :=
  (k.iline asn (va.toNat / 128)).map fun l => l.data.getD (va.toNat % 128 / 8) 0

/-- What the front end finds at an address. -/
inductive Fetched where
  /-- The first word, and the extension word or zero. -/
  | words (w ext : DWord)
  /-- The line of this address is absent. -/
  | absent (va : DWord)
  /-- The address is no multiple of 8 (R273). -/
  | bad (va : DWord)
  deriving DecidableEq, Repr

/-- The fetch of an instruction from the cache (R273, R397). -/
def Core.fetch (k : Core) (asn : BitVec 16) (pc : DWord) : Fetched :=
  if pc.toNat % 8 ≠ 0 then .bad pc
  else
    match k.iword asn pc with
    | none => .absent pc
    | some w =>
      if bitAt w 63 then
        match k.iword asn (pc + 8) with
        | none => .absent (pc + 8)
        | some e => .words w e
      else .words w 0

/-- A line used: it is the most recently used of its set. -/
def Core.useLine (k : Core) (asn : BitVec 16) (line : Nat) : Core :=
  match k.iline asn line with
  | some l => { k with icache := l :: k.icache.filter (· != l) }
  | none => k

/-- The lines of an instruction used by its issue. -/
def Core.useLines (k : Core) (asn : BitVec 16) (pc : DWord) (long : Bool) : Core :=
  let k := k.useLine asn (pc.toNat / 128)
  if long then k.useLine asn ((pc + 8).toNat / 128) else k

/-- A line placed in its set, which keeps four ways (R397). -/
def placeLine (c : List ILine) (l : ILine) : List ILine :=
  let c := c.filter fun x => !(x.asn = l.asn && x.line = l.line)
  let mine := (c.filter fun x => x.line % 128 = l.line % 128).take 3
  l :: c.filter fun x => x.line % 128 ≠ l.line % 128 || mine.contains x

/-- Whether a line is being filled. -/
def Core.filling (k : Core) (asn : BitVec 16) (line : Nat) : Bool :=
  k.fills.any fun f => !f.dead && f.asn = asn && f.line = line

/-- A fill started (R397): from a peer, its load goes out (R267). -/
def State.startFill (s : State) (c : Nat) (asn : BitVec 16) (va : DWord) (leaf : DWord) (pa : Nat) : State :=
  let (id, s) := s.fresh
  let s := if eLoc leaf = 1 then
      s.sendTo (pa / 2 ^ 40) (.load Config.deviceNumber id (pa / 128 * 128 % 2 ^ 40) 128 (eCrypt leaf) (eKey leaf))
    else s
  s.modCore c fun k => { k with
    fills := k.fills ++ [{ id := id, asn := asn, line := va.toNat / 128, loc := eLoc leaf, pa := pa / 128 * 128, dead := false }] }

/-- The cache discarded, with the fills in flight (R195, R312, R397). -/
def Core.discardCode (k : Core) : Core := { k with icache := [], fills := k.fills.map fun f => { f with dead := true } }

/-- Where an agent that may issue fetches: its core, its context, the address. A parked gang is not ready and fetches nothing (R215,
R397). -/
def State.fetchAt (s : State) : Agent → Option (Nat × Nat × DWord)
  | .gang c w j =>
    if s.gangRuns c w j && ((s.warp c w).slice j).st != .parked then some (c, ((s.core c).block (s.warp c w).block).ctx, ((s.warp c w).slice j).pc) else none
  | .seq c b cp => if s.seqRuns c b cp then some (c, ((s.core c).block b).ctx, ((s.core c).seq b cp).pc) else none
  | _ => none

/-- The name under which an agent's misses are kept: a gang by its lowest slice. -/
def State.missName (s : State) : Agent → Agent
  | .gang c w j => .gang c w (((s.warp c w).gangOf j).headD j)
  | a => a

/-- A fetch that fails: IF or CA in every slice of the gang, with OPW 0 (R399), once earlier loads have written (R234). -/
def State.fetchFault (s : State) (who : Agent) (code : BitVec 8) (fva : DWord) : State :=
  match who with
  | .gang c w j =>
    let ms := (s.warp c w).gangOf j
    if s.awaits (s.warp c w).uid ms then s
    else (s.raise c w ms code fva 0).modCore c fun k => k.clearWalkFaults (s.missName who)
  | .seq c b cp => (s.raiseSeq c b cp code fva 0).modCore c fun k => k.clearWalkFaults who
  | _ => s

/-- PMCNT's event 4: a fill that a fetch of the warp starts (R397). -/
def State.countFill (s : State) : Agent → State
  | .gang c w _ => s.modWarp c w fun x => if x.pmsel = 4 then { x with pmcnt := x.pmcnt + 1 } else x
  | _ => s

/-- The words of the instruction at which a parked gang or sequencer stands: it goes on with it and fetches nothing (log 76). -/
def State.parkedWords (s : State) : Agent → Option (DWord × DWord)
  | .gang c w j => if s.gangRuns c w j && ((s.warp c w).slice j).st == .parked then some ((s.warp c w).slice j).ir else none
  | _ => none

/-- INSTRUCTION_FETCH (R397): the front end fetches the line that an agent's next instruction needs. -/
def execInstructionFetch (who : Agent) (s : State) : Host.Outcome State Fault Refusal :=
  .next <|
    match s.fetchAt who with
    | none => s
    | some (c, x, pc) =>
      let r := s.ctxRegion x
      match (s.core c).fetch r.asn pc with
      | .words _ _ => s
      | .bad va => s.fetchFault who cIF va
      | .absent va =>
        if (s.core c).filling r.asn (va.toNat / 128) then s
        else
          match s.translate c (s.missName who) r va .fetch with
          | .ok leaf pa => (s.startFill c r.asn va leaf pa).countFill who
          | .fault code => s.fetchFault who code va
          | .miss => s.queueMiss c (s.missName who) x r.asn va

/-- Whether a message still waits for a credit (R253), by its tag. -/
def State.creditless (s : State) (id : Nat) : Bool := s.io.links.any fun l => l.2.wait.any fun m => requestTag m.2 == some id

/-- Whether a fill has no way left to its home (R269). -/
def State.fillLost (s : State) (f : Fill) : Bool := (f.loc == 1 && !s.routes (f.pa / 2 ^ 40)) || (f.loc == 2 && s.attachGone)

/-- The line that a fill brings: what its home holds now, with the poison of its granules (R42, R406); all poisoned where no way is left to
its home (R269). -/
def State.fillLine (s : State) (f : Fill) : ILine :=
  if s.fillLost f then { asn := f.asn, line := f.line, data := List.replicate 16 0, pois := 0xFF }
  else
    { asn := f.asn, line := f.line, data := (List.range 16).map fun i => BitVec.ofNat 64 (s.readGlobal f.loc (f.pa + 8 * i) 8),
      pois := maskOf 8 ((List.range 8).filter fun i => s.mem.poisoned f.loc (f.pa + 16 * i) 16) }

/-- Whether an instruction's words lie in poisoned granules of their lines. -/
def Core.wordsPoisoned (k : Core) (asn : BitVec 16) (pc : DWord) (long : Bool) : Bool :=
  (pc :: if long then [pc + 8] else []).any fun a => (k.iline asn (a.toNat / 128)).any fun l => bitAt l.pois (a.toNat % 128 / 16)

/-- A gang whose next instruction lies in a poisoned granule consumes it: a storage machine check of its warp there (R42, R80, R299;
DEDUCED, log 126). -/
def State.fetchCheck (s : State) (c w j : Nat) (opw : DWord) : State :=
  s.machineCheck c w (storageMc (4 * ((s.warp c w).gangOf j).headD j) false (BitVec.ofNat 64 (3 * 2 ^ 21))) ((s.warp c w).slice j).pc opw

/-- ICACHE_FILL_ARRIVAL (R397): the line as its home holds it now, unless an ISYNC intervened; what crosses a link that has not carried
it has not arrived; one from the host takes a credit of the attach (R253). -/
def execIcacheFillArrival (core fill : Nat) (s : State) : Host.Outcome State Fault Refusal :=
  .next <|
    match (s.core core).fills.find? fun f => f.id = fill with
    | none => s
    | some f =>
      if !f.dead && !s.fillLost f && (s.creditless f.id || (f.loc == 2 && s.hostPort.isNone)) then s
      else
      let s := s.modCore core fun k => { k with fills := k.fills.filter fun x => x.id != fill }
      if f.dead then s
      else
        let s := if f.loc = 2 then (s.hostPort.map s.useCredit).getD s else s
        let s := s.denyRead f.loc f.pa 128
        let s := ((s.core core).use.map fun r => s.moves r f.loc).getD s
        s.modCore core fun k => { k with icache := placeLine k.icache (s.fillLine f) }

end Sys2Proof.Machine
end

