-- ==== Sys2Proof/Machine/Access.lean ====
section
/-!
DEFINITION. How a memory instruction forms its addresses and checks its lanes (spec/17 R294 to R299, spec/02 R23 to R29), the
order in which its requests may be performed (spec/10 R180, R185), and the requests themselves.
-/

namespace Sys2Proof.Machine

/-! ## Lanes -/

/-- A lane's access that has passed its checks: the address formed, its home, the first bit of an opaque element, the leaf
of its page (zero for scratchpad). -/
structure LaneAcc where
  lane : Nat
  va : DWord
  home : Home
  bit : Nat
  leaf : DWord
  deriving DecidableEq, Repr

/-- The outcome of a lane's checks. -/
inductive Chk where
  | ok (a : LaneAcc)
  | fault (code : BitVec 8) (fva : DWord)
  /-- The translation of this address is not cached. -/
  | absent (va : DWord)
  deriving DecidableEq, Repr

/-- The width of an element of an opaque access, or 0 (R295). -/
def elemWidth (f : FmtM) : Nat := if f.sz = 5 then f.ew.toNat else 0

/-- The bytes that one lane's access touches: an element's unit has 8 (R56, R296). -/
def accBytes (f : FmtM) : Nat := if f.sz = 5 then 8 else 2 ^ f.sz.toNat

/-- The unit and the first bit of the element that an element address names (R56, R296). -/
def unitPos (e w : Nat) : Nat × Nat := (8 * (e / (64 / w)), e % (64 / w) * w)

/-- The address that a lane forms (R23). -/
def laneAddr (f : FmtM) (r : RF) (lane : Nat) : DWord :=
  if f.sp = 0 then globalAddr (r.read2 f.ab lane) f.ofs else (scrAddr (r.read1 f.ab lane) f.ofs).setWidth 64

/-- The checks of a global access of a lane (R297): range, alignment, translation, permission, crypt; a warp's write to an
armed object's header raises PP (R169). -/
def State.checkGlobal (s : State) (c : Nat) (who : Agent) (r : Region) (w : Want) (eltW bytes lane : Nat) (a : DWord) : Chk :=
  let u := unitPos (a.toNat % 2 ^ 57) eltW
  let at_ : DWord := if eltW = 0 then a else BitVec.ofNat 64 u.1
  if 2 ^ 57 ≤ a.toNat ∨ 2 ^ 57 ≤ at_.toNat then .fault cPF a
  else if eltW = 0 ∧ a.toNat % bytes ≠ 0 then .fault cAL a
  else
    match s.translate c who r at_ w with
    | .fault code => .fault code a
    | .miss => .absent at_
    | .ok leaf pa =>
      if (w = .write ∨ w = .update) ∧ s.armedHeader (eLoc leaf) pa bytes then .fault cPP a
      else .ok { lane := lane, va := a, home := ⟨eLoc leaf, 0, pa⟩, bit := if eltW = 0 then 0 else u.2, leaf := leaf }

/-- The checks of a scratchpad access of a lane (R25 to R27, R29, R296). -/
def State.checkScr (s : State) (c : Nat) (x : Ctx) (eltW bytes lane : Nat) (a : DWord) : Chk :=
  match scrTarget x c (a.setWidth 32) with
  | none => .fault cPF a
  | some (t, ofs) =>
    let u := unitPos ofs eltW
    let byte := if eltW = 0 then ofs else u.1
    if (s.core t).scrSize ≤ byte then .fault cPF a
    else if t ≠ c ∧ (eltW ≠ 0 ∨ bytes = 16) then .fault cAL a
    else if eltW = 0 ∧ ofs % bytes ≠ 0 then .fault cAL a
    else .ok { lane := lane, va := a, home := ⟨3, t, byte⟩, bit := if eltW = 0 then 0 else u.2, leaf := 0 }

/-- The agent that a gang's misses are kept under. -/
def Issue.who (x : Issue) : Agent := .gang x.core x.warp (x.slices.headD 0)

/-- The context of an issuer, and its region. -/
def State.ctxOf (s : State) (x : Issue) : Nat := ((s.core x.core).block x.block).ctx
def State.regionOf (s : State) (x : Issue) : Region := s.ctxRegion (s.ctxOf x)

/-- The checks of one lane of a memory instruction (R297). -/
def State.checkLane (s : State) (x : Issue) (f : FmtM) (w : Want) (lane : Nat) : Chk :=
  let a := laneAddr f (s.warp x.core x.warp).rf lane
  if f.sp = 0 then s.checkGlobal x.core x.who (s.regionOf x) w (elemWidth f) (accBytes f) lane a
  else s.checkScr x.core (s.ctx (s.ctxOf x)) (elemWidth f) (accBytes f) lane a

/-- The lanes that passed, or how the instruction stops. -/
inductive Checked where
  | ok (l : List LaneAcc)
  | stop (a : Act)

/-- The misses of lanes queued (R34). -/
def State.queueAll (s : State) (x : Issue) (chks : List Chk) : State :=
  chks.foldl (fun t k => match k with
    | .absent va => t.queueMiss x.core x.who (s.ctxOf x) (s.regionOf x).asn va
    | .ok _ | .fault _ _ => t) s

/-- The lanes in increasing order: the first that fails decides the fault, in its slice (log 75); a lane that awaits a translation holds
the instruction (R297, R34). -/
def State.checkLanes (s : State) (x : Issue) (lanes : List Nat) (chk : Nat → Chk) : Checked :=
  match lanes.find? fun l => match chk l with
    | .ok _ => false
    | _ => true with
  | none => .ok (lanes.filterMap fun l => match chk l with
    | .ok a => some a
    | _ => none)
  | some l =>
    match chk l with
    | .fault code fva => .stop (.fault [l / 4] code fva)
    | _ => .stop (.miss (s.queueAll x (lanes.map chk)))

/-- How an instruction stops: one that acts once, on the scalar path, faults in every acting slice, since no fault there differs from lane
to lane (R95). -/
def Issue.whole (x : Issue) (once : Bool) : Act → Act
  | .fault l code fva => .fault (if once then actingSlices x.acting x.slices else l) code fva
  | a => a

/-- Whether a memory instruction runs once, on the scalar path: AB and V are k codes or gz (R95, R297). -/
def memOnce (f : FmtM) : Bool := !isG f.ab && !isG f.v

/-- The lanes in which a memory instruction acts: once, on the scalar path (R95, R297). -/
def memLanes (f : FmtM) (acting : List Nat) : List Nat := if memOnce f then acting.take 1 else acting

/-- The slices that a lane's request stands for: all that act, on the scalar path (R194). -/
def memMask (f : FmtM) (acting : List Nat) (lane : Nat) : BitVec 8 :=
  maskOf 8 (if memOnce f then acting.map (· / 4) else [lane / 4])

/-! ## Bank cycles (R88, R401) -/

/-- The rows of scratchpad banks that an access touches, as (core, bank, row). -/
def State.bankRows (s : State) (h : Home) (len : Nat) : List (Nat × Nat × Nat) :=
  if h.loc ≠ 3 then []
  else (units16 h.addr len).map fun r => (h.core, (s.core h.core).scrBank r, (s.core h.core).scrRow r)

/-- The core cycles of a gang's access beyond the first: the largest number of distinct rows of one bank, less one (R88). -/
def State.conflicts (s : State) (hs : List Home) (len : Nat) : Nat :=
  let rows := (hs.flatMap fun h => s.bankRows h len).dedup
  (rows.map fun r => (rows.filter fun q => q.1 == r.1 && q.2.1 == r.2.1).length).foldl max 1 - 1

/-! ## The order of accesses (R185) -/

def Req.isLd (r : Req) : Bool := r.kind != .store
def Req.isSt (r : Req) : Bool := r.kind != .load
def Req.acq (r : Req) : Bool := r.isLd && (r.ord == 1 || r.ord == 3)
def Req.rel (r : Req) : Bool := r.isSt && (r.ord == 2 || r.ord == 3)

/-- A release at device or system scope: it waits until what precedes it has been performed (R180). -/
def Req.relWide (r : Req) : Bool := r.rel && 2 ≤ r.sco

/-- Whether two accesses touch a common byte. -/
def Home.meets (a : Home) (la : Nat) (b : Home) (lb : Nat) : Bool :=
  a.loc == b.loc && (a.loc != 3 || a.core == b.core) && a.addr < b.addr + lb && b.addr < a.addr + la

def Req.meets (e l : Req) : Bool := e.home.meets e.len l.home l.len

/-- The matrix of R185: whether an earlier access of a slice is performed before a later one. -/
def Req.before (e l : Req) : Bool :=
  e.acq || (e.isLd && e.home.loc != 2) || l.relWide || (e.rel && l.acq) || e.meets l

/-- The widest FENCE with rel or ar that slices of a warp have executed (R181): each of their later stores is a fence-built release. -/
def Warp.fenceOf (w : Warp) (m : BitVec 8) : Nat := (bitsOf m 8).foldl (fun n j => max n (w.slice j).fence) 0

/-- Whether a new access waits for all that the core tracks: a release at device or system scope, by its own ORD or built by a fence
(R180, R181), or an access that a wide FENCE.ar in force holds off (R183, R185; DEDUCED, log 124). -/
def State.wideRelease (s : State) (l : Req) : Bool :=
  l.relWide || (l.isSt && 2 ≤ (s.warp l.core l.warp).fenceOf l.slices)
    || s.fab.fences.any fun f => f.wide && !f.storesOnly && f.uid == l.uid && bitAt l.slices f.slice
        && s.fab.reqs.any fun r => f.before.contains r.id && !r.done

/-- Whether a new access is a release at warp or block scope, by its own ORD or built by a fence (R180, R181). -/
def State.narrowRelease (s : State) (l : Req) : Bool :=
  (l.rel && l.sco < 2) || (l.isSt && (s.warp l.core l.warp).fenceOf l.slices == 1)

/-- What a new access of slices of a warp comes after: the earlier accesses that the matrix orders, those that a fence orders,
and the tracked accesses of its core that touch a common byte; for a wide release every earlier access of its slices and every
tracked one of its core (R180, R181, R183, R185). -/
def State.orderAfter (s : State) (l : Req) : List Nat :=
  let wide := s.wideRelease l
  let mine := (s.fab.reqs.filter fun e => e.uid == l.uid && !e.done && (e.slices &&& l.slices) != 0 && (wide || e.before l)).map Req.id
  let held := (s.fab.reqs.filter fun e => e.core == l.core && e.tracked && !e.done && (wide || e.meets l)).map Req.id
  let fences := (s.fab.fences.filter fun f => f.uid == l.uid && bitAt l.slices f.slice && (!f.storesOnly || l.isSt)).flatMap
    FenceRec.before
  (mine ++ held ++ fences).dedup

/-- Whether an access is still to be performed. -/
def State.awaited (s : State) (id : Nat) : Bool := s.fab.reqs.any fun r => r.id == id && !r.done

/-- Whether an access that the core tracks holds a request in the core: they touch a common byte (R180), or the request is a wide release,
which waits for all of them (R183). A tracked access holds off what is made after it and, once it has left, what has not left yet. -/
def Req.holds (e r : Req) : Bool :=
  e.tracked && !e.done && e.id != r.id && e.core == r.core && (e.left || e.id < r.id) && (r.wide || e.meets r)

/-- Whether nothing keeps a request from leaving the core: everything that must precede it has been performed, and no tracked access holds
it. -/
def State.clear (s : State) (r : Req) : Bool := (r.after.all fun id => !s.awaited id) && !s.fab.reqs.any fun e => e.holds r

/-- Whether what must have left the core before a release at warp or block scope has left it, or can (R180). -/
def State.ahead (s : State) (r : Req) : Bool := r.leaves.all fun id => s.fab.reqs.all fun e => e.id != id || e.done || e.left || s.clear e

/-- Whether a request may be performed: it has left the core, or it can leave it now. -/
def State.mayPerform (s : State) (r : Req) : Bool := r.left || (s.clear r && s.ahead r)

/-- The requests of a list that can leave the core have left it. -/
def State.leave (s : State) (ids : List Nat) : State :=
  if ids.isEmpty then s
  else { s with fab := { s.fab with reqs := s.fab.reqs.map fun e => if ids.contains e.id && (e.left || s.clear e) then { e with left := true } else e } }

/-- What precedes a release at warp or block scope has left the core as the release is performed (R180). -/
def State.leaveFirst (s : State) (r : Req) : State := s.leave (r.leaves.filter (· != r.id))

/-- The accesses of slices of a warp that a release covers: those before it that are not performed. -/
def Fab.covered (f : Fab) (uid : Nat) (m : BitVec 8) (upTo : Nat) : List Nat :=
  (f.reqs.filter fun r => r.uid == uid && (r.slices &&& m) != 0 && !r.done && r.id < upTo).map Req.id

/-- A warp's accesses that a release at warp or block scope covers are tracked by the core until they are performed (R180). -/
def Fab.track (f : Fab) (uid : Nat) (m : BitVec 8) (upTo : Nat) : Fab :=
  { f with reqs := f.reqs.map fun r =>
      if r.uid == uid && (r.slices &&& m) != 0 && !r.done && r.id < upTo then { r with tracked := true } else r }

/-- What a release at warp or block scope covers is tracked from now on, and has left the core where nothing holds it (R180). -/
def State.track (s : State) (uid : Nat) (m : BitVec 8) (upTo : Nat) : State :=
  ({ s with fab := s.fab.track uid m upTo } : State).leave (s.fab.covered uid m upTo)

/-- Whether an access of slices of a warp has still to leave the core: a release at warp or block scope that is performed at once waits
for it (R180; DEDUCED, log 124). -/
def State.unleft (s : State) (uid : Nat) (m : BitVec 8) : Bool :=
  s.fab.reqs.any fun r => r.uid == uid && (r.slices &&& m) != 0 && !r.done && !r.left && !s.clear r

/-! ## Requests to peers on the links (R41, R267 to R269) -/

/-- The message of a request to a peer: under its page's mode and key slot (R41). -/
def Req.message (r : Req) : FabricMsg :=
  let pa := r.home.addr % 2 ^ 40
  match r.kind with
  | .load => .load Config.deviceNumber r.id pa r.len r.crypt r.key
  | .store =>
    if r.width = 0 then .store Config.deviceNumber r.id pa (leBytes r.len r.data.toNat) r.mask.toNat r.pois r.crypt r.key
    else .store Config.deviceNumber r.id pa (leBytes r.len (r.data.toNat % 2 ^ r.width * 2 ^ r.bit)) ((2 ^ r.width - 1) * 2 ^ r.bit) r.pois r.crypt r.key
  | .atom | .cmb | .svc =>
    .atomic Config.deviceNumber r.id pa r.op r.ty.toNat (r.parts.map fun p => (p.opr, p.cmp)) r.crypt r.key

/-- Whether the peer-read cache supplies a request (R44). -/
def State.peerHit (s : State) (r : Req) : Bool :=
  r.kind == .load && r.pol < 2 && (Sparse.get none s.mem.peerRd (r.home.addr / 128)).isSome

/-- Whether a request must still cross a link: to a peer its message is not out, to the host it has found no module of the attach with a
credit (R249, R253). -/
def State.unsent (s : State) (r : Req) : Bool :=
  (r.home.loc == 1 && !s.peerHit r && (r.sent.isNone || s.creditless r.id)) || (r.home.loc == 2 && r.sent.isNone)

/-- A request is out on a port: it has left the core. -/
def Fab.sentOn (f : Fab) (id p : Nat) : Fab :=
  { f with reqs := f.reqs.map fun q => if q.id == id then { q with sent := some p, left := true } else q }

/-- A request to a peer goes out on the chosen route, and one to the host against a credit of the attach, once. -/
def State.transmit (s : State) (r : Req) : State :=
  if (r.home.loc ≠ 1 ∧ r.home.loc ≠ 2) ∨ r.sent.isSome ∨ s.peerHit r then s
  else if r.home.loc = 2 then
    match s.hostPort with
    | none => s
    | some p => { s.useCredit p with fab := s.fab.sentOn r.id p }
  else
    match s.routePort (r.home.addr / 2 ^ 40) with
    | none => s
    | some p => { s.modLink p (fun l => l.push (r.home.addr / 2 ^ 40) r.message) with fab := s.fab.sentOn r.id p }

/-- Requests sent by one instruction, in increasing lane order: a lane's store comes after a lower lane's store of the same
byte (R161); a narrow release, by its ORD or built by a fence, has the slice's earlier accesses tracked, and waits until they have left the
core. One to a peer goes out at once, unless it must come after another: then when its turn comes. -/
def State.send (s : State) (rs : List Req) : State :=
  let all := rs.foldl (fun m q => m ||| q.slices) 0#8
  let t := rs.foldl (fun t r =>
    let same := (t.fab.reqs.filter fun e => e.inst == r.inst && e.kind == .store && r.kind == .store && e.meets r).map Req.id
    let q : Req := { r with
      id := t.nextId, after := (s.orderAfter r ++ same).dedup, wide := s.wideRelease r
      leaves := if s.narrowRelease r then s.fab.covered r.uid all s.nextId else [] }
    let t : State := { t with nextId := t.nextId + 1, fab := { t.fab with reqs := t.fab.reqs ++ [q] } }
    if (q.home.loc = 1 ∨ q.home.loc = 2) ∧ t.mayPerform q then t.transmit q else t) s
  match rs.find? s.narrowRelease with
  | some r => t.track r.uid all s.nextId
  | none => t

/-- The accesses of slices of a warp that are not yet performed (R192 and the holds of releases). -/
def State.slicesBusy (s : State) (c w : Nat) (m : BitVec 8) : Bool :=
  let uid := (s.warp c w).uid
  s.fab.reqs.any fun r => r.uid == uid && !r.done && (r.slices &&& m) != 0

/-- Whether a core still tracks an access. -/
def State.coreTracks (s : State) (c : Nat) : Bool := s.fab.reqs.any fun r => r.core == c && r.tracked && !r.done

/-- Whether a core holds an access made through it, by a slice, a sequencer, the copy engine or the matrix array: it touches a byte of
a tracked access that is not yet performed (R180). -/
def State.heldAt (s : State) (c : Nat) (h : Home) (len : Nat) : Bool :=
  s.fab.reqs.any fun r => r.core == c && r.tracked && !r.done && r.home.meets r.len h len

/-- The same for bytes of its own scratchpad. -/
def State.scrHeld (s : State) (c ofs len : Nat) : Bool := s.heldAt c ⟨3, c, ofs⟩ len

/-- A narrow release made by slices of a warp: an arrival, a FORK, an XSTART (R189, R191). -/
def State.trackSlices (s : State) (c w : Nat) (m : BitVec 8) : State :=
  s.track (s.warp c w).uid m s.nextId

/-! ## Pending destinations (R99) -/

/-- The pending bits of a predicate. -/
def Warp.markP (w : Warp) (p : Nat) (sls : List Nat) (b : Bool) : Warp :=
  if p = 7 then w else { w with pp := sls.foldl (fun m j => Sparse.set false m (8 * p + j) b) w.pp }

/-- The slices of lanes, each once. -/
def slicesOf (lanes : List Nat) : List Nat := (lanes.map (· / 4)).dedup

/-- An act that changes nothing but the state: the reports of failed walks that the gang used are gone (R36). -/
def Issue.settled (x : Issue) (s : State) : State := s.modCore x.core fun k => k.clearWalkFaults x.who

/-- A request with the fields that every request of an instruction shares. -/
def State.request (s : State) (x : Issue) (f : FmtM) (kind : ReqKind) (a : LaneAcc) (acting : List Nat) (inst : Nat) : Req :=
  { id := 0, inst := inst, ctx := s.ctxOf x, core := x.core, block := x.block, warp := x.warp,
    uid := (s.warp x.core x.warp).uid, slices := memMask f acting a.lane, pc := x.pc, opw := x.opw, kind := kind, home := a.home,
    va := a.va, sec := 0, len := accBytes f, bit := a.bit, width := elemWidth f, n := nregSz f.sz, ord := f.ord.toNat,
    sco := f.sco.toNat, op := 0, ty := f.ty, meth := f.meth.toNat, sprd := f.sprd.toNat, pol := max (eCP a.leaf) f.cph.toNat,
    split := none, sa := eSA a.leaf, mir := eMir a.leaf, crypt := eCrypt a.leaf, key := eKey a.leaf, sent := none, ans := none, conf := 0, data := 0,
    mask := 0, copy := none, parts := [], after := [], leaves := [], left := false, wide := false, tracked := false, done := false, pois := false, merge := [], into := false, replies := [] }

/-- A 128-bit access to a peer or the host is two accesses of 64 bits (R297). -/
def halves (r : Req) : List Req :=
  if r.len = 16 ∧ (r.home.loc = 1 ∨ r.home.loc = 2) then
    [{ r with len := 8, data := r.data.setWidth 64 |>.setWidth 128 },
     { r with len := 8, sec := 1, home := { r.home with addr := r.home.addr + 8 }, data := r.data >>> 64 }]
  else [r]

/-- The bank cycles of an instruction counted with its first request (R401). -/
def State.withConf (s : State) (rs : List Req) : List Req :=
  match rs with
  | [] => []
  | r :: rest => { r with conf := s.conflicts (rs.map Req.home) r.len } :: rest

end Sys2Proof.Machine
end

