-- ==== Sys2Proof/Machine/Memory.lean ====
section
/-!
DEFINITION. Loads, stores, full/empty accesses, prefetches, cache control and fences (spec/17 R300 to R312; spec/04 R86, R87).
A load or a store sends its requests; they are performed at their homes by HOME_ACCESS_PERFORM.
-/

namespace Sys2Proof.Machine

/-! ## LD and ST (R300, R302) -/

/-- The part of a lane in a request. -/
def State.part (s : State) (x : Issue) (v : BitVec 8) (inst lane : Nat) (opr cmp : DWord) : Part :=
  { core := x.core, warp := x.warp, uid := (s.warp x.core x.warp).uid, lane := lane, lanes := [lane], v := v, inst := inst, opr := opr,
    cmp := cmp, live := true }

/-- LD (R300): each acting lane's request is sent, and V is pending until its data is written. -/
def execLd (f : FmtM) (s : State) : Host.Outcome State Fault Refusal :=
  s.issueLane (.ld f) fun x t =>
    if x.acting.isEmpty then .done t
    else
      match t.checkLanes x (memLanes f x.acting) (t.checkLane x f .read) with
      | .stop a => x.whole (memOnce f) a
      | .ok l =>
        let (inst, t) := t.fresh
        let rs := l.flatMap fun a =>
          halves { t.request x f .load a x.acting inst with parts := [t.part x f.v inst a.lane 0 0] }
        .done ((x.settled (t.send (t.withConf rs))).modWarp x.core x.warp fun w =>
          w.mark f.v (nregSz f.sz) (slicesOf x.acting) true)

/-- The store of a memory instruction: `op` says what becomes of the tags. -/
def State.storeLanes (s : State) (x : Issue) (f : FmtM) (op : Nat) : Act :=
  if x.acting.isEmpty then .done s
  else
    match s.checkLanes x (memLanes f x.acting) (s.checkLane x f .write) with
    | .stop a => x.whole (memOnce f) a
    | .ok l =>
      let r := (s.warp x.core x.warp).rf
      let (inst, s) := s.fresh
      let rs := l.flatMap fun a =>
        halves { s.request x f .store a x.acting inst with op := op, data := r.readQ (nregSz f.sz) f.v a.lane }
      .done (x.settled (s.send (s.withConf rs)))

/-- ST (R302). -/
def execSt (f : FmtM) (s : State) : Host.Outcome State Fault Refusal := s.issueLane (.st f) fun x t => t.storeLanes x f 0

/-- STE (R303): tags become full. -/
def execSte (f : FmtM) (s : State) : Host.Outcome State Fault Refusal := s.issueLane (.ste f) fun x t => t.storeLanes x f 1

/-- TAGCLR (R303): tags become empty, no data is written. -/
def execTagclr (f : FmtM) (s : State) : Host.Outcome State Fault Refusal :=
  s.issueLane (.tagclr f) fun x t => t.storeLanes x f 2

/-! ## LDF, LDFK and STF (R86, R87, R301, R303, R304) -/

/-- A full/empty access of a gang: it is issued once what must precede it is performed (R185); its lanes arrive in order; the
slices that still wait are parked, the others go on. -/
def State.fullEmpty (s : State) (x : Issue) (f : FmtM) (full keep : Bool) : Act :=
  if x.again && x.slices.any fun j => s.waitsAtBank x.core x.warp j then .wait
  else
    let v := s.warp x.core x.warp
    let todo := (memLanes f x.acting).filter fun l => !bitAt (v.slice (l / 4)).served (l % 4)
    if todo.isEmpty then .done s
    else
      match s.checkLanes x todo (s.checkLane x f (if full then .read else .write)) with
      | .stop a => x.whole (memOnce f) a
      | .ok l =>
        let kind : ReqKind := if full then .load else .store
        let rs := l.map fun a => s.request x f kind a x.acting 0
        if (rs.any fun r => (s.orderAfter r).any s.awaited)
            || (rs.any s.narrowRelease && s.unleft v.uid (maskOf 8 (slicesOf x.acting))) then .wait
        else
          let two := f.sz = 3
          let low := x.acting.headD 0
          let ws := l.map fun a => (a.home.core,
            { core := x.core, warp := x.warp, slice := a.lane / 4, slices := memMask f x.acting a.lane, lane := a.lane, ofs := a.home.addr, two := two,
              full := full, keep := keep, sys := full && f.ord = 1 && f.sco = 3, v := if isK f.v && a.lane ≠ low then 0xFF#8 else f.v,
              data := v.rf.readD (nregSz f.sz) f.v a.lane, next := x.next, pc := x.pc, opw := x.opw
              conf := if a.lane = (l.headD a).lane then s.conflicts (l.map LaneAcc.home) (accBytes f) else 0 : Waiter })
          let s := ws.foldl (fun s p => s.meetScr p.1 p.2.ofs p.2.len) s
          match ws.findSome? fun p => ((s.core p.1).scrPoisonAt p.2.ofs p.2.len).map fun r => (p, r) with
          | some (p, r) => .check s (storageMc p.2.lane false ((s.core p.1).scrXv r))
          | none =>
            let s := if rs.any s.narrowRelease then s.trackSlices x.core x.warp (maskOf 8 (slicesOf x.acting)) else s
            let s := x.settled (ws.foldl (fun s p => s.arriveTag p.1 p.2) s)
            let held := x.slices.filter fun j => s.waitsAtBank x.core x.warp j
            let s := if x.again then s.modWarp x.core x.warp fun w => held.foldl (fun w j => w.modSlice j fun y =>
                { y with st := .parked, park := .fullEmpty }) w
              else s.park x held .fullEmpty
            .go s ((x.slices.filter fun j => !held.contains j).map fun j => (j, x.next))

/-- LDF (R301). -/
def execLdf (f : FmtM) (s : State) : Host.Outcome State Fault Refusal := s.issueLane (.ldf f) fun x t => t.fullEmpty x f true false

/-- LDFK (R301). -/
def execLdfk (f : FmtM) (s : State) : Host.Outcome State Fault Refusal := s.issueLane (.ldfk f) fun x t => t.fullEmpty x f true true

/-- STF (R303). -/
def execStf (f : FmtM) (s : State) : Host.Outcome State Fault Refusal := s.issueLane (.stf f) fun x t => t.fullEmpty x f false false

/-! ## PREF, IPREF and CCTL (R307 to R309) -/

/-- A peer line filled into the peer-read cache (R44). -/
def Mem.fillPeer (m : Mem) (a : Nat) : Mem :=
  { m with peerRd := Sparse.set none m.peerRd (a / 128) (some (m.read 1 (a / 128 * 128) 128)) }

/-- A lane of PREF or IPREF checked: a lane that would fault is dropped without a trace (R307, R308). -/
def State.hintLane (s : State) (x : Issue) (f : FmtM) (w : Want) (lane : Nat) : Tr :=
  s.translate x.core x.who (s.regionOf x) (laneAddr f (s.warp x.core x.warp).rf lane) w

/-- A hint's lanes: those whose translation is not cached wait for its walk (R34), then each acts. -/
def State.hint (s : State) (x : Issue) (f : FmtM) (w : Want) (act : State → Nat → State) : Act :=
  let lanes := memLanes f x.acting
  let va := fun l => laneAddr f (s.warp x.core x.warp).rf l
  match (lanes.filter fun l => s.hintLane x f w l == .miss) with
  | [] => .done (x.settled (lanes.foldl act s))
  | ls => .miss (ls.foldl (fun t l => t.queueMiss x.core x.who (s.ctxOf x) (s.regionOf x).asn (va l)) s)

/-- PREF of one lane (R307). -/
def State.prefetch (s : State) (x : Issue) (f : FmtM) (lane : Nat) : State :=
  match s.hintLane x f .read lane with
  | .ok leaf pa =>
    let pol := max (eCP leaf) f.cph.toNat
    if pol = 2 ∨ eLoc leaf = 2 then s
    else if eLoc leaf = 0 then { s with mem := s.mem.touchLine pa pol false }
    else if (Sparse.get none s.mem.peerRd (pa / 128)).isSome then s
    else
      let (id, s) := s.fresh
      { s with mem := s.mem.fillPeer pa }.sendTo (pa / 2 ^ 40)
        (.load Config.deviceNumber id (pa / 128 * 128 % 2 ^ 40) 128 (eCrypt leaf) (eKey leaf))
  | .fault _ | .miss => s

/-- PREF (R307). -/
def execPref (f : FmtM) (s : State) : Host.Outcome State Fault Refusal :=
  s.issueLane (.pref f) fun x t => t.hint x f .read fun t l => t.prefetch x f l

/-- IPREF of one lane (R308): an instruction-cache fill that counts nothing (R397). -/
def State.prefetchCode (s : State) (x : Issue) (f : FmtM) (lane : Nat) : State :=
  let a := laneAddr f (s.warp x.core x.warp).rf lane
  let asn := (s.regionOf x).asn
  let k := s.core x.core
  match s.hintLane x f .fetch lane with
  | .ok leaf pa =>
    if (k.iline asn (a.toNat / 128)).isSome || k.filling asn (a.toNat / 128) then s
    else s.startFill x.core asn a leaf pa
  | .fault _ | .miss => s

/-- IPREF (R308). -/
def execIpref (f : FmtM) (s : State) : Host.Outcome State Fault Refusal :=
  s.issueLane (.ipref f) fun x t => t.hint x f .fetch fun t l => t.prefetchCode x f l

/-- CCTL (R309): `ordered` operations act once the slice's stores to the line that precede them are performed (R185). -/
def State.cacheControl (s : State) (x : Issue) (f : FmtM) (ordered : Bool) (op : Mem → Home → Mem) : Act :=
  let g := { f with sz := 0 }
  match s.checkLanes x (memLanes f x.acting) (s.checkLane x g .read) with
  | .stop a => x.whole (memOnce f) a
  | .ok l =>
    let lines := l.map fun a => { a.home with addr := a.home.addr / 128 * 128 }
    if ordered && l.any fun a =>
        let r := { s.request x g .store a x.acting 0 with home := { a.home with addr := a.home.addr / 128 * 128 }, len := 128 }
        (s.orderAfter r).any s.awaited
    then .wait
    else .done (x.settled { s with mem := lines.foldl op s.mem })

/-- A dirty local line is written back, and stays clean (R309). -/
def Mem.writeBack (m : Mem) (h : Home) : Mem :=
  let l := Sparse.get L2Line.absent m.l2 (h.addr / 128)
  if h.loc = 0 then { m with l2 := Sparse.set L2Line.absent m.l2 (h.addr / 128) { l with dirty := false } } else m

/-- A local line is written back and dropped, unless it is pinned (R309). -/
def Mem.evict (m : Mem) (h : Home) : Mem :=
  let l := Sparse.get L2Line.absent m.l2 (h.addr / 128)
  if h.loc = 0 then
    { m with l2 := Sparse.set L2Line.absent m.l2 (h.addr / 128) { l with dirty := false, held := l.pin.isSome } }
  else m

/-- The peer-read copy of a peer line is discarded (R309). -/
def Mem.peerDrop (m : Mem) (h : Home) : Mem := if h.loc = 1 then { m with peerRd := Sparse.set none m.peerRd (h.addr / 128) none } else m

/-- CCTL.wb (R309). -/
def execCctlWb (f : FmtM) (s : State) : Host.Outcome State Fault Refusal :=
  s.issueLane (.cctlWb f) fun x t => t.cacheControl x f true Mem.writeBack

/-- CCTL.evict (R309). -/
def execCctlEvict (f : FmtM) (s : State) : Host.Outcome State Fault Refusal :=
  s.issueLane (.cctlEvict f) fun x t => t.cacheControl x f true Mem.evict

/-- CCTL.pdrop (R309): performed at once. -/
def execCctlPdrop (f : FmtM) (s : State) : Host.Outcome State Fault Refusal :=
  s.issueLane (.cctlPdrop f) fun x t => t.cacheControl x f false Mem.peerDrop

/-! ## FENCE, FENCEMIR and ISYNC (R185, R310 to R312) -/

/-- Whether a request is a load, or an RMW with a reply (R164, R174, R185's fences): an ATOM's is dropped with V = gz, a CMB's with V = gz
and SPRD = pt. -/
def Req.replies? (r : Req) : Bool := r.kind == .load || (r.isLd && r.parts.any fun p => !isGz p.v || (r.kind != .atom && r.sprd != 7))

/-- What a fence of a slice orders before later accesses: `lds` loads and RMWs with a reply only, otherwise every access, and
for a wide release what the core tracks. -/
def State.fenced (s : State) (c w j : Nat) (lds wide : Bool) : List Nat :=
  let uid := (s.warp c w).uid
  (s.fab.reqs.filter fun r => r.uid == uid && bitAt r.slices j && !r.done && (!lds || r.replies?)).map Req.id
    ++ if wide then (s.fab.reqs.filter fun r => r.core == c && r.tracked && !r.done).map Req.id else []

/-- FENCE (R181, R185, R310). Later stores of the slice are fence-built releases; a narrow release is kept by the core's tracking (R180); an acquire at system scope discards the
peer-read cache once the earlier loads are performed (R44). -/
def execFence (f : FmtM) (s : State) : Host.Outcome State Fault Refusal :=
  s.issueLane (.fence f) fun x t =>
    let sls := slicesOf x.acting
    let acq := f.ord = 1 ∨ f.ord = 3
    let rel := f.ord = 2 ∨ f.ord = 3
    let wide := 2 ≤ f.sco.toNat
    if acq ∧ f.sco = 3 ∧ sls.any fun j => (t.fenced x.core x.warp j (f.ord = 1) true).any t.awaited then .wait
    else
      let t := if acq ∧ f.sco = 3 ∧ !sls.isEmpty then t.dropPeerReads else t
      let uid := (t.warp x.core x.warp).uid
      let recs := sls.flatMap fun j =>
        (if acq then [FenceRec.mk x.core uid j (t.fenced x.core x.warp j (f.ord = 1 || !wide) (rel && wide)) false (rel && wide)] else [])
        ++ if rel ∧ !acq ∧ wide then [FenceRec.mk x.core uid j (t.fenced x.core x.warp j false true) true true] else []
      let live := t.fab.fences.filter fun r => r.before.any t.awaited
      let t := { t with fab := { t.fab with fences := live ++ recs.filter fun r => !r.before.isEmpty } }
      if !rel then .done t
      else
        let t := if wide then t else t.trackSlices x.core x.warp (maskOf 8 sls)
        .done (t.modWarp x.core x.warp fun w => sls.foldl (fun w j => w.modSlice j fun y =>
          { y with fence := max y.fence (if wide then 2 else 1) }) w)

/-- Whether a store of slices to a mirror page has not yet reached mirror scope (R196). -/
def State.mirrorBusy (s : State) (uid : Nat) (m : BitVec 8) : Bool :=
  (s.fab.reqs.any fun r => r.uid == uid && r.mir && r.isSt && !r.done && (r.slices &&& m) != 0)
    || s.fab.mirror.any fun r => r.makers.any fun q => q.1 == uid && (q.2 &&& m) != 0

/-- FENCEMIR (R311): it waits while mirroring is broken. -/
def execFencemir (f : FmtM) (s : State) : Host.Outcome State Fault Refusal :=
  s.issueLane (.fencemir f) fun x t =>
    if x.acting.isEmpty then .done t
    else if bitAt t.io.mircfg 62 || t.mirrorBusy (t.warp x.core x.warp).uid (maskOf 8 (slicesOf x.acting)) then .wait
    else .done t

/-- Whether a load or an RMW of slices is not yet performed, or its reply is not yet written: no earlier acquire of theirs is open. -/
def State.loadsOpen (s : State) (uid : Nat) (sls : List Nat) : Bool :=
  s.awaits uid sls || s.fab.reqs.any fun r => r.uid == uid && r.isLd && !r.done && (r.slices &&& maskOf 8 sls) != 0

/-- ISYNC (R195, R312): after the slice's earlier instructions have completed, the core's cached code is discarded; with no
acting lane it discards nothing (R397). -/
def execIsync (f : FmtM) (s : State) : Host.Outcome State Fault Refusal :=
  s.issueLane (.isync f) fun x t =>
    if x.acting.isEmpty then .done t
    else if t.loadsOpen (t.warp x.core x.warp).uid (slicesOf x.acting) then .wait
    else .done (t.modCore x.core Core.discardCode)

end Sys2Proof.Machine
end

