-- ==== Sys2Proof/Machine/Home.lean ====
section
/-!
DEFINITION. Accesses performed at their homes (spec/10 R180, R186; spec/09 R161 to R168; spec/02 R42 to R47, R406), the atomics'
operations and their merging in the routers, and the write-back of replies (spec/05 R99, spec/17 R299, spec/20 R368).
-/

namespace Sys2Proof.Machine

/-! ## Requests -/

def State.findReq (s : State) (id : Nat) : Option Req := s.fab.reqs.find? fun r => r.id == id

def State.modReq (s : State) (id : Nat) (f : Req → Req) : State :=
  { s with fab := { s.fab with reqs := s.fab.reqs.map fun r => if r.id == id then f r else r } }

def State.dropReq (s : State) (id : Nat) : State := { s with fab := { s.fab with reqs := s.fab.reqs.filter fun r => r.id != id } }

/-- Whether a part still awaits its reply: its warp lives, and it is a load or does not drop its reply (R164, R295). -/
def Req.wants (r : Req) (p : Part) : Bool := p.live && (r.kind == .load || !isGz p.v || (r.kind != .atom && r.sprd != 7))

/-- A read of a lane's source has returned: a half of the source keeps its place (R297). -/
def LdaRec.took (d : LdaRec) (r : Req) (v : BitVec 128) (pois : Bool) : LdaRec :=
  if d.reqs.contains r.id then
    { d with reqs := d.reqs.filter (· != r.id), data := d.data ||| v <<< (64 * r.sec), pois := d.pois || pois }
  else d

/-- What LDA16's source read returns, kept for its write (R306). -/
def State.ldaRead (s : State) (r : Req) (v : BitVec 128) (pois : Bool) : State :=
  if (s.core r.core).lda.any fun d => d.reqs.contains r.id then
    s.modCore r.core fun k => { k with lda := k.lda.map fun d => d.took r v pois }
  else s

def Core.modCopy (k : Core) (id : Nat) (f : CopyRec → CopyRec) : Core :=
  { k with copies := k.copies.map fun r => if r.id = id then f r else r }

/-- Whether accesses of a bulk copy are on their way to a peer. -/
def State.copyMoves (s : State) (id : Nat) : Bool := s.fab.reqs.any fun q => q.core != Config.numCores && q.copy.map Prod.fst == some id && !q.done

/-- A bulk copy whose chunks are all written, with nothing of it on its way, has completed in the job window (R60, R180). -/
def State.copyDone (s : State) (c id : Nat) : State :=
  if ((s.core c).copies.any fun q => q.id == id && q.fin) && !s.copyMoves id then
    s.modCore c fun k => { k with window := k.window.filter fun x => x != .copy id }
  else s

/-- What a read of a granule at a peer or the host, by a bulk copy or the I/O die, has returned, or that a copy's write is acknowledged (R56,
R180). -/
def State.copyTook (s : State) (r : Req) (v : BitVec 128) (pois : Bool) : State :=
  match r.copy with
  | none => s
  | some (id, g) =>
    if r.core = Config.numCores then { s with io := { s.io with got := (id, g, v, pois) :: s.io.got } }
    else if r.kind = .load then s.modCore r.core fun k => k.modCopy id fun q => { q with got := (g, v, pois) :: q.got }
    else s.copyDone r.core id

/-- A request complete: what it read goes to its LDA16 lane or its copy; it waits for its write-back, or is gone when nothing awaits a
reply; its block may retire (R207). -/
def State.complete (s : State) (r : Req) (pois : Bool) (replies : List (BitVec 128)) : State :=
  let s := s.moves (s.ctx r.ctx).rcb r.home.loc
  let s := if r.acq && r.sco == 3 then s.dropPeerReads else s
  let s := if r.kind = .load then s.ldaRead r (replies.headD 0) pois else s
  let s := if r.parts.any r.wants then s.modReq r.id fun q => { q with done := true, pois := pois, replies := replies }
    else s.dropReq r.id
  (s.copyTook r (replies.headD 0) pois).retire r.core r.block

/-- A request performed at its home. At a peer it completes once the answer is back (R180); `raw` are the bytes that the peer answers. -/
def State.performed (s : State) (r : Req) (pois : Bool) (replies : List (BitVec 128)) (raw : List Byte) : State :=
  if r.home.loc = 1 ∧ r.sent.isSome then s.modReq r.id fun q => { q with ans := some raw, pois := pois, replies := replies }
  else s.complete r pois replies

/-- Whether the bank cycles of an access are counted when one of a warp is performed: they are of one core's banks, and it was made no later. -/
def Req.countsAt (e r : Req) : Bool :=
  e.conf != 0 && e.core == r.core && e.uid == r.uid && e.home.loc == 3 && e.home.core == r.home.core && decide (e.id ≤ r.id)

/-- PMCNT's event 3, when an access is performed at its banks (R401): the gangs' accesses of a warp reach a core's banks in their order, so
those of earlier instructions are counted as well (DEDUCED, log 142). -/
def State.countConf (s : State) (r : Req) : State :=
  let es := s.fab.reqs.filter fun e => e.countsAt r
  if r.home.loc ≠ 3 ∨ es.isEmpty ∨ (s.warp r.core r.warp).uid ≠ r.uid then s
  else ({ s with fab := { s.fab with reqs := s.fab.reqs.map fun e => if e.countsAt r then { e with conf := 0 } else e } } : State).modWarp r.core r.warp
    fun w => w.counts 3 (es.map Req.conf).sum

/-- Whether a running wave holds ordinary accesses to a local range off (R169): the payload of its object. -/
def State.waveHolds (s : State) (h : Home) (len : Nat) : Bool :=
  h.loc == 0 && s.fab.objs.any fun o =>
    o.2.wave.isSome && o.1 + 64 < h.addr + len && h.addr < o.1 + 64 + 64 * fieldN (s.mem.dword o.1) 32 7

/-! ## One access at a home -/

/-- The number in `len` bytes at a home: scratchpad, or memory. -/
def State.homeNat (s : State) (h : Home) (len : Nat) : Nat :=
  if h.loc = 3 then (s.core h.core).scrNat h.addr len else s.readGlobal h.loc h.addr len

/-- Whether a read of a home touches poison (R79, R406). -/
def State.homePoison (s : State) (h : Home) (len : Nat) : Bool :=
  if h.loc = 3 then ((s.core h.core).scrPoisonAt h.addr len).isSome else s.mem.poisoned h.loc h.addr len

/-- A write at a home. -/
def State.homeWrite (s : State) (h : Home) (bs : List Byte) : State :=
  if h.loc = 3 then s.modCore h.core fun k => k.writeScr h.addr bs else s.storeGlobal h.loc h.addr bs

/-- The record of the line touched (R43). -/
def State.homeTouch (s : State) (r : Req) (dirty : Bool) : State :=
  if r.home.loc = 0 then { s with mem := s.mem.touchLine r.home.addr r.pol dirty } else s

/-- The mirror write of a request, made by the slices of `rs`; what the home discards is not sent. -/
def State.mirrorSend (s : State) (r : Req) (rs : List Req) (bs : List Byte) : State :=
  if r.mir && !s.discards r.home.loc r.home.addr bs.length then s.mirrorPut r.id (rs.map fun q => (q.uid, q.slices)) r.home bs else s

/-- A read of a home meets what is wrong in the symbols of the scratchpad's codewords (R75). -/
def State.homeMeet (s : State) (h : Home) (len : Nat) : State := if h.loc = 3 then s.meetScr h.core h.addr len else s

/-- The peer line of an access brought into the peer-read cache, when its page lets it (R44); an access that reads past the cache leaves no
older copy there (R186). -/
def State.peerFill (s : State) (h : Home) (pol : Nat) : State :=
  if h.loc ≠ 1 then s
  else if 2 ≤ pol then { s with mem := { s.mem with peerRd := Sparse.set none s.mem.peerRd (h.addr / 128) none } }
  else if Sparse.get none s.mem.peerRd (h.addr / 128) = none then { s with mem := s.mem.fillPeer h.addr }
  else s

/-- What a load reads (R300): a peer line that the cache keeps supplies its copy (R44). -/
def State.loadNat (s : State) (h : Home) (pol len : Nat) : Nat :=
  match (if h.loc = 1 ∧ pol < 2 then Sparse.get none s.mem.peerRd (h.addr / 128) else none) with
  | some line => leNat ((line.drop (h.addr % 128)).take len)
  | none => s.homeNat h len

/-- The element of an opaque access, or the whole number (R295, R296). -/
def Req.pick (r : Req) (v : Nat) : Nat := if r.width = 0 then v else v / 2 ^ r.bit % 2 ^ r.width

/-- A load is performed: its value is fixed (R180). -/
def State.performLoad (s : State) (r : Req) : State :=
  let s := ((s.peerFill r.home r.pol).homeMeet r.home r.len).denyRead r.home.loc r.home.addr r.len
  let n := s.loadNat r.home r.pol r.len
  let pois := s.homePoison r.home r.len
  ((s.homeTouch r false).countConf r).performed r pois [BitVec.ofNat 128 (r.pick n)] (leBytes r.len n)

/-- The bytes that a store writes: a copy's store of a part of a granule, and an opaque store, are masked writes (R58, R296). -/
def State.storeBytes (s : State) (r : Req) : List Byte :=
  if r.mask ≠ 0 then leBytes r.len ((BitVec.ofNat 128 (s.homeNat r.home r.len) &&& ~~~r.mask) ||| (r.data &&& r.mask)).toNat
  else if r.width = 0 then leBytes r.len r.data.toNat
  else
    let old := s.homeNat r.home 8
    let hole := old - old / 2 ^ r.bit % 2 ^ r.width * 2 ^ r.bit
    leBytes 8 (hole + r.data.toNat % 2 ^ r.width * 2 ^ r.bit)

/-- A store is performed: written at its home (R180), with the tags that STE and TAGCLR set (R303). Each lane's store is a write of its
own: several that cover a row together leave its poison (DESIGN CHOICE, log 98). -/
def State.performStore (s : State) (r : Req) : State :=
  let bs := s.storeBytes r
  let s := if r.op = 2 then s else s.homeWrite r.home bs
  let s := if r.pois then s.poisonMem r.home.loc (r.home.addr / 16) else s
  let s := if r.op = 0 then s
    else s.modCore r.home.core fun k => (tagWords r.home.addr (r.len == 8)).foldl (fun k n => k.setTag n (r.op == 1)) k
  let s := ((s.mirrorSend r [r] bs).homeTouch r true).countConf r
  let s := s.performed r false [] []
  if r.op = 0 then s else s.wakeTags

/-- Whether a request has no way left to its home: no port leads to its peer, every module of the attach is down (R269). -/
def State.cutOff (s : State) (r : Req) : Bool :=
  (r.home.loc == 1 && !s.routes (r.home.addr / 2 ^ 40)) || (r.home.loc == 2 && s.attachGone)

/-- A request that has no route left completes at once: a load or an atomic with poisoned data, a store discarded (R269). -/
def State.lose (s : State) (r : Req) : State := s.complete r (r.kind != .store) (r.parts.map fun _ => 0)

/-- Whether a request cannot be performed at its home now: it has been, or what must precede it has not, or a running wave holds it off
(R169). -/
def State.notYet (s : State) (r : Req) : Bool :=
  r.done || r.ans.isSome || (r.sent.isNone && !s.mayPerform r) || s.waveHolds r.home r.len

/-- HOME_ACCESS_PERFORM (R180, R185): a load or a store is performed at its home, once what must precede it has been; an
access to the payload of an object waits for a running wave (R169). One to a peer goes out first (R267), and is complete once the peer's
answer is back; one to the host waits for the attach and a credit of it (R249, R253), and completes at once when no module is left (R269). -/
def execHomeAccessPerform (req : Nat) (s : State) : Host.Outcome State Fault Refusal :=
  .next <|
    match s.findReq req with
    | none => s
    | some r =>
      if s.notYet r then s
      else if s.cutOff r then s.lose r
      else if s.unsent r then s.transmit r
      else
        let s := s.leaveFirst r
        match r.kind with
        | .load => s.performLoad r
        | .store => s.performStore r
        | .atom | .cmb | .svc => s

/-- A GCM read of a line finds that its tag or counter does not verify (R42, R406): every granule of the line is poisoned. -/
def State.gcmFail (s : State) (line : Nat) : State :=
  if (s.tag (line / 512)).mode ≠ 2 then s
  else { s with mem := { (List.range 8).foldl (fun m i => m.setPoison 0 (8 * line + i) true) s.mem with failed := line :: s.mem.failed } }

/-! ## Routes lost (R269, R271) -/

/-- Mirroring breaks when the partner has no route (R271). -/
def State.checkMirror (s : State) : State :=
  if bitAt s.io.mircfg 63 && !s.routes (fieldN s.io.mircfg 24 13) then s.breakMirror else s

/-- The fills that have no way left to their homes arrive at once, poisoned (R269). -/
def State.loseFills (s : State) : State :=
  if s.cores.all fun k => k.2.fills.all fun f => !s.fillLost f then s
  else { s with cores := Sparse.mapVals Core.reset s.cores fun _ k => { k with
    fills := k.fills.filter fun f => !s.fillLost f
    icache := (k.fills.filter fun f => s.fillLost f && !f.dead).foldl (fun c f => placeLine c (s.fillLine f)) k.icache } }

/-- The requests that have no route left complete at once (R269). -/
def State.dropUnrouted (s : State) : State :=
  ((s.fab.reqs.filter fun r => !r.done && s.cutOff r).foldl State.lose s).loseFills.checkMirror

/-- A request that a lost port had sent and that is not performed is to be sent again (R269). -/
def Req.unsend (r : Req) (p : Nat) : Req := if r.sent == some p && !r.done && r.ans.isNone then { r with sent := none } else r

/-- A mirror write sent again on another port. -/
def MirRec.resent (y : MirRec) (id q : Nat) : MirRec := if y.id = id then { y with sent := some q } else y

/-- The mirror writes that a port had sent and that are not acknowledged go by another route (R269). -/
def State.resendMirror (s : State) (p : Nat) : State :=
  (s.fab.mirror.filter fun m => m.sent == some p).foldl (fun t m =>
    match t.routePort (fieldN t.io.mircfg 24 13) with
    | none => t
    | some q => { t.modLink q (fun l => l.push (fieldN t.io.mircfg 24 13) (t.mirrorMsg m)) with
        fab := { t.fab with mirror := t.fab.mirror.map fun y => y.resent m.id q } }) s

/-- What a lost port had sent or was to send goes by another route (R269). -/
def State.reroute (s : State) (p : Nat) : State :=
  let late := (s.port p).wait.filter fun m => (mirrorTag m.2).isNone && !s.fab.reqs.any fun r => requestTag m.2 == some r.id
  let s := s.modLink p fun l => { l with wait := [] }
  let s := { s with fab := { s.fab with reqs := s.fab.reqs.map fun r : Req => r.unsend p } }
  let s := (late.foldl (fun t m => t.sendTo m.1 m.2) s).resendMirror p
  (s.fab.reqs.filter fun r : Req => (r.home.loc == 1 || r.home.loc == 2) && !r.done && r.sent.isNone && s.mayPerform r).foldl State.transmit s

/-! ## ATOM (R162 to R167, R368) -/

/-- An ATOM's new value (R162). -/
def atomNew (op : Nat) (ty : BitVec 4) (old opr cmp : DWord) : DWord :=
  match op with
  | 0 => if isFloat ty then fpOp2 ty 0 0 false FpVal.add old opr else intOp2 ty 0 (· + ·) old opr
  | 1 => if isFloat ty then fpOp2 ty 0 0 false (FpVal.pick false) old opr else intOp2 ty 0 min old opr
  | 2 => if isFloat ty then fpOp2 ty 0 0 false (FpVal.pick true) old opr else intOp2 ty 0 max old opr
  | 3 => old &&& opr
  | 4 => old ||| opr
  | 5 => old ^^^ opr
  | 6 => opr
  | _ => if old = cmp then opr else old

/-- The parts of a request applied one after another, with the old value each receives (R163, R167). -/
def atomRun (op : Nat) (ty : BitVec 4) (v : DWord) (ps : List Part) : DWord × List DWord :=
  ps.foldl (fun acc p => (atomNew op ty acc.1 p.opr p.cmp, acc.2 ++ [acc.1])) (v, [])

/-- The members of a merged request: its own tag first, then those that merged into it, in merge order (R165). -/
def State.members (s : State) (r : Req) : List Req := r :: r.merge.filterMap s.findReq

/-- The members of a request performed on a value: the final value, and each member's replies. -/
def runMembers (r : Req) (v : DWord) (ms : List Req) : DWord × List (Req × List DWord) :=
  ms.foldl (fun acc m =>
    let o := atomRun r.op r.ty acc.1 m.parts
    (o.1, acc.2 ++ [(m, o.2)])) (v, [])

/-- An ATOM performed at its home as one indivisible access, from the value it read (R167): a poisoned word is left as it is,
and the replies are poisoned (R368). -/
def State.performAtom (s : State) (r : Req) (old : DWord) : State :=
  let pois := s.homePoison r.home r.len
  let ms := s.members r
  let out := runMembers r old ms
  let bs := leBytes r.len out.1.toNat
  let s := if pois then s else (s.homeWrite r.home bs).mirrorSend r ms bs
  let s := (s.homeTouch r true).countConf r
  out.2.foldl (fun s m => s.performed m.1 pois (m.2.map fun d => d.setWidth 128) (m.2.flatMap fun d => leBytes r.len d.toNat)) s

/-- ATOM_HOME_PERFORM (R47, R167): an ATOM is performed; on a host page with SA = 0 its read and its write are two accesses. -/
def execAtomHomePerform (req : Nat) (s : State) : Host.Outcome State Fault Refusal :=
  .next <|
    match s.findReq req with
    | none => s
    | some r =>
      if r.kind != .atom || r.into || s.notYet r then s
      else if s.cutOff r then s.lose r
      else if s.unsent r then s.transmit r
      else
        let s := ((s.leaveFirst r).homeMeet r.home r.len).denyRead r.home.loc r.home.addr r.len
        let old := BitVec.ofNat 64 (s.homeNat r.home r.len)
        match r.split with
        | some v => s.performAtom r v
        | none =>
          if r.home.loc = 2 ∧ !r.sa then s.modReq req fun q => { q with split := some old, sent := none } else s.performAtom r old

/-- Whether a request may merge (R165): a relaxed ATOM to local HBM whose operation merges, not yet performed. -/
def Req.mergeable (r : Req) : Bool := r.kind == .atom && !r.done && !r.into && r.home.loc == 0 && r.op ≤ 5 && r.ord == 0

/-- Whether nothing but a waiting entry keeps a request from being performed. -/
def State.mayFollow (s : State) (e a : Req) : Bool :=
  ({ s with fab := { s.fab with reqs := s.fab.reqs.filter fun r => r.id != e.id } } : State).mayPerform a

/-- ROUTER_REQUEST_ARRIVAL (R165): the arriving request merges into a waiting entry, when both may and together carry at most
eight tags; otherwise it passes unmerged. -/
def execRouterRequestArrival (entry arriving : Nat) (s : State) : Host.Outcome State Fault Refusal :=
  .next <|
    match s.findReq entry, s.findReq arriving with
    | some e, some a =>
      if entry ≠ arriving && e.mergeable && a.mergeable && e.home == a.home && e.op == a.op && e.ty == a.ty && e.len == a.len
          && e.merge.length + a.merge.length + 2 ≤ 8 && s.mayPerform e && s.mayFollow e a then
        (s.modReq entry fun q => { q with merge := q.merge ++ arriving :: a.merge }).modReq arriving fun q =>
          { q with into := true, merge := [] }
      else s
    | _, _ => s

/-! ## Write-back (R99, R299, R368) -/

/-- The reply of a lane: the halves of a 128-bit access joined. -/
def replyOf (rs : List Req) (lane : Nat) : BitVec 128 :=
  rs.foldl (fun acc r =>
    match (r.parts.zip r.replies).find? fun p => p.1.lane == lane with
    | some p => acc ||| p.2 <<< (64 * r.sec)
    | none => acc) 0

/-- The lanes that await a reply of an instruction. -/
def replyLanes (rs : List Req) : List Nat := (rs.flatMap fun r => (r.parts.filter r.wants).map Part.lane).dedup.mergeSort

/-- The registers and predicates of an instruction's replies written (R95, R99): a k destination receives the lowest lane's;
a CMB's or an SVC's status predicate is set on status OK (R174), which stands in `op`. -/
def Warp.writeReplies (w : Warp) (rs : List Req) (r : Req) (v : BitVec 8) : Warp :=
  let lanes := replyLanes rs
  let ws := if isK v then lanes.take 1 else lanes
  let rf := ws.foldl (fun rf l => rf.writeQ r.n v l (replyOf rs l)) w.rf
  let rf := if r.kind == .cmb || r.kind == .svc then
      rs.foldl (fun rf q => (q.parts.filter q.wants).foldl (fun rf p => rf.writePreds q.sprd p.lanes fun _ => q.op == 0) rf) rf
    else rf
  let sls := (rs.flatMap fun q => bitsOf q.slices 8).dedup
  let w := ({ w with rf := rf }.mark v r.n sls false).wrote (regLanes v r.n lanes)
  let w := if isG v then w.rowsDone ((List.range r.n).flatMap fun n => (slicesWhole lanes).map fun j => 8 * (v.toNat + n) + j) else w
  if r.kind == .cmb || r.kind == .svc then w.markP r.sprd sls false else w

/-- The lanes whose reply is poisoned, with where the poison lies (R105, R299): the scratchpad row, or global memory. -/
def State.poisonedLanes (s : State) (rs : List Req) : List (Nat × DWord) :=
  (rs.filter Req.pois).flatMap fun r =>
    let xv : DWord := if r.home.loc = 3 then
        (s.core r.home.core).scrXv (((s.core r.home.core).scrPoisonAt r.home.addr r.len).getD (r.home.addr / 16))
      else BitVec.ofNat 64 (3 * 2 ^ 21)
    (r.parts.filter r.wants).map fun p => (p.lane, xv)

/-- The replies of an instruction written together once every request of it has been performed (R99); poisoned data writes nothing
and is a storage machine check at the instruction (R299, R368). -/
def State.writeBack (s : State) (req : Nat) : State :=
  match s.findReq req with
  | none => s
  | some r =>
    let rs := s.fab.reqs.filter fun q => q.inst == r.inst && q.uid == r.uid && q.kind == r.kind
    if r.kind == .store || !rs.all Req.done then s
    else
      match r.parts.find? r.wants with
      | none => s
      | some p =>
        let bad := (s.poisonedLanes rs).mergeSort fun a b => a.1 ≤ b.1
        let t := { s with fab := { s.fab with reqs := s.fab.reqs.filter fun q => !rs.contains q } }
        match bad with
        | b :: rest => t.machineCheck r.core r.warp (storageMc b.1 (rest.any fun q => q.1 != b.1) b.2) r.pc r.opw
        | [] => t.modWarp r.core r.warp fun w => w.writeReplies rs r p.v

end Sys2Proof.Machine
end

