-- ==== Sys2Proof/Machine/Atomic.lean ====
section
/-!
DEFINITION. ATOM as it issues (spec/20 R367, R368; spec/09 R162 to R164): one request for each address that its lanes name. It
is performed at its home by ATOM_HOME_PERFORM.
-/

namespace Sys2Proof.Machine

/-- Whether an ATOM or a CMB runs once on the scalar path: AB, V and the operand register are no g registers (R95, R297; log 13). -/
def atomOnce (f : FmtM) : Bool := !isG f.ab && !isG f.v && !isG f.opr

/-- The lanes in which an ATOM acts. -/
def atomLanes (f : FmtM) (acting : List Nat) : List Nat := if atomOnce f then acting.take 1 else acting

/-- A floating ADD is refused by a host page with SA = 1 (R47). -/
def hostRefuses (op : Nat) (ty : BitVec 4) (a : LaneAcc) : Bool :=
  op == 0 && isFloat ty && a.home.loc == 2 && eSA a.leaf

/-- The checks of one lane of an ATOM (R297, R367, R47). -/
def State.checkAtom (s : State) (x : Issue) (f : FmtM) (op : Nat) (lane : Nat) : Chk :=
  match s.checkLane x f .update lane with
  | .ok a => if hostRefuses op f.ty a then .fault cPP a.va else .ok a
  | .fault code fva => .fault code fva
  | .absent va => .absent va

/-- The operand and, for CAS, the value compared with: cmp in the operand register, new in the next register or pair (R162); with gz both
are zero, since gz has no next register (DEDUCED, log 138). -/
def atomOperands (f : FmtM) (op : Nat) (r : RF) (lane : Nat) : DWord × DWord :=
  let n := nregSz f.sz
  let o := r.readD n f.opr lane
  if op = 7 ∧ isGz f.opr then (0, 0)
  else if op = 7 then (r.readD n (f.opr + BitVec.ofNat 8 n) lane, o) else (o, 0)

/-- The parts of the lanes that name one address, in increasing lane order (R163). -/
def State.atomParts (s : State) (x : Issue) (f : FmtM) (op inst : Nat) (ls : List LaneAcc) : List Part :=
  let r := (s.warp x.core x.warp).rf
  ls.map fun a => s.part x f.v inst a.lane (atomOperands f op r a.lane).1 (atomOperands f op r a.lane).2

/-- The slices that a request of lanes stands for (R194). -/
def atomMask (f : FmtM) (acting : List Nat) (ls : List LaneAcc) : BitVec 8 :=
  maskOf 8 (if atomOnce f then acting.map (· / 4) else ls.map fun a => a.lane / 4)

/-- The requests of an ATOM: one for each distinct address, in the order of its lowest lane (R163). An address is the word that it names,
under whichever virtual address or hop (DEDUCED, log 131). -/
def State.atomReqs (s : State) (x : Issue) (f : FmtM) (op inst : Nat) (l : List LaneAcc) : List Req :=
  let firsts := l.filter fun a => (l.find? fun b => b.home == a.home) == some a
  firsts.map fun a =>
    let ls := l.filter fun b => b.home == a.home
    { s.request x f .atom a x.acting inst with
      slices := atomMask f x.acting ls
      op := op
      parts := s.atomParts x f op inst ls }

/-- ATOM (R162 to R164, R368): the requests are sent, and V is pending until its reply is written, unless it is dropped. -/
def State.atomIssue (s : State) (i : Instr) (f : FmtM) (op : Nat) : Host.Outcome State Fault Refusal :=
  s.issueLane i fun x t =>
    if x.acting.isEmpty then .done t
    else
      match t.checkLanes x (atomLanes f x.acting) (t.checkAtom x f op) with
      | .stop a => x.whole (atomOnce f) a
      | .ok l =>
        let (inst, t) := t.fresh
        .done ((x.settled (t.send (t.withConf (t.atomReqs x f op inst l)))).modWarp x.core x.warp fun w =>
          w.mark f.v (nregSz f.sz) (slicesOf x.acting) true)

/-- ATOM.ADD (R162). -/
def execAtomAdd (f : FmtM) (s : State) : Host.Outcome State Fault Refusal := s.atomIssue (.atomAdd f) f 0

/-- ATOM.MIN (R162). -/
def execAtomMin (f : FmtM) (s : State) : Host.Outcome State Fault Refusal := s.atomIssue (.atomMin f) f 1

/-- ATOM.MAX (R162). -/
def execAtomMax (f : FmtM) (s : State) : Host.Outcome State Fault Refusal := s.atomIssue (.atomMax f) f 2

/-- ATOM.AND (R162). -/
def execAtomAnd (f : FmtM) (s : State) : Host.Outcome State Fault Refusal := s.atomIssue (.atomAnd f) f 3

/-- ATOM.OR (R162). -/
def execAtomOr (f : FmtM) (s : State) : Host.Outcome State Fault Refusal := s.atomIssue (.atomOr f) f 4

/-- ATOM.XOR (R162). -/
def execAtomXor (f : FmtM) (s : State) : Host.Outcome State Fault Refusal := s.atomIssue (.atomXor f) f 5

/-- ATOM.EXCH (R162). -/
def execAtomExch (f : FmtM) (s : State) : Host.Outcome State Fault Refusal := s.atomIssue (.atomExch f) f 6

/-- ATOM.CAS (R162). -/
def execAtomCas (f : FmtM) (s : State) : Host.Outcome State Fault Refusal := s.atomIssue (.atomCas f) f 7

end Sys2Proof.Machine
end

