-- ==== Sys2Proof/Machine/Flags.lean ====
section
/-!
DEFINITION. The predicates: every condition that an instruction computes into one (spec/18 R331, R335, R343; spec/09 R174;
spec/20 R376, R378), and the moves between predicates and registers (R332).
-/

namespace Sys2Proof.Machine

/-- The conditions EQ, NE, LT, LE, GT, GE of ICMP and ICMPI (R331). -/
def intCond (cc : Nat) (a b : Int) : Bool :=
  if cc = 0 then a == b else if cc = 1 then a != b else if cc = 2 then decide (a < b) else if cc = 3 then decide (a ≤ b)
  else if cc = 4 then decide (b < a) else decide (b ≤ a)

/-- The conditions of FCMP (R335): a NaN is unordered. -/
def fpCond (cc : Nat) (a b : FpVal) : Bool :=
  match cc, a.cmp b with
  | 0, o => o == some .eq
  | 1, o => o != some .eq
  | 2, o => o == some .lt
  | 3, o => o == some .lt || o == some .eq
  | 4, o => o == some .gt
  | 5, o => o == some .gt || o == some .eq
  | 6, o => o.isNone
  | _, o => o.isSome

/-- The predicate code of a register field (R276). -/
def predCode (c : BitVec 8) : Nat := fieldN c 0 3

/-- p0 to p6 of a lane in bits [6:0], 1 in bit 7 (R332). -/
def RF.predWord (r : RF) (lane : Nat) : Word :=
  maskOf 32 ((List.range 8).filter fun n => r.readP n lane)

/-- The predicates that a mask selects, from the bits of a word (R332). -/
def RF.setPreds (r : RF) (mask : Nat) (v : Word) (lane : Nat) : RF :=
  (List.range 7).foldl (fun r n => if mask / 2 ^ n % 2 = 1 then r.writeP n lane (bitAt v n) else r) r

/-- The status predicate of a wait: 0 when the phase completed abandoned and is one of the last 32 (R376, R378). -/
def Bar.status (b : Bar) (p : Word) : Bool := !((b.ph - p).toNat ≤ 32 && bitAt b.abh (p.toNat % 32))

/-- Whether a phase has completed (R376, R378). -/
def Bar.passed (b : Bar) (p : Word) : Bool := 1 ≤ (b.ph - p).toNat

end Sys2Proof.Machine
end

