-- ==== Sys2Proof/Machine/Formats.lean ====
section
/-!
DEFINITION. Format words and the members they name (spec/06 R110 to R115, R118, R119), what an image's header and own-family
descriptor fix (spec/07 R130, R131, R133, R404, R405), block scales (R116, R117, R349), and the layout of elements in a line
(R56, R114, R115).
-/

namespace Sys2Proof.Machine

/-! ## The format word (R110, R111, R113) -/

def wFam (w : Word) : Nat := fieldN w 28 4
def wBsc (w : Word) : Bool := bitAt w 27
def wKind (w : Word) : Nat := fieldN w 22 2

/-- Whether a word is legal by itself, the slot left aside (R110, R111, R113). -/
def wordLegal (w : Word) : Bool :=
  fieldN w 24 3 == 0 && (!wBsc w || wFam w ≤ 1) &&
    (if wFam w = 0 then
      let e := fieldN w 12 4
      let f := fieldN w 8 4
      let spc := fieldN w 16 2
      fieldN w 0 8 == 0 && spc != 3 && 1 ≤ e && e ≤ 7 && f ≤ 6 && e + f ≤ 7 && (spc != 0 || (2 ≤ e && 1 ≤ f))
    else if wFam w = 1 then
      let wb := fieldN w 12 4
      fieldN w 16 6 == 0 && fieldN w 0 12 == 0 && (if wKind w ≤ 1 then 2 ≤ wb && wb ≤ 8 else wb == 0)
    else if wFam w ≤ 4 then fieldN w 0 24 == 0
    else wFam w == 15)

/-! ## Images (R130, R131, R404) -/

/-- A bound image: its handle, header dword and own-family descriptor. -/
structure Img where
  digest : BitVec 384
  hdr : DWord
  own : DWord
  deriving DecidableEq, Repr

/-- The image of a handle in the store: shipped or registered (R131, R133). -/
def Mon.img (m : Mon) (h : Word) : Option Img :=
  match Config.shippedHeader h.toNat with
  | some d => some ⟨h.setWidth 384, d, 0⟩
  | none => (m.images.find? fun p => p.1 == h.toNat).map fun p => ⟨p.2.digest, p.2.hdr, p.2.own⟩

def Img.fams (i : Img) (n : Nat) : Bool := bitAt i.hdr (48 + n)
def Img.drm (i : Img) : Nat := fieldN i.hdr 44 4
def Img.nim (i : Img) : Nat := fieldN i.hdr 40 4
def Img.bsok (i : Img) : Bool := bitAt i.hdr 39

/-- The element width that an own-family word fixes; 0 when it comes from EW (R404). -/
def Img.ownWidth (i : Img) (w : Word) : Nat :=
  if fieldN i.own 38 2 = 0 then fieldN i.own 33 5 else if fieldN i.own 38 2 = 1 then fieldN w 0 5 else 0

/-- Whether an image implements a word (R110, R404); `ew` is the EW of a format-F instruction, 0 in a descriptor. -/
def Img.implements (i : Img) (w : Word) (ew : Nat) : Bool :=
  wordLegal w && i.fams (wFam w) && (!wBsc w || i.bsok) &&
    (if wFam w = 15 then
      fieldN w 0 24 &&& (2 ^ 24 - 1 - fieldN i.own 40 24) == 0 &&
        (if fieldN i.own 38 2 = 1 then 1 ≤ fieldN w 0 5 && fieldN w 0 5 ≤ 16
         else if fieldN i.own 38 2 = 2 then ew != 0 else true)
    else true)

/-- The default word of a format instruction whose B is gz (R346). -/
def Img.defaultWord (i : Img) : Word :=
  match (List.range 16).find? i.fams with
  | some n => BitVec.ofNat 32 (n * 2 ^ 28)
  | none => 0

/-- The rounding code in use (R118): 0 is the image's default; none for a mode the image does not define. -/
def Img.mode (i : Img) (rm : Nat) : Option Nat :=
  let m := if rm = 0 then i.drm else rm
  if 8 + i.nim ≤ m then none else some m

/-! ## Elements -/

/-- A member of a family, as a slot decodes and encodes it. `own` names the image, the word and the width. -/
inductive Elt where
  | fp (t : FpFmt)
  | int (signed : Bool) (w : Nat)
  | tern
  | bin
  | own (digest : BitVec 384) (word : Word) (width : Nat) (d : DWord)
  deriving DecidableEq, Repr

/-- The member that a word names under an image. -/
def Img.elt (i : Img) (w : Word) (ew : Nat) : Elt :=
  if wFam w = 0 then .fp ⟨fieldN w 12 4, fieldN w 8 4, fieldN w 18 6, fieldN w 16 2⟩
  else if wFam w = 1 then
    (if wKind w = 0 then .int true (fieldN w 12 4) else if wKind w = 1 then .int false (fieldN w 12 4)
     else if wKind w = 2 then .tern else .bin)
  else if wFam w = 2 then .fp bf16
  else if wFam w = 3 then .fp fp16
  else if wFam w = 4 then .fp fp32
  else .own i.digest w (if i.ownWidth w = 0 then ew else i.ownWidth w) i.own

/-- The width of a code: 2 for ternary, 1 for binary (R353). -/
def Elt.width : Elt → Nat
  | .fp t => t.width
  | .int _ w => w
  | .tern => 2
  | .bin => 1
  | .own _ _ w _ => w

/-- The significand width m (R106, R111, R113, R404). -/
def Elt.sig : Elt → Nat
  | .fp t => t.f + 1
  | .int _ w => w
  | .tern | .bin => 1
  | .own _ _ _ d => fieldN d 28 5

/-- The k-group size against an operand of the same format (R120, R404). -/
def Elt.group : Elt → Nat
  | .fp t => if t.width ≤ 8 then 32 else if t.width = 16 then 16 else 4
  | .int _ _ | .tern | .bin => 32
  | .own _ _ _ d => if fieldN d 26 2 = 0 then 32 else if fieldN d 26 2 = 1 then 16 else 4

/-- Whether a member is one of the integer family. -/
def Elt.isInt : Elt → Bool
  | .int _ _ | .tern | .bin => true
  | .fp _ | .own _ _ _ _ => false

/-- The signed value of a two's complement code. -/
def codeInt (signed : Bool) (w c : Nat) : Int :=
  let c := c % 2 ^ w
  if signed && 2 ^ (w - 1) ≤ c then (c : Int) - 2 ^ w else c

/-- The value of a code (R106, R112, R113, R346, R404); the bits above the width are ignored. -/
def Elt.decode (t : Elt) (c : Nat) : FpVal :=
  match t with
  | .fp f => f.decode (c % 2 ^ f.width)
  | .int s w => intFp (codeInt s w c)
  | .tern => if c % 4 = 3 then intFp 0 else intFp ((c % 4 : Nat) - 1)
  | .bin => intFp (if c % 2 = 1 then 1 else -1)
  | .own h w n _ => Config.stripDecode h w n (c % 2 ^ n)

/-- The integer range of a member of the integer family. -/
def Elt.lo : Elt → Int
  | .int s w => if s then -(2 ^ (w - 1)) else 0
  | .tern | .bin => -1
  | .fp _ | .own _ _ _ _ => 0
def Elt.hi : Elt → Int
  | .int s w => if s then 2 ^ (w - 1) - 1 else 2 ^ w - 1
  | .tern | .bin => 1
  | .fp _ | .own _ _ _ _ => 0

/-- The code of an integer in range. -/
def Elt.ofInt (t : Elt) (i : Int) : Nat :=
  match t with
  | .int _ w => wrapInt w i
  | .tern => (i + 1).toNat
  | .bin => if i < 0 then 0 else 1
  | .fp _ | .own _ _ _ _ => 0

/-- The code that an image's strips give: one for an exact value, a word and a mode, of the image wherever it is bound (R405). -/
def stripCode (digest : BitVec 384) (word : Word) (n mode : Nat) (v : FpVal) : Nat := Config.stripEncode digest word n mode v.canon

/-- The encode of an exact value (R119): an image's own mode, or its own family, is the strips' (R404, R405); binary encoding ignores
the mode. -/
def Elt.encode (t : Elt) (digest : BitVec 384) (word : Word) (mode : Nat) (v : FpVal) : Nat :=
  match t with
  | .own h w n _ => stripCode h w n mode v % 2 ^ n
  | .tern =>
    if 8 ≤ mode then min 2 (stripCode digest word 2 mode v)
    else t.ofInt (v.toIntRange mode t.lo t.hi)
  | .bin =>
    match v with
    | .nan => 1
    | v => if v.neg? then 0 else 1
  | .int _ w =>
    if 8 ≤ mode then stripCode digest word w mode v % 2 ^ w
    else t.ofInt (v.toIntRange mode t.lo t.hi)
  | .fp f => if 8 ≤ mode then stripCode digest word f.width mode v % 2 ^ f.width else f.encode mode v

/-- The largest finite magnitude (R349). -/
def Elt.maxVal : Elt → FpVal
  | .fp f => f.decode f.maxCode
  | .own h w n _ => Config.stripMax h w n
  | t => intFp t.hi

/-- The range limit on a side (R350). -/
def Elt.limit (t : Elt) (digest : BitVec 384) (word : Word) (neg : Bool) : Nat :=
  match t with
  | .fp f => f.signed neg f.maxCode
  | .own _ _ _ _ =>
    match t.maxVal with
    | .fin _ m e => t.encode digest word 3 (.fin neg m e)
    | v => t.encode digest word 3 v
  | t => t.ofInt (if neg then t.lo else t.hi)

/-- The code of a magnitude in a format whose exponent range has no upper bound (R119). -/
def openCode (t : FpFmt) (mode : Nat) (neg : Bool) (m : Nat) (e : Int) : Nat :=
  if m = 0 then 0
  else
    let q : Int := max ((m.log2 : Int) + e) (1 - t.b) - t.f
    let base := (q + t.f + t.b - 1).toNat * 2 ^ t.f
    base + roundMag mode neg (base % 2 == 1) m e q

/-- Whether a code stands for a finite value. -/
def Elt.finite (t : Elt) (c : Nat) : Bool :=
  match t.decode c with
  | .fin _ _ _ => true
  | .inf _ | .nan => false

/-- Whether a value, rounded, lies outside the finite range (R350). Under an image's own mode, and in its own family, a value beyond the
largest magnitude does, and one whose code is not finite (DEDUCED, log 139). -/
def Elt.outside (t : Elt) (digest : BitVec 384) (word : Word) (mode : Nat) (v : FpVal) : Bool :=
  match v with
  | .nan => false
  | .inf _ => true
  | .fin n m e =>
    match t with
    | .fp f =>
      if 8 ≤ mode then FpVal.cmp (.fin false m e) t.maxVal == some .gt || !t.finite (t.encode digest word mode v) else f.maxCode < openCode f mode n m e
    | .own _ _ _ d =>
      FpVal.cmp (.fin false m e) t.maxVal == some .gt || (n && m != 0 && !bitAt d 23) || !t.finite (t.encode digest word mode v)
    | .bin => FpVal.cmp (.fin false m e) (intFp 1) == some .gt
    | t =>
      let i := roundInt (if 8 ≤ mode then 1 else mode) n m e
      decide (i < t.lo) || decide (t.hi < i)

/-! ## Block scales (R116, R117, R349) -/

/-- The value of a 20-bit scale. -/
def scaleVal (c : Nat) : FpVal :=
  let e := c / 4096 % 256
  if e = 0 then .fin false 0 0 else if e = 255 then .nan else .fin false (4096 + c % 4096) ((e : Int) - 139)

/-- An element under a scale (R117). -/
def underScale (v s : FpVal) : FpVal :=
  match s with
  | .fin _ m _ => if m = 0 then .fin false 0 0 else v.mul s
  | s => s

/-- A value over a non-zero finite scale, its last bit sticky: exact enough for one rounding to any format, and the same for every pair of
the same quotient. -/
def overScale (v s : FpVal) : FpVal :=
  match v, s with
  | .fin n a ea, .fin _ b eb => if b = 0 then .nan else (quotFp n a b (b.log2 + 80) (ea - eb)).cut
  | v, _ => v

/-- The least scale of e 1 to 254 whose value is at least `a / c`, and whether there is none (R349). -/
def leastScale (a : Nat) (ea : Int) (c : Nat) (ec : Int) : Nat × Bool :=
  let k := ea - ec
  let lg : Int := (a.log2 : Int) - c.log2 + k
  let at_ := fun (e : Int) =>
    let s := k + 139 - e
    let n := if 0 ≤ s then a * 2 ^ s.toNat else a
    let d := if 0 ≤ s then c else c * 2 ^ (-s).toNat
    (n + d - 1) / d
  let e0 := lg + 127
  let e := if at_ e0 ≤ 4096 then e0 - 1 else e0
  if e < 1 then (4096, false)
  else
    let f := at_ e
    if 254 < e ∨ (e = 254 ∧ 8192 ≤ f) then (254 * 4096 + 4095, true)
    else if 8192 ≤ f then ((e.toNat + 1) * 4096, false)
    else (e.toNat * 4096 + (f - 4096), false)

/-- The scale of a block and whether it is clipped (R349): `vs` the participating lanes' values. -/
def chooseScale (t : Elt) (vs : List FpVal) (smax : Nat) : Nat × Bool :=
  let amax : FpVal := vs.foldl (fun (m : FpVal) (v : FpVal) => match v with
    | .fin _ a e => if FpVal.cmp m (.fin false a e) = some .lt then FpVal.fin false a e else m
    | _ => m) (.fin false 0 0)
  match amax, t.maxVal with
  | .fin _ a ea, .fin _ c ec =>
    if a = 0 ∨ c = 0 then (0, false)
    else
      let s := leastScale a ea c ec
      let e := smax / 4096 % 256
      if e ≠ 0 ∧ e ≠ 255 ∧ FpVal.cmp (scaleVal s.1) (scaleVal smax) = some .gt then (smax % 2 ^ 20, true) else s
  | _, _ => (0, false)

/-! ## Elements in a line -/

/-- The number of elements of a unit, and where element `i` of a row begins, in bits (R56, R114). -/
def perUnit (w : Nat) : Nat := 64 / w
def elemBit (w i : Nat) : Nat := i / perUnit w * 64 + i % perUnit w * w

/-- The bytes of a line from its first through its last element (R56, R114, R115). -/
def lineBytes (w : Nat) (tern : Bool) (n : Nat) : Nat :=
  if n = 0 then 0 else if tern then 7 * ((n + 31) / 32) else (elemBit w (n - 1) + w + 7) / 8

/-- The width that a format word fixes by itself, and whether it is ternary (R146); none for FAM 15 and illegal words. -/
def wordWidth (w : Word) : Option (Nat × Bool) :=
  if !wordLegal w || wFam w == 15 then none
  else
    match Img.elt ⟨0, 0, 0⟩ w 0 with
    | .tern => some (2, true)
    | t => some (t.width, false)

/-- The trit digit of a byte (R115): a byte above 242 holds five zero trits. -/
def tritOf (b : Nat) (i : Nat) : Nat := if 242 < b then 1 else b / 3 ^ i % 3

/-- A byte with one trit digit changed. -/
def putTrit (b : Nat) (i d : Nat) : Nat :=
  (List.range 5).foldl (fun acc j => acc + (if j = i then d else tritOf b j) * 3 ^ j) 0

end Sys2Proof.Machine
end

