-- ==== Sys2Proof/Machine/Window.lean ====
section
/-!
DEFINITION. Job cards and the copies they describe (spec/03 R51 to R59, R71), descriptors (spec/08 R145, R146), and the job
window: footprints and the edges they give (R60, R61, R144).
-/

namespace Sys2Proof.Machine

/-! ## Spans -/

/-- A range of bytes: own scratchpad, or global. -/
structure Span where
  scr : Bool
  lo : Int
  hi : Int
  deriving DecidableEq, Repr

/-- Whether two ranges of one space share a byte. -/
def Span.meets (a b : Span) : Bool := a.scr == b.scr && decide (a.lo < b.hi) && decide (b.lo < a.hi)

/-- A range rounded outward to 4 KiB (R60). -/
def Span.wide (a : Span) : Span := { a with lo := a.lo / 4096 * 4096, hi := (a.hi + 4095) / 4096 * 4096 }

/-- What a job reads and writes; a job without a footprint reads and writes everything (R61). -/
structure Foot where
  reads : List Span
  writes : List Span
  deriving DecidableEq, Repr

/-- Whether two lists of ranges overlap after rounding. -/
def spansMeet (a b : List Span) : Bool := a.any fun x => b.any fun y => x.wide.meets y.wide

/-- Whether a later job takes an edge from an earlier one (R60, R61). -/
def footEdge : Option Foot → Option Foot → Bool
  | some e, some n => spansMeet e.writes n.reads || spansMeet e.reads n.writes || spansMeet e.writes n.writes
  | _, _ => true

/-! ## Cards (R51 to R54) -/

def cardNdim (c : List DWord) : Nat := fieldN (c.getD 0 0) 0 4
def cardW (c : List DWord) : Nat := fieldN (c.getD 0 0) 4 5 + 1
def cardSsp (c : List DWord) : Bool := bitAt (c.getD 0 0) 9
def cardDring (c : List DWord) : Bool := bitAt (c.getD 0 0) 11
/-- The destination lies in scratchpad: by DSP, or by DRING (R68). -/
def cardDsp (c : List DWord) : Bool := bitAt (c.getD 0 0) 10 || cardDring c
def cardFpc (c : List DWord) : Bool := bitAt (c.getD 0 0) 12
def cardRslot (c : List DWord) : Nat := fieldN (c.getD 0 0) 16 8
def cardLease (c : List DWord) : Option Nat := if bitAt (c.getD 0 0) 32 then some (fieldN (c.getD 0 0) 24 8) else none
def cardRing (c : List DWord) : Nat := fieldN (c.getD 0 0) 40 24

/-- The units of a card, by its first dword (R55). -/
def cardUnits (d0 : DWord) : Nat := 1 + (if 6 < fieldN d0 0 4 then 1 else 0) + (if bitAt d0 12 then 1 else 0)

/-- A dimension entry (R53). -/
structure Dim where
  size : Nat
  sstr : Int
  dstr : Int
  deriving DecidableEq, Repr

def cardDim (c : List DWord) (i : Nat) : Dim :=
  let a := c.getD (4 + 2 * i) 0
  let b := c.getD (5 + 2 * i) 0
  { size := if fieldN a 0 32 = 0 then 2 ^ 32 else fieldN a 0 32
    sstr := (field b 0 16 ++ field a 32 32).toInt
    dstr := (field b 16 48).toInt }

def cardDims (c : List DWord) : List Dim := (List.range (cardNdim c)).map (cardDim c)

/-- A range of the footprint unit, the last unit of its card (R54). -/
def cardRange (c : List DWord) (i : Nat) : Span :=
  let at_ := 16 * (cardUnits (c.getD 0 0) - 1) + 2 * i
  let b := c.getD at_ 0
  let e := c.getD (at_ + 1) 0
  { scr := bitAt e 48, lo := b.toNat, hi := b.toNat + fieldN e 0 48 }

/-- The footprint of a card, unmoved. -/
def cardFoot (c : List DWord) : Option Foot :=
  if cardFpc c then
    let used := fun l => (l.map (cardRange c)).filter fun r => r.lo != r.hi
    some { reads := used [0, 1, 2, 3], writes := used [4, 5, 6, 7] }
  else none

/-- Whether a width has no pad bits (R56). -/
def unpadded (w : Nat) : Bool := 64 % w == 0

/-- The alignment of bases and strides (R57). -/
def cardAlign (w : Nat) : Nat := if unpadded w then max 1 (w / 8) else 8

/-- A card that XTSET refuses at index `t` (R71). An unused range (LEN = 0) whose BASE or SP is not zero is an unused entry that is not
zero (DESIGN CHOICE, log 100); a scratchpad range has bits [31:24] zero when its end, too, is at most 2^24 (DESIGN CHOICE, log 101). -/
def cardBad (t : Nat) (c : List DWord) : Bool :=
  let d0 := c.getD 0 0
  let n := cardNdim c
  let dims := cardDims c
  let al := cardAlign (cardW c)
  let entries := if 6 < n then 12 else 6
  let sb := c.getD 1 0
  let db := c.getD 2 0
  n = 0 || 12 < n || cardW c = 1 || fieldN d0 33 7 != 0 || fieldN d0 13 3 != 0 || c.getD 3 0 != 0
    || 63 < t + cardUnits d0 - 1
    || (List.range entries).any (fun i => n ≤ i && (c.getD (4 + 2 * i) 0 != 0 || c.getD (5 + 2 * i) 0 != 0))
    || (6 < n && (List.range 4).any fun i => c.getD (28 + i) 0 != 0)
    || (cardDim c 0).sstr != 0 || (cardDim c 0).dstr != 0
    || dims.any (fun d => d.sstr % al != 0 || d.dstr % al != 0)
    || sb.toNat % al != 0 || (!cardDring c && db.toNat % al != 0)
    || (cardSsp c && fieldN sb 24 40 != 0) || (bitAt d0 10 && !cardDring c && fieldN db 24 40 != 0)
    || (cardFpc c && (List.range 8).any fun i =>
        let at_ := 16 * (cardUnits d0 - 1) + 2 * i
        let r := cardRange c i
        fieldN (c.getD (at_ + 1) 0) 49 15 != 0 || (r.lo == r.hi && (c.getD at_ 0 != 0 || c.getD (at_ + 1) 0 != 0))
          || (r.scr && decide (2 ^ 24 < r.hi)))
    || match cardFoot c with
      | some f => f.reads.any fun a => f.writes.any a.meets
      | none => false

/-! ## The elements of a copy (R56) -/

/-- The number of elements. -/
def cardCount (c : List DWord) : Nat := ((cardDims c).map Dim.size).foldl (· * ·) 1

/-- The displacement, in bytes, of a row: `q` counts the rows in visiting order. -/
def rowOffset (col : Dim → Int) : List Dim → Nat → Int
  | [], _ => 0
  | d :: r, q => (q % d.size : Nat) * col d + rowOffset col r (q / d.size)

/-- An element on its way: first bits at the source and the destination; the pad bits that follow it are written as zero,
when it is the last of a unit written whole (R56). -/
structure Elem where
  s : Int
  d : Int
  pad : Bool
  deriving DecidableEq, Repr

/-- Element `n` of a copy, in visiting order. -/
def CopyRec.elem (r : CopyRec) (n : Nat) : Elem :=
  let w := cardW r.card
  let dims := cardDims r.card
  let n0 := (cardDim r.card 0).size
  let i := n % n0
  let o : Int := elemBit w i
  { s := r.src + 8 * rowOffset Dim.sstr dims.tail (n / n0) + o
    d := r.dst + 8 * rowOffset Dim.dstr dims.tail (n / n0) + o
    pad := !unpadded w && i % perUnit w == perUnit w - 1 }

/-- The elements of the chunk that begins at element `n`: those that follow in visiting order and lie in the same 4 KiB block
of the destination (R61, R72). -/
def CopyRec.chunk (r : CopyRec) (blk : Int) : Nat → Nat → List Elem
  | 0, _ => []
  | fuel + 1, n =>
    let e := r.elem n
    if e.d / 32768 = blk then e :: r.chunk blk fuel (n + 1) else []

/-- The bits that a card's rows span on a side, relative to its base. -/
def cardExtent (c : List DWord) (col : Dim → Int) : Int × Int :=
  let d := (cardDims c).tail
  let n0 := (cardDim c 0).size
  let w := cardW c
  (8 * (d.map fun x => min 0 (col x * ((x.size : Int) - 1))).sum,
   8 * (d.map fun x => max 0 (col x * ((x.size : Int) - 1))).sum
     + if unpadded w then n0 * w else ((n0 + perUnit w - 1) / perUnit w * 64 : Nat))

/-- A range moved with its base and widened outward to whole bytes (R57). -/
def Span.shift (a : Span) (bits : Int) : Span := { a with lo := a.lo + bits / 8, hi := a.hi + (bits + 7) / 8 }

/-- The footprint of a copy: the ranges of the side that EOFS targets move (R57). -/
def CopyRec.foot (r : CopyRec) : Option Foot :=
  (cardFoot r.card).map fun f =>
    if r.otgt then { f with writes := f.writes.map fun a => a.shift r.shift }
    else { f with reads := f.reads.map fun a => a.shift r.shift }

/-! ## Descriptors (R145, R146) -/

def dFmt (d : BitVec 256) : Word := field d 32 32
def dBase (d : BitVec 256) : Nat := fieldN d 0 24
def dPitch (d : BitVec 256) : Nat := fieldN d 104 24
def dSptr (d : BitVec 256) : Nat := fieldN d 80 24
def dSpitch (d : BitVec 256) : Nat := fieldN d 64 16
def dLines (d : BitVec 256) : Nat := fieldN d 168 24
def dLen (d : BitVec 256) : Nat := fieldN d 144 24
def dOcap (d : BitVec 256) : Nat := fieldN d 136 8
def dClip (d : BitVec 256) : Nat := fieldN d 128 8
def dFsrc (d : BitVec 256) : Nat := fieldN d 232 24
def dFpitch (d : BitVec 256) : Nat := fieldN d 216 16
def dObuf (d : BitVec 256) : Nat := fieldN d 192 24

/-- The line extent at an element width: its first byte and its length (R146). -/
def dLineArea (d : BitVec 256) (w : Nat) (tern : Bool) : Nat × Nat :=
  if dLines d = 0 ∨ dLen d = 0 then (dBase d, 0)
  else (dBase d, (dLines d - 1) * dPitch d + lineBytes w tern (dLen d))

/-- The scale area, used when BSC = 1 (R116, R145). -/
def dScaleArea (d : BitVec 256) : Nat × Nat :=
  if !wBsc (dFmt d) ∨ dLines d = 0 ∨ dLen d = 0 then (dSptr d, 0)
  else (dSptr d, 8 * (dLines d - 1) * dSpitch d + 8 * ((dLen d + 95) / 96))

/-- The outlier buffer with its header (R155). -/
def dOutArea (d : BitVec 256) : Nat × Nat := (dObuf d, if dOcap d = 0 then 0 else 16 + 128 * dOcap d)

/-- The fallback source (R145). -/
def dFallArea (d : BitVec 256) : Nat × Nat :=
  if dFpitch d = 0 ∨ dLines d = 0 ∨ dLen d = 0 then (dFsrc d, 0)
  else (dFsrc d, 16 * (dLines d - 1) * dFpitch d + 2 * dLen d)

/-- What DSET refuses (R146), with the offset concerned: II, then AL, then PF, in the order of the fields. -/
def descFault (size : Nat) (d : BitVec 256) : Option (BitVec 8 × Nat) :=
  if fieldN d 24 8 ≠ 0 then some (cII, 0)
  else
    match [(dBase d, 8), (dPitch d, 8), (dSptr d, 8), (dFsrc d, 16), (dObuf d, 16)].find? fun p => p.1 % p.2 != 0 with
    | some p => some (cAL, p.1)
    | none =>
      let line := match wordWidth (dFmt d) with
        | some (w, t) => [dLineArea d w t]
        | none => []
      ((line ++ [dScaleArea d, dOutArea d, dFallArea d]).find? fun a => a.2 != 0 && size < a.1 + a.2).map fun a => (cPF, a.1)

/-- A span of own scratchpad. -/
def areaSpan (a : Nat × Nat) : List Span := if a.2 = 0 then [] else [{ scr := true, lo := a.1, hi := a.1 + a.2 }]

/-- The line extent for a footprint: at the width that the word fixes, or at the widest an own-family image may have (R144,
R404). -/
def dLineSpan (d : BitVec 256) : List Span :=
  match wordWidth (dFmt d) with
  | some (w, t) => areaSpan (dLineArea d w t)
  | none => areaSpan (dLineArea d 16 false)

/-- The footprint of an accepted MMA or ACDRN (R144). -/
def MxJob.foot (j : MxJob) : Option Foot :=
  if j.sub = 2 then some { reads := [], writes := dLineSpan j.db }
  else
    let b := dLineSpan j.db ++ areaSpan (dScaleArea j.db)
    let a := dLineSpan j.da ++ areaSpan (dScaleArea j.da) ++ areaSpan (dOutArea j.da)
      ++ if j.f.fbk = 1 then areaSpan (dFallArea j.da) else []
    some { reads := if j.f.asrc = 1 then b else a ++ b, writes := [] }

/-! ## The window (R60) -/

/-- The footprint of an entry of the window. -/
def Core.entFoot (k : Core) : WinEnt → Option Foot
  | .copy id => match k.copies.find? fun r => r.id == id with
    | some r => r.foot
    | none => some ⟨[], []⟩
  | .job id => match k.jobs.find? fun j => j.id == id with
    | some j => j.foot
    | none => some ⟨[], []⟩

/-- Whether every job that an entry has an edge from has completed: completed jobs are no longer in the window (R60). -/
def Core.edgesDone (k : Core) (e : WinEnt) : Bool :=
  (k.window.takeWhile fun x => x != e).all fun x => !footEdge (k.entFoot x) (k.entFoot e)

def Core.leaveWindow (k : Core) (e : WinEnt) : Core := { k with window := k.window.filter fun x => x != e }

end Sys2Proof.Machine
end

