-- ==== Sys2Proof/Machine/Copy.lean ====
section
/-!
DEFINITION. The copy engine (spec/03, spec/17 R305, R306): XSTART and the acceptance of its lanes, chunks, arrivals on ring
slots, and LDA16.
-/

namespace Sys2Proof.Machine

/-! ## Who issues: a gang or a sequencer -/

/-- The registers of the issuer. -/
def State.rfOf (s : State) (x : Issue) : RF :=
  if x.slices.isEmpty then ((s.core x.core).seq x.block x.cp).rf else (s.warp x.core x.warp).rf

def State.setRfOf (s : State) (x : Issue) (r : RF) : State :=
  if x.slices.isEmpty then s.setSeq x.core x.block x.cp { (s.core x.core).seq x.block x.cp with rf := r }
  else s.setRF x.core x.warp r

/-- The lowest acting lane. -/
def Issue.low (x : Issue) : Nat := x.acting.headD 0

/-- A fault of an instruction that acts once for its gang: in every slice that acts. -/
def Issue.fault (x : Issue) (code : BitVec 8) (fva : DWord) : Act := .fault (actingSlices x.acting x.slices) code fva

/-- The agent that issues. -/
def Issue.agent (x : Issue) : Agent :=
  if x.slices.isEmpty then .seq x.core x.block x.cp else .gang x.core x.warp (x.slices.headD 0)

/-- The mask of the issuing slices that act. -/
def Issue.mask (x : Issue) : BitVec 8 := maskOf 8 (actingSlices x.acting x.slices)

/-- Whether an access of the issuing slices is not yet performed: what a block-scope release waits for (R180, R185). -/
def State.busyBefore (s : State) (x : Issue) : Bool := !x.slices.isEmpty && s.slicesBusy x.core x.warp x.mask

/-- Whether own scratchpad bytes are held from an issuer: a store of its slices to them is not yet performed, or the core tracks an access
to them (R180, R185). -/
def State.scrStores (s : State) (x : Issue) (a len : Nat) : Bool :=
  s.scrHeld x.core a len || (!x.slices.isEmpty && s.fab.reqs.any fun r =>
    r.uid == (s.warp x.core x.warp).uid && !r.done && r.isSt && (r.slices &&& x.mask) != 0
      && r.home.meets r.len ⟨3, x.core, a⟩ len)

/-- The poisoned row that a warp's instruction reads in own scratchpad bytes (R80); a sequencer is no warp. -/
def State.poisonIn (s : State) (x : Issue) (a len : Nat) : Option Nat :=
  if x.slices.isEmpty then none else (s.core x.core).scrPoisonAt a len

/-- The storage machine check of an instruction that acts once, for a poisoned row. -/
def State.rowMc (s : State) (x : Issue) (lane row : Nat) : Act := .check s (storageMc lane false ((s.core x.core).scrXv row))

/-! ## Rings (R63, R64) -/

/-- The slots of a ring, the size of a data area in units of 16 bytes, as the header gives them (R63). -/
def Core.ringSlots (k : Core) (ring : Nat) : Nat := k.scrNat ring 4 % 256 + 1
def Core.ringSz (k : Core) (ring : Nat) : Nat := k.scrNat ring 4 / 256 % 4096

/-- The status of a slot, by its offset (R63). -/
def ringSlot (ring sz n : Nat) : Nat := ring + 16 + n * (16 + 16 * sz)

/-- The extent of a ring (R316). -/
def ringBytes (slots sz : Nat) : Nat := 16 + slots * (16 + 16 * sz)

/-- Whether a slot of a ring can be counted on: alignment, extent, number (R69, R71). -/
def Core.ringOk (k : Core) (ring n : Nat) : Bool :=
  ring % 16 == 0 && ring + 16 ≤ k.scrSize && ring + ringBytes (k.ringSlots ring) (k.ringSz ring) ≤ k.scrSize
    && n < k.ringSlots ring

/-- The slices and sequencers of a core parked on a slot become ready: it has filled (R65). -/
def Core.wakeSlot (k : Core) (at_ : Nat) : Core :=
  let wakes := fun (p : Park) (tok : Option DWord) => (p == .awaitf || p == .yieldc) && tok == some (BitVec.ofNat 64 at_)
  { k with
    warps := Sparse.mapVals Warp.absent k.warps fun _ w =>
      { w with slices := Sparse.mapVals Slice.init w.slices fun _ y => if wakes y.park y.tok then { y with ready := true } else y }
    blocks := Sparse.mapVals Block.absent k.blocks fun _ b =>
      { b with
        mx := if wakes b.mx.park b.mx.tok then { b.mx with ready := true } else b.mx
        cp := if wakes b.cp.park b.cp.tok then { b.cp with ready := true } else b.cp } }

/-- A slot's status with EXP and ARR set: FULL is recomputed, and its change to 1 adds 1 to WP and wakes its waiters
(R64 to R66). -/
def Core.setSlot (k : Core) (hdr at_ exp arr : Nat) (was : Bool) : Core :=
  let full := decide (exp ≤ arr)
  let k := (k.writeScr at_ (leBytes 4 (exp * 65536 + arr))).writeScr (at_ + 4) (leBytes 4 (if full then 1 else 0))
  if full && !was then
    let h := k.scrNat (hdr + 4) 4
    (k.writeScr (hdr + 4) (leBytes 4 (h / 65536 * 65536 + (h + 1) % 65536))).wakeSlot at_
  else k

/-- One arrival on a slot (R63, R64): ARR saturates. -/
def Core.arrive (k : Core) (hdr at_ : Nat) : Core :=
  let w := k.scrNat at_ 4
  k.setSlot hdr at_ (w / 65536) (min 65535 (w % 65536 + 1)) (k.scrNat (at_ + 4) 4 % 2 == 1)

/-! ## XSTART (R48 to R50, R305, R407) -/

/-- The bulk copies and LDA16 instructions in flight on a core (R50, R69). -/
def Core.inFlight (k : Core) : Nat := k.copies.length + (k.lda.map LdaRec.inst).dedup.length

/-- A lane of XSTART checked (R407). -/
inductive LaneCopy where
  | ok (r : CopyRec)
  | fault (code : BitVec 8) (fva : DWord)
  /-- The ring header is still to be written. -/
  | hold
  /-- The ring header lies in a poisoned row. -/
  | poison (row : Nat)
  deriving DecidableEq, Repr

/-- A card by its index, its units joined. -/
def Core.card (k : Core) (t : Nat) : Option (List DWord) :=
  match Sparse.get 0 k.cardAt t with
  | 0 => none
  | n => some ((List.range n).flatMap fun i => Sparse.get [] k.units (t + i))

/-- The checks and the copy of one lane's aperture store (R305, R407): `a` its offset, `v` its data. -/
def State.laneCopy (s : State) (x : Issue) (inst : Nat) (gang : BitVec 8) (a : Word) (v : DWord) : LaneCopy :=
  let k := s.core x.core
  if 128 ≤ a.toNat then .fault cPF (a.setWidth 64)
  else if fieldN a 0 3 ≠ 0 then .fault cAL (a.setWidth 64)
  else
    match (if 64 ≤ fieldN v 0 8 then none else k.card (fieldN v 0 8)) with
    | none => .fault cXF 0
    | some c =>
      let w := cardW c
      let ring := cardRing c
      if s.scrStores x ring 16 then .hold
      else if let some row := s.poisonIn x ring 16 then .poison row
      else
        let eofs := (field v 17 47).toInt
        let otgt := bitAt v 16
        let rsl := if fieldN v 8 8 = 255 then cardRslot c else fieldN v 8 8
        let p : Int := perUnit w
        if !unpadded w && eofs % p != 0 || !k.ringOk ring rsl then .fault cXF 0
        else
          let disp := if unpadded w then eofs * w else eofs / p * 64
          let at_ := ringSlot ring (k.ringSz ring) rsl
          let area : Int := 8 * (at_ + 16)
          let dst0 : Int := if cardDring c then area else 8 * (c.getD 2 0).toNat
          let dst := dst0 + if otgt then disp else 0
          let ext := cardExtent c Dim.dstr
          if cardDring c ∧ (dst + ext.1 < area ∨ area + 128 * k.ringSz ring < dst + ext.2) then .fault cXF 0
          else .ok
            { id := 0, inst := inst, ctx := s.ctxOf x, block := x.block, warp := if x.slices.isEmpty then none else some x.warp,
              uid := if x.slices.isEmpty then 0 else (s.warp x.core x.warp).uid, gang := gang, next := x.next,
              ch := fieldN a 3 4, tidx := fieldN v 0 8, rsl := rsl, card := c,
              src := 8 * (c.getD 1 0).toNat + (if otgt then 0 else disp), dst := dst, shift := disp, otgt := otgt,
              hdr := ring, slot := at_, after := [], chunks := 0, pos := 0, fin := false, got := [], code := 0, fva := 0 }

/-- What a copy started by an issuer comes after: every access of its slices, and what the core tracks, that is not yet
performed (R49, R183). -/
def State.copyAfter (s : State) (x : Issue) : List Nat :=
  let uid := (s.warp x.core x.warp).uid
  (s.fab.reqs.filter fun r => !r.done && ((!x.slices.isEmpty && r.uid == uid && (r.slices &&& x.mask) != 0)
      || (r.core == x.core && r.tracked))).map Req.id

/-- Whether XSTART runs once: of a sequencer, or on the scalar path (R95). -/
def Issue.copyOnce (x : Issue) (f : FmtM) : Bool := x.slices.isEmpty || memOnce f

/-- The lanes in which XSTART acts: once on the scalar path, for every acting slice (R95); each with the slices that its store stands
for. -/
def State.copyLanes (s : State) (x : Issue) (f : FmtM) (inst : Nat) : List (Nat × LaneCopy) :=
  let r := s.rfOf x
  let once := x.copyOnce f
  (if once then x.acting.take 1 else x.acting).map fun l =>
    (l, s.laneCopy x inst (if once then x.mask else maskOf 8 [l / 4]) (scrAddr (r.read1 f.ab l) f.ofs) (r.read2 f.v l))

/-- The ring headers that XSTART's lanes read. -/
def State.copyRings (s : State) (x : Issue) (f : FmtM) : List Nat :=
  x.acting.filterMap fun l => ((s.core x.core).card (fieldN ((s.rfOf x).read2 f.v l) 0 8)).map cardRing

/-- Whether an aperture store of the issuer's waits for its acceptance. -/
def State.unaccepted (s : State) (x : Issue) : Bool :=
  (s.core x.core).apq.any fun r =>
    if x.slices.isEmpty then r.warp == none && r.block == x.block
    else r.warp == some x.warp && r.uid == (s.warp x.core x.warp).uid && x.slices.any fun j => bitAt r.gang j

/-- Whether an install of another agent holds further aperture stores off (R314): the agent still stands at its XTSET. -/
def State.installing (s : State) (x : Issue) : Bool :=
  (s.core x.core).install.any fun p => p.1 != x.agent && (match s.fetchAt p.1 with
    | some (_, _, pc) => pc == p.2
    | none => false)

/-- XSTART by a gang or by the copy stream: every lane is checked, then the stores wait for their acceptance in increasing
lane order; a slice without an acting lane goes on (R305). -/
def State.startCopies (s : State) (x : Issue) (f : FmtM) : Act :=
  if x.acting.isEmpty then .done s
  else if s.unaccepted x || s.installing x then .wait
  else
    let s := (s.copyRings x f).foldl (fun s a => s.meetScr x.core a 16) s
    let (inst, t) := s.fresh
    let ls := s.copyLanes x f inst
    match ls.find? fun l => match l.2 with
      | .ok _ => false
      | .fault _ _ | .hold | .poison _ => true with
    | some (l, .fault code fva) => x.whole (x.copyOnce f) (.fault [l / 4] code fva)
    | some (l, .poison row) => s.rowMc x l row
    | some _ => .wait
    | none =>
      let after := s.copyAfter x
      let rs := ls.filterMap fun l => match l.2 with
        | .ok r => some { r with after := after }
        | .fault _ _ | .hold | .poison _ => none
      let t := rs.foldl (fun t r =>
        { t with nextId := t.nextId + 1 }.modCore x.core fun k => { k with apq := k.apq ++ [{ r with id := t.nextId : CopyRec }] }) t
      .go (if x.slices.isEmpty then t else t.trackSlices x.core x.warp x.mask)
        ((x.slices.filter fun j => !bitAt x.mask j).map fun j => (j, x.next))

/-- XSTART (R305). -/
def execXstart (f : FmtM) (s : State) : Host.Outcome State Fault Refusal :=
  s.issue (.xstart f) (fun x t => t.startCopies x f) fun x t =>
    match t.startCopies x f with
    | .go u _ => .go u [(0, x.pc)]
    | a => a

/-- A store of an XSTART is accepted: the slices whose last store it is, no other of the instruction's waiting, go on (R305). -/
def State.copyIssued (s : State) (c : Nat) (r : CopyRec) (waiting : List CopyRec) : State :=
  let more := waiting.filter fun q => q.inst == r.inst
  match r.warp with
  | some w =>
    let js := (bitsOf r.gang 8).filter fun j => !more.any fun q => bitAt q.gang j
    if (s.warp c w).uid ≠ r.uid || js.isEmpty then s
    else s.advance c w ((s.warp c w).gangOf (js.headD 0)) (js.map fun j => (j, r.next)) false
  | none => if more.isEmpty then s.setSeq c r.block true { (s.core c).seq r.block true with pc := r.next } else s

/-- Whether the issuer of an aperture store has not stopped, or is gone. -/
def State.issuerRuns (s : State) (c : Nat) (r : CopyRec) : Bool :=
  match r.warp with
  | some w => (s.warp c w).uid != r.uid || (s.ctx r.ctx).runs ((bitsOf r.gang 8).map fun j => .slice c w j)
  | none => (s.ctx r.ctx).runs [.seq c r.block true]

/-- COPY_ACCEPT (R49, R50): the first waiting aperture store of the core is accepted, unless 128 copies are in flight; the copy
enters the job window. -/
def execCopyAccept (core : Nat) (s : State) : Host.Outcome State Fault Refusal :=
  .next <|
    match (s.core core).apq with
    | [] => s
    | r :: rest =>
      if Config.maxCopies ≤ (s.core core).inFlight || !(s.ctx r.ctx).runs [.copyEngine core] || !s.issuerRuns core r then s
      else
        let s := s.modCore core fun k =>
          { k with apq := rest, copies := k.copies ++ [r], window := k.window ++ [.copy r.id] }
        s.copyIssued core r rest

/-! ## Chunks (R56, R58, R61, R71, R72) -/

/-- Where bits of a copy lie: the first byte's home and the bit in it, with the leaf; or the fault; or the address whose translation is
not cached. -/
inductive Side where
  | ok (h : Home) (bit : Nat) (leaf : DWord)
  | fault (code : BitVec 8) (fva : DWord)
  | absent (va : DWord)
  deriving DecidableEq, Repr

/-- A side of an element: `n` bits at bit address `b` of own scratchpad or of global memory (R26, R32, R33, R40). -/
def State.copySide (s : State) (c ctx : Nat) (scr : Bool) (b : Int) (n : Nat) (w : Want) : Side :=
  let a := b / 8
  let last := (b + n - 1) / 8
  if scr then
    if a < 0 ∨ ((s.core c).scrSize : Int) ≤ last then .fault cPF ((BitVec.ofInt 32 a).setWidth 64)
    else .ok ⟨3, c, a.toNat⟩ (b % 8).toNat 0
  else if a < 0 ∨ (2 ^ 57 : Int) ≤ last then .fault cPF (BitVec.ofInt 64 a)
  else
    match s.translate c (.engine c) (s.ctxRegion ctx) (BitVec.ofInt 64 a) w with
    | .ok leaf pa => .ok ⟨eLoc leaf, 0, pa⟩ (b % 8).toNat leaf
    | .fault code => .fault code (BitVec.ofInt 64 a)
    | .miss => .absent (BitVec.ofInt 64 a)

/-- A span of a copy's bits, as bytes. -/
def bitSpan (scr : Bool) (b : Int) (n : Nat) : Span := { scr := scr, lo := b / 8, hi := (b + n - 1) / 8 + 1 }

/-- Whether every byte of a range lies in one of the declared ranges (R61). -/
def spanIn (l : List Span) (a : Span) : Bool :=
  (List.range (a.hi - a.lo).toNat).all fun i => l.any fun r => r.scr == a.scr && decide (r.lo ≤ a.lo + i) && decide (a.lo + i < r.hi)

/-- The pad bits of an element's unit. -/
def padBits (w : Nat) : Nat := 64 - perUnit w * w

/-- Whether an element lies within a declared footprint (R61). -/
def CopyRec.within (r : CopyRec) (e : Elem) : Bool :=
  match r.foot with
  | none => true
  | some f =>
    let w := cardW r.card
    spanIn f.reads (bitSpan (cardSsp r.card) e.s w) && spanIn f.writes (bitSpan (cardDsp r.card) e.d w)
      && (!e.pad || spanIn f.writes (bitSpan (cardDsp r.card) (e.d + w) (padBits w)))

/-- The first fault of an element's translations: the source, then the destination. -/
def State.elemFault (s : State) (c : Nat) (r : CopyRec) (e : Elem) : Option (BitVec 8 × DWord) :=
  match s.copySide c r.ctx (cardSsp r.card) e.s (cardW r.card) .read, s.copySide c r.ctx (cardDsp r.card) e.d (cardW r.card) .write with
  | .fault code fva, _ => some (code, fva)
  | _, .fault code fva => some (code, fva)
  | _, _ => none

/-- The addresses of an element whose translations are not cached (R34). -/
def State.elemMisses (s : State) (c : Nat) (r : CopyRec) (e : Elem) : List DWord :=
  [s.copySide c r.ctx (cardSsp r.card) e.s (cardW r.card) .read, s.copySide c r.ctx (cardDsp r.card) e.d (cardW r.card) .write].filterMap
    fun sd => match sd with
    | .absent va => some va
    | .ok _ _ _ | .fault _ _ => none

/-- The bytes that bits of a side touch. -/
def bitBytes (bit n : Nat) : Nat := (bit + n + 7) / 8

/-- Whether a running wave (R169) or an access that the core tracks (R180) holds an element's bytes off. -/
def State.elemHeld (s : State) (c : Nat) (r : CopyRec) (e : Elem) : Bool :=
  let held := fun sd => match sd with
    | Side.ok h b _ => s.waveHolds h 8 || s.heldAt c h (bitBytes b (cardW r.card))
    | .fault _ _ | .absent _ => false
  held (s.copySide c r.ctx (cardSsp r.card) e.s (cardW r.card) .read)
    || held (s.copySide c r.ctx (cardDsp r.card) e.d (cardW r.card) .write)

/-- A masked write of `n` bits at a bit of a home (R58). -/
def State.putBits (s : State) (h : Home) (bit n v : Nat) : State :=
  let len := bitBytes bit n
  let old := s.homeNat h len
  s.homeWrite h (leBytes len (old - old / 2 ^ bit % 2 ^ n * 2 ^ bit + v % 2 ^ n * 2 ^ bit))

/-- The granule that holds a byte marked poisoned, wherever it lies (R72, R79, R406). -/
def State.poisonAt (s : State) (h : Home) : State :=
  if h.loc = 3 then s.modCore h.core fun k => k.poisonScr (h.addr / 16)
  else s.poisonMem h.loc (h.addr / 16)

/-- The granules of a chunk's destination with the bits that it writes of each, as (location, granule, mask). -/
def coverBits (acc : List (Nat × Nat × Nat)) (h : Home) (bit n : Nat) : List (Nat × Nat × Nat) :=
  let m := (2 ^ n - 1) * 2 ^ (8 * (h.addr % 16) + bit)
  match acc with
  | (l, g, m') :: rest => if l = h.loc ∧ g = h.addr / 16 then (l, g, m ||| m') :: rest else (h.loc, h.addr / 16, m) :: acc
  | [] => [(h.loc, h.addr / 16, m)]

/-- The line that a lease placed in a line's set longest ago, when the lease's ways of that set are full (R324). -/
def Mem.displaced (m : Mem) (l : Lease) (line : Nat) : Option Nat :=
  let mine := m.l2.filter fun p => p.2.pin == some l.id && p.1 != line && Config.homeSlice p.1 == Config.homeSlice line
    && Config.l2Set p.1 == Config.l2Set line
  if mine.length < l.ways then none
  else (mine.foldl (fun best p => match best with
    | none => some p
    | some q => if p.2.placed < q.2.placed then some p else some q) none).map Prod.fst

/-- A line placed in a lease's ways (R46, R324): a line that it displaces is written back as an ordinary line. -/
def Mem.pinLine (m : Mem) (l : Lease) (line now : Nat) : Mem :=
  let was := Sparse.get L2Line.absent m.l2 line
  let m := match m.displaced l line with
    | some old => { m with l2 := Sparse.set L2Line.absent m.l2 old L2Line.absent }
    | none => m
  let new : L2Line := { held := true, dirty := true, pin := some l.id, placed := if was.pin = some l.id then was.placed else now }
  { m with l2 := Sparse.set L2Line.absent m.l2 line new }

/-- A line that a copy writes: its record, and its pin when the card names a live lease of the region that covers the line's
home slice (R46, R70). -/
def State.copyLine (s : State) (r : CopyRec) (leaf : DWord) (pa : Nat) : State :=
  let line := pa / 128
  match (cardLease r.card).bind fun h => s.fab.leases.find? fun l =>
      l.rcb = (s.ctx r.ctx).rcb && l.handle = h && Sparse.get 0 l.left (Config.homeSlice line) != 0 with
  | none => { s with mem := s.mem.touchLine pa (eCP leaf) true }
  | some l => { s with nextId := s.nextId + 1, mem := s.mem.pinLine l line s.nextId }

/-! ### Accesses of a copy at a peer or the host (R56, R58, R180, R253, R267) -/

/-- An access of a copy to a granule at a peer or the host, given by location and number: a read, or a write of the bits of a mask. It belongs to no slice, so that no program order
holds it, and reads past the peer-read cache (R189). -/
def CopyRec.request (r : CopyRec) (core : Nat) (kind : ReqKind) (at_ : Nat × Nat) (leaf : DWord) (data mask : BitVec 128) (pois : Bool) : Req :=
  { Req.plain kind ⟨at_.1, 0, 16 * at_.2⟩ 16 with
    inst := r.inst, ctx := r.ctx, core := core, block := r.block, warp := r.warp.getD 0, uid := r.uid, crypt := eCrypt leaf, key := eKey leaf
    sa := eSA leaf, data := data, mask := if mask = BitVec.allOnes 128 then 0 else mask, copy := some (r.id, 4 * at_.2 + at_.1), pois := pois }

/-- It comes after the copy's earlier accesses to the granule, and goes out at once where it may. -/
def State.sendCopy (s : State) (q : Req) : State :=
  let q := { q with
    id := s.nextId
    after := (s.fab.reqs.filter fun e => e.core == q.core && e.copy.map Prod.fst == q.copy.map Prod.fst && !e.done && e.meets q).map Req.id }
  let s : State := { s with nextId := s.nextId + 1, fab := { s.fab with reqs := s.fab.reqs ++ [q] } }
  if s.mayPerform q then s.transmit q else s

/-- The remote granules that elements read and that have not been read for this chunk, each with its leaf. -/
def State.unread (s : State) (c : Nat) (r : CopyRec) (es : List Elem) : List ((Nat × Nat) × DWord) :=
  es.foldl (fun acc e => match s.copySide c r.ctx (cardSsp r.card) e.s (cardW r.card) .read with
    | .ok h _ leaf =>
      if h.remote ∧ !(acc.any fun p => p.1 == (h.loc, h.addr / 16)) ∧ !(r.got.any fun p => p.1 == h.granule) then ((h.loc, h.addr / 16), leaf) :: acc
      else acc
    | .fault _ _ | .absent _ => acc) []

/-- The reads of a chunk's remote granules sent. -/
def State.askPeer (s : State) (c : Nat) (r : CopyRec) (gs : List ((Nat × Nat) × DWord)) : State :=
  gs.foldl (fun t p => t.sendCopy (r.request c .load p.1 p.2 0 0 false)) s

/-- Whether a remote read of a copy's is on its way. -/
def State.copyReads (s : State) (id : Nat) : Bool := s.fab.reqs.any fun q => q.core != Config.numCores && q.copy.map Prod.fst == some id && !q.done && q.kind == .load

/-- The bits that a chunk writes of the remote granules, in order: the granule by location and number, its leaf, the mask, the data, whether
poison is among them. -/
abbrev PeerBits := List ((Nat × Nat) × DWord × BitVec 128 × BitVec 128 × Bool)

/-- Bits written to a remote granule. -/
def PeerBits.put (l : PeerBits) (g : Nat × Nat) (leaf : DWord) (at_ n v : Nat) (bad : Bool) : PeerBits :=
  let m := BitVec.ofNat 128 ((2 ^ n - 1) * 2 ^ at_)
  let d := BitVec.ofNat 128 (v % 2 ^ n * 2 ^ at_)
  if l.any fun p => p.1 == g then
    l.map fun p => if p.1 = g then (g, leaf, p.2.2.1 ||| m, (p.2.2.2.1 &&& ~~~m) ||| d, p.2.2.2.2 || bad) else p
  else l ++ [(g, leaf, m, d, bad)]

/-! ### Elements moved -/

/-- What a copy reads at bits of a source, and whether that is poisoned: of a remote one, what its reads have returned. -/
def State.source (s : State) (r : CopyRec) (h : Home) (bit : Nat) : Nat × Bool :=
  let len := bitBytes bit (cardW r.card)
  if h.remote then
    match r.got.find? fun p => p.1 == h.granule with
    | some p => (p.2.1.toNat / 2 ^ (8 * (h.addr % 16) + bit), p.2.2)
    | none => (0, true)
  else (s.homeNat h len / 2 ^ bit, s.homePoison h len)

/-- A write of a copy to a mirror page is mirrored (R271). -/
def State.copyMirror (s : State) (h : Home) (len : Nat) (leaf : DWord) : State :=
  if h.loc = 0 ∧ eMir leaf ∧ !s.discards h.loc h.addr len then
    let (id, s) := s.fresh
    s.mirrorPut id [] h (s.mem.read h.loc h.addr len)
  else s

/-- One element moved (R56, R58), and the bits that are to be written over a link: with it the pad bits of a unit written whole; a copy that
reads poison writes its unit poisoned (R72). -/
def State.moveElem (s : State) (c : Nat) (r : CopyRec) (out : PeerBits) (e : Elem) : State × PeerBits :=
  let w := cardW r.card
  match s.copySide c r.ctx (cardSsp r.card) e.s w .read, s.copySide c r.ctx (cardDsp r.card) e.d w .write with
  | .ok hs bs _, .ok hd bd leaf =>
    let (v, bad) := s.source r hs bs
    let n := if e.pad then w + padBits w else w
    let s := s.denyRead hs.loc hs.addr (bitBytes bs w)
    if hd.remote then (s, out.put (hd.loc, hd.addr / 16) leaf (8 * (hd.addr % 16) + bd) n (v % 2 ^ w) bad)
    else
      let s := s.putBits hd bd n (v % 2 ^ w)
      let s := if bad then s.poisonAt hd else s
      let s := s.copyMirror hd (bitBytes bd n) leaf
      (if hd.loc = 0 then s.copyLine r leaf hd.addr else s, out)
  | _, _ => (s, out)

/-- The destination granule of an element whose source is poisoned, as (location, granule). -/
def State.elemPoison (s : State) (c : Nat) (r : CopyRec) (e : Elem) : Option (Nat × Nat) :=
  match s.copySide c r.ctx (cardSsp r.card) e.s (cardW r.card) .read, s.copySide c r.ctx (cardDsp r.card) e.d (cardW r.card) .write with
  | .ok hs bs _, .ok hd _ _ => if (s.source r hs bs).2 then some (hd.loc, hd.addr / 16) else none
  | _, _ => none

/-- The elements of a chunk moved, one after another; the bits to be written at a peer; the granules that they write poisoned (R72). -/
def State.moveElems (s : State) (c : Nat) (r : CopyRec) (es : List Elem) : State × PeerBits × List (Nat × Nat) :=
  es.foldl (fun a e => let m := a.1.moveElem c r a.2.1 e; (m.1, m.2, (a.1.elemPoison c r e).toList ++ a.2.2)) (s, [], [])

/-- The remote writes of a chunk sent, one for each granule. -/
def State.tellPeer (s : State) (c : Nat) (r : CopyRec) (out : PeerBits) : State :=
  out.foldl (fun t p => t.sendCopy (r.request c .store p.1 p.2.1 p.2.2.2.1 p.2.2.1 p.2.2.2.2)) s

/-- The poison of the granules that a chunk covers whole is cleared (R79, R406), but for those that it writes poisoned. -/
def State.clearCovered (s : State) (c : Nat) (r : CopyRec) (es : List Elem) (bad : List (Nat × Nat)) : State :=
  let w := cardW r.card
  let cov := es.foldl (fun acc e =>
    match s.copySide c r.ctx (cardDsp r.card) e.d w .write with
    | .ok h b _ => coverBits acc h b (if e.pad then w + padBits w else w)
    | .fault _ _ | .absent _ => acc) []
  cov.foldl (fun s p =>
    if p.1 = 1 || p.1 = 2 || p.2.2 + 1 ≠ 2 ^ 128 || bad.contains (p.1, p.2.1) then s
    else if p.1 = 3 then s.modCore c fun k => { k with scrPois := Sparse.set false k.scrPois p.2.1 false }
    else if s.inFirmware p.1 (16 * p.2.1) || s.armedHeader p.1 (16 * p.2.1) 16 then s
    else { s with mem := s.mem.setPoison p.1 p.2.1 false }) s

/-- Whether the earlier copies of the same channel have begun (R50). -/
def Core.channelTurn (k : Core) (r : CopyRec) : Bool :=
  (k.copies.takeWhile fun q => q.id != r.id).all fun q => q.ch != r.ch || q.chunks != 0

/-- A copy stops with a fault, and its context halts (R71, R233). -/
def State.copyFault (s : State) (c : Nat) (r : CopyRec) (code : BitVec 8) (fva : DWord) : State :=
  (s.modCore c fun k => (k.modCopy r.id fun q => { q with code := code, fva := fva }).clearWalkFaults (.engine c)).modCtx r.ctx
    fun x => x.halt code

/-- A read of the sources of a chunk meets what is wrong in the scratchpad's codewords (R75). -/
def State.meetSources (s : State) (c : Nat) (r : CopyRec) (es : List Elem) : State :=
  if (s.core c).bad.isEmpty then s
  else es.foldl (fun t e => match t.copySide c r.ctx (cardSsp r.card) e.s (cardW r.card) .read with
    | .ok h b _ => t.homeMeet h (bitBytes b (cardW r.card))
    | .fault _ _ | .absent _ => t) s

/-- COPY_CHUNK (R60, R61, R72): the next chunk of a copy, once what it comes after and its edges are done; a chunk whose translations are
not cached waits for their walks (R34), and one with remote sources first sends their reads and waits for what they return (R180). Its
remote writes are sent; the copy has completed when they are acknowledged. A chunk outside its footprint raises XF whatever its
translations would raise (DESIGN CHOICE, log 104). -/
def execCopyChunk (core job : Nat) (s : State) : Host.Outcome State Fault Refusal :=
  .next <|
    let k := s.core core
    match k.copies.find? fun r => r.id = job with
    | none => s
    | some r =>
      if r.fin || r.code ≠ 0 || !(s.ctx r.ctx).runs [.copyEngine core] || r.after.any s.awaited
          || !k.edgesDone (.copy job) || !k.channelTurn r then s
      else
        let n := cardCount r.card
        let es := r.chunk ((r.elem r.pos).d / 32768) (n - r.pos) r.pos
        if !es.all r.within then s.copyFault core r cXF 0
        else
          match es.findSome? (s.elemFault core r) with
          | some (code, fva) => s.copyFault core r code fva
          | none =>
            let misses := (es.flatMap (s.elemMisses core r)).dedup
            if !misses.isEmpty then misses.foldl (fun t va => t.queueMiss core (.engine core) r.ctx (s.ctxRegion r.ctx).asn va) s
            else if es.any (s.elemHeld core r) then s
            else if !(s.unread core r es).isEmpty then (if s.copyReads job then s else s.askPeer core r (s.unread core r es))
            else
              let s := if cardSsp r.card && cardDsp r.card then s else s.moves (s.ctx r.ctx).rcb 0
              let m := (s.meetSources core r es).moveElems core r es
              let t := ((m.1.clearCovered core r es m.2.2).modCore core fun k => k.clearWalkFaults (.engine core)).tellPeer core r m.2.1
              let fin := decide (n ≤ r.pos + es.length)
              let t := t.modCore core fun k => k.modCopy job fun q => { q with chunks := q.chunks + 1, pos := q.pos + es.length, fin := fin, got := [] }
              if fin then t.copyDone core job else t

/-- What an arrival reads of a ring, its header and the slot's status, meets what is wrong in their codewords (R75). -/
def State.meetArrival (s : State) (c hdr slot : Nat) : State := (s.meetScr c hdr 16).meetScr c slot 16

/-- COPY_ARRIVAL (R50, R64, R180): a copy whose chunks are all written, and acknowledged where they are remote, is counted on its slot, in
acceptance order on its channel. -/
def execCopyArrival (core job : Nat) (s : State) : Host.Outcome State Fault Refusal :=
  .next <|
    let k := s.core core
    match k.copies.find? fun r => r.id = job with
    | none => s
    | some r =>
      if !r.fin || s.copyMoves job || !(s.ctx r.ctx).runs [.copyEngine core] || (k.copies.takeWhile fun q => q.id != r.id).any (fun q => q.ch == r.ch)
          || s.scrHeld core r.hdr 16 || s.scrHeld core r.slot 16 then s
      else ((s.meetArrival core r.hdr r.slot).modCore core fun k =>
        { k.arrive r.hdr r.slot with copies := k.copies.filter fun q => q.id != job }).retire core r.block

/-! ## LDA16 (R69, R190, R306) -/

/-- A lane of LDA16 checked. -/
inductive LaneLda where
  | ok (a : LaneAcc) (dst slot hdr : Nat)
  | fault (code : BitVec 8) (fva : DWord)
  | absent (va : DWord)
  | hold
  | poison (row : Nat)

/-- The ring word of an LDA16 lane: the second register of the pair, or zero with gz (R306). -/
def ringWord (r : RF) (v : BitVec 8) (lane : Nat) : Word := if isGz v then 0 else r.read1 (v + 1) lane

/-- The checks of one lane (R69, R306). -/
def State.laneLda (s : State) (x : Issue) (f : FmtM) (lane : Nat) : LaneLda :=
  let k := s.core x.core
  let r := (s.warp x.core x.warp).rf
  let va := laneAddr f r lane
  let dst := r.read1 f.v lane
  let word := ringWord r f.v lane
  let ring := fieldN word 0 24
  let n := fieldN word 24 8
  if 2 ^ 57 ≤ va.toNat then .fault cPF va
  else if !k.ownScr dst 16 then .fault cPF (dst.setWidth 64)
  else if va.toNat % 16 ≠ 0 then .fault cAL va
  else if dst.toNat % 16 ≠ 0 then .fault cAL (dst.setWidth 64)
  else
    match s.checkGlobal x.core x.who (s.regionOf x) .read 0 16 lane va with
    | .fault code fva => .fault code fva
    | .absent va => .absent va
    | .ok a =>
      if s.scrStores x ring 16 then .hold
      else if let some row := s.poisonIn x ring 16 then .poison row
      else if !k.ringOk ring n then .fault cXF 0
      else .ok a (fieldN dst 0 24) (ringSlot ring (k.ringSz ring) n) ring

/-- A lane's copy sent: its source read is a load of the slice (R190), two of 64 bits at a peer or the host (R297), and nothing awaits its
reply. -/
def State.sendLda (s : State) (x : Issue) (f : FmtM) (inst : Nat) (a : LaneAcc) (dst slot hdr : Nat) : State :=
  let q := s.request x f .load a x.acting inst
  let qs := halves q
  let d : LdaRec :=
    { id := s.nextId, inst := inst, block := x.block, warp := x.warp, uid := q.uid, slices := q.slices, lane := a.lane, dst := dst,
      slot := slot, hdr := hdr, reqs := (List.range qs.length).map (s.nextId + ·), data := 0, pois := false }
  (s.modCore x.core fun k => { k with lda := k.lda ++ [d] }).send qs

/-- LDA16 (R69, R306): every lane is checked, then each lane's copy is on its way; it counts as one copy in flight. -/
def execLda16 (f : FmtM) (s : State) : Host.Outcome State Fault Refusal :=
  s.issueLane (.lda16 f) fun x t =>
    if x.acting.isEmpty then .done t
    else
      let lanes := memLanes f x.acting
      let t := lanes.foldl (fun t l => t.meetScr x.core (fieldN (ringWord (t.warp x.core x.warp).rf f.v l) 0 24) 16) t
      let ls := lanes.map fun l => (l, t.laneLda x f l)
      match ls.find? fun l => match l.2 with
        | .ok _ _ _ _ => false
        | .fault _ _ | .absent _ | .hold | .poison _ => true with
      | some (l, .fault code fva) => x.whole (memOnce f) (.fault [l / 4] code fva)
      | some (l, .poison row) => t.rowMc x l row
      | some (_, .absent _) =>
        .miss (ls.foldl (fun u l => match l.2 with
          | .absent va => u.queueMiss x.core x.who (u.ctxOf x) (u.regionOf x).asn va
          | .ok _ _ _ _ | .fault _ _ | .hold | .poison _ => u) t)
      | some _ => .wait
      | none =>
        if Config.maxCopies ≤ (t.core x.core).inFlight then .wait
        else
          let (inst, t) := t.fresh
          .done (x.settled (ls.foldl (fun u l => match l.2 with
            | .ok a dst slot hdr => u.sendLda x f inst a dst slot hdr
            | .fault _ _ | .absent _ | .hold | .poison _ => u) t))

/-- Whether the write of an LDA16 lane is held off: an earlier store of its slices to a byte of the destination, or a tracked access to
the bytes that it writes, is not yet performed (R180, R186); or a lower lane's write to a common byte is still to come (R306). -/
def State.ldaHeld (s : State) (c : Nat) (r : LdaRec) : Bool :=
  s.scrHeld c r.dst 16 || s.scrHeld c r.slot 16 || s.scrHeld c r.hdr 16
    || (s.fab.reqs.any fun q => q.uid == r.uid && !q.done && q.isSt && q.id < r.id && (q.slices &&& r.slices) != 0
      && q.home.meets q.len ⟨3, c, r.dst⟩ 16)
    || (s.core c).lda.any fun q => q.inst == r.inst && q.lane < r.lane && q.dst < r.dst + 16 && r.dst < q.dst + 16

/-- LDA16_ARRIVAL (R64, R69, R72): the 16 bytes that a lane has read are written to the scratchpad, poison with them, and its arrival is
counted; of lanes with a common destination the highest writes last (R306). -/
def execLda16Arrival (core id : Nat) (s : State) : Host.Outcome State Fault Refusal :=
  .next <|
    match (s.core core).lda.find? fun r => r.id = id with
    | none => s
    | some r =>
      if !r.reqs.isEmpty || s.ldaHeld core r then s
      else
        let s := (s.meetArrival core r.hdr r.slot).modCore core fun k =>
          let k := k.writeScr r.dst (leBytes 16 r.data.toNat)
          let k := if r.pois then k.poisonScr (r.dst / 16) else k
          { k.arrive r.hdr r.slot with lda := k.lda.filter fun q => q.id != id }
        s.retire core r.block

end Sys2Proof.Machine
end

