-- ==== Sys2Proof/Machine/Rings.lean ====
section
/-!
DEFINITION. Cards and rings as instructions use them: XTSET, XQUERY, RINGINIT, AWAITF, RELS, YIELDC (spec/17 R313 to R320),
DSET (R321, R322), and L2 leases (spec/02 R45, R46; spec/17 R323 to R325).
-/

namespace Sys2Proof.Machine

/-- A destination of an instruction that acts once, written in every acting lane (R95). -/
def State.putOnce (s : State) (x : Issue) (n : Nat) (d : BitVec 8) (v : DWord) : State :=
  s.setRfOf x ((s.rfOf x).writeLanes n d x.acting fun _ => v)

/-- An instruction of the gang or of a sequencer that acts once (R313, R354): without an acting lane it does nothing. -/
def State.issueOnce (s : State) (i : Instr) (f : Issue → State → Act) : Host.Outcome State Fault Refusal :=
  let g : Issue → State → Act := fun x t => if x.acting.isEmpty then .done t else f x t
  s.issue i g g

/-- Slices, or the sequencer, parked with the slot status that they wait on (R317, R319, R320); D is pending meanwhile (R99). Slices that
were parked before count no new park. -/
def State.parkOnSlot (s : State) (x : Issue) (sls : List Nat) (p : Park) (d : BitVec 8) (at_ : Nat) : State :=
  let a : Option DWord := some (BitVec.ofNat 64 at_)
  if x.slices.isEmpty then
    s.setSeq x.core x.block x.cp { (s.core x.core).seq x.block x.cp with st := .parked, park := p, tok := a, ready := false }
  else
    ((if x.again then s else s.park x sls p).modWarp x.core x.warp fun w =>
      (sls.foldl (fun w j => w.modSlice j fun y => { y with tok := a, ready := false }) w).mark d 1 sls true)

/-- The slot status on which a parked issuer waits, and whether it has filled since (R65). One that a restore left parked names its slot
again (R320). -/
def State.parkedOn (s : State) (x : Issue) : Option (Nat × Bool) :=
  if !x.again then none
  else if x.slices.isEmpty then
    let q := (s.core x.core).seq x.block x.cp
    q.tok.map fun a => (a.toNat, q.ready)
  else
    let y := (s.warp x.core x.warp).slice (x.slices.headD 0)
    y.tok.map fun a => (a.toNat, y.ready)

/-! ## XTSET and XQUERY (R55, R314, R315) -/

/-- Whether a copy in flight, or an aperture store not yet accepted, uses one of the indices t to t + n - 1 (R55, R407). -/
def indexUsed (l : List CopyRec) (t n : Nat) : Bool :=
  l.any fun r => r.tidx < t + n && t < r.tidx + cardUnits (r.card.getD 0 0)

/-- The card image at an offset of own scratchpad. -/
def Core.cardImage (k : Core) (a n : Nat) : List DWord :=
  (List.range (16 * n)).map fun i => BitVec.ofNat 64 (k.scrNat (a + 8 * i) 8)

/-- A card installed at index `t`: a card that loses a unit is no card any more (R55). -/
def Core.installCard (k : Core) (t n : Nat) (c : List DWord) : Core :=
  let gone := (k.cardAt.filter fun p => p.1 < t + n && t < p.1 + p.2).map Prod.fst
  { k with
    cardAt := Sparse.set 0 (gone.foldl (fun m i => Sparse.set 0 m i 0) k.cardAt) t n
    units := (List.range n).foldl (fun m i => Sparse.set [] m (t + i) ((c.drop (16 * i)).take 16)) k.units }

/-- The mark of an agent whose install waits set or removed (R314). -/
def Core.setInstall (k : Core) (x : Issue) (b : Bool) : Core :=
  let l := k.install.filter fun p => p.1 != x.agent
  { k with install := if b then l ++ [(x.agent, x.pc)] else l }

/-- XTSET (R314). An image in a poisoned row is a storage machine check of a warp that reads it; a sequencer installs it as it stands
(DESIGN CHOICE, log 102). -/
def State.setCard (s : State) (x : Issue) (f : FmtY) : Act :=
  let a := (s.rfOf x).read1 f.a x.low
  let ofs := fieldN a 0 24
  let t := f.imm12.toNat
  if s.busyBefore x then .wait
  else if ofs % 16 ≠ 0 then x.fault cAL (a.setWidth 64)
  else if !(s.core x.core).ownScr a 128 then x.fault cPF (a.setWidth 64)
  else if s.scrHeld x.core ofs 128 then .wait
  else
    let s := s.meetScr x.core ofs 384
    let k := s.core x.core
    let n := cardUnits (BitVec.ofNat 64 (k.scrNat ofs 8))
    if !k.ownScr a (128 * n) then x.fault cPF (a.setWidth 64)
    else if s.scrHeld x.core ofs (128 * n) then .wait
    else
      match s.poisonIn x ofs (128 * n) with
      | some r => s.rowMc x x.low r
      | none =>
        let c := k.cardImage ofs n
        if 63 < t ∨ cardBad t c then x.fault cXF 0
        else if indexUsed (k.copies ++ k.apq) t n then .miss (s.modCore x.core fun k => k.setInstall x true)
        else .done (s.modCore x.core fun k => (k.installCard t n c).setInstall x false)

def execXtset (f : FmtY) (s : State) : Host.Outcome State Fault Refusal := s.issueOnce (.xtset f) fun x t => t.setCard x f

/-- The value of an XQUERY selector, or none (R315). -/
def Core.query (k : Core) (sel : Nat) : Option Word :=
  if sel = 0 then some (BitVec.ofNat 32 k.inFlight)
  else if sel = 1 then some (maskOf 32 (k.copies.map CopyRec.ch))
  else if 0x40 ≤ sel ∧ sel < 0x80 then
    let t := sel - 0x40
    let n := Sparse.get 0 k.cardAt t
    let d := ((Sparse.get [] k.units t).getD 0 0).toNat
    some (BitVec.ofNat 32 ((if n = 0 then 0 else 2 ^ 31 + n * 2 ^ 28 + d % 2 ^ 9)
      + if indexUsed k.copies t 1 then 2 ^ 30 else 0))
  else none

/-- XQUERY (R315). -/
def execXquery (f : FmtY) (s : State) : Host.Outcome State Fault Refusal :=
  s.issueOnce (.xquery f) fun x t =>
    match (t.core x.core).query f.imm12.toNat with
    | none => .fault x.slices cII 0
    | some v => .done (t.putOnce x 1 f.d (v.setWidth 64))

/-! ## RINGINIT, AWAITF, RELS and YIELDC (R316 to R320) -/

/-- The checks of a ring header operand (R313): an own-scratchpad address, a multiple of 16, with `len` bytes in the scratchpad. -/
def State.ringFault (s : State) (x : Issue) (a : Word) (len : Nat) : Option Act :=
  if !(s.core x.core).ownScr a 1 then some (x.fault cPF (a.setWidth 64))
  else if fieldN a 0 24 % 16 ≠ 0 then some (x.fault cAL (a.setWidth 64))
  else if !(s.core x.core).ownScr a len then some (x.fault cPF (a.setWidth 64))
  else none

/-- A ring laid out (R316). -/
def Core.layRing (k : Core) (ring slots sz exp : Nat) : Core :=
  let full := exp == 0
  let k := k.writeScr ring (leBytes 4 (sz * 256 + (slots - 1)) ++ leBytes 4 (if full then slots else 0) ++ leBytes 8 0)
  (List.range slots).foldl (fun k n =>
    let k := k.writeScr (ringSlot ring sz n) (leBytes 4 (exp * 65536) ++ leBytes 4 (if full then 1 else 0) ++ leBytes 8 0)
    if full then k.wakeSlot (ringSlot ring sz n) else k) k

/-- RINGINIT (R316). -/
def execRinginit (f : FmtY) (s : State) : Host.Outcome State Fault Refusal :=
  s.issueOnce (.ringinit f) fun x t =>
    let r := t.rfOf x
    let a := r.read1 f.a x.low
    let b := r.read1 f.b x.low
    let slots := fieldN b 0 8 + 1
    match t.ringFault x a (ringBytes slots f.imm12.toNat) with
    | some e => e
    | none =>
      if t.busyBefore x || t.scrHeld x.core (fieldN a 0 24) (ringBytes slots f.imm12.toNat) then .wait
      else .done (t.modCore x.core fun k => k.layRing (fieldN a 0 24) slots f.imm12.toNat (fieldN b 16 16))

/-- The slot of a ring that an instruction names: its status offset, or how the instruction stops (R313, R317). -/
def State.nameSlot (s : State) (x : Issue) (a : Word) (n : Nat) : Nat ⊕ Act :=
  let k := s.core x.core
  let ring := fieldN a 0 24
  match s.ringFault x a 16 with
  | some e => .inr e
  | none =>
    if s.scrStores x ring 16 then .inr .wait
    else if let some r := s.poisonIn x ring 16 then .inr (s.rowMc x x.low r)
    else if k.ringSlots ring ≤ n then .inr (x.fault cXF 0)
    else
      let at_ := ringSlot ring (k.ringSz ring) n
      if k.scrSize < at_ + 16 then .inr (x.fault cPF (a.setWidth 64))
      else if s.scrStores x at_ 16 then .inr .wait
      else if let some r := s.poisonIn x at_ 16 then .inr (s.rowMc x x.low r)
      else .inl at_

/-- A read of a ring's header, and of a slot's status, meets what is wrong in their codewords (R75). -/
def State.meetRing (s : State) (x : Issue) (a : Word) (n : Nat) : State :=
  let ring := fieldN a 0 24
  let s := s.meetScr x.core ring 16
  s.meetScr x.core (ringSlot ring ((s.core x.core).ringSz ring) n) 16

/-- Whether a slot is full (R63). -/
def Core.slotFull (k : Core) (at_ : Nat) : Bool := k.scrNat (at_ + 4) 4 % 2 == 1

/-- The wait for a slot of AWAITF and YIELDC: `sls` park, or the act `go` follows with D written (R317, R319). A parked issuer is ready
once the slot has filled (R65); one that a restore makes execute its instruction again (R320) may fault there, and D is pending no more. -/
def State.awaitSlot (s : State) (x : Issue) (f : FmtY) (n : Nat) (sls : List Nat) (p : Park) (next : List (Nat × DWord))
    (rest : List (Nat × DWord)) : Act :=
  let a := (s.rfOf x).read1 f.a x.low
  let go := fun (s : State) (at_ : Nat) =>
    let s := s.putOnce x 1 f.d (BitVec.ofNat 64 (at_ + 16))
    Act.go (if x.again && !x.slices.isEmpty then s.modWarp x.core x.warp fun w => w.mark f.d 1 sls false else s) next
  match s.parkedOn x with
  | some (at_, ready) => if ready || (s.core x.core).slotFull at_ then go s at_ else .wait
  | none =>
    let s := s.meetRing x a n
    match s.nameSlot x a n with
    | .inr (.fault js code fva) =>
      if x.again && !x.slices.isEmpty then
        .go ((s.modWarp x.core x.warp fun w => w.mark f.d 1 sls false).raise x.core x.warp js code fva x.opw) []
      else .fault js code fva
    | .inr e => e
    | .inl at_ =>
      if (s.core x.core).slotFull at_ then go s at_ else .go (s.parkOnSlot x sls p f.d at_) rest

/-- AWAITF (R317): the acting slices wait; the others of the gang go on. -/
def execAwaitf (f : FmtY) (s : State) : Host.Outcome State Fault Refusal :=
  s.issueOnce (.awaitf f) fun x t =>
    let n := ((t.rfOf x).read1 f.b x.low + f.imm12.setWidth 32).toNat
    let sls := actingSlices x.acting x.slices
    let next := if x.slices.isEmpty then [(0, x.next)] else x.slices.map fun j => (j, x.next)
    t.awaitSlot x f n sls .awaitf next ((x.slices.filter fun j => !sls.contains j).map fun j => (j, x.next))

/-- YIELDC (R319): every slice of the gang parks, and goes on at the continuation. -/
def execYieldc (f : FmtY) (s : State) : Host.Outcome State Fault Refusal :=
  s.issueOnce (.yieldc f) fun x t =>
    let cont := x.pc + 8 * f.imm12.setWidth 64
    t.awaitSlot x f ((t.rfOf x).read1 f.b x.low).toNat x.slices .yieldc (x.slices.map fun j => (j, cont)) []

/-- A slot rearmed (R66): `e` is the new EXP, or none to keep it. -/
def Core.rearm (k : Core) (hdr at_ : Nat) (e : Option Nat) : Core :=
  let w := k.scrNat at_ 4
  let exp := w / 65536
  let arr := if k.slotFull at_ then (w % 65536 + 65536 - exp) % 65536 else w % 65536
  let h := k.scrNat (hdr + 4) 4
  (k.writeScr (hdr + 4) (leBytes 4 ((h + 65536) % 2 ^ 32))).setSlot hdr at_ (e.getD exp) arr false

/-- RELS of either form (R318): a release, so every earlier access of the acting slices is performed first. -/
def State.release (s : State) (x : Issue) (f : FmtY) (e : Option Nat) : Act :=
  let r := s.rfOf x
  let a := r.read1 f.a x.low
  let n := (r.read1 f.b x.low + f.imm12.setWidth 32).toNat
  let s := s.meetRing x a n
  match s.nameSlot x a n with
  | .inr e => e
  | .inl at_ =>
    if s.busyBefore x then .wait else .done (s.modCore x.core fun k => k.rearm (fieldN a 0 24) at_ e)

/-- RELS (R318). -/
def execRels (f : FmtY) (s : State) : Host.Outcome State Fault Refusal :=
  s.issueOnce (.rels f) fun x t => t.release x f (some (fieldN ((t.rfOf x).read1 f.d x.low) 0 16))

/-- RELS.keep (R318). -/
def execRelsKeep (f : FmtY) (s : State) : Host.Outcome State Fault Refusal :=
  s.issueOnce (.relsKeep f) fun x t => t.release x f none

/-! ## DSET (R321, R322) -/

/-- Whether an accepted job of the block's matrix stream uses a descriptor (R143, R322). -/
def Core.descUsed (k : Core) (b n : Nat) : Bool :=
  k.jobs.any fun j => j.block = b && !j.done && (((j.sub = 0 || j.sub = 2) && j.f.db.toNat = n)
    || (j.sub = 0 && j.f.asrc = 0 && j.f.da.toNat = n))

/-- A descriptor checked and written (R146, R321). -/
def State.putDesc (s : State) (x : Issue) (n : Nat) (d : BitVec 256) : Act :=
  match descFault (s.core x.core).scrSize d with
  | some (code, fva) => x.fault code (BitVec.ofNat 64 fva)
  | none => .done (s.modBlock x.core x.block fun b => { b with desc := Sparse.set 0 b.desc n d })

/-- DSET of a whole descriptor (R321): a warp that reads a poisoned row takes the storage machine check (R80). -/
def execDset (f : FmtS) (s : State) : Host.Outcome State Fault Refusal :=
  s.issueOnce (.dset f) fun x t =>
    let k := t.core x.core
    let a := (t.rfOf x).read1 f.a x.low
    let n := fieldN f.sel 0 4
    let ofs := fieldN a 0 24
    if k.descUsed x.block n || t.busyBefore x || t.scrHeld x.core ofs 32 then .wait
    else if ofs % 16 ≠ 0 then x.fault cAL (a.setWidth 64)
    else if !k.ownScr a 32 then x.fault cPF (a.setWidth 64)
    else
      let t := t.meetScr x.core ofs 32
      match t.poisonIn x ofs 32 with
      | some r => t.rowMc x x.low r
      | none => t.putDesc x n (BitVec.ofNat 256 ((t.core x.core).scrNat ofs 32))

/-- DSET.w: one dword of a descriptor (R321). -/
def execDsetW (f : FmtS) (s : State) : Host.Outcome State Fault Refusal :=
  s.issueOnce (.dsetW f) fun x t =>
    let k := t.core x.core
    let n := fieldN f.sel 0 4
    let i := 64 * fieldN f.sel 5 2
    let v := (t.rfOf x).read2 f.a x.low
    if k.descUsed x.block n then .wait
    else
      let old := (Sparse.get 0 (k.block x.block).desc n).toNat
      t.putDesc x n (BitVec.ofNat 256 (old - old / 2 ^ i % 2 ^ 64 * 2 ^ i + v.toNat * 2 ^ i))

/-! ## Leases (R45, R46, R323 to R325) -/

/-- The lines that a lease pins, at one slice or at every slice, become ordinary (R46). -/
def Mem.unpin (m : Mem) (id : Nat) (slice : Option Nat) : Mem :=
  { m with l2 := Sparse.mapVals L2Line.absent m.l2 fun line l =>
      if l.pin = some id ∧ (slice = none ∨ slice = some (Config.homeSlice line)) then { l with pin := none } else l }

/-- A lease ended (R46). -/
def State.endLease (s : State) (id : Nat) : State :=
  { s with fab := { s.fab with leases := s.fab.leases.filter fun l => l.id != id }, mem := s.mem.unpin id none }

/-- Whether a lease holds ways of a slice. -/
def Lease.holds (l : Lease) (slice : Nat) : Bool := Sparse.get 0 l.left slice != 0

/-- The status of a request for a lease (R323), and its handle when granted. -/
def Fab.leaseStatus (f : Fab) (rcb : Nat) (slices : List Nat) (top ways life : Nat) : Nat × Nat :=
  let live := f.leases.filter fun l => l.rcb = rcb
  if slices.isEmpty || top != 0 || ways = 0 || 12 < ways || life = 0 then (4, 0)
  else if 255 ≤ live.length then (3, 0)
  else if slices.any fun i => 16 ≤ (f.leases.filter fun l => l.holds i).length then (2, 0)
  else if slices.any fun i => 12 < ways + ((f.leases.filter fun l => l.holds i).map Lease.ways).sum then (1, 0)
  else (0, (((List.range 255).map (· + 1)).find? fun h => !live.any fun l => l.handle == h).getD 0)

/-- The lines in the ways that a granted lease reserves written back and emptied (R324). -/
def Mem.emptyWays (m : Mem) (l : Lease) : Mem :=
  { m with l2 := Sparse.mapVals L2Line.absent m.l2 fun line x =>
      if l.holds (Config.homeSlice line) && x.pin.isNone && Config.inLeasedWays l.id line then L2Line.absent else x }

/-- LEASE (R323, R324). -/
def execLease (f : FmtS) (s : State) : Host.Outcome State Fault Refusal :=
  s.issueOnce (.lease f) fun x t =>
    let r := t.rfOf x
    let hi := r.read1 (f.a + 1) x.low
    let life := (r.read1 (f.a + 2) x.low).toNat
    let mask := hi ++ r.read1 f.a x.low
    let slices := bitsOf mask 48
    let ways := fieldN hi 16 4
    let rcb := (t.ctx (t.ctxOf x)).rcb
    let st := t.fab.leaseStatus rcb slices (fieldN hi 20 12) ways life
    let t := if st.1 ≠ 0 then t
      else
        let l : Lease := { id := t.nextId, rcb := rcb, handle := st.2, ways := ways, left := slices.map fun i => (i, life) }
        { t with nextId := t.nextId + 1, mem := t.mem.emptyWays l, fab := { t.fab with leases := t.fab.leases ++ [l] } }
    .done (t.putOnce x 1 f.d (BitVec.ofNat 64 (256 * st.1 + st.2)))

/-- UNLEASE (R325). -/
def execUnlease (f : FmtS) (s : State) : Host.Outcome State Fault Refusal :=
  s.issueOnce (.unlease f) fun x t =>
    let h := fieldN ((t.rfOf x).read1 f.a x.low) 0 8
    let rcb := (t.ctx (t.ctxOf x)).rcb
    match t.fab.leases.find? fun l => l.rcb = rcb && l.handle = h && h != 0 with
    | none => .done (t.putOnce x 1 f.d 1)
    | some l => .done ((t.endLease l.id).putOnce x 1 f.d 0)

/-- LEASE_EXPIRY (R46): a slice's count of a lease reaches its lifetime; the lease ends with its last slice. -/
def execLeaseExpiry (slice lease : Nat) (s : State) : Host.Outcome State Fault Refusal :=
  .next <|
    match s.fab.leases.find? fun l => l.id = lease with
    | none => s
    | some l =>
      let left := Sparse.set 0 l.left slice 0
      if left.isEmpty then s.endLease lease
      else { s with
        fab := { s.fab with leases := s.fab.leases.map fun q => if q.id = lease then { q with left := left } else q }
        mem := s.mem.unpin lease (some slice) }

end Sys2Proof.Machine
end

