-- ==== Sys2Proof/Machine/Barrier.lean ====
section
/-!
DEFINITION. Barriers (spec/20 R374 to R379): numbered barriers, barrier objects. A waiting slice or sequencer is parked, and
what it waits for stands in `tok`: bit 63 says that its arrival is recorded, bits 55:32 hold an object's offset, bits 31:0 the token.
-/

namespace Sys2Proof.Machine

/-- A barrier as an instruction names it. -/
inductive BarRef where
  | num (n : Nat)
  | obj (ofs : Nat)
  deriving DecidableEq, Repr

def Core.getBar (k : Core) (b : Nat) : BarRef → Bar
  | .num n => (k.block b).bar n
  | .obj o => ((k.bars.find? fun q => q.ofs == o).map BarObj.bar).getD (Bar.init 0 false)

def Core.putBar (k : Core) (b : Nat) (r : BarRef) (x : Bar) : Core :=
  match r with
  | .num n => k.modBlock b fun y => y.setBar n x
  | .obj o => { k with bars := k.bars.map fun q => if q.ofs = o then { q with bar := x } else q }

def State.getBar (s : State) (x : Issue) (r : BarRef) : Bar := (s.core x.core).getBar x.block r
def State.putBar (s : State) (x : Issue) (r : BarRef) (b : Bar) : State := s.modCore x.core fun k => k.putBar x.block r b

/-! ## What a parked slice holds -/

/-- The content of `tok`. -/
def barTok (r : BarRef) (arrived : Bool) (p : Word) : DWord :=
  setBit (BitVec.ofNat 64 ((match r with
    | .num _ => 0
    | .obj o => o) * 2 ^ 32 + p.toNat)) 63 arrived

/-- Whether a slice's arrival by this instruction is recorded, and the token that it waits on. -/
def Slice.arrived (x : Slice) : Option Word :=
  match x.tok with
  | some d => if bitAt d 63 then some (field d 0 32) else none
  | none => none

/-! ## Arrivals and waits (R374, R376, R378) -/

/-- The slices that record an arrival now, each with the phases completed at that moment; one whose earlier arrival has not
taken effect records nothing (R374). -/
def State.barArrive (s : State) (x : Issue) (r : BarRef) (sls : List Nat) : State × List (Nat × Word) :=
  sls.foldl (fun acc j =>
    let b := acc.1.getBar x r
    if b.pending x.warp j then acc
    else (acc.1.putBar x r (b.record x.warp j (acc.1.warp x.core x.warp).left), acc.2 ++ [(j, b.ph)])) (s, [])

/-- A wait of a slice completed: the status predicate, and for a numbered barrier the phase consumed (R376). -/
def State.barTake (s : State) (x : Issue) (r : BarRef) (pd : Nat) (j : Nat) (p : Word) : State :=
  let ok := (s.getBar x r).status p
  s.modWarp x.core x.warp fun w =>
    let w := { w with rf := w.rf.writePreds pd (w.activeLanes j) fun _ => ok }
    match r with
    | .num n => w.modSlice j fun y => { y with wph := Sparse.set 0 y.wph n (p + 1) }
    | .obj _ => w

/-- Slices parked at a barrier, with what they hold; a slice that was parked already is not counted again. -/
def State.barPark (s : State) (x : Issue) (r : BarRef) (l : List (Nat × Option Word)) : State :=
  let sls := l.map Prod.fst
  let s := if x.again then s.modWarp x.core x.warp fun w => sls.foldl (fun w j => w.modSlice j fun y =>
      { y with st := .parked, park := .barrier }) w
    else s.park x sls .barrier
  s.modWarp x.core x.warp fun w => l.foldl (fun w q => w.modSlice q.1 fun y =>
    { y with tok := some (barTok r q.2.isSome (q.2.getD 0)) }) w

/-- The token of a slice's wait: the phase it has not yet consumed, or that of its arrival or of the instruction. -/
def State.barToken (s : State) (x : Issue) (r : BarRef) (j : Nat) (p : Word) : Word :=
  match r with
  | .num n => Sparse.get 0 ((s.warp x.core x.warp).slice j).wph n
  | .obj _ => p

/-- The slices of a gang at a barrier: those that still have to arrive do, then those that wait and whose phase is complete go
on; the others are parked (R374, R376, R378). `b` is BARWAIT's token. -/
def State.barGang (s : State) (x : Issue) (r : BarRef) (arrive wait : Bool) (b : Word) (pd : Nat) (dst : BitVec 8) : Act :=
  let sls := actingSlices x.acting x.slices
  let held := fun j => ((s.warp x.core x.warp).slice j).arrived
  let before := sls.filterMap fun j => (held j).map fun p => (j, p)
  let todo := sls.filter fun j => (held j).isNone
  let (s, now) := if arrive then s.barArrive x r todo else (s, todo.map fun j => (j, b))
  let s := if arrive then s.trackSlices x.core x.warp (maskOf 8 (now.map Prod.fst)) else s
  let waiting := (before ++ now).map fun q => (q.1, s.barToken x r q.1 q.2)
  let pass := if wait then waiting.filter fun q => (s.getBar x r).passed q.2 else waiting
  let s := if wait then pass.foldl (fun t q => t.barTake x r pd q.1 q.2) s
    else
      let lanes := x.acting.filter fun l => now.any fun q => q.1 == l / 4
      s.setRF x.core x.warp ((s.warp x.core x.warp).rf.writeLanes 1 dst lanes fun l =>
        (((now.find? fun q => q.1 == l / 4).map Prod.snd).getD 0).setWidth 64)
  let stay := (sls.filter fun j => !pass.any fun q => q.1 == j).map fun j =>
    (j, (waiting.find? fun q => q.1 == j).map Prod.snd)
  .go (s.barPark x r stay) ((x.slices.filter fun j => !stay.any fun q => q.1 == j).map fun j => (j, x.next))

/-- A sequencer at a numbered barrier (R374, R376): its arrival is recorded once; a wait that must go on parks it. -/
def State.barSeq (s : State) (x : Issue) (n : Nat) (arrive wait : Bool) (pd : Nat) : Act :=
  let q := (s.core x.core).seq x.block x.cp
  let s := if arrive && q.tok.isNone then s.putBar x (.num n) (s.getBar x (.num n)).arrive else s
  let q := (s.core x.core).seq x.block x.cp
  let p := Sparse.get 0 q.wph n
  let b := s.getBar x (.num n)
  if !wait then .done s
  else if b.passed p then
    .done (s.setSeq x.core x.block x.cp { q with wph := Sparse.set 0 q.wph n (p + 1), rf := q.rf.writeP pd 0 (b.status p) })
  else .miss (s.setSeq x.core x.block x.cp { q with st := .parked, park := .barrier, tok := some (barTok (.num n) true p) })

/-! ## Numbered barriers (R375, R376, R379) -/

/-- A numbered-barrier instruction of a gang or of a sequencer. -/
def State.numbered (s : State) (i : Instr) (f : FmtY) (arrive wait : Bool) : Host.Outcome State Fault Refusal :=
  s.issue i
    (fun x t => if x.acting.isEmpty then .done t else t.barGang x (.num f.nb.toNat) arrive wait 0 (predCode f.d) 0xFF)
    (fun x t => t.barSeq x f.nb.toNat arrive wait (predCode f.d))

/-- NBARV (R376). -/
def execNbarv (f : FmtY) (s : State) : Host.Outcome State Fault Refusal := s.numbered (.nbarv f) f true false

/-- NBWAIT (R376). -/
def execNbwait (f : FmtY) (s : State) : Host.Outcome State Fault Refusal := s.numbered (.nbwait f) f false true

/-- NBSYNC (R376). -/
def execNbsync (f : FmtY) (s : State) : Host.Outcome State Fault Refusal := s.numbered (.nbsync f) f true true

/-- A new count: at once when the phase has no arrival, else from the next phase; no warp is counted any more (R379). -/
def Bar.recount (b : Bar) (n : Nat) : Bar :=
  if b.arr = 0 then { b with exp := n, next := none, less := 0, counted := [], all := false }
  else { b with next := some n, less := 0, counted := [], all := false }

/-- BARINIT.nb (R379). -/
def execBarinitNb (f : FmtY) (s : State) : Host.Outcome State Fault Refusal :=
  s.issueLane (.barinitNb f) fun x t =>
    if x.acting.isEmpty then .done t
    else .done (t.putBar x (.num f.nb.toNat) ((t.getBar x (.num f.nb.toNat)).recount f.imm12.toNat))

/-! ## Barrier objects (R377, R378) -/

/-- The checks of an object's offset, in the order of R377; `reg` asks for a registered object of the block. -/
def State.objFault (s : State) (x : Issue) (a : Word) (reg : Bool) : Option Act :=
  let k := s.core x.core
  if !k.ownScr a 1 then some (x.fault cPF (a.setWidth 64))
  else if fieldN a 0 24 % 16 ≠ 0 then some (x.fault cAL (a.setWidth 64))
  else if reg && !k.bars.any fun o => o.ofs == fieldN a 0 24 && o.block == x.block then some (x.fault cPF (a.setWidth 64))
  else none

/-- The offset on which a parked gang waits. -/
def State.heldOffset (s : State) (x : Issue) : Option Nat :=
  if !x.again then none
  else ((s.warp x.core x.warp).slice (x.slices.headD 0)).tok.map fun d => fieldN d 32 24

/-- An instruction on a barrier object. -/
def State.object (s : State) (i : Instr) (f : FmtY) (arrive wait : Bool) (pd : Nat) (dst : BitVec 8) :
    Host.Outcome State Fault Refusal :=
  s.issueLane i fun x t =>
    if x.acting.isEmpty then .done t
    else
      let r := (t.warp x.core x.warp).rf
      match t.heldOffset x with
      | some o => t.barGang x (.obj o) arrive wait 0 pd dst
      | none =>
        let a := r.read1 f.a x.low
        match t.objFault x a true with
        | some act => act
        | none => t.barGang x (.obj (fieldN a 0 24)) arrive wait (r.read1 f.b x.low) pd dst

/-- BARARV (R378). -/
def execBararv (f : FmtY) (s : State) : Host.Outcome State Fault Refusal := s.object (.bararv f) f true false 7 f.d

/-- BARWAIT (R378). -/
def execBarwait (f : FmtY) (s : State) : Host.Outcome State Fault Refusal :=
  s.object (.barwait f) f false true (predCode f.d) 0xFF

/-- BARSYNC (R378). -/
def execBarsync (f : FmtY) (s : State) : Host.Outcome State Fault Refusal :=
  s.object (.barsync f) f true true (predCode f.d) 0xFF

/-- Whether an object can be registered by a block (R377, R378). -/
def Core.mayRegister (k : Core) (b ofs : Nat) : Bool :=
  match k.bars.find? fun o => o.ofs == ofs with
  | some o => o.block == b
  | none => k.bars.length < 64

/-- An object registered with a count: PHASE and ABH are kept (R378). -/
def Core.register (k : Core) (b ofs n : Nat) : Core :=
  let ph := BitVec.ofNat 32 (k.scrNat (ofs + 4) 4)
  let abh := BitVec.ofNat 32 (k.scrNat (ofs + 8) 4)
  { k with bars := (k.bars.filter fun o => o.ofs != ofs) ++
      [{ ofs := ofs, block := b, bar := { Bar.init n false with ph := ph, abh := abh } }] }

/-- BARINIT (R378): the words are read once the slices' earlier stores to them are performed. -/
def execBarinit (f : FmtY) (s : State) : Host.Outcome State Fault Refusal :=
  s.issueLane (.barinit f) fun x t =>
    if x.acting.isEmpty then .done t
    else
      let a := (t.warp x.core x.warp).rf.read1 f.a x.low
      match t.objFault x a false with
      | some act => act
      | none =>
        let ofs := fieldN a 0 24
        let t := t.meetScr x.core ofs 16
        let k := t.core x.core
        if t.scrStores x ofs 16 then .wait
        else if !(k.bars.any fun o => o.ofs == ofs) && (k.scrPoisonAt ofs 16).isSome then
          .check t (storageMc x.low false (k.scrXv (ofs / 16)))
        else
          let ok := k.mayRegister x.block ofs
          let t := if ok then t.modCore x.core fun k => k.register x.block ofs f.imm12.toNat else t
          .done (t.modWarp x.core x.warp fun w =>
            { w with rf := w.rf.writePreds (predCode f.d) ((actingSlices x.acting x.slices).flatMap w.activeLanes) fun _ => ok })

end Sys2Proof.Machine
end

