-- ==== Sys2Proof/Machine/Falu.lean ====
section
/-!
DEFINITION. Floating arithmetic, comparison, special functions and conversions (spec/18 R333 to R340): for each instruction
what it does to the registers in the acting lanes (rf…), and its meaning (exec…).
-/

namespace Sys2Proof.Machine

/-! ## Values -/

/-- FSUB's exact result. -/
def fsub (a b : FpVal) : FpVal := a.add b.flip

/-- A special function, its source modified and flushed, the result scaled (one more rounding when SC ≠ 0) and clamped
(R336). -/
def fspecValue (fn : Nat) (f : FmtA) (a : DWord) : DWord :=
  let ftz := flushOf f.c
  let c := fspecCode fn (fp32.flush ftz (elem 3 a 0))
  let c := if f.sc = 0 then c else fp32.encode 1 ((fp32.decode c).scale (scaleOf f.sc))
  BitVec.ofNat 64 (fp32.clamp f.clp.toNat (fp32.flush ftz c))

/-- CVT (R338, R339): `a` and `b` are the sources under their modifiers. -/
def cvtValue (f : FmtA) (a b : DWord) : DWord :=
  let d := f.ty
  let s := cvtSrc f
  let mode := modeOf (cvtRnd f).toNat
  let sc := scaleOf f.sc
  let clp := f.clp.toNat
  if isFloat d then
    if isFloat s then
      if d = 3 then
        let i := if s = 3 then 0 else f.nb.toNat
        BitVec.ofNat 64 (fp32.deliver 1 sc false clp ((fmtOf s).decode (elem s a i)))
      else if s = 3 then
        pack d fun i => (fmtOf d).deliver mode sc false clp (fp32.decode (elem 3 (if i = 0 then a else b) 0))
      else pack d fun i => (fmtOf d).deliver mode sc false clp ((fmtOf s).decode (elem s a i))
    else BitVec.ofNat 64 (fp32.deliver mode sc false clp (intFp (intOf s (elem s a 0))))
  else if s = 3 then
    pack d fun i => wrapInt (elemW d) ((fp32.decode (elem 3 (if i = 0 then a else b) 0)).toIntRange mode (intLo d) (intHi d))
  else pack d fun _ => fitInt d f.clp (intOf s (elem s a 0))

/-- A source of CVT under its modifiers; NB selects an element where B is not a source, and modifies nothing. -/
def cvtA (f : FmtA) (r : RF) (l : Nat) : DWord := r.src (cvtSrc f) f.a f.na f.aa l
def cvtB (f : FmtA) (r : RF) (l : Nat) : DWord := r.src (cvtSrc f) f.b f.nb f.ab l

/-- FRND (R340). -/
def frndValue (f : FmtA) (a : DWord) : DWord :=
  let t := fmtOf f.ty
  let mode := modeOf (fieldN f.c 0 4)
  let ftz := flushOf f.c
  pack f.ty fun i =>
    t.clamp f.clp.toNat (t.flush ftz (t.encode mode
      (((t.decode (t.flush ftz (elem f.ty a i))).scale (scaleOf f.sc)).integral mode)))

/-! ## Registers -/

/-- FADD (R333). -/
def rfFadd (f : FmtA) (r : RF) (ls : List Nat) : RF := r.writeLanes (nreg f.ty) f.d ls fun l => fpOp2 f.ty f.clp f.sc (flushOf f.c) FpVal.add (srcA f r l) (srcB f r l)

/-- FSUB (R333). -/
def rfFsub (f : FmtA) (r : RF) (ls : List Nat) : RF := r.writeLanes (nreg f.ty) f.d ls fun l => fpOp2 f.ty f.clp f.sc (flushOf f.c) fsub (srcA f r l) (srcB f r l)

/-- FMUL (R333). -/
def rfFmul (f : FmtA) (r : RF) (ls : List Nat) : RF := r.writeLanes (nreg f.ty) f.d ls fun l => fpOp2 f.ty f.clp f.sc (flushOf f.c) FpVal.mul (srcA f r l) (srcB f r l)

/-- FMIN (R334). -/
def rfFmin (f : FmtA) (r : RF) (ls : List Nat) : RF := r.writeLanes (nreg f.ty) f.d ls fun l => fpOp2 f.ty f.clp f.sc (flushOf f.c) (FpVal.pick false) (srcA f r l) (srcB f r l)

/-- FMAX (R334). -/
def rfFmax (f : FmtA) (r : RF) (ls : List Nat) : RF := r.writeLanes (nreg f.ty) f.d ls fun l => fpOp2 f.ty f.clp f.sc (flushOf f.c) (FpVal.pick true) (srcA f r l) (srcB f r l)

/-- FFMA (R333). -/
def rfFfma (f : FmtA) (r : RF) (ls : List Nat) : RF := r.writeLanes (nreg f.ty) f.d ls fun l => fpOp3 f.ty f.clp f.sc fma (srcA f r l) (srcB f r l) (srcC f r l)

/-- FADD_IMM (R333). -/
def rfFaddImm (f : FmtB) (r : RF) (ls : List Nat) : RF := r.writeLanes (nreg f.ty) f.d ls fun l => fpOp2 f.ty f.clp f.sc false FpVal.add (srcI f r l) (immOf f)

/-- FSUB_IMM (R333). -/
def rfFsubImm (f : FmtB) (r : RF) (ls : List Nat) : RF := r.writeLanes (nreg f.ty) f.d ls fun l => fpOp2 f.ty f.clp f.sc false fsub (srcI f r l) (immOf f)

/-- FMUL_IMM (R333). -/
def rfFmulImm (f : FmtB) (r : RF) (ls : List Nat) : RF := r.writeLanes (nreg f.ty) f.d ls fun l => fpOp2 f.ty f.clp f.sc false FpVal.mul (srcI f r l) (immOf f)

/-- FMIN_IMM (R334). -/
def rfFminImm (f : FmtB) (r : RF) (ls : List Nat) : RF := r.writeLanes (nreg f.ty) f.d ls fun l => fpOp2 f.ty f.clp f.sc false (FpVal.pick false) (srcI f r l) (immOf f)

/-- FMAX_IMM (R334). -/
def rfFmaxImm (f : FmtB) (r : RF) (ls : List Nat) : RF := r.writeLanes (nreg f.ty) f.d ls fun l => fpOp2 f.ty f.clp f.sc false (FpVal.pick true) (srcI f r l) (immOf f)

/-- FFMA_IMM (R333). -/
def rfFfmaImm (f : FmtB) (r : RF) (ls : List Nat) : RF := r.writeLanes (nreg f.ty) f.d ls fun l => fpOp3 f.ty f.clp f.sc fma (srcI f r l) (immOf f) (r.readD (nreg f.ty) f.d l)

/-- FRCP (R336, R337). -/
def rfFrcp (f : FmtA) (r : RF) (ls : List Nat) : RF := r.writeLanes (nreg f.ty) f.d ls fun l => fspecValue 0 f (srcA f r l)

/-- FRSQ (R336, R337). -/
def rfFrsq (f : FmtA) (r : RF) (ls : List Nat) : RF := r.writeLanes (nreg f.ty) f.d ls fun l => fspecValue 1 f (srcA f r l)

/-- FSQRT (R336, R337). -/
def rfFsqrt (f : FmtA) (r : RF) (ls : List Nat) : RF := r.writeLanes (nreg f.ty) f.d ls fun l => fspecValue 2 f (srcA f r l)

/-- FEXP2 (R336, R337). -/
def rfFexp2 (f : FmtA) (r : RF) (ls : List Nat) : RF := r.writeLanes (nreg f.ty) f.d ls fun l => fspecValue 3 f (srcA f r l)

/-- FLOG2 (R336, R337). -/
def rfFlog2 (f : FmtA) (r : RF) (ls : List Nat) : RF := r.writeLanes (nreg f.ty) f.d ls fun l => fspecValue 4 f (srcA f r l)

/-- FSIN (R336, R337). -/
def rfFsin (f : FmtA) (r : RF) (ls : List Nat) : RF := r.writeLanes (nreg f.ty) f.d ls fun l => fspecValue 5 f (srcA f r l)

/-- FCOS (R336, R337). -/
def rfFcos (f : FmtA) (r : RF) (ls : List Nat) : RF := r.writeLanes (nreg f.ty) f.d ls fun l => fspecValue 6 f (srcA f r l)

/-- FTANH (R336, R337). -/
def rfFtanh (f : FmtA) (r : RF) (ls : List Nat) : RF := r.writeLanes (nreg f.ty) f.d ls fun l => fspecValue 7 f (srcA f r l)

/-- CVT (R338). -/
def rfCvt (f : FmtA) (r : RF) (ls : List Nat) : RF := r.writeLanes (nreg f.ty) f.d ls fun l => cvtValue f (cvtA f r l) (cvtB f r l)

/-- FRND (R340). -/
def rfFrnd (f : FmtA) (r : RF) (ls : List Nat) : RF := r.writeLanes (nreg f.ty) f.d ls fun l => frndValue f (srcA f r l)

/-- FCMP (R335). -/
def rfFcmp (cc : BitVec 5) (f : FmtA) (r : RF) (ls : List Nat) : RF :=
  let t := fp32
  r.writePreds (predCode f.d) ls fun l =>
    fpCond cc.toNat (t.decode (t.flush (flushOf f.c) (elem f.ty (srcA f r l) 0)))
      (t.decode (t.flush (flushOf f.c) (elem f.ty (srcB f r l) 0)))

/-! ## Meanings -/

/-- The meaning of FADD. -/
def execFadd (f : FmtA) (s : State) : Host.Outcome State Fault Refusal := s.issueAlu (.fadd f) (rfFadd f)

/-- The meaning of FSUB. -/
def execFsub (f : FmtA) (s : State) : Host.Outcome State Fault Refusal := s.issueAlu (.fsub f) (rfFsub f)

/-- The meaning of FMUL. -/
def execFmul (f : FmtA) (s : State) : Host.Outcome State Fault Refusal := s.issueAlu (.fmul f) (rfFmul f)

/-- The meaning of FMIN. -/
def execFmin (f : FmtA) (s : State) : Host.Outcome State Fault Refusal := s.issueAlu (.fmin f) (rfFmin f)

/-- The meaning of FMAX. -/
def execFmax (f : FmtA) (s : State) : Host.Outcome State Fault Refusal := s.issueAlu (.fmax f) (rfFmax f)

/-- The meaning of FFMA. -/
def execFfma (f : FmtA) (s : State) : Host.Outcome State Fault Refusal := s.issueAlu (.ffma f) (rfFfma f)

/-- The meaning of FADD_IMM. -/
def execFaddImm (f : FmtB) (s : State) : Host.Outcome State Fault Refusal := s.issueAlu (.faddImm f) (rfFaddImm f)

/-- The meaning of FSUB_IMM. -/
def execFsubImm (f : FmtB) (s : State) : Host.Outcome State Fault Refusal := s.issueAlu (.fsubImm f) (rfFsubImm f)

/-- The meaning of FMUL_IMM. -/
def execFmulImm (f : FmtB) (s : State) : Host.Outcome State Fault Refusal := s.issueAlu (.fmulImm f) (rfFmulImm f)

/-- The meaning of FMIN_IMM. -/
def execFminImm (f : FmtB) (s : State) : Host.Outcome State Fault Refusal := s.issueAlu (.fminImm f) (rfFminImm f)

/-- The meaning of FMAX_IMM. -/
def execFmaxImm (f : FmtB) (s : State) : Host.Outcome State Fault Refusal := s.issueAlu (.fmaxImm f) (rfFmaxImm f)

/-- The meaning of FFMA_IMM. -/
def execFfmaImm (f : FmtB) (s : State) : Host.Outcome State Fault Refusal := s.issueAlu (.ffmaImm f) (rfFfmaImm f)

/-- The meaning of FRCP. -/
def execFrcp (f : FmtA) (s : State) : Host.Outcome State Fault Refusal := s.issueAlu (.frcp f) (rfFrcp f)

/-- The meaning of FRSQ. -/
def execFrsq (f : FmtA) (s : State) : Host.Outcome State Fault Refusal := s.issueAlu (.frsq f) (rfFrsq f)

/-- The meaning of FSQRT. -/
def execFsqrt (f : FmtA) (s : State) : Host.Outcome State Fault Refusal := s.issueAlu (.fsqrt f) (rfFsqrt f)

/-- The meaning of FEXP2. -/
def execFexp2 (f : FmtA) (s : State) : Host.Outcome State Fault Refusal := s.issueAlu (.fexp2 f) (rfFexp2 f)

/-- The meaning of FLOG2. -/
def execFlog2 (f : FmtA) (s : State) : Host.Outcome State Fault Refusal := s.issueAlu (.flog2 f) (rfFlog2 f)

/-- The meaning of FSIN. -/
def execFsin (f : FmtA) (s : State) : Host.Outcome State Fault Refusal := s.issueAlu (.fsin f) (rfFsin f)

/-- The meaning of FCOS. -/
def execFcos (f : FmtA) (s : State) : Host.Outcome State Fault Refusal := s.issueAlu (.fcos f) (rfFcos f)

/-- The meaning of FTANH. -/
def execFtanh (f : FmtA) (s : State) : Host.Outcome State Fault Refusal := s.issueAlu (.ftanh f) (rfFtanh f)

/-- The meaning of CVT. -/
def execCvt (f : FmtA) (s : State) : Host.Outcome State Fault Refusal := s.issueAlu (.cvt f) (rfCvt f)

/-- The meaning of FRND. -/
def execFrnd (f : FmtA) (s : State) : Host.Outcome State Fault Refusal := s.issueAlu (.frnd f) (rfFrnd f)

/-- The meaning of FCMP. -/
def execFcmp (cc : BitVec 5) (f : FmtA) (s : State) : Host.Outcome State Fault Refusal := s.issueAlu (.fcmp cc f) (rfFcmp cc f)

end Sys2Proof.Machine
end

