-- ==== Sys2Proof/Machine/Ialu.lean ====
section
/-!
DEFINITION. The integer ALU, comparisons and moves (spec/18 R326 to R332): for each instruction what it does to the registers
in the acting lanes (rf…), and its meaning (exec…).
-/

namespace Sys2Proof.Machine

/-! ## Values -/

/-- The high half of the exact double-width product (R328). -/
def mulHigh (ty : BitVec 4) (a b : DWord) : DWord :=
  pack ty fun i => wrapInt (elemW ty) (intOf ty (elem ty a i) * intOf ty (elem ty b i) / 2 ^ elemW ty)

/-- The shift and rotate counts: bits [7:0] (R329). -/
def shiftL (ty : BitVec 4) (a : DWord) (n : Nat) : DWord := pack ty fun _ => if elemW ty ≤ n then 0 else elem ty a 0 * 2 ^ n
def shiftR (ty : BitVec 4) (a : DWord) (n : Nat) : DWord := pack ty fun _ => elem ty a 0 / 2 ^ n
def shiftRA (ty : BitVec 4) (a : DWord) (n : Nat) : DWord := pack ty fun _ => wrapInt (elemW ty) (intOf ty (elem ty a 0) / 2 ^ n)
def rotL (ty : BitVec 4) (a : DWord) (n : Nat) : DWord :=
  pack ty fun _ => elem ty a 0 * 2 ^ (n % elemW ty) + elem ty a 0 / 2 ^ (elemW ty - n % elemW ty)

def popCount (ty : BitVec 4) (a : DWord) : Nat := ((List.range (elemW ty)).filter fun i => bitAt a i).length
def clzCount (ty : BitVec 4) (a : DWord) : Nat := if elem ty a 0 = 0 then elemW ty else elemW ty - 1 - (elem ty a 0).log2
def bitRev (w x : Nat) : Nat := (List.range w).foldl (fun acc i => acc + x / 2 ^ i % 2 * 2 ^ (w - 1 - i)) 0

/-- One byte of PRMT under its control byte (R330). -/
def prmtByte (a b : Word) (ctl : Nat) : Nat :=
  let m := ctl % 8
  let x := (if m < 4 then a.toNat / 256 ^ m else b.toNat / 256 ^ (m - 4)) % 256
  let y := match ctl / 8 % 4 with
    | 0 => x
    | 1 => 0
    | 2 => if x < 128 then 0 else 255
    | _ => 255
  if ctl / 32 % 2 = 1 then bitRev 8 y else y

def prmt (a b c : Word) : Word :=
  BitVec.ofNat 32 ((List.range 4).foldr (fun i acc => prmtByte a b (c.toNat / 256 ^ i % 256) * 256 ^ i + acc) 0)

/-- A + B × 2^k modulo 2^64, B extended by type (R330). -/
def leaSum (ty : BitVec 4) (a : DWord) (b : Word) (k : Nat) : DWord :=
  a + (if ty = 11 then b.signExtend 64 else b.setWidth 64) <<< k

/-- The bit-field extract at position `p`, width `q` (R330). -/
def bitExtract (ty : BitVec 4) (a : DWord) (p q : Nat) : DWord :=
  let w := elemW ty
  let p := min p w
  let q := min q w
  pack ty fun _ =>
    let v := wrapInt w (intOf ty (elem ty a 0) / 2 ^ p) % 2 ^ q
    if isSigned ty && 0 < q && 2 ^ (q - 1) ≤ v then wrapInt w ((v : Int) - 2 ^ q) else v

/-- The bit-field insert of A into C (R330). -/
def bitInsert (ty : BitVec 4) (a c : DWord) (p q : Nat) : DWord :=
  let w := elemW ty
  let p := min p w
  let hi := min (p + min q w) w
  pack ty fun _ => (List.range w).foldl (fun acc i =>
    acc + (if p ≤ i && i < hi then elem ty a 0 / 2 ^ (i - p) % 2 else elem ty c 0 / 2 ^ i % 2) * 2 ^ i) 0

/-- The value of MOV: the bits as they stand under the source modifiers, or a result of R98 when a scale or clamp acts
(R332). -/
def movValue (f : FmtB) (a : DWord) : DWord :=
  if isFloat f.ty then
    if f.clp = 0 ∧ f.sc = 0 then a
    else pack f.ty fun i => (fmtOf f.ty).deliver 1 (scaleOf f.sc) false f.clp.toNat ((fmtOf f.ty).decode (elem f.ty a i))
  else if isInt f.ty then pack f.ty fun i => fitInt f.ty f.clp (intOf f.ty (elem f.ty a i))
  else a

/-! ## Registers -/

/-- IADD (R328). -/
def rfIadd (f : FmtA) (r : RF) (ls : List Nat) : RF := r.writeLanes (nreg f.ty) f.d ls fun l => intOp2 f.ty f.clp (· + ·) (srcA f r l) (srcB f r l)

/-- ISUB (R328). -/
def rfIsub (f : FmtA) (r : RF) (ls : List Nat) : RF := r.writeLanes (nreg f.ty) f.d ls fun l => intOp2 f.ty f.clp (· - ·) (srcA f r l) (srcB f r l)

/-- IMUL (R328). -/
def rfImul (f : FmtA) (r : RF) (ls : List Nat) : RF := r.writeLanes (nreg f.ty) f.d ls fun l => intOp2 f.ty f.clp (· * ·) (srcA f r l) (srcB f r l)

/-- IMIN (R328). -/
def rfImin (f : FmtA) (r : RF) (ls : List Nat) : RF := r.writeLanes (nreg f.ty) f.d ls fun l => intOp2 f.ty f.clp min (srcA f r l) (srcB f r l)

/-- IMAX (R328). -/
def rfImax (f : FmtA) (r : RF) (ls : List Nat) : RF := r.writeLanes (nreg f.ty) f.d ls fun l => intOp2 f.ty f.clp max (srcA f r l) (srcB f r l)

/-- IDIF (R328). -/
def rfIdif (f : FmtA) (r : RF) (ls : List Nat) : RF := r.writeLanes (nreg f.ty) f.d ls fun l => intOp2 f.ty f.clp (fun x y => ((x - y).natAbs : Int)) (srcA f r l) (srcB f r l)

/-- IMULH (R328). -/
def rfImulh (f : FmtA) (r : RF) (ls : List Nat) : RF := r.writeLanes (nreg f.ty) f.d ls fun l => mulHigh f.ty (srcA f r l) (srcB f r l)

/-- IMAD (R328). -/
def rfImad (f : FmtA) (r : RF) (ls : List Nat) : RF := r.writeLanes (nreg f.ty) f.d ls fun l => intOp3 f.ty f.clp (fun x y z => x * y + z) (srcA f r l) (srcB f r l) (srcC f r l)

/-- AND (R328). -/
def rfAnd (f : FmtA) (r : RF) (ls : List Nat) : RF := r.writeLanes (nreg f.ty) f.d ls fun l => srcA f r l &&& srcB f r l

/-- OR (R328). -/
def rfOr (f : FmtA) (r : RF) (ls : List Nat) : RF := r.writeLanes (nreg f.ty) f.d ls fun l => srcA f r l ||| srcB f r l

/-- XOR (R328). -/
def rfXor (f : FmtA) (r : RF) (ls : List Nat) : RF := r.writeLanes (nreg f.ty) f.d ls fun l => srcA f r l ^^^ srcB f r l

/-- ANDN (R328). -/
def rfAndn (f : FmtA) (r : RF) (ls : List Nat) : RF := r.writeLanes (nreg f.ty) f.d ls fun l => srcA f r l &&& ~~~ srcB f r l

/-- SHL (R329). -/
def rfShl (f : FmtA) (r : RF) (ls : List Nat) : RF := r.writeLanes (nreg f.ty) f.d ls fun l => shiftL f.ty (srcA f r l) (fieldN (r.read1 f.b l) 0 8)

/-- SHR (R329). -/
def rfShr (f : FmtA) (r : RF) (ls : List Nat) : RF := r.writeLanes (nreg f.ty) f.d ls fun l => shiftR f.ty (srcA f r l) (fieldN (r.read1 f.b l) 0 8)

/-- SHRA (R329). -/
def rfShra (f : FmtA) (r : RF) (ls : List Nat) : RF := r.writeLanes (nreg f.ty) f.d ls fun l => shiftRA f.ty (srcA f r l) (fieldN (r.read1 f.b l) 0 8)

/-- ROTL (R329). -/
def rfRotl (f : FmtA) (r : RF) (ls : List Nat) : RF := r.writeLanes (nreg f.ty) f.d ls fun l => rotL f.ty (srcA f r l) (fieldN (r.read1 f.b l) 0 8)

/-- POPC (R328). -/
def rfPopc (f : FmtA) (r : RF) (ls : List Nat) : RF := r.writeLanes (nreg f.ty) f.d ls fun l => BitVec.ofNat 64 (popCount f.ty (srcA f r l))

/-- CLZ (R328). -/
def rfClz (f : FmtA) (r : RF) (ls : List Nat) : RF := r.writeLanes (nreg f.ty) f.d ls fun l => BitVec.ofNat 64 (clzCount f.ty (srcA f r l))

/-- BREV (R328). -/
def rfBrev (f : FmtA) (r : RF) (ls : List Nat) : RF := r.writeLanes (nreg f.ty) f.d ls fun l => pack f.ty fun _ => bitRev (elemW f.ty) (elem f.ty (srcA f r l) 0)

/-- PRMT (R330). -/
def rfPrmt (f : FmtA) (r : RF) (ls : List Nat) : RF := r.writeLanes (nreg f.ty) f.d ls fun l => (prmt (r.read1 f.a l) (r.read1 f.b l) (r.read1 f.c l)).setWidth 64

/-- SEL (R330). -/
def rfSel (f : FmtA) (r : RF) (ls : List Nat) : RF := r.writeLanes (nreg f.ty) f.d ls fun l => if r.readP (predCode f.c) l then srcA f r l else srcB f r l

/-- LEA (R330). -/
def rfLea (f : FmtA) (r : RF) (ls : List Nat) : RF := r.writeLanes (nreg f.ty) f.d ls fun l => leaSum f.ty (srcA f r l) ((r.src (if f.ty = 11 then 1 else 2) f.b f.nb f.ab l).setWidth 32) (predCode f.c)

/-- BFE (R330). -/
def rfBfe (f : FmtA) (r : RF) (ls : List Nat) : RF := r.writeLanes (nreg f.ty) f.d ls fun l => bitExtract f.ty (srcA f r l) (fieldN (r.read1 f.b l) 0 8) (fieldN (r.read1 f.b l) 8 8)

/-- BFI (R330). -/
def rfBfi (f : FmtA) (r : RF) (ls : List Nat) : RF := r.writeLanes (nreg f.ty) f.d ls fun l => bitInsert f.ty (srcA f r l) (srcC f r l) (fieldN (r.read1 f.b l) 0 8) (fieldN (r.read1 f.b l) 8 8)

/-- IADD_IMM (R328). -/
def rfIaddImm (f : FmtB) (r : RF) (ls : List Nat) : RF := r.writeLanes (nreg f.ty) f.d ls fun l => intOp2 f.ty f.clp (· + ·) (srcI f r l) (immOf f)

/-- ISUB_IMM (R328). -/
def rfIsubImm (f : FmtB) (r : RF) (ls : List Nat) : RF := r.writeLanes (nreg f.ty) f.d ls fun l => intOp2 f.ty f.clp (· - ·) (srcI f r l) (immOf f)

/-- IMUL_IMM (R328). -/
def rfImulImm (f : FmtB) (r : RF) (ls : List Nat) : RF := r.writeLanes (nreg f.ty) f.d ls fun l => intOp2 f.ty f.clp (· * ·) (srcI f r l) (immOf f)

/-- IMIN_IMM (R328). -/
def rfIminImm (f : FmtB) (r : RF) (ls : List Nat) : RF := r.writeLanes (nreg f.ty) f.d ls fun l => intOp2 f.ty f.clp min (srcI f r l) (immOf f)

/-- IMAX_IMM (R328). -/
def rfImaxImm (f : FmtB) (r : RF) (ls : List Nat) : RF := r.writeLanes (nreg f.ty) f.d ls fun l => intOp2 f.ty f.clp max (srcI f r l) (immOf f)

/-- IDIF_IMM (R328). -/
def rfIdifImm (f : FmtB) (r : RF) (ls : List Nat) : RF := r.writeLanes (nreg f.ty) f.d ls fun l => intOp2 f.ty f.clp (fun x y => ((x - y).natAbs : Int)) (srcI f r l) (immOf f)

/-- IMULH_IMM (R328). -/
def rfImulhImm (f : FmtB) (r : RF) (ls : List Nat) : RF := r.writeLanes (nreg f.ty) f.d ls fun l => mulHigh f.ty (srcI f r l) (immOf f)

/-- AND_IMM (R328). -/
def rfAndImm (f : FmtB) (r : RF) (ls : List Nat) : RF := r.writeLanes (nreg f.ty) f.d ls fun l => srcI f r l &&& immOf f

/-- OR_IMM (R328). -/
def rfOrImm (f : FmtB) (r : RF) (ls : List Nat) : RF := r.writeLanes (nreg f.ty) f.d ls fun l => srcI f r l ||| immOf f

/-- XOR_IMM (R328). -/
def rfXorImm (f : FmtB) (r : RF) (ls : List Nat) : RF := r.writeLanes (nreg f.ty) f.d ls fun l => srcI f r l ^^^ immOf f

/-- ANDN_IMM (R328). -/
def rfAndnImm (f : FmtB) (r : RF) (ls : List Nat) : RF := r.writeLanes (nreg f.ty) f.d ls fun l => srcI f r l &&& ~~~ immOf f

/-- SHL_IMM (R329). -/
def rfShlImm (f : FmtB) (r : RF) (ls : List Nat) : RF := r.writeLanes (nreg f.ty) f.d ls fun l => shiftL f.ty (srcI f r l) (fieldN (immOf f) 0 8)

/-- SHR_IMM (R329). -/
def rfShrImm (f : FmtB) (r : RF) (ls : List Nat) : RF := r.writeLanes (nreg f.ty) f.d ls fun l => shiftR f.ty (srcI f r l) (fieldN (immOf f) 0 8)

/-- SHRA_IMM (R329). -/
def rfShraImm (f : FmtB) (r : RF) (ls : List Nat) : RF := r.writeLanes (nreg f.ty) f.d ls fun l => shiftRA f.ty (srcI f r l) (fieldN (immOf f) 0 8)

/-- ROTL_IMM (R329). -/
def rfRotlImm (f : FmtB) (r : RF) (ls : List Nat) : RF := r.writeLanes (nreg f.ty) f.d ls fun l => rotL f.ty (srcI f r l) (fieldN (immOf f) 0 8)

/-- BFE_IMM (R330). -/
def rfBfeImm (f : FmtB) (r : RF) (ls : List Nat) : RF := r.writeLanes (nreg f.ty) f.d ls fun l => bitExtract f.ty (srcI f r l) (fieldN (immOf f) 0 8) (fieldN (immOf f) 8 8)

/-- MOV (R332). -/
def rfMov (f : FmtB) (r : RF) (ls : List Nat) : RF := r.writeLanes (nreg f.ty) f.d ls fun l => movValue f (srcI f r l)

/-- MOVI (R332). -/
def rfMovi (f : FmtB) (r : RF) (ls : List Nat) : RF := r.writeLanes (nreg f.ty) f.d ls fun l => immOf f

/-- PMOV_GET (R332). -/
def rfPmovGet (f : FmtB) (r : RF) (ls : List Nat) : RF := r.writeLanes 1 f.d ls fun l => (r.predWord l).setWidth 64

/-- PMOV_SET (R332). -/
def rfPmovSet (f : FmtB) (r : RF) (ls : List Nat) : RF :=
  ls.foldl (fun t l => t.setPreds (fieldN f.imm16 8 7) (r.read1 f.a l) l) r

/-- ICMP (R331). -/
def rfIcmp (cc : BitVec 5) (f : FmtA) (r : RF) (ls : List Nat) : RF :=
  r.writePreds (predCode f.d) ls fun l =>
    intCond cc.toNat (intOf f.ty (elem f.ty (srcA f r l) 0)) (intOf f.ty (elem f.ty (srcB f r l) 0))

/-- ICMPI (R331). -/
def rfIcmpi (cc : BitVec 5) (f : FmtB) (r : RF) (ls : List Nat) : RF :=
  r.writePreds (predCode f.d) ls fun l =>
    intCond cc.toNat (intOf f.ty (elem f.ty (srcI f r l) 0)) (intOf f.ty (elem f.ty (immOf f) 0))

/-! ## Meanings -/

/-- The meaning of IADD. -/
def execIadd (f : FmtA) (s : State) : Host.Outcome State Fault Refusal := s.issueAlu (.iadd f) (rfIadd f)

/-- The meaning of ISUB. -/
def execIsub (f : FmtA) (s : State) : Host.Outcome State Fault Refusal := s.issueAlu (.isub f) (rfIsub f)

/-- The meaning of IMUL. -/
def execImul (f : FmtA) (s : State) : Host.Outcome State Fault Refusal := s.issueAlu (.imul f) (rfImul f)

/-- The meaning of IMIN. -/
def execImin (f : FmtA) (s : State) : Host.Outcome State Fault Refusal := s.issueAlu (.imin f) (rfImin f)

/-- The meaning of IMAX. -/
def execImax (f : FmtA) (s : State) : Host.Outcome State Fault Refusal := s.issueAlu (.imax f) (rfImax f)

/-- The meaning of IDIF. -/
def execIdif (f : FmtA) (s : State) : Host.Outcome State Fault Refusal := s.issueAlu (.idif f) (rfIdif f)

/-- The meaning of IMULH. -/
def execImulh (f : FmtA) (s : State) : Host.Outcome State Fault Refusal := s.issueAlu (.imulh f) (rfImulh f)

/-- The meaning of IMAD. -/
def execImad (f : FmtA) (s : State) : Host.Outcome State Fault Refusal := s.issueAlu (.imad f) (rfImad f)

/-- The meaning of AND. -/
def execAnd (f : FmtA) (s : State) : Host.Outcome State Fault Refusal := s.issueAlu (.and f) (rfAnd f)

/-- The meaning of OR. -/
def execOr (f : FmtA) (s : State) : Host.Outcome State Fault Refusal := s.issueAlu (.or f) (rfOr f)

/-- The meaning of XOR. -/
def execXor (f : FmtA) (s : State) : Host.Outcome State Fault Refusal := s.issueAlu (.xor f) (rfXor f)

/-- The meaning of ANDN. -/
def execAndn (f : FmtA) (s : State) : Host.Outcome State Fault Refusal := s.issueAlu (.andn f) (rfAndn f)

/-- The meaning of SHL. -/
def execShl (f : FmtA) (s : State) : Host.Outcome State Fault Refusal := s.issueAlu (.shl f) (rfShl f)

/-- The meaning of SHR. -/
def execShr (f : FmtA) (s : State) : Host.Outcome State Fault Refusal := s.issueAlu (.shr f) (rfShr f)

/-- The meaning of SHRA. -/
def execShra (f : FmtA) (s : State) : Host.Outcome State Fault Refusal := s.issueAlu (.shra f) (rfShra f)

/-- The meaning of ROTL. -/
def execRotl (f : FmtA) (s : State) : Host.Outcome State Fault Refusal := s.issueAlu (.rotl f) (rfRotl f)

/-- The meaning of POPC. -/
def execPopc (f : FmtA) (s : State) : Host.Outcome State Fault Refusal := s.issueAlu (.popc f) (rfPopc f)

/-- The meaning of CLZ. -/
def execClz (f : FmtA) (s : State) : Host.Outcome State Fault Refusal := s.issueAlu (.clz f) (rfClz f)

/-- The meaning of BREV. -/
def execBrev (f : FmtA) (s : State) : Host.Outcome State Fault Refusal := s.issueAlu (.brev f) (rfBrev f)

/-- The meaning of PRMT. -/
def execPrmt (f : FmtA) (s : State) : Host.Outcome State Fault Refusal := s.issueAlu (.prmt f) (rfPrmt f)

/-- The meaning of SEL. -/
def execSel (f : FmtA) (s : State) : Host.Outcome State Fault Refusal := s.issueAlu (.sel f) (rfSel f)

/-- The meaning of LEA. -/
def execLea (f : FmtA) (s : State) : Host.Outcome State Fault Refusal := s.issueAlu (.lea f) (rfLea f)

/-- The meaning of BFE. -/
def execBfe (f : FmtA) (s : State) : Host.Outcome State Fault Refusal := s.issueAlu (.bfe f) (rfBfe f)

/-- The meaning of BFI. -/
def execBfi (f : FmtA) (s : State) : Host.Outcome State Fault Refusal := s.issueAlu (.bfi f) (rfBfi f)

/-- The meaning of IADD_IMM. -/
def execIaddImm (f : FmtB) (s : State) : Host.Outcome State Fault Refusal := s.issueAlu (.iaddImm f) (rfIaddImm f)

/-- The meaning of ISUB_IMM. -/
def execIsubImm (f : FmtB) (s : State) : Host.Outcome State Fault Refusal := s.issueAlu (.isubImm f) (rfIsubImm f)

/-- The meaning of IMUL_IMM. -/
def execImulImm (f : FmtB) (s : State) : Host.Outcome State Fault Refusal := s.issueAlu (.imulImm f) (rfImulImm f)

/-- The meaning of IMIN_IMM. -/
def execIminImm (f : FmtB) (s : State) : Host.Outcome State Fault Refusal := s.issueAlu (.iminImm f) (rfIminImm f)

/-- The meaning of IMAX_IMM. -/
def execImaxImm (f : FmtB) (s : State) : Host.Outcome State Fault Refusal := s.issueAlu (.imaxImm f) (rfImaxImm f)

/-- The meaning of IDIF_IMM. -/
def execIdifImm (f : FmtB) (s : State) : Host.Outcome State Fault Refusal := s.issueAlu (.idifImm f) (rfIdifImm f)

/-- The meaning of IMULH_IMM. -/
def execImulhImm (f : FmtB) (s : State) : Host.Outcome State Fault Refusal := s.issueAlu (.imulhImm f) (rfImulhImm f)

/-- The meaning of AND_IMM. -/
def execAndImm (f : FmtB) (s : State) : Host.Outcome State Fault Refusal := s.issueAlu (.andImm f) (rfAndImm f)

/-- The meaning of OR_IMM. -/
def execOrImm (f : FmtB) (s : State) : Host.Outcome State Fault Refusal := s.issueAlu (.orImm f) (rfOrImm f)

/-- The meaning of XOR_IMM. -/
def execXorImm (f : FmtB) (s : State) : Host.Outcome State Fault Refusal := s.issueAlu (.xorImm f) (rfXorImm f)

/-- The meaning of ANDN_IMM. -/
def execAndnImm (f : FmtB) (s : State) : Host.Outcome State Fault Refusal := s.issueAlu (.andnImm f) (rfAndnImm f)

/-- The meaning of SHL_IMM. -/
def execShlImm (f : FmtB) (s : State) : Host.Outcome State Fault Refusal := s.issueAlu (.shlImm f) (rfShlImm f)

/-- The meaning of SHR_IMM. -/
def execShrImm (f : FmtB) (s : State) : Host.Outcome State Fault Refusal := s.issueAlu (.shrImm f) (rfShrImm f)

/-- The meaning of SHRA_IMM. -/
def execShraImm (f : FmtB) (s : State) : Host.Outcome State Fault Refusal := s.issueAlu (.shraImm f) (rfShraImm f)

/-- The meaning of ROTL_IMM. -/
def execRotlImm (f : FmtB) (s : State) : Host.Outcome State Fault Refusal := s.issueAlu (.rotlImm f) (rfRotlImm f)

/-- The meaning of BFE_IMM. -/
def execBfeImm (f : FmtB) (s : State) : Host.Outcome State Fault Refusal := s.issueAlu (.bfeImm f) (rfBfeImm f)

/-- The meaning of MOV. -/
def execMov (f : FmtB) (s : State) : Host.Outcome State Fault Refusal := s.issueAlu (.mov f) (rfMov f)

/-- The meaning of MOVI. -/
def execMovi (f : FmtB) (s : State) : Host.Outcome State Fault Refusal := s.issueAlu (.movi f) (rfMovi f)

/-- The meaning of PMOV_GET. -/
def execPmovGet (f : FmtB) (s : State) : Host.Outcome State Fault Refusal := s.issueAlu (.pmovGet f) (rfPmovGet f)

/-- The meaning of PMOV_SET. -/
def execPmovSet (f : FmtB) (s : State) : Host.Outcome State Fault Refusal := s.issueAlu (.pmovSet f) (rfPmovSet f)

/-- The meaning of ICMP. -/
def execIcmp (cc : BitVec 5) (f : FmtA) (s : State) : Host.Outcome State Fault Refusal := s.issueAlu (.icmp cc f) (rfIcmp cc f)

/-- The meaning of ICMPI. -/
def execIcmpi (cc : BitVec 5) (f : FmtB) (s : State) : Host.Outcome State Fault Refusal := s.issueAlu (.icmpi cc f) (rfIcmpi cc f)

end Sys2Proof.Machine
end

