-- ==== Sys2Proof/Machine/Lane.lean ====
section
/-!
DEFINITION. The LANE group (spec/18 R341 to R345): for each instruction what it does to the registers in the participating
lanes (rf…), and its meaning (exec…). The participating lanes are the acting lanes, rising.
-/

namespace Sys2Proof.Machine

/-! ## Values -/

/-- The participating lanes of a lane's group. -/
def groupOf (c : BitVec 8) (ls : List Nat) (l : Nat) : List Nat := ls.filter fun j => groupBase c j == groupBase c l

/-- A shuffle: `src` gives the source lane; an unfed lane keeps its destination (R342). -/
def shuffle (f : FmtA) (src : Nat → Nat → Nat) (r : RF) (ls : List Nat) : RF :=
  r.writeLanes (nreg f.ty) f.d ls fun l =>
    let m := src l (r.read1 f.b l).toNat
    if ls.contains m then r.readD (nreg f.ty) f.a m else r.readD (nreg f.ty) f.d l

/-- The class of a lane: the participating lanes that hold its value (R344). -/
def classOf (v : Nat → DWord) (ls : List Nat) (l : Nat) : List Nat := ls.filter fun j => v j == v l

/-- MATCHANY's description of a lane's class (R344). -/
def matchAny (v : Nat → DWord) (ls : List Nat) (l : Nat) : DWord :=
  let c := classOf v ls l
  let ldr := c.headD l
  BitVec.ofNat 64 ((if ldr = l then 2 ^ 31 else 0) + c.length * 2 ^ 16 + ldr * 2 ^ 8 + (c.filter (· < l)).length)

/-- The leaders of the classes, rising (R344). -/
def leaders (v : Nat → DWord) (ls : List Nat) : List Nat := ls.filter fun l => (classOf v ls l).headD l == l

/-- MATCHALL's description of the division into classes (R344). -/
def matchAll (v : Nat → DWord) (ls : List Nat) (l : Nat) : DWord :=
  let ld := leaders v ls
  let cls := (ld.filter (· < (classOf v ls l).headD l)).length
  BitVec.ofNat 64 ((if ld.length = 1 then 2 ^ 31 else 0) + ld.length * 2 ^ 16 + cls)

/-- One combination of REDUX (R345), on bits for the bitwise operations and f32, exactly for integer add. -/
def reduxBits (op : Nat) (ty : BitVec 4) (a b : DWord) : DWord :=
  if ty = 3 then
    if op = 0 then fpOp2 3 0 0 false FpVal.add a b else fpOp2 3 0 0 false (FpVal.pick (op == 2)) a b
  else if op = 1 then intOp2 ty 0 min a b
  else if op = 2 then intOp2 ty 0 max a b
  else if op = 3 then a &&& b
  else if op = 4 then a ||| b
  else a ^^^ b

/-- The identity of an exclusive scan (R345). -/
def reduxIdentity (op : Nat) (ty : BitVec 4) : DWord :=
  if op = 1 then (if ty = 3 then 0x7F800000 else pack ty fun _ => wrapInt (elemW ty) (intHi ty))
  else if op = 2 then (if ty = 3 then 0xFF800000 else pack ty fun _ => wrapInt (elemW ty) (intLo ty))
  else if op = 3 then pack ty fun _ => 2 ^ elemW ty - 1
  else 0

/-- The value combined over lanes, in lane order; none over no lane. -/
def reduxOver (op : Nat) (ty : BitVec 4) (clp : BitVec 2) (v : Nat → DWord) (ls : List Nat) : Option DWord :=
  match ls with
  | [] => none
  | l :: rest =>
    if op = 0 ∧ isInt ty then
      some (pack ty fun _ => fitInt ty clp (ls.foldl (fun acc j => acc + intOf ty (elem ty (v j) 0)) 0))
    else some (rest.foldl (fun acc j => reduxBits op ty acc (v j)) (v l))

/-- REDUX's value in a lane: reduction, inclusive scan, exclusive scan (R345). -/
def reduxValue (f : FmtA) (v : Nat → DWord) (ls : List Nat) (l : Nat) : DWord :=
  let op := fieldN f.b 0 4
  let p := groupOf f.c ls l
  let part := if fieldN f.b 4 2 = 0 then p else if fieldN f.b 4 2 = 1 then p.filter (· ≤ l) else p.filter (· < l)
  (reduxOver op f.ty f.clp v part).getD (reduxIdentity op f.ty)

/-! ## Registers -/

/-- SHFLI (R342). -/
def rfShfli (f : FmtA) (r : RF) (ls : List Nat) : RF := shuffle f (srcIndex f.c) r ls

/-- SHFLU (R342). -/
def rfShflu (f : FmtA) (r : RF) (ls : List Nat) : RF := shuffle f (srcUp f.c) r ls

/-- SHFLD (R342). -/
def rfShfld (f : FmtA) (r : RF) (ls : List Nat) : RF := shuffle f (srcDown f.c) r ls

/-- SHFLX (R342). -/
def rfShflx (f : FmtA) (r : RF) (ls : List Nat) : RF := shuffle f (srcXor f.c) r ls

/-- VALL (R343). -/
def rfVall (f : FmtA) (r : RF) (ls : List Nat) : RF := 
  r.writePreds (predCode f.d) ls fun l => (groupOf f.c ls l).all fun j => r.readP (predCode f.a) j

/-- VANY (R343). -/
def rfVany (f : FmtA) (r : RF) (ls : List Nat) : RF := 
  r.writePreds (predCode f.d) ls fun l => (groupOf f.c ls l).any fun j => r.readP (predCode f.a) j

/-- VBAL (R343). -/
def rfVbal (f : FmtA) (r : RF) (ls : List Nat) : RF := 
  r.writeLanes 1 f.d ls fun _ => maskOf 64 (ls.filter fun j => r.readP (predCode f.a) j)

/-- MATCHANY (R344). -/
def rfMatchany (f : FmtA) (r : RF) (ls : List Nat) : RF := 
  r.writeLanes 1 f.d ls (matchAny (fun j => r.readD (nreg f.ty) f.a j) ls)

/-- MATCHALL (R344). -/
def rfMatchall (f : FmtA) (r : RF) (ls : List Nat) : RF := 
  r.writeLanes 1 f.d ls (matchAll (fun j => r.readD (nreg f.ty) f.a j) ls)

/-- REDUX (R345). -/
def rfRedux (f : FmtA) (r : RF) (ls : List Nat) : RF := 
  r.writeLanes (nreg f.ty) f.d ls (reduxValue f (fun j => r.readD (nreg f.ty) f.a j) ls)

/-! ## Meanings -/

/-- The meaning of SHFLI. -/
def execShfli (f : FmtA) (s : State) : Host.Outcome State Fault Refusal := s.issueAlu (.shfli f) (rfShfli f)

/-- The meaning of SHFLU. -/
def execShflu (f : FmtA) (s : State) : Host.Outcome State Fault Refusal := s.issueAlu (.shflu f) (rfShflu f)

/-- The meaning of SHFLD. -/
def execShfld (f : FmtA) (s : State) : Host.Outcome State Fault Refusal := s.issueAlu (.shfld f) (rfShfld f)

/-- The meaning of SHFLX. -/
def execShflx (f : FmtA) (s : State) : Host.Outcome State Fault Refusal := s.issueAlu (.shflx f) (rfShflx f)

/-- The meaning of VALL. -/
def execVall (f : FmtA) (s : State) : Host.Outcome State Fault Refusal := s.issueAlu (.vall f) (rfVall f)

/-- The meaning of VANY. -/
def execVany (f : FmtA) (s : State) : Host.Outcome State Fault Refusal := s.issueAlu (.vany f) (rfVany f)

/-- The meaning of VBAL. -/
def execVbal (f : FmtA) (s : State) : Host.Outcome State Fault Refusal := s.issueAlu (.vbal f) (rfVbal f)

/-- The meaning of MATCHANY. -/
def execMatchany (f : FmtA) (s : State) : Host.Outcome State Fault Refusal := s.issueAlu (.matchany f) (rfMatchany f)

/-- The meaning of MATCHALL. -/
def execMatchall (f : FmtA) (s : State) : Host.Outcome State Fault Refusal := s.issueAlu (.matchall f) (rfMatchall f)

/-- The meaning of REDUX. -/
def execRedux (f : FmtA) (s : State) : Host.Outcome State Fault Refusal := s.issueAlu (.redux f) (rfRedux f)

end Sys2Proof.Machine
end

