-- ==== Sys2Proof/Machine/Alu.lean ====
section
/-!
DEFINITION. The instructions that read and write registers only (spec/18 R326), as what they do to the registers: a combiner
wave runs them too (spec/09 R171, R172).
-/

namespace Sys2Proof.Machine

/-- What an instruction of spec/18 does to the registers in the acting lanes. -/
def aluOf : Instr → Option (RF → List Nat → RF)
  | .iadd f => some (rfIadd f)
  | .isub f => some (rfIsub f)
  | .imul f => some (rfImul f)
  | .imin f => some (rfImin f)
  | .imax f => some (rfImax f)
  | .idif f => some (rfIdif f)
  | .imulh f => some (rfImulh f)
  | .imad f => some (rfImad f)
  | .and f => some (rfAnd f)
  | .or f => some (rfOr f)
  | .xor f => some (rfXor f)
  | .andn f => some (rfAndn f)
  | .shl f => some (rfShl f)
  | .shr f => some (rfShr f)
  | .shra f => some (rfShra f)
  | .rotl f => some (rfRotl f)
  | .popc f => some (rfPopc f)
  | .clz f => some (rfClz f)
  | .brev f => some (rfBrev f)
  | .prmt f => some (rfPrmt f)
  | .sel f => some (rfSel f)
  | .lea f => some (rfLea f)
  | .bfe f => some (rfBfe f)
  | .bfi f => some (rfBfi f)
  | .iaddImm f => some (rfIaddImm f)
  | .isubImm f => some (rfIsubImm f)
  | .imulImm f => some (rfImulImm f)
  | .iminImm f => some (rfIminImm f)
  | .imaxImm f => some (rfImaxImm f)
  | .idifImm f => some (rfIdifImm f)
  | .imulhImm f => some (rfImulhImm f)
  | .andImm f => some (rfAndImm f)
  | .orImm f => some (rfOrImm f)
  | .xorImm f => some (rfXorImm f)
  | .andnImm f => some (rfAndnImm f)
  | .shlImm f => some (rfShlImm f)
  | .shrImm f => some (rfShrImm f)
  | .shraImm f => some (rfShraImm f)
  | .rotlImm f => some (rfRotlImm f)
  | .bfeImm f => some (rfBfeImm f)
  | .mov f => some (rfMov f)
  | .movi f => some (rfMovi f)
  | .pmovGet f => some (rfPmovGet f)
  | .pmovSet f => some (rfPmovSet f)
  | .icmp cc f => some (rfIcmp cc f)
  | .icmpi cc f => some (rfIcmpi cc f)
  | .fadd f => some (rfFadd f)
  | .fsub f => some (rfFsub f)
  | .fmul f => some (rfFmul f)
  | .fmin f => some (rfFmin f)
  | .fmax f => some (rfFmax f)
  | .ffma f => some (rfFfma f)
  | .faddImm f => some (rfFaddImm f)
  | .fsubImm f => some (rfFsubImm f)
  | .fmulImm f => some (rfFmulImm f)
  | .fminImm f => some (rfFminImm f)
  | .fmaxImm f => some (rfFmaxImm f)
  | .ffmaImm f => some (rfFfmaImm f)
  | .frcp f => some (rfFrcp f)
  | .frsq f => some (rfFrsq f)
  | .fsqrt f => some (rfFsqrt f)
  | .fexp2 f => some (rfFexp2 f)
  | .flog2 f => some (rfFlog2 f)
  | .fsin f => some (rfFsin f)
  | .fcos f => some (rfFcos f)
  | .ftanh f => some (rfFtanh f)
  | .cvt f => some (rfCvt f)
  | .frnd f => some (rfFrnd f)
  | .fcmp cc f => some (rfFcmp cc f)
  | .shfli f => some (rfShfli f)
  | .shflu f => some (rfShflu f)
  | .shfld f => some (rfShfld f)
  | .shflx f => some (rfShflx f)
  | .vall f => some (rfVall f)
  | .vany f => some (rfVany f)
  | .vbal f => some (rfVbal f)
  | .matchany f => some (rfMatchany f)
  | .matchall f => some (rfMatchall f)
  | .redux f => some (rfRedux f)
  | _ => none

end Sys2Proof.Machine
end

