-- ==== Sys2Proof/Machine/Combine.lean ====
section
/-!
DEFINITION. Combinable objects (spec/09 R168 to R176; spec/20 R369 to R373): CMB and the arrival of its requests, the combiner
engines' waves, COBJ.INIT, ARM and QUERY.
-/

namespace Sys2Proof.Machine

/-! ## Objects -/

/-- The object of a header address. -/
def State.obj (s : State) (pa : Nat) : CObj := Sparse.get CObj.none s.fab.objs pa

def State.modObj (s : State) (pa : Nat) (f : CObj → CObj) : State :=
  { s with fab := { s.fab with objs := Sparse.modify CObj.none s.fab.objs pa f } }

/-- The home slice of an object (R168). -/
def objSlice (pa : Nat) : Nat := Config.homeSlice (pa / 128)

/-- Whether an object is active: its trug holds a request or its wave runs (R168). -/
def CObj.active (o : CObj) : Bool := !o.trug.isEmpty || o.wave.isSome

/-- The active objects that a slice tracks. -/
def State.tracked (s : State) (slice : Nat) : Nat := (s.fab.objs.filter fun p => objSlice p.1 = slice && p.2.active).length

/-- Fields of a header (R168). -/
def hdrVld (m : Mem) (pa : Nat) : Bool := bitAt (m.dword pa) 63
def hdrPois (m : Mem) (pa : Nat) : Bool := bitAt (m.dword pa) 62
def hdrNmeth (m : Mem) (pa : Nat) : Nat := fieldN (m.dword pa) 56 5
def hdrPlen (m : Mem) (pa : Nat) : Nat := fieldN (m.dword pa) 32 7
def hdrMbase (m : Mem) (pa : Nat) : Nat := fieldN (m.dword (pa + 16)) 0 57

/-- Entry `n` of the method table: the first word of a valid method. -/
def hdrEntry (m : Mem) (pa n : Nat) : Option Nat :=
  let d := m.dword (pa + 24 + 8 * (n / 4))
  if n < 16 ∧ bitAt d (16 * (n % 4) + 15) then some (fieldN d (16 * (n % 4)) 15) else none

/-- A write by the home slice of an object itself, which a mirror page sends on (R271); the headers of other armed objects discard it
(R169). -/
def State.objWrite (s : State) (own : Nat) (mir : Bool) (a : Nat) (bs : List Byte) : State :=
  let t := s.writeHid (s.inHeader (some own) 0) a bs
  let lands := !s.closed 0 a bs.length && !(List.range bs.length).any fun i => s.inHeader (some own) 0 (a + i)
  let s := t
  if mir && lands then { s.mirrorPut s.nextId [] ⟨0, 0, a⟩ bs with nextId := s.nextId + 1 } else s

/-! ## CMB (R170, R174, R369) -/

/-- The checks of a header address that a warp names (R297, R369): 57 bits, 64-byte alignment, translation; LOC ≠ 0 raises PP. -/
def State.checkHeader (s : State) (x : Issue) (w : Want) (lane : Nat) (va : DWord) : Chk :=
  if 2 ^ 57 ≤ va.toNat then .fault cPF va
  else if va.toNat % 64 ≠ 0 then .fault cAL va
  else
    match s.translate x.core x.who (s.regionOf x) va w with
    | .fault code => .fault code va
    | .miss => .absent va
    | .ok leaf pa =>
      if eLoc leaf ≠ 0 then .fault cPP va else .ok { lane := lane, va := va, home := ⟨0, 0, pa⟩, bit := 0, leaf := leaf }

/-- CMB (R369): each acting lane sends one request; V and the status predicate are pending until its reply. On the scalar path there is
one request, and its status is written in every acting lane (R95). -/
def execCmb (f : FmtM) (s : State) : Host.Outcome State Fault Refusal :=
  s.issueLane (.cmb f) fun x t =>
    if x.acting.isEmpty then .done t
    else
      let r := (t.warp x.core x.warp).rf
      match t.checkLanes x (atomLanes f x.acting) fun l => t.checkHeader x .update l (laneAddr f r l) with
      | .stop a => x.whole (atomOnce f) a
      | .ok l =>
        let (inst, t) := t.fresh
        let rs := l.map fun a =>
          { t.request x f .cmb a x.acting inst with
            len := 64, n := 2, slices := atomMask f x.acting [a],
            parts := [{ t.part x f.v inst a.lane (r.read2 f.opr a.lane) 0 with lanes := if atomOnce f then x.acting else [a.lane] }] }
        .done ((x.settled (t.send rs)).modWarp x.core x.warp fun w =>
          (w.mark f.v 2 (slicesOf x.acting) true).markP f.sprd.toNat (slicesOf x.acting) true)

/-- The status codes of R174. -/
def stOK : Nat := 0
def stCFULL : Nat := 1
def stCFAULT : Nat := 2
def stCPOISON : Nat := 3
def stCNOOBJ : Nat := 4

/-- A request answered (R174): the reply on OK, else the status code; a status that is dropped is counted in DRC, except
CNOOBJ. -/
def State.answer (s : State) (r : Req) (st : Nat) (v : DWord) : State :=
  let pa := r.home.addr
  let d1 := s.mem.dword (pa + 8)
  let s := if st ≠ stOK ∧ st ≠ stCNOOBJ ∧ r.sprd = 7 then
      s.objWrite pa (s.obj pa).mir (pa + 8) (leBytes 4 (min (2 ^ 32 - 1) (fieldN d1 0 32 + 1))) else s
  let q := { r with op := st }
  (s.modReq r.id fun _ => q).complete q false [if st = stOK then v.setWidth 128 else BitVec.ofNat 128 st]

/-- Whether a request's context runs: a halted context's requests are answered CFULL (R176). -/
def State.ctxRuns (s : State) (r : Req) : Bool := (s.ctx r.ctx).st == .running

/-- The status that a request is answered with on arrival, if any, in the order of R170. -/
def State.cmbStatus (s : State) (r : Req) : Option Nat :=
  let pa := r.home.addr
  let o := s.obj pa
  if !hdrVld s.mem pa ∨ !o.armed ∨ 2 ≤ (Sparse.get Tag.clear s.mon.tags (pa / 65536)).mode then some stCNOOBJ
  else if hdrPois s.mem pa then some stCPOISON
  else if hdrNmeth s.mem pa ≤ r.meth ∨ hdrEntry s.mem pa r.meth = none then some stCFAULT
  else if 32 ≤ o.trug.length ∨ (!o.active ∧ 256 ≤ s.tracked (objSlice pa)) then some stCFULL
  else if !s.ctxRuns r then some stCFULL
  else none

/-- One request arrives: it is answered at once, or enters the trug (R170). -/
def State.cmbArrive (s : State) (r : Req) : State :=
  match s.cmbStatus r with
  | some st => s.answer r st 0
  | none => { s.modObj r.home.addr fun o => { o with trug := o.trug ++ [(s.nextId, r.id)] } with nextId := s.nextId + 1 }

/-- Whether a request has arrived at its object: it waits in the trug or is served. -/
def CObj.holds (o : CObj) (id : Nat) : Bool :=
  (o.trug.any fun p => p.2 == id) || match o.wave with
    | some w => w.2.contains id
    | .none => false

/-- Whether a request has arrived at an object and is served, in the order of arrivals, before a request of method `m` that follows. -/
def State.servedFirst (s : State) (pa m id : Nat) : Bool := (s.obj pa).holds id && ((s.findReq id).map Req.meth).getD m == m

/-- Whether a request may arrive: what must precede it, and what the core tracks there, is performed, or has arrived at the same object and
is served before it (R170, R180, R185); before a release at device or system scope everything is performed (R174), and what precedes one
at warp or block scope has left the core. -/
def State.mayArrive (s : State) (r : Req) : Bool :=
  let wide := s.wideRelease r || r.wide
  (r.after.all fun id => !s.awaited id || (!wide && s.servedFirst r.home.addr r.meth id))
    && (r.left || (s.ahead r && !s.fab.reqs.any fun e => e.holds r && (wide || !s.servedFirst r.home.addr r.meth e.id)))

/-- CMB_REQUEST_ARRIVAL (R170): the requests of one instruction that go to one slice arrive together, in lane order. -/
def execCmbRequestArrival (req : Nat) (s : State) : Host.Outcome State Fault Refusal :=
  .next <|
    match s.findReq req with
    | none => s
    | some r =>
      let rs := s.fab.reqs.filter fun q => q.kind == .cmb && q.inst == r.inst && q.uid == r.uid && !q.done
        && objSlice q.home.addr == objSlice r.home.addr && !(s.obj q.home.addr).holds q.id
      if rs.any (fun q => q.id == req) && rs.all s.mayArrive then rs.foldl (fun t q => (t.leaveFirst q).cmbArrive q) s else s

/-! ## Waves (R171 to R173, R175) -/

/-- A wave: its registers, the payload bytes stored, where each lane resumes after a branch taken, the replies of the lanes
that have ended. -/
structure Wave where
  rf : RF
  stored : Sparse (Option Byte)
  resume : Sparse Nat
  out : Sparse (Option DWord)
  deriving DecidableEq, Repr

/-- The entry state of a wave (R172). -/
def Wave.start (meth : Nat) (args : List DWord) : Wave :=
  let n := args.length
  let rf := (List.range n).foldl (fun r l =>
    ((r.write2 0 l (args.getD l 0)).write1 2 l (BitVec.ofNat 32 l)).write1 3 l (BitVec.ofNat 32 meth)) RF.zero
  { rf := rf.writeK 0 (BitVec.ofNat 32 n), stored := [], resume := [], out := [] }

/-- The payload that a wave works on: memory, the address of its first byte, its size. -/
structure Payload where
  mem : Mem
  base : Nat
  size : Nat

/-- A payload byte as the wave sees it. -/
def Wave.byte (w : Wave) (p : Payload) (i : Nat) : Byte := (Sparse.get none w.stored i).getD (p.mem.byte 0 (p.base + i))

def Wave.nat (w : Wave) (p : Payload) (a n : Nat) : Nat := leNat ((List.range n).map fun i => w.byte p (a + i))

/-- Whether a read meets poison: a poisoned granule that the wave has not stored whole. -/
def Wave.poisoned (w : Wave) (p : Payload) (a n : Nat) : Bool :=
  (units16 (p.base + a) n).any fun g => p.mem.granPoison 0 g
    && (List.range 16).any fun i => Sparse.get none w.stored (16 * g + i - p.base) == none

def Wave.put (w : Wave) (a : Nat) (bs : List Byte) : Wave :=
  { w with stored := ((List.range bs.length).zip bs).foldl (fun m q => Sparse.set none m (a + q.1) (some q.2)) w.stored }

/-- Where an access of a lane lies in the payload, and its first bit; nothing is a method fault (R172): an offset out of range, or one that
is misaligned (DEDUCED, log 132). -/
def waveAt (f : FmtM) (r : RF) (size lane : Nat) : Option (Nat × Nat) :=
  let a := (scrAddr (r.read1 f.ab lane) f.ofs).toNat
  let ew := elemWidth f
  let u := unitPos a ew
  let byte := if ew = 0 then a else u.1
  if size < byte + accBytes f ∨ (ew = 0 ∧ a % accBytes f ≠ 0) then none else some (byte, if ew = 0 then 0 else u.2)

/-- A load of a wave: its values are read before any is written; poison is a method fault (R369). -/
def Wave.load (w : Wave) (p : Payload) (f : FmtM) (acting : List Nat) : Option Wave :=
  let lanes := memLanes f acting
  if lanes.any fun l => match waveAt f w.rf p.size l with
      | none => true
      | some (a, _) => w.poisoned p a (accBytes f) then none
  else
    let v := fun l => match waveAt f w.rf p.size l with
      | none => 0
      | some (a, bit) =>
        let x := w.nat p a (accBytes f)
        BitVec.ofNat 128 (if elemWidth f = 0 then x else x / 2 ^ bit % 2 ^ elemWidth f)
    let ws := if isK f.v then lanes.take 1 else lanes
    some { w with rf := ws.foldl (fun r l => r.writeQ (nregSz f.sz) f.v l (v l)) w.rf }

/-- A store of a wave, lane by lane (R161). -/
def Wave.store (w : Wave) (p : Payload) (f : FmtM) (acting : List Nat) : Option Wave :=
  (memLanes f acting).foldl (fun (acc : Option Wave) l =>
    match acc, waveAt f w.rf p.size l with
    | some v, some (a, bit) =>
      let x := (w.rf.readQ (nregSz f.sz) f.v l).toNat
      let ew := elemWidth f
      if ew = 0 then some (v.put a (leBytes (accBytes f) x))
      else
        let old := v.nat p a 8
        some (v.put a (leBytes 8 (old - old / 2 ^ bit % 2 ^ ew * 2 ^ bit + x % 2 ^ ew * 2 ^ bit)))
    | _, _ => none) (some w)

/-- One method instruction in the acting lanes, at a word of the method. -/
def Wave.exec (w : Wave) (p : Payload) (i : Instr) (pos : Nat) (acting : List Nat) : Option Wave :=
  match i with
  | .bra f => some { w with resume := acting.foldl (fun m l => Sparse.set 0 m l (pos + f.t20.toNat)) w.resume }
  | .exit _ => some { w with out := acting.foldl (fun m l => Sparse.set none m l (some (w.rf.read2 4 l))) w.out }
  | .ld f => w.load p f acting
  | .st f => w.store p f acting
  | i =>
    match aluOf i with
    | some g => some { w with rf := g w.rf acting }
    | none => none

/-- The lanes of a wave that have not ended. -/
def Wave.going (w : Wave) (n : Nat) : List Nat := (List.range n).filter fun l => Sparse.get none w.out l == none

/-- A method run in n lanes from a word on: branches only skip forward (R171), and a word that a branch reaches inside an
instruction is a method fault. -/
def Wave.run (p : Payload) (n : Nat) : List (DWord × DWord) → Nat → Bool → Wave → Option Wave
  | [], _, _, w => if (w.going n).isEmpty then some w else none
  | _ :: rest, pos, true, w =>
    if (w.going n).any fun l => Sparse.get 0 w.resume l == pos then none else Wave.run p n rest (pos + 1) false w
  | e :: rest, pos, false, w =>
    match decode .wave e.1 e.2 with
    | .error _ => none
    | .ok i =>
      let acting := (w.going n).filter fun l => decide (Sparse.get 0 w.resume l ≤ pos) && w.rf.guard (guardOf i) l
      match (if acting.isEmpty then some w else w.exec p i pos acting) with
      | none => none
      | some w => Wave.run p n rest (pos + 1) (bitAt e.1 63) w

/-- The requests of halted contexts leave every trug, answered CFULL (R176). -/
def State.answerHalted (s : State) : State :=
  s.fab.objs.foldl (fun t o =>
    o.2.trug.foldl (fun t q =>
      match t.findReq q.2 with
      | some r => if t.ctxRuns r then t
        else (t.modObj o.1 fun b => { b with trug := b.trug.filter fun y => y.2 != q.2 }).answer r stCFULL 0
      | none => t) t) s

/-- The object of a slice whose oldest pending request arrived first (R172). -/
def State.nextObj (s : State) (slice : Nat) : Option Nat :=
  (s.fab.objs.filter fun p => objSlice p.1 = slice && !p.2.trug.isEmpty).foldl (fun best p =>
    match best with
    | none => some p.1
    | some b => if ((p.2.trug.headD (0, 0)).1 < (((s.obj b).trug).headD (0, 0)).1) then some p.1 else some b) none

/-- COMBINER_WAVE_START (R172): an idle engine packs the oldest request's method and every pending request of that method, up
to 32. -/
def execCombinerWaveStart (slice : Nat) (s : State) : Host.Outcome State Fault Refusal :=
  .next <|
    if (Sparse.get none s.fab.engines slice).isSome then s
    else
      let s := s.answerHalted
      match s.nextObj slice with
      | none => s
      | some pa =>
        let o := s.obj pa
        let methOf := fun (q : Nat × Nat) => ((s.findReq q.2).map Req.meth).getD 0
        let m := methOf (o.trug.headD (0, 0))
        let ids := ((o.trug.filter fun q => methOf q == m).map Prod.snd).take 32
        let s := s.modObj pa fun b => { b with trug := b.trug.filter fun q => !ids.contains q.2, wave := some (m, ids) }
        { s with fab := { s.fab with engines := Sparse.set none s.fab.engines slice (some pa) } }

/-- The payload bytes that a wave stored committed as one write (R173): the runs of stored bytes. -/
def State.commitWave (s : State) (pa : Nat) (w : Wave) : State :=
  let runs := w.stored.foldl (fun (acc : List (Nat × List Byte)) q =>
    match acc with
    | (a, bs) :: rest => if a + bs.length = q.1 then (a, bs ++ [q.2.getD 0]) :: rest else (q.1, [q.2.getD 0]) :: acc
    | [] => [(q.1, [q.2.getD 0])]) []
  runs.foldl (fun t r =>
    let t := t.objWrite pa (s.obj pa).mir (pa + 64 + r.1) r.2
    { t with mem := (List.range (r.2.length / 128 + 2)).foldl (fun m i =>
        if (pa + 64 + r.1) / 128 + i ≤ (pa + 63 + r.1 + r.2.length) / 128 then m.touchLine (pa + 64 + r.1 + 128 * i) 0 true else m) t.mem }) s

/-- An aborted wave (R175): its stores are discarded, its lanes receive CFAULT, POIS and FCNT are set, the record is posted,
and the requests that wait receive CPOISON. -/
def State.abortWave (s : State) (pa meth : Nat) (ids : List Nat) (residue : Bool) : State :=
  let o := s.obj pa
  let fcnt := min (2 ^ 32 - 1) (fieldN (s.mem.dword (pa + 8)) 32 32 + 1)
  let s := s.objWrite pa o.mir pa (leBytes 8 (setBit (s.mem.dword pa) 62 true).toNat)
  let s := s.objWrite pa o.mir (pa + 12) (leBytes 4 fcnt)
  let s := s.postRegion o.armRcb 0x82 o.armVa (BitVec.ofNat 64 (meth % 16 + if residue then 256 else 0)) fcnt 0
  let s := (ids.filterMap s.findReq).foldl (fun t r => t.answer r stCFAULT 0) s
  let wait := (o.trug.map Prod.snd).filterMap s.findReq
  wait.foldl (fun t r => t.answer r stCPOISON 0) (s.modObj pa fun b => { b with trug := [] })

/-- The end of the wave of a slice (R173, R175): its payload commits and its replies are sent, or it is aborted. -/
def State.waveEnd (s : State) (slice : Nat) (residue : Bool) : State :=
  match Sparse.get none s.fab.engines slice with
  | none => s
  | some pa =>
    let o := s.obj pa
    let t := { s with fab := { s.fab with engines := Sparse.set none s.fab.engines slice none } }
    let t := t.modObj pa fun b => { b with wave := none }
    match o.wave with
    | none => t
    | some (m, ids) =>
      let rs := ids.filterMap s.findReq
      let p : Payload := { mem := s.mem, base := pa + 64, size := 64 * hdrPlen s.mem pa }
      let args := rs.map fun r => ((r.parts.map Part.opr).headD 0)
      match (if residue then none else
          Wave.run p rs.length (Sparse.get [] o.methods m) 0 false (Wave.start m args)) with
      | none => t.abortWave pa m ids residue
      | some w =>
        ((List.range rs.length).zip rs).foldl (fun t q => t.answer q.2 stOK ((Sparse.get none w.out q.1).getD 0)) (t.commitWave pa w)

/-- COMBINER_WAVE_END (R173, R175); `residue` says that a residue mismatch recurred at its replay. -/
def execCombinerWaveEnd (slice : Nat) (residue : Bool) (s : State) : Host.Outcome State Fault Refusal :=
  .next (s.waveEnd slice residue)

/-! ## COBJ (R169 to R173, R370 to R373) -/

/-- A load of an instruction that acts once, as the order of accesses sees it (R185, R370). -/
def State.onceLoad (s : State) (x : Issue) (a : LaneAcc) (len : Nat) : Req :=
  { Req.plain .load a.home len with
    ctx := s.ctxOf x, core := x.core, block := x.block, warp := x.warp, uid := (s.warp x.core x.warp).uid, slices := x.mask, pc := x.pc
    opw := x.opw, va := a.va, n := 2, sprd := 0, pol := 0 }

/-- The outcome of a single check as an act. -/
def State.checkStop (s : State) (x : Issue) : Chk → Option Act
  | .fault code fva => some (x.fault code fva)
  | .absent va => some (.miss (s.queueMiss x.core x.who (s.ctxOf x) (s.regionOf x).asn va))
  | .ok _ => none

/-- The leaf that a core's or its slice's TLB holds for an address, and the physical address. -/
def State.cachedPage (s : State) (c : Nat) (r : Region) (va : DWord) : Option (DWord × Nat) :=
  match tlbFind (s.core c).tlb r.asn va.toNat with
  | some e => some (e.leaf, e.pa va.toNat)
  | none => (tlbFind (Sparse.get [] s.fab.stlb (tlbSlice c va.toNat)) r.asn va.toNat).map fun e => (e.leaf, e.pa va.toNat)

/-- The 8 dwords of a COBJ.INIT image. -/
def Core.objImage (k : Core) (ofs : Nat) : List DWord := (List.range 8).map fun i => BitVec.ofNat 64 (k.scrNat (ofs + 8 * i) 8)

/-- Whether an image is malformed (R371). Bits [63:57] of its dword 2 are no ground: MBASE takes bits [56:0] (DESIGN CHOICE, log 127). -/
def objMalformed (d : List DWord) : Bool :=
  let d0 := d.getD 0 0
  let nm := fieldN d0 56 5
  fieldN d0 61 3 ≠ 0 || fieldN d0 39 17 ≠ 0 || fieldN d0 0 32 ≠ 0 || d.getD 1 0 ≠ 0 || d.getD 7 0 ≠ 0 || nm = 0 || 16 < nm
    || 64 < fieldN d0 32 7 || (d.getD 2 0).toNat % 8 ≠ 0
    || (List.range 16).any fun n => nm ≤ n && fieldN (d.getD (3 + n / 4) 0) (16 * (n % 4)) 16 ≠ 0

/-- The status of a COBJ.INIT: 2 before 4, and 4 before 1 (R169). -/
def State.initStatus (s : State) (pa : Nat) (place : Bool) (d : List DWord) : Nat :=
  if place || 65536 < pa % 65536 + 64 + 64 * fieldN (d.getD 0 0) 32 7 then 2
  else if objMalformed d then 4
  else if (s.obj pa).active then 1
  else 0

/-- The object that an accepted INIT writes (R169, R371). -/
def State.initObj (s : State) (leaf : DWord) (pa : Nat) (d : List DWord) : State :=
  let d0 := d.getD 0 0
  let hdr := [BitVec.ofNat 64 (2 ^ 63 + fieldN d0 56 5 * 2 ^ 56 + fieldN d0 32 7 * 2 ^ 32), 0, d.getD 2 0 &&& 0x1FFFFFFFFFFFFFF,
    d.getD 3 0, d.getD 4 0, d.getD 5 0, d.getD 6 0, 0]
  (s.objWrite pa (eMir leaf) pa ((hdr.flatMap fun q => leBytes 8 q.toNat) ++ List.replicate (64 * fieldN d0 32 7) 0)).modObj pa fun _ =>
    CObj.none

/-- COBJ.INIT (R169, R371), a release at device scope. -/
def execCobjInit (f : FmtS) (s : State) : Host.Outcome State Fault Refusal :=
  s.issueOnce (.cobjInit f) fun x t =>
    let r := t.rfOf x
    let va := r.read2 f.a x.low
    let img := r.read1 (f.a + 2) x.low
    let ofs := fieldN img 0 24
    let k := t.core x.core
    if 2 ^ 57 ≤ va.toNat then x.fault cPF va
    else if va.toNat % 64 ≠ 0 then x.fault cAL va
    else
      match t.translate x.core x.who (t.regionOf x) va .read with
      | .miss => .miss (t.queueMiss x.core x.who (t.ctxOf x) (t.regionOf x).asn va)
      | _ =>
        match t.cachedPage x.core (t.regionOf x) va with
        | none => x.fault cPF va
        | some (leaf, pa) =>
          let place := eLoc leaf != 0 || !bitAt leaf 2 || !bitAt leaf 3 || eCrypt leaf == 2
          match (if place then none else t.leafFault (t.regionOf x) leaf pa .update) with
          | some code => x.fault code va
          | none =>
            if !k.ownScr img 64 then x.fault cPF (img.setWidth 64)
            else if ofs % 16 ≠ 0 then x.fault cAL (img.setWidth 64)
            else if t.busyBefore x || t.coreTracks x.core || (t.obj pa).wave.isSome then .wait
            else
              let t := t.meetScr x.core ofs 64
              match t.poisonIn x ofs 64 with
              | some row => t.rowMc x x.low row
              | none =>
                let d := (t.core x.core).objImage ofs
                let st := t.initStatus pa place d
                let t := if st = 0 then t.initObj leaf pa d else t
                .done ((x.settled t).putOnce x 1 f.d (BitVec.ofNat 64 st))

/-- A word of a method read through the region's translation (R372); what fails is nothing, or the address whose translation is not
cached. -/
def State.methodWord (s : State) (x : Issue) (va : Nat) : Except (Option DWord) DWord :=
  if va % 8 ≠ 0 ∨ 2 ^ 57 ≤ va then .error none
  else
    match s.translate x.core x.who (s.regionOf x) (BitVec.ofNat 64 va) .read with
    | .ok leaf pa => if s.mem.poisoned (eLoc leaf) pa 8 then .error none else .ok (BitVec.ofNat 64 (s.readGlobal (eLoc leaf) pa 8))
    | .fault _ => .error none
    | .miss => .error (some (BitVec.ofNat 64 va))

/-- Whether an instruction ends a method. -/
def endsMethod : Instr → Bool
  | .exit f => f.gd == 7
  | _ => false

/-- The words of a method up to its first unguarded EXIT, each with the word that follows it in its instruction; nothing where R171
refuses it. At most 256 instructions precede the EXIT. -/
def State.methodWords (s : State) (x : Issue) : Nat → Nat → Except (Option DWord) (List (DWord × DWord))
  | 0, _ => .error none
  | n + 1, va =>
    match s.methodWord x va with
    | .error e => .error e
    | .ok w =>
      match (if bitAt w 63 then s.methodWord x (va + 8) else .ok 0) with
      | .error e => .error e
      | .ok e =>
        match decode .wave w e with
        | .error _ => .error none
        | .ok i =>
          let here := if bitAt w 63 then [(w, e), (e, 0)] else [(w, e)]
          if endsMethod i then .ok here
          else
            match s.methodWords x n (va + if bitAt w 63 then 16 else 8) with
            | .error e => .error e
            | .ok rest => .ok (here ++ rest)

/-- Whether every branch of a method stays within it (R171); `last` is the word of its EXIT. -/
def branchesOk (last : Nat) : List (DWord × DWord) → Nat → Bool → Bool
  | [], _, _ => true
  | _ :: rest, pos, true => branchesOk last rest (pos + 1) false
  | e :: rest, pos, false =>
    (match decode .wave e.1 e.2 with
      | .ok (.bra f) => decide (pos + f.t20.toNat ≤ last)
      | _ => true) && branchesOk last rest (pos + 1) (bitAt e.1 63)

/-- A method as ARM takes it, or nothing where it is refused. -/
def State.takeMethod (s : State) (x : Issue) (va : Nat) : Except (Option DWord) (List (DWord × DWord)) :=
  match s.methodWords x 257 va with
  | .error e => .error e
  | .ok ws => if branchesOk (ws.length - 1) ws 0 false then .ok ws else .error none

/-- The valid methods of a header: taken, or the number of the first that is refused or awaits a translation. -/
def State.takeMethods (s : State) (x : Issue) (pa : Nat) : Except (Nat × Option DWord) (Sparse (List (DWord × DWord))) :=
  ((List.range 16).filter fun n => n < hdrNmeth s.mem pa).foldl (fun acc n =>
    match acc, hdrEntry s.mem pa n with
    | .ok m, some first =>
      (match s.takeMethod x (hdrMbase s.mem pa + 8 * first) with
        | .ok ws => .ok (Sparse.set [] m n ws)
        | .error e => .error (n, e))
    | acc, _ => acc) (.ok [])

/-- COBJ.ARM (R169, R372), a release at device scope: it waits while a wave of the object runs. -/
def execCobjArm (f : FmtS) (s : State) : Host.Outcome State Fault Refusal :=
  s.issueOnce (.cobjArm f) fun x t =>
    let va := (t.rfOf x).read2 f.a x.low
    match t.checkHeader x .update x.low va with
    | .ok a =>
      let pa := a.home.addr
      if t.busyBefore x || t.coreTracks x.core || (t.obj pa).wave.isSome then .wait
      else if !hdrVld t.mem pa ∨ eCrypt a.leaf = 2 then .done ((x.settled t).putOnce x 1 f.d 1)
      else
        match t.takeMethods x pa with
        | .error (_, some va) => .miss (t.queueMiss x.core x.who (t.ctxOf x) (t.regionOf x).asn va)
        | .error (n, none) => .done ((x.settled t).putOnce x 1 f.d (BitVec.ofNat 64 (3 + 256 * n)))
        | .ok ms =>
          let d0 := setBit (setBit (t.mem.dword pa) 61 true) 62 false
          let t := t.objWrite pa (eMir a.leaf) pa (leBytes 8 d0.toNat)
          let t := t.modObj pa fun o =>
            { o with armed := true, methods := ms, armRcb := (t.ctx (t.ctxOf x)).rcb, armVa := va, mir := eMir a.leaf }
          .done ((x.settled t).putOnce x 1 f.d 0)
    | c => (t.checkStop x c).getD .wait

/-- COBJ.QUERY (R373), a relaxed load; a header that no slice holds can be poisoned memory. -/
def execCobjQuery (f : FmtS) (s : State) : Host.Outcome State Fault Refusal :=
  s.issueOnce (.cobjQuery f) fun x t =>
    let va := (t.rfOf x).read2 f.a x.low
    match t.checkHeader x .read x.low va with
    | .ok a =>
      let pa := a.home.addr
      if (t.orderAfter (t.onceLoad x a 16)).any t.awaited || (t.obj pa).wave.isSome then .wait
      else if t.mem.poisoned 0 pa 16 ∧ !(t.obj pa).armed then .check t (storageMc x.low false (BitVec.ofNat 64 (3 * 2 ^ 21)))
      else if isGz f.d then .done (x.settled t)
      else
        let d0 := if eCrypt a.leaf = 2 then setBit (t.mem.dword pa) 63 false else t.mem.dword pa
        .done (((x.settled t).putOnce x 2 f.d d0).putOnce x 2 (f.d + 2) (t.mem.dword (pa + 8)))
    | c => (t.checkStop x c).getD .wait

end Sys2Proof.Machine
end

