-- ==== Sys2Proof/Machine/Control.lean ====
section
/-!
DEFINITION. Control transfer (spec/20 R380 to R385; spec/11 R212 to R214) and sequencer control (R211, R386).
-/

namespace Sys2Proof.Machine

/-! ## Targets -/

/-- An address a signed number of words from an instruction (R380). -/
def wordsFrom {w : Nat} (pc : DWord) (t : BitVec w) : DWord := pc + 8 * t.signExtend 64

/-- The acting lanes of a slice, as its mask's bits. -/
def laneMask (acting : List Nat) (j : Nat) : BitVec 4 := maskOf 4 ((acting.filter fun l => l / 4 == j).map (· % 4))

/-- The fall-through of every slice of a gang. -/
def Issue.fallThrough (x : Issue) : List (Nat × DWord) := x.slices.map fun j => (j, x.next)

/-! ## BRA (R213, R381) -/

/-- Whether a slice's branch raises BD: its active lanes disagree and there is no join, or eight entries are stacked. -/
def branchBad (f : FmtC) (x : Slice) (t : BitVec 4) : Bool := t ≠ 0 && t ≠ x.mask && (f.j20 == 0 || 8 ≤ x.stack.length)

/-- A slice at a branch: disagreeing lanes are pushed (R213). -/
def Slice.diverge (x : Slice) (f : FmtC) (pc next : DWord) (t : BitVec 4) : Slice :=
  if t = 0 ∨ t = x.mask then x
  else { x with stack := { join := wordsFrom pc f.j20 &&& 0x1FFFFFFFFFFFFFF, m := x.mask, ppc := next, pend := x.mask &&& ~~~ t } :: x.stack, mask := t }

/-- BRA of a gang. -/
def State.branch (s : State) (x : Issue) (f : FmtC) : Act :=
  let w := s.warp x.core x.warp
  let bad := x.slices.filter fun j => branchBad f (w.slice j) (laneMask x.acting j)
  if !bad.isEmpty then .fault bad cBD 0
  else
    let s := s.modWarp x.core x.warp fun w => x.slices.foldl (fun w j =>
      w.modSlice j fun y => y.diverge f x.pc x.next (laneMask x.acting j)) w
    .go s (x.slices.map fun j => (j, if laneMask x.acting j = 0 then x.next else wordsFrom x.pc f.t20))

/-- BRA (R381): in a sequencer it goes to its target. -/
def execBra (f : FmtC) (s : State) : Host.Outcome State Fault Refusal :=
  s.issue (.bra f) (fun x t => t.branch x f) (fun x t => .go t [(0, wordsFrom x.pc f.t20)])

/-! ## BRX, CALL, RET (R382) -/

/-- The 57-bit address of the pair L in a lane. -/
def RF.target (r : RF) (l : BitVec 8) (lane : Nat) : DWord := r.read2 l lane &&& 0x1FFFFFFFFFFFFFF

/-- Whether a slice-uniform instruction raises BD in a slice: its active lanes disagree on the guard, or its acting lanes name
different addresses. -/
def nonUniform (w : Warp) (acting : List Nat) (tgt : Nat → DWord) (j : Nat) : Bool :=
  let ls := acting.filter fun l => l / 4 == j
  !ls.isEmpty && (laneMask acting j != (w.slice j).mask || ls.any fun l => tgt l != tgt (ls.headD 0))

/-- A slice-uniform transfer: to the address that a slice's lanes name, or on. -/
def State.transfer (s : State) (x : Issue) (tgt : Nat → DWord) (eff : State → State) : Act :=
  let bad := x.slices.filter (nonUniform (s.warp x.core x.warp) x.acting tgt)
  if !bad.isEmpty then .fault bad cBD 0
  else .go (eff s) (x.slices.map fun j =>
    (j, match x.acting.find? fun l => l / 4 == j with
      | some l => tgt l
      | none => x.next))

/-- BRX (R382). -/
def execBrx (f : FmtC) (s : State) : Host.Outcome State Fault Refusal :=
  s.issue (.brx f)
    (fun x t => t.transfer x ((t.warp x.core x.warp).rf.target f.l) id)
    (fun x t => .go t [(0, (t.rfOf x).target f.l 0)])

/-- Where a CALL goes in a lane: its target, or the address in L. -/
def callTarget (f : FmtC) (r : RF) (pc : DWord) (lane : Nat) : DWord :=
  if f.t20 = 0 then r.target f.l lane else wordsFrom pc f.t20

/-- The return address written to L (R382). -/
def State.link (s : State) (x : Issue) (f : FmtC) : State :=
  s.setRfOf x ((s.rfOf x).writeLanes 2 f.l x.acting fun _ => x.pc + 8)

/-- CALL (R382): L is read before it is written. -/
def execCall (f : FmtC) (s : State) : Host.Outcome State Fault Refusal :=
  s.issue (.call f)
    (fun x t => t.transfer x (callTarget f (t.warp x.core x.warp).rf x.pc) fun t => t.link x f)
    (fun x t => .go (t.link x f) [(0, callTarget f (t.rfOf x) x.pc 0)])

/-- RET (R382). -/
def execRet (f : FmtC) (s : State) : Host.Outcome State Fault Refusal :=
  s.issue (.ret f)
    (fun x t => t.transfer x ((t.warp x.core x.warp).rf.target f.l) id)
    (fun x t => .go t [(0, (t.rfOf x).target f.l 0)])

/-! ## SEQEND (R211, R386) and EXIT (R213, R383) -/

/-- Whether a job that a matrix stream accepted has not completed. -/
def Core.jobsOf (k : Core) (b : Nat) : Bool := k.jobs.any fun j => j.block == b

/-- SEQEND: the sequencer becomes idle once every job that a matrix stream has accepted has completed; then its task may
retire (R207). An XSTART or XTSET of a copy stream has been accepted before the stream goes on. -/
def State.seqEnd (s : State) (x : Issue) : Act :=
  if !x.cp && (s.core x.core).jobsOf x.block then .wait
  else .miss ((s.setSeq x.core x.block x.cp
    { (s.core x.core).seq x.block x.cp with st := .exited, pc := x.next, park := .none, tok := none }).retire x.core x.block)

/-- SEQEND (R386). -/
def execSeqend (f : FmtS) (s : State) : Host.Outcome State Fault Refusal := s.issueStream (.seqend f) fun x t => t.seqEnd x

/-- A slice whose lanes `t` execute EXIT (R213). -/
def Slice.endLanes (x : Slice) (t : BitVec 4) : Slice :=
  { x with mask := x.mask &&& ~~~ t, stack := x.stack.map fun e => { e with m := e.m &&& ~~~ t } }

/-- EXIT of a gang: lanes end; arrivals at barriers that waited only for slices which now have exited take effect (R374). -/
def State.exitLanes (s : State) (x : Issue) : Act :=
  let s := s.modWarp x.core x.warp fun w => x.slices.foldl (fun w j => w.modSlice j fun y => y.endLanes (laneMask x.acting j)) w
  let w := s.warp x.core x.warp
  let left := maskOf 8 ((List.range 8).filter fun j =>
    if x.slices.contains j then ((w.slice j).goto x.next).st != .exited else (w.slice j).st != .exited)
  .go (s.modCore x.core fun k => k.modBars x.block fun b => b.take x.warp left) x.fallThrough

/-- EXIT (R383); in a sequencer it acts as SEQEND (R380). -/
def execExit (f : FmtC) (s : State) : Host.Outcome State Fault Refusal :=
  s.issue (.exit f) (fun x t => t.exitLanes x) (fun x t => t.seqEnd x)

/-! ## REGANG (R214, R384), BRKPT and NOP (R385) -/

/-- Whether a slice waits at a REGANG with an address and a mask. -/
def Slice.atRegang (x : Slice) (pc : DWord) (m : BitVec 8) : Bool :=
  x.st == .parked && x.park == .regang && x.pc == pc && x.rgMask == m

/-- Whether a slice waits at any REGANG. -/
def Slice.regangs (x : Slice) : Bool := x.st == .parked && x.park == .regang

/-- Slices wait at a REGANG. -/
def State.waitRegang (s : State) (x : Issue) (m : BitVec 8) : State :=
  let s := if x.again then s else s.park x x.slices .regang
  s.modWarp x.core x.warp fun w => x.slices.foldl (fun w j => w.modSlice j fun y => { y with rgMask := m, ready := false }) w

/-- Whether slices enter a REGANG: they arrive there, or a restore has put them back to it (R384). -/
def State.entersRegang (s : State) (x : Issue) : Bool := !x.again || x.slices.any fun j => ((s.warp x.core x.warp).slice j).ready

/-- REGANG: on entry a slice not in its mask, or one that meets a different REGANG, raises GM; the others wait until every slice of the
mask waits there or has exited, and then form one gang at the next instruction. -/
def State.regang (s : State) (x : Issue) (m : BitVec 8) : Act :=
  let w := s.warp x.core x.warp
  let out := x.slices.filter fun j => !bitAt m j
  if !out.isEmpty then .fault out cGM 0
  else if s.entersRegang x && (List.range 8).any fun j => bitAt m j && (w.slice j).regangs && !(w.slice j).atRegang x.pc m then .fault x.slices cGM 0
  else
    let others := (List.range 8).filter fun j => bitAt m j && !x.slices.contains j && (w.slice j).st != .exited
    if others.all fun j => (w.slice j).atRegang x.pc m then
      let all := (List.range 8).filter fun j => x.slices.contains j || others.contains j
      let s := if x.again then s else s.account x.core x.warp w.pmsel
      .miss (s.advance x.core x.warp all (all.map fun j => (j, x.next)) true)
    else .go (s.waitRegang x m) []

/-- REGANG (R384). -/
def execRegang (f : FmtC) (s : State) : Host.Outcome State Fault Refusal :=
  s.issue (.regang f) (fun x t => t.regang x f.l) (fun _ _ => .wait)

/-- BRKPT (R385): TP in every slice that acts, or in the sequencer. -/
def execBrkpt (f : FmtC) (s : State) : Host.Outcome State Fault Refusal :=
  s.issueOnce (.brkpt f) fun x _ => x.fault cTP (f.l.setWidth 64)

/-- NOP (R385). -/
def execNop (f : FmtC) (s : State) : Host.Outcome State Fault Refusal := s.issue (.nop f) (fun _ t => .done t) (fun _ t => .done t)

/-! ## FORK and RDV (R211, R386) -/

/-- The sequencer that a FORK or an RDV names. -/
def seqNamed (f : FmtS) : Bool := bitAt f.sel 0

/-- Where a forked stream starts. -/
def forkStart (f : FmtS) (r : RF) (pc : DWord) : DWord :=
  if isGz f.a then wordsFrom pc f.imm16 else r.target f.a 0

/-- A sequencer started: k0 to k15 of the warp become q0 to q15 (R142, R211). -/
def Seq.startAt (q : Seq) (r : RF) (pc : DWord) : Seq :=
  { q with
    st := .running, pc := pc &&& 0x1FFFFFFFFFFFFFF, park := .none, code := 0, fva := 0, opw := 0, tok := none, ready := false
    rf := (List.range 16).foldl (fun t n => t.writeK n (r.readK n)) q.rf }

/-- FORK (R211, R386): a release at block scope; while the sequencer is busy the acting slices are parked. -/
def execFork (f : FmtS) (s : State) : Host.Outcome State Fault Refusal :=
  s.issueLane (.fork f) fun x t =>
    if x.acting.isEmpty then .done t
    else
      let cp := seqNamed f
      let q := (t.core x.core).seq x.block cp
      let r := (t.warp x.core x.warp).rf
      let sls := actingSlices x.acting x.slices
      if q.st = .exited then
        .done ((t.setSeq x.core x.block cp (q.startAt r (forkStart f r x.pc))).trackSlices x.core x.warp x.mask)
      else if x.again then .wait
      else .go (t.park x sls .fork) ((x.slices.filter fun j => !sls.contains j).map fun j => (j, x.next))

/-- RDV (R211, R386). -/
def execRdv (f : FmtS) (s : State) : Host.Outcome State Fault Refusal :=
  s.issueLane (.rdv f) fun x t =>
    if x.acting.isEmpty then .done t
    else if ((t.core x.core).seq x.block (seqNamed f)).st = .exited then .done t else .wait

end Sys2Proof.Machine
end

