-- ==== Sys2Proof/Machine/Sched.lean ====
section
/-!
DEFINITION. The scheduler cores and the queues (spec/12 R218 to R228): the Xdisp instructions, the command records that the
service firmware executes, the slot registers and the kicks.
-/

namespace Sys2Proof.Machine

/-! ## Slots and queue control blocks (R218, R219) -/

def State.qslot (s : State) (n : Nat) : QSlot := Sparse.get QSlot.empty s.io.qslots n
def State.modQslot (s : State) (n : Nat) (f : QSlot → QSlot) : State :=
  { s with io := { s.io with qslots := Sparse.modify QSlot.empty s.io.qslots n f } }

/-- The physical address of a slot's QCB. -/
def QSlot.pa (q : QSlot) : Nat := 64 * q.qcba

/-- A dword of a slot's QCB. -/
def State.qcb (s : State) (n i : Nat) : DWord := s.seenSched.dword ((s.qslot n).pa + 8 * i)

/-- The region that owns a slot's queue, by the address of its RCB, as the QCB named it when the slot was mapped (R219). -/
def State.qcbRegion (s : State) (n : Nat) : Nat := (s.qslot n).rcb

/-- Whether a slot's QCB lies outside local HBM (R223). -/
def State.qcbOut (s : State) (n : Nat) : Bool := decide (Config.hbmBytes < (s.qslot n).pa + 64)

/-- The slots of a scheduler core (R219). -/
def coreSlots (c : Nat) : List Nat := (List.range 4).map (4 * c + ·)

/-- Whether a slot's ring holds a record (R218). -/
def State.ringHolds (s : State) (n : Nat) : Bool :=
  let d := s.qcb n 2
  let left := (d.toNat % 2 ^ 32 + 2 ^ 32 - fieldN d 32 32) % 2 ^ 32
  1 ≤ left && left ≤ 2 ^ fieldN (s.qcb n 1) 32 8

/-- A ready slot (R221). -/
def State.slotReady (s : State) (n : Nat) : Bool := (s.qslot n).map && s.ringHolds n

/-- The effective priority of a slot (R221). -/
def QSlot.rank (q : QSlot) : Nat := min 255 (q.prio + q.age / 16)

/-- The slot that a dispatch decision of a core chooses (R221). -/
def State.chosenSlot (s : State) (c : Nat) : Option Nat :=
  ((coreSlots c).filter s.slotReady).foldl (fun best n =>
    match best with
    | none => some n
    | some m => if (s.qslot m).rank < (s.qslot n).rank then some n else best) none

/-- The ages after a decision (R221). -/
def State.ageSlots (s : State) (c chosen : Nat) : State :=
  ((coreSlots c).filter fun n => s.slotReady n && n != chosen).foldl
    (fun t n => t.modQslot n fun q => { q with age := min 4095 (q.age + 1) }) (s.modQslot chosen fun q => { q with age := 0 })

/-! ## Translation for the I/O die: a walk of a region's tables at once -/

/-- Whether a function-level reset of a region's function runs: its inbound requests are closed, and none of its memory can be reached (R259;
log 112). -/
def State.closing (s : State) (r : Region) : Bool :=
  s.io.flrBusy && r.live && (Sparse.get Root.none s.mon.roots r.root).fn == s.io.flrFn

def State.resetting (s : State) (rcb : Nat) : Bool := s.closing (s.region rcb)

/-- An access of the I/O die on behalf of a region: the leaf and the physical address, or nothing where it fails. -/
def State.ioLeaf (s : State) (r : Region) (va : Nat) (w : Want) : Option (DWord × Nat) :=
  if 2 ^ 57 ≤ va || s.closing r then none
  else
    match s.seen.walk r.troot va with
    | none => none
    | some (leaf, log) =>
      let pa := ePA leaf + va % 2 ^ log
      match s.leafFault r leaf pa w with
      | some _ => none
      | none => some (leaf, pa)

/-- What a granule at a peer or the host has answered to an agent of the I/O die, without poison. -/
def State.ioGot (s : State) (who : Nat) (h : Home) : Option (BitVec 128) :=
  match s.io.got.find? fun p => p.1 == who && p.2.1 == h.granule with
  | some (_, _, v, pois) => if pois then none else some v
  | none => none

/-- A little-endian number of `n` bytes at a virtual address, naturally aligned, that an agent of the I/O die reads: in local HBM at once, from
a peer or the host what has come back on a link. -/
def State.ioRead (s : State) (who : Nat) (r : Region) (va n : Nat) : Option Nat :=
  if va % n ≠ 0 then none
  else
    match s.ioLeaf r va .read with
    | none => none
    | some (leaf, pa) =>
      if eLoc leaf = 0 then (if s.seenSched.poisoned 0 pa n then none else some (s.seenSched.readNat 0 pa n))
      else (s.ioGot who ⟨eLoc leaf, 0, pa⟩).map fun v => v.toNat / 2 ^ (8 * (pa % 16)) % 2 ^ (8 * n)

/-- Eight dwords at a virtual address that is a multiple of 8. -/
def State.ioDwords (s : State) (who : Nat) (r : Region) (va : Nat) : Option (List DWord) :=
  (List.range 8).foldr (fun i acc =>
    match acc, s.ioRead who r (va + 8 * i) 8 with
    | some l, some d => some (BitVec.ofNat 64 d :: l)
    | _, _ => none) (some [])

/-- The agent of the I/O die that serves a launch or a service call, by its id; 64 is the monitor's own mailbox command, a slot's firmware has
the slot's number. -/
def agentOf (id : Nat) : Nat := 65 + id

/-- The eight dwords as reads. -/
def dwordsAt (va : Nat) : List (Nat × Nat) := (List.range 8).map fun i => (va + 8 * i, 8)

/-- The remote granules among reads that have not come back, each with its leaf. -/
def State.ioUnread (s : State) (who : Nat) (r : Region) (ws : List (Nat × Nat)) : List (Home × DWord) :=
  ws.foldr (fun w acc =>
    match s.ioLeaf r w.1 .read with
    | none => acc
    | some (leaf, pa) =>
      let h : Home := ⟨eLoc leaf, 0, pa / 16 * 16⟩
      if h.remote && !(acc.any fun p => p.1 == h) && !(s.io.got.any fun p => p.1 == who && p.2.1 == h.granule) then (h, leaf) :: acc else acc) []

/-- Whether a read of a granule is on its way for an agent of the I/O die. -/
def State.ioAsked (s : State) (who : Nat) (h : Home) : Bool :=
  s.fab.reqs.any fun q => q.core == Config.numCores && !q.done && q.kind == .load && q.copy == some (who, h.granule)

/-- The read of a granule sent, unless it is on its way (R267). -/
def State.ioAsk (s : State) (who ctx : Nat) (p : Home × DWord) : State :=
  if s.ioAsked who p.1 then s
  else s.ioSend { Req.plain .load p.1 16 with
    ctx := ctx, sa := eSA p.2, crypt := eCrypt p.2, key := eKey p.2, copy := some (who, p.1.granule) }

/-- A request of the I/O die whose data no agent awaits any more. -/
def Req.unawaited (q : Req) (who : Nat) : Req :=
  if q.core = Config.numCores ∧ q.copy.map Prod.fst = some who then { q with copy := none } else q

/-- An agent of the I/O die is done with what it read on a link. -/
def State.forget (s : State) (who : Nat) : State :=
  if (s.io.got.any fun p => p.1 == who) || s.fab.reqs.any fun q => q.core == Config.numCores && q.copy.map Prod.fst == some who then
    { s with
      io := { s.io with got := s.io.got.filter fun p => p.1 != who }
      fab := { s.fab with reqs := s.fab.reqs.map fun q => q.unawaited who } }
  else s

/-- The entries and the data that reads find closed are counted (R244). -/
def State.ioDenied (s : State) (r : Region) (ws : List (Nat × Nat)) : State :=
  if s.openMem then s
  else ws.foldl (fun t w =>
    let t := t.walkDenied r.troot w.1
    match t.ioLeaf r w.1 .read with
    | some (leaf, pa) => if eLoc leaf = 0 then t.denySched pa w.2 else t
    | none => t) s

/-- An effect of an agent of the I/O die that reads bytes of a region: what of them a peer or the host holds is read on a link before
(R253, R267; DEDUCED, log 141). -/
def State.withRead (s : State) (who : Nat) (r : Region) (ws : List (Nat × Nat)) (f : State → State) : State :=
  match s.ioUnread who r ws with
  | [] => (f (s.ioDenied r ws)).forget who
  | gs => gs.foldl (fun t p => t.ioAsk who r.ctx p) s

/-! ## The Xdisp instructions -/

/-- The scheduler core that issues now. -/
def State.onSched (s : State) (f : Nat → State) : Host.Outcome State Fault Refusal :=
  match s.cur with
  | .sched c => .next (f c)
  | .gang _ _ _ | .seq _ _ _ | .quarter _ _ | .engine _ | .none => .refused .noIssuer

/-- A record handed over: the decision's ages, RI, the doorbell, the command window (R224). -/
def State.fetchRecord (s : State) (c : Nat) (rd : BitVec 5) (n ri : Nat) (rec : List DWord) : State :=
  let s := s.ageSlots c n
  let s := s.writeMem 0 ((s.qslot n).pa + 20) (leBytes 4 (ri + 1))
  let s := s.modQslot n fun q => { q with dbl := false, recs := q.recs ++ [(BitVec.ofNat 32 ri, rec)] }
  let s := s.modSched c fun k => { k with win := rec }
  s.dropPeerReads.schedDone c rd (BitVec.ofNat 64 n)

/-- RFETCH (R224): one dispatch decision. A non-zero reserved field of the QCB is not looked at (DESIGN CHOICE, log 99). The record is the
firmware's from now on, behind those of the slot that it has not finished. -/
def execRfetch (rd : BitVec 5) (s : State) : Host.Outcome State Fault Refusal :=
  s.onSched fun c =>
    if (coreSlots c).any fun n => (s.qslot n).map && s.qcbOut n then s.schedTrap c 24
    else
      match s.chosenSlot c with
      | none => s.schedDone c rd (BitVec.allOnes 64)
      | some n =>
        let ri := fieldN (s.qcb n 2) 32 32
        let ring := fieldN (s.qcb n 0) 0 57
        let rcb := s.qcbRegion n
        let va := ring + 64 * (ri % 2 ^ fieldN (s.qcb n 1) 32 8)
        if ring % 64 ≠ 0 then s.schedTrap c 24
        else s.withRead n (s.region rcb) (dwordsAt va) fun s =>
          match s.ioDwords n (s.region rcb) va with
          | none => s.schedTrap c 24
          | some rec => s.fetchRecord c rd n ri rec

/-- The field that BFX extracts (R225), or nothing where it raises XFIELD. -/
def bfxField (a b : DWord) : Option DWord :=
  let lo := fieldN b 0 6
  let w := fieldN b 8 6
  if w = 0 ∨ 64 < lo + w then none else some (BitVec.ofNat 64 (a.toNat / 2 ^ lo % 2 ^ w))

/-- BFX (R225). -/
def execBfx (rd rs1 rs2 : BitVec 5) (s : State) : Host.Outcome State Fault Refusal :=
  s.onSched fun c =>
    let k := s.schedCore c
    match bfxField (k.read rs1) (k.read rs2) with
    | none => s.schedTrap c 25
    | some v => s.schedDone c rd v

/-- The wake sources that are asserted for a core (R226). -/
def State.wakeSources (s : State) (c : Nat) : BitVec 4 :=
  maskOf 4 ((if s.io.pendArr.isEmpty then [] else [0]) ++ (if (coreSlots c).any s.slotReady then [1] else [])
    ++ (if (coreSlots c).any fun n => (s.qslot n).dbl then [2] else []) ++ (if s.io.fwmq.isEmpty then [] else [3]))

/-- SWAIT (R226): the core sleeps until a selected source is asserted. -/
def execSwait (rd rs1 : BitVec 5) (s : State) : Host.Outcome State Fault Refusal :=
  s.onSched fun c =>
    let m := (s.schedCore c).read rs1
    if m = 0 ∨ 16 ≤ m.toNat then s.schedTrap c 26
    else
      let hit := m.setWidth 4 &&& s.wakeSources c
      if hit = 0 then s.modSched c fun k => { k with asleep := true } else s.schedDone c rd (hit.setWidth 64)

/-- What an attempt to submit a launch answers. -/
inductive Submit where
  | accepted (s : State)
  | full
  | dead
  | xaddr
  deriving DecidableEq, Repr

/-- Whether the budget of a region or of one above it is reached (R201); `fuel` bounds its depth. -/
def State.heldBy (s : State) : Nat → Nat → Bool
  | 0, _ => false
  | fuel + 1, rcb => (s.region rcb).preempted || ((s.region rcb).parent != 0 && s.heldBy fuel (s.region rcb).parent)

/-- Whether a region is pre-empted for budget (R201, R227). -/
def State.overBudget (s : State) (rcb : Nat) : Bool := s.heldBy (s.regions.length + 1) rcb

/-- Whether a region is held pre-empted: for budget, or because its root's held usage records have reached 64 (R262). -/
def State.held (s : State) (rcb : Nat) : Bool :=
  s.overBudget rcb || (Sparse.get Root.none s.mon.roots (s.region rcb).root).full

/-- A launch taken in for a live region (R227), by the agent `who` of the I/O die: the descriptor's argument pointer moved by `move`
(LAUNCHN). Whether placement is full is open (log 9). That a descriptor is a multiple of 8 bytes, and that a signal word is written where SIG
points whatever its alignment and whatever LTAG, is the model's choice (DESIGN CHOICE, log 133). -/
def State.takeLaunch (s : State) (who rcb va move : Nat) : Submit :=
  let r := s.region rcb
  if !r.live || s.resetting rcb then .dead
  else
    match (if va % 8 = 0 then s.ioDwords who r va else none) with
    | none => .xaddr
    | some d =>
      match s.ioLeaf r (fieldN (d.getD 2 0) 0 57) .write with
      | none => .xaddr
      | some (leaf, pa) =>
        if Config.placementFull s.freeCtr then .full
        else
          let (id, s) := s.fresh
          let d3 := d.getD 3 0
          let d := d.set 3 (if move = 0 then d3 else d3 + BitVec.ofNat 64 move)
          let l : Launch :=
            { ctx := r.ctx, rcb := rcb, d := d, stages := [], phase := 0, counter := 1, retired := 0, nextNum := 1,
              triggered := false, sigLeaf := leaf, sigPa := pa, queues := [] }
          .accepted ({ s with launches := Sparse.set Launch.none s.launches id l }.modRegion rcb fun r =>
            { r with tags := (id :: r.tags).take 256 })

/-- A launch submitted for a region (R227): one that is pre-empted for budget takes none. -/
def State.submit (s : State) (who rcb va move : Nat) : Submit := if s.overBudget rcb then .dead else s.takeLaunch who rcb va move

/-- DISP (R227). -/
def execDisp (rd rs1 rs2 : BitVec 5) (s : State) : Host.Outcome State Fault Refusal :=
  s.onSched fun c =>
    let k := s.schedCore c
    let n := (k.read rs2).toNat
    if 64 ≤ n ∨ n / 4 ≠ c ∨ !(s.qslot n).map then s.schedTrap c 27
    else if s.qcbOut n then s.schedTrap c 24
    else
      s.withRead n (s.region (s.qcbRegion n)) (dwordsAt (k.read rs1).toNat) fun s =>
        match s.submit n (s.qcbRegion n) (k.read rs1).toNat 0 with
        | .xaddr => s.schedTrap c 24
        | .dead => s.schedDone c rd 2
        | .full => s.bump.schedDone c rd 1
        | .accepted t => t.bump.schedDone c rd 0

/-! ## Command records (R228) -/

/-- The record that a slot's firmware executes now: in the EXEC buffer, or the oldest that RFETCH handed over. -/
def State.record (s : State) (n : Nat) : Option (List DWord) :=
  let q := s.qslot n
  match q.pass with
  | none => q.recs.head?.map Prod.snd
  | some (_, i) => s.ioDwords n (s.region (s.qcbRegion n)) (q.buf.toNat + 64 * i)

/-- What the firmware reads for the record: its place in the EXEC buffer; the ring's RFETCH has read. -/
def State.recordReads (s : State) (n : Nat) : List (Nat × Nat) :=
  match (s.qslot n).pass with
  | none => []
  | some (_, i) => dwordsAt ((s.qslot n).buf.toNat + 64 * i)

/-- The queue stopped for a bad record (R228): ERR set, the slot unmapped, QSTOP posted. -/
def State.stopQueue (s : State) (n : Nat) : State :=
  let q := s.qslot n
  let rcb := s.qcbRegion n
  let s := s.writeHbm64 (q.pa + 8) (setBit (s.qcb n 1) 63 true)
  let s := (s.modQslot n fun _ => QSlot.empty).forget n
  let s := if q.dbl then { s with io := { s.io with pendArr := Sparse.set false s.io.pendArr q.qid true } } else s
  s.postRegion rcb 0x83 (BitVec.ofNat 64 q.pa) (BitVec.ofNat 64 q.qid) (q.recs.headD (0, [])).1.toNat 0

/-- Whether a record of the EXEC buffer ends a pass: OP 0x00, whose other fields are reserved. -/
def endsPass (d : List DWord) : Bool := d.all (· == 0)

/-- A pass that ends: the next one, or the end of the EXEC and of its record of the ring; an empty buffer ends all its passes at once. -/
def QSlot.passEnds (q : QSlot) : QSlot :=
  match q.pass with
  | none => q
  | some (pass, i) =>
    if i = 0 ∨ q.left ≤ 1 then { q with pass := none, left := 0, recs := q.recs.drop 1 }
    else { q with pass := some (pass + 1, 0), left := q.left - 1 }

/-- The place of an EXEC after `i` records of its pass: a record that ends the pass is seen at once where it can be read. -/
def State.execPlace (s : State) (n pass i : Nat) : State :=
  let s := s.modQslot n fun q => { q with pass := some (pass, i) }
  match s.record n with
  | none => s
  | some d => if endsPass d then s.modQslot n QSlot.passEnds else s

/-- A record is consumed: the place in the buffer, or the end of the record of the ring. -/
def State.consumed (s : State) (n : Nat) : State :=
  match (s.qslot n).pass with
  | some (p, i) => s.execPlace n p (i + 1)
  | none => s.modQslot n fun q => { q with recs := q.recs.drop 1 }

/-- Whether the context of a slot's queue is halted past this slot's record boundary, or saved. -/
def State.commandHeld (s : State) (n : Nat) : Bool :=
  let r := s.region (s.qcbRegion n)
  let x := s.ctx r.ctx
  r.live && (x.st == .waiting || x.st == .saved || x.acks.contains (.command n))

/-- Whether a slot's scheduler core executes no record: it is in reset (R245) or asleep in SWAIT (R226), it has stopped for a halt (R235),
or the function of the queue's region is being reset (R259). -/
def State.recordHeld (s : State) (n : Nat) : Bool :=
  !(s.qslot n).map || (s.schedCore (n / 4)).inReset || (s.schedCore (n / 4)).asleep || s.commandHeld n || s.resetting (s.qcbRegion n)

/-- A record that can be read: one that ends a pass of an EXEC ends it; a skipped one is consumed unexecuted, a bad one stops the queue,
and an event that is not the record's is no event. -/
def State.runRecord (s : State) (n : Nat) (i : Instr) (d : List DWord) (eff : State → State) : State :=
  if (s.qslot n).pass.isSome && endsPass d then s.modQslot n QSlot.passEnds
  else if 0 < (s.qslot n).skip then (s.modQslot n fun q => { q with skip := q.skip - 1 }).consumed n
  else
    match decodeRecord n d with
    | .error _ => s.stopQueue n
    | .ok j => if j = i then eff s else s

/-- The execution of a record by a slot's firmware (R228); `reads` are the bytes that it reads of its region. A place of an EXEC buffer that
cannot be read is XADDR of the core (DESIGN CHOICE, log 137). -/
def State.onRecord (s : State) (n : Nat) (i : Instr) (reads : List (Nat × Nat)) (eff : State → State) : Host.Outcome State Fault Refusal :=
  .next <|
    if s.recordHeld n then s
    else s.withRead n (s.region (s.qcbRegion n)) (s.recordReads n ++ reads) fun s =>
      match s.record n with
      | some d => s.runRecord n i d eff
      | none => if (s.qslot n).pass.isSome then s.schedTrap (n / 4) 24 else s

/-- LAUNCH (R228): one DISP. That what a record reads or writes and cannot reach is XADDR of its core, here and in the records below, is the
model's choice (DESIGN CHOICE, log 137). -/
def execRecLaunch (slot : Nat) (desc : DWord) (s : State) : Host.Outcome State Fault Refusal :=
  s.onRecord slot (.recLaunch slot desc) (dwordsAt desc.toNat) fun s =>
    match s.submit slot (s.qcbRegion slot) desc.toNat 0 with
    | .xaddr => s.schedTrap (slot / 4) 24
    | .dead => s
    | .full => s.bump
    | .accepted t => t.bump.consumed slot

/-- The launches `i` to `n − 1` of a LAUNCHN, as far as placement accepts them; `fuel` is their number. One that has begun is finished: the
core stops at a record's boundary, so its region's budget no longer holds it (R228; log 107). -/
def State.launchMany (s : State) (slot rcb va stride n : Nat) : Nat → Nat → State
  | 0, _ => (s.modQslot slot fun q => { q with laun := none }).consumed slot
  | fuel + 1, i =>
    match s.takeLaunch slot rcb va (stride * i) with
    | .accepted t => t.bump.launchMany slot rcb va stride n fuel (i + 1)
    | .xaddr => (s.modQslot slot fun q => { q with laun := some (i, n) }).schedTrap (slot / 4) 24
    | .full => s.bump.modQslot slot fun q => { q with laun := some (i, n) }
    | .dead => s.modQslot slot fun q => { q with laun := some (i, n) }

/-- LAUNCHN (R228): N is read when the record starts; none starts while the region's budget holds it. -/
def execRecLaunchn (slot : Nat) (desc naddr stride : DWord) (s : State) : Host.Outcome State Fault Refusal :=
  s.onRecord slot (.recLaunchn slot desc naddr stride) ((naddr.toNat, 4) :: dwordsAt desc.toNat) fun s =>
    let rcb := s.qcbRegion slot
    match (s.qslot slot).laun with
    | some (i, n) => s.launchMany slot rcb desc.toNat stride.toNat n (n - i) i
    | none =>
      match s.ioRead slot (s.region rcb) naddr.toNat 4 with
      | none => s.schedTrap (slot / 4) 24
      | some n => if 0 < n ∧ s.overBudget rcb then s else s.launchMany slot rcb desc.toNat stride.toNat n n 0

/-- WAITSIG (R228): waits until the word is at least V; then an acquire at system scope. -/
def execRecWaitsig (slot : Nat) (addr v : DWord) (s : State) : Host.Outcome State Fault Refusal :=
  s.onRecord slot (.recWaitsig slot addr v) [(addr.toNat, 8)] fun s =>
    match s.ioRead slot (s.region (s.qcbRegion slot)) addr.toNat 8 with
    | none => s.schedTrap (slot / 4) 24
    | some x => if v.toNat ≤ x then s.dropPeerReads.consumed slot else s

/-- SETSIG (R228). -/
def execRecSetsig (slot : Nat) (addr v : DWord) (s : State) : Host.Outcome State Fault Refusal :=
  s.onRecord slot (.recSetsig slot addr v) [] fun s =>
    match (if addr.toNat % 8 = 0 then s.ioLeaf (s.region (s.qcbRegion slot)) addr.toNat .write else none) with
    | none => s.schedTrap (slot / 4) 24
    | some (leaf, pa) => (s.storePage (s.region (s.qcbRegion slot)).ctx leaf pa (leBytes 8 v.toNat)).consumed slot

/-- Whether X compares true with V under a SKIPIF condition (R228). -/
def skipCond (cond : BitVec 4) (x v : Nat) : Bool := if cond = 1 then x == v else if cond = 2 then x != v else x < v

/-- SKIPIF (R228): the next `n` records are consumed unexecuted when X compares true with V. -/
def execRecSkipif (slot : Nat) (cond : BitVec 4) (n : BitVec 16) (addr v : DWord) (s : State) :
    Host.Outcome State Fault Refusal :=
  s.onRecord slot (.recSkipif slot cond n addr v) [(addr.toNat, 8)] fun s =>
    match s.ioRead slot (s.region (s.qcbRegion slot)) addr.toNat 8 with
    | none => s.schedTrap (slot / 4) 24
    | some x =>
      let s := s.consumed slot
      if skipCond cond x v.toNat then s.modQslot slot fun q => { q with skip := n.toNat } else s

/-- EXEC (R228): the record array of the buffer runs `count` times; an EXEC inside a buffer stops the queue. -/
def execRecExec (slot : Nat) (buf naddr : DWord) (s : State) : Host.Outcome State Fault Refusal :=
  s.onRecord slot (.recExec slot buf naddr) ((naddr.toNat, 4) :: dwordsAt buf.toNat) fun s =>
    if (s.qslot slot).pass.isSome then s.stopQueue slot
    else
      match s.ioRead slot (s.region (s.qcbRegion slot)) naddr.toNat 4 with
      | none => s.schedTrap (slot / 4) 24
      | some 0 => s.consumed slot
      | some n => (s.modQslot slot fun q => { q with buf := buf, left := n }).execPlace slot 0 0

/-! ## Slot registers and kicks (R219, R220) -/

/-- A slot unmapped: a doorbell that it held is kept in the pending array (R220). -/
def State.unmapSlot (s : State) (n : Nat) : State :=
  let q := s.qslot n
  let s := if q.map && q.dbl then { s with io := { s.io with pendArr := Sparse.set false s.io.pendArr q.qid true } } else s
  (s.modQslot n fun _ => QSlot.empty).forget n

/-- Whether another mapped slot holds a queue number (R219). -/
def State.qidTaken (s : State) (slot qid : Nat) : Bool := (List.range 64).any fun n => n != slot && (s.qslot n).map && (s.qslot n).qid == qid

/-- A QSLOT write that sets MAP (R219, R220): the QCB is read once; a write of a QID that another mapped slot holds, or one
made by a core that does not serve the slot, is ignored. -/
def execQslotMap (slot core : Nat) (v : DWord) (s : State) : Host.Outcome State Fault Refusal :=
  let qid := fieldN v 47 12
  let qcba := fieldN v 0 47
  .next <|
    if 64 ≤ slot ∨ slot / 4 ≠ core ∨ !bitAt v 63 then s
    else if s.qidTaken slot qid then s
    else
      let s := s.unmapSlot slot
      let rcb := fieldN (s.seenSched.dword (64 * qcba + 24)) 0 53
      let r := s.region rcb
      let prio := min (fieldN (s.seenSched.dword (64 * qcba + 8)) 40 8) r.prio
      let pend := Sparse.get false s.io.pendArr qid
      let s := { s with io := { s.io with pendArr := Sparse.set false s.io.pendArr qid false } }
      s.modQslot slot fun _ => { QSlot.empty with map := true, dbl := pend, qid := qid, qcba := qcba, prio := prio, rcb := rcb }

/-- A QSLOT write with MAP clear (R219, R220): QID and QCBA are held, and the slot is unmapped; a QID that another mapped slot holds, or a
core that does not serve the slot, makes the write ignored. -/
def execQslotUnmap (slot core : Nat) (v : DWord) (s : State) : Host.Outcome State Fault Refusal :=
  .next <|
    if 64 ≤ slot ∨ slot / 4 ≠ core ∨ bitAt v 63 ∨ s.qidTaken slot (fieldN v 47 12) then s
    else (s.unmapSlot slot).modQslot slot fun q => { q with qid := fieldN v 47 12, qcba := fieldN v 0 47 }

/-- A kick (R220). -/
def execKick (v : Word) (s : State) : Host.Outcome State Fault Refusal :=
  let qid := fieldN v 0 12
  .next <|
    if fieldN v 12 20 ≠ 0 then s
    else
      match (List.range 64).find? fun n => (s.qslot n).map && (s.qslot n).qid == qid with
      | some n => s.modQslot n fun q => { q with dbl := true }
      | none => { s with io := { s.io with pendArr := Sparse.set false s.io.pendArr qid true } }

end Sys2Proof.Machine
end

