-- ==== Sys2Proof/Machine/Task.lean ====
section
/-!
DEFINITION. Launches and tasks (spec/11 R202 to R210, R409; spec/20 R387 to R389), the control and status registers (R390 to
R392), SVC and TRAP (R393, R394).
-/

namespace Sys2Proof.Machine

/-! ## Launch descriptors (R202) -/

def Launch.dw (l : Launch) (i : Nat) : DWord := l.d.getD i 0
def Launch.entry (l : Launch) : DWord := (l.dw 0) &&& 0x1FFFFFFFFFFFFFF
def Launch.pword (l : Launch) : Word := field (l.dw 1) 32 32
def Launch.regs (l : Launch) : Nat := fieldN (l.dw 1) 24 8
def Launch.wpb (l : Launch) : Nat := fieldN (l.dw 1) 18 6
def Launch.nstg (l : Launch) : Nat := fieldN (l.dw 1) 14 4
def Launch.nprod (l : Launch) : Nat := fieldN (l.dw 1) 10 3
def Launch.args (l : Launch) : DWord := (l.dw 3) &&& 0x1FFFFFFFFFFFFFF
def Launch.ltag (l : Launch) : Nat := fieldN (l.dw 5) 48 16
def Launch.tqcap (l : Launch) : Nat := fieldN (l.dw 5) 32 16

/-- A stage's fields: entry, QCAP, HWM, SWPB. -/
def Launch.stage (l : Launch) (s : Nat) : DWord × DWord := l.stages.getD s (0, 0)
def stQcap (e : DWord × DWord) : Nat := fieldN e.2 48 16
def stHwm (e : DWord × DWord) : Nat := fieldN e.2 32 16
def stSwpb (e : DWord × DWord) : Nat := fieldN e.2 26 6

/-- The capacity of a queue, and the warps of a task of a stage. -/
def Launch.qcap (l : Launch) (s : Nat) : Nat := if l.nstg = 0 then l.tqcap else stQcap (l.stage s)
def Launch.warpsOf (l : Launch) (t : TaskRec) : Nat :=
  if t.seed then 1 else if l.nstg = 0 then l.wpb else stSwpb (l.stage t.stage)

def Launch.queue (l : Launch) (s : Nat) : List TaskRec := Sparse.get [] l.queues s
def Launch.setQueue (l : Launch) (s : Nat) (q : List TaskRec) : Launch := { l with queues := Sparse.set [] l.queues s q }

/-- Whether a partition word is refused (R81). -/
def pwordBad (p : Word) : Bool :=
  pwGF p = 3 || fieldN p 26 6 ≠ 0 || 32 * gfOf (pwGF p) < pwRFU p + pwSPU p + pwACU p || pwRFU p = 0

/-- Whether a used stage entry is refused (R203). Bits [63:57] of its first dword, above the entry address, are taken as reserved (DESIGN
CHOICE, log 134). -/
def stageBad (e : DWord × DWord) : Bool :=
  fieldN e.1 57 7 ≠ 0 || stSwpb e = 0 || 32 < stSwpb e || stQcap e = 0 || stQcap e < stHwm e || fieldN e.2 0 26 ≠ 0

/-- The largest warp count of a launch's tasks; the seed group has one warp. -/
def Launch.mostWarps (l : Launch) : Nat :=
  if l.nstg = 0 then max 1 l.wpb else (l.stages.map stSwpb).foldl max 1

/-- Whether placement refuses a launch whose stage table has been read (R203). -/
def Launch.refused (l : Launch) (pgf : Nat) : Bool :=
  fieldN (l.dw 0) 57 7 ≠ 0 || fieldN (l.dw 1) 0 10 ≠ 0 || fieldN (l.dw 2) 57 7 ≠ 0 || fieldN (l.dw 3) 57 7 ≠ 0
    || fieldN (l.dw 4) 57 7 ≠ 0 || fieldN (l.dw 5) 0 32 ≠ 0 || l.dw 7 ≠ 0
    || pwordBad l.pword || pwGF l.pword ≠ pgf || l.regs = 0 || 192 < l.regs || 8 < l.nstg || 4 < l.nprod
    || (l.nstg = 0 && (l.wpb = 0 || 32 < l.wpb || l.tqcap = 0)) || l.stages.any stageBad
    || 1024 * pwRFU l.pword < l.mostWarps * gw l.regs

/-- The reads of the stage table. -/
def Launch.stageReads (l : Launch) : List (Nat × Nat) :=
  (List.range (2 * if 8 < l.nstg then 0 else l.nstg)).map fun i => (fieldN (l.dw 4) 0 57 + 8 * i, 8)

/-- The stage table of a launch read through its region's translation, or nothing (R203). -/
def State.readStages (s : State) (launch : Nat) (l : Launch) : Option (List (DWord × DWord)) :=
  let r := s.region l.rcb
  let who := agentOf launch
  let at_ := fieldN (l.dw 4) 0 57
  (List.range (if 8 < l.nstg then 0 else l.nstg)).foldr (fun i acc =>
    match acc, s.ioRead who r (at_ + 16 * i) 8, s.ioRead who r (at_ + 16 * i + 8) 8 with
    | some l, some a, some b => some ((BitVec.ofNat 64 a, BitVec.ofNat 64 b) :: l)
    | _, _, _ => none) (some [])

/-! ## Placing a block (R205, R206, R208, R409) -/

/-- The resident warps of a core, and the warp-registers they hold. -/
def Core.residents (k : Core) : Nat := (k.warps.filter fun p => p.2.live).length
def Core.rowsHeld (k : Core) : Nat := ((k.warps.filter fun p => p.2.live).map fun p => gw p.2.nregs).foldl (· + ·) 0

/-- Whether a core may take a block of a launch: it is in use by no region, or by the launch's with the same partition
word (R409). -/
def Core.admits (k : Core) (l : Launch) : Bool :=
  match k.use with
  | none => true
  | some r => r == l.rcb && k.pword == l.pword

/-- The lowest free numbers below a bound. -/
def lowestFree (used : Nat → Bool) (bound n : Nat) : List Nat := ((List.range bound).filter fun i => !used i).take n

/-- The free block numbers of a core (R208, R209). -/
def Core.freeBlocks (k : Core) : List Nat := lowestFree (fun i => (k.block i).live) 256 1

/-- Whether `n` warps of a launch fit a core that has a free block slot (R82, R208, R209). -/
def Core.fits (k : Core) (l : Launch) (n : Nat) : Bool :=
  k.admits l && !k.freeBlocks.isEmpty && k.residents + n ≤ 64 * gfOf (pwGF l.pword) && k.rowsHeld + n * gw l.regs ≤ 1024 * pwRFU l.pword

/-- A core that enters a region's use (R409): the pool divided and handed over, slots unbound, tiles and cards empty. -/
def Core.enter (k : Core) (l : Launch) : Core :=
  if k.use.isSome then k
  else { { k with use := some l.rcb, pword := l.pword, slots := [], tiles := [], units := [], cardAt := [], install := [], charged := k.cycle }.handOver with
    bars := [] }

/-- The lowest free runs of 8 warp-registers of a core's register file (R82; DESIGN CHOICE, log 106). -/
def Core.freeRuns (k : Core) (n : Nat) : List Nat :=
  lowestFree (fun i => k.warps.any fun p => p.2.live && p.2.runs.contains i) (128 * pwRFU k.pword) (gw n / 8)

/-- A warp of a new block (R205, R206, R212, R390). -/
def newWarp (l : Launch) (t : TaskRec) (uid block rank : Nat) (now : DWord) (runs : List Nat) : Warp :=
  let rf := (((RF.zero.write2 0xC0 0 t.arg).writeK 2 (BitVec.ofNat 32 l.ltag)).writeK 3 t.num).writeK 4 (BitVec.ofNat 32 rank)
  { Warp.absent with
    live := true, uid := uid, block := block, rank := rank, nregs := l.regs, rf := rf, runs := runs
    slices := (List.range 8).foldl (fun m j =>
      Sparse.set Slice.init m j { Slice.init with pc := t.entry, issued := now }) [] }

/-- A task placed as a block on a core. -/
def State.placeBlock (s : State) (c lid : Nat) (l : Launch) (t : TaskRec) : State :=
  s.modCore c (fun k =>
    let k := k.enter l
    let n := l.warpsOf t
    let b := k.freeBlocks.headD 0
    let ws := lowestFree (fun i => (k.warp i).live) (64 * k.gf) n
    let blk : Block :=
      { Block.absent with
        live := true, ctx := l.ctx, launch := lid, task := t.num, stage := t.stage, nwarps := n, warps := ws }
    ((List.range ws.length).zip ws).foldl (fun k p =>
      (k.handOverRuns (k.freeRuns l.regs)).setWarp p.2 (newWarp l t (s.nextId + p.1) b p.1 k.cycle (k.freeRuns l.regs))) (k.setBlock b blk))
    |> fun s => { s with nextId := s.nextId + 64 }

/-- The cores of a context's rectangle, by their leads. -/
def Ctx.cores (x : Ctx) : List Nat := rectCores x.px x.py x.pw x.ph x.pgf

/-- Whether a core's front end is idle in a partition: it lies in the rectangle and leads none of its gang groups (R19). -/
def idleIn (px py pw ph pgf c : Nat) : Bool :=
  decide (px ≤ coreX c) && decide (coreX c < px + pw) && decide (py ≤ coreY c) && decide (coreY c < py + ph) && !(rectCores px py pw ph pgf).contains c

/-- Whether a core's front end is idle in a live region's partition (R21): the rectangle on which its context stands, or the region's own while
it has no context; a saved context's is released. -/
def State.idleFront (s : State) (r : Region) (c : Nat) : Bool :=
  let x := s.ctx r.ctx
  r.live &&
    match x.st with
    | .none => idleIn r.px r.py r.pw r.ph r.pgf c
    | .running | .halting | .waiting => idleIn x.px x.py x.pw x.ph x.pgf c
    | .saved => false

/-- Whether the front end of `c` is idle in no partition, and no other lead drives a core of its gang group (R19, R21): the idle front
ends of a partition's groups accept no work while it lives. -/
def State.groupFree (s : State) (c code : Nat) : Bool :=
  !s.regions.any (fun p => s.idleFront p.2 c) && !s.cores.any fun k => k.1 != c && k.2.use.isSome && (gangCores (pwGF k.2.pword) k.1).any fun d => (gangCores code c).contains d

/-- The core for a seed group: the most free warp slots, ties to the lowest index (R205). -/
def State.seedCore (s : State) (l : Launch) : Option Nat :=
  ((s.ctx l.ctx).cores.filter fun c => (s.core c).fits l 1 && s.groupFree c (pwGF l.pword)).foldl (fun best c =>
    match best with
    | none => some c
    | some b => if (s.core c).residents < (s.core b).residents || ((s.core c).residents == (s.core b).residents && c < b)
      then some c else best) none

/-- Whether a launch that waited on a pre-emption is still to be placed before another (R239): it stands before it in the ranking of
a save, or the save has not ended. -/
def State.outranked (s : State) (launch : Nat) : Bool :=
  s.ctxs.any fun p =>
    p.2.queued.contains launch && (p.2.st == .halting || p.2.st == .waiting
      || (p.2.queued.takeWhile (· != launch)).any fun m => (s.launch m).phase == 0)

/-- A live region whose context is gone starts a new one with its next launch (log 28). -/
def State.startCtx (s : State) (rcb : Nat) : State :=
  let r := s.region rcb
  if r.live && !s.held rcb && (s.ctx r.ctx).st == .none then
    s.modCtx r.ctx fun x => { x.gone with st := .running, rcb := rcb, px := r.px, py := r.py, pw := r.pw, ph := r.ph, pgf := r.pgf }
  else s

/-- A launch whose stage table can be read is refused, or its seed group placed where a core has room for it (R203, R205). -/
def State.placeSeed (s : State) (launch : Nat) : State :=
  let l := s.launch launch
  match s.readStages launch l with
  | none => s.signal launch 1
  | some st =>
    let l := { l with stages := st }
    if l.refused (s.region l.rcb).pgf then s.signal launch 1
    else
      match s.seedCore l with
      | none => s
      | some c =>
        let t : TaskRec := { launch := launch, entry := l.entry, arg := l.args, stage := 0, num := 0, seq := 0, seed := true }
        (s.placeBlock c launch l t).modLaunch launch fun x => { x with stages := st, phase := 1 }

/-- LAUNCH_PLACEMENT (R203, R205, R239): an accepted launch is refused, or its seed group is placed once a core has room for it. -/
def execLaunchPlacement (launch : Nat) (s : State) : Host.Outcome State Fault Refusal :=
  .next <|
    let l := s.launch launch
    let s := if l.phase = 0 then s.startCtx l.rcb else s
    if s.outranked launch then s else
    if l.phase ≠ 0 ∨ (s.ctx l.ctx).st ≠ .running then s
    else s.withRead (agentOf launch) (s.region l.rcb) l.stageReads fun s => s.placeSeed launch

/-- A candidate of the balancer: launch, stage. -/
def State.candidates (s : State) (c : Nat) : List (Nat × Nat) :=
  (s.launches.filter fun p => p.2.phase = 1 && (s.ctx p.2.ctx).st == .running && (s.ctx p.2.ctx).cores.contains c).flatMap
    fun p =>
      ((List.range 8).filter fun st =>
        match p.2.queue st with
        | [] => false
        | t :: _ =>
          (s.core c).fits p.2 (p.2.warpsOf t) && s.groupFree c (pwGF p.2.pword)
            && !(p.2.nstg ≠ 0 && st + 1 < p.2.nstg && p.2.qcap (st + 1) ≤ (p.2.queue (st + 1)).length)).map fun st => (p.1, st)

/-- How far a queue exceeds its high-water mark (R209): a task queue has none. -/
def Launch.excess (l : Launch) (st : Nat) : Nat := if l.nstg = 0 then 0 else (l.queue st).length - stHwm (l.stage st)

/-- Whether the balancer prefers one candidate to another (R209). -/
def State.prefers (s : State) (a b : Nat × Nat) : Bool :=
  let ea := (s.launch a.1).excess a.2
  let eb := (s.launch b.1).excess b.2
  let sa := (((s.launch a.1).queue a.2).head?.map TaskRec.seq).getD 0
  let sb := (((s.launch b.1).queue b.2).head?.map TaskRec.seq).getD 0
  if ea ≠ eb then eb < ea
  else if ea = 0 ∧ sa ≠ sb then sa < sb
  else if a.2 ≠ b.2 then a.2 < b.2
  else a.1 < b.1

/-- BLOCK_PLACEMENT (R208, R209, R409): the balancer of a core gives a block slot to the head task of the queue it chooses. -/
def execBlockPlacement (core : Nat) (s : State) : Host.Outcome State Fault Refusal :=
  .next <|
    match (s.candidates core).foldl (fun best c => match best with
      | none => some c
      | some b => if s.prefers c b then some c else best) none with
    | none => s
    | some (lid, st) =>
      let l := s.launch lid
      match l.queue st with
      | [] => s
      | t :: rest => (s.placeBlock core lid l t).modLaunch lid fun x => x.setQueue st rest

/-! ## SOW (R206, R388) -/

/-- The launch of an issuer. -/
def State.launchOf (s : State) (x : Issue) : Nat := ((s.core x.core).block x.block).launch

/-- The stage that a SOW names. -/
def sowStage (f : FmtS) : Nat := fieldN f.sel 0 3

/-- The entry of a SOW's task (R388). -/
def sowEntry (f : FmtS) (l : Launch) (r : RF) (pc : DWord) (lane : Nat) : DWord :=
  (if bitAt f.sel 15 then r.read2 (f.a + 2) lane
    else if f.imm16 ≠ 0 then wordsFrom pc f.imm16
    else if l.nstg = 0 then l.entry else (l.stage (sowStage f)).1) &&& 0x1FFFFFFFFFFFFFF

/-- Whether an earlier SOW of a launch still holds its task for a queue: tasks leave a queue in SOW order (R208). -/
def State.heldBefore (s : State) (lid st seq : Nat) : Bool :=
  s.cores.any fun k => k.2.warps.any fun w => w.2.slices.any fun y =>
    match y.2.held with
    | some t => t.launch == lid && t.stage == st && t.seq < seq
    | none => false

/-- A task queued, or nothing when the queue is full. -/
def State.enqueue (s : State) (t : TaskRec) : Option State :=
  let l := s.launch t.launch
  if l.qcap t.stage ≤ (l.queue t.stage).length ∨ s.heldBefore t.launch t.stage t.seq then none
  else some (s.modLaunch t.launch fun l => l.setQueue t.stage (l.queue t.stage ++ [t]))

/-- The task that a parked slice holds. -/
def State.setHeld (s : State) (x : Issue) (j : Nat) (t : Option TaskRec) : State :=
  s.modWarp x.core x.warp fun w => w.modSlice j fun y => { y with held := t }

/-- SOW as it issues: QF, the release of R192, the counter and the number, the queue, or the park on a full one. -/
def State.sow (s : State) (x : Issue) (f : FmtS) : Act :=
  let lid := s.launchOf x
  let l := s.launch lid
  let st := sowStage f
  if (l.nstg ≠ 0 ∧ l.nstg ≤ st) ∨ (l.nstg = 0 ∧ st ≠ 0) ∨ 2 ^ 32 ≤ l.counter + 1 then x.fault cQF (BitVec.ofNat 64 st)
  else if s.busyBefore x || s.coreTracks x.core then .wait
  else
    let r := (s.warp x.core x.warp).rf
    let t : TaskRec :=
      { launch := lid, entry := sowEntry f l r x.pc x.low, arg := r.read2 f.a x.low, stage := st, num := BitVec.ofNat 32 l.nextNum,
        seq := s.nextId, seed := false }
    let s := { s with nextId := s.nextId + 1 }
    let s := s.modLaunch lid fun y => { y with counter := y.counter + 1, nextNum := y.nextNum + 1 }
    let s := s.putOnce x 1 f.d (t.num.setWidth 64)
    match s.enqueue t with
    | some s => .done s
    | none =>
      let sls := actingSlices x.acting x.slices
      .go ((s.park x sls .sow).setHeld x (sls.headD 0) (some t)) ((x.slices.filter fun j => !sls.contains j).map fun j => (j, x.next))

/-- SOW (R388): a slice parked on a full queue queues the task it holds. -/
def execSow (f : FmtS) (s : State) : Host.Outcome State Fault Refusal :=
  s.issueOnce (.sow f) fun x t =>
    match (if x.again then ((t.warp x.core x.warp).slice (x.slices.headD 0)).held else none) with
    | some h =>
      (match t.enqueue h with
        | some u => .done (u.setHeld x (x.slices.headD 0) none)
        | none => .wait)
    | none => t.sow x f

/-! ## WAITP and TRIGGER (R210, R389) -/

/-- Whether the producer that a tag names is satisfied: a TRIGGER, a signal word, or no launch of that tag held. -/
def State.producerOk (s : State) (lid tag : Nat) : Bool :=
  match (s.region (s.launch lid).rcb).tags.find? fun n => n != lid && (s.launch n).ltag == tag with
  | none => true
  | some n => (s.launch n).triggered || (s.launch n).phase == 2

/-- Whether every producer of a launch is satisfied. -/
def State.producersOk (s : State) (lid : Nat) : Bool :=
  (List.range (min 4 (s.launch lid).nprod)).all fun n => s.producerOk lid (fieldN ((s.launch lid).dw 6) (16 * n) 16)

/-- WAITP (R389). -/
def execWaitp (f : FmtS) (s : State) : Host.Outcome State Fault Refusal :=
  s.issueOnce (.waitp f) fun x t =>
    let sls := actingSlices x.acting x.slices
    if t.producersOk (t.launchOf x) then .done t
    else if x.again then .wait
    else .go (t.park x sls .waitp) ((x.slices.filter fun j => !sls.contains j).map fun j => (j, x.next))

/-- TRIGGER (R389), a release at device scope. -/
def execTrigger (f : FmtS) (s : State) : Host.Outcome State Fault Refusal :=
  s.issueOnce (.trigger f) fun x t =>
    if t.busyBefore x || t.coreTracks x.core then .wait
    else .done (t.modLaunch (t.launchOf x) fun l => { l with triggered := true })

/-! ## CSRR and CSRW (R390 to R392) -/

/-- MESHID (R391). -/
def meshId (c gf : Nat) : DWord := BitVec.ofNat 64 (c * 2 ^ 16 + gf * 2 ^ 8 + coreY c * 2 ^ 4 + coreX c)

/-- PARTID, laid out as the low word of RCB dword 10 (R198). -/
def partId (x : Ctx) : DWord :=
  BitVec.ofNat 64 (x.px % 16 * 2 ^ 28 + x.py % 8 * 2 ^ 24 + x.pw % 32 * 2 ^ 16 + x.ph % 16 * 2 ^ 8 + x.pgf % 4)

/-- The value of a control and status register in a lane. -/
def State.csr (s : State) (x : Issue) (n lane : Nat) : DWord :=
  let k := s.core x.core
  let w := k.warp x.warp
  let cx := s.ctxOf x
  match n with
  | 0x000 => BitVec.ofNat 64 lane
  | 0x001 => BitVec.ofNat 64 (lane / 4)
  | 0x002 => BitVec.ofNat 64 x.warp
  | 0x003 => BitVec.ofNat 64 x.block
  | 0x004 => BitVec.ofNat 64 (k.quarterOf x.warp)
  | 0x008 => meshId x.core (pwGF k.pword)
  | 0x009 => partId (s.ctx cx)
  | 0x00A => BitVec.ofNat 64 (cx % 65536)
  | 0x00B => (s.regionOf x).asn.setWidth 64
  | 0x010 => k.cycle
  | 0x011 => k.chkrpl.setWidth 64
  | 0x012 => w.instret
  | 0x018 => w.pmsel.setWidth 64
  | _ => w.pmcnt

/-- CSRR (R390): the values are those at issue. -/
def execCsrr (f : FmtS) (s : State) : Host.Outcome State Fault Refusal :=
  s.issueOnce (.csrr f) fun x t =>
    let n := f.sel.toNat
    .done (t.setRF x.core x.warp ((t.warp x.core x.warp).rf.writeLanes (if csr64.contains n then 2 else 1) f.d x.acting (t.csr x n)))

/-- CSRW (R390): PMSEL keeps its event, PMCNT its count. -/
def execCsrw (f : FmtS) (s : State) : Host.Outcome State Fault Refusal :=
  s.issueOnce (.csrw f) fun x t =>
    let r := (t.warp x.core x.warp).rf
    .done (t.modWarp x.core x.warp fun w =>
      if f.sel = 0x018 then { w with pmsel := r.read1 f.a x.low &&& 0xF } else { w with pmcnt := r.read2 f.a x.low })

/-! ## SVC and TRAP (R393, R394) -/

/-- SVC (R393): the call is sent, a release and an acquire at system scope; D is pending until its reply. -/
def execSvc (f : FmtS) (s : State) : Host.Outcome State Fault Refusal :=
  s.issueOnce (.svc f) fun x t =>
    let (inst, t) := t.fresh
    let arg := (t.warp x.core x.warp).rf.read2 f.a x.low
    let a : LaneAcc := { lane := x.low, va := 0, home := ⟨4, 0, 0⟩, bit := 0, leaf := 0 }
    let r := { t.onceLoad x a 0 with
      kind := .svc, inst := inst, ord := 3, sco := 3, n := 2, meth := f.sel.toNat, sprd := 7
      parts := [t.part x f.d inst x.low arg 0] }
    .done ((t.send [r]).modWarp x.core x.warp fun w => w.mark f.d 2 (slicesOf x.acting) true)

/-- TRAP (R394). -/
def execTrap (f : FmtS) (s : State) : Host.Outcome State Fault Refusal :=
  s.issueOnce (.trap f) fun x _ => x.fault cTP (setBit (f.imm16.setWidth 64) 63 true)

end Sys2Proof.Machine
end

