-- ==== Sys2Proof/Machine/Slots.lean ====
section
/-!
DEFINITION. Format slots: the format instructions (spec/19 R346 to R353; spec/07 R135), SLOTBIND, SLOTFENCE and SLOTREL (R137 to
R139, R354, R355), and the format manager's reconfigurations (R136, R137).
-/

namespace Sys2Proof.Machine

/-! ## Slots -/

def Core.fslot (k : Core) (n : Nat) : FSlot := Sparse.get FSlot.unbound k.slots n
def Core.modFslot (k : Core) (n : Nat) (f : FSlot → FSlot) : Core := { k with slots := Sparse.modify FSlot.unbound k.slots n f }

/-- The image bound to a slot (R135): none when it is unbound. -/
def State.slotImg (s : State) (c n : Nat) : Option Img :=
  if ((s.core c).fslot n).handle = 0 then none else s.mon.img ((s.core c).fslot n).handle

/-- Whether an image accepts a word in an instruction of format F (R110, R346): it implements the word, the word has the form's
BSC, and a non-zero EW is the word's width. -/
def Img.accepts (i : Img) (w : Word) (ew : Nat) (blk : Bool) : Bool :=
  i.implements w ew && wBsc w == blk && (ew == 0 || ew == (i.elt w ew).width)

/-- The format word of a lane (R346): B, or the image's default word when B is gz. -/
def fmtWord (f : FmtF) (i : Img) (r : RF) (lane : Nat) : Word := if isGz f.b then i.defaultWord else r.read1 f.b lane

/-- A format instruction (R346): it waits for the slot's pending operations, then SL, then its effect under the bound image and
the rounding code in use. `blk` is the BSC that its words must have. -/
def State.fmtIssue (s : State) (i : Instr) (f : FmtF) (blk : Bool) (body : Img → Nat → Issue → State → Act) :
    Host.Outcome State Fault Refusal :=
  s.issueLane i fun x t =>
    let fs := f.fs.toNat
    if x.acting.isEmpty then .done t
    else if !((t.core x.core).fslot fs).queue.isEmpty then .wait
    else
      match t.slotImg x.core fs with
      | none => x.fault cSL (BitVec.ofNat 64 fs)
      | some img =>
        match img.mode f.rm.toNat with
        | none => x.fault cSL (BitVec.ofNat 64 fs)
        | some mode =>
          let r := (t.warp x.core x.warp).rf
          if x.acting.all fun l => img.accepts (fmtWord f img r l) f.ew.toNat blk then body img mode x t
          else x.fault cSL (BitVec.ofNat 64 fs)

/-- A format instruction that reads and writes registers only: `g` gives each acting lane's result. -/
def State.fmtLanes (s : State) (i : Instr) (f : FmtF) (blk : Bool) (g : Img → Word → Nat → RF → Nat → Nat) :
    Host.Outcome State Fault Refusal :=
  s.fmtIssue i f blk fun img mode x t =>
    let r := (t.warp x.core x.warp).rf
    .done (t.setRF x.core x.warp (r.writeLanes 1 f.d x.acting fun l => BitVec.ofNat 64 (g img (fmtWord f img r l) mode r l)))

/-! ## DEC, ENC and REQ (R347, R348, R351) -/

/-- Whether binary32 holds a value (R119). -/
def exact32 (v : FpVal) : Bool := FpVal.cmp (fp32.decode (fp32.encode 3 v)) v == some .eq

/-- A binary32 result rounded in a slot's mode (R118, R405), and the clamp of R98: an image's own mode is its strips', where rounding acts
at all: on a value that binary32 does not hold, and on an image's own family (R347). -/
def deliver32 (i : Img) (w : Word) (mode : Nat) (s : Int) (clp : Nat) (v : FpVal) : Nat :=
  match v with
  | .fin n m e =>
    if 8 ≤ mode ∧ m ≠ 0 ∧ (wFam w = 15 ∨ !exact32 (.fin n m (e + s))) then fp32.clamp clp (stripCode i.digest w 32 mode (.fin n m (e + s)) % 2 ^ 32)
    else fp32.deliver mode s false clp v
  | v => fp32.deliver 1 0 false clp v

/-- The value of a code under a word. -/
def decodeCode (i : Img) (f : FmtF) (w : Word) (c : Word) : FpVal := (i.elt w f.ew.toNat).decode c.toNat

/-- The scale of a register (R116). -/
def scaleReg (w : Word) : FpVal := scaleVal (fieldN w 0 20)

/-- The value that ENC and REQ encode: A under its modifiers, times 2^s (R348). -/
def encValue (f : FmtF) (r : RF) (lane : Nat) : FpVal :=
  (fp32.decode (fp32.modify (f.na == 1) (f.aa == 1) (r.read1 f.a lane).toNat)).scale (scaleOf f.sc)

/-- DEC (R347). -/
def execDec (f : FmtF) (s : State) : Host.Outcome State Fault Refusal :=
  s.fmtLanes (.dec f) f false fun i w mode r l =>
    deliver32 i w mode (scaleOf f.sc) f.clp.toNat (decodeCode i f w (r.read1 f.a l))

/-- DEC.blk (R117, R347). -/
def execDecBlk (f : FmtF) (s : State) : Host.Outcome State Fault Refusal :=
  s.fmtLanes (.decBlk f) f true fun i w mode r l =>
    deliver32 i w mode (scaleOf f.sc) f.clp.toNat
      (underScale (decodeCode i f w (r.read1 f.a l)) (scaleReg ((r.read2 f.a l).extractLsb' 32 32)))

/-- The code of a value under a word (R119). -/
def encodeVal (i : Img) (f : FmtF) (w : Word) (mode : Nat) (v : FpVal) : Nat := (i.elt w f.ew.toNat).encode i.digest w mode v

/-- ENC (R348). -/
def execEnc (f : FmtF) (s : State) : Host.Outcome State Fault Refusal :=
  s.fmtLanes (.enc f) f false fun i w mode r l => encodeVal i f w mode (encValue f r l)

/-- REQ (R351): NaN gives the canonical NaN in every format. -/
def execReq (f : FmtF) (s : State) : Host.Outcome State Fault Refusal :=
  s.fmtLanes (.req f) f false fun i w mode r l =>
    match encValue f r l with
    | .nan => fp32.deliver 1 0 false f.clp.toNat .nan
    | v => fp32.deliver 1 0 false f.clp.toNat ((i.elt w f.ew.toNat).decode (encodeVal i f w mode v))

/-- A value requantised under a block scale (R351). -/
def requantise (i : Img) (f : FmtF) (w : Word) (mode : Nat) (v sc : FpVal) : FpVal :=
  match sc with
  | .nan => .nan
  | sc =>
    if sc.isZero then .fin false 0 0
    else
      match v with
      | .nan => .nan
      | v => underScale ((i.elt w f.ew.toNat).decode (encodeVal i f w mode (overScale v sc))) sc

/-- REQ.blk (R351). -/
def execReqBlk (f : FmtF) (s : State) : Host.Outcome State Fault Refusal :=
  s.fmtLanes (.reqBlk f) f true fun i w mode r l =>
    fp32.deliver 1 0 false f.clp.toNat (requantise i f w mode (encValue f r l) (scaleReg ((r.read2 f.b l).extractLsb' 32 32)))

/-! ## SCLQ and FMTQ (R352, R353) -/

/-- SCLQ (R352): the scale that ENC.blk would choose, and whether it is clipped. -/
def execSclq (f : FmtF) (s : State) : Host.Outcome State Fault Refusal :=
  s.fmtIssue (.sclq f) f true fun img _ x t =>
    let r := (t.warp x.core x.warp).rf
    let sc := chooseScale (img.elt (fmtWord f img r x.low) f.ew.toNat)
      (x.acting.map fun l => fp32.decode (r.read1 f.a l).toNat) (fieldN (r.read2 f.b x.low) 32 20)
    .done (t.setRF x.core x.warp (r.writeLanes 1 f.d x.acting fun _ => BitVec.ofNat 64 (sc.1 + if sc.2 then 2 ^ 31 else 0)))

/-- Whether a member has NaN codes, infinities, negative values (R353; R404 for an image's own family). -/
def Elt.hasNan : Elt → Bool
  | .fp t => t.spc != 2
  | .own _ _ _ d => bitAt d 25
  | .int _ _ | .tern | .bin => false
def Elt.hasInf : Elt → Bool
  | .fp t => t.spc == 0
  | .own _ _ _ d => bitAt d 24
  | .int _ _ | .tern | .bin => false
def Elt.hasNeg : Elt → Bool
  | .int s _ => s
  | .own _ _ _ d => bitAt d 23
  | .fp _ | .tern | .bin => true

/-- Whether an image implements a word, whatever gives its width (R353). -/
def Img.knows (i : Img) (w : Word) : Bool := i.implements w (if i.ownWidth w = 0 then 1 else 0)

/-- The description of a word (R353). -/
def Img.describe (i : Img) (w : Word) : Nat :=
  if !i.knows w then 0
  else
    let t := i.elt w 0
    2 ^ 31 + (if t.hasNan then 2 ^ 30 else 0) + (if t.hasInf then 2 ^ 29 else 0) + (if t.hasNeg then 2 ^ 28 else 0)
      + (if wFam w ≤ 1 && i.bsok then 2 ^ 27 else 0) + t.sig * 2 ^ 16 + t.group * 2 ^ 8 + t.width

/-- FMTQ (R353): it runs once, on the word of the lowest acting lane. -/
def execFmtq (f : FmtF) (s : State) : Host.Outcome State Fault Refusal :=
  s.issueLane (.fmtq f) fun x t =>
    let fs := f.fs.toNat
    if x.acting.isEmpty then .done t
    else if !((t.core x.core).fslot fs).queue.isEmpty then .wait
    else
      match t.slotImg x.core fs with
      | none => x.fault cSL (BitVec.ofNat 64 fs)
      | some img =>
        let r := (t.warp x.core x.warp).rf
        let v := img.describe (fmtWord f img r x.low)
        .done (t.setRF x.core x.warp (r.writeLanes 1 f.d x.acting fun _ => BitVec.ofNat 64 v))

/-! ## ENC.blk (R349, R350) -/

/-- The outlier buffer of an ENC.blk as its lanes are encoded: NOUT, NOVF and the entries appended. -/
structure OutBuf where
  nout : Nat
  novf : Nat
  new : List DWord
  deriving DecidableEq, Repr

/-- A count that saturates at 2^32 − 1. -/
def satCount (n : Nat) : Nat := min n (2 ^ 32 - 1)

/-- What ENC.blk's lanes share: the member, the digest of its image, its word, the mode, the block's scale, OCAP, n and LINE. -/
structure BlkEnc where
  t : Elt
  digest : BitVec 384
  word : Word
  mode : Nat
  sc : FpVal
  ocap : Nat
  n : Nat
  line : Nat
  deriving DecidableEq, Repr

/-- The code of a zero (R350): +0 is a value of every format but binary, whose code is +1, and is not rounded (R119); an image's own
family encodes it. -/
def BlkEnc.zeroCode (b : BlkEnc) : Nat :=
  b.t.encode b.digest b.word (match b.t with
    | .own _ _ _ _ => b.mode
    | _ => 1) (.fin false 0 0)

/-- An outlier captured, with the entry it makes, or clamped (R350). -/
def BlkEnc.outlier (b : BlkEnc) (buf : OutBuf) (lane : Nat) (v : FpVal) : OutBuf × Nat :=
  let val := fp16.encode 1 v
  let finite := match fp16.decode val with
    | .fin _ _ _ => true
    | _ => false
  if b.t != .bin && b.ocap != 0 && decide (buf.nout < 16 * b.ocap) && finite then
    let e := b.line * 2 ^ 40 + (32 * b.n + lane) % 2 ^ 24 * 2 ^ 16 + val
    ({ buf with nout := buf.nout + 1, new := buf.new ++ [BitVec.ofNat 64 e] }, b.zeroCode)
  else
    (if b.ocap = 0 then buf else { buf with novf := satCount (buf.novf + 1) }, b.t.limit b.digest b.word v.neg?)

/-- One lane encoded (R350). -/
def BlkEnc.lane (b : BlkEnc) (buf : OutBuf) (lane : Nat) (v : FpVal) : OutBuf × Nat :=
  if b.sc.isZero then (buf, b.zeroCode)
  else if b.t.outside b.digest b.word b.mode (overScale v b.sc) then b.outlier buf lane v
  else (buf, b.t.encode b.digest b.word b.mode (overScale v b.sc))

/-- The lanes of a block encoded in increasing order, with each lane's code. -/
def BlkEnc.lanes (b : BlkEnc) (buf : OutBuf) (vs : List (Nat × FpVal)) : OutBuf × List (Nat × Nat) :=
  vs.foldl (fun acc v =>
    let o := b.lane acc.1 v.1 v.2
    (o.1, acc.2 ++ [(v.1, o.2)])) (buf, [])

/-- The buffer written (R350, R155): the header, cleared first by START, and the entries from number `first` on. -/
def Core.putBuf (k : Core) (at_ first : Nat) (start : Bool) (buf : OutBuf) (nclip : Nat) : Core :=
  let k := if start then k.writeScr at_ (leBytes 16 0) else k
  let k := k.writeScr at_ (leBytes 4 buf.nout ++ leBytes 4 buf.novf ++ leBytes 4 nclip)
  k.writeScr (at_ + 16 + 8 * first) (buf.new.flatMap fun e => leBytes 8 e.toNat)

/-- What a block's read-modify-write of its buffer touches: the header, and its entries (R350). -/
def bufHomes (c at_ first n : Nat) : List Home :=
  (⟨3, c, at_⟩ : Home) :: (List.range n).map fun i => ⟨3, c, at_ + 16 + 8 * (first + i)⟩

/-- ENC.blk (R349, R350): one block, its scale, and one read-modify-write of the outlier buffer, an access of the issuing slices
that comes after their earlier accesses to a common byte (R185). With A in a k register or gz it runs once, for the lowest acting lane
(R95). -/
def execEncBlk (f : FmtF) (s : State) : Host.Outcome State Fault Refusal :=
  s.fmtIssue (.encBlk f) f true fun img mode x t =>
    let r := (t.warp x.core x.warp).rf
    let k := t.core x.core
    let q := r.read4 f.b x.low
    let w := fmtWord f img r x.low
    let ocap := fieldN q 88 8
    let obuf := fieldN q 68 20 * 16
    let start := bitAt q 64
    let req := { t.onceLoad x ⟨x.low, BitVec.ofNat 64 obuf, ⟨3, x.core, obuf⟩, 0, 0⟩ (16 + 128 * ocap) with kind := .atom }
    if fieldN q 65 3 ≠ 0 then x.fault cAL (BitVec.ofNat 64 obuf)
    else if ocap ≠ 0 ∧ k.scrSize < obuf + 16 + 128 * ocap then x.fault cPF (BitVec.ofNat 64 obuf)
    else if ocap ≠ 0 ∧ (t.orderAfter req).any t.awaited then .wait
    else
      let t := if ocap = 0 || start then t else t.meetScr x.core obuf 16
      let k := t.core x.core
      match (if ocap = 0 || start then none else k.scrPoisonAt obuf 16) with
      | some row => .check t (storageMc x.low false (k.scrXv row))
      | none =>
        let vs := (if isG f.a then x.acting else [x.low]).map fun l => (l, encValue f r l)
        let e := img.elt w f.ew.toNat
        let sc := chooseScale e (vs.map Prod.snd) (fieldN q 32 20)
        let old := fun i => if ocap = 0 || start then 0 else k.scrNat (obuf + 4 * i) 4
        let b : BlkEnc :=
          { t := e, digest := img.digest, word := w, mode := mode, sc := scaleVal sc.1, ocap := ocap, n := fieldN q 52 12,
            line := fieldN q 96 24 }
        let out := b.lanes { nout := old 0, novf := old 1, new := [] } vs
        let t := if ocap = 0 then t
          else (t.modCore x.core fun k => k.putBuf obuf (old 0) start out.1 (satCount (old 2 + if sc.2 then 1 else 0))).modWarp x.core x.warp
            fun w => w.counts 3 (t.conflicts (bufHomes x.core obuf (old 0) out.1.new.length) 8)
        .done (t.setRF x.core x.warp (r.writeLanes 2 f.d x.acting fun l =>
          BitVec.ofNat 64 (((out.2.find? fun p => p.1 == l || !isG f.a).map Prod.snd).getD 0 + sc.1 * 2 ^ 32)))

/-! ## SLOTBIND, SLOTFENCE and SLOTREL (R137 to R139, R354, R355) -/

/-- Whether a region descends from another; a chain of parents is no longer than the list of regions. -/
def State.descends (s : State) (anc : Nat) : Nat → Nat → Bool
  | 0, _ => false
  | n + 1, r => let p := (s.region r).parent; p != 0 && (p == anc || s.descends anc n p)

/-- Whether a region may bind a handle (R131, R133, R137). -/
def State.usable (s : State) (rcb : Nat) (h : Word) : Bool :=
  (Config.shippedHeader h.toNat).isSome || match s.mon.images.find? fun p => p.1 == h.toNat with
    | none => false
    | some p => p.2.rcb == rcb || (s.descends p.2.rcb s.regions.length rcb && (s.region rcb).imgs.contains p.2.key)

/-- An operation of a slot accepted: it joins the queue (R136). -/
def State.acceptSlot (s : State) (c fs : Nat) (b : Option Word) : State :=
  ({ s with nextId := s.nextId + 1 } : State).modCore c fun k =>
    k.modFslot fs fun q => { q with queue := q.queue ++ [({ id := s.nextId, bind := b } : SlotOp)] }

/-- SLOTBIND (R137): the issuer does not wait. -/
def execSlotbind (f : FmtS) (s : State) : Host.Outcome State Fault Refusal :=
  s.issueOnce (.slotbind f) fun x t =>
    let fs := fieldN f.sel 0 3
    let h := (t.rfOf x).read1 f.a x.low
    if t.usable (t.ctx (t.ctxOf x)).rcb h then .done (t.acceptSlot x.core fs (some h)) else x.fault cSL (BitVec.ofNat 64 fs)

/-- SLOTREL (R139). -/
def execSlotrel (f : FmtS) (s : State) : Host.Outcome State Fault Refusal :=
  s.issueOnce (.slotrel f) fun x t => .done (t.acceptSlot x.core (fieldN f.sel 0 3) none)

/-- Whether an accepted matrix job names a slot (R136, R356). -/
def MxJob.names (j : MxJob) (fs : Nat) : Bool :=
  match j.sub with
  | 0 => j.f.fa.toNat == fs || j.f.fb.toNat == fs || (j.f.fbk == 1 && j.f.fd.toNat == fs)
  | 2 => j.f.fb.toNat == fs
  | 3 => j.f.fa.toNat == fs
  | _ => false

/-- SLOTFENCE (R138): it waits for the slot's queue, and for the issuing stream's own jobs on the slot. -/
def execSlotfence (f : FmtS) (s : State) : Host.Outcome State Fault Refusal :=
  s.issueOnce (.slotfence f) fun x t =>
    let fs := fieldN f.sel 0 3
    let k := t.core x.core
    if !(k.fslot fs).queue.isEmpty || (x.slices.isEmpty && k.jobs.any fun j => j.block == x.block && j.names fs) then .wait
    else .done (t.putOnce x 1 f.d ((k.fslot fs).gen.setWidth 64))

/-! ## The format manager (R136, R137, R139, R140) -/

/-- The context that runs on a core. -/
def State.ctxOn (s : State) (c : Nat) : Nat :=
  match (s.core c).use with
  | some rcb => (s.region rcb).ctx
  | none => 0

/-- A slot that takes a new binding: the generation counts it (R137, R139). -/
def FSlot.rebind (q : FSlot) (h : Word) : FSlot := { q with handle := h, gen := q.gen + 1, queue := q.queue.tail, reconf := false }

/-- SLOT_RECONFIGURE_START (R137, R139): the first operation of a slot has drained. A release and a bind of the bound handle
are then complete; another bind begins to reconfigure. -/
def execSlotReconfigureStart (core fs : Nat) (s : State) : Host.Outcome State Fault Refusal :=
  .next <|
    let k := s.core core
    let q := k.fslot fs
    match q.queue with
    | [] => s
    | op :: rest =>
      if q.reconf || !(s.ctx (s.ctxOn core)).runs [.format core] || k.jobs.any fun j => j.names fs && j.id < op.id then s
      else
        s.modCore core fun k => k.modFslot fs fun q =>
          match op.bind with
          | none => q.rebind 0
          | some h => if h = q.handle then ({ q with queue := rest } : FSlot) else { q with reconf := true }

/-- SLOT_RECONFIGURE_END (R137): the plane holds the new image; a plane that fails its readback twice leaves the slot unbound
and posts SLRB. Whether the generation counts such an end is open: it does not (DESIGN CHOICE, log 105). -/
def execSlotReconfigureEnd (core fs : Nat) (readbackOk : Bool) (s : State) : Host.Outcome State Fault Refusal :=
  .next <|
    let q := (s.core core).fslot fs
    match q.queue with
    | [] => s
    | op :: rest =>
      match (if q.reconf then op.bind else none) with
      | none => s
      | some h =>
        if readbackOk then s.modCore core fun k => k.modFslot fs fun q => q.rebind h
        else
          (s.modCore core fun k => k.modFslot fs fun q => { q with handle := 0, queue := rest, reconf := false }).postHealth 0x86
            (BitVec.ofNat 64 core) (BitVec.ofNat 64 fs) h.toNat

end Sys2Proof.Machine
end

