-- ==== Sys2Proof/Machine/Tile.lean ====
section
/-!
DEFINITION. Accumulator tiles (spec/08 R147 to R151, R159; spec/19 R361 to R366): ACAL, ACFREE, ACSTAT, ACBAND, ACRD and ACRDCLR,
and the fold of an element (spec/06 R124 to R126).
-/

namespace Sys2Proof.Machine

/-! ## Tiles (R147, R148) -/

def Core.tile (k : Core) (b h : Nat) : Tile := Sparse.get Tile.free k.tiles (16 * b + h)
def Core.setTile (k : Core) (b h : Nat) (t : Tile) : Core := { k with tiles := Sparse.set Tile.free k.tiles (16 * b + h) t }
def Core.modTile (k : Core) (b h : Nat) (f : Tile → Tile) : Core := k.setTile b h (f (k.tile b h))

/-- The elements of a tile, and an element's number in the store (R90). -/
def Tile.extent (t : Tile) : Nat := t.rows * t.cols
def Tile.at_ (t : Tile) (e : Nat) : Nat := 1024 * t.first + e

/-- FVA of AU and AB (R236): an element index and a handle. -/
def tileFva (e h : Nat) : DWord := BitVec.ofNat 64 (e % 2 ^ 32 * 16 + h)

/-- Whether some element of a tile is poisoned (R80, R148). -/
def Core.tilePois (k : Core) (t : Tile) : Bool :=
  k.accPois.any fun p => t.at_ 0 ≤ 2 * p.1 && 2 * p.1 < t.at_ t.extent && k.accPoison (2 * p.1)

/-- The status word of a handle (R148): all zero when it is free. -/
def Core.tileWord (k : Core) (t : Tile) : DWord :=
  if t.state = 0 then 0
  else BitVec.ofNat 64 (t.state * 2 ^ 62 + (if t.i32 then 2 ^ 61 else 0) + (if t.satx then 2 ^ 60 else 0)
    + (if k.tilePois t then 2 ^ 59 else 0) + (if t.satm then 2 ^ 58 else 0) + t.bands.length * 2 ^ 52 + t.first * 2 ^ 41
    + t.nbk * 2 ^ 29 + t.rows * 2 ^ 13 + t.cols)

/-- Banks of the accumulator store handed over: they read zero (R84), and nothing is wrong in their symbols. -/
def Core.handOverAcc (k : Core) (first n : Nat) : Core :=
  { k with
    bad := k.bad.filter fun p => !(List.range n).any fun i =>
      18 * (k.accPlace (512 * (first + i))).1 + (k.accPlace (512 * (first + i))).2.1 == p.1 / 8192
    clean := (List.range n).foldl (fun m i => Sparse.set false m (bankKey .acc (first + i)) true) k.clean
    touched := k.touched.filter fun p => p.1 / 512 < bankKey .acc first || bankKey .acc (first + n) ≤ p.1 / 512 }

/-- Whether two tiles share a bank. -/
def Tile.overlaps (t : Tile) (first n : Nat) : Bool := t.state != 0 && t.first < first + n && first < t.first + t.nbk

/-- The status of an allocation (R147, R362): 3 before 2 before 1. -/
def Core.allocStatus (k : Core) (b h rows cols first : Nat) (badBits : Bool) : Nat :=
  let n := (rows * cols + 1023) / 1024
  if (k.tile b h).state ≠ 0 then 3
  else if badBits || rows == 0 || cols == 0 || 4096 < cols || k.accBanks < first + n then 2
  else if k.tiles.any fun p => p.2.overlaps first n then 1
  else 0

/-- Whether an accepted job names a tile of its block: as its own, or as its A source. -/
def MxJob.usesTile (j : MxJob) (h : Nat) : Bool := j.f.acc.toNat == h || (j.sub == 0 && j.f.asrc == 1 && j.f.da.toNat == h)

/-- Whether an accepted job of a block names a tile of it (R143). -/
def Core.tileUsed (k : Core) (b h : Nat) : Bool := k.jobs.any fun j => j.block == b && j.usesTile h

/-- ACAL (R147, R362). -/
def execAcal (f : FmtS) (s : State) : Host.Outcome State Fault Refusal :=
  s.issueOnce (.acal f) fun x t =>
    let k := t.core x.core
    let h := fieldN f.sel 0 4
    let a := (t.rfOf x).read2 f.a x.low
    let rows := fieldN a 0 16
    let cols := fieldN a 16 13
    let first := fieldN a 32 11
    if x.slices.isEmpty && k.tileUsed x.block h then .wait
    else
      let st := k.allocStatus x.block h rows cols first (fieldN a 29 3 != 0)
      let n := (rows * cols + 1023) / 1024
      let t := if st ≠ 0 then t
        else t.modCore x.core fun k =>
          (k.handOverAcc first n).setTile x.block h
            { Tile.free with state := 1, i32 := bitAt f.sel 4, first := first, nbk := n, rows := rows, cols := cols }
      .done (t.putOnce x 1 f.d (BitVec.ofNat 64 st))

/-- ACFREE (R149, R363): a warp must hold every band of the tile; the jobs that name the tile complete first. -/
def execAcfree (f : FmtS) (s : State) : Host.Outcome State Fault Refusal :=
  s.issueOnce (.acfree f) fun x t =>
    let k := t.core x.core
    let h := fieldN f.sel 0 4
    let q := k.tile x.block h
    if q.state = 0 then x.fault cAU (tileFva 0 h)
    else if !x.slices.isEmpty && (q.bands.isEmpty || q.bands.any fun b => b.warp != x.warp) then x.fault cAB (tileFva 0 h)
    else if k.tileUsed x.block h then .wait
    else .done (t.modCore x.core fun k => k.setTile x.block h Tile.free)

/-- ACSTAT of a tile (R148, R364): the stream waits for its own jobs on it. -/
def execAcstat (f : FmtS) (s : State) : Host.Outcome State Fault Refusal :=
  s.issueOnce (.acstat f) fun x t =>
    let k := t.core x.core
    let h := fieldN f.sel 0 4
    if x.slices.isEmpty && k.tileUsed x.block h then .wait
    else .done (t.putOnce x 2 f.d (k.tileWord (k.tile x.block h)))

/-- The block's matrix status word (R159). -/
def Block.mxWord (b : Block) : DWord :=
  BitVec.ofNat 64 ((if b.ua then 2 ^ 31 else 0) + (if b.trb then 2 ^ 30 else 0) + (if b.fbs then 2 ^ 29 else 0) + b.fbn)

/-- ACSTAT.blk (R159, R364): `.clr` clears UA, TRB and FBS in the same step. -/
def execAcstatBlk (f : FmtS) (s : State) : Host.Outcome State Fault Refusal :=
  s.issueOnce (.acstatBlk f) fun x t =>
    let v := ((t.core x.core).block x.block).mxWord
    let t := if bitAt f.sel 5 then t.modBlock x.core x.block fun b => { b with ua := false, trb := false, fbs := false } else t
    .done (t.putOnce x 1 f.d v)

/-- Whether two bands share a row. -/
def Band.overlaps (b : Band) (row0 n : Nat) : Bool := b.row0 < row0 + n && row0 < b.row0 + b.nrows

/-- A band instruction (R361, R365): AU for a free tile; a sequencer holds no bands. -/
def State.bandIssue (s : State) (i : Instr) (f : FmtS) (body : Issue → State → Tile → Act) : Host.Outcome State Fault Refusal :=
  s.issueOnce i fun x t =>
    let h := fieldN f.sel 0 4
    let q := (t.core x.core).tile x.block h
    if q.state = 0 then x.fault cAU (tileFva 0 h)
    else if x.slices.isEmpty then x.fault cAB (tileFva 0 h)
    else body x t q

/-- ACBAND (R150, R365). -/
def execAcband (f : FmtS) (s : State) : Host.Outcome State Fault Refusal :=
  s.bandIssue (.acband f) f fun x t q =>
    let h := fieldN f.sel 0 4
    let a := (t.rfOf x).read1 f.a x.low
    let row0 := fieldN a 0 16
    let n := fieldN a 16 16
    if n = 0 || q.rows < row0 + n || 8 ≤ q.bands.length || q.bands.any fun b => b.overlaps row0 n then x.fault cAB (tileFva 0 h)
    else .done (t.modCore x.core fun k => k.setTile x.block h { q with bands := q.bands ++ [⟨row0, n, x.warp⟩] })

/-- ACBAND.rel (R365). -/
def execAcbandRel (f : FmtS) (s : State) : Host.Outcome State Fault Refusal :=
  s.bandIssue (.acbandRel f) f fun x t q =>
    .done (t.modCore x.core fun k =>
      k.setTile x.block (fieldN f.sel 0 4) { q with bands := q.bands.filter fun b => b.warp != x.warp })

/-! ## The fold of an element (R124 to R126, R151) -/

/-- Chain values: E low, O high. -/
def chainE (v : DWord) : Word := v.setWidth 32
def chainO (v : DWord) : Word := v.extractLsb' 32 32

/-- An exact sum in a chain: wrapped, or clamped, and whether it clamped (R125, R126). -/
def addI32 (sat : Bool) (a b : Int) : Word × Bool :=
  let v := a + b
  if sat && (decide (v < -(2 ^ 31)) || decide (2 ^ 31 ≤ v)) then (BitVec.ofInt 32 (if v < 0 then -(2 ^ 31) else 2 ^ 31 - 1), true)
  else (BitVec.ofInt 32 v, false)

/-- The folded value of an element of a tile's kind, and whether the fold clamped. -/
def foldChains (i32 satm : Bool) (v : DWord) : Word × Bool :=
  if i32 then addI32 satm (chainE v).toInt (chainO v).toInt
  else (BitVec.ofNat 32 (fp32.encode 1 ((fp32.decode (chainE v).toNat).add (fp32.decode (chainO v).toNat))), false)

/-- Element `e` of tile `h` folded; a fold that clamps sets SATX (R126). -/
def Core.foldElem (k : Core) (b h e : Nat) : Word × Core :=
  let t := k.tile b h
  let v := foldChains t.i32 t.satm (k.accElem (t.at_ e))
  (v.1, if v.2 then k.setTile b h { t with satx := true } else k)

/-! ## ACRD and ACRDCLR (R151, R366) -/

/-- The element index of a lane. -/
def elemIndex (f : FmtA) (t : Tile) (r : RF) (lane : Nat) : Nat :=
  (r.read1 f.a lane).toNat * t.cols + (r.read1 f.b lane).toNat

/-- The tile of a block that owns the bank of element index `e` of a tile, with its handle. -/
def Core.bankTile (k : Core) (b : Nat) (t : Tile) (e : Nat) : Option (Nat × Tile) :=
  let bank := t.first + e / 1024
  (k.tiles.find? fun p => p.1 / 16 == b && p.2.overlaps bank 1).map fun p => (p.1 % 16, p.2)

/-- The element that a read returns (R151): the named tile's, another tile's of the block, or none. -/
def Core.readFrom (k : Core) (b h : Nat) (t : Tile) (e : Nat) : Option (Nat × Tile × Nat) :=
  if e < t.extent then some (h, t, e)
  else
    match k.bankTile b t e with
    | some (h', o) =>
      let x := (t.first + e / 1024 - o.first) * 1024 + e % 1024
      if h' ≠ h ∧ x < o.extent then some (h', o, x) else none
    | none => none

/-- What a lane of ACRDCLR is refused for (R366). -/
def Core.clearFault (k : Core) (b warp : Nat) (t : Tile) (i e : Nat) : Option (BitVec 8) :=
  if t.extent ≤ e then some (if (k.bankTile b t e).isSome then cAB else cAU)
  else if t.bands.any fun q => q.warp == warp && q.row0 ≤ i && i < q.row0 + q.nrows then none
  else some cAB

/-- Where a poisoned element lies, for a storage machine check (R105). -/
def accXv (n : Nat) : DWord := BitVec.ofNat 64 (2 * 2 ^ 21 + n % 1024 / 2 * 2 ^ 12 + n / 1024 % 4096)

/-- One lane's read, in order: its value, and the element cleared under `clr`. -/
def Core.readLane (k : Core) (b h : Nat) (t : Tile) (clr : Bool) (e : Nat) : Word × Core :=
  match k.readFrom b h t e with
  | some (h', o, x) =>
    let v := k.foldElem b h' x
    (v.1, if clr then v.2.putAcc (o.at_ x) 0 else v.2)
  | none => (0, k.modBlock b fun q => { q with ua := true })

/-- A read of a tile (R366): the tile's checks, then every lane's, then the lanes in increasing order. With both operands in k
registers or gz it runs once (R95). -/
def State.tileRead (s : State) (i : Instr) (f : FmtA) (clr : Bool) : Host.Outcome State Fault Refusal :=
  s.issueLane i fun x s =>
    let k := s.core x.core
    let r := (s.warp x.core x.warp).rf
    let h := fieldN f.c 0 4
    let t := k.tile x.block h
    let lanes := if !isG f.a && !isG f.b then x.acting.take 1 else x.acting
    let idx := lanes.map fun l => (l, elemIndex f t r l)
    if x.acting.isEmpty then .done s
    else if t.state = 0 then x.fault cAU (tileFva 0 h)
    else if t.state ≠ 2 ∨ f.ty ≠ (if t.i32 then 1#4 else 3#4) then x.fault cAB (tileFva 0 h)
    else
      match (if clr then idx.find? fun p => (k.clearFault x.block x.warp t (r.read1 f.a p.1).toNat p.2).isSome else none) with
      | some p => .fault [p.1 / 4] ((k.clearFault x.block x.warp t (r.read1 f.a p.1).toNat p.2).getD cAB) (tileFva p.2 h)
      | none =>
        let s := s.meetAcc x.core (idx.filterMap fun p => (k.readFrom x.block h t p.2).map fun q => q.2.1.at_ q.2.2)
        let k := s.core x.core
        let bad := idx.filterMap fun p =>
          match k.readFrom x.block h t p.2 with
          | some (_, o, e) => if k.accPoison (o.at_ e) then some (p.1, accXv (o.at_ e)) else none
          | none => none
        match bad with
        | b :: rest => .check s (storageMc b.1 (!rest.isEmpty) b.2)
        | [] =>
          let out := idx.foldl (fun (acc : Core × List (Nat × Word)) p =>
            let v := acc.1.readLane x.block h t clr p.2
            (v.2, acc.2 ++ [(p.1, v.1)])) (k, [])
          let v := fun l => match out.2.find? fun p => p.1 == l with
            | some p => p.2.setWidth 64
            | none => ((out.2.map Prod.snd).headD 0).setWidth 64
          .done ((s.setCore x.core out.1).setRF x.core x.warp (r.writeLanes 1 f.d x.acting v))

/-- ACRD (R366). -/
def execAcrd (f : FmtA) (s : State) : Host.Outcome State Fault Refusal := s.tileRead (.acrd f) f false

/-- ACRDCLR (R366). -/
def execAcrdclr (f : FmtA) (s : State) : Host.Outcome State Fault Refusal := s.tileRead (.acrdclr f) f true

end Sys2Proof.Machine
end

