-- ==== Sys2Proof/Machine/Matrix.lean ====
section
/-!
DEFINITION. The matrix path (spec/08 R143, R144, R152 to R160; spec/19 R356 to R360): MMA, ACZ, ACDRN and ACCLOSE as the stream
accepts them, the choice of the next job, an output block in the order of summation of spec/06 (R120 to R126), a line of a drain.
-/

namespace Sys2Proof.Machine

/-! ## Acceptance (R143, R356) -/

/-- Whether a job writes a tile (R149). -/
def MxJob.writesTile (j : MxJob) (h : Nat) : Bool := (j.sub == 0 || j.sub == 3) && j.f.acc.toNat == h

/-- Whether the stream of a block holds four accepted jobs (R143). -/
def Core.jobsFull (k : Core) (b : Nat) : Bool := 4 ≤ (k.jobs.filter fun j => j.block == b).length

/-- Whether an accepted job writes a tile (R143). -/
def Core.tileWritten (k : Core) (b h : Nat) : Bool := k.jobs.any fun j => j.block == b && j.writesTile h

/-- One arrival on a numbered barrier of a block, if BN names one (R356). -/
def State.arriveBn (s : State) (c b : Nat) (bn : BitVec 4) : State :=
  if bn = 15 then s else s.modBlock c b fun y => y.setBar bn.toNat (y.bar bn.toNat).arrive

/-- A q register of the matrix stream. -/
def State.mxReg (s : State) (x : Issue) (q : BitVec 6) : Word := ((s.core x.core).seq x.block false).rf.readK q.toNat

/-- A job accepted: its operands and descriptors are read now (R322, R357); MMA and ACDRN enter the window (R144). -/
def State.acceptJob (s : State) (x : Issue) (sub : Nat) (f : FmtMX) : State :=
  let b := (s.core x.core).block x.block
  let j : MxJob :=
    { id := s.nextId, block := x.block, sub := sub, jpc := x.pc, opw := x.opw, f := f, da := Sparse.get 0 b.desc f.da.toNat,
      db := Sparse.get 0 b.desc f.db.toNat, m := (s.mxReg x f.qm).toNat, n := (s.mxReg x f.qn).toNat, k := (s.mxReg x f.qk).toNat,
      word := s.mxReg x f.qm, started := false, bi := 0, bj := 0, att := none, next := 0, pois := false, code := 0, fva := 0, done := false }
  ({ s with nextId := s.nextId + 1 } : State).modCore x.core fun k =>
    { k with jobs := k.jobs ++ [j], window := if sub = 3 then k.window else k.window ++ [.job j.id] }

/-- MMA (R152, R153, R357): the first three rows of R153 are checked at acceptance. -/
def execMma (f : FmtMX) (s : State) : Host.Outcome State Fault Refusal :=
  s.issueStream (.mma f) fun x t =>
    let k := t.core x.core
    let acc := f.acc.toNat
    let da := f.da.toNat
    let q := k.tile x.block acc
    let a := k.tile x.block da
    let src := f.asrc == 1
    if k.jobsFull x.block || k.tileUsed x.block acc || (src && k.tileWritten x.block da) then .wait
    else if q.state = 0 then x.fault cAU (tileFva 0 acc)
    else if src && a.state == 0 then x.fault cAU (tileFva 0 da)
    else if q.state ≠ 1 then x.fault cAB (tileFva 0 acc)
    else if src && a.state != 2 then x.fault cAB (tileFva 0 da)
    else if q.i32 != (f.am != 0) then x.fault cAB (tileFva 0 acc)
    else .done (t.acceptJob x 0 f)

/-- ACZ (R149, R358). -/
def execAcz (f : FmtMX) (s : State) : Host.Outcome State Fault Refusal :=
  s.issueStream (.acz f) fun x t =>
    let k := t.core x.core
    let h := f.acc.toNat
    let q := k.tile x.block h
    if k.jobsFull x.block || k.tileUsed x.block h then .wait
    else if q.state = 0 then x.fault cAU (tileFva 0 h)
    else
      .done ((t.modCore x.core fun k =>
        (k.handOverAcc q.first q.nbk).setTile x.block h { q with state := 1, satx := false, bands := [] }).arriveBn x.core x.block f.bn)

/-- ACDRN (R160, R359): the slot and the destination's extent are checked once the slot's earlier operations are complete. -/
def execAcdrn (f : FmtMX) (s : State) : Host.Outcome State Fault Refusal :=
  s.issueStream (.acdrn f) fun x t =>
    let k := t.core x.core
    let h := f.acc.toNat
    if k.jobsFull x.block || k.tileWritten x.block h then .wait
    else if (k.tile x.block h).state = 0 then x.fault cAU (tileFva 0 h)
    else .done (t.acceptJob x 2 f)

/-- ACCLOSE (R149, R360). -/
def execAcclose (f : FmtMX) (s : State) : Host.Outcome State Fault Refusal :=
  s.issueStream (.acclose f) fun x t =>
    let k := t.core x.core
    let h := f.acc.toNat
    if k.jobsFull x.block || k.tileUsed x.block h then .wait
    else if (k.tile x.block h).state = 0 then x.fault cAU (tileFva 0 h)
    else if (k.tile x.block h).state ≠ 1 then x.fault cAB (tileFva 0 h)
    else .done (t.acceptJob x 3 f)

/-! ## Jobs -/

def Core.job (k : Core) (id : Nat) : Option MxJob := k.jobs.find? fun j => j.id == id
def Core.modJob (k : Core) (id : Nat) (f : MxJob → MxJob) : Core :=
  { k with jobs := k.jobs.map fun j => if j.id = id then f j else j }

/-- A job that is complete leaves the stream and the window, and its arrival is counted (R143, R356). -/
def State.finishJob (s : State) (c : Nat) (j : MxJob) : State :=
  ((s.modCore c fun k => { k.leaveWindow (.job j.id) with jobs := k.jobs.filter fun i => i.id != j.id }).arriveBn c j.block
    j.f.bn).retire c j.block

/-- Whether the array and the down-converter of a core may go on: their context's halt has not reached them. -/
def State.arrayRuns (s : State) (c b : Nat) : Bool := (s.ctx ((s.core c).block b).ctx).runs [.array c]

/-- TILE_CLOSE (R149, R360): every earlier job on the tile is complete. -/
def execTileClose (core job : Nat) (s : State) : Host.Outcome State Fault Refusal :=
  .next <|
    let k := s.core core
    match k.job job with
    | none => s
    | some j =>
      let h := j.f.acc.toNat
      if j.sub ≠ 3 || !s.arrayRuns core j.block || k.jobs.any fun i => i.block == j.block && i.id < job && i.usesTile h then s
      else
        (s.modCore core fun k => k.modTile j.block h fun t =>
          { t with state := 2, slot := j.f.fa.toNat, word := j.word }).finishJob core j

/-! ## The checks against the slots (R153, R359) -/

/-- A late fault of a job, with its FVA. -/
abbrev LateFault := Option (BitVec 8 × DWord)

/-- SL of a slot that is unbound or whose image does not implement a word, in a descriptor or kept with a tile. -/
def State.slotFault (s : State) (c fs : Nat) (w : Word) : LateFault :=
  match s.slotImg c fs with
  | none => some (cSL, BitVec.ofNat 64 fs)
  | some i => if i.implements w 0 then none else some (cSL, BitVec.ofNat 64 fs)

/-- PF of a line extent that DSET did not check (R146, R153). -/
def State.extentFault (s : State) (c fs : Nat) (d : BitVec 256) : LateFault :=
  match wordWidth (dFmt d), s.slotImg c fs with
  | none, some i =>
    let e := i.elt (dFmt d) 0
    let a := dLineArea d e.width (e == .tern)
    if a.2 ≠ 0 ∧ (s.core c).scrSize < a.1 + a.2 then some (cPF, BitVec.ofNat 64 a.1) else none
  | _, _ => none

/-- The word under which an MMA's A elements are decoded. -/
def State.wordA (s : State) (c : Nat) (j : MxJob) : Word :=
  if j.f.asrc = 1 then ((s.core c).tile j.block j.f.da.toNat).word else dFmt j.da

/-- Whether an operand's word is refused by I32 accumulation (R123, R153). -/
def badInt (w : Word) : Bool := wFam w != 1 || wBsc w

/-- The slot rows of R153, in their order. -/
def State.mmaFault (s : State) (c : Nat) (j : MxJob) : LateFault :=
  let fa := j.f.fa.toNat
  let src := j.f.asrc == 1
  let wa := s.wordA c j
  let wb := dFmt j.db
  let sl : LateFault := some (cSL, BitVec.ofNat 64 fa)
  let keep : LateFault := if src && ((s.core c).tile j.block j.f.da.toNat).slot != fa then sl else none
  let fd : LateFault := if j.f.fbk = 1 then s.slotFault c j.f.fd.toNat 0x20000000 else none
  let int : LateFault :=
    if j.f.am ≠ 0 ∧ (badInt wa ∨ badInt wb ∨ j.f.fbk = 1 ∨ (!src && dOcap j.da != 0)) then sl
    else if src && wBsc wa then sl else none
  let pf := if src then none else s.extentFault c fa j.da
  (s.slotFault c fa wa).or ((s.slotFault c j.f.fb.toNat wb).or (fd.or (keep.or (int.or (pf.or (s.extentFault c j.f.fb.toNat j.db))))))

/-- The checks of an ACDRN (R160, R359). -/
def State.drainFault (s : State) (c : Nat) (j : MxJob) : LateFault :=
  let fs := j.f.fb.toNat
  let bsc : LateFault := if wBsc (dFmt j.db) then some (cSL, BitVec.ofNat 64 fs) else none
  (s.slotFault c fs (dFmt j.db)).or (bsc.or (s.extentFault c fs j.db))

/-! ## The next job (R144, R153) -/

/-- Whether a bind or release of a slot, accepted before a job, is not complete (R137). -/
def Core.slotsPend (k : Core) (j : MxJob) : Bool :=
  (List.range 8).any fun fs => j.names fs && (k.fslot fs).queue.any fun op => op.id < j.id

/-- Whether a job may be performed: its edges are satisfied, the slots it names are settled, and no earlier job of its stream
touches a tile of its (R60, R143, R153). -/
def Core.jobReady (k : Core) (j : MxJob) : Bool :=
  !j.started && j.code == 0 && k.edgesDone (.job j.id) && !k.slotsPend j
    && !k.jobs.any fun i => i.block == j.block && i.id < j.id
        && (j.usesTile i.f.acc.toNat || (i.sub == 0 && i.f.asrc == 1 && j.usesTile i.f.da.toNat))

/-- The jobs of a kind that are ready, in window order. -/
def Core.readyJobs (k : Core) (sub : Nat) : List MxJob :=
  k.window.filterMap fun e => match e with
    | .copy _ => none
    | .job id => match k.job id with
      | some j => if j.sub == sub && k.jobReady j then some j else none
      | none => none

/-- The next job of a kind (R144): the earliest of a block other than the last one's, or the earliest. -/
def Core.nextJob (k : Core) (sub : Nat) (last : Option Nat) : Option MxJob :=
  match (k.readyJobs sub).find? fun j => some j.block != last with
  | some j => some j
  | none => (k.readyJobs sub).head?

/-- Whether the array performs an MMA whose A source is a tile: the down-converter supplies it (R144). -/
def Core.converting (k : Core) : Bool :=
  match k.arr with
  | some id => k.jobs.any fun j => j.id == id && j.f.asrc == 1
  | none => false

/-- The output blocks of an MMA along each axis: an output beyond ACC is not written; an empty extent, and K = 0 without ZC, write
nothing (R152). -/
def mmaGrid (j : MxJob) (t : Tile) : Nat × Nat :=
  if j.k = 0 ∧ j.f.zc = 0 then (0, 0) else ((min j.m t.rows + 63) / 64, (min j.n t.cols + 63) / 64)

/-- The lines and the columns that a drain writes (R160). -/
def drainGrid (j : MxJob) (t : Tile) : Nat × Nat := (min t.rows (dLines j.db), min t.cols (dLen j.db))

/-- JOB_DISPATCH (R144, R153): the array, or the down-converter, takes its next job; a job that fails its checks is a program fault
of the context. -/
def execJobDispatch (core : Nat) (drain : Bool) (s : State) : Host.Outcome State Fault Refusal :=
  .next <|
    let k := s.core core
    let busy := if drain then k.drn.isSome || k.converting else k.arr.isSome
    match (if busy then none else k.nextJob (if drain then 2 else 0) (if drain then k.lastDrn else k.lastArr)) with
    | none => s
    | some j =>
      if !s.arrayRuns core j.block || (!drain && j.f.asrc == 1 && k.drn.isSome) then s
      else
        match (if drain then s.drainFault core j else s.mmaFault core j) with
        | some (code, fva) =>
          (s.modCore core fun k => k.modJob j.id fun i => { i with code := code, fva := fva }).modCtx (k.block j.block).ctx
            fun x => x.halt code
        | none =>
          let t := k.tile j.block j.f.acc.toNat
          let g := if drain then drainGrid j t else mmaGrid j t
          s.modCore core fun k =>
            let k := k.modJob j.id fun i => { i with started := true, done := g.1 == 0 || g.2 == 0 }
            if drain then { k with drn := some j.id }
            else { k.setTile j.block j.f.acc.toNat { t with satm := j.f.am == 2 } with arr := some j.id }

/-- MATRIX_JOB_COMPLETE (R143, R356). -/
def execMatrixJobComplete (core job : Nat) (s : State) : Host.Outcome State Fault Refusal :=
  .next <|
    match (s.core core).job job with
    | none => s
    | some j =>
      if !j.done || !s.arrayRuns core j.block then s
      else
        (s.modCore core fun k =>
          if j.sub = 0 then { k with arr := none, lastArr := some j.block } else { k with drn := none, lastDrn := some j.block }).finishJob
          core j

/-! ## Operands (R114 to R117, R145, R152, R155 to R157) -/

/-- A row of A, or a column of B, over K: none is a masked position; the scale of each run of 32, none where it is taken as 1;
whether poison was read; whether the down-converter met its format's limit (R157); whether a fold of the source clamped. -/
structure OpRow where
  vals : List (Option FpVal)
  scales : List (Option FpVal)
  pois : Bool
  lim : Bool
  sat : Bool
  deriving DecidableEq, Repr

/-- The code of element `i` of line `l` of a descriptor. -/
def Core.lineCode (k : Core) (d : BitVec 256) (t : Elt) (l i : Nat) : Nat :=
  let at_ := dBase d + l * dPitch d
  if t = .tern then tritOf (k.scrNat (at_ + 7 * (i / 32) + i % 32 / 5) 1) (i % 32 % 5)
  else
    let b := elemBit t.width i
    k.scrNat (at_ + b / 8) ((b % 8 + t.width + 7) / 8) / 2 ^ (b % 8) % 2 ^ t.width

/-- The scale of run `r` of line `l` (R116, R145). -/
def Core.lineScale (k : Core) (d : BitVec 256) (l r : Nat) : FpVal :=
  scaleVal (k.scrNat (dSptr d + 8 * l * dSpitch d + 8 * (r / 3)) 8 / 2 ^ (20 * (r % 3)) % 2 ^ 20)

/-- The positions of a line that its descriptor holds, of the first `n`. -/
def lineHeld (d : BitVec 256) (l n : Nat) : Nat := if l < dLines d then min n (dLen d) else 0

/-- A line of a descriptor (R152, R117). -/
def Core.opRow (k : Core) (d : BitVec 256) (t : Elt) (l n : Nat) : OpRow :=
  let held := lineHeld d l n
  let bsc := wBsc (dFmt d)
  { vals := (List.range n).map fun i => if i < held then some (t.decode (k.lineCode d t l i)) else none
    scales := (List.range ((n + 31) / 32)).map fun r => if bsc && 32 * r < held then some (k.lineScale d l r) else none
    pois := (k.scrPoisonAt (dBase d + l * dPitch d) (lineBytes t.width (t == .tern) held)).isSome
      || (bsc && (k.scrPoisonAt (dSptr d + 8 * l * dSpitch d) (8 * ((held + 95) / 96))).isSome)
    lim := false
    sat := false }

/-- A line of the BF16 fallback source (R145, R156): without one every element reads as zero. -/
def Core.fallRow (k : Core) (d : BitVec 256) (l n : Nat) : OpRow :=
  let held := lineHeld d l n
  let at_ := dFsrc d + 16 * l * dFpitch d
  let none_ := dFpitch d = 0
  { vals := (List.range n).map fun i =>
      if held ≤ i then none else if none_ then some (.fin false 0 0) else some (bf16.decode (k.scrNat (at_ + 2 * i) 2))
    scales := []
    pois := !decide none_ && (k.scrPoisonAt at_ (2 * held)).isSome
    lim := false
    sat := false }

/-- A folded element as binary32 (R152, R157). -/
def foldF32 (i32 : Bool) (v : Word) : FpVal :=
  fp32.decode (if i32 then fp32.encode 1 (intFp v.toInt) else v.toNat)

/-- Row `i` of a source tile through a conversion (R152, R157). -/
def Core.tileRow (k : Core) (b h i n : Nat) (conv : FpVal → FpVal × Bool) : OpRow :=
  let t := k.tile b h
  let held := if i < t.rows then min n t.cols else 0
  let es := (List.range held).map fun j => i * t.cols + j
  let vs := es.map fun e => foldChains t.i32 t.satm (k.accElem (t.at_ e))
  let cs := vs.map fun v => conv (foldF32 t.i32 v.1)
  { vals := cs.map (fun c => some c.1) ++ List.replicate (n - held) none
    scales := []
    pois := es.any fun e => k.accPoison (t.at_ e)
    lim := cs.any Prod.snd
    sat := vs.any Prod.snd }

/-- The magnitude of a value. -/
def fpMag : FpVal → FpVal
  | .fin _ m e => .fin false m e
  | .inf _ => .inf false
  | .nan => .nan

/-- The down-converter of the narrow path (R152, R157): the value that a folded element has in the format, and whether a finite one
was delivered as the largest magnitude in place of a larger value, or as an infinity. -/
def downConvert (t : Elt) (digest : BitVec 384) (w : Word) (mode : Nat) (x : FpVal) : FpVal × Bool :=
  let c := t.encode digest w mode x
  let v := t.decode c
  let hit := match x, v with
    | .fin _ _ _, .inf _ => true
    | .fin n _ _, .fin _ m _ => m != 0 && c == t.limit digest w n && FpVal.cmp (fpMag x) (fpMag v) == some .gt
    | _, _ => false
  (v, hit)

/-- The down-converter of the wide path (R157). -/
def toBf16 (x : FpVal) : FpVal × Bool := (bf16.decode (bf16.encode 1 x), false)

/-! ## A group (R121 to R123) -/

/-- The products of two operands over a group: a masked position contributes an exact zero (R120), which takes no part. -/
def products (a b : List (Option FpVal)) : List FpVal :=
  (a.zip b).filterMap fun p => match p with
    | (some x, some y) => some (x.mul y)
    | _ => none

def isNan : FpVal → Bool
  | .nan => true
  | _ => false

/-- The sign of an infinity. -/
def infSign : FpVal → Option Bool
  | .inf n => some n
  | _ => none

/-- The weight of the leading bit of a non-zero product. -/
def leadBit : FpVal → Option Int
  | .fin _ m e => if m = 0 then none else some ((m.log2 : Int) + e)
  | _ => none

/-- A product truncated toward zero to a multiple of 2^W, in units of 2^W. -/
def truncTo (w : Int) : FpVal → Int
  | .fin n m e =>
    let q : Int := if w ≤ e then (m * 2 ^ (e - w).toNat : Nat) else (m / 2 ^ (w - e).toNat : Nat)
    if n then -q else q
  | _ => 0

/-- The sum of a group in its window (R121, R122): `m` is the larger significand width. -/
def groupSum (m : Nat) (ps : List FpVal) : FpVal :=
  let signs := ps.filterMap infSign
  if ps.any isNan || (signs.contains true && signs.contains false) then .nan
  else
    match signs with
    | n :: _ => .inf n
    | [] =>
      match ps.filterMap leadBit with
      | [] => .fin false 0 0
      | l :: ls =>
        let w : Int := ls.foldl max l - (2 * (m : Int) + 6)
        let q : Int := (ps.map (truncTo w)).sum
        .fin (decide (q < 0)) q.natAbs w

/-- A scale taken as 1 where there is none. -/
def scaleOr1 (s : Option FpVal) : FpVal := s.getD (.fin false 1 0)

/-- A sum under the scales of its run: a NaN scale makes it NaN, a zero scale +0 (R123). -/
def underScales (v : FpVal) (a b : Option FpVal) : FpVal :=
  if isNan (scaleOr1 a) || isNan (scaleOr1 b) then .nan
  else if (scaleOr1 a).isZero || (scaleOr1 b).isZero then .fin false 0 0
  else (v.mul (scaleOr1 a)).mul (scaleOr1 b)

/-- The sum of a group of integers (R123). -/
def groupInt (ps : List FpVal) : Int := (ps.map (truncTo 0)).sum

/-! ## Chains (R124 to R126) -/

/-- An element's chains while groups are added: whether one turned from finite to infinite, whether an add clamped. -/
structure Chains where
  e : Word
  o : Word
  turned : Bool
  sat : Bool
  deriving DecidableEq, Repr

def Chains.dword (c : Chains) : DWord := c.o ++ c.e

/-- Whether a binary32 code is finite, infinite. -/
def finite32 (w : Word) : Bool := fieldN w 23 8 != 255
def inf32 (w : Word) : Bool := fieldN w 23 8 == 255 && fieldN w 0 23 == 0

/-- A chain with its new value. -/
def Chains.put (c : Chains) (odd : Bool) (v : Word) : Chains := if odd then { c with o := v } else { c with e := v }
def Chains.get (c : Chains) (odd : Bool) : Word := if odd then c.o else c.e

/-- A group value added to a chain of an F32 tile (R123, R124): rounded once to binary32, then the chain is. -/
def Chains.addF (c : Chains) (odd : Bool) (v : FpVal) : Chains :=
  let old := c.get odd
  let new := BitVec.ofNat 32 (fp32.encode 1 ((fp32.decode old.toNat).add (fp32.decode (fp32.encode 1 v))))
  { c.put odd new with turned := c.turned || (finite32 old && inf32 new) }

/-- A group value added to a chain of an I32 tile (R125, R126). -/
def Chains.addI (c : Chains) (odd sat : Bool) (v : Int) : Chains :=
  let r := addI32 sat (c.get odd).toInt v
  { c.put odd r.1 with sat := c.sat || r.2 }

/-- Group `i` of an element added (R120, R123, R124). -/
def addGroup (g m : Nat) (i32 sat : Bool) (a b : OpRow) (c : Chains) (i : Nat) : Chains :=
  let ps := products ((a.vals.drop (g * i)).take g) ((b.vals.drop (g * i)).take g)
  let r := g * i / 32
  if i32 then c.addI (i % 2 == 1) sat (groupInt ps)
  else c.addF (i % 2 == 1) (underScales (groupSum m ps) (a.scales.getD r none) (b.scales.getD r none))

/-- The regular groups of an element over K = `n`. -/
def addGroups (g m n : Nat) (i32 sat : Bool) (a b : OpRow) (c : Chains) : Chains :=
  (List.range ((n + g - 1) / g)).foldl (addGroup g m i32 sat a b) c

/-! ## Outliers (R155) -/

/-- An entry of an outlier buffer. -/
structure OutEnt where
  line : Nat
  kpos : Nat
  val : FpVal
  deriving DecidableEq, Repr

/-- The counts of a buffer, and its entries. -/
def Core.bufCount (k : Core) (d : BitVec 256) (i : Nat) : Nat := k.scrNat (dObuf d + 4 * i) 4
/-- The entries that a job reads: NOUT of them, and no more than the buffer has places for (R155 counts none beyond; where a program wrote a
larger NOUT the model reads 16 × OCAP, DESIGN CHOICE, log 130). -/
def Core.bufUsed (k : Core) (d : BitVec 256) : Nat := min (k.bufCount d 0) (16 * dOcap d)
def Core.bufEnts (k : Core) (d : BitVec 256) : List OutEnt :=
  (List.range (k.bufUsed d)).map fun i =>
    let v := k.scrNat (dObuf d + 16 + 8 * i) 8
    ⟨v / 2 ^ 40, v / 2 ^ 16 % 2 ^ 24, fp16.decode (v % 2 ^ 16)⟩

/-- The value of the correction group of an output (R155). R155 names no special values here: an infinity or a NaN of VAL against a run of B with a zero
scale is the +0 of R123's group rule (DESIGN CHOICE, log 129). -/
def corrValue (es : List OutEnt) (line n : Nat) (b : OpRow) : FpVal :=
  groupSum 11 ((es.filter fun e => e.line == line && e.kpos < n).map fun e =>
    underScales (match b.vals.getD e.kpos none with
      | some y => e.val.mul y
      | none => .fin false 0 0) none (b.scales.getD (e.kpos / 32) none))

/-! ## An output block (R152, R156 to R158) -/

/-- What an MMA's operands are decoded with: the members, the digest of A's image, A's word, the mode of the slot that A's tile kept. -/
structure MmaEnv where
  ta : Elt
  tb : Elt
  digest : BitVec 384
  word : Word
  mode : Nat
  deriving DecidableEq, Repr

def State.mmaEnv (s : State) (c : Nat) (j : MxJob) : Option MmaEnv :=
  match s.slotImg c j.f.fa.toNat, s.slotImg c j.f.fb.toNat with
  | some ia, some ib =>
    some ⟨ia.elt (s.wordA c j) 0, ib.elt (dFmt j.db) 0, ia.digest, s.wordA c j, (ia.mode 0).getD 1⟩
  | _, _ => none

/-- Row `i` of A on a path. -/
def Core.mmaRow (k : Core) (j : MxJob) (e : MmaEnv) (wide : Bool) (i : Nat) : OpRow :=
  if j.f.asrc = 1 then
    k.tileRow j.block j.f.da.toNat i j.k (if wide then toBf16 else downConvert e.ta e.digest e.word e.mode)
  else if wide then k.fallRow j.da i j.k
  else k.opRow j.da e.ta i j.k

/-- The k-group size of an attempt (R120): BF16 stands for A on the wide path. -/
def MmaEnv.kgroup (e : MmaEnv) (wide : Bool) : Nat := min (if wide then Elt.fp bf16 else e.ta).group e.tb.group

/-- Whether an attempt ends with a correction group (R155). -/
def MxJob.corrects (j : MxJob) (wide : Bool) : Bool := !wide && j.f.asrc == 0 && dOcap j.da != 0

/-- The groups of an attempt (R152): the regular ones, and the correction group. -/
def MmaEnv.regular (e : MmaEnv) (j : MxJob) (wide : Bool) : Nat := (j.k + e.kgroup wide - 1) / e.kgroup wide
def MmaEnv.groups (e : MmaEnv) (j : MxJob) (wide : Bool) : Nat := e.regular j wide + if j.corrects wide then 1 else 0

/-- The elements of a tile in a block, row by row. -/
def blockElems (t : Tile) (is js : List Nat) : List Nat := is.flatMap fun i => js.map fun c => i * t.cols + c

/-- The outcome of an attempt: each element's index and chains, whether poison was read, the limit met, a source fold clamped. -/
structure Attempt where
  out : List (Nat × Chains)
  pois : Bool
  lim : Bool
  srcSat : Bool
  deriving DecidableEq, Repr

/-- Whether an attempt is in trouble by what happened in it (R156, R157). -/
def Attempt.trouble (a : Attempt) : Bool := a.lim || a.out.any fun p => p.2.turned

/-- The chains that an attempt goes on from (R152, R154): at its start zero, or the checkpoint; the tile's own after a stop. -/
def Core.startChains (k : Core) (j : MxJob) (p : MxAtt) (is js : List Nat) : List DWord :=
  let t := k.tile j.block j.f.acc.toNat
  if p.next ≠ 0 then (blockElems t is js).map fun n => k.accElem (t.at_ n)
  else if j.f.zc = 1 then (blockElems t is js).map fun _ => 0
  else p.cp

/-- The next `n` groups of an attempt at a block, rows `is`, columns `js` of its tile (R152). -/
def Core.attempt (k : Core) (j : MxJob) (e : MmaEnv) (p : MxAtt) (is js : List Nat) (n : Nat) : Attempt :=
  let t := k.tile j.block j.f.acc.toNat
  let rows := is.map fun i => (i, k.mmaRow j e p.wide i)
  let cols := js.map fun i => (i, k.opRow j.db e.tb i j.k)
  let g := e.kgroup p.wide
  let m := max (if p.wide then Elt.fp bf16 else e.ta).sig e.tb.sig
  let es := if j.corrects p.wide then k.bufEnts j.da else []
  let i32 := j.f.am != 0
  let steps := (List.range n).map (p.next + ·)
  let add := fun (a b : Nat × OpRow) (c : Chains) (i : Nat) =>
    if i < e.regular j p.wide then addGroup g m i32 (j.f.am == 2) a.2 b.2 c i
    else if j.corrects p.wide && i == e.regular j p.wide then c.addF (i % 2 == 1) (corrValue es a.1 j.k b.2)
    else c
  { out := ((rows.flatMap fun a => cols.map fun b => (a, b)).zip (k.startChains j p is js)).map fun q =>
      (q.1.1.1 * t.cols + q.1.2.1, steps.foldl (add q.1.1 q.1.2) ⟨chainE q.2, chainO q.2, p.turned, p.sat⟩)
    pois := p.pois || rows.any (fun a => a.2.pois) || cols.any (fun b => b.2.pois)
      || (j.corrects p.wide && (k.scrPoisonAt (dObuf j.da) (16 + 8 * k.bufUsed j.da)).isSome)
    lim := rows.any fun a => a.2.lim
    srcSat := rows.any fun a => a.2.sat }

/-- An attempt after `n` more of its groups, with their outcome. -/
def MxAtt.after (p : MxAtt) (n : Nat) (a : Attempt) : MxAtt :=
  { p with next := p.next + n, turned := a.out.any fun q => q.2.turned, sat := a.out.any fun q => q.2.sat, pois := a.pois }

/-- The wide attempt that follows a narrow one, from the checkpoint (R156). -/
def MxAtt.again (p : MxAtt) : MxAtt := { p with wide := true, next := 0, turned := false, sat := false, pois := false }

/-- Trouble that is known before the attempt (R156). -/
def Core.knownTrouble (k : Core) (j : MxJob) : Bool :=
  j.f.asrc == 0 && dOcap j.da != 0 && (k.bufCount j.da 1 != 0 || dClip j.da < k.bufCount j.da 2)

/-- A block that falls back is counted (R158): in the block's status, and in its region, whose counter notifies once when it
saturates. -/
def State.countFallback (s : State) (c b : Nat) : State :=
  let rcb := (s.ctx ((s.core c).block b).ctx).rcb
  let s := s.modBlock c b fun q => { q with fbs := true, fbn := min 65535 (q.fbn + 1) }
  let n := (s.region rcb).fbcnt
  let s := s.modRegion rcb fun r => { r with fbcnt := min 65535 (n + 1) }
  if n + 1 = 65535 && !(s.region rcb).fbsat then
    (s.postRegion rcb 0x81 (BitVec.ofNat 64 rcb) 0 0 0).modRegion rcb fun r => { r with fbsat := true }
  else s

/-- FWIDE of a launch (R202). -/
def Launch.fwide (l : Launch) : Bool := bitAt (l.dw 1) 13

/-- The rows and columns of an output block that are written. -/
def blockSpan (at_ n : Nat) : List Nat := (List.range (min 64 (n - 64 * at_))).map (64 * at_ + ·)

/-- The chains of an attempt written: a poisoned row stays poisoned unless its elements start from zero and are both written (R79). -/
def Core.putOut (k : Core) (j : MxJob) (a : Attempt) : Core :=
  let t := k.tile j.block j.f.acc.toNat
  let k := a.out.foldl (fun k p => k.putAcc (t.at_ p.1) p.2.dword) k
  if j.f.zc = 0 then k else k.clearAccRows (a.out.map fun p => t.at_ p.1)

/-- The chains of the attempt that stands, with the clamps that it met (R126). -/
def Core.putChains (k : Core) (j : MxJob) (a : Attempt) : Core :=
  let h := j.f.acc.toNat
  let k := k.putOut j a
  let k := if a.srcSat then k.modTile j.block j.f.da.toNat fun q => { q with satx := true } else k
  if a.out.any fun p => p.2.sat then k.modTile j.block h fun q => { q with satx := true } else k

/-- Every element that an MMA writes marked as poisoned (R80, R103). -/
def Core.poisonOutputs (k : Core) (j : MxJob) : Core :=
  let t := k.tile j.block j.f.acc.toNat
  (List.range (min j.m t.rows)).foldl (fun k i => (List.range (min j.n t.cols)).foldl (fun k c =>
    let e := t.at_ (i * t.cols + c)
    (k.putAcc e (k.accElem e)).poisonAcc e) k) k

/-- The record of a second failure of the matrix array's residue check (R103, R105): which syndrome it shows is open. -/
def State.arrayMc (s : State) (c : Nat) (j : MxJob) : State :=
  (s.postMc c 0 j.block { kind := 0, unit := 6, synd := 1 + s.free.toNat % 6, mult := false, lane := 0, seq := true, xv := 0 } j.jpc
    j.opw).bump

/-- The upset that meets a core's array (R103). -/
def Core.arrayUpset (k : Core) : Option Upset := k.upset.filter fun u => u.at_ == .array

/-- What the array's residue check does (R103, R390): a failure is counted as a replay, from the checkpoint, in the attempt that ran; a second
one, of an upset that stays or where `twice` says so, posts the record. -/
def State.arrayCheck (s : State) (c : Nat) (j : MxJob) (twice : Bool) : State :=
  match (s.core c).arrayUpset with
  | some u => if u.stuck || twice then (s.countReplay c u).arrayMc c j else s.countReplay c u
  | none =>
    if twice then (s.modCore c fun k => { k with chkrpl := if k.chkrpl = 0xFFFFFFFF then k.chkrpl else k.chkrpl + 1 }).arrayMc c j else s

/-- The attempt at the current block: the one that has begun, or the first (R152, R154). -/
def Core.curAttempt (k : Core) (j : MxJob) (fwide : Bool) (is js : List Nat) : MxAtt :=
  let t := k.tile j.block j.f.acc.toNat
  j.att.getD
    { wide := j.f.fbk == 1 && (fwide || k.knownTrouble j), next := 0, cp := (blockElems t is js).map fun n => k.accElem (t.at_ n),
      turned := false, sat := false, pois := false }

/-- Whether a block begins wide because trouble is known (R156), which counts as a fallback (R158). -/
def Core.startsWide (k : Core) (j : MxJob) (fwide : Bool) : Bool := j.att.isNone && j.f.fbk == 1 && !fwide && k.knownTrouble j

/-- The path of a block (R152, R156, R157): the attempt that stands, whether it is wide, whether it falls back now, whether trouble
stands without a fallback. -/
def Core.blockPath (k : Core) (j : MxJob) (e : MmaEnv) (fwide : Bool) (is js : List Nat) : Attempt × Bool × Bool × Bool :=
  let p := k.curAttempt j fwide is js
  let a := k.attempt j e p is js (e.groups j p.wide - p.next)
  if p.wide then (a, true, k.startsWide j fwide, false)
  else if a.trouble && j.f.fbk == 1 then (k.attempt j e p.again is js (e.groups j true), true, true, false)
  else (a, false, false, k.knownTrouble j || a.trouble)

/-- A block cut after `n` of the groups that are left (R154): the attempt that runs then, its chains, whether it falls back before. -/
def Core.cutPath (k : Core) (j : MxJob) (e : MmaEnv) (fwide : Bool) (is js : List Nat) (n : Nat) : MxAtt × Attempt × Bool :=
  let p := k.curAttempt j fwide is js
  let left := e.groups j p.wide - p.next
  let a := k.attempt j e p is js (min n left)
  if left < n && !p.wide && a.trouble && j.f.fbk == 1 then
    let m := min (n - left) (e.groups j true)
    let b := k.attempt j e p.again is js m
    (p.again.after m b, b, true)
  else (p.after (min n left) a, a, k.startsWide j fwide)

/-- The rows and the columns of an MMA's current block. -/
def Core.curRows (k : Core) (j : MxJob) : List Nat := blockSpan j.bi (min j.m (k.tile j.block j.f.acc.toNat).rows)
def Core.curCols (k : Core) (j : MxJob) : List Nat := blockSpan j.bj (min j.n (k.tile j.block j.f.acc.toNat).cols)

/-- FWIDE of a job's launch. -/
def State.jobWide (s : State) (c : Nat) (j : MxJob) : Bool := (s.launch ((s.core c).block j.block).launch).fwide

/-- Whether a job's scratchpad accesses are held behind stores that its core tracks (R180, R183). -/
def State.jobHeld (s : State) (c : Nat) (j : MxJob) : Bool :=
  match j.foot with
  | some f => (f.reads ++ f.writes).any fun p => s.scrHeld c p.lo.toNat (p.hi - p.lo).toNat
  | none => false

/-! ### What an MMA's reads find in the check codes (R75) -/

/-- The reads of a line of a descriptor. -/
def State.meetLine (s : State) (c : Nat) (d : BitVec 256) (t : Elt) (l n : Nat) : State :=
  let held := lineHeld d l n
  let s := s.meetScr c (dBase d + l * dPitch d) (lineBytes t.width (t == .tern) held)
  if wBsc (dFmt d) then s.meetScr c (dSptr d + 8 * l * dSpitch d) (8 * ((held + 95) / 96)) else s

/-- The reads of row `i` of A on a path. -/
def State.meetRow (s : State) (c : Nat) (j : MxJob) (e : MmaEnv) (wide : Bool) (i : Nat) : State :=
  if j.f.asrc = 1 then
    let t := (s.core c).tile j.block j.f.da.toNat
    s.meetAcc c ((List.range (if i < t.rows then min j.k t.cols else 0)).map fun n => t.at_ (i * t.cols + n))
  else if wide then
    if dFpitch j.da = 0 then s else s.meetScr c (dFsrc j.da + 16 * i * dFpitch j.da) (2 * lineHeld j.da i j.k)
  else s.meetLine c j.da e.ta i j.k

/-- The reads of an attempt at a block. -/
def State.meetAttempt (s : State) (c : Nat) (j : MxJob) (e : MmaEnv) (wide : Bool) (is js : List Nat) : State :=
  let t := (s.core c).tile j.block j.f.acc.toNat
  let s := js.foldl (fun s i => s.meetLine c j.db e.tb i j.k) (is.foldl (fun s i => s.meetRow c j e wide i) s)
  let s := if j.corrects wide then s.meetScr c (dObuf j.da) (16 + 8 * (s.core c).bufUsed j.da) else s
  if j.f.zc = 1 && j.att.isNone then s else s.meetAcc c ((blockElems t is js).map t.at_)

/-- The reads of a block, on the paths that it takes. -/
def State.meetBlock (s : State) (c : Nat) (j : MxJob) (e : MmaEnv) : State :=
  if (s.core c).bad.isEmpty then s
  else
    let is := (s.core c).curRows j
    let js := (s.core c).curCols j
    let s := if j.f.asrc == 0 && dOcap j.da != 0 then s.meetScr c (dObuf j.da) 16 else s
    let w := ((s.core c).curAttempt j (s.jobWide c j) is js).wide
    let s := s.meetAttempt c j e w is js
    if !w && ((s.core c).blockPath j e (s.jobWide c j) is js).2.1 then s.meetAttempt c j e true is js else s

/-- The MMA of a core's array, with what it is decoded with, if the array may go on with it. -/
def State.arrayJob (s : State) (core : Nat) : Option (MxJob × MmaEnv) :=
  let k := s.core core
  match k.arr.bind k.job with
  | none => none
  | some j => if j.done || !s.arrayRuns core j.block || s.jobHeld core j then none else (s.mmaEnv core j).map fun e => (j, e)

/-- The matrix operations of an output block, charged to the region: two for each multiply-add of its outputs, over all of K (R4, R201, R261;
DEDUCED, log 143). -/
def State.countMatrix (s : State) (c : Nat) (j : MxJob) (a : Attempt) : State :=
  match (s.core c).use with
  | none => s
  | some r => s.addCharge r [0, 0, 0, 0, 2 * a.out.length * j.k]

/-- MMA_OUTPUT_BLOCK (R152): the rest of the array's current output block, through all of K; `residue` says that its residue check
failed twice. -/
def execMmaOutputBlock (core : Nat) (residue : Bool) (s : State) : Host.Outcome State Fault Refusal :=
  .next <|
    match s.arrayJob core with
    | none => s
    | some (j, e) =>
      let s := s.meetBlock core j e
      let k := s.core core
      let p := k.blockPath j e (s.jobWide core j) (k.curRows j) (k.curCols j)
      let g := mmaGrid j (k.tile j.block j.f.acc.toNat)
      let end_ := g.2 ≤ j.bj + 1
      let last := end_ && g.1 ≤ j.bi + 1
      let twice := residue || k.arrayUpset.any Upset.stuck
      let pois := j.pois || p.1.pois || twice
      let s := s.modCore core fun k =>
        let k := (k.putChains j p.1).modJob j.id fun i =>
          { i with bi := if end_ then j.bi + 1 else j.bi, bj := if end_ then 0 else j.bj + 1, att := none, pois := pois, done := last }
        if last && pois then k.poisonOutputs j else k
      let trb := p.2.2.2 || (p.2.1 && j.f.asrc == 0 && dFpitch j.da == 0)
      let s := if trb then s.modBlock core j.block fun b => { b with trb := true } else s
      let s := if p.2.2.1 then s.countFallback core j.block else s
      (s.countMatrix core j p.1).arrayCheck core j residue

/-- The array's stop (R154, R235): at a boundary of k-groups of its current block, which one the bound of R233 leaves open. The attempt and
its checkpoint stand in the job. -/
def State.cutBlock (s : State) (core : Nat) : State :=
  match s.arrayJob core with
  | none => s
  | some (j, e) =>
    let s := s.meetBlock core j e
    let k := s.core core
    let p := k.curAttempt j (s.jobWide core j) (k.curRows j) (k.curCols j)
    let n := s.free.toNat % (e.groups j p.wide - p.next + e.groups j true + 1)
    let q := k.cutPath j e (s.jobWide core j) (k.curRows j) (k.curCols j) n
    let s := s.bump.modCore core fun k => (k.putOut j q.2.1).modJob j.id fun i => { i with att := some q.1 }
    if q.2.2 then s.countFallback core j.block else s

/-! ## A drain (R160) -/

/-- The value that a drain encodes (R160): an I32 fold goes through binary32 into an FP32 or MF format. -/
def drainVal (i32 : Bool) (t : Elt) (v : Word) : FpVal :=
  if !i32 then fp32.decode v.toNat
  else
    match t with
    | .fp q => if q = bf16 ∨ q = fp16 then intFp v.toInt else foldF32 true v
    | _ => intFp v.toInt

/-- One element written at position `i` of a line that begins at `at_`, as a masked write (R58, R115), with the pad trits of its run; the byte
it begins in. -/
def Core.putElem (k : Core) (t : Elt) (at_ i c : Nat) : Core × Nat :=
  if t = .tern then
    let a := at_ + 7 * (i / 32) + i % 32 / 5
    let k := k.writeScr a (leBytes 1 (putTrit (k.scrNat a 1) (i % 32 % 5) c))
    let end_ := at_ + 7 * (i / 32) + 6
    (k.writeScr end_ (leBytes 1 ([2, 3, 4].foldl (fun b p => putTrit b p 1) (k.scrNat end_ 1))), a)
  else
    let w := t.width
    let o := elemBit w i
    let a := at_ + o / 8
    let n := (o % 8 + w + 7) / 8
    let old := k.scrNat a n
    (k.writeScr a (leBytes n (old - old / 2 ^ (o % 8) % 2 ^ w * 2 ^ (o % 8) + c % 2 ^ w * 2 ^ (o % 8))), a)

/-- The bytes of a line that a drain of `n` elements covers whole. -/
def coveredBytes (t : Elt) (n : Nat) : Nat :=
  if t = .tern then 7 * (n / 32) else if unpadded t.width then n * t.width / 8 else 0

/-- A destination line written (R160): a poisoned element leaves its row poisoned (R80), a row covered whole loses its poison. -/
def Core.drainLine (k : Core) (j : MxJob) (i : Img) (row : Nat) : Core :=
  let t := k.tile j.block j.f.acc.toNat
  let e := i.elt (dFmt j.db) 0
  let n := (drainGrid j t).2
  let at_ := dBase j.db + row * dPitch j.db
  let k := { k with scrPois := (wholeUnits at_ (coveredBytes e n)).foldl (fun m r => Sparse.set false m r false) k.scrPois }
  (List.range n).foldl (fun k c =>
    let x := row * t.cols + c
    let v := k.foldElem j.block j.f.acc.toNat x
    let o := v.2.putElem e at_ c (e.encode i.digest (dFmt j.db) ((i.mode 0).getD 1) (drainVal t.i32 e v.1))
    if k.accPoison (t.at_ x) then o.1.poisonScr (o.2 / 16) else o.1) k

/-- The reads of a drain's line (R75): the elements, and the bytes that it writes in part. -/
def State.meetDrain (s : State) (c : Nat) (j : MxJob) (e : Elt) : State :=
  let t := (s.core c).tile j.block j.f.acc.toNat
  let n := (drainGrid j t).2
  let s := s.meetAcc c ((List.range n).map fun i => t.at_ (j.next * t.cols + i))
  if e.width % 8 = 0 then s else s.meetScr c (dBase j.db + j.next * dPitch j.db) (lineBytes e.width (e == .tern) n)

/-- ACDRN_LINE (R160): the next destination line of the down-converter's drain. -/
def execAcdrnLine (core : Nat) (s : State) : Host.Outcome State Fault Refusal :=
  .next <|
    let k := s.core core
    match k.drn.bind k.job with
    | none => s
    | some j =>
      match s.slotImg core j.f.fb.toNat with
      | none => s
      | some i =>
        if j.done || !s.arrayRuns core j.block || s.jobHeld core j then s
        else (s.meetDrain core j (i.elt (dFmt j.db) 0)).modCore core fun k =>
          (k.drainLine j i j.next).modJob j.id fun q =>
            { q with next := j.next + 1, done := decide ((drainGrid j (k.tile j.block j.f.acc.toNat)).1 ≤ j.next + 1) }

end Sys2Proof.Machine
end

