-- ==== Sys2Proof/Machine/Region.lean ====
section
/-!
DEFINITION. Regions (spec/11 R198 to R201; spec/14 R261, R262): activation, charges and budgets, usage records, retirement, the
fallback counter; the request of a pre-emption (spec/13 R238, R239).
-/

namespace Sys2Proof.Machine

/-! ## The request of a pre-emption (R238, R239) -/

/-- The effective priority of a launch: its region's. -/
def State.launchPrio (s : State) (l : Nat) : Nat := (s.region (s.launch l).rcb).prio

/-- A launch entered in a ranking: before the first of lower priority, so that ties go to the earlier request (R239). -/
def State.rankIn (s : State) (q : List Nat) (l : Nat) : List Nat :=
  if q.contains l then q
  else (q.takeWhile fun m => s.launchPrio l ≤ s.launchPrio m) ++ l :: q.dropWhile fun m => s.launchPrio l ≤ s.launchPrio m

/-- A pre-emption of a context requested, for a launch or for none: the halt line rises, or the request is queued while a save is
in progress (R238, R239). -/
def State.preempt (s : State) (n : Nat) (l : Option Nat) : State :=
  s.modCtx n fun x =>
    let q := match l with
      | none => x.queued
      | some l => s.rankIn (if x.st = .running then [] else x.queued) l
    match x.st with
    | .running => { x.halt 0 with queued := q }
    | .halting | .waiting => { x with queued := q }
    | .none | .saved => x

/-- PREEMPT_REQUEST (R238). -/
def execPreemptRequest (ctx : Nat) (forLaunch : Option Nat) (s : State) : Host.Outcome State Fault Refusal :=
  .next (s.preempt ctx forLaunch)

/-- The live regions at or below a region, or below a root. -/
def State.below (s : State) (rcb : Nat) : List Nat :=
  (s.regions.filter fun p => p.2.live && (p.1 == rcb || s.descends rcb s.regions.length p.1)).map Prod.fst

/-- The contexts of regions pre-empted. -/
def State.preemptAll (s : State) (l : List Nat) : State := l.foldl (fun t r => t.preempt (t.region r).ctx none) s

/-! ## Use of HBM and of the links (R201; log 29) -/

/-- What may still be charged to regions without reaching a budget of one of them. -/
def State.room (s : State) (rs : List Nat) (k : Nat) : Option Nat :=
  (rs.filter fun r => (s.region r).chargeOf k < (s.region r).budgetOf k).foldl (fun m r =>
    let n := (s.region r).budgetOf k - 1 - (s.region r).chargeOf k
    match m with
    | none => some n
    | some x => some (min x n)) none

/-- A free amount of a kind of use of a region that used it, for which no budget is reached. -/
def State.movedBy (s : State) (rcb k : Nat) (used : Bool) : Nat :=
  if !used then 0
  else
    match s.room (s.chain s.regions.length rcb) k with
    | some n => (Config.freeDWord (s.freeCtr + k)).toNat % (n + 1)
    | none => 0

/-- The HBM and link bytes that a region's accesses moved since they were last observed: how many is open (R201; log 29). -/
def State.chargeMoved (s : State) (rcb : Nat) : State :=
  let r := s.region rcb
  if !r.hbm && !r.link then s
  else
    { (s.addCharge rcb [0, 0, s.movedBy rcb 2 r.hbm, s.movedBy rcb 3 r.link, 0]).modRegion rcb fun r => { r with hbm := false, link := false } with
      freeCtr := s.freeCtr + 4 }

/-- The use of a region and of those below it since it was last observed. -/
def State.chargeUp (s : State) (rcb : Nat) : State := (s.below rcb).foldl State.chargeMoved s.coreCharges

/-! ## Messages of the monitor to the firmware (R251) -/

/-- A message of 64 bytes of a type, with its operand at byte 8. -/
def fwMessage (ty v : Nat) : List Byte :=
  [0, BitVec.ofNat 8 ty, 0, 0, 0, 0, 0, 0, BitVec.ofNat 8 v] ++ List.replicate 55 0

/-- A post of the monitor: it waits in order when the queue is full. -/
def State.postFw (s : State) (ty v : Nat) : State :=
  let m := fwMessage ty v
  if s.io.monmq.isEmpty && s.io.fwmq.length < 16 then { s with io := { s.io with fwmq := s.io.fwmq ++ [m] } }
  else { s with io := { s.io with monmq := s.io.monmq ++ [m] } }

/-! ## Usage records (R261, R262) -/

def State.root (s : State) (n : Nat) : Root := Sparse.get Root.none s.mon.roots n
def State.modRoot (s : State) (n : Nat) (f : Root → Root) : State :=
  { s with mon := { s.mon with roots := Sparse.modify Root.none s.mon.roots n f } }

/-- A byte list cut or filled with zeros to a length. -/
def fitBytes (n : Nat) (l : List Byte) : List Byte := (l ++ List.replicate n 0).take n

/-- The body of a usage record (R261). -/
def usageBody (rsn root rcb : Nat) (r : Region) (seq : Nat) (prev : BitVec 384) : List Byte :=
  fitBytes 256 (leBytes 8 (2 ^ 56 + rsn * 2 ^ 48 + root * 2 ^ 40 + (if r.lost then 2 ^ 39 else 0) + r.asn.toNat) ++ leBytes 8 seq
    ++ leBytes 48 prev.toNat ++ leBytes 8 rcb ++ (List.range 5).flatMap fun i => leBytes 8 (r.chargeOf i))

/-- A usage record of 4 KiB: the body and the two signatures over it. -/
def usageRecord (body : List Byte) : List Byte :=
  fitBytes 4096 (fitBytes 256 body ++ fitBytes 64 (Config.edSign body) ++ fitBytes 3309 (Config.mlSign body))

/-- Held records of a root written to its ring while their slots are free (R262); `fuel` is their number. -/
def State.drainRecords (s : State) (q : Root) : Nat → State × Root
  | 0 => (s, q)
  | fuel + 1 =>
    match q.records with
    | [] => (s, q)
    | u :: rest =>
      if q.written < (s.mem.dword q.cblk).toNat + 2 ^ q.logn then
        (s.writeMem 0 (q.ring + 4096 * (q.written % 2 ^ q.logn)) u).drainRecords { q with records := rest, written := q.written + 1 } fuel
      else (s, q)

/-- The held records have reached 64, or have drained below (R262). -/
def State.checkHeld (s : State) (n : Nat) : State :=
  let q := s.root n
  if !q.full && 64 ≤ q.records.length then
    let s := s.modRoot n fun q => { q with full := true }
    (s.preemptAll ((s.regions.filter fun p => p.2.live && p.2.root = n).map Prod.fst)).postFw 0x02 n
  else if q.full && q.records.length < 64 then (s.modRoot n fun q => { q with full := false }).postFw 0x03 n
  else s

/-- The records of a root written as far as they can be. -/
def State.drainRoot (s : State) (n : Nat) : State :=
  let t := s.drainRecords (s.root n) (s.root n).records.length
  (t.1.modRoot n fun _ => t.2).checkHeld n

/-- The records that a deleted root of a number left, written as far as they can be. -/
def State.drainLate (s : State) (n : Nat) : State :=
  s.mon.late.foldl (fun t p =>
    if p.1 ≠ n then { t with mon := { t.mon with late := t.mon.late ++ [p] } }
    else
      let u := t.drainRecords p.2 p.2.records.length
      if u.2.records.isEmpty then u.1 else { u.1 with mon := { u.1.mon with late := u.1.mon.late ++ [(n, u.2)] } })
    { s with mon := { s.mon with late := [] } }

/-- Whether a region's root holds as many records as the monitor can: what emits a further one waits (R262). -/
def State.usageFull (s : State) (rcb : Nat) : Bool := decide (64 ≤ (s.root (s.region rcb).root).records.length)

/-- A usage record of a region emitted into its root's chain (R261, R262). -/
def State.emitUsage (s : State) (rcb rsn : Nat) : State :=
  let s := s.chargeUp rcb
  let r := s.region rcb
  let q := s.root r.root
  let u := usageRecord (usageBody rsn r.root rcb r q.seq q.prev)
  let s := s.modRoot r.root fun q => { q with seq := q.seq + 1, prev := Config.sha384 u, records := q.records ++ [u] }
  (s.modRegion rcb fun r => { r with lost := false }).drainRoot r.root

/-- USAGE_RECORD_WRITE (R262): the host's count is read afresh, and held records are written, a deleted root's too. -/
def execUsageRecordWrite (root : Nat) (s : State) : Host.Outcome State Fault Refusal :=
  .next <|
    let s := if s.mon.late.isEmpty then s else s.drainLate root
    if (s.root root).held then s.drainRoot root else s

/-! ## Budgets (R201) -/

/-- The regions at or below a region whose accesses moved bytes of a kind that have not been observed. -/
def State.movers (s : State) (rcb kind : Nat) : List Nat :=
  (s.below rcb).filter fun q => (kind == 2 && (s.region q).hbm) || (kind == 3 && (s.region q).link)

/-- Whether a charge of `d` to a region passes the budget of another region that it is charged to. -/
def State.passes (s : State) (rcb q kind d : Nat) : Bool :=
  (s.chain s.regions.length q).any fun a =>
    a != rcb && decide ((s.region a).chargeOf kind < (s.region a).budgetOf kind) && decide ((s.region a).budgetOf kind < (s.region a).chargeOf kind + d)

/-- What follows once a region's charge has reached a budget (R201, R232): the regions at or below it are pre-empted, with the event and a usage
record. -/
def State.budgetHit (s : State) (rcb kind : Nat) : State :=
  let s := s.modRegion rcb fun q => { q with preempted := true }
  let s := s.preemptAll (s.below rcb)
  (s.postRegion rcb 0x84 (BitVec.ofNat 64 rcb) (BitVec.ofNat 64 kind) 0 0).emitUsage rcb 2

/-- BUDGET_REACHED (R201, R232): the region's charge reaches a budget. What cores and banks used is exact; of HBM and link bytes a region at or
below it moved as many as were left, which of them is open. Where that would pass another region's budget first, it is that budget's event. -/
def execBudgetReached (rcb : Nat) (kind : Nat) (s : State) : Host.Outcome State Fault Refusal :=
  .next <|
    let s' := s.coreCharges
    let r := s'.region rcb
    if !r.live || budgetKinds ≤ kind || s.usageFull rcb then s
    else if r.budgetOf kind ≤ r.chargeOf kind then (if r.preempted then s else s'.budgetHit rcb kind)
    else
      let d := r.budgetOf kind - r.chargeOf kind
      let l := s'.movers rcb kind
      match l[s.free.toNat % l.length]? with
      | none => s
      | some q =>
        if s'.passes rcb q kind d then s
        else ((s'.addCharge q ((List.range 5).map fun i => if i = kind then d else 0)).bump).budgetHit rcb kind

/-- Whether no budget of a region is reached. -/
def Region.withinBudget (r : Region) : Bool := (List.range budgetKinds).all fun k => decide (r.chargeOf k < r.budgetOf k)

/-! ## Activation (R198 to R200) -/

/-- The dwords of an RCB. -/
def State.rcbWords (s : State) (rcb : Nat) : List DWord := (List.range 16).map fun i => s.mem.dword (rcb + 8 * i)

/-- The reserved fields of an RCB (R198). -/
def rcbReserved (d : List DWord) : Bool :=
  let w := fun i => d.getD i 0
  fieldN (w 0) 53 11 != 0 || fieldN (w 1) 16 14 != 0 || fieldN (w 2) 53 11 != 0 || fieldN (w 2) 0 12 != 0 || fieldN (w 9) 53 11 != 0
    || fieldN (w 10) 32 32 != 0 || bitAt (w 10) 27 || fieldN (w 10) 21 3 != 0 || fieldN (w 10) 12 4 != 0 || fieldN (w 10) 2 6 != 0
    || (List.range 5).any fun i => w (11 + i) != 0

/-- The list of allowed signing keys that an RCB names: its count, its digests (R198). -/
def State.keyList (s : State) (pa : Nat) : Nat × List (BitVec 384) :=
  if pa = 0 then (0, [])
  else
    let n := (s.mem.dword pa).toNat
    (n, (List.range (min n 16)).map fun i => BitVec.ofNat 384 (s.mem.readNat 0 (pa + 8 + 48 * i) 48))

/-- The effective values of a region (R199): its own fields, or its parent's. -/
def State.effective (s : State) (d : List DWord) (root : Bool) (p : Region) : Region :=
  let w := fun i => d.getD i 0
  let own := fun n => root || bitAt (w 1) (48 + n)
  let part := own 10
  { Region.none with
    live := true, root := p.root, parent := fieldN (w 0) 0 53
    prio := if own 0 then fieldN (w 1) 40 8 else p.prio
    fdom := if own 1 then fieldN (w 1) 32 8 else p.fdom
    chk := if own 2 then fieldN (w 1) 30 2 else p.chk
    asn := if own 3 then field (w 1) 0 16 else p.asn
    troot := if own 3 then fieldN (w 2) 12 41 * 4096 else p.troot
    budget := (List.range budgetKinds).map fun i => if own (4 + i) then (w (3 + i)).toNat else p.budgetOf i
    charge := [0, 0, 0, 0, 0]
    keys := if own 8 then w 8 ++ w 7 else p.keys
    imgs := if own 9 then (s.keyList (fieldN (w 9) 0 53)).2 else p.imgs
    px := if part then fieldN (w 10) 28 4 else p.px
    py := if part then fieldN (w 10) 24 3 else p.py
    pw := if part then fieldN (w 10) 16 5 else p.pw
    ph := if part then fieldN (w 10) 8 4 else p.ph
    pgf := if part then fieldN (w 10) 0 2 else p.pgf }

/-- Whether a rectangle keeps R21 and lies within the mesh. -/
def rectOk (px py pw ph pgf : Nat) : Bool :=
  pgf != 3 && decide (1 ≤ pw) && decide (1 ≤ ph) && decide (px + pw ≤ 16) && decide (py + ph ≤ 8) && (pgf == 0 || (px % 2 == 0 && pw % 2 == 0))
    && (pgf != 2 || (py % 2 == 0 && ph % 2 == 0))

/-- Whether a rectangle lies inside another. -/
def Region.inside (r p : Region) : Bool :=
  decide (p.px ≤ r.px) && decide (r.px + r.pw ≤ p.px + p.pw) && decide (p.py ≤ r.py) && decide (r.py + r.ph ≤ p.py + p.ph)

/-- The status of an activation (R200): the first that applies. What compares with a parent applies where there is a live one; a live
region keeps its gang factor (R21). A live region that names itself or a region below it as its parent is answered 8, as one without a live
parent (DESIGN CHOICE, log 135). -/
def State.activateStatus (s : State) (rcb : Nat) (d : List DWord) (root : Bool) (r p : Region) : Nat :=
  let w := fun i => d.getD i 0
  let own := fun n => bitAt (w 1) (48 + n)
  let orphan := r.parent == 0 || !p.live || r.parent == rcb || s.descends rcb s.regions.length r.parent
  let kid := !root && !orphan
  if rcbReserved d || fieldN (w 1) 59 5 ≠ 0 || 2 ≤ fieldN (w 1) 30 2 || (root && fieldN (w 1) 48 16 ≠ 0x07FF)
      || (r.fdom == 255 && (root || own 1 || kid)) || ((root || own 9) && 16 < (s.keyList (fieldN (w 9) 0 53)).1) then 1
  else if kid && (List.range budgetKinds).any fun i => own (4 + i) && decide (p.budgetOf i < r.budgetOf i) then 2
  else if kid && p.prio < r.prio then 3
  else if kid && (r.keys &&& ~~~ p.keys) ≠ 0 then 4
  else if kid && r.imgs.any fun k => !p.imgs.contains k then 5
  else if ((root || own 10 || kid) && !rectOk r.px r.py r.pw r.ph r.pgf) || (kid && !r.inside p)
      || ((s.region rcb).live && (s.region rcb).pgf != r.pgf) then 6
  else if kid && r.chk = 1 && p.chk = 0 then 7
  else if !root && orphan then 8
  else 0

/-- The images that a slot still holds of a retired region are no new region's, though it has the same RCB address (R133). -/
def State.orphanImages (s : State) (rcb : Nat) : State :=
  { s with mon := { s.mon with images := s.mon.images.map fun p => if p.2.rcb = rcb then (p.1, { p.2 with rcb := 2 ^ 53 }) else p } }

/-- Whether a context number is another region's. -/
def State.ctxTaken (s : State) (ctx : Nat) : Bool := (s.ctx ctx).st != .none || s.regions.any fun p => p.2.live && p.2.ctx == ctx

/-- A region made live, with its context; an activation again keeps what it has used (R260). The context of one that is held pre-empted (R201,
R262) starts with its first launch afterwards. -/
def State.makeLive (s : State) (rcb ctx : Nat) (r : Region) : State :=
  let old := s.region rcb
  let r := if old.live then
      { r with ctx := old.ctx, charge := old.charge, fbcnt := old.fbcnt, fbsat := old.fbsat, lost := old.lost, hbm := old.hbm, link := old.link, tags := old.tags }
    else { r with ctx := ctx }
  let s := s.modRegion rcb fun _ => { r with preempted := !r.withinBudget && old.live && old.preempted }
  if old.live then s
  else if s.held rcb then s.orphanImages rcb
  else (s.orphanImages rcb).modCtx ctx fun x => { x.gone with st := .running, rcb := rcb, px := r.px, py := r.py, pw := r.pw, ph := r.ph, pgf := r.pgf }

/-- REGION_ACTIVATION (R198 to R200): service firmware activates a region that is no quota root; the status goes back to it. A
context number that another region holds is no activation (log 28). -/
def execRegionActivation (rcb ctx : Nat) (s : State) : Host.Outcome State Fault Refusal :=
  .next <|
    let d := s.rcbWords rcb
    let p := s.region (fieldN (d.getD 0 0) 0 53)
    let r := s.effective d false p
    if rcb % 128 ≠ 0 ∨ Config.hbmBytes < rcb + 128 ∨ 65536 ≤ ctx ∨ (!(s.region rcb).live ∧ s.ctxTaken ctx)
        ∨ s.resetting (fieldN (d.getD 0 0) 0 53) then s
    else
      let st := s.activateStatus rcb d false r p
      let s := { s with io := { s.io with fwReply := BitVec.ofNat 64 st } }
      if st = 0 then s.makeLive rcb ctx r else s

/-! ## Retirement (R46, R133, R261) and the fallback counter (R158) -/

/-- Whether a slot of any context holds a handle, or is to hold it (R133). -/
def Core.holdsHandle (k : Core) (h : Word) : Bool := k.slots.any fun p => p.2.handle == h || p.2.queue.any fun o => o.bind == some h

def State.handleHeld (s : State) (h : Word) : Bool :=
  s.cores.any (fun p => p.2.use.isSome && p.2.holdsHandle h) || s.ctxs.any fun x => x.2.saved.any fun p => p.2.holdsHandle h

/-- The images of retired regions that no slot holds leave the store (R133). -/
def State.purgeImages (s : State) : State :=
  { s with mon := { s.mon with images := s.mon.images.filter fun p =>
      (s.region p.2.rcb).live || s.handleHeld (BitVec.ofNat 32 p.1) } }

/-- A region retired, for a reason: its record is emitted, its leases and pins end, its images are released. -/
def State.retireRegion (s : State) (rcb rsn : Nat) : State :=
  let s := s.emitUsage rcb rsn
  let s := (s.fab.leases.filter fun l => l.rcb = rcb).foldl (fun t l => t.endLease l.id) s
  let n := (s.region rcb).ctx
  ((s.modRegion rcb fun r => { r with live := false }).modCtx n Ctx.gone).purgeImages

/-- Whether a context holds no work: nothing resident, saved or on its way, no launch incomplete. -/
def State.idleCtx (s : State) (n : Nat) : Bool :=
  (s.ctx n).st != .halting && (s.ctx n).st != .waiting && (s.ctx n).st != .saved && s.fab.reqs.all (fun r => r.ctx != n || r.done)
    && s.cores.all (fun k => k.2.use != some (s.ctx n).rcb) && s.launches.all fun l => l.2.ctx != n || l.2.phase == 2

/-- REGION_RETIREMENT (R46, R133, R261): a region that is no root retires, once no region is below it and its context holds no work
(log 28). -/
def execRegionRetirement (rcb : Nat) (s : State) : Host.Outcome State Fault Refusal :=
  .next <|
    let r := s.region rcb
    if !r.live || r.parent = 0 || s.regions.any (fun p => p.2.live && p.2.parent = rcb) || !s.idleCtx r.ctx
        || s.usageFull rcb then s
    else s.retireRegion rcb 0

/-- FALLBACK_COUNTER_CLEAR (R158): firmware reads the counter and clears it. -/
def execFallbackCounterClear (rcb : Nat) (s : State) : Host.Outcome State Fault Refusal :=
  .next <|
    if !(s.region rcb).live then s
    else { s with io := { s.io with fwReply := BitVec.ofNat 64 (s.region rcb).fbcnt } }.modRegion rcb fun r =>
      { r with fbcnt := 0, fbsat := false }

end Sys2Proof.Machine
end

