-- ==== Sys2Proof/Machine/Save.lean ====
section
/-!
DEFINITION. Halts and save images (spec/13 R233 to R243, R411, R413; spec/23 R399, R400): the stop of each agent, the stop records, the
collector, restore and terminate.
-/

namespace Sys2Proof.Machine

/-! ## What stops (R235) -/

/-- The cores that a context's region uses, by rising relative index. -/
def State.usedCores (s : State) (n : Nat) : List Nat := (s.ctx n).cores.filter fun c => (s.core c).use == some (s.ctx n).rcb

/-- The live warps of a core, and its live blocks, by number. -/
def Core.liveWarps (k : Core) : List Nat := (k.warps.filter fun p => p.2.live).map Prod.fst
def Core.liveBlocks (k : Core) : List Nat := (k.blocks.filter fun p => p.2.live).map Prod.fst

/-- The agents of a core that hold work (R399). -/
def Core.agents (k : Core) (c : Nat) : List StopAgent :=
  (k.liveWarps.flatMap fun w => ((List.range 8).filter fun j => ((k.warp w).slice j).st != .exited).map fun j => .slice c w j)
    ++ (k.liveBlocks.flatMap fun b => [false, true].filterMap fun cp => if (k.seq b cp).st != .exited then some (.seq c b cp) else none)
    ++ (if k.jobs.isEmpty then [] else [.array c])
    ++ (if k.copies.isEmpty && k.apq.isEmpty && k.lda.isEmpty then [] else [.copyEngine c])
    ++ (if k.slots.any fun p => p.2.reconf || !p.2.queue.isEmpty then [.format c] else [])

/-- The queue slots of a context whose record is being executed (R399). -/
def State.busySlots (s : State) (n : Nat) : List Nat :=
  (List.range 64).filter fun i => (s.qslot i).map && (s.region (s.qcbRegion i)).live && (s.region (s.qcbRegion i)).ctx == n
    && (s.record i).isSome

/-- Every agent of a context that has to stop. -/
def State.agents (s : State) (n : Nat) : List StopAgent :=
  ((s.usedCores n).flatMap fun c => (s.core c).agents c) ++ (s.busySlots n).map .command

/-- Whether an agent stands at its stop boundary (R235, R411): slices and streams between instructions, jobs between blocks and lines,
copies between chunks; an LDA16 in flight completes first, and so does a reconfiguration (R233). A LAUNCHN stops after its last launch
(log 107); what waited for a slot that has filled goes on to its next instruction (R317, R319; log 76). -/
def State.atBoundary (s : State) : StopAgent → Bool
  | .copyEngine c => (s.core c).lda.isEmpty
  | .format c => !(s.core c).slots.any fun p => p.2.reconf
  | .command n => (s.qslot n).laun.isNone
  | .slice c w j =>
    let y := (s.warp c w).slice j
    !(y.st == .parked && y.ready && (y.park == .awaitf || y.park == .yieldc))
  | .seq c b cp =>
    let q := (s.core c).seq b cp
    !(q.st == .parked && q.ready && q.park == .awaitf)
  | .array _ => true

/-- An agent at its stop: the array cuts its current block at a k-group (R154). -/
def State.stopAgent (s : State) : StopAgent → State
  | .array c => s.cutBlock c
  | .slice _ _ _ | .seq _ _ _ | .copyEngine _ | .format _ | .command _ => s

/-- AGENT_STOP (R233, R235): an agent stops at its boundary and acknowledges; the requests of the context that wait in trugs are
answered (R176). -/
def execAgentStop (ctx : Nat) (who : StopAgent) (s : State) : Host.Outcome State Fault Refusal :=
  .next <|
    if (s.ctx ctx).st ≠ .halting ∨ !(s.agents ctx).contains who ∨ (s.ctx ctx).acks.contains who ∨ !s.atBoundary who then s
    else ((s.stopAgent who).modCtx ctx fun x => { x with acks := x.acks ++ [who] }).answerHalted

/-! ## Stop records (R236, R411) -/

/-- The first word of the instruction at an address of a region, as its core's cache or its memory holds it; 0 where it cannot be
read. -/
def State.wordAt (s : State) (c : Nat) (r : Region) (pc : DWord) : DWord :=
  match (s.core c).iword r.asn pc with
  | some w => w
  | none =>
    match s.engineTranslate c r pc .fetch with
    | .ok leaf pa => BitVec.ofNat 64 (s.readGlobal (eLoc leaf) pa 8)
    | .fault _ | .miss => 0

def St.code : St → Nat
  | .running => 0
  | .faulted => 1
  | .parked => 2
  | .exited => 3

def Park.code : Park → Nat
  | .none => 0
  | .fullEmpty => 1
  | .barrier => 2
  | .awaitf => 3
  | .yieldc => 4
  | .waitp => 5
  | .regang => 6
  | .sow => 7
  | .fork => 8

/-- The fields that slice and sequencer records share in dword 1: CODE, ST, PARK, BLOCK, CX, CY. -/
def stopFields (st : St) (park : Park) (code : BitVec 8) (block c : Nat) : Nat :=
  (if st = .faulted then code.toNat else 0) * 2 ^ 56 + st.code * 2 ^ 54 + (if st = .parked then park.code else 0) * 2 ^ 50
    + block % 256 * 2 ^ 27 + coreX c * 2 ^ 23 + coreY c * 2 ^ 20

/-- A slice record (R236). -/
def State.sliceRec (s : State) (r : Region) (c w j : Nat) : StopRec :=
  let v := s.warp c w
  let x := v.slice j
  let flt := x.st == .faulted
  let d1 := stopFields x.st x.park x.code v.block c + w % 256 * 2 ^ 38 + j * 2 ^ 35 + x.mask.toNat * 2 ^ 16 + x.stack.length * 2 ^ 12
    + x.gang.toNat * 2 ^ 4
  { key := [0, c, w, j]
    dwords := [x.pc &&& 0x1FFFFFFFFFFFFFF, BitVec.ofNat 64 d1, if flt then x.fva else 0, if flt then x.opw else s.wordAt c r x.pc]
    flt := flt
    fva := x.fva }

/-- A job entry of a sequencer record (R411). -/
def MxJob.entry (j : MxJob) : List DWord :=
  let att := if j.sub = 0 then j.att else none
  [BitVec.ofNat 64 (j.sub % 16 * 2 ^ 60 + j.jpc.toNat % 2 ^ 57),
   BitVec.ofNat 64 (j.code.toNat * 2 ^ 56 + (if att.any MxAtt.wide then 2 ^ 55 else 0) + j.f.acc.toNat * 2 ^ 48),
   BitVec.ofNat 64 (if j.sub = 0 then j.bi % 2 ^ 32 * 2 ^ 32 + j.bj % 2 ^ 32 else 0),
   BitVec.ofNat 64 ((if j.sub = 0 then (att.map MxAtt.next).getD 0 else if j.sub = 2 then j.next else 0) % 2 ^ 32 * 2 ^ 32)]

/-- The jobs of a block's matrix stream that have not completed. -/
def Core.openJobs (k : Core) (b : Nat) : List MxJob := (k.jobs.filter fun j => j.block = b && !j.done).take 4

/-- A sequencer record (R411): the fault of a job stands in its entry. -/
def State.seqRec (s : State) (r : Region) (c b : Nat) (cp : Bool) : StopRec :=
  let q := (s.core c).seq b cp
  let js := if cp then [] else (s.core c).openJobs b
  let bad := js.find? fun j => j.code != 0
  let flt := q.st == .faulted
  let d1 := stopFields q.st q.park q.code b c + (if cp then 2 ^ 49 else 0) + js.length * 2 ^ 46 + 1
  { key := [1, c, b, if cp then 1 else 0]
    dwords := [q.pc &&& 0x1FFFFFFFFFFFFFF, BitVec.ofNat 64 d1, if flt then q.fva else 0,
      if flt then q.opw else s.wordAt c r q.pc] ++ js.flatMap MxJob.entry
    flt := flt || bad.isSome
    fva := if flt then q.fva else (bad.map MxJob.fva).getD 0 }

/-- A range of a card's footprint as EOFS has moved it (R57). -/
def CopyRec.movedRange (r : CopyRec) (c : List DWord) (i : Nat) : List DWord :=
  let at_ := 16 * (cardUnits (r.card.getD 0 0) - 1) + 2 * i
  let a := (cardRange r.card i).shift r.shift
  if (cardRange r.card i).lo = (cardRange r.card i).hi then c
  else (c.set at_ (BitVec.ofInt 64 a.lo)).set (at_ + 1) (BitVec.ofInt 64 (a.hi - a.lo) ||| if a.scr then 1 <<< 48 else 0)

/-- The card of a copy as accepted, EOFS and RSL applied: in its base, in the footprint ranges of that side and in RSLOT (R57, R411). -/
def CopyRec.image (r : CopyRec) : List DWord :=
  let b := BitVec.ofInt 64 (r.shift / 8)
  let d0 := (r.card.getD 0 0).toNat
  let c := if cardFpc r.card && r.shift != 0 then (if r.otgt then [4, 5, 6, 7] else [0, 1, 2, 3]).foldl r.movedRange r.card else r.card
  let c := c.set 0 (BitVec.ofNat 64 (d0 - fieldN (r.card.getD 0 0) 16 8 * 2 ^ 16 + r.rsl % 256 * 2 ^ 16))
  if r.otgt then c.set 2 (c.getD 2 0 + b) else c.set 1 (c.getD 1 0 + b)

/-- A copy record (R411). -/
def copyStop (c : Nat) (r : CopyRec) : StopRec :=
  let flt := r.code != 0
  { key := [2, c, r.id]
    dwords := [BitVec.ofNat 64 (r.ch % 16 * 2 ^ 60 + r.tidx % 64 * 2 ^ 54 + r.rsl % 256 * 2 ^ 46 + r.card.length / 16 * 2 ^ 44),
      BitVec.ofNat 64 (r.code.toNat * 2 ^ 56 + (if flt then 2 ^ 54 else 0) + 2), BitVec.ofNat 64 r.chunks, if flt then r.fva else 0]
      ++ r.image
    flt := flt
    fva := r.fva }

/-- A command-processor record (R411). -/
def State.commandRec (s : State) (n : Nat) : StopRec :=
  let q := s.qslot n
  let d3 := match q.pass with
    | none => 2 ^ 64 - 1
    | some (p, i) => p % 2 ^ 32 * 2 ^ 32 + i % 2 ^ 32
  { key := [3, n]
    dwords := [BitVec.ofNat 64 (n * 2 ^ 58 + q.qid % 4096 * 2 ^ 46), 3, BitVec.ofNat 64 ((q.recs.headD (0, [])).1.toNat * 2 ^ 32), BitVec.ofNat 64 d3]
    flt := false
    fva := 0 }

/-- The stop records of a context, in the order of R240. -/
def State.stopRecs (s : State) (n : Nat) : List StopRec :=
  let r := s.ctxRegion n
  let cs := s.usedCores n
  (cs.flatMap fun c => (s.core c).liveWarps.flatMap fun w => (List.range 8).map (s.sliceRec r c w))
    ++ (cs.flatMap fun c => (s.core c).liveBlocks.flatMap fun b => [false, true].filterMap fun cp =>
        if ((s.core c).seq b cp).st != .exited || (!cp && !((s.core c).openJobs b).isEmpty) then some (s.seqRec r c b cp) else none)
    ++ (cs.flatMap fun c => (s.core c).copies.map (copyStop c))
    ++ (s.busySlots n).map s.commandRec

/-! ## The collector (R238, R240, R413) -/

/-- The bound of an image's size (R413): 1 MiB + 4.75 MiB × PW × PH × f. -/
def imageBound (x : Ctx) : Nat := 2 ^ 20 + 4980736 * x.pw * x.ph * gfOf x.pgf

/-- The bytes of a header and of stop records. -/
def recBytes (l : List StopRec) : Nat := 64 + 8 * (l.map fun r => r.dwords.length).sum

/-- The header of an image (R240). SRO is 64: the records follow the header directly (DEDUCED from the run of spec/23). -/
def imageHeader (x : Ctx) (l : List StopRec) : List DWord :=
  [BitVec.ofNat 64 (2 ^ 56 + (if x.flt then 2 ^ 55 else 0) + x.pgf % 4 * 2 ^ 53 + x.pw % 32 * 2 ^ 48 + x.ph % 16 * 2 ^ 44 + l.length % 2 ^ 32),
   BitVec.ofNat 64 x.rcb, 64, BitVec.ofNat 64 x.size, 0, 0, 0, 0]

/-- CTXSTAT at the end of a command (R242). -/
def State.ctxEnd (s : State) (st : Nat) : State := { s with io := { s.io with ctxBusy := false, ctxStat := st } }

/-- A core without the context that used it: what belongs to the core itself stays (R217, R397). -/
def Core.vacated (k : Core) : Core :=
  { Core.reset with
    cycle := k.cycle, charged := k.cycle, chkrpl := k.chkrpl, icache := k.icache, fills := k.fills, tlb := k.tlb, upset := k.upset }

/-- The cores of a context freed; nothing of the context is on its way any more. -/
def State.freeCores (s : State) (n : Nat) : State :=
  let cs := s.usedCores n
  let s := cs.foldl State.coreCharge s
  let s := cs.foldl (fun t c => t.setCore c (t.core c).vacated) s
  { s with fab := { s.fab with
      misses := s.fab.misses.filter fun m => m.ctx != n
      walks := s.fab.walks.map fun w => if w.ctx = n then { w with whos := [] } else w
      fences := s.fab.fences.filter fun f => !cs.contains f.core } }

/-- The cores of a context as its image holds them, by relative index (R241). -/
def State.coreImages (s : State) (n : Nat) : Sparse Core :=
  let x := s.ctx n
  (s.usedCores n).foldl (fun m c => Sparse.set Core.reset m (relIndex x.px x.py x.pw c) (s.core c)) []

/-- The save area of a context holds no image any more. -/
def State.dropImage (s : State) (n : Nat) : State :=
  { s with mon := { s.mon with areas := s.mon.areas.map fun a => if a.ctx = some n then { a with ctx := none } else a } }

/-- The save area at a base holds the image of a context. -/
def State.holdImage (s : State) (n base : Nat) : State :=
  { s with mon := { s.mon with areas := s.mon.areas.map fun a => if a.base = base then { a with ctx := some n } else a } }

/-- A context gone: its image or its state is discarded, and its incomplete launches' signal words are written (R204, R242, R243). -/
def State.endCtx (s : State) (n stat : Nat) : State :=
  let s := (s.freeCores n).dropImage n
  let s := (s.launches.filter fun l => l.2.ctx = n).foldl (fun t l => t.signal l.1 stat) s
  (s.modCtx n Ctx.gone).purgeImages

/-- The first save area, in order of creation, that holds no image and is large enough (R413). -/
def State.areaFor (s : State) (size : Nat) : Option SaveArea := s.mon.areas.find? fun a => a.ctx == none && decide (size ≤ a.size)

/-- The collector reports a completion in CTXSTAT, whoever asked for the save (R238); BUSY is that of the command whose save it was. -/
def State.reportSave (s : State) (x : Ctx) : State :=
  { s with io := { s.io with ctxBusy := s.io.ctxBusy && !x.cmd, ctxStat := 0 } }

/-- The bytes of an area that an image fills lose what was wrong in them (R406). -/
def Mem.cleanArea (m : Mem) (a size : Nat) : Mem :=
  { m with
    pois := m.pois.filter fun p => !(decide (a ≤ 16 * p.1) && decide (16 * p.1 < a + size))
    failed := m.failed.filter fun l => !(decide (a ≤ 128 * l) && decide (128 * l < a + size)) }

/-- The image written into an area, the cores freed, the fault's event posted, the completion reported (R231, R238, R240, R413). What the
collector reads meets what is wrong in the check codes (R75). -/
def State.writeImage (s : State) (n : Nat) (a : SaveArea) : State :=
  let s := (s.usedCores n).foldl State.meetCore s
  let x := s.ctx n
  let l := s.stopRecs n
  let saved := s.coreImages n
  let bs := (imageHeader x l ++ l.flatMap StopRec.dwords).flatMap fun d => leBytes 8 d.toNat
  let s := (({ s with mem := s.mem.cleanArea a.base x.size } : State).writeMem 0 a.base bs).holdImage n a.base
  let s := (s.freeCores n).modCtx n fun x => { x with st := .saved, recs := l, acks := [], saved := saved, area := some a.base, cmd := false }
  let bad := l.filter StopRec.flt
  let s := if x.flt then
      s.postRegion x.rcb x.first.toNat (BitVec.ofNat 64 a.base) (BitVec.ofNat 64 (n % 2 ^ 16 + bad.length % 2 ^ 16 * 2 ^ 16)) 0
        ((bad.head?.map StopRec.fva).getD 0)
    else s
  if x.kill = 2 then (s.endCtx n 2).ctxEnd 0 else s.reportSave x

/-- The collector takes a save area and writes the image, or the context waits for one (R413). -/
def State.collect (s : State) (n : Nat) : State :=
  let x := s.ctx n
  match s.areaFor x.size with
  | some a => s.writeImage n a
  | none =>
    if x.st = .waiting then s
    else
      let s := s.modCtx n fun x => { x with st := .waiting, cmd := false }
      let s := s.postRegion x.rcb 0x87 (BitVec.ofNat 64 x.rcb) (BitVec.ofNat 64 (n % 2 ^ 16)) ((x.size + 524287) / 524288) 0
      if x.kill = 2 then (s.endCtx n 2).ctxEnd 0 else if x.cmd then s.ctxEnd 4 else s

/-- The collector tries again for every context that waits for a save area (R413). -/
def State.collectWaiting (s : State) : State :=
  (s.ctxs.filter fun p => p.2.st == .waiting).foldl (fun t p => t.collect p.1) s

/-- SIZE of a context's image: open, but for what it holds and its bound (R413; log 30). -/
def State.imageSize (s : State) (n : Nat) : Nat :=
  let lo := recBytes (s.stopRecs n)
  lo + s.free.toNat % (imageBound (s.ctx n) - lo + 1)

/-- Whether an access that a context issued is still to be performed, an LDA16 of a slice that ran on included (R197). -/
def State.stillMoving (s : State) (n : Nat) : Bool :=
  (s.fab.reqs.any fun r => r.ctx = n) || (s.usedCores n).any fun c => !(s.core c).lda.isEmpty

/-- SAVE_COMPLETE (R238, R197): once every agent has stopped and every access that the context issued is performed, the image is
finished, or the state is discarded where a terminate asked for the halt (R242). -/
def execSaveComplete (ctx : Nat) (s : State) : Host.Outcome State Fault Refusal :=
  .next <|
    if (s.ctx ctx).st ≠ .halting ∨ !(s.agents ctx).all fun a => (s.ctx ctx).acks.contains a then s
    else
      let s := s.answerHalted
      if s.stillMoving ctx then s
      else if (s.ctx ctx).kill = 1 then (s.endCtx ctx 2).ctxEnd 0
      else (({ s.modCtx ctx fun x => { x with size := s.imageSize ctx } with freeCtr := s.freeCtr + 1 } : State)).collect ctx

/-! ## CTXCMD (R242) -/

/-- The context that a CTXCMD value names. -/
def cmdCtx (v : DWord) : Nat := fieldN v 0 16

/-- CTX_SAVE (R238, R239, R242): OP 1. -/
def execCtxSave (v : DWord) (s : State) : Host.Outcome State Fault Refusal :=
  .next <|
    if s.io.ctxBusy ∨ fieldN v 60 4 ≠ 1 then s
    else
      let n := cmdCtx v
      match (s.ctx n).st with
      | .none => s.ctxEnd 1
      | .running => { (s.preempt n none).modCtx n fun x => { x with cmd := true } with io := { s.io with ctxBusy := true, ctxStat := 0 } }
      | .halting => s.ctxEnd 3
      | .waiting => s.ctxEnd 4
      | .saved => s.ctxEnd 0

/-- CTX_TERMINATE (R242, R400): OP 3. A running context halts first; a save in progress completes first (R239). -/
def execCtxTerminate (v : DWord) (s : State) : Host.Outcome State Fault Refusal :=
  .next <|
    if s.io.ctxBusy ∨ fieldN v 60 4 ≠ 3 then s
    else
      let n := cmdCtx v
      let busy : State → State := fun t => { t with io := { t.io with ctxBusy := true, ctxStat := 0 } }
      match (s.ctx n).st with
      | .none => s.ctxEnd 1
      | .running => busy ((s.preempt n none).modCtx n fun x => { x with kill := 1 })
      | .halting => busy (s.modCtx n fun x => { x with kill := 2 })
      | .waiting | .saved => (s.endCtx n 2).ctxEnd 0

/-! ## Restore (R241 to R243) -/

/-- The mesh cores of a rectangle. -/
def meshCores (px py pw ph : Nat) : List Nat := (List.range ph).flatMap fun j => (List.range pw).map fun i => 16 * (py + j) + px + i

/-- Whether a lead in use drives a mesh core. -/
def State.meshBusy (s : State) (c : Nat) : Bool :=
  s.cores.any fun k => k.2.use.isSome && (gangCores (pwGF k.2.pword) k.1).contains c

/-- Whether a restore is refused (R242): no image, an origin that does not fit, cores busy or a live partition's idle front ends (R21), a faulted image without RES; a region held
pre-empted does not run (R201, R262; log 31). -/
def State.restoreRefused (s : State) (x : Ctx) (v : DWord) : Bool :=
  let px := fieldN v 54 4
  let py := fieldN v 51 3
  x.st != .saved || !rectOk px py x.pw x.ph x.pgf || (meshCores px py x.pw x.ph).any (fun c => s.meshBusy c || s.regions.any fun p => s.idleFront p.2 c)
    || (x.flt && fieldN v 58 2 = 0) || s.held x.rcb

/-- A warp restored on a core (R212, R215, R242): its faulted slices go on as RES says; a gang has age 0; one parked on a ring slot executes
its AWAITF or YIELDC again (R320), and one at a REGANG enters it again (R384). Its register rows are written anew (R75, R85). -/
def Warp.restored (w : Warp) (res : Nat) (now : DWord) : Warp :=
  let w := (List.range 8).foldl (fun w j => w.modSlice j fun x =>
      let y := x.resume res
      { y with issued := now, ready := y.st == .parked && y.park == .regang, tok := if y.park == .awaitf || y.park == .yieldc then none else y.tok }) w
  { w.regroup now with bad := [] }

/-- A sequencer restored: one parked on a ring slot executes its AWAITF again (R320). -/
def Seq.restored (q : Seq) (res : Nat) : Seq :=
  let y := q.resume res
  { y with ready := false, tok := if y.park == .awaitf || y.park == .yieldc then none else y.tok }

/-- The copies of a restored core: a faulted one is retried (RES = 1) or dropped (log 32). -/
def Core.restoreCopies (k : Core) (res : Nat) : Core :=
  let gone := if res = 1 then [] else (k.copies.filter fun r => r.code != 0).map CopyRec.id
  { k with
    copies := (k.copies.filter fun r => !gone.contains r.id).map fun r => { r with got := [], code := 0, fva := 0 }
    window := k.window.filter fun e => match e with
      | .copy id => !gone.contains id
      | .job _ => true }

/-- The jobs of a restored core: one with a fault is tried again (RES = 1) or dropped (log 32). -/
def Core.restoreJobs (k : Core) (res : Nat) : Core :=
  let gone := if res = 1 then [] else (k.jobs.filter fun j => j.code != 0).map MxJob.id
  { k with
    jobs := (k.jobs.filter fun j => !gone.contains j.id).map fun j => { j with code := 0, fva := 0 }
    window := k.window.filter fun e => match e with
      | .copy _ => true
      | .job id => !gone.contains id }

/-- A saved core placed on a core of the new rectangle: it reads the counters of its new core (R217), and names the cores of the
rectangle by their relative index (R241). -/
def Core.restored (k home : Core) (res : Nat) (moved : Nat → Nat) : Core :=
  let k := (k.restoreCopies res).restoreJobs res
  { k with
    warps := Sparse.mapVals Warp.absent k.warps fun _ w => if w.live then w.restored res home.cycle else w
    blocks := Sparse.mapVals Block.absent k.blocks fun _ b => { b with mx := b.mx.restored res, cp := b.cp.restored res }
    bad := []
    waiters := k.waiters.map fun y => { y with core := moved y.core }
    install := [], wfault := []
    cycle := home.cycle, charged := home.cycle, chkrpl := home.chkrpl, icache := home.icache, fills := home.fills, tlb := home.tlb, upset := home.upset }

/-- The warps of a core that hold a faulted slice. -/
def Core.faultedWarps (k : Core) : List Nat :=
  k.liveWarps.filter fun w => (List.range 8).any fun j => ((k.warp w).slice j).st == .faulted

/-- A context restored on a rectangle (R241): its cores, an acquire at system scope (R197), its agents; RES = 3 then kills the warps
that held a faulted slice (R237); a block that nothing keeps any more retires (R207). -/
def State.restore (s : State) (n px py res : Nat) : State :=
  let x := s.ctx n
  let place := fun i => 16 * (py + i / x.pw) + px + i % x.pw
  let moved := fun c => place (relIndex x.px x.py x.pw c)
  let kills := if res = 3 then x.saved.flatMap fun p => p.2.faultedWarps.map fun w => (place p.1, w) else []
  let s := x.saved.foldl (fun t p => t.setCore (place p.1) (p.2.restored (t.core (place p.1)) res moved)) s
  let s := (s.dropImage n).modCtx n fun y =>
    { y.gone with st := .running, rcb := x.rcb, px := px, py := py, pw := x.pw, ph := x.ph, pgf := x.pgf }
  let s := kills.foldl (fun t p => t.killWarp p.1 p.2) s.dropPeerReads
  (x.saved.flatMap fun p => p.2.liveBlocks.map fun b => (place p.1, b)).foldl (fun t p => t.retire p.1 p.2) s

/-- A context lost at its restore (R243): signal words with STAT 3, the LOST record, the note in the region's usage record. -/
def State.loseCtx (s : State) (n : Nat) (tag : Bool) : State :=
  let x := s.ctx n
  let s := s.endCtx n 3
  let s := s.postRegion x.rcb 0x85 (BitVec.ofNat 64 x.rcb) (BitVec.ofNat 64 (n % 2 ^ 16)) (if tag then 1 else 0) 0
  (s.modRegion x.rcb fun r => { r with lost := true }).emitUsage x.rcb 3

/-- What the check of a context's whole image finds: a line whose tag or counter did not verify, poison, or what else was `found` (R243; log 92). -/
def State.imageCheck (s : State) (x : Ctx) (found : Option Bool) : Option Bool :=
  match x.area with
  | none => found
  | some a =>
    if s.mem.failed.any fun l => decide (a ≤ 128 * l) && decide (128 * l < a + x.size) then some true
    else if s.mem.pois.any fun p => decide (a < 16 * p.1 + 16) && decide (16 * p.1 < a + x.size) then some false
    else found

/-- CTX_RESTORE (R241 to R243): OP 2; `imageError` is what the check of the whole image finds beside what memory shows: nothing, an uncorrectable error
(`some false`), a wrong integrity tag (`some true`). -/
def execCtxRestore (v : DWord) (imageError : Option Bool) (s : State) : Host.Outcome State Fault Refusal :=
  .next <|
    if s.io.ctxBusy ∨ fieldN v 60 4 ≠ 2 then s
    else
      let n := cmdCtx v
      if s.restoreRefused (s.ctx n) v then s.ctxEnd 1
      else
        match s.imageCheck (s.ctx n) imageError with
        | some tag => (s.loseCtx n tag).ctxEnd 2
        | none => (s.restore n (fieldN v 54 4) (fieldN v 51 3) (fieldN v 58 2)).ctxEnd 0

end Sys2Proof.Machine
end

