-- ==== Sys2Proof/Machine/Monitor.lean ====
section
/-!
DEFINITION. The boot monitor's commands (spec/14 R244 to R262, R410; spec/07 R132 to R134; spec/13 R240): the mailboxes, firmware
images, attestation, confidential mode, quota roots, key slots, the crypt-tag table, save areas, the registration of format images and
its service call (spec/20 R393).
-/

namespace Sys2Proof.Machine

/-! ## The mailboxes (R250, R410) -/

def Mon.buf (m : Mon) : Mailbox → Sparse Byte
  | .host => m.bufHost
  | .fw => m.bufFw

def Mon.status (m : Mon) : Mailbox → Word
  | .host => m.stHost
  | .fw => m.stFw

/-- A dword of a command buffer. -/
def Mon.dword (m : Mon) (mb : Mailbox) (i : Nat) : DWord :=
  BitVec.ofNat 64 (leNat ((List.range 8).map fun j => Sparse.get 0 (m.buf mb) (8 * i + j)))

def State.setBuf (s : State) (mb : Mailbox) (b : Sparse Byte) : State :=
  match mb with
  | .host => { s with mon := { s.mon with bufHost := b } }
  | .fw => { s with mon := { s.mon with bufFw := b } }

/-- Bytes written into a command buffer. -/
def putBuf (b : Sparse Byte) (at_ : Nat) (bs : List Byte) : Sparse Byte :=
  ((List.range bs.length).zip bs).foldl (fun m p => Sparse.set 0 m (at_ + p.1) p.2) b

/-- A result in the low bytes of dword 0 (R410): the other bytes are unchanged. -/
def State.result (s : State) (mb : Mailbox) (bs : List Byte) : State := s.setBuf mb (putBuf (s.mon.buf mb) 0 bs)

def State.setStatus (s : State) (mb : Mailbox) (st : Nat) : State :=
  match mb with
  | .host => { s with mon := { s.mon with stHost := BitVec.ofNat 32 st } }
  | .fw => { s with mon := { s.mon with stFw := BitVec.ofNat 32 st } }

/-- The status codes of R250. -/
def mOK : Nat := 0
def mBADARG : Nat := 1
def mDENIED : Nat := 2
def mSIGFAIL : Nat := 3
def mROLLBACK : Nat := 4
def mLOCKED : Nat := 5
def mEXHAUSTED : Nat := 6
def mNOTINSET : Nat := 7
def mINUSE : Nat := 8
def mCONF : Nat := 9
def mREPLAY : Nat := 10
def mNOROOT : Nat := 11

/-- MONST while a command runs on after its first step. -/
def mBUSY : Nat := 2 ^ 31

/-- MONST.BUSY of a mailbox, and the code of the command that it waits with. -/
def Mon.busy (m : Mon) (mb : Mailbox) : Bool := bitAt (m.status mb) 31
def Mon.cmd (m : Mon) : Mailbox → Word
  | .host => m.cmdHost
  | .fw => m.cmdFw

def State.setCmd (s : State) (mb : Mailbox) (code : Word) : State :=
  match mb with
  | .host => { s with mon := { s.mon with cmdHost := code } }
  | .fw => { s with mon := { s.mon with cmdFw := code } }

def Mailbox.other : Mailbox → Mailbox
  | .host => .fw
  | .fw => .host

/-- Whether the monitor may take up a mailbox's command (R250): it runs no other, and where both mailboxes wait it takes them in turn. -/
def Mon.serves (m : Mon) (mb : Mailbox) : Bool := m.erase.isNone && !(m.busy (Mailbox.other mb) && m.last == mb)

/-- A doorbell write of a known code (R250): MONST.BUSY until the command's result stands. -/
def State.ring (s : State) (mb : Mailbox) (code : Word) : State := (s.setStatus mb mBUSY).setCmd mb code

/-- Whether a scheduler core runs: they are held in reset until service firmware is loaded (R245, R248). -/
def State.fwRuns (s : State) : Bool := (List.range Config.numSched).any fun c => !(s.schedCore c).inReset

/-- Whether a mailbox may be written: the host's through the open attach (R245, R249), the firmware's by a scheduler core that runs. -/
def State.mailOpen (s : State) : Mailbox → Bool
  | .host => s.attachOpen
  | .fw => s.fwRuns

/-- Whether the boot sequence has opened the attach (R245): what finds it retraining waits (R249). -/
def State.attachBooted (s : State) : Bool := s.io.bootstat == 1 || s.io.bootstat == 2

/-- A host access that finds the attach retraining: it is made once the attach is trained (R249); before the boot sequence has opened the
attach it is none. -/
def State.whenTrained (s : State) (op : HostOp) : State :=
  if s.attachBooted && !s.attachOpen then { s with io := { s.io with hostq := s.io.hostq ++ [op] } } else s

/-- A doorbell of a mailbox that cannot be written now. -/
def State.doorbellLater (s : State) (mb : Mailbox) (code : Word) : State :=
  match mb with
  | .host => s.whenTrained (.writeReg 0x90100 32 (code.setWidth 64))
  | .fw => s

/-- A command ends, or runs on, with a status. -/
def State.served (s : State) (mb : Mailbox) (st : Nat) : State :=
  let s := s.setStatus mb st
  let s := if st = mBUSY then s else s.setCmd mb 0
  { s with mon := { s.mon with last := mb } }

/-- Whether the monitor takes up a command of a mailbox now: it was rung, or the mailbox is open and no other command of it waits; and the monitor
serves it. -/
def State.takes (s : State) (mb : Mailbox) (code : Word) : Bool :=
  (if s.mon.busy mb then s.mon.cmd mb == code else s.mailOpen mb) && s.mon.serves mb

/-- A command of a mailbox (R250). Rung before, it is served when the monitor turns to it: DENIED to a caller whom the table does not name,
else its effect, with its status. Not rung before, its doorbell and its service are one step, unless the monitor has to serve another first;
with another command of its mailbox BUSY the doorbell is ignored. -/
def State.command (s : State) (mb : Mailbox) (code : Word) (host fw : Bool) (f : State → State × Nat) :
    Host.Outcome State Fault Refusal :=
  .next <|
    if s.mon.busy mb && s.mon.cmd mb != code then s
    else if !s.mon.busy mb && !s.mailOpen mb then s.doorbellLater mb code
    else if !s.mon.serves mb then (if s.mon.busy mb then s else s.ring mb code)
    else if !(match mb with
        | .host => host
        | .fw => fw) then s.served mb mDENIED
    else (f s).1.served mb (f s).2

/-- Whether the bytes that a command does not name are zero (R410): `l` gives the bits named of the first dwords. -/
def Mon.namedOnly (m : Mon) (mb : Mailbox) (l : List DWord) : Bool :=
  (List.range 32).all fun i => m.dword mb i &&& ~~~(l.getD i 0) == 0

def allBits : DWord := BitVec.allOnes 64

/-- The codes of R250. -/
def knownCommands : List Nat := [0x01, 0x02, 0x03, 0x04, 0x10, 0x11, 0x12, 0x13, 0x20, 0x21, 0x22, 0x23, 0x41]

/-- MONDB_UNKNOWN_COMMAND (R250). -/
def execMondbUnknownCommand (mb : Mailbox) (code : Word) (s : State) : Host.Outcome State Fault Refusal :=
  .next <|
    if s.mon.busy mb || knownCommands.contains code.toNat then s
    else if !s.mailOpen mb then s.doorbellLater mb code
    else s.setStatus mb mBADARG

/-- A write of MONDB (R250): ignored while BUSY; an unlisted code is BADARG at once; else the command waits for the monitor. -/
def State.doorbell (s : State) (mb : Mailbox) (code : Word) : State :=
  if s.mon.busy mb then s
  else if knownCommands.contains code.toNat then s.ring mb code
  else s.setStatus mb mBADARG

/-- Whether a buffer names no more than its first `n` dwords (R410; DESIGN CHOICE for the commands without a table, log 108). -/
def Mon.named (m : Mon) (mb : Mailbox) (n : Nat) : Bool := m.namedOnly mb (List.replicate n allBits)

/-! ## Measurements and firmware images (R246 to R249) -/

/-- MEASn extended by a digest (R246). -/
def State.extend (s : State) (n : Nat) (d : BitVec 384) : State :=
  let old := Sparse.get 0 s.mon.meas n
  { s with mon := { s.mon with
    meas := Sparse.set 0 s.mon.meas n (Config.sha384 (leBytes 48 old.toNat ++ leBytes 48 d.toNat)) } }

/-- Fields of a firmware header (R247). -/
def fwClass (h : DWord) : Nat := fieldN h 56 8
def fwSvn (h : DWord) : Nat := fieldN h 48 8
def fwSize (h : DWord) : Nat := fieldN h 0 32

/-- Whether a firmware header is bad, or its image and signatures do not lie in local HBM. -/
def fwBad (h : DWord) (base : Nat) : Bool :=
  3 < fwClass h || 64 < fwSvn h || fieldN h 32 15 != 0 || fwSize h == 0 || 2 ^ 26 < fwSize h || Config.hbmBytes < base + fwSize h + 3373

/-- The links of a class retrain under its image (R248, R249, R267): the attach keeps the host protocol, and what crosses it waits; the
scale-out ports take the mode of the last image, and the peers have no route meanwhile. -/
def State.retrain (s : State) (cls : Nat) : State :=
  let ls := if cls = 1 then [8, 9, 10, 11] else List.range 8
  let t : State := { s with io := { s.io with links := ls.foldl (fun m n => Sparse.modify Link.reset m n fun l =>
    { l with up := false, mode := if cls = 1 then 0 else cls - 1, cred := 0 }) s.io.links } }
  if cls = 1 then t else (ls.foldl State.reroute t).dropUnrouted

/-- The service firmware installed (R248): FWRANGE holds the carve-out, and the scheduler cores leave reset at the image's entry, whose
place in the image is open. -/
def State.installFirmware (s : State) (base size : Nat) : State :=
  let entry := s.free
  let s := (List.range Config.numSched).foldl (fun t c => t.modSched c fun k => { k with inReset := false, pc := entry }) s.bump
  { s with mon := { s.mon with fwrange := some (base, size) }, io := { s.io with bootstat := 0x02 } }

/-- FWLOAD's steps (R248). -/
def State.loadImage (s : State) (base : Nat) : State × Nat :=
  let h := s.mem.dword base
  if s.mon.fwrange.isSome then (s, mLOCKED)
  else if fwBad h base then (s, mBADARG)
  else
    let n := fwSize h
    let body := s.mem.read 0 base n
    if !Config.ed25519Ok Config.fusedEd body (s.mem.read 0 (base + n) 64)
        || !Config.mldsaOk Config.fusedMl body (s.mem.read 0 (base + n + 64) 3309) then (s, mSIGFAIL)
    else if fwSvn h < Sparse.get 0 s.mon.roll (fwClass h) then (s, mROLLBACK)
    else
      let s := s.extend (if fwClass h = 0 then 2 else 3) (Config.sha384 body)
      let s := if bitAt h 47 then
          { s with mon := { s.mon with roll := Sparse.modify 0 s.mon.roll (fwClass h) fun v => max v (fwSvn h) } }
        else s
      (if fwClass h = 0 then s.installFirmware base n else s.retrain (fwClass h), mOK)

/-- FWLOAD (R248). -/
def execFwload (mb : Mailbox) (base : Nat) (s : State) : Host.Outcome State Fault Refusal :=
  s.command mb 0x01 true false fun s => if s.mon.fwrange.isNone && !s.mon.named mb 1 then (s, mBADARG) else s.loadImage base

/-! ## Binding report, attestation, modes (R14, R18, R252, R254) -/

/-- The lowest good half position of a column from a position on; `fuel` bounds the search. -/
def goodHalf (stack col : Nat) : Nat → Nat → Nat
  | 0, h => h
  | n + 1, h => if Config.halfGood stack (col + 4 * (h / 2)) (h % 2) then h else goodHalf stack col n (h + 1)

/-- The first row, from a row on, with a good front end in a column. -/
def goodFront (stack col : Nat) : Nat → Nat → Nat
  | 0, r => r
  | n + 1, r => if col + 4 * r ≤ 33 ∧ Config.frontEndGood stack (col + 4 * r) then r else goodFront stack col n (r + 1)

/-- The binding of a column (R14): for each y, the front end's row and the two half positions. -/
def bindColumn (stack col : Nat) : Nat → Nat → Nat → List (Nat × Nat × Nat)
  | 0, _, _ => []
  | n + 1, row, half =>
    let fe := goodFront stack col 9 row
    let a := goodHalf stack col 18 (max half (2 * fe))
    let b := goodHalf stack col 18 (a + 1)
    (fe, a, b) :: bindColumn stack col n (fe + 1) (b + 1)

/-- Word n of the binding report (R18). -/
def bindingWord (n : Nat) : Word :=
  let stack := coreX n / 4
  let col := coreX n % 4
  let (fe, a, b) := (bindColumn stack col 8 0 0).getD (coreY n) (0, 0, 0)
  let ssa := col + 4 * (a / 2)
  let ssb := col + 4 * (b / 2)
  BitVec.ofNat 32 (2 ^ 31 + (if ssa ≠ ssb then 2 ^ 30 else 0) + stack * 2 ^ 24 + (col + 4 * fe) * 2 ^ 18 + ssa * 2 ^ 12 + a % 2 * 2 ^ 11
    + ssb * 2 ^ 5 + b % 2 * 2 ^ 4)

/-- The 128 words of the binding report as they stand. -/
def State.bindingBytes (s : State) : List Byte := (List.range 128).flatMap fun n => leBytes 4 (Sparse.get 0 s.io.binding n).toNat

/-- The attestation report (R134, R252). -/
def State.attestation (s : State) (nonce : BitVec 384) : List Byte :=
  let m := s.mon
  let body := leBytes 8 (2 ^ 56 + (if m.conf then 2 ^ 55 else 0) + m.images.length % 2 ^ 16 * 2 ^ 32 + m.deny.toNat)
    ++ leBytes 48 nonce.toNat ++ ((List.range 16).flatMap fun n => leBytes 48 (Sparse.get 0 m.meas n).toNat)
    ++ ((List.range 4).map fun c => BitVec.ofNat 8 (Sparse.get 0 m.roll c)) ++ [0, 0, 0, 0]
    ++ leBytes 48 (Config.sha384 s.bindingBytes).toNat ++ fitBytes 1184 Config.encapKey
    ++ m.images.flatMap fun p => leBytes 8 p.1 ++ leBytes 8 p.2.rcb ++ leBytes 48 p.2.digest.toNat
  body ++ fitBytes 64 (Config.edSign body) ++ fitBytes 3309 (Config.mlSign body)

/-- A result longer than the buffer (R252, R410): its first 256 bytes stand in MONBUF (log 109). -/
def State.longResult (s : State) (mb : Mailbox) (bs : List Byte) : State :=
  { s.result mb (bs.take 256) with mon := { (s.result mb (bs.take 256)).mon with report := bs } }

/-- ATTEST (R252): the report is returned. With dword 0 = 1 it is the other form. -/
def execAttest (mb : Mailbox) (nonce : BitVec 384) (s : State) : Host.Outcome State Fault Refusal :=
  if s.mon.dword mb 0 = 1 then .next s
  else s.command mb 0x02 true true fun s =>
    if !s.mon.named mb 7 then (s, mBADARG) else (s.purgeImages.longResult mb (s.purgeImages.attestation nonce), mOK)

/-- ATTEST with dword 0 = 1 (R252): the certificates are returned. -/
def execAttestCerts (mb : Mailbox) (s : State) : Host.Outcome State Fault Refusal :=
  if s.mon.dword mb 0 ≠ 1 then .next s
  else s.command mb 0x02 true true fun s => if !s.mon.named mb 7 then (s, mBADARG) else (s.longResult mb Config.certs, mOK)

/-- CONFSET (R254). -/
def execConfset (mb : Mailbox) (mode : Nat) (s : State) : Host.Outcome State Fault Refusal :=
  s.command mb 0x03 true false fun s =>
    if !s.mon.named mb 1 || 1 < mode then (s, mBADARG) else ({ s with mon := { s.mon with confNext := mode == 1 } }, mOK)

/-- DBGEN (R250, R254). -/
def execDbgen (mb : Mailbox) (s : State) : Host.Outcome State Fault Refusal :=
  s.command mb 0x04 true false fun s =>
    if !s.mon.named mb 0 then (s, mBADARG) else if s.mon.conf then (s, mCONF) else ({ s with mon := { s.mon with dbg := true } }, mOK)

/-! ## Quota roots (R260, R262) -/

/-- The lowest root number that no root holds. -/
def State.freeRoot (s : State) : Option Nat := (List.range 64).find? fun n => !(s.root n).held

/-- Whether the arguments of a ROOTACT are bad (R260). -/
def State.rootBad (s : State) (a : RootArgs) : Bool :=
  let size := 4096 * 2 ^ a.logn
  16 ≤ a.fn || a.logn == 0 || 12 < a.logn || a.cblk % 64 != 0 || Config.hbmBytes < a.ring + size || Config.hbmBytes < a.cblk + 64
    || (a.ring < a.cblk + 64 && a.cblk < a.ring + size) || a.rcb % 128 != 0 || Config.hbmBytes < a.rcb + 128 || 65536 ≤ a.ctx
    || (s.region a.rcb).live || s.ctxTaken a.ctx

/-- ROOTACT (R260): the root number is returned. -/
def execRootact (mb : Mailbox) (args : RootArgs) (s : State) : Host.Outcome State Fault Refusal :=
  s.command mb 0x10 true false fun s =>
    let d := s.rcbWords args.rcb
    let r := s.effective d true Region.none
    if s.io.flrBusy && s.io.flrFn == args.fn then (s, mDENIED)
    else if !s.mon.named mb 18 ∨ s.rootBad args ∨ s.activateStatus args.rcb d true r Region.none ≠ 0 ∨ r.parent ≠ 0 then (s, mBADARG)
    else
      match s.freeRoot with
      | none => (s, mINUSE)
      | some n =>
        let q : Root := { Root.none with
          held := true, rcb := args.rcb, fn := args.fn, ed := args.ed, ml := args.ml, ring := args.ring, logn := args.logn
          cblk := args.cblk }
        (((s.modRoot n fun _ => q).makeLive args.rcb args.ctx { r with root := n }).result mb (leBytes 8 n), mOK)

/-- The body of a ROOTSET that its owner signs. -/
def rootSetBody (a : RootSetArgs) : List Byte :=
  leBytes 8 a.root ++ leBytes 8 a.counter.toNat ++ leBytes 8 a.bcyc.toNat ++ leBytes 8 a.bpool.toNat ++ leBytes 8 a.bhbm.toNat
    ++ leBytes 8 a.blink.toNat

/-- ROOTSET (R260): the root's budgets are changed; a root whose budgets are no longer reached may go on. -/
def execRootset (mb : Mailbox) (args : RootSetArgs) (s : State) : Host.Outcome State Fault Refusal :=
  s.command mb 0x11 true false fun s =>
    let q := s.root args.root
    if !s.mon.named mb 15 then (s, mBADARG)
    else if 64 ≤ args.root ∨ !q.held then (s, mNOROOT)
    else if !Config.ed25519Ok q.ed (rootSetBody args) (leBytes 64 args.edSig.toNat)
        || !Config.mldsaOk q.ml (rootSetBody args) args.mlSig then (s, mSIGFAIL)
    else if args.counter.toNat ≤ q.counter.toNat then (s, mREPLAY)
    else
      let s := s.modRoot args.root fun q => { q with counter := args.counter }
      let s := s.modRegion q.rcb fun r =>
        { r with budget := [args.bcyc.toNat, args.bpool.toNat, args.bhbm.toNat, args.blink.toNat] }
      let s := s.modRegion q.rcb fun r => { r with preempted := r.preempted && !r.withinBudget }
      (s.postFw 0x04 args.root, mOK)

/-- ROOTDEL (R260): a root with no other live region, whose own context holds no work (log 28), emits its last record and is removed; the command
waits while the monitor holds all the records that it can (R262; log 114). -/
def execRootdel (mb : Mailbox) (root : Nat) (s : State) : Host.Outcome State Fault Refusal :=
  s.command mb 0x12 true false fun s =>
    let q := s.root root
    if !s.mon.named mb 1 then (s, mBADARG)
    else if 64 ≤ root ∨ !q.held then (s, mNOROOT)
    else if s.regions.any (fun p => p.2.live && p.2.root = root && p.1 != q.rcb) || !s.idleCtx (s.region q.rcb).ctx then (s, mINUSE)
    else if s.usageFull q.rcb then (s.setCmd mb 0x12, mBUSY)
    else
      let s := s.retireRegion q.rcb 5
      let s := if (s.root root).records.isEmpty then s else { s with mon := { s.mon with late := s.mon.late ++ [(root, s.root root)] } }
      (s.modRoot root fun q => { q with held := false, records := [] }, mOK)

/-- USAGEREQ (R250, R262); it waits as ROOTDEL does. -/
def execUsagereq (mb : Mailbox) (rcb : Nat) (s : State) : Host.Outcome State Fault Refusal :=
  s.command mb 0x13 true true fun s =>
    if !s.mon.named mb 1 then (s, mBADARG) else if !(s.region rcb).live then (s, mBADARG)
    else if s.usageFull rcb then (s.setCmd mb 0x13, mBUSY) else (s.emitUsage rcb 1, mOK)

/-! ## Key slots and tags (R256 to R258) -/

def State.setKey (s : State) (n : Nat) (k : KeySlot) : State :=
  { s with mon := { s.mon with keys := Sparse.set KeySlot.empty s.mon.keys n k } }

/-- A range of local HBM written with zeros, every granule whole (R406). -/
def Mem.zeroRange (m : Mem) (a n : Nat) : Mem :=
  { m with
    hbm := m.hbm.filter fun p => !(decide (a ≤ p.1) && decide (p.1 < a + n))
    pois := m.pois.filter fun p => !(decide (a ≤ 16 * p.1) && decide (16 * p.1 < a + n)) }

/-- The same by the monitor: the bytes that are closed to it are kept, and the write is counted (R244, R248). -/
def State.zeroRange (s : State) (a n : Nat) : State :=
  let shut := (s.mon.fwrange.toList ++ s.mon.secured).any fun r => decide (r.1 < a + n) && decide (a < r.1 + r.2)
  let kept := s.mem.hbm.filter fun p => decide (a ≤ p.1) && decide (p.1 < a + n) && s.inFirmware 0 p.1
  if shut then { s.deny with mem := kept.foldl (fun m p => m.put 0 p.1 p.2) (s.mem.zeroRange a n) }
  else { s with mem := s.mem.zeroRange a n }

def State.setTag (s : State) (page : Nat) (t : Tag) : State :=
  { s with mon := { s.mon with tags := Sparse.set Tag.clear s.mon.tags page t } }

/-- A page's tag changed: zero is written before the new entry takes effect (R258). -/
def State.retag (s : State) (page : Nat) (t : Tag) : State :=
  if s.tag page = t then s else (s.zeroRange (65536 * page) 65536).setTag page t

/-- KEYNEW's operands in the buffer, and the slot it would take (R257, R410). -/
def State.keynew (s : State) (mb : Mailbox) (imp : Bool) (key : State → Bool → Option (BitVec 512)) : State × Nat :=
  let rcb := (s.mon.dword mb 0).toNat
  let gcm := bitAt (s.mon.dword mb 1) 0
  let r := s.region rcb
  if s.resetting rcb then (s, mDENIED)
  else if !s.mon.namedOnly mb (if imp then [allBits, 0x101, allBits] else [allBits, 0x101]) || !r.live then (s, mBADARG)
  else if (List.range 128).all fun n => (s.key n).st != 0 then (s, mEXHAUSTED)
  else
    match (List.range 128).find? fun n => bitAt r.keys n && (s.key n).st == 0 with
    | none => (s, mNOTINSET)
    | some n =>
      match key s gcm with
      | none => (s, mSIGFAIL)
      | some k => ((s.bump.setKey n { st := 1, gcm := gcm, root := r.root, key := k, roots := [] }).result mb [BitVec.ofNat 8 n], mOK)

/-- KEYNEW with source generate (R257): the key is the monitor's own. -/
def execKeynewGenerate (mb : Mailbox) (s : State) : Host.Outcome State Fault Refusal :=
  if bitAt (s.mon.dword mb 1) 8 then .next s
  else s.command mb 0x20 false true fun s => s.keynew mb false fun s _ => some (Config.freeKey s.freeCtr)

/-- The import block of a KEYNEW (R410). -/
def State.importBlock (s : State) (pa : Nat) (gcm : Bool) : List Byte := s.mem.read 0 pa (1088 + 12 + (if gcm then 32 else 64) + 16)

/-- KEYNEW with source import (R257): the wrapped key must verify. -/
def execKeynewImport (mb : Mailbox) (s : State) : Host.Outcome State Fault Refusal :=
  if !bitAt (s.mon.dword mb 1) 8 then .next s
  else s.command mb 0x20 false true fun s =>
    let pa := (s.mon.dword mb 2).toNat
    if !s.resetting (s.mon.dword mb 0).toNat && decide (Config.hbmBytes < pa + (if bitAt (s.mon.dword mb 1) 0 then 1148 else 1180)) then (s, mBADARG)
    else s.keynew mb true fun s gcm => Config.unwrap (s.importBlock pa gcm)

/-- The erasure of a slot begins (R258): its keys and roots are zeroised, and it is erasing; accesses through it raise CA. -/
def State.beginErase (s : State) (n : Nat) : State := s.setKey n { KeySlot.empty with st := 2, root := (s.key n).root }

/-- It ends: the tag entries that name the slot return to clear mode, each page zeroed first, and the slot is empty. -/
def State.endErase (s : State) (n : Nat) : State :=
  let pages := (s.mon.tags.filter fun p => p.2.mode != 0 && p.2.slot = n && !p.2.sv).map Prod.fst
  (pages.foldl (fun t p => t.retag p Tag.clear) s).setKey n KeySlot.empty

def State.eraseKey (s : State) (n : Nat) : State := (s.beginErase n).endErase n

/-- KEYERASE (R258, R251). A command that was rung stays BUSY from its first event, in which the slot becomes erasing, to its second, which
completes it; one that was not is one step. -/
def execKeyerase (mb : Mailbox) (s : State) : Host.Outcome State Fault Refusal :=
  match s.mon.erase with
  | some n =>
    if mb == .fw && s.mon.busy mb && s.mon.cmd mb == 0x21 then
      .next ((({ s with mon := { s.mon with erase := none } } : State).endErase n).postFw 0x01 n |>.served mb mOK)
    else s.command mb 0x21 false true fun s => (s, mOK)
  | none =>
    s.command mb 0x21 false true fun s =>
      let r := s.region (s.mon.dword mb 0).toNat
      let n := fieldN (s.mon.dword mb 1) 0 8
      if !s.mon.namedOnly mb [allBits, 0xFF] || !r.live || 128 ≤ n || !bitAt r.keys n then (s, mBADARG)
      else if (s.key n).st = 2 then (s, mINUSE)
      else if (s.key n).st = 0 then (s, mOK)
      else if s.mon.busy mb then
        ({ s.beginErase n with mon := { (s.beginErase n).mon with erase := some n } }, mBUSY)
      else ((s.eraseKey n).postFw 0x01 n, mOK)

/-- The pages of a range, and the tag of the i-th of `n` in a mode: the last eighth of a GCM range holds its metadata (R39). -/
def rangeTag (mode slot n i : Nat) (sv : Bool) : Tag :=
  if mode = 0 then Tag.clear else { mode := if mode = 2 ∧ n * 7 / 8 ≤ i then 3 else mode, slot := slot, sv := sv }

/-- A range's tags set (R258). -/
def State.retagRange (s : State) (a size mode slot : Nat) (sv : Bool) : State :=
  let n := size / 65536
  (List.range n).foldl (fun t i => t.retag (a / 65536 + i) (rangeTag mode slot n i sv)) s

/-- TAGSET (R258, R39). -/
def execTagset (mb : Mailbox) (s : State) : Host.Outcome State Fault Refusal :=
  s.command mb 0x22 false true fun s =>
    let a := (s.mon.dword mb 0).toNat
    let size := (s.mon.dword mb 1).toNat
    let mode := fieldN (s.mon.dword mb 2) 0 2
    let slot := fieldN (s.mon.dword mb 2) 8 7
    let r := s.region (s.mon.dword mb 3).toNat
    if s.resetting (s.mon.dword mb 3).toNat then (s, mDENIED)
    else if !s.mon.namedOnly mb [allBits, allBits, 0x7F03, allBits] || !r.live || a % 65536 ≠ 0 || size = 0 || size % 65536 ≠ 0
        || Config.hbmBytes < a + size || mode = 3 || (mode ≠ 0 && ((s.key slot).st ≠ 1 || !bitAt r.keys slot))
        || (mode = 2 && (a % 524288 ≠ 0 || size % 524288 ≠ 0)) then (s, mBADARG)
    else if s.mon.tags.any fun p => p.2.sv && a / 65536 ≤ p.1 && p.1 < (a + size) / 65536 then (s, mINUSE)
    else (s.retagRange a size mode (if mode = 0 then 0 else slot) false, mOK)

/-! ## Save areas (R240, R413) -/

/-- SAVESET's operands: base and size, or nothing where they are bad. -/
def State.savesetArgs (s : State) (mb : Mailbox) : Option (Nat × Nat) :=
  let a := (s.mon.dword mb 0).toNat
  let size := (s.mon.dword mb 1).toNat
  if !s.mon.namedOnly mb [allBits, allBits, 1] || a % 524288 ≠ 0 || size % 524288 ≠ 0 || size = 0 || Config.hbmBytes < a + size then none
  else some (a, size)

/-- SAVESET that creates (R240): the range is written with zeros and tagged; the collector tries again (R413). -/
def execSavesetCreate (mb : Mailbox) (s : State) : Host.Outcome State Fault Refusal :=
  if bitAt (s.mon.dword mb 2) 0 then .next s
  else s.command mb 0x23 false true fun s =>
    match s.savesetArgs mb with
    | none => (s, mBADARG)
    | some (a, size) =>
      if s.mon.tags.any fun p => a / 65536 ≤ p.1 && p.1 < (a + size) / 65536 && (p.2.mode != 0 || p.2.sv) then (s, mINUSE)
      else
        let s := (s.zeroRange a size).retagRange a size 2 0 true
        (({ s with mon := { s.mon with areas := s.mon.areas ++ [{ base := a, size := size, ctx := none }] } } : State).collectWaiting, mOK)

/-- SAVESET that releases (R240). -/
def execSavesetRelease (mb : Mailbox) (s : State) : Host.Outcome State Fault Refusal :=
  if !bitAt (s.mon.dword mb 2) 0 then .next s
  else s.command mb 0x23 false true fun s =>
    match s.savesetArgs mb with
    | none => (s, mBADARG)
    | some (a, size) =>
      match s.mon.areas.find? fun r => r.base = a && r.size = size with
      | none => (s, mBADARG)
      | some r =>
        if r.ctx.isSome then (s, mINUSE)
        else
          let s := (s.zeroRange a size).retagRange a size 0 0 false
          (({ s with mon := { s.mon with areas := s.mon.areas.filter fun q => q.base != a } } : State).collectWaiting, mOK)

/-! ## Format images (R130 to R134, R404) -/

/-- Whether an image's header is malformed (R130). -/
def imgHdrBad (h : DWord) : Bool :=
  let drm := fieldN h 44 4
  let nim := fieldN h 40 4
  fieldN h 53 10 != 0 || !((1 ≤ drm && drm ≤ 5) || (8 ≤ drm && drm < 8 + nim)) || 8 < nim || fieldN h 32 7 != 0 || fieldN h 0 32 == 0
    || 262144 < fieldN h 0 32

/-- Whether an own-family descriptor is malformed (R404). -/
def ownBad (d : DWord) : Bool :=
  let wsrc := fieldN d 38 2
  let fw := fieldN d 33 5
  let m := fieldN d 28 5
  fieldN d 0 23 != 0 || wsrc == 3 || fieldN d 26 2 == 3 || m == 0 || 24 < m || (wsrc == 0 && (fw == 0 || 16 < fw)) || (wsrc != 0 && fw != 0)
    || (wsrc == 1 && fieldN d 40 5 != 31)

/-- Bytes read through a region's translation. -/
def State.ioBytes (s : State) (who : Nat) (r : Region) (va n : Nat) : Option (List Byte) :=
  (List.range n).foldr (fun i acc =>
    match acc, s.ioRead who r (va + i) 1 with
    | some l, some b => some (BitVec.ofNat 8 b :: l)
    | _, _ => none) (some [])

/-- The statuses of R132. -/
def iOK : Nat := 0
def iMALFORMED : Nat := 1
def iSIGFAIL : Nat := 2
def iKEY : Nat := 3
def iFULL : Nat := 4
def iUNREADABLE : Nat := 5

/-- A granule of every 16 bytes of a range, as reads. -/
def granulesOf (va n : Nat) : List (Nat × Nat) := (List.range ((va % 16 + n + 15) / 16)).map fun i => (va / 16 * 16 + 16 * i, 16)

/-- What the monitor reads of an image: the header first, the rest once it can be read and is well formed (R132). -/
def State.imageReads (s : State) (who : Nat) (r : Region) (va : Nat) : List (Nat × Nat) :=
  granulesOf va 16 ++
    match s.ioBytes who r va 8 with
    | none => []
    | some hb =>
      let h : DWord := BitVec.ofNat 64 (leNat hb)
      if imgHdrBad h then [] else granulesOf va (8 + (if bitAt h 63 then 8 else 0) + fieldN h 0 32 + 3373)

/-- An image of a region registered (R132, R133): the state, the handle, the status. A full store is found after the key and a digest that
is there already, before the measurement (DESIGN CHOICE, log 103). -/
def State.register (s : State) (who rcb va : Nat) : State × Nat × Nat :=
  let r := s.region rcb
  let s := s.purgeImages
  match s.ioBytes who r va 8 with
  | none => (s, 0, iUNREADABLE)
  | some hb =>
    let h : DWord := BitVec.ofNat 64 (leNat hb)
    let n := if bitAt h 63 then 8 else 0
    if imgHdrBad h then (s, 0, iMALFORMED)
    else
      match s.ioBytes who r (va + 8) n with
      | none => (s, 0, iUNREADABLE)
      | some ob =>
        let own : DWord := BitVec.ofNat 64 (leNat ob)
        if bitAt h 63 && ownBad own then (s, 0, iMALFORMED)
        else
          let len := 8 + n + fieldN h 0 32
          match s.ioBytes who r va (len + 3373) with
          | none => (s, 0, iUNREADABLE)
          | some all =>
            let body := all.take len
            let key := Config.imageKey all
            let dig := Config.sha384 all
            if !Config.ed25519Ok key body ((all.drop len).take 64) || !Config.mldsaOk key body (all.drop (len + 64)) then (s, 0, iSIGFAIL)
            else if !r.imgs.contains key then (s, 0, iKEY)
            else
              match s.mon.images.find? fun p => p.2.digest = dig && p.2.rcb = rcb with
              | some p => (s, p.1, iOK)
              | none =>
                if 240 ≤ s.mon.images.length then (s, 0, iFULL)
                else
                  let s := s.extend 10 dig
                  let i : Image := { hdr := h, own := own, digest := dig, key := key, rcb := rcb }
                  ({ s with mon := { s.mon with images := s.mon.images ++ [(s.mon.nextHandle, i)], nextHandle := s.mon.nextHandle + 1 } },
                    s.mon.nextHandle, iOK)

/-- Whether an IMGREG in a mailbox reaches the read of its image: what it names is a live region, whose function is not being reset. -/
def State.imgregOk (s : State) (mb : Mailbox) : Bool :=
  mb == .fw && !s.resetting (s.mon.dword mb 0).toNat && s.mon.namedOnly mb [allBits, allBits] && (s.region (s.mon.dword mb 0).toNat).live

/-- The effect of IMGREG once the image can be read. -/
def State.imgreg (s : State) (mb : Mailbox) : State × Nat :=
  let rcb := (s.mon.dword mb 0).toNat
  let va := (s.mon.dword mb 1).toNat
  if s.resetting rcb then (s.forget 64, mDENIED)
  else if !s.mon.namedOnly mb [allBits, allBits] || !(s.region rcb).live then (s.forget 64, mBADARG)
  else
    let (t, h, st) := (s.ioDenied (s.region rcb) (s.imageReads 64 (s.region rcb) va)).register 64 rcb va
    ((t.forget 64).result mb (leBytes 4 h ++ leBytes 1 st), mOK)

/-- IMGREG (R132, R410): MONST is OK whenever a status of R132 is reached; that status and the handle stand in dword 0. What of the image lies at
a peer or the host is read on a link before (R267; DEDUCED, log 141). -/
def execImgreg (mb : Mailbox) (s : State) : Host.Outcome State Fault Refusal :=
  let r := s.region (s.mon.dword mb 0).toNat
  let gs := s.ioUnread 64 r (s.imageReads 64 r (s.mon.dword mb 1).toNat)
  if s.takes mb 0x41 && s.imgregOk mb && !gs.isEmpty then .next (gs.foldl (fun t p => t.ioAsk 64 r.ctx p) s)
  else s.command mb 0x41 false true fun s => s.imgreg mb

/-! ## The reply of a service call (R393) -/

/-- The result and the status of a call, low word and high word: IMGREG, what the service firmware makes of it (open), or the answer to a
selector that it does not know (R393). -/
def State.serve1 (s : State) (r : Req) (arg : DWord) : State × DWord :=
  if r.meth = 0x0041 then
    let (t, h, st) := s.register (agentOf r.id) (s.ctx r.ctx).rcb arg.toNat
    (t, BitVec.ofNat 64 (h + st * 2 ^ 32))
  else if Config.serviceKnown (BitVec.ofNat 16 r.meth) then (s.bump, Config.service s.freeCtr (BitVec.ofNat 16 r.meth) arg)
  else (s, 0xFFFFFFFF00000000)

/-- What a call reads of its region: the image of IMGREG. -/
def State.callReads (s : State) (r : Req) (arg : DWord) : List (Nat × Nat) :=
  if r.meth = 0x0041 then s.imageReads (agentOf r.id) (s.region (s.ctx r.ctx).rcb) arg.toNat else []

/-- A call that has not been served: its reply is formed once what precedes it is performed. -/
def State.serveCall (s : State) (r : Req) : State :=
  if r.kind != .svc || r.done || !s.mayPerform r then s
  else
    let a := match r.parts with
      | [] => 0
      | p :: _ => p.opr
    s.withRead (agentOf r.id) (s.region (s.ctx r.ctx).rcb) (s.callReads r a) fun s =>
      let (t, v) := s.serve1 r a
      t.complete r false [v.setWidth 128]

/-- LOAD_WRITEBACK (R99, R393): once every request of an instruction has been performed, its replies are written together; poisoned
data writes nothing and is a storage machine check at the instruction (R299, R368). -/
def execLoadWriteback (req : Nat) (s : State) : Host.Outcome State Fault Refusal :=
  .next <|
    match s.findReq req with
    | none => s
    | some q => ((s.serveCall q).writeBack req)

end Sys2Proof.Machine
end

