-- ==== Sys2Proof/Machine/Links.lean ====
section
/-!
DEFINITION. The links (spec/15 R249, R263 to R272): training, lane loss, routes, fabric flits, Ethernet frames, silent peers, mirroring.
-/

namespace Sys2Proof.Machine

/-! ## Links (R267 to R270) -/

/-- The scale-out ports run Ethernet (R267). -/
def State.ethernet (s : State) : Bool := (s.port 0).mode == 2

/-- A link at half width (R269): its send window and its arbitration weight are halved, its cost doubled. -/
def Link.halve (l : Link) : Link :=
  { l with wid := 1, win := l.win / 2, weight := l.weight / 2, cred := min l.cred (l.win / 2), cost := 2 * l.cost }

/-- A link down (R269). -/
def Link.down (l : Link) : Link := { l with up := false, wid := 2, cred := 0 }

/-- LANE_LOSS (R269): a UCIe module repairs the lane while it has a redundant one; a link drops to half width, and a half-width link
goes down. The flits in flight on the lane are retried: how many is open. -/
def execLaneLoss (link : Nat) (s : State) : Host.Outcome State Fault Refusal :=
  .next <|
    let l := s.port link
    if 12 ≤ link || !l.up then s
    else
      let s := s.bump.modLink link fun q => { q with rtry := min 65535 (q.rtry + (Config.freeDWord s.freeCtr).toNat) }
      if 8 ≤ link ∧ 0 < l.spare then s.modLink link fun q => { q with spare := q.spare - 1 }
      else if l.wid = 0 then s.modLink link Link.halve
      else ((s.modLink link Link.down).reroute link).dropUnrouted

/-- PEER_SILENCE_DETECTED (R272): the peer is lost, and no route leads to it; nothing waits for it any more. -/
def execPeerSilenceDetected (device : Nat) (s : State) : Host.Outcome State Fault Refusal :=
  .next <|
    if s.io.lost.contains device then s
    else
      { s with io := { s.io with
        lost := s.io.lost ++ [device]
        links := Sparse.mapVals Link.reset s.io.links fun _ l => { l with wait := l.wait.filter fun m => m.1 != device } } }.dropUnrouted

/-! ## Peers' requests (R31, R41, R267) -/

/-- Whether the receiver's check of an access against its own crypt-tag table passes (R41). -/
def State.peerOk (s : State) (pa len crypt key : Nat) (write : Bool) : Bool :=
  decide (pa + len ≤ Config.hbmBytes) && [pa, pa + len - 1].all fun a =>
    let t := s.tag (a / 65536)
    t.admits crypt key write && (t.sv || crypt == 0 || (s.key t.slot).st == 1)

/-- The granules that a poisoned peer write touches (R406). -/
def State.poisonRange (s : State) (pa len : Nat) : State :=
  (units16 pa len).foldl (fun t g => t.poisonMem 0 g) s

/-- A peer's own agents write its memory (R31, R186): a copy that the peer-read cache holds of it stays (R44). -/
def Mem.peerStore (m : Mem) (a : Nat) (bs : List Byte) (poison : Bool) : Mem :=
  let rd := m.peerRd
  let m := { m.write 1 a bs with peerRd := rd }
  if poison then (units16 a bs.length).foldl (fun m g => m.setPoison 1 g true) m else m

/-- A reply of a peer, the acknowledgement of the access (R41, R180, R185 to R188): the request that the peer has performed is complete. A
reply says what the peer's home found; another, and one that its check failed, belongs to no access (DEDUCED, log 125): that check was made at the
instruction (R234; log 18). -/
def State.takeReply (s : State) (id : Nat) (bytes : List Byte) (poison ca : Bool) : State :=
  match s.findReq id with
  | none => s
  | some r => if r.done || ca || r.ans != some bytes || poison != r.pois then s else s.complete r r.pois r.replies

/-- Whether a mirror write still waits for a credit. -/
def State.mirrorWaits (s : State) (id : Nat) : Bool := s.io.links.any fun l => l.2.wait.any fun m => mirrorTag m.2 == some id

/-- An acknowledgement of a mirror write that was sent, or a refusal, which breaks mirroring (R196, R271). -/
def State.takeMirrorAck (s : State) (id : Nat) (refused : Bool) : State :=
  match s.fab.mirror.find? fun m => m.id = id && m.sent.isSome && !s.mirrorWaits id with
  | none => s
  | some m =>
    if refused then s.breakMirror
    else
      let at_ := fieldN s.io.mircfg 24 13 * 2 ^ 40 + fieldN s.io.mircfg 0 24 * 65536 + m.pa
      let mem := s.mem.write 1 at_ m.bytes
      let mem := if m.pois then (units16 at_ m.bytes.length).foldl (fun q g => q.setPoison 1 g true) mem else mem
      { s with mem := mem, fab := { s.fab with mirror := s.fab.mirror.filter fun q => q.id != id } }

/-- A partner's mirror write (R266, R271): stored in the receive range unchanged, or refused; the header of an armed object discards it
(R169), and a running wave holds it off (R169). -/
def State.mirrorStore (s : State) (src tag ofs : Nat) (bytes : List Byte) (poison : Bool) : State :=
  let lo := fieldN s.io.mirrx 0 24 * 65536
  let n := fieldN s.io.mirrx 24 24 * 65536
  if !bitAt s.io.mirrx 63 || ofs < lo || lo + n < ofs + bytes.length || Config.hbmBytes < ofs + bytes.length then
    s.sendTo src (.mirrorAck tag true)
  else if s.waveHolds ⟨0, 0, ofs⟩ bytes.length then s
  else
    let s := s.storeGlobal 0 ofs bytes
    (if poison then s.poisonRange ofs bytes.length else s).sendTo src (.mirrorAck tag false)

/-- The bytes that a peer's masked store leaves (R58, R296). -/
def State.maskedBytes (s : State) (pa : Nat) (bytes : List Byte) (mask : Nat) : List Byte :=
  if mask = 0 then bytes
  else ((List.range bytes.length).zip bytes).map fun p =>
    let m := BitVec.ofNat 8 (mask / 256 ^ p.1)
    (p.2 &&& m) ||| (s.mem.byte 0 (pa + p.1) &&& ~~~m)

/-- A message of the fabric delivered (R267). A peer's access waits for nothing here but a wave that holds its bytes (R169). -/
def State.deliver (s : State) (port : Nat) : FabricMsg → State
  | .load src tag pa len crypt key =>
    if s.waveHolds ⟨0, 0, pa⟩ len then s
    else
      let ok := s.peerOk pa len crypt key false
      let s := if ok then s.denyRead 0 pa len else s
      let bs := if ok then leBytes len (s.readGlobal 0 pa len) else []
      s.sendTo src (.reply tag bs (ok && s.mem.poisoned 0 pa len) !ok)
  | .store src tag pa bytes mask poison crypt key =>
    if s.waveHolds ⟨0, 0, pa⟩ bytes.length then s
    else
      let ok := s.peerOk pa bytes.length crypt key true
      let t := if ok then s.storeGlobal 0 pa (s.maskedBytes pa bytes mask) else s
      (if ok && poison then t.poisonRange pa bytes.length else t).sendTo src (.reply tag [] false !ok)
  | .atomic src tag pa op ty ops crypt key =>
    let t4 := BitVec.ofNat 4 ty
    let n := 4 * nreg t4
    if s.waveHolds ⟨0, 0, pa⟩ n then s
    else
      let ok := s.peerOk pa n crypt key true
      let s := if ok then s.denyRead 0 pa n else s
      let old := s.readGlobal 0 pa n
      let pois := s.mem.poisoned 0 pa n
      let run := ops.foldl (fun a p => (atomNew op t4 a.1 p.1 p.2, a.2 ++ leBytes n a.1.toNat)) (BitVec.ofNat 64 old, [])
      let t := if ok && !pois then s.storeGlobal 0 pa (leBytes n run.1.toNat) else s
      t.sendTo src (.reply tag (if ok then run.2 else []) (ok && pois) !ok)
  | .mirror src tag ofs bytes poison _ _ => s.mirrorStore src tag ofs bytes poison
  | .reply id bytes poison ca => s.takeReply id bytes poison ca
  | .message _ bytes => s.modLink port fun l => { l with rx := l.rx ++ [bytes] }
  | .mirrorAck tag refused => s.takeMirrorAck tag refused

/-- The priority of a frame: the priority code point of its VLAN tag, or 0 (PRESUMED, log 140: IEEE 802.1Q). -/
def framePrio (b : List Byte) : Nat := if b.getD 12 0 = 0x81 ∧ b.getD 13 0 = 0 then (b.getD 14 0).toNat / 32 else 0

/-- The priorities paused after a pause frame, or nothing where a frame is none: of IEEE 802.3x all, of IEEE 802.1Qbb those that it names,
each until its time is over (PRESUMED, log 140). -/
def pauseOf (was : BitVec 8) (b : List Byte) : Option (BitVec 8) :=
  let half := fun i => (b.getD i 0).toNat * 256 + (b.getD (i + 1) 0).toNat
  if half 12 ≠ 0x8808 then none
  else if half 14 = 0x0001 then some (if half 16 = 0 then 0 else 0xFF)
  else if half 14 = 0x0101 then
    some (maskOf 8 ((List.range 8).filter fun i => if bitAt (b.getD 17 0) i then half (18 + 2 * i) != 0 else bitAt was i))
  else none

/-- FABRIC_FLIT_RECEIVE (R267): a flit with a bad check is retried at link level; else its message is delivered. -/
def execFabricFlitReceive (port : Nat) (checkOk : Bool) (msg : FabricMsg) (s : State) : Host.Outcome State Fault Refusal :=
  .next <|
    let l := s.port port
    if 8 ≤ port || !l.up || l.mode != 1 then s
    else if !checkOk then s.modLink port fun q => { q with rtry := min 65535 (q.rtry + 1) }
    else s.deliver port msg

/-- Frames of an Ethernet port on the way out: in order, but for those of a paused priority (R267). -/
def Link.sendFrames (l : Link) : Link :=
  { l with txf := l.txf ++ l.txw.filter (fun b => !bitAt l.paused (framePrio b)), txw := l.txw.filter fun b => bitAt l.paused (framePrio b) }

/-- ETHERNET_FRAME_RECEIVE (R267): a frame of up to 9,216 bytes goes to the buffers of firmware and host; a pause frame, of all priorities or
of each, is the port's own. -/
def execEthernetFrameReceive (port : Nat) (frame : List Byte) (s : State) : Host.Outcome State Fault Refusal :=
  .next <|
    let l := s.port port
    if 8 ≤ port || !l.up || l.mode != 2 || 9216 < frame.length then s
    else
      match pauseOf l.paused frame with
      | some m => s.modLink port fun q => ({ q with paused := m } : Link).sendFrames
      | none => s.modLink port fun q => { q with rx := q.rx ++ [frame] }

/-- Bytes that firmware or the host sends on a port (R267): a message to a device in fabric mode, against a credit; a frame in Ethernet
mode. -/
def State.sendBytes (s : State) (port dev : Nat) (bytes : List Byte) : State :=
  let l := s.port port
  if 8 ≤ port || !l.up then s
  else if l.mode = 1 then s.modLink port fun l => l.push dev (.message Config.deviceNumber bytes)
  else if l.mode = 2 ∧ bytes.length ≤ 9216 then s.modLink port fun l => ({ l with txw := l.txw ++ [bytes] } : Link).sendFrames
  else s

/-- The time of a pause is over on priorities of a port: what waited for it goes. -/
def State.pauseOver (s : State) (port : Nat) (prios : BitVec 8) : State :=
  s.modLink port fun l => ({ l with paused := l.paused &&& ~~~prios } : Link).sendFrames

/-- The oldest message or frame that a port received is taken by firmware or the host. -/
def State.takeBytes (s : State) (port : Nat) : State := s.modLink port fun l => { l with rx := l.rx.drop 1 }

/-- Credits that a partner returns, up to the send window (R253, R267, R269). -/
def State.takeCredit (s : State) (port n : Nat) : State :=
  if (s.port port).up then s.modLink port fun l => l.credit n else s

/-! ## Mirroring (R271) -/

/-- The pages under a table of a level whose leaves a test picks: physical address and log of the size. -/
def leafPages (pick : DWord → Bool) (m : Mem) : Nat → Nat → List (Nat × Nat)
  | 0, base => (List.range 32).filterMap fun i =>
    let e := m.dword (base + 8 * i)
    if bitAt e 0 && bitAt e 1 && !leafBad 0 e && pick e then some (ePA e, leafLog 0) else none
  | l + 1, base => (List.range 512).flatMap fun i =>
    let e := m.dword (base + 8 * i)
    if !bitAt e 0 then []
    else if bitAt e 1 then (if !leafBad (l + 1) e && pick e then [(ePA e, leafLog (l + 1))] else [])
    else if tableBad (l + 1) e then []
    else leafPages pick m l (ePA e)

/-- The pages that a region's tables map with such leaves. -/
def State.regionPages (s : State) (pick : DWord → Bool) (r : Region) : List (Nat × Nat) :=
  if r.troot < Config.hbmBytes then leafPages pick s.mem 4 r.troot else []

/-- Every mirror page of the live regions. -/
def State.mirrorPages (s : State) : List (Nat × Nat) :=
  ((s.regions.filter fun p => p.2.live).flatMap fun p => s.regionPages eMir p.2).dedup

/-- A mirror page sent to the partner (R271), granule by granule, each with its poison (R406): mirror writes that no slice made. Closed bytes
go out as zero, and are counted (R244, R248). -/
def State.mirrorPage (s : State) (pa n : Nat) : State :=
  (List.range (n / 16)).foldl (fun t i =>
    let t := t.denyRead 0 (pa + 16 * i) 16
    { t.mirrorPut t.nextId [] ⟨0, 0, pa + 16 * i⟩ (t.seen.read 0 (pa + 16 * i) 16) with nextId := t.nextId + 1 }) s

/-- MIRCFG_WRITE (R271): BRK is cleared, and the writes under the old setting are forgotten (log 35); with MEN = 1 every mirror page is first
sent to the partner. A write of MEN = 1 in Ethernet mode leaves MEN as it was. -/
def execMircfgWrite (v : DWord) (s : State) : Host.Outcome State Fault Refusal :=
  .next <|
    let men := if s.ethernet && bitAt v 63 then bitAt s.io.mircfg 63 else bitAt v 63
    let cfg := setBit (v &&& 0x1FFFFFFFFF) 63 men
    let s := s.breakMirror
    let s := { s with io := { s.io with mircfg := cfg }, fab := { s.fab with mirror := [] } }
    if !men then s else (s.mirrorPages.foldl (fun t p => t.mirrorPage p.1 (2 ^ p.2)) s).checkMirror

/-- Whether a scale-out port is up in fabric mode (R267). -/
def State.fabricUp (s : State) : Bool := (List.range 8).any fun p => (s.port p).up && (s.port p).mode == 1

/-- MIRROR_WRITE_RECEIVE (R271, R266): a partner's write arrives on a port that is up in fabric mode (R267). -/
def execMirrorWriteReceive (src ofs : Nat) (bytes : List Byte) (s : State) : Host.Outcome State Fault Refusal :=
  .next (if s.fabricUp then s.mirrorStore src ofs ofs bytes false else s)

end Sys2Proof.Machine
end

