-- ==== Sys2Proof/Machine/Walk.lean ====
section
/-!
DEFINITION. Walks and invalidation (spec/02 R34 to R37).
-/

namespace Sys2Proof.Machine

/-- The core on whose behalf an agent misses. -/
def agentCore : Agent → Option Nat
  | .gang c _ _ | .seq c _ _ | .quarter c _ | .engine c => some c
  | .sched _ | .none => none

/-- The walks in progress in a stack (R34). -/
def Fab.stackWalks (f : Fab) (stack : Nat) : Nat := (f.walks.filter fun w => w.slice / Config.slicesPerStack = stack).length

/-- Whether a walk is the one that a miss may join, or waits for (R34). -/
def Walk.same (w : Walk) (m : Miss) : Bool := w.slice == m.slice && w.ctx == m.ctx && w.vpage == m.vpage

/-- WALKER_START (R34): the oldest miss that waits in a slice joins the walk in progress for its page, or starts one on a free
walker of its stack. A walk that an invalidation has overtaken is no longer joined (R37). -/
def execWalkerStart (slice : Nat) (s : State) : Host.Outcome State Fault Refusal :=
  .next <|
    match s.fab.misses.find? fun m => m.slice = slice with
    | none => s
    | some m =>
      let rest := s.fab.misses.erase m
      match s.fab.walks.find? fun w => w.same m with
      | some w =>
        if w.dead then s
        else { s with fab := { s.fab with
          misses := rest
          walks := s.fab.walks.map fun q => if q.id = w.id then { q with whos := q.whos ++ [m.who] } else q } }
      | none =>
        if Config.walkersPerStack ≤ s.fab.stackWalks (slice / Config.slicesPerStack) then s
        else
          let w : Walk := { id := s.nextId, slice := slice, ctx := m.ctx, asn := m.asn, vpage := m.vpage, whos := [m.who], dead := false }
          { s with nextId := s.nextId + 1, fab := { s.fab with misses := rest, walks := s.fab.walks ++ [w] } }

/-- A translation placed in a TLB of a capacity. -/
def placeTlb (cap : Nat) (t : List TlbEnt) (e : TlbEnt) : List TlbEnt :=
  (e :: t.filter fun x => !(x.asn = e.asn && x.page = e.page && x.log = e.log)).take cap

/-- WALK_COMPLETE (R30, R35, R36): the entries are read; a leaf is placed in the slice's TLB and in those of the cores that
missed, a failure is reported to those that wait. A walk that an invalidation has overtaken installs nothing (R37). -/
def execWalkComplete (walk : Nat) (s : State) : Host.Outcome State Fault Refusal :=
  .next <|
    match s.fab.walks.find? fun w => w.id = walk with
    | none => s
    | some w =>
      let s := { s with fab := { s.fab with walks := s.fab.walks.filter fun q => q.id != walk } }
      if w.dead || (s.ctx w.ctx).st == .none then s
      else
        let s := (s.walkDenied (s.ctxRegion w.ctx).troot (w.vpage * 65536)).moves (s.ctx w.ctx).rcb 0
        match s.seen.walk (s.ctxRegion w.ctx).troot (w.vpage * 65536) with
        | some (leaf, log) =>
          let e : TlbEnt := { asn := w.asn, page := w.vpage * 65536 / 2 ^ log, log := log, leaf := leaf }
          let s := { s with fab := { s.fab with stlb := Sparse.modify [] s.fab.stlb w.slice fun t => placeTlb 16384 t e } }
          (w.whos.filterMap agentCore).dedup.foldl (fun s c => s.modCore c fun k => { k with tlb := placeTlb 2048 k.tlb e }) s
        | none =>
          w.whos.foldl (fun s a => match agentCore a with
            | some c => s.modCore c fun k => { k with wfault := k.wfault ++ [{ who := a, asn := w.asn, vpage := w.vpage }] }
            | none => s) s

/-- XLINV_CTL_WRITE (R37): the write starts an invalidation of the address that stands then, unless one is in progress; walks that began before it install
nothing. -/
def execXlinvCtlWrite (v : Word) (s : State) : Host.Outcome State Fault Refusal :=
  .next <|
    if bitAt s.io.xlctl 31 then s
    else { s with
      io := { s.io with xlctl := (v &&& 0x0F80FFFF) ||| 0x80000000, xlLo := s.io.valo, xlHi := s.io.vahi, xlwait := s.fab.walks.map Walk.id }
      fab := { s.fab with walks := s.fab.walks.map fun w => { w with dead := true } } }

/-- Whether a cached translation overlaps the range of the invalidation in progress (R37). -/
def IO.invalidates (io : IO) (e : TlbEnt) : Bool :=
  let n := 2 ^ fieldN io.xlctl 24 4
  let page := fieldN io.xlHi 0 25 * 65536 + fieldN io.xlLo 16 16
  let lo := page / n * n
  let elo := e.page * 2 ^ (e.log - 16)
  e.asn == field io.xlctl 0 16 && (bitAt io.xlctl 23 || (elo < lo + n && lo < elo + 2 ^ (e.log - 16)))

/-- INVALIDATION_COMPLETE (R37): every TLB drops the entries of the range once the walks that began before have finished. -/
def execInvalidationComplete (s : State) : Host.Outcome State Fault Refusal :=
  .next <|
    if !bitAt s.io.xlctl 31 || s.fab.walks.any fun w => s.io.xlwait.contains w.id then s
    else
      let keep := fun (t : List TlbEnt) => t.filter fun e => !s.io.invalidates e
      { s with
        cores := Sparse.mapVals Core.reset s.cores fun _ k => { k with tlb := keep k.tlb }
        fab := { s.fab with stlb := Sparse.mapVals [] s.fab.stlb fun _ t => keep t }
        io := { s.io with xlctl := s.io.xlctl &&& 0x7FFFFFFF, xlwait := [] } }

end Sys2Proof.Machine
end

