-- ==== Sys2Proof/Machine/Mgmt.lean ====
section
/-!
DEFINITION. The management space (spec/15 R265, R266, R270; spec/13 R230, R242; spec/14 R250, R251): reads and plain writes of its
registers; the writes of EVQI, MGMTBASE and the message queue; host accesses of device memory (R43, R47, R254, R263); the power
controller (R253); function-level reset (R259) and full reset (R245, R255).
-/

namespace Sys2Proof.Machine

/-! ## Registers as they read (R265, R266) -/

def isHostAgent : MgmtAgent → Bool
  | .host => true
  | .sched _ => false

/-- EVQI (R230). -/
def EvQ.index (q : EvQ) : DWord := BitVec.ofNat 64 (q.ovf % 2 ^ 16 * 2 ^ 48 + q.ri.toNat * 2 ^ 32 + q.wi.toNat)

/-- QSLOT (R219). -/
def QSlot.word (q : QSlot) : DWord :=
  BitVec.ofNat 64 ((if q.map then 2 ^ 63 else 0) + (if q.dbl then 2 ^ 62 else 0) + q.qid % 2 ^ 12 * 2 ^ 47 + q.qcba % 2 ^ 47)

/-- LNKSTAT (R270). -/
def Link.word (l : Link) : DWord :=
  BitVec.ofNat 64 ((if l.up then 2 ^ 63 else 0) + l.wid % 4 * 2 ^ 61 + l.mode % 4 * 2 ^ 59 + l.rtry % 2 ^ 16 * 2 ^ 32 + l.spare % 2 ^ 8 * 2 ^ 24)

/-- CTXSTAT (R242). -/
def IO.ctxstat (io : IO) : DWord := BitVec.ofNat 64 ((if io.ctxBusy then 2 ^ 63 else 0) + io.ctxStat % 2 ^ 7 * 2 ^ 56)

/-- FLRSTAT (R266). -/
def IO.flrstat (io : IO) : DWord :=
  BitVec.ofNat 64 ((if io.flrBusy then 2 ^ 31 else 0) + io.flrFn % 16 * 2 ^ 4 + if io.flrDone then 1 else 0)

/-- A word of the pending array (R220). -/
def IO.pendWord (io : IO) (n : Nat) : DWord := maskOf 64 ((List.range 64).filter fun i => Sparse.get false io.pendArr (64 * n + i))

/-- Little-endian bytes as a value. -/
def bytesVal (l : List Byte) : DWord := BitVec.ofNat 64 (leNat l)

/-- Bytes of a command buffer as a value. -/
def bufVal (b : Sparse Byte) (at_ n : Nat) : DWord := bytesVal ((List.range n).map fun i => Sparse.get 0 b (at_ + i))

/-- A read of a register of the management space, of its own width and naturally aligned; anything else reads zero (R265). -/
def State.mgmtRead (s : State) (who : MgmtAgent) (ofs width : Nat) : DWord :=
  let win := ofs / 65536
  let o := ofs % 65536
  let host : Bool := isHostAgent who
  if (width ≠ 32 ∧ width ≠ 64) ∨ o % (width / 8) ≠ 0 then 0
  else if win = 0 ∧ o = 0 ∧ width = 32 then s.io.bootstat.setWidth 64
  else if win = 1 ∧ o < 512 ∧ width = 32 then (Sparse.get 0 s.io.binding (o / 4)).setWidth 64
  else if win = 2 ∧ o < 16384 ∧ width = 32 then (s.poolWord (o / 128) (o % 128 / 4)).setWidth 64
  else if win = 3 ∧ width = 32 then
    (if o = 0 then s.io.valo else if o = 4 then s.io.vahi else if o = 8 then s.io.xlctl else 0).setWidth 64
  else if win = 4 ∧ width = 64 ∧ o < 512 then
    match who with
    | .host => 0
    | .sched c => if o / 8 / 4 = c then (s.qslot (o / 8)).word else 0
  else if win = 4 ∧ width = 64 ∧ 0x400 ≤ o ∧ o < 0x600 then s.io.pendWord ((o - 0x400) / 8)
  else if win = 5 ∧ width = 64 ∧ o < 4096 then
    let q := Sparse.get EvQ.reset s.io.evq (o / 16)
    if o % 16 = 0 then q.b else q.index
  else if win = 6 ∧ width = 64 ∧ o = 8 then s.io.ctxstat
  else if win = 7 ∧ width = 64 then
    if o < 96 then (s.port (o / 8)).word else if o = 0x100 then s.io.mircfg else if o = 0x108 then s.io.mirrx else 0
  else if win = 8 ∧ width = 32 then
    if o = 0 then BitVec.ofNat 64 s.io.pwrcap else if o = 0x18 then s.io.flrstat else 0
  else if win = 8 ∧ width = 64 ∧ 0x100 ≤ o ∧ o < 0x200 then
    if o % 16 = 0 then Sparse.get 0 s.io.dmaA ((o - 0x100) / 16) else Sparse.get 0 s.io.dmaB ((o - 0x100) / 16)
  else if (win = 9 ∧ host) ∨ (win = 10 ∧ !host) then
    let mb : Mailbox := if host then .host else .fw
    if o < 256 then bufVal (s.mon.buf mb) o (width / 8)
    else if o = 0x104 ∧ width = 32 then (s.mon.status mb).setWidth 64 else 0
  else if win = 11 ∧ !host then
    if o = 0 ∧ width = 32 then BitVec.ofNat 64 s.io.fwmq.length
    else if 0x40 ≤ o ∧ o < 0x80 then bytesVal (((s.io.fwmq.headD []).drop (o - 0x40)).take (width / 8)) else 0
  else 0

/-! ## Plain writes (R265, R266) -/

def State.modIo (s : State) (f : IO → IO) : State := { s with io := f s.io }

/-- A write of an event queue's base register (R230). -/
def State.writeEvqB (s : State) (dom : Nat) (v : DWord) : State :=
  s.modIo fun io => { io with evq := Sparse.modify EvQ.reset io.evq dom fun q => { q with b := v &&& 0xFC1FFFFFFFFFFFFF } }

/-- A naturally aligned write, of its own width and granted, to a register whose write does no more than update its fields (R265); to any
other offset it is discarded. -/
def State.mgmtWrite (s : State) (who : MgmtAgent) (ofs width : Nat) (v : DWord) : State :=
  let win := ofs / 65536
  let o := ofs % 65536
  let host : Bool := isHostAgent who
  let w : Word := v.setWidth 32
  if (width ≠ 32 ∧ width ≠ 64) ∨ o % (width / 8) ≠ 0 then s
  else if win = 3 ∧ width = 32 ∧ o = 0 then s.modIo fun io => { io with valo := w &&& 0xFFFF0000 }
  else if win = 3 ∧ width = 32 ∧ o = 4 then s.modIo fun io => { io with vahi := w &&& 0x01FFFFFF }
  else if win = 4 ∧ width = 64 ∧ 0x400 ≤ o ∧ o < 0x600 then s.modIo fun io =>
    { io with pendArr := (bitsOf v 64).foldl (fun m i => Sparse.set false m (64 * ((o - 0x400) / 8) + i) false) io.pendArr }
  else if win = 5 ∧ width = 64 ∧ o < 4096 ∧ o % 16 = 0 then s.writeEvqB (o / 16) v
  else if win = 7 ∧ width = 64 ∧ o = 0x108 ∧ !host then s.modIo fun io => { io with mirrx := v &&& 0x8000FFFFFFFFFFFF }
  else if win = 8 ∧ host ∧ width = 32 ∧ o = 0 then s.modIo fun io => { io with pwrcap := fieldN v 0 12 }
  else if win = 8 ∧ host ∧ width = 32 ∧ o = 0x18 then s.modIo fun io => { io with flrDone := io.flrDone && !bitAt v 0 }
  else if win = 8 ∧ host ∧ width = 64 ∧ 0x100 ≤ o ∧ o < 0x200 then
    let n := (o - 0x100) / 16
    if o % 16 = 0 then s.modIo fun io => { io with dmaA := Sparse.set 0 io.dmaA n (v &&& 0x001FFFFFFFFFF000) }
    else s.modIo fun io => { io with dmaB := Sparse.set 0 io.dmaB n (v &&& 0xC00001FFFFFFFFFF) }
  else if ((win = 9 ∧ host) ∨ (win = 10 ∧ !host)) ∧ o < 256 then
    let mb : Mailbox := if host then .host else .fw
    s.setBuf mb (putBuf (s.mon.buf mb) o (leBytes (width / 8) v.toNat))
  else if win = 11 ∧ host ∧ 0x100 ≤ o ∧ o < 0x140 then s.modIo fun io =>
    { io with postbuf := (List.range (width / 32)).foldl (fun m i =>
        Sparse.set 0 m ((o - 0x100) / 4 + i) (field v (32 * i) 32)) io.postbuf }
  else s

/-! ## Writes with an effect of their own -/

/-- EVQI_WRITE (R230, R264): RI is written and acknowledges the domain's message; a 1 in any bit of OVF clears it. -/
def execEvqiWrite (dom : Nat) (v : DWord) (s : State) : Host.Outcome State Fault Refusal :=
  .next <|
    if 256 ≤ dom then s
    else s.modIo fun io => { io with evq := Sparse.modify EvQ.reset io.evq dom fun q =>
      { q with ri := field v 32 16, ovf := if fieldN v 48 16 = 0 then q.ovf else 0, msg := false } }

/-- MGMTBASE holds a 16 MiB-aligned host address (R265). -/
def State.setMgmtBase (s : State) (v : DWord) : State := s.modIo fun io => { io with mgmtBase := v &&& 0xFFFFFFFFFF000000 }

/-- MGMTBASE_WRITE (R249, R265): written through the open attach, or once it has retrained. -/
def execMgmtbaseWrite (v : DWord) (s : State) : Host.Outcome State Fault Refusal :=
  .next (if s.attachOpen then s.setMgmtBase v else s.whenTrained (.baseWrite v))

/-- FWMQPOP (R251): the oldest message is removed, and a post of the monitor that waited takes the place. -/
def execFwmqpop (v : Word) (s : State) : Host.Outcome State Fault Refusal :=
  .next <|
    if !bitAt v 0 || !s.fwRuns then s
    else
      match s.io.fwmq with
      | [] => s
      | _ :: rest => s.modIo fun io =>
        match io.monmq with
        | [] => { io with fwmq := rest }
        | m :: more => { io with fwmq := rest ++ [m], monmq := more }

/-- The host's message appended, its source byte 1; at a full queue it is discarded and counted in DENY (R251). -/
def State.hostPost (s : State) (v : Word) : State :=
  if !bitAt v 0 then s
  else if 16 ≤ s.io.fwmq.length then s.deny
  else
    let m := (List.range 16).flatMap fun i => leBytes 4 (Sparse.get 0 s.io.postbuf i).toNat
    s.modIo fun io => { io with fwmq := io.fwmq ++ [1 :: m.drop 1] }

/-- FWPOSTDB (R251): a write of the host through the open attach, or once it has retrained (R249). -/
def execFwpostdb (v : Word) (s : State) : Host.Outcome State Fault Refusal :=
  .next (if s.attachOpen then s.hostPost v else s.whenTrained (.writeReg 0xB0140 32 (v.setWidth 64)))

/-! ## The power controller (R253) -/

/-- `n` steps down: the core clocks by 50 MHz to the floor of 400 MHz, then HBM bandwidth. -/
def IO.slower : Nat → IO → IO
  | 0, io => io
  | n + 1, io =>
    if 400 < io.clock then IO.slower n { io with clock := max 400 (io.clock - 50) }
    else IO.slower n { io with hbmStep := min Config.hbmSteps (io.hbmStep + 1) }

/-- `n` steps up, the other way round. -/
def IO.faster : Nat → IO → IO
  | 0, io => io
  | n + 1, io =>
    if 0 < io.hbmStep then IO.faster n { io with hbmStep := io.hbmStep - 1 }
    else IO.faster n { io with clock := min 1600 (io.clock + 50) }

/-- The cap in force. -/
def IO.cap (io : IO) : Nat := min 2800 io.pwrcap

/-- POWER_CAP_INTERVAL (R253): an interval of 1 ms with its average power. Above the cap the module is slowed by at least a step; at or
below it, whether it is sped up again is open. How many steps is open (log 36). -/
def execPowerCapInterval (avg : Nat) (s : State) : Host.Outcome State Fault Refusal :=
  let n := s.free.toNat % 64
  .next (s.bump.modIo fun io => if io.cap < avg then io.slower (n + 1) else io.faster n)

/-! ## Function-level reset (R259) -/

/-- The live regions of a function. -/
def State.fnRegions (s : State) (fn : Nat) : List Nat :=
  (s.regions.filter fun p => p.2.live && (s.root p.2.root).held && (s.root p.2.root).fn = fn).map Prod.fst

/-- Step 1: the translations of regions dropped, as by XLINV with ALL = 1; walks in progress install nothing. -/
def State.dropTranslations (s : State) (rs : List Nat) : State :=
  let asns := rs.map fun r => (s.region r).asn
  let keep := fun (t : List TlbEnt) => t.filter fun e => !asns.contains e.asn
  { s with
    cores := Sparse.mapVals Core.reset s.cores fun _ k => { k with tlb := keep k.tlb }
    fab := { s.fab with
      stlb := Sparse.mapVals [] s.fab.stlb fun _ t => keep t
      walks := s.fab.walks.map fun w => if asns.contains w.asn then { w with dead := true } else w } }

/-- Step 2, waves: a wave that serves a request of the contexts finishes (R176). -/
def State.finishWaves (s : State) (ctxs : List Nat) : State :=
  (List.range Config.numSlices).foldl (fun t slice =>
    match Sparse.get none t.fab.engines slice with
    | none => t
    | some pa =>
      match (t.obj pa).wave with
      | some (_, ids) => if (ids.filterMap t.findReq).any fun r => ctxs.contains r.ctx then t.waveEnd slice false else t
      | none => t) s

/-- The mirror writes that the warps of contexts made and that wait for a link. -/
def State.mirrorsOf (s : State) (ctxs : List Nat) : List Nat :=
  let uids := s.cores.flatMap fun k => (k.2.warps.filter fun w => ctxs.contains (k.2.block w.2.block).ctx).map fun w => w.2.uid
  (s.fab.mirror.filter fun m => m.makers.any (fun q => uids.contains q.1) && (s.mirrorWaits m.id || m.sent.isNone)).map MirRec.id

/-- Messages that wait for a link, without those of some requests and mirror writes. -/
def Link.without (l : Link) (reqs mirrors : List Nat) : Link :=
  { l with wait := l.wait.filter fun m =>
      !((requestTag m.2).any reqs.contains || (mirrorTag m.2).any mirrors.contains) }

/-- Step 2, requests: those of the contexts are discarded, and what of theirs waits for a link; a request of another context that had merged
into one stands alone again. -/
def State.dropRequests (s : State) (ctxs : List Nat) : State :=
  let keep := s.fab.reqs.filter fun r => !ctxs.contains r.ctx
  let gone := (s.fab.reqs.filter fun r => ctxs.contains r.ctx).map Req.id
  let mirs := s.mirrorsOf ctxs
  let ids := keep.map Req.id
  let merged := keep.flatMap fun r => r.merge
  { s with
    io := { s.io with links := Sparse.mapVals Link.reset s.io.links fun _ l => l.without gone mirs }
    fab := { s.fab with
      reqs := keep.map fun r => { r with merge := r.merge.filter ids.contains, into := r.into && merged.contains r.id }
      mirror := s.fab.mirror.filter fun m => !mirs.contains m.id
      objs := Sparse.mapVals CObj.none s.fab.objs fun _ o => { o with trug := o.trug.filter fun q => ids.contains q.2 } } }

/-- Step 2, a context: its agents, records and image are gone, and its launches write nothing more. -/
def State.stopCtx (s : State) (n : Nat) : State :=
  let s := (s.freeCores n).dropImage n
  let s := (s.launches.filter fun l => l.2.ctx = n).foldl (fun t l => t.modLaunch l.1 fun y => { y with phase := 2, queues := [] }) s
  s.modCtx n Ctx.gone

/-- The key slots of a function's roots that are not empty. -/
def State.fnKeys (s : State) (fn : Nat) : List Nat :=
  (List.range 128).filter fun n => (s.key n).st != 0 && (s.root (s.key n).root).held && (s.root (s.key n).root).fn == fn

/-- Step 4: the records of the L2 lines of regions' pages are scrubbed (log 113). -/
def State.scrubLines (s : State) (rs : List Nat) : State :=
  if s.mem.l2.isEmpty then s
  else
    let ps := (rs.flatMap fun r => s.regionPages (fun e => eLoc e == 0) (s.region r)).dedup
    { s with mem := { s.mem with l2 := s.mem.l2.filter fun l => !ps.any fun p => decide (p.1 ≤ 128 * l.1) && decide (128 * l.1 < p.1 + 2 ^ p.2) } }

/-- Whether a region is a root's own. -/
def State.rootOwn (s : State) (r : Nat) : Bool := (s.region r).parent == 0

/-- Step 4: the regions retire with reason 4, as far as their records can be held. -/
def State.retireFn (s : State) (rs : List Nat) : State :=
  (rs.filter fun r => !s.rootOwn r).foldl (fun t r => if t.usageFull r then t else t.retireRegion r 4) s

/-- Step 4, a root's own region: it emits its record, and its leases end; it stays, since the root survives (log 113). -/
def State.retireOwn (s : State) (rs : List Nat) : State :=
  (rs.filter s.rootOwn).foldl (fun t r =>
    (t.fab.leases.filter fun l => l.rcb = r).foldl (fun u l => u.endLease l.id) (t.emitUsage r 4)) s

/-- Steps 1 and 2 of a function-level reset, and the start of the erasures of step 3. -/
def State.flrStart (s : State) (fn : Nat) : State :=
  let rs := s.fnRegions fn
  let ctxs := rs.map fun r => (s.region r).ctx
  let s := ((s.dropTranslations rs).finishWaves ctxs).dropRequests ctxs
  let s := ctxs.foldl (fun t n => t.stopCtx n) s
  let s := ((s.fnKeys fn).filter fun n => (s.key n).st == 1).foldl State.beginErase s
  s.modIo fun io => { io with flrBusy := true, flrFn := fn }

/-- The rest of step 3, step 4 and step 5; step 4 waits for the host to consume records where the monitor holds all that it can (R262). -/
def State.flrEnd (s : State) : State :=
  let fn := s.io.flrFn
  let rs := s.fnRegions fn
  let s := (s.fnKeys fn).foldl State.endErase s
  let s := ((s.scrubLines rs).retireFn rs).purgeImages
  if (s.fnRegions fn).any fun r => !s.rootOwn r || s.usageFull r then s
  else (s.retireOwn (s.fnRegions fn)).modIo fun io => { io with flrBusy := false, flrDone := true }

/-- FLR (R259): the reset that a write of FLRCTL started comes to its end; where none runs, a write with GO = 1 runs it whole. A write for
another function meanwhile is ignored (R266). -/
def execFlr (v : Word) (s : State) : Host.Outcome State Fault Refusal :=
  .next <|
    if !bitAt v 31 then s
    else if s.io.flrBusy then (if fieldN v 0 4 = s.io.flrFn then s.flrEnd else s)
    else if s.attachOpen then (s.flrStart (fieldN v 0 4)).flrEnd
    else s.whenTrained (.writeReg 0x80010 32 (v.setWidth 64))

/-! ## Writes of every register (R265) -/

/-- The state that a write's own event answers. -/
def State.after (s : State) : Host.Outcome State Fault Refusal → State
  | .next t => t
  | .fault _ => s
  | .refused _ => s

/-- CTXCMD (R242): by OP; what a restore's check of its image finds is an input of the event CTX_RESTORE, here nothing. -/
def State.ctxCmd (s : State) (v : DWord) : State :=
  if fieldN v 60 4 = 1 then s.after (execCtxSave v s)
  else if fieldN v 60 4 = 2 then s.after (execCtxRestore v none s)
  else if fieldN v 60 4 = 3 then s.after (execCtxTerminate v s)
  else s

/-- A write of a register with behaviour of its own that the host and the scheduler cores both may write. -/
def State.sharedWrite (s : State) (win o width : Nat) (v : DWord) : Option State :=
  if win = 2 ∧ o < 16384 ∧ width = 32 then some (s.after (execPoolFaultMapWrite (o / 128) (o % 128 / 4) (v.setWidth 32) s))
  else if win = 3 ∧ o = 8 ∧ width = 32 then some (s.after (execXlinvCtlWrite (v.setWidth 32) s))
  else if win = 4 ∧ o = 0x200 ∧ width = 32 then some (s.after (execKick (v.setWidth 32) s))
  else if win = 5 ∧ o < 4096 ∧ o % 16 = 8 ∧ width = 64 then some (s.after (execEvqiWrite (o / 16) v s))
  else none

/-- A write of a register with behaviour of its own, or nothing where the offset holds none that the agent may write. -/
def State.ownWrite (s : State) (who : MgmtAgent) (ofs width : Nat) (v : DWord) : Option State :=
  let win := ofs / 65536
  let o := ofs % 65536
  let w : Word := v.setWidth 32
  match who with
  | .host =>
    if win = 8 ∧ o = 0x10 ∧ width = 32 then some (if bitAt w 31 && !s.io.flrBusy then s.flrStart (fieldN w 0 4) else s)
    else if win = 9 ∧ o = 0x100 ∧ width = 32 then some (s.doorbell .host w)
    else if win = 11 ∧ o = 0x140 ∧ width = 32 then some (s.hostPost w)
    else s.sharedWrite win o width v
  | .sched c =>
    if win = 4 ∧ o < 512 ∧ width = 64 then
      some (if bitAt v 63 then s.after (execQslotMap (o / 8) c v s) else s.after (execQslotUnmap (o / 8) c v s))
    else if win = 6 ∧ o = 0 ∧ width = 64 then some (s.ctxCmd v)
    else if win = 7 ∧ o = 0x100 ∧ width = 64 then some (s.after (execMircfgWrite v s))
    else if win = 10 ∧ o = 0x100 ∧ width = 32 then some (s.doorbell .fw w)
    else if win = 11 ∧ o = 0x80 ∧ width = 32 then some (s.after (execFwmqpop w s))
    else s.sharedWrite win o width v

/-- A write of a register of the management space (R265). -/
def State.mgmtStore (s : State) (who : MgmtAgent) (ofs width : Nat) (v : DWord) : State :=
  if (width ≠ 32 ∧ width ≠ 64) ∨ ofs % (width / 8) ≠ 0 then s else (s.ownWrite who ofs width v).getD (s.mgmtWrite who ofs width v)

/-- REGISTER_WRITE (R265): a write of a register of the management space; the host's through the open attach, or after it has retrained
(R249); a scheduler core's while it is not held in reset (R245). -/
def execRegisterWrite (who : MgmtAgent) (ofs width : Nat) (v : DWord) (s : State) : Host.Outcome State Fault Refusal :=
  .next <|
    match who with
    | .host => if s.attachOpen then s.mgmtStore .host ofs width v else s.whenTrained (.writeReg ofs width v)
    | .sched c => if (s.schedCore c).inReset then s else s.mgmtStore (.sched c) ofs width v

/-! ## Host accesses (R43, R47, R249, R254, R263, R265) -/

/-- Whether the host's accesses of a byte read zero and are discarded: encrypted pages in confidential mode (R254), save areas for
writes (R240). -/
def State.hostHidden (s : State) (a : Nat) (write : Bool) : Bool :=
  decide (Config.hbmBytes ≤ a) || (s.mon.conf && (s.tag (a / 65536)).mode != 0) || (write && (s.tag (a / 65536)).sv)

/-- Whether a byte lies in the last eighth of a CRYPT 2 range: it holds tags and counter tree, in a layout that R39 leaves open. -/
def State.isMeta (s : State) (a : Nat) : Bool := (s.tag (a / 65536)).mode == 3

/-- The bytes that a host read returns; those of the last eighth of a CRYPT 2 range are free values (R39: the layout is open; DESIGN CHOICE, log 128). -/
def State.hostBytes (s : State) (pa len : Nat) : List Byte :=
  (List.range len).map fun i =>
    if s.hostHidden (pa + i) false then 0
    else if s.isMeta (pa + i) then (Config.freeDWord (s.freeCtr + i)).setWidth 8
    else BitVec.ofNat 8 (s.readGlobal 0 (pa + i) 1)

/-- A host read of bytes: what it returns, and what it counts and uses up. -/
def State.hostRead (s : State) (pa len : Nat) : State :=
  let s := s.denyRead 0 pa len
  if (List.range len).any fun i => s.isMeta (pa + i) then { s with freeCtr := s.freeCtr + len } else s

/-- A host write: its hidden bytes are discarded, and those of an armed object's header. -/
def State.hostWrite (s : State) (pa : Nat) (bs : List Byte) : State :=
  let s := s.writeHid (fun a => s.hostHidden a true || s.inHeader none 0 a) pa bs
  { s with mem := s.mem.touchLine pa 0 true }

/-- The result of a host atomic's operation on a value. -/
def hostAtom (op ty : Nat) (old : List Byte) (opr cmp : DWord) : List Byte :=
  leBytes (4 * nreg (BitVec.ofNat 4 ty)) (atomNew op (BitVec.ofNat 4 ty) (bytesVal old) opr cmp).toNat

/-- What a host access returns. -/
def State.hostGets (s : State) (bs : List Byte) : State := s.modIo fun io => { io with hostRd := bs }

/-- The offset in the management space of a host address (R265). -/
def State.mgmtOfs (s : State) (addr : Nat) : Option Nat :=
  if s.io.mgmtBase.toNat ≤ addr ∧ addr < s.io.mgmtBase.toNat + 2 ^ 24 then some (addr - s.io.mgmtBase.toNat) else none

/-- The bytes of local HBM that a host access touches. -/
def hostSpan : HostOp → Nat × Nat
  | .read pa len => (pa, len)
  | .write pa bytes => (pa, bytes.length)
  | .atomic pa _ ty _ _ => (pa, 4 * nreg (BitVec.ofNat 4 ty))
  | .splitRead pa ty => (pa, 4 * nreg (BitVec.ofNat 4 ty))
  | .splitWrite pa _ ty _ _ => (pa, 4 * nreg (BitVec.ofNat 4 ty))
  | .readReg _ _ | .mmioRead _ _ | .mmioWrite _ _ _ | .sideband | .own _ _ | .ownAtomic _ _ _ _ _ | .baseWrite _ | .writeReg _ _ _ => (0, 0)

/-- Whether a running wave holds a host access (R169). -/
def State.hostHeld (s : State) (op : HostOp) : Bool :=
  decide ((hostSpan op).2 ≠ 0) && s.waveHolds ⟨0, 0, (hostSpan op).1⟩ (hostSpan op).2

/-- A host access performed (R43, R47, R263, R265): at its home slice, at the register, or in the host's own memory; a host atomic on a page
with SA = 0 is its two accesses. -/
def State.hostDo (s : State) : HostOp → State
  | .read pa len => { (s.hostRead pa len).hostGets (s.hostBytes pa len) with mem := s.mem.touchLine pa 0 false }
  | .write pa bytes => s.hostWrite pa bytes
  | .atomic pa op ty opr cmp =>
    let n := 4 * nreg (BitVec.ofNat 4 ty)
    let old := s.hostBytes pa n
    ((s.hostRead pa n).hostGets old).hostWrite pa (hostAtom op ty old opr cmp)
  | .splitRead pa ty =>
    let n := 4 * nreg (BitVec.ofNat 4 ty)
    let old := s.hostBytes pa n
    ((s.hostRead pa n).hostGets old).modIo fun io => { io with hostSplit := old }
  | .splitWrite pa op ty opr cmp => s.hostWrite pa (hostAtom op ty s.io.hostSplit opr cmp)
  | .readReg ofs width => s.hostGets (leBytes (width / 8) (s.mgmtRead .host ofs width).toNat)
  | .mmioRead addr width =>
    match s.mgmtOfs addr with
    | some o => s.hostGets (leBytes (width / 8) (s.mgmtRead .host o width).toNat)
    | none => s
  | .mmioWrite addr width v =>
    match s.mgmtOfs addr with
    | some o => s.mgmtStore .host o width v
    | none => s
  | .baseWrite v => s.setMgmtBase v
  | .writeReg ofs width v => s.mgmtStore .host ofs width v
  | .sideband => s.hostGets [s.io.bootstat]
  | .own pa bytes => { s with mem := s.mem.write 2 pa bytes }
  | .ownAtomic pa op ty opr cmp =>
    let old := s.mem.read 2 pa (4 * nreg (BitVec.ofNat 4 ty))
    { s.hostGets old with mem := s.mem.write 2 pa (hostAtom op ty old opr cmp) }

/-- Whether a host access needs no attach: the sideband, the host's own memory. -/
def offAttach : HostOp → Bool
  | .sideband | .own _ _ | .ownAtomic _ _ _ _ _ => true
  | .read _ _ | .write _ _ | .atomic _ _ _ _ _ | .splitRead _ _ | .splitWrite _ _ _ _ _ | .readReg _ _ | .mmioRead _ _ | .mmioWrite _ _ _
  | .baseWrite _ | .writeReg _ _ _ => false

/-- HOST_ACCESS (R43, R47, R249, R263): performed unless a running wave holds the bytes (R169); one that finds the attach retraining is
retried when it is trained, one before the attach has opened is not let in (R245). -/
def execHostAccess (op : HostOp) (s : State) : Host.Outcome State Fault Refusal :=
  .next <|
    if offAttach op then s.hostDo op
    else if s.attachOpen then (if s.hostHeld op then s else s.hostDo op)
    else s.whenTrained op

/-- The accesses that waited for the attach, in their order (R249); those that a wave holds wait on. -/
def State.retryHost (s : State) : State :=
  s.io.hostq.foldl (fun t op => if t.hostHeld op then t.modIo fun io => { io with hostq := io.hostq ++ [op] } else t.hostDo op)
    (s.modIo fun io => { io with hostq := [] })

/-- LINK_TRAINED (R249, R263, R270): a module of the attach once the attach is open; a scale-out port once an image has given it a mode. Its
send window and weight are those of its full width; its credits are still to come. -/
def execLinkTrained (link : Nat) (s : State) : Host.Outcome State Fault Refusal :=
  .next <|
    if 12 ≤ link || (if link < 8 then (s.port link).mode == 0 else s.io.bootstat == 0) then s
    else
      let t := s.modLink link fun l =>
        { l with
          up := true, wid := 0, cost := 1, win := Config.sendWindow link, weight := Config.sendWeight link, cred := 0
          spare := if 8 ≤ link then Config.spareLanes link % 256 else 0 }
      if 8 ≤ link then t.retryHost else t

/-! ## Accesses of a scheduler core outside its Xdisp instructions (R222, R253, R265) -/

/-- Where the scheduler cores reach the management space. -/
def mgmtLocal : Nat := 0x1000000000

/-- Whether an address is in the scheduler cores' window of the management space. -/
def inMgmt (addr : Nat) : Bool := decide (mgmtLocal ≤ addr) && decide (addr < mgmtLocal + 2 ^ 24)

/-- Whether a scheduler core makes an access: it runs, and the access is one of 8 to 64 bits, aligned unless it is of the management space,
where a misaligned one reads zero and is discarded (R265). -/
def State.schedMay (s : State) (c loc addr width : Nat) : Bool :=
  decide (c < Config.numSched) && !(s.schedCore c).inReset && !(s.schedCore c).asleep && (width == 8 || width == 16 || width == 32 || width == 64)
    && ((loc == 0 && inMgmt addr) || addr % (width / 8) == 0)

/-- An access of a scheduler core to a host address (R253): it goes out against a credit of the attach, or waits for one. -/
def State.schedHost (s : State) (f : State → State) : State :=
  match s.hostPort with
  | none => s
  | some p => f (s.useCredit p)

/-- The bytes of the command window. -/
def Sched.winBytes (k : Sched) : List Byte := (List.range 64).map fun i => BitVec.ofNat 8 ((k.win.getD (i / 8) 0).toNat / 2 ^ (8 * (i % 8)))

/-- A load of a scheduler core: a register, the command window, memory; a host address outside the DMA windows is the RISC-V load access
fault (R253). -/
def State.schedLoad (s : State) (c loc addr width : Nat) (rd : BitVec 5) : State :=
  let n := width / 8
  let at_ := fun (bs : List Byte) => s.schedDone c rd (bytesVal bs)
  if !s.schedMay c loc addr width then s
  else if loc = 2 then
    (if s.dmaOk addr .read then s.schedHost fun s => s.schedDone c rd (bytesVal (s.mem.read 2 addr n)) else s.schedTrap c 5)
  else if loc ≠ 0 then s
  else if inMgmt addr then s.schedDone c rd (s.mgmtRead (.sched c) (addr - mgmtLocal) width)
  else if 0xF000 ≤ addr ∧ addr < 0xF040 then at_ (((s.schedCore c).winBytes.drop (addr - 0xF000)).take n)
  else if Config.hbmBytes < addr + n then s.schedTrap c 5
  else if s.waveHolds ⟨0, 0, addr⟩ n then s
  else (s.denySched addr n).schedDone c rd (bytesVal (s.seenSched.read 0 addr n))

/-- A store of a scheduler core, likewise; the store access fault is cause 7. -/
def State.schedStore (s : State) (c loc addr width : Nat) (v : DWord) : State :=
  let n := width / 8
  let bs := leBytes n v.toNat
  if !s.schedMay c loc addr width then s
  else if loc = 2 then
    (if s.dmaOk addr .write then s.schedHost fun s => ({ s with mem := s.mem.write 2 addr bs } : State).schedDone c 0 0 else s.schedTrap c 7)
  else if loc ≠ 0 then s
  else if inMgmt addr then (s.mgmtStore (.sched c) (addr - mgmtLocal) width v).schedDone c 0 0
  else if 0xF000 ≤ addr ∧ addr < 0xF040 then
    let w := (s.schedCore c).winBytes
    let w := w.take (addr - 0xF000) ++ bs ++ w.drop (addr - 0xF000 + n)
    (s.modSched c fun k => { k with win := (List.range 8).map fun i => bytesVal ((w.drop (8 * i)).take 8) }).schedDone c 0 0
  else if Config.hbmBytes < addr + n then s.schedTrap c 7
  else if s.waveHolds ⟨0, 0, addr⟩ n then s
  else (s.storeGlobal 0 addr bs).schedDone c 0 0

/-! ## Full reset (R245, R249, R255) -/

/-- What encrypted pages hold once their keys are gone: open (log 34). -/
def Mem.scramble (m : Mem) (ctr : Nat) (pages : List Nat) : Mem :=
  { m with hbm := pages.foldl (fun h p => (List.range 65536).foldl (fun h i =>
      Sparse.set 0 h (65536 * p + i) ((Config.freeDWord (ctr + 65536 * p + i)).setWidth 8)) h) m.hbm }

/-- Memory after a full reset: scrubbed, or kept but for encrypted pages; no poison, nothing cached (R255, R406). -/
def State.memAfterReset (s : State) (scrub : Bool) : Mem :=
  let m := if scrub then { s.mem with hbm := [] }
    else s.mem.scramble s.freeCtr ((s.mon.tags.filter fun p => p.2.mode != 0).map Prod.fst)
  { m with pois := [], gcm := [], failed := [], l2 := [], peerRd := [] }

/-- The binding that the monitor computes (R14, R18). -/
def bindingTable : Sparse Word := (List.range 128).foldl (fun m n => Sparse.set 0 m n (bindingWord n)) []

/-- The measurements of a reset (R245, R246). -/
def State.measure (s : State) (conf : Bool) : State :=
  ((s.extend 0 Config.romDigest).extend 1 (Config.fuseState ((List.range 4).map fun c => Sparse.get 0 s.mon.roll c))).extend 4 (Config.sha384 [if conf then 1 else 0])

/-- FULL_RESET (R245): a failed check of the fuses stops the device; else the steps in order, and the attach opens with the scheduler
cores in reset. -/
def execFullReset (fuseOk : Bool) (s : State) : Host.Outcome State Fault Refusal :=
  let conf := s.mon.confNext
  let base : State :=
    { State.reset with agenda := s.agenda, focus := s.focus, nextId := s.nextId, freeCtr := s.freeCtr + 2 ^ 48, mem := s.mem }
  .next <|
    if !fuseOk then base.modIo fun io => { io with bootstat := 0xFF }
    else
      let t : State := { base with
        mem := s.memAfterReset (s.mon.conf || conf)
        mon := { Mon.reset with
          roll := s.mon.roll, conf := conf, confNext := conf, secured := Config.secureRanges, saveKey := Config.freeKey s.freeCtr } }
      (t.measure conf).modIo fun io => { io with binding := bindingTable, bootstat := 0x01 }

end Sys2Proof.Machine
end

