-- ==== Sys2Proof/Machine/Dispatch.lean ====
section
/-!
DEFINITION. The meaning of every instruction: one arm for each constructor of Instr.
-/

namespace Sys2Proof.Machine

def exec (i : Instr) (s : State) : Host.Outcome State Fault Refusal :=
  match i with
  | .iadd f => Sys2Proof.Machine.execIadd f s
  | .isub f => Sys2Proof.Machine.execIsub f s
  | .imul f => Sys2Proof.Machine.execImul f s
  | .imulh f => Sys2Proof.Machine.execImulh f s
  | .imad f => Sys2Proof.Machine.execImad f s
  | .imin f => Sys2Proof.Machine.execImin f s
  | .imax f => Sys2Proof.Machine.execImax f s
  | .idif f => Sys2Proof.Machine.execIdif f s
  | .and f => Sys2Proof.Machine.execAnd f s
  | .or f => Sys2Proof.Machine.execOr f s
  | .xor f => Sys2Proof.Machine.execXor f s
  | .andn f => Sys2Proof.Machine.execAndn f s
  | .shl f => Sys2Proof.Machine.execShl f s
  | .shr f => Sys2Proof.Machine.execShr f s
  | .shra f => Sys2Proof.Machine.execShra f s
  | .rotl f => Sys2Proof.Machine.execRotl f s
  | .popc f => Sys2Proof.Machine.execPopc f s
  | .clz f => Sys2Proof.Machine.execClz f s
  | .brev f => Sys2Proof.Machine.execBrev f s
  | .prmt f => Sys2Proof.Machine.execPrmt f s
  | .sel f => Sys2Proof.Machine.execSel f s
  | .lea f => Sys2Proof.Machine.execLea f s
  | .bfe f => Sys2Proof.Machine.execBfe f s
  | .bfi f => Sys2Proof.Machine.execBfi f s
  | .iaddImm f => Sys2Proof.Machine.execIaddImm f s
  | .isubImm f => Sys2Proof.Machine.execIsubImm f s
  | .imulImm f => Sys2Proof.Machine.execImulImm f s
  | .imulhImm f => Sys2Proof.Machine.execImulhImm f s
  | .iminImm f => Sys2Proof.Machine.execIminImm f s
  | .imaxImm f => Sys2Proof.Machine.execImaxImm f s
  | .idifImm f => Sys2Proof.Machine.execIdifImm f s
  | .andImm f => Sys2Proof.Machine.execAndImm f s
  | .orImm f => Sys2Proof.Machine.execOrImm f s
  | .xorImm f => Sys2Proof.Machine.execXorImm f s
  | .andnImm f => Sys2Proof.Machine.execAndnImm f s
  | .shlImm f => Sys2Proof.Machine.execShlImm f s
  | .shrImm f => Sys2Proof.Machine.execShrImm f s
  | .shraImm f => Sys2Proof.Machine.execShraImm f s
  | .rotlImm f => Sys2Proof.Machine.execRotlImm f s
  | .bfeImm f => Sys2Proof.Machine.execBfeImm f s
  | .icmp cc f => Sys2Proof.Machine.execIcmp cc f s
  | .icmpi cc f => Sys2Proof.Machine.execIcmpi cc f s
  | .mov f => Sys2Proof.Machine.execMov f s
  | .movi f => Sys2Proof.Machine.execMovi f s
  | .pmovGet f => Sys2Proof.Machine.execPmovGet f s
  | .pmovSet f => Sys2Proof.Machine.execPmovSet f s
  | .fadd f => Sys2Proof.Machine.execFadd f s
  | .fsub f => Sys2Proof.Machine.execFsub f s
  | .fmul f => Sys2Proof.Machine.execFmul f s
  | .ffma f => Sys2Proof.Machine.execFfma f s
  | .fmin f => Sys2Proof.Machine.execFmin f s
  | .fmax f => Sys2Proof.Machine.execFmax f s
  | .faddImm f => Sys2Proof.Machine.execFaddImm f s
  | .fsubImm f => Sys2Proof.Machine.execFsubImm f s
  | .fmulImm f => Sys2Proof.Machine.execFmulImm f s
  | .ffmaImm f => Sys2Proof.Machine.execFfmaImm f s
  | .fminImm f => Sys2Proof.Machine.execFminImm f s
  | .fmaxImm f => Sys2Proof.Machine.execFmaxImm f s
  | .fcmp cc f => Sys2Proof.Machine.execFcmp cc f s
  | .frcp f => Sys2Proof.Machine.execFrcp f s
  | .frsq f => Sys2Proof.Machine.execFrsq f s
  | .fsqrt f => Sys2Proof.Machine.execFsqrt f s
  | .fexp2 f => Sys2Proof.Machine.execFexp2 f s
  | .flog2 f => Sys2Proof.Machine.execFlog2 f s
  | .fsin f => Sys2Proof.Machine.execFsin f s
  | .fcos f => Sys2Proof.Machine.execFcos f s
  | .ftanh f => Sys2Proof.Machine.execFtanh f s
  | .cvt f => Sys2Proof.Machine.execCvt f s
  | .frnd f => Sys2Proof.Machine.execFrnd f s
  | .shfli f => Sys2Proof.Machine.execShfli f s
  | .shflu f => Sys2Proof.Machine.execShflu f s
  | .shfld f => Sys2Proof.Machine.execShfld f s
  | .shflx f => Sys2Proof.Machine.execShflx f s
  | .vall f => Sys2Proof.Machine.execVall f s
  | .vany f => Sys2Proof.Machine.execVany f s
  | .vbal f => Sys2Proof.Machine.execVbal f s
  | .matchany f => Sys2Proof.Machine.execMatchany f s
  | .matchall f => Sys2Proof.Machine.execMatchall f s
  | .redux f => Sys2Proof.Machine.execRedux f s
  | .dec f => Sys2Proof.Machine.execDec f s
  | .decBlk f => Sys2Proof.Machine.execDecBlk f s
  | .enc f => Sys2Proof.Machine.execEnc f s
  | .encBlk f => Sys2Proof.Machine.execEncBlk f s
  | .req f => Sys2Proof.Machine.execReq f s
  | .reqBlk f => Sys2Proof.Machine.execReqBlk f s
  | .sclq f => Sys2Proof.Machine.execSclq f s
  | .fmtq f => Sys2Proof.Machine.execFmtq f s
  | .slotbind f => Sys2Proof.Machine.execSlotbind f s
  | .slotfence f => Sys2Proof.Machine.execSlotfence f s
  | .slotrel f => Sys2Proof.Machine.execSlotrel f s
  | .slotReconfigureStart core fs => Sys2Proof.Machine.execSlotReconfigureStart core fs s
  | .slotReconfigureEnd core fs readbackOk => Sys2Proof.Machine.execSlotReconfigureEnd core fs readbackOk s
  | .ld f => Sys2Proof.Machine.execLd f s
  | .ldf f => Sys2Proof.Machine.execLdf f s
  | .ldfk f => Sys2Proof.Machine.execLdfk f s
  | .lda16 f => Sys2Proof.Machine.execLda16 f s
  | .st f => Sys2Proof.Machine.execSt f s
  | .ste f => Sys2Proof.Machine.execSte f s
  | .stf f => Sys2Proof.Machine.execStf f s
  | .tagclr f => Sys2Proof.Machine.execTagclr f s
  | .xstart f => Sys2Proof.Machine.execXstart f s
  | .copyAccept core => Sys2Proof.Machine.execCopyAccept core s
  | .copyChunk core job => Sys2Proof.Machine.execCopyChunk core job s
  | .copyArrival core job => Sys2Proof.Machine.execCopyArrival core job s
  | .lda16Arrival core id => Sys2Proof.Machine.execLda16Arrival core id s
  | .pref f => Sys2Proof.Machine.execPref f s
  | .ipref f => Sys2Proof.Machine.execIpref f s
  | .cctlWb f => Sys2Proof.Machine.execCctlWb f s
  | .cctlEvict f => Sys2Proof.Machine.execCctlEvict f s
  | .cctlPdrop f => Sys2Proof.Machine.execCctlPdrop f s
  | .fence f => Sys2Proof.Machine.execFence f s
  | .fencemir f => Sys2Proof.Machine.execFencemir f s
  | .isync f => Sys2Proof.Machine.execIsync f s
  | .xtset f => Sys2Proof.Machine.execXtset f s
  | .xquery f => Sys2Proof.Machine.execXquery f s
  | .ringinit f => Sys2Proof.Machine.execRinginit f s
  | .awaitf f => Sys2Proof.Machine.execAwaitf f s
  | .rels f => Sys2Proof.Machine.execRels f s
  | .relsKeep f => Sys2Proof.Machine.execRelsKeep f s
  | .yieldc f => Sys2Proof.Machine.execYieldc f s
  | .dset f => Sys2Proof.Machine.execDset f s
  | .dsetW f => Sys2Proof.Machine.execDsetW f s
  | .lease f => Sys2Proof.Machine.execLease f s
  | .unlease f => Sys2Proof.Machine.execUnlease f s
  | .leaseExpiry slice lease => Sys2Proof.Machine.execLeaseExpiry slice lease s
  | .atomAdd f => Sys2Proof.Machine.execAtomAdd f s
  | .atomMin f => Sys2Proof.Machine.execAtomMin f s
  | .atomMax f => Sys2Proof.Machine.execAtomMax f s
  | .atomAnd f => Sys2Proof.Machine.execAtomAnd f s
  | .atomOr f => Sys2Proof.Machine.execAtomOr f s
  | .atomXor f => Sys2Proof.Machine.execAtomXor f s
  | .atomExch f => Sys2Proof.Machine.execAtomExch f s
  | .atomCas f => Sys2Proof.Machine.execAtomCas f s
  | .routerRequestArrival entry arriving => Sys2Proof.Machine.execRouterRequestArrival entry arriving s
  | .atomHomePerform req => Sys2Proof.Machine.execAtomHomePerform req s
  | .loadWriteback req => Sys2Proof.Machine.execLoadWriteback req s
  | .cmb f => Sys2Proof.Machine.execCmb f s
  | .cmbRequestArrival req => Sys2Proof.Machine.execCmbRequestArrival req s
  | .combinerWaveStart slice => Sys2Proof.Machine.execCombinerWaveStart slice s
  | .combinerWaveEnd slice residue => Sys2Proof.Machine.execCombinerWaveEnd slice residue s
  | .cobjInit f => Sys2Proof.Machine.execCobjInit f s
  | .cobjArm f => Sys2Proof.Machine.execCobjArm f s
  | .cobjQuery f => Sys2Proof.Machine.execCobjQuery f s
  | .barinit f => Sys2Proof.Machine.execBarinit f s
  | .barinitNb f => Sys2Proof.Machine.execBarinitNb f s
  | .bararv f => Sys2Proof.Machine.execBararv f s
  | .barwait f => Sys2Proof.Machine.execBarwait f s
  | .barsync f => Sys2Proof.Machine.execBarsync f s
  | .nbarv f => Sys2Proof.Machine.execNbarv f s
  | .nbwait f => Sys2Proof.Machine.execNbwait f s
  | .nbsync f => Sys2Proof.Machine.execNbsync f s
  | .bra f => Sys2Proof.Machine.execBra f s
  | .brx f => Sys2Proof.Machine.execBrx f s
  | .call f => Sys2Proof.Machine.execCall f s
  | .ret f => Sys2Proof.Machine.execRet f s
  | .exit f => Sys2Proof.Machine.execExit f s
  | .regang f => Sys2Proof.Machine.execRegang f s
  | .brkpt f => Sys2Proof.Machine.execBrkpt f s
  | .nop f => Sys2Proof.Machine.execNop f s
  | .fork f => Sys2Proof.Machine.execFork f s
  | .rdv f => Sys2Proof.Machine.execRdv f s
  | .seqend f => Sys2Proof.Machine.execSeqend f s
  | .sow f => Sys2Proof.Machine.execSow f s
  | .waitp f => Sys2Proof.Machine.execWaitp f s
  | .trigger f => Sys2Proof.Machine.execTrigger f s
  | .csrr f => Sys2Proof.Machine.execCsrr f s
  | .csrw f => Sys2Proof.Machine.execCsrw f s
  | .svc f => Sys2Proof.Machine.execSvc f s
  | .trap f => Sys2Proof.Machine.execTrap f s
  | .mma f => Sys2Proof.Machine.execMma f s
  | .acz f => Sys2Proof.Machine.execAcz f s
  | .acdrn f => Sys2Proof.Machine.execAcdrn f s
  | .acclose f => Sys2Proof.Machine.execAcclose f s
  | .jobDispatch core drain => Sys2Proof.Machine.execJobDispatch core drain s
  | .mmaOutputBlock core residue => Sys2Proof.Machine.execMmaOutputBlock core residue s
  | .matrixJobComplete core job => Sys2Proof.Machine.execMatrixJobComplete core job s
  | .acdrnLine core => Sys2Proof.Machine.execAcdrnLine core s
  | .tileClose core job => Sys2Proof.Machine.execTileClose core job s
  | .acal f => Sys2Proof.Machine.execAcal f s
  | .acfree f => Sys2Proof.Machine.execAcfree f s
  | .acstat f => Sys2Proof.Machine.execAcstat f s
  | .acstatBlk f => Sys2Proof.Machine.execAcstatBlk f s
  | .acband f => Sys2Proof.Machine.execAcband f s
  | .acbandRel f => Sys2Proof.Machine.execAcbandRel f s
  | .acrd f => Sys2Proof.Machine.execAcrd f s
  | .acrdclr f => Sys2Proof.Machine.execAcrdclr f s
  | .rfetch rd => Sys2Proof.Machine.execRfetch rd s
  | .bfx rd rs1 rs2 => Sys2Proof.Machine.execBfx rd rs1 rs2 s
  | .swait rd rs1 => Sys2Proof.Machine.execSwait rd rs1 s
  | .disp rd rs1 rs2 => Sys2Proof.Machine.execDisp rd rs1 rs2 s
  | .recLaunch slot desc => Sys2Proof.Machine.execRecLaunch slot desc s
  | .recLaunchn slot desc naddr stride => Sys2Proof.Machine.execRecLaunchn slot desc naddr stride s
  | .recWaitsig slot addr v => Sys2Proof.Machine.execRecWaitsig slot addr v s
  | .recSetsig slot addr v => Sys2Proof.Machine.execRecSetsig slot addr v s
  | .recSkipif slot cond n addr v => Sys2Proof.Machine.execRecSkipif slot cond n addr v s
  | .recExec slot buf naddr => Sys2Proof.Machine.execRecExec slot buf naddr s
  | .launchPlacement launch => Sys2Proof.Machine.execLaunchPlacement launch s
  | .blockPlacement core => Sys2Proof.Machine.execBlockPlacement core s
  | .qslotMap slot core v => Sys2Proof.Machine.execQslotMap slot core v s
  | .qslotUnmap slot core v => Sys2Proof.Machine.execQslotUnmap slot core v s
  | .kick v => Sys2Proof.Machine.execKick v s
  | .xlinvCtlWrite v => Sys2Proof.Machine.execXlinvCtlWrite v s
  | .invalidationComplete => Sys2Proof.Machine.execInvalidationComplete s
  | .walkerStart slice => Sys2Proof.Machine.execWalkerStart slice s
  | .walkComplete walk => Sys2Proof.Machine.execWalkComplete walk s
  | .homeAccessPerform req => Sys2Proof.Machine.execHomeAccessPerform req s
  | .hostAccess op => Sys2Proof.Machine.execHostAccess op s
  | .poolScrubRow core use bank row => Sys2Proof.Machine.execPoolScrubRow core use bank row s
  | .poolFaultMapWrite slab group v => Sys2Proof.Machine.execPoolFaultMapWrite slab group v s
  | .preemptRequest ctx forLaunch => Sys2Proof.Machine.execPreemptRequest ctx forLaunch s
  | .budgetReached rcb kind => Sys2Proof.Machine.execBudgetReached rcb kind s
  | .agentStop ctx who => Sys2Proof.Machine.execAgentStop ctx who s
  | .saveComplete ctx => Sys2Proof.Machine.execSaveComplete ctx s
  | .evqiWrite dom v => Sys2Proof.Machine.execEvqiWrite dom v s
  | .ctxSave v => Sys2Proof.Machine.execCtxSave v s
  | .ctxRestore v imageError => Sys2Proof.Machine.execCtxRestore v imageError s
  | .ctxTerminate v => Sys2Proof.Machine.execCtxTerminate v s
  | .flr v => Sys2Proof.Machine.execFlr v s
  | .fullReset fuseOk => Sys2Proof.Machine.execFullReset fuseOk s
  | .mgmtbaseWrite v => Sys2Proof.Machine.execMgmtbaseWrite v s
  | .fwload mb base => Sys2Proof.Machine.execFwload mb base s
  | .attest mb nonce => Sys2Proof.Machine.execAttest mb nonce s
  | .attestCerts mb => Sys2Proof.Machine.execAttestCerts mb s
  | .confset mb mode => Sys2Proof.Machine.execConfset mb mode s
  | .dbgen mb => Sys2Proof.Machine.execDbgen mb s
  | .rootact mb args => Sys2Proof.Machine.execRootact mb args s
  | .rootset mb args => Sys2Proof.Machine.execRootset mb args s
  | .rootdel mb root => Sys2Proof.Machine.execRootdel mb root s
  | .usagereq mb rcb => Sys2Proof.Machine.execUsagereq mb rcb s
  | .usageRecordWrite root => Sys2Proof.Machine.execUsageRecordWrite root s
  | .keynewGenerate mb => Sys2Proof.Machine.execKeynewGenerate mb s
  | .keynewImport mb => Sys2Proof.Machine.execKeynewImport mb s
  | .keyerase mb => Sys2Proof.Machine.execKeyerase mb s
  | .tagset mb => Sys2Proof.Machine.execTagset mb s
  | .savesetCreate mb => Sys2Proof.Machine.execSavesetCreate mb s
  | .savesetRelease mb => Sys2Proof.Machine.execSavesetRelease mb s
  | .imgreg mb => Sys2Proof.Machine.execImgreg mb s
  | .mondbUnknownCommand mb code => Sys2Proof.Machine.execMondbUnknownCommand mb code s
  | .fwmqpop v => Sys2Proof.Machine.execFwmqpop v s
  | .fwpostdb v => Sys2Proof.Machine.execFwpostdb v s
  | .mircfgWrite v => Sys2Proof.Machine.execMircfgWrite v s
  | .mirrorWriteReceive src ofs bytes => Sys2Proof.Machine.execMirrorWriteReceive src ofs bytes s
  | .fabricFlitReceive port checkOk msg => Sys2Proof.Machine.execFabricFlitReceive port checkOk msg s
  | .ethernetFrameReceive port frame => Sys2Proof.Machine.execEthernetFrameReceive port frame s
  | .laneLoss link => Sys2Proof.Machine.execLaneLoss link s
  | .powerCapInterval avg => Sys2Proof.Machine.execPowerCapInterval avg s
  | .registerWrite who ofs width v => Sys2Proof.Machine.execRegisterWrite who ofs width v s
  | .regionActivation rcb ctx => Sys2Proof.Machine.execRegionActivation rcb ctx s
  | .regionRetirement rcb => Sys2Proof.Machine.execRegionRetirement rcb s
  | .fallbackCounterClear rcb => Sys2Proof.Machine.execFallbackCounterClear rcb s
  | .instructionFetch who => Sys2Proof.Machine.execInstructionFetch who s
  | .icacheFillArrival core fill => Sys2Proof.Machine.execIcacheFillArrival core fill s
  | .linkTrained link => Sys2Proof.Machine.execLinkTrained link s
  | .peerSilenceDetected device => Sys2Proof.Machine.execPeerSilenceDetected device s

end Sys2Proof.Machine
end

