-- ==== Sys2Proof/Machine/Turn.lean ====
section
/-!
DEFINITION. The turns of the agents (spec/11 R215; spec/23 R397; spec/16 R274, R287): an agent fetches, decodes and executes one
instruction; a quarter chooses among its gangs.
-/

namespace Sys2Proof.Machine

/-- The state in which an agent executes what it fetched: it is current, the lines are used, and its slices keep the words. -/
def State.ready (s : State) (a : Agent) (c : Nat) (asn : BitVec 16) (pc w e : DWord) : State :=
  let s := { s with cur := a }.modCore c fun k => k.useLines asn pc (bitAt w 63)
  match a with
  | .gang c v j => s.modWarp c v fun x => (x.gangOf j).foldl (fun x i => x.modSlice i fun y => { y with ir := (w, e) }) x
  | _ => s

/-- A turn in which nothing happened: the agent waits, and its lines are not used. -/
def State.orHeld (s r : State) : Host.Outcome State Fault Refusal → Host.Outcome State Fault Refusal
  | .next t => .next (if t = r then s else t)
  | .fault f => .fault f
  | .refused f => .refused f

/-- A word that is no instruction: II in every slice of the gang, or in the sequencer (R274). -/
def State.illegalWord (s : State) (a : Agent) (w : DWord) : State :=
  match a with
  | .gang c v j => if s.awaits (s.warp c v).uid ((s.warp c v).gangOf j) then s else s.raise c v ((s.warp c v).gangOf j) cII 0 w
  | .seq c b cp => s.raiseSeq c b cp cII 0 w
  | _ => s

/-- A gang that consumes a poisoned word of its code, once earlier loads have written (R80, R234). -/
def State.poisonedWord (s : State) (a : Agent) (w : DWord) : State :=
  match a with
  | .gang c v j => if s.awaits (s.warp c v).uid ((s.warp c v).gangOf j) then s else s.fetchCheck c v j w
  | _ => s

/-- The stream of an agent (R287). -/
def streamOf : Agent → Stream
  | .seq _ _ cp => if cp then .cp else .mx
  | _ => .lane

/-- Whether what a gang fetched is poisoned (DEDUCED, log 126); a sequencer reads it as it stands. -/
def State.fetchedBad (s : State) (a : Agent) (c : Nat) (asn : BitVec 16) (pc w : DWord) : Bool :=
  match a with
  | .gang _ _ _ => (s.core c).wordsPoisoned asn pc (bitAt w 63)
  | _ => false

/-- The turn of a parked gang: it goes on with the instruction at which it stands (R236; log 76). -/
def State.parkedTurn (s : State) (a : Agent) : Host.Outcome State Fault Refusal :=
  match s.parkedWords a with
  | none => .next s
  | some (w, e) =>
    match decode (streamOf a) w e with
    | .error _ => .next s
    | .ok i => s.orHeld { s with cur := a } (exec i { s with cur := a })

/-- The turn of a gang or a sequencer: a fetch that misses is the front end's step. -/
def State.turn (s : State) (a : Agent) : Host.Outcome State Fault Refusal :=
  match s.fetchAt a with
  | none => s.parkedTurn a
  | some (c, x, pc) =>
    let asn := (s.ctxRegion x).asn
    match (s.core c).fetch asn pc with
    | .absent _ => execInstructionFetch a s
    | .bad _ => execInstructionFetch a s
    | .words w e =>
      if s.fetchedBad a c asn pc w then .next (s.poisonedWord a w)
      else
        match decode (streamOf a) w e with
        | .error _ => .next (s.illegalWord a w)
        | .ok i => s.orHeld (s.ready a c asn pc w e) (exec i (s.ready a c asn pc w e))

/-- The turn of a scheduler core: it fetches 32-bit words of local HBM at its pc. A word of custom-0 or custom-1 that is no
Xdisp instruction raises the illegal-instruction exception (R222). -/
def State.schedTurn (s : State) (c : Nat) : Host.Outcome State Fault Refusal :=
  let k := s.schedCore c
  if k.inReset || Config.numSched ≤ c then .next s
  else
    match decodeXdisp (BitVec.ofNat 32 (s.seenSched.readNat 0 k.pc.toNat 4)) with
    | none => .refused .rvBase
    | some (.error _) => .next (s.schedTrap c 2)
    | some (.ok i) => exec i { s with cur := .sched c }

/-- A gang's age (R215): the core cycles since its last first issue. -/
def Core.age (k : Core) (w j : Nat) : Nat := min 255 ((k.cycle - ((k.warp w).slice j).issued).toNat)

/-- Whether the gang of slice `j` of warp `w` comes before another of its quarter (R215): greatest age, then lowest warp, then lowest
slice. -/
def Core.elder (k : Core) (w j w' j' : Nat) : Bool :=
  let a := k.age w j
  let b := k.age w' j'
  b < a || (b == a && (w < w' || (w == w' && j < j')))

/-- The gangs of a quarter, each as its warp and its lowest slice. -/
def Core.gangs (k : Core) (q : Nat) : List (Nat × Nat) :=
  (k.warps.filter fun p => k.quarterOf p.1 = q && p.2.live).flatMap fun p =>
    ((List.range 8).filter fun j => (p.2.gangOf j).head? = some j).map fun j => (p.1, j)

/-- The gangs of a quarter, in the order of R215. -/
def State.gangsOf (s : State) (c q : Nat) : List Agent :=
  let k := s.core c
  ((k.gangs q).mergeSort fun x y => k.elder x.1 x.2 y.1 y.2 || x == y).map fun g => .gang c g.1 g.2

/-- Whether a gang's instruction issues now: its line is cached, and its turn changes the state. -/
def State.issues (s : State) (a : Agent) : Bool :=
  match s.fetchAt a with
  | none => false
  | some (c, x, pc) =>
    match (s.core c).fetch (s.ctxRegion x).asn pc with
    | .words _ _ =>
      match s.turn a with
      | .next t => t != s
      | .fault _ | .refused _ => true
    | _ => false

/-- PMCNT's event 2 (R392): a warp with a ready gang that was not chosen, once for each cycle. -/
def State.notChosen (s : State) (rest : List Agent) : State :=
  (rest.filterMap fun a => match a with
    | .gang c w _ => some (c, w)
    | _ => none).dedup.foldl (fun t p => t.modWarp p.1 p.2 fun x => if x.pmsel = 2 then { x with pmcnt := x.pmcnt + 1 } else x) s

/-- The turn of a quarter (R215): the oldest ready gang issues; where none is ready, the front end fetches. -/
def State.quarterTurn (s : State) (c q : Nat) : Host.Outcome State Fault Refusal :=
  let gs := s.gangsOf c q
  match gs.filter s.issues with
  | a :: rest => (s.notChosen rest).turn a
  | [] =>
    match gs.find? fun a => (match s.turn a with
      | .next t => t != s
      | _ => true) with
    | some a => s.turn a
    | none => .next s

/-- Whether a gang of the same quarter that comes before a gang issues now (R215). -/
def State.elderIssues (s : State) (c w j : Nat) : Bool :=
  let k := s.core c
  let low := ((k.warp w).gangOf j).headD j
  (k.gangs (k.quarterOf w)).any fun g => k.elder g.1 g.2 w low && s.issues (.gang c g.1 g.2)

/-- The other gangs of a quarter that were ready while a gang issues (R392). -/
def State.runnersUp (s : State) (c w j : Nat) : List Agent :=
  let low := ((s.warp c w).gangOf j).headD j
  if s.issues (.gang c w j) then
    (s.gangsOf c ((s.core c).quarterOf w)).filter fun a => a != .gang c w low && s.issues a
  else []

/-- The turn of an agent: a gang's turn goes to a gang of its quarter that comes before it and issues (R215); the others that were ready
were not chosen (R392). -/
def State.run (s : State) : Agent → Host.Outcome State Fault Refusal
  | .gang c w j =>
    if s.elderIssues c w j then s.quarterTurn c ((s.core c).quarterOf w) else (s.notChosen (s.runnersUp c w j)).turn (.gang c w j)
  | .seq c b cp => s.turn (.seq c b cp)
  | .quarter c q => s.quarterTurn c q
  | .sched c => s.schedTurn c
  | .engine _ | .none => .next s

end Sys2Proof.Machine
end

