-- ==== Sys2Proof/Machine/Step.lean ====
section
/-!
DEFINITION. One step of the device: the next move of the agenda, a symbol of the pool that goes bad, an upset, or the agent in focus.
-/

namespace Sys2Proof.Machine

/-- Whether a move is the host's read of BOOTSTAT on the sideband, which a stopped device still answers (R266). -/
def Move.sideband : Move → Bool
  | .event (.hostAccess .sideband) => true
  | _ => false

/-- One step. A device whose fuse array failed its check stops (R245), but for the sideband. -/
def step (s : State) : Host.Outcome State Fault Refusal :=
  if s.io.bootstat = 0xFF ∧ !s.agenda.head?.any Move.sideband then .fault .deviceStopped
  else
    match s.agenda with
    | .event i :: rest => exec i { s with agenda := rest }
    | .run a :: rest => { s with agenda := rest }.run a
    | .symbol e :: rest => .next (({ s with agenda := rest } : State).symbolBad e)
    | .upset c u :: rest => .next (({ s with agenda := rest } : State).modCore c fun k => { k with upset := some u })
    | .gcmFail line :: rest => .next (({ s with agenda := rest } : State).gcmFail line)
    | .peerTag page t :: rest => .next { s with agenda := rest, mem := { s.mem with peerTags := Sparse.set Tag.clear s.mem.peerTags page t } }
    | .peerStore a bs poison :: rest => .next { s with agenda := rest, mem := s.mem.peerStore a bs poison }
    | .credit port n :: rest => .next (({ s with agenda := rest } : State).takeCredit port n)
    | .sendBytes port dev bytes :: rest => .next (({ s with agenda := rest } : State).sendBytes port dev bytes)
    | .takeBytes port :: rest => .next (({ s with agenda := rest } : State).takeBytes port)
    | .pauseOver port prios :: rest => .next (({ s with agenda := rest } : State).pauseOver port prios)
    | .schedLoad core loc addr width rd :: rest => .next (({ s with agenda := rest } : State).schedLoad core loc addr width rd)
    | .schedStore core loc addr width v :: rest => .next (({ s with agenda := rest } : State).schedStore core loc addr width v)
    | [] => s.run s.focus

/-! ## The host's placement of one instruction (log 10) -/

/-- A word of 32 bits at the pc of scheduler core 0, which runs next. -/
def State.withSchedWord (s : State) (w : Nat) : State :=
  let s := s.writeMem 0 (s.schedCore 0).pc.toNat (leBytes 4 w)
  { s.modSched 0 (fun k => { k with inReset := false }) with agenda := [.run (.sched 0)] }

/-- A word of a stream on core 0: a running context, a block, and a warp or a sequencer whose instruction-cache line holds
it; that agent runs next. -/
def State.withStreamWord (s : State) (w : Nat) : State :=
  let w0 := BitVec.ofNat 64 w
  let ext := BitVec.ofNat 64 (w / 2 ^ 64)
  let a : Agent := match decode .lane w0 ext, decode .mx w0 ext with
    | .ok _, _ => .gang 0 0 0
    | _, .ok _ => .seq 0 0 false
    | _, _ => .seq 0 0 true
  let s := s.modCtx 0 fun x => { x with st := .running, acks := [] }
  let asn := (s.ctxRegion 0).asn
  let s := s.modCore 0 fun k =>
    let k := { k with icache := placeLine k.icache { asn := asn, line := 0, data := [w0, ext], pois := 0 } }
    let k := k.modBlock 0 fun b => { b with live := true, ctx := 0 }
    match a with
    | .seq _ _ cp => k.setSeq 0 cp { k.seq 0 cp with st := .running, pc := 0 }
    | _ => k.modWarp 0 fun x => { x with live := true, block := 0, nregs := 192, pg := [], pk := [], pp := [], rp := [], slices := [] }
  { s with agenda := [.run a] }

/-- The state with one instruction where the next step fetches. -/
def State.withFetchWord (s : State) (nbits w : Nat) : State :=
  let s := if s.io.bootstat = 0xFF then { s with io := { s.io with bootstat := 0 } } else s
  if nbits ≤ 32 then s.withSchedWord w else s.withStreamWord w

end Sys2Proof.Machine
end

