-- ==== Sys2Proof/Safety.lean ====
section
/-!
DEFINITION. What counts as a safe run of the device, in the terms that claims use: when an instruction is ready to issue, the
state in which it completes, the value that an instruction delivers, the state that a memory keeps.
-/

namespace Sys2Proof.Machine

/-! ## Runs and memories -/

/-- The three memories of a device keep their canonical form: addresses strictly rising, no entry equal to what an unlisted
address reads as. Equal memories are then equal data. -/
def State.memOk (s : State) : Prop :=
  Memory.wf s.mem.hbm = true ∧ Memory.wf s.mem.host = true ∧ Memory.wf s.mem.peer = true

/-- A run of `n` steps that neither stops with a fault nor meets an instruction without a meaning. -/
def safeRun (n : Nat) (s : State) : Prop := ∃ t, Host.Core.run Sys2Proof.core n s = .next t

/-! ## A gang's turn (R215) -/

/-- The state in which the turn of the gang of slice `j` is taken: the agenda has gone on to `rest`, and the other gangs of its quarter that
were ready have counted that they were not chosen (R392). -/
def State.turned (s : State) (rest : List Move) (c w j : Nat) : State :=
  ({ s with agenda := rest } : State).notChosen (({ s with agenda := rest } : State).runnersUp c w j)

/-- The address-space number under which an agent of a core's block fetches (R397). -/
def State.asnOf (s : State) (c b : Nat) : BitVec 16 := (s.ctxRegion ((s.core c).block b).ctx).asn

/-! ## An instruction of a gang (R92, R212) -/

/-- Who issues an instruction of the lane stream, and where it acts: the slices of the gang of slice `j` of warp `w`, the active
lanes whose guard holds, the instruction's address and the following one (R92, R94, R273). -/
def State.gangIssue (s : State) (c w j : Nat) (i : Instr) : Issue :=
  let v := s.warp c w
  { core := c, warp := w, block := v.block, cp := false, slices := v.gangOf j
    acting := v.actingLanes (v.gangOf j) (guardOf i), pc := (v.slice j).pc
    next := (v.slice j).pc + BitVec.ofNat 64 (instrLen i), opw := encodeWord i, again := (v.slice j).st == .parked
    rows := rowsWritten i (v.actingLanes (v.gangOf j) (guardOf i))
    writes := regsWritten i (lanesWritten i v.rf (v.actingLanes (v.gangOf j) (guardOf i))) }

/-- Nothing is wrong in the check codes of a pool: every codeword reads as it was written (R74, R75). -/
def State.sound (s : State) : Bool := s.cores.all fun p => p.2.bad.isEmpty && p.2.warps.all fun w => w.2.bad.isEmpty

/-- The gang of slice `j` of warp `w` on core `c` is current and can issue the instruction: it runs, the instruction is legal in
the lane stream and within the warp's registers, nothing it names is pending unless its slices re-enter a park, no row of registers that it
reads is poisoned, no upset meets its check, and its reads find every codeword right (R75, R80, R93, R99, R103, R274). -/
def State.gangReady (s : State) (c w j : Nat) (i : Instr) : Bool :=
  s.cur == .gang c w j && s.gangRuns c w j && legal .lane i && countOk (s.warp c w).nregs i
    && (((s.warp c w).slice j).st == .parked || !(s.warp c w).pending ((s.warp c w).gangOf j) i) && ((s.warp c w).poisonRead i (s.gangIssue c w j i).acting).isEmpty
    && (s.core c).upset.isNone && s.sound

/-- The state in which an instruction of a gang completes with effect `t`: it is counted as issued unless its slices re-enter a
park, and every slice of the gang goes on at the following instruction (R212, R390). -/
def State.gangDone (s : State) (c w j : Nat) (i : Instr) (t : State) : State :=
  s.finishGang (s.gangIssue c w j i) (s.warp c w).pmsel (.done t)

/-- The same where the slices listed go on at the addresses given, and the others of the gang stay. -/
def State.gangGoes (s : State) (c w j : Nat) (i : Instr) (t : State) (next : List (Nat × DWord)) : State :=
  s.finishGang (s.gangIssue c w j i) (s.warp c w).pmsel (.go t next)

/-- An instruction acts in some lane. -/
def State.acts (s : State) (c w j : Nat) (i : Instr) : Bool := !(s.gangIssue c w j i).acting.isEmpty

/-! ## An instruction of a sequencer (R211, R275) -/

/-- Who issues an instruction of a matrix or copy stream: lane 0 acts when the guard holds (R275). -/
def State.seqIssue (s : State) (c b : Nat) (cp : Bool) (i : Instr) : Issue :=
  let q := (s.core c).seq b cp
  { core := c, warp := 0, block := b, cp := cp, slices := [], acting := if q.rf.guard (guardOf i) 0 then [0] else []
    pc := q.pc, next := q.pc + BitVec.ofNat 64 (instrLen i), opw := encodeWord i, again := q.st == .parked, rows := []
    writes := [] }

/-- The sequencer is current and can issue the instruction, its guard holds, no upset meets it, and its reads find every codeword right. -/
def State.seqReady (s : State) (c b : Nat) (cp : Bool) (i : Instr) : Bool :=
  s.cur == .seq c b cp && s.seqRuns c b cp && legal (if cp then .cp else .mx) i && (s.core c).upset.isNone && s.sound
    && ((s.core c).seq b cp).rf.guard (guardOf i) 0

/-- The state in which an instruction of a sequencer completes with effect `t`. -/
def State.seqDone (s : State) (c b : Nat) (cp : Bool) (i : Instr) (t : State) : State :=
  s.finishSeq (s.seqIssue c b cp i) (.done t)

/-! ## An instruction that acts once for its gang, or for a sequencer (R313, R354) -/

/-- The issue of an instruction by whoever is current. -/
def State.issueOf (s : State) (i : Instr) : Issue :=
  match s.cur with
  | .seq c b cp => s.seqIssue c b cp i
  | .gang c w j => s.gangIssue c w j i
  | .quarter _ _ | .sched _ | .engine _ | .none => s.gangIssue 0 0 0 i

/-- Whoever is current, a gang or a sequencer, can issue the instruction, and it acts in some lane. -/
def State.readyFor (s : State) (i : Instr) : Bool :=
  match s.cur with
  | .seq c b cp => s.seqReady c b cp i
  | .gang c w j => s.gangReady c w j i && s.acts c w j i
  | .quarter _ _ | .sched _ | .engine _ | .none => false

/-- The state in which the instruction completes with effect `t`. -/
def State.doneWith (s : State) (i : Instr) (t : State) : State :=
  match s.cur with
  | .seq c b cp => s.seqDone c b cp i t
  | .gang c w j => s.gangDone c w j i t
  | .quarter _ _ | .sched _ | .engine _ | .none => s

/-- The same where the slices listed, or the sequencer, go on at the addresses given. -/
def State.goesWith (s : State) (i : Instr) (t : State) (next : List (Nat × DWord)) : State :=
  match s.cur with
  | .seq c b cp => s.finishSeq (s.seqIssue c b cp i) (.go t next)
  | .gang c w j => s.gangGoes c w j i t next
  | .quarter _ _ | .sched _ | .engine _ | .none => s

/-- The state in which the instruction has raised a program fault in every slice of the gang that acts, or in the sequencer. -/
def State.faultWith (s : State) (i : Instr) (code : BitVec 8) (fva : DWord) : State :=
  match s.cur with
  | .seq c b cp => s.finishSeq (s.seqIssue c b cp i) ((s.seqIssue c b cp i).fault code fva)
  | .gang c w j => s.finishGang (s.gangIssue c w j i) (s.warp c w).pmsel ((s.gangIssue c w j i).fault code fva)
  | .quarter _ _ | .sched _ | .engine _ | .none => s

/-- Nothing that the instruction's issuer comes after is still on its way: no request, no fence, no LDA16 lane, no tracked access. -/
def State.quiet (s : State) : Prop := s.fab.reqs = [] ∧ s.fab.fences = [] ∧ ∀ c, (s.core c).lda = []

/-- Every byte of every memory reads the same in both states. -/
def sameBytes (s t : State) : Prop := ∀ loc a, t.mem.byte loc a = s.mem.byte loc a

/-- Every register of every warp and sequencer is the same in both states. -/
def sameRegs (s t : State) : Prop :=
  (∀ c w, (t.warp c w).rf = (s.warp c w).rf) ∧ ∀ c b cp, ((t.core c).seq b cp).rf = ((s.core c).seq b cp).rf

/-- Every scratchpad holds the same data and tags in both states. -/
def sameScratch (s t : State) : Prop := ∀ c, (t.core c).scr = (s.core c).scr ∧ (t.core c).tags = (s.core c).tags

/-! ## Values delivered to registers (R94 to R96) -/

/-- The low 32 bits of a value for a single register, the whole of it for a pair. -/
def lowPart (n : Nat) (v : DWord) : DWord := if n = 1 then (v.setWidth 32).setWidth 64 else v

/-- A function of the registers delivers the value `v r l` to the register or pair `d` of every lane `l` in which it acts: a g
destination lane by lane, a k destination once with the value of the lowest lane, gz nothing at all (R94, R95, R96). -/
def delivers (g : RF → List Nat → RF) (n : Nat) (d : BitVec 8) (v : RF → Nat → DWord) : Prop :=
  ∀ r ls, ls.Nodup → (∀ l ∈ ls, l < 32) →
    (isGz d = true → g r ls = r)
    ∧ (isG d = true → ∀ l ∈ ls, (g r ls).readD n d l = lowPart n (v r l))
    ∧ (isK d = true → ∀ l ∈ ls.head?, (g r ls).readD n d l = lowPart n (v r l))
    ∧ (ls = [] → g r ls = r)

/-- A function of the registers writes predicate `p` of every lane in which it acts with `v r l`; pt keeps its value (R94, R276). -/
def decides (g : RF → List Nat → RF) (p : Nat) (v : RF → Nat → Bool) : Prop :=
  ∀ r ls, ls.Nodup → (∀ l ∈ ls, l < 32) →
    (p = 7 → g r ls = r) ∧ (p < 7 → ∀ l ∈ ls, (g r ls).readP p l = v r l) ∧ (ls = [] → g r ls = r)

/-! ## Tasks placed (R205, R206, R208) -/

/-- The state of a core that has just been given the block of a task (R205, R206, R208): the block, its warps, every slice of them. -/
def blockStarted (k : Core) (l : Launch) (lid : Nat) (t : TaskRec) (n : Nat) : Prop :=
  ∃ b : Nat, ∃ ws : List Nat, (k.block b).live = true ∧ (k.block b).ctx = l.ctx ∧ (k.block b).launch = lid ∧ (k.block b).task = t.num ∧ (k.block b).stage = t.stage
    ∧ (k.block b).nwarps = n ∧ (k.block b).warps = ws ∧ ws.length = n ∧ (k.block b).mx.st = .exited ∧ (k.block b).cp.st = .exited
    ∧ ∀ i, i < n → let v := k.warp (ws.getD i 0)
      v.live = true ∧ v.block = b ∧ v.rank = i ∧ v.nregs = l.regs ∧ v.rf.read2 0xC0 0 = t.arg ∧ v.rf.readK 2 = BitVec.ofNat 32 l.ltag ∧ v.rf.readK 3 = t.num
      ∧ v.rf.readK 4 = BitVec.ofNat 32 i ∧ v.instret = 0
      ∧ ∀ j, j < 8 → (v.slice j).pc = t.entry ∧ (v.slice j).mask = 0xF ∧ (v.slice j).gang = 0xFF ∧ (v.slice j).st = .running ∧ (v.slice j).stack = []

end Sys2Proof.Machine
end

