-- ==== Sys2Proof/Certificates/Slice0/Obligations.lean ====
section
/-!
DEFINITION. The statements about the device, for the provers. Each says in its docstring which rules of spec/ it formalises, and
what in it is the model's own choice.
-/

section

open Sys2Proof Sys2Proof.Machine

/-! ## Encoding -/

/-- The round trip: an instruction that is legal in a stream is read back from its words by that stream's decoder, an Xdisp
instruction from its 32-bit word, a command record whose fields its entry admits from its eight dwords, every operand at every
value that the encoding admits. -/
def Obligations.RoundTrip : Prop :=
  ∀ i : Instr,
    (∀ st, legal st i = true → decode st (encode i).1 (encode i).2 = .ok i)
    ∧ (∀ w, encodeXdisp i = some w → decodeXdisp w = some (.ok i))
    ∧ (∀ d, encodeRecord i = some d → recordOk i = true → ∃ slot, decodeRecord slot d = .ok i)

/-- Each word has one meaning: the words of the instruction that a stream reads are the words it read, the extension word only
where X = 1 (R273). -/
def Obligations.WordOfDecoded : Prop :=
  ∀ (st : Stream) (w ext : DWord) (i : Instr), decode st w ext = .ok i →
    (encode i).1 = w ∧ (bitAt w 63 = true → (encode i).2 = ext) ∧ (bitAt w 63 = false → decode st w 0 = .ok i)

/-- R286 and R274: every value of OPC that is not assigned, and every SUB beyond the last one listed of a major opcode, is no
instruction; nor is an instruction that is not legal in the stream that fetched it, among them one with the guard !pt (R94) and,
in a matrix or copy stream, one that names a g register (R93).
R280: X = 1 in formats A, F, C, Y and MX is no instruction, nor is an ATOM or a CMB with X = 0. -/
def Obligations.WordsRefused : Prop :=
  ((∀ (w ext : DWord), (field w 56 7).toNat ∉ [0x01, 0x02, 0x03, 0x04, 0x05, 0x08, 0x09, 0x0A, 0x0B, 0x0C, 0x0D, 0x10, 0x18, 0x19,
       0x20, 0x21, 0x22, 0x23, 0x28, 0x29, 0x2A, 0x30, 0x31, 0x32, 0x38, 0x39, 0x3A, 0x3B, 0x40, 0x48, 0x50] →
       decodeRaw w ext = .error .badOpcode)
   ∧ (∀ (st : Stream) (w ext : DWord) (i : Instr), decode st w ext = .ok i → legal st i = true ∧ accepts st i = true)
   ∧ (∀ (st : Stream) (w ext : DWord) (i : Instr), decode st w ext = .ok i → guardOf i ≠ 0xF#4)
   ∧ (∀ (st : Stream) (w ext : DWord) (i : Instr), st = .mx ∨ st = .cp → decode st w ext = .ok i →
       ∀ o ∈ operands i, isG o.code = false))
  ∧
  ((∀ (w ext : DWord), field w 63 1 = 1 →
       (field w 56 7).toNat ∈ [0x01, 0x03, 0x08, 0x0A, 0x0B, 0x0C, 0x0D, 0x10, 0x18, 0x30, 0x31, 0x32, 0x38, 0x3A, 0x40] →
       decodeRaw w ext = .error .noExtension)
   ∧ (∀ (st : Stream) (w ext : DWord) (i : Instr), field w 63 1 = 0 → (field w 56 7).toNat ∈ [0x28, 0x29] →
       decode st w ext ≠ .ok i))

/-- Words that the manual writes out, read by the decoder (a sanity statement; the fields in the order of their formats, R277 to R281): the
worked encodings of R98, R286, R330, R331 and R332. -/
def Obligations.SpecWords : Prop :=
  decode .lane 0x08701020304C1E33#64 0 = .ok (.ffma ⟨7, 1, 2, 3, 4, 1, 1, 0, 0, 0, 0, 1, 7, 3⟩)
  ∧ decode .lane 0x017070809FF00001#64 0 = .ok (.iadd ⟨7, 7, 8, 9, 0xFF, 0, 0, 0, 0, 0, 0, 0, 0, 1⟩)
  ∧ decode .lane 0x0170102030403041#64 0 = .ok (.imad ⟨7, 1, 2, 3, 4, 0, 0, 0, 0, 0, 0, 3, 0, 1⟩)
  ∧ decode .lane 0x037010203FF00021#64 0 = .ok (.icmp 2 ⟨7, 1, 2, 3, 0xFF, 0, 0, 0, 0, 0, 0, 0, 0, 1⟩)
  ∧ decode .lane 0x0270505000100001#64 0 = .ok (.iaddImm ⟨0, 7, 5, 5, 1, 0, 0, 0, 0, 1, 0⟩)
  ∧ decode .lane 0x85709FF000000100#64 0x400000#64 = .ok (.movi ⟨1, 7, 9, 0xFF, 0, 0, 0, 0, 0, 0, 0x400000⟩)
  ∧ decode .lane 0xA870A04000101040#64 0xC1#64 = .ok (.atomAdd ⟨1, 7, 10, 4, 0x40, 2, 0, 0, 2, 0, 0, 0, 0, 0x0C, 1⟩)
  ∧ decode .lane 0x40700FFFFB000000#64 0 = .ok (.bra ⟨7, 0, 0xFFFFB, 0⟩)

/-! ## A step -/

/-- A step runs the decoded instruction. When a gang's turn comes and the words at its pc are cached, sound and decode, the step is that
instruction's meaning with the gang current, its lines used (R397) and its words kept by its slices, where no gang of its quarter that comes
before it issues (R215; the turn is then that gang's); the others of its quarter that were ready count that they were not chosen (R392). A
turn in which the instruction changes nothing leaves the lines unused as well. A gang that is parked at an instruction goes on with the words it
kept, and fetches nothing (R215, R397; the model's reading, log 76). The same of a sequencer in its own stream (R287), and of a
scheduler core, whose words lie in local HBM (R222); an event of the agenda has its own meaning. -/
def Obligations.StepRunsDecoded : Prop :=
  (∀ (s : State) (rest : List Move) (c w j : Nat) (w0 e : DWord) (i : Instr),
    s.io.bootstat ≠ 0xFF → s.agenda = .run (.gang c w j) :: rest → ({ s with agenda := rest } : State).elderIssues c w j = false →
    let n := s.turned rest c w j
    let asn := n.asnOf c (n.warp c w).block
    let pc := ((n.warp c w).slice j).pc
    n.gangRuns c w j = true → ((n.warp c w).slice j).st = .running →
    (n.core c).fetch asn pc = .words w0 e → (n.core c).wordsPoisoned asn pc (bitAt w0 63) = false →
    decode .lane w0 e = .ok i →
    step s = n.orHeld (n.ready (.gang c w j) c asn pc w0 e) (exec i (n.ready (.gang c w j) c asn pc w0 e)))
  ∧ (∀ (s : State) (rest : List Move) (c w j : Nat) (w0 e : DWord) (i : Instr),
    s.io.bootstat ≠ 0xFF → s.agenda = .run (.gang c w j) :: rest → ({ s with agenda := rest } : State).elderIssues c w j = false →
    let n := s.turned rest c w j
    n.gangRuns c w j = true → ((n.warp c w).slice j).st = .parked → ((n.warp c w).slice j).ir = (w0, e) → decode .lane w0 e = .ok i →
    step s = n.orHeld { n with cur := .gang c w j } (exec i { n with cur := .gang c w j }))
  ∧ (∀ (s : State) (rest : List Move) (c b : Nat) (cp : Bool) (w0 e : DWord) (i : Instr),
    s.io.bootstat ≠ 0xFF → s.agenda = .run (.seq c b cp) :: rest → s.seqRuns c b cp = true →
    (s.core c).fetch (s.asnOf c b) ((s.core c).seq b cp).pc = .words w0 e →
    decode (if cp then .cp else .mx) w0 e = .ok i →
    let n : State := { s with agenda := rest }
    let r := n.ready (.seq c b cp) c (s.asnOf c b) ((s.core c).seq b cp).pc w0 e
    step s = n.orHeld r (exec i r))
  ∧ (∀ (s : State) (rest : List Move) (c : Nat) (i : Instr),
    s.io.bootstat ≠ 0xFF → s.agenda = .run (.sched c) :: rest → (s.schedCore c).inReset = false → c < 16 →
    decodeXdisp (BitVec.ofNat 32 (s.seenSched.readNat 0 (s.schedCore c).pc.toNat 4)) = some (.ok i) →
    step s = exec i { s with agenda := rest, cur := .sched c })
  ∧ (∀ (s : State) (rest : List Move) (i : Instr),
    s.io.bootstat ≠ 0xFF → s.agenda = .event i :: rest → step s = exec i { s with agenda := rest })

/-- R274, R273 and R399: words that are no instruction raise II in every slice of the gang that fetched them, with the first word in OPW;
a pc that is no multiple of 8 raises IF with OPW 0. No reply to one of the gang's slices may still be awaited (R234).
R42, R80, R299: a word in a poisoned granule is a storage machine check of the gang's warp at its pc (the model's reading, log 126).
R222: in custom-0 and custom-1 a word that is no Xdisp instruction raises the illegal-instruction exception (cause 2), with
the address of the word kept in mepc; the entry itself (mstatus, mtvec) is the model's, from RISC-V (log 6).
R245, step 1: a device whose fuse array failed its check stops; nothing of it runs, but the host still reads BOOTSTAT on the sideband
(R266). -/
def Obligations.StepFaults : Prop :=
  ((∀ (s : State) (rest : List Move) (c w j : Nat) (w0 e : DWord) (r : Reject),
     s.io.bootstat ≠ 0xFF → s.agenda = .run (.gang c w j) :: rest → ({ s with agenda := rest } : State).elderIssues c w j = false →
     let n := s.turned rest c w j
     let asn := n.asnOf c (n.warp c w).block
     let pc := ((n.warp c w).slice j).pc
     n.gangRuns c w j = true → ((n.warp c w).slice j).st = .running → n.awaits (n.warp c w).uid ((n.warp c w).gangOf j) = false →
     (n.core c).fetch asn pc = .words w0 e →
     ((n.core c).wordsPoisoned asn pc (bitAt w0 63) = false → decode .lane w0 e = .error r →
       step s = .next (n.raise c w ((n.warp c w).gangOf j) cII 0 w0))
     ∧ ((n.core c).wordsPoisoned asn pc (bitAt w0 63) = true →
       step s = .next (n.machineCheck c w (storageMc (4 * ((n.warp c w).gangOf j).headD j) false (BitVec.ofNat 64 (3 * 2 ^ 21))) pc w0)))
   ∧ (∀ (s : State) (rest : List Move) (c w j : Nat),
     s.io.bootstat ≠ 0xFF → s.agenda = .run (.gang c w j) :: rest → ({ s with agenda := rest } : State).elderIssues c w j = false →
     s.gangRuns c w j = true → ((s.warp c w).slice j).st = .running → s.awaits (s.warp c w).uid ((s.warp c w).gangOf j) = false →
     ((s.warp c w).slice j).pc.toNat % 8 ≠ 0 →
     ∃ t : State, step s = .next t ∧ ∀ i ∈ (s.warp c w).gangOf j,
       ((t.warp c w).slice i).st = .faulted ∧ ((t.warp c w).slice i).code = cIF ∧ ((t.warp c w).slice i).opw = 0
         ∧ ((t.warp c w).slice i).fva = ((s.warp c w).slice j).pc ∧ ((t.warp c w).slice i).pc = ((s.warp c w).slice i).pc)
   ∧ (∀ (s : State) (rest : List Move) (c b : Nat) (cp : Bool) (w0 e : DWord) (r : Reject),
     s.io.bootstat ≠ 0xFF → s.agenda = .run (.seq c b cp) :: rest → s.seqRuns c b cp = true →
     (s.core c).fetch (s.asnOf c b) ((s.core c).seq b cp).pc = .words w0 e →
     decode (if cp then .cp else .mx) w0 e = .error r →
     step s = .next (({ s with agenda := rest } : State).raiseSeq c b cp cII 0 w0)))
  ∧
  (∀ (s : State) (rest : List Move) (c : Nat) (r : Reject),
     s.io.bootstat ≠ 0xFF → s.agenda = .run (.sched c) :: rest → (s.schedCore c).inReset = false → c < 16 →
     decodeXdisp (BitVec.ofNat 32 (s.seenSched.readNat 0 (s.schedCore c).pc.toNat 4)) = some (.error r) →
     ∃ t : State, step s = .next t ∧ (t.schedCore c).mcause = 2 ∧ (t.schedCore c).mepc = (s.schedCore c).pc
       ∧ (t.schedCore c).x = (s.schedCore c).x ∧ t.mem = s.mem ∧ (∀ d, d ≠ c → t.schedCore d = s.schedCore d)
       ∧ (t.schedCore c).pc = (s.schedCore c).mtvec &&& ~~~3
       ∧ bitAt (t.schedCore c).mstatus 3 = false ∧ bitAt (t.schedCore c).mstatus 7 = bitAt (s.schedCore c).mstatus 3)
  ∧
  (∀ s : State, s.io.bootstat = 0xFF → (∀ r, s.agenda ≠ .event (.hostAccess .sideband) :: r) → step s = .fault .deviceStopped)

/-! ## Reset, memories, registers -/

/-- The device right after power-on: every memory is in its canonical form and lists nothing. That memory reads as zero, and every
other value that the manual states no reset value for, is the model's choice (log 1). -/
def Obligations.ResetMemory : Prop :=
  State.reset.memOk ∧ State.reset.mem.hbm = [] ∧ State.reset.mem.host = [] ∧ State.reset.mem.peer = []

/-- No step leaves a memory of the device in any other form than the canonical one: addresses strictly rising, nothing listed
that reads as an unlisted address reads. It holds of every state, whatever the move. -/
def Obligations.MemoryCanonical : Prop :=
  ∀ s t : State, s.memOk → step s = .next t → t.memOk

/-- R7, R94 and R276: gz reads as zero in every lane, as a register and as a pair, and discards whatever is written to it; pt
is always true, and a write to it is discarded; x0 of a scheduler core reads zero and discards writes. -/
def Obligations.ConstantRegisters : Prop :=
  (∀ (r : RF) (l : Nat), r.read1 0xFF#8 l = 0 ∧ r.read2 0xFF#8 l = 0 ∧ r.read4 0xFF#8 l = 0)
  ∧ (∀ (r : RF) (l : Nat) (v : Word) (u : DWord) (q : BitVec 128),
      r.write1 0xFF#8 l v = r ∧ r.write2 0xFF#8 l u = r ∧ r.write4 0xFF#8 l q = r)
  ∧ (∀ (r : RF) (l : Nat), r.readP 7 l = true)
  ∧ (∀ (r : RF) (l : Nat) (b : Bool), r.writeP 7 l b = r)
  ∧ (∀ (k : Sched) (v : DWord), k.read 0 = 0 ∧ k.write 0 v = k)

/-- A register, a pair, a quad and a predicate hold what was written last, in their lane alone (R7, R96): a g register of one lane
is no other lane's, a k register is every lane's, and no register is another. -/
def Obligations.RegisterReadWrite : Prop :=
  (∀ (r : RF) (c : BitVec 8) (l m : Nat) (v : Word), isG c = true → l < 32 → m < 32 →
      (r.write1 c l v).read1 c m = if m = l then v else r.read1 c m)
  ∧ (∀ (r : RF) (c : BitVec 8) (l m : Nat) (v : Word), isK c = true → (r.write1 c l v).read1 c m = v)
  ∧ (∀ (r : RF) (c d : BitVec 8) (l m : Nat) (v : Word), c ≠ d → l < 32 → m < 32 → (r.write1 c l v).read1 d m = r.read1 d m)
  ∧ (∀ (r : RF) (c : BitVec 8) (l : Nat) (v : DWord), codeOk 2 c = true → isGz c = false → l < 32 →
      (r.write2 c l v).read2 c l = v ∧ (r.write2 c l v).read1 c l = v.setWidth 32)
  ∧ (∀ (r : RF) (c : BitVec 8) (l : Nat) (v : BitVec 128), codeOk 4 c = true → isGz c = false → l < 32 →
      (r.write4 c l v).read4 c l = v)
  ∧ (∀ (r : RF) (p q l m : Nat) (b : Bool), p < 7 → l < 32 → m < 32 →
      (r.writeP p l b).readP q m = if q = p ∧ m = l then b else r.readP q m)
  ∧ (∀ (r : RF) (c : BitVec 8) (l p m : Nat) (v : Word), (r.write1 c l v).readP p m = r.readP p m)

/-- A byte of memory holds what was written last, and a write changes no other byte, in its own memory or in another (R31):
`bs` written at `a`, read at `b`.
The same of a core's scratchpad, where no registered barrier object lies (R377); the row that a write touches first reads as
zero until it is written, in its other bytes as well (R84). The bytes lie below the scratchpad's size (R83). -/
def Obligations.MemoryReadWrite : Prop :=
  (∀ (m : Mem) (loc a : Nat) (bs : List Byte) (loc' b : Nat), loc < 3 → loc' < 3 →
     (m.write loc a bs).byte loc' b =
       if loc' = loc ∧ a ≤ b ∧ b < a + bs.length then bs.getD (b - a) 0 else m.byte loc' b)
  ∧
  (∀ (k : Core) (a : Nat) (bs : List Byte) (b : Nat), k.bars = [] →
     a + bs.length ≤ k.scrSize → b < k.scrSize →
     (k.writeScr a bs).scrByte b = if a ≤ b ∧ b < a + bs.length then bs.getD (b - a) 0 else k.scrByte b)

/-! ## The vector ALU groups -/

/-- Every instruction of the IALU, IALUI, ICMP, ICMPI, MOV, FALU, FALUI, FCMP, FSPEC, CVT, FRND and LANE groups completes for a ready
gang, whatever its operands hold: its only effect is what it does to the warp's registers in the acting lanes (R326), which
`aluOf` names for each; what that is, the statements on values below say.
The same for a sequencer, on its q registers and its own predicates (R275, R287): the instruction performs its effect as for one
lane that is always active, and the sequencer goes on at the following instruction.
A gang's instruction that reads a poisoned row of the register file, which it could issue otherwise, is a storage machine check of the
warp at that instruction, and nothing of it is written (R79, R80, R105): its record has KIND 2 and SRC 0. -/
def Obligations.AluCompletes : Prop :=
  (∀ (i : Instr) (g : RF → List Nat → RF) (s : State) (c w j : Nat), aluOf i = some g → s.gangReady c w j i = true →
     exec i s = .next (s.gangDone c w j i (s.setRF c w (g (s.warp c w).rf (s.gangIssue c w j i).acting))))
  ∧
  (∀ (i : Instr) (g : RF → List Nat → RF) (s : State) (c b : Nat) (cp : Bool), aluOf i = some g → s.seqReady c b cp i = true →
     ∃ t : State, exec i s = .next t
       ∧ ((t.core c).seq b cp).rf = g ((s.core c).seq b cp).rf [0]
       ∧ ((t.core c).seq b cp).pc = ((s.core c).seq b cp).pc + BitVec.ofNat 64 (instrLen i)
       ∧ t.mem = s.mem ∧ t.fab = s.fab ∧ t.regions = s.regions ∧ t.ctxs = s.ctxs ∧ t.launches = s.launches ∧ t.io = s.io
       ∧ t.sched = s.sched ∧ t.mon = s.mon ∧ (∀ d, d ≠ c → t.core d = s.core d) ∧ (t.core c).warps = (s.core c).warps
       ∧ (t.core c).scr = (s.core c).scr ∧ (t.core c).seq b (!cp) = (s.core c).seq b (!cp)
       ∧ ∀ a, a ≠ b → (t.core c).block a = (s.core c).block a)
  ∧
  (∀ (i : Instr) (g : RF → List Nat → RF) (s : State) (c w j : Nat), aluOf i = some g → s.cur = .gang c w j → s.gangRuns c w j = true →
     s.sound = true → legal .lane i = true → countOk (s.warp c w).nregs i = true → (s.warp c w).pending ((s.warp c w).gangOf j) i = false →
     (s.warp c w).poisonRead i (s.gangIssue c w j i).acting ≠ [] →
     ∃ r : McRec, exec i s = .next (s.machineCheck c w r ((s.warp c w).slice j).pc (encodeWord i))
       ∧ r.kind = 2 ∧ r.unit = 5 ∧ r.xv.toNat < 2 ^ 21)

/-- What such an instruction leaves unchanged (R94, R95, R326): every g register in every lane in which it does not act, and every
register and predicate that is not a destination of it.
The completion of an instruction of a gang, and its frame (R212, R217, R390): `t` is the instruction's own effect. Where the warp is
still resident afterwards, every slice of the gang has gone on at the following instruction, INSTRET has counted the instruction
once unless its slices re-entered a park, and nothing else differs from `t` but CYCLE, PMCNT, the gangs, the check symbols of the rows of
registers that the instruction wrote (R74), and the poison of the rows of registers that the instruction wrote whole, which is gone unless their data is still to come (R79): no register, no
predicate, no pending bit, no other warp, block, core or byte of memory. -/
def Obligations.AluFrame : Prop :=
  (∀ (st : Stream) (i : Instr) (g : RF → List Nat → RF), aluOf i = some g → legal st i = true →
     ∀ (r : RF) (ls : List Nat), (∀ l ∈ ls, l < 32) →
       (∀ n l, l < 32 → (l ∉ ls ∨ ∀ o ∈ operands i, o.role = .dst → isG o.code = true → n < o.code.toNat ∨ o.code.toNat + o.n ≤ n) →
           (g r ls).readG n l = r.readG n l)
       ∧ (∀ n, (∀ o ∈ operands i, o.role = .dst → isK o.code = true → n < kIdx o.code ∨ kIdx o.code + o.n ≤ n) →
           (g r ls).readK n = r.readK n)
       ∧ (∀ p l, l < 32 → (l ∉ ls ∨ ∀ q ∈ predOperands i, q.2 = .dst → q.1 ≠ p) → (g r ls).readP p l = r.readP p l)
       ∧ (ls = [] → g r ls = r))
  ∧
  (∀ (s t : State) (c w j : Nat) (i : Instr), ((s.gangDone c w j i t).warp c w).live = true →
     let u := s.gangDone c w j i t
     let x := s.gangIssue c w j i
     (u.mem = t.mem ∧ u.fab = t.fab ∧ u.regions = t.regions ∧ u.ctxs = t.ctxs ∧ u.launches = t.launches ∧ u.io = t.io
       ∧ u.sched = t.sched ∧ u.mon = t.mon ∧ u.nextId = t.nextId ∧ u.agenda = t.agenda)
     ∧ (∀ d, d ≠ c → u.core d = t.core d)
     ∧ (∀ v, v ≠ w → u.warp c v = t.warp c v)
     ∧ ({ u.core c with warps := [], cycle := 0 } : Core) = { t.core c with warps := [], cycle := 0 }
     ∧ ((u.warp c w).rf = (t.warp c w).rf ∧ (u.warp c w).pg = (t.warp c w).pg ∧ (u.warp c w).pk = (t.warp c w).pk
       ∧ (u.warp c w).pp = (t.warp c w).pp ∧ (u.warp c w).nregs = (t.warp c w).nregs ∧ (u.warp c w).uid = (t.warp c w).uid
       ∧ (u.warp c w).block = (t.warp c w).block ∧ (u.warp c w).rank = (t.warp c w).rank)
     ∧ (∀ r, Sparse.get false (u.warp c w).rp r = (Sparse.get false (t.warp c w).rp r && (!x.rows.contains r || Sparse.get false (t.warp c w).pg r)))
     ∧ (u.warp c w).instret = (t.warp c w).instret + (if x.again then 0 else 1)
     ∧ (∀ k, k ∉ x.slices → (u.warp c w).slice k = (t.warp c w).slice k)
     ∧ (∀ k ∈ x.slices, ((u.warp c w).slice k).pc = (((t.warp c w).slice k).goto x.next).pc
       ∧ ((u.warp c w).slice k).mask = (((t.warp c w).slice k).goto x.next).mask
       ∧ ((u.warp c w).slice k).stack = (((t.warp c w).slice k).goto x.next).stack
       ∧ ((u.warp c w).slice k).st = (((t.warp c w).slice k).goto x.next).st))

/-- R328: the results of IADD, ISUB, IMUL, IMULH, IMAD, IMIN, IMAX and IDIF, and of their immediate forms, for every type their
entries allow: each is formed exactly on the elements' values after the source modifiers, and taken modulo 2^w, or clamped to
the element's range under satint; IMULH is the high half of the exact product.
R329: with n the count's bits [7:0] and W = 32 or 64, a shift by W or more gives zero, or copies of the sign bit, and a rotate
goes by n mod W; SHL and SHR bring zeros in; the count's other bits are ignored. Of SHL, SHR, SHRA and ROTL and of their immediate
forms. -/
def Obligations.IntegerResults : Prop :=
  ((∀ f : FmtA, codeOk (nreg f.ty) f.d = true → f.ty.toNat ≤ 12 → isInt f.ty = true →
     let A := fun (r : RF) (l e : Nat) => intOf f.ty (elem f.ty (srcA f r l) e)
     let B := fun (r : RF) (l e : Nat) => intOf f.ty (elem f.ty (srcB f r l) e)
     let C := fun (r : RF) (l e : Nat) => intOf f.ty (elem f.ty (srcC f r l) e)
     let exactly := fun (g : RF → List Nat → RF) (v : RF → Nat → Nat → Int) =>
       ∃ u : RF → Nat → DWord, delivers g (nreg f.ty) f.d u ∧ ∀ r l e, e < elemN f.ty →
         (f.clp ≠ 3 → (elem f.ty (u r l) e : Int) = v r l e % 2 ^ elemW f.ty)
         ∧ (f.clp = 3 → intOf f.ty (elem f.ty (u r l) e) = max (intLo f.ty) (min (intHi f.ty) (v r l e)))
     exactly (rfIadd f) (fun r l e => A r l e + B r l e)
     ∧ exactly (rfIsub f) (fun r l e => A r l e - B r l e)
     ∧ exactly (rfImul f) (fun r l e => A r l e * B r l e)
     ∧ exactly (rfImad f) (fun r l e => A r l e * B r l e + C r l e)
     ∧ exactly (rfIdif f) (fun r l e => max (A r l e - B r l e) (B r l e - A r l e))
     ∧ exactly (rfImin f) (fun r l e => min (A r l e) (B r l e))
     ∧ exactly (rfImax f) (fun r l e => max (A r l e) (B r l e))
     ∧ (f.clp = 0 → exactly (rfImulh f) (fun r l e => A r l e * B r l e / 2 ^ elemW f.ty)))
   ∧ (∀ f : FmtB, codeOk (nreg f.ty) f.d = true → f.ty.toNat ≤ 12 → isInt f.ty = true →
     let A := fun (r : RF) (l e : Nat) => intOf f.ty (elem f.ty (srcI f r l) e)
     let I := fun (e : Nat) => intOf f.ty (elem f.ty (immOf f) e)
     let exactly := fun (g : RF → List Nat → RF) (v : RF → Nat → Nat → Int) =>
       ∃ u : RF → Nat → DWord, delivers g (nreg f.ty) f.d u ∧ ∀ r l e, e < elemN f.ty →
         (f.clp ≠ 3 → (elem f.ty (u r l) e : Int) = v r l e % 2 ^ elemW f.ty)
         ∧ (f.clp = 3 → intOf f.ty (elem f.ty (u r l) e) = max (intLo f.ty) (min (intHi f.ty) (v r l e)))
     exactly (rfIaddImm f) (fun r l e => A r l e + I e)
     ∧ exactly (rfIsubImm f) (fun r l e => A r l e - I e)
     ∧ exactly (rfImulImm f) (fun r l e => A r l e * I e)
     ∧ exactly (rfIdifImm f) (fun r l e => max (A r l e - I e) (I e - A r l e))
     ∧ exactly (rfIminImm f) (fun r l e => min (A r l e) (I e))
     ∧ exactly (rfImaxImm f) (fun r l e => max (A r l e) (I e))
     ∧ (f.clp = 0 → exactly (rfImulhImm f) (fun r l e => A r l e * I e / 2 ^ elemW f.ty))))
  ∧
  (∀ (ty : BitVec 4), ty = 0 ∨ ty = 1 ∨ ty = 10 ∨ ty = 11 →
     let W := if ty = 0 ∨ ty = 1 then 32 else 64
     let lowW := fun (v : DWord) => v.toNat % 2 ^ W
     let SHL := fun (a : DWord) (n : Nat) => if n < W then lowW a * 2 ^ n % 2 ^ W else 0
     let SHR := fun (a : DWord) (n : Nat) => if n < W then lowW a / 2 ^ n else 0
     let SHRA := fun (a : DWord) (n : Nat) =>
       if n < W then lowW a / 2 ^ n + (if lowW a < 2 ^ (W - 1) then 0 else 2 ^ W - 2 ^ (W - n))
       else if lowW a < 2 ^ (W - 1) then 0 else 2 ^ W - 1
     let ROTL := fun (a : DWord) (n : Nat) => lowW a * 2 ^ (n % W) % 2 ^ W + lowW a / 2 ^ (W - n % W)
     (∀ f : FmtA, f.ty = ty → codeOk (nreg ty) f.d = true →
       let is := fun (g : RF → List Nat → RF) (v : DWord → Nat → Nat) =>
         delivers g (nreg ty) f.d fun r l => BitVec.ofNat 64 (v (srcA f r l) ((r.read1 f.b l).toNat % 256))
       (ty = 0 ∨ ty = 10 → is (rfShl f) SHL ∧ is (rfShr f) SHR ∧ is (rfRotl f) ROTL) ∧ (ty = 1 ∨ ty = 11 → is (rfShra f) SHRA))
     ∧ (∀ f : FmtB, f.ty = ty → codeOk (nreg ty) f.d = true →
       let is := fun (g : RF → List Nat → RF) (v : DWord → Nat → Nat) =>
         delivers g (nreg ty) f.d fun r l => BitVec.ofNat 64 (v (srcI f r l) ((immOf f).toNat % 256))
       (ty = 0 ∨ ty = 10 → is (rfShlImm f) SHL ∧ is (rfShrImm f) SHR ∧ is (rfRotlImm f) ROTL)
         ∧ (ty = 1 ∨ ty = 11 → is (rfShraImm f) SHRA)))

/-- R328 and R330: AND, OR, XOR and ANDN bit by bit; POPC counts set bits, CLZ leading zeros (W for a zero value), BREV moves
bit i to bit W − 1 − i; SEL chooses by its predicate; LEA adds B × 2^k modulo 2^64; BFE takes Q bits from P up, sign-extended for
a signed type, its control word in B or the immediate; BFI puts the low bits of A at P into C; PRMT builds each byte by its control byte.
R331 and R335: the conditions of ICMP, ICMPI and FCMP, written to the predicate that D names in each lane in which the instruction
acts; integers signed or unsigned by type; in FCMP a NaN is unordered, −0 equals +0, and the sources take their modifiers and
then the flush.
R332 and R278: MOV of a bit type, of an integer (clamped under satint), of a floating type without scale and clamp; MOVI delivers
the immediate as R278 forms it; PMOV.get delivers p0 to p6 in bits [6:0] and 1 in bit 7; PMOV.set sets the predicates that IMM16
selects, and no other. -/
def Obligations.BitCompareMoveResults : Prop :=
  ((∀ f : FmtA, codeOk (nreg f.ty) f.d = true → f.ty = 0 ∨ f.ty = 10 →
     let W := if f.ty = 0 then 32 else 64
     let bits := fun (g : RF → List Nat → RF) (v : RF → Nat → Nat → Bool) =>
       ∃ u : RF → Nat → DWord, delivers g (nreg f.ty) f.d u ∧ ∀ r l b, b < W → bitAt (u r l) b = v r l b
     let P := fun (r : RF) (l : Nat) => min ((r.read1 f.b l).toNat % 256) W
     let Q := fun (r : RF) (l : Nat) => min ((r.read1 f.b l).toNat / 256 % 256) W
     bits (rfAnd f) (fun r l b => bitAt (srcA f r l) b && bitAt (srcB f r l) b)
     ∧ bits (rfOr f) (fun r l b => bitAt (srcA f r l) b || bitAt (srcB f r l) b)
     ∧ bits (rfXor f) (fun r l b => bitAt (srcA f r l) b != bitAt (srcB f r l) b)
     ∧ bits (rfAndn f) (fun r l b => bitAt (srcA f r l) b && !bitAt (srcB f r l) b)
     ∧ bits (rfBrev f) (fun r l b => bitAt (srcA f r l) (W - 1 - b))
     ∧ bits (rfSel f) (fun r l b => if r.readP (f.c.toNat % 8) l then bitAt (srcA f r l) b else bitAt (srcB f r l) b)
     ∧ bits (rfBfi f) (fun r l b => if P r l ≤ b ∧ b < min (P r l + Q r l) W then bitAt (srcA f r l) (b - P r l) else bitAt (srcC f r l) b)
     ∧ delivers (rfPopc f) (nreg f.ty) f.d (fun r l => BitVec.ofNat 64 ((List.range W).countP fun b => bitAt (srcA f r l) b))
     ∧ ∃ z : RF → Nat → Nat, delivers (rfClz f) (nreg f.ty) f.d (fun r l => BitVec.ofNat 64 (z r l)) ∧ ∀ r l,
         z r l ≤ W ∧ (srcA f r l).toNat % 2 ^ W < 2 ^ (W - z r l) ∧ (z r l < W → 2 ^ (W - 1 - z r l) ≤ (srcA f r l).toNat % 2 ^ W))
   ∧ (∀ f : FmtB, codeOk (nreg f.ty) f.d = true → f.ty = 0 ∨ f.ty = 10 →
     let bits := fun (g : RF → List Nat → RF) (v : RF → Nat → Nat → Bool) =>
       ∃ u : RF → Nat → DWord, delivers g (nreg f.ty) f.d u ∧ ∀ r l b, b < 32 * nreg f.ty → bitAt (u r l) b = v r l b
     bits (rfAndImm f) (fun r l b => bitAt (srcI f r l) b && bitAt (immOf f) b)
     ∧ bits (rfOrImm f) (fun r l b => bitAt (srcI f r l) b || bitAt (immOf f) b)
     ∧ bits (rfXorImm f) (fun r l b => bitAt (srcI f r l) b != bitAt (immOf f) b)
     ∧ bits (rfAndnImm f) (fun r l b => bitAt (srcI f r l) b && !bitAt (immOf f) b))
   ∧ (∀ f : FmtA, codeOk 2 f.d = true → f.ty = 11 ∨ f.ty = 12 → f.nb = 0 → f.ab = 0 →
     delivers (rfLea f) 2 f.d fun r l =>
       srcA f r l + (if f.ty = 11 then (r.read1 f.b l).signExtend 64 else (r.read1 f.b l).setWidth 64) * BitVec.ofNat 64 (2 ^ (f.c.toNat % 8)))
   ∧ (∀ f : FmtA, codeOk (nreg f.ty) f.d = true → f.ty = 1 ∨ f.ty = 2 ∨ f.ty = 11 ∨ f.ty = 12 →
     let W := 32 * nreg f.ty
     delivers (rfBfe f) (nreg f.ty) f.d fun r l =>
       let P := min ((r.read1 f.b l).toNat % 256) W
       let Q := min ((r.read1 f.b l).toNat / 256 % 256) W
       let v := intOf f.ty (elem f.ty (srcA f r l) 0) / 2 ^ P % 2 ^ Q
       BitVec.ofInt 64 ((if Q ≠ 0 ∧ (f.ty = 1 ∨ f.ty = 11) ∧ 2 ^ (Q - 1) ≤ v then v - 2 ^ Q else v) % 2 ^ W))
   ∧ (∀ f : FmtB, codeOk (nreg f.ty) f.d = true → f.ty = 1 ∨ f.ty = 2 ∨ f.ty = 11 ∨ f.ty = 12 →
     let W := 32 * nreg f.ty
     let P := min ((immOf f).toNat % 256) W
     let Q := min ((immOf f).toNat / 256 % 256) W
     delivers (rfBfeImm f) (nreg f.ty) f.d fun r l =>
       let v := intOf f.ty (elem f.ty (srcI f r l) 0) / 2 ^ P % 2 ^ Q
       BitVec.ofInt 64 ((if Q ≠ 0 ∧ (f.ty = 1 ∨ f.ty = 11) ∧ 2 ^ (Q - 1) ≤ v then v - 2 ^ Q else v) % 2 ^ W))
   ∧ (∀ f : FmtA, f.ty = 0 → codeOk 1 f.d = true →
     ∃ u : RF → Nat → DWord, delivers (rfPrmt f) 1 f.d u ∧ ∀ r l i, i < 4 →
       let ctl := (r.read1 f.c l).toNat / 256 ^ i % 256
       let m := ctl % 8
       let x := (if m < 4 then (r.read1 f.a l).toNat / 256 ^ m else (r.read1 f.b l).toNat / 256 ^ (m - 4)) % 256
       let y := if ctl / 8 % 4 = 0 then x else if ctl / 8 % 4 = 1 then 0 else if ctl / 8 % 4 = 2 ∧ x < 128 then 0 else 255
       ∀ b, b < 8 → bitAt (u r l) (8 * i + b) = (y / 2 ^ (if ctl / 32 % 2 = 1 then 7 - b else b) % 2 == 1)))
  ∧
  (let holds := fun (cc : BitVec 5) (a b : Int) =>
     (cc = 0 ∧ a = b) ∨ (cc = 1 ∧ a ≠ b) ∨ (cc = 2 ∧ a < b) ∨ (cc = 3 ∧ a ≤ b) ∨ (cc = 4 ∧ b < a) ∨ (cc = 5 ∧ b ≤ a)
   (∀ (cc : BitVec 5) (f : FmtA), cc.toNat < 6 →
     ∃ v : RF → Nat → Bool, decides (rfIcmp cc f) (f.d.toNat % 8) v ∧ ∀ r l,
       (v r l = true ↔ holds cc (intOf f.ty (elem f.ty (srcA f r l) 0)) (intOf f.ty (elem f.ty (srcB f r l) 0))))
   ∧ (∀ (cc : BitVec 5) (f : FmtB), cc.toNat < 6 →
     ∃ v : RF → Nat → Bool, decides (rfIcmpi cc f) (f.d.toNat % 8) v ∧ ∀ r l,
       (v r l = true ↔ holds cc (intOf f.ty (elem f.ty (srcI f r l) 0)) (intOf f.ty (elem f.ty (immOf f) 0))))
   ∧ (∀ (cc : BitVec 5) (f : FmtA), cc.toNat < 8 →
     ∃ v : RF → Nat → Bool, decides (rfFcmp cc f) (f.d.toNat % 8) v ∧ ∀ r l,
       let a := fp32.decode (fp32.flush (flushOf f.c) (srcA f r l).toNat)
       let b := fp32.decode (fp32.flush (flushOf f.c) (srcB f r l).toNat)
       (f.ty = 3 → (a = .nan ∨ b = .nan) → v r l = (cc = 1 ∨ cc = 6 : Bool))
       ∧ (f.ty = 3 → ∀ na ma ea nb mb eb q, a = .fin na ma ea → b = .fin nb mb eb → q ≤ ea → q ≤ eb →
         (v r l = true ↔ cc = 7 ∨ holds cc (finInt na ma ea q) (finInt nb mb eb q)))
       ∧ (f.ty = 3 → ∀ na ma ea nb, a = .fin na ma ea → b = .inf nb →
         (v r l = true ↔ cc = 7 ∨ holds cc 0 (if nb then -1 else 1)))
       ∧ (f.ty = 3 → ∀ na nb mb eb, a = .inf na → b = .fin nb mb eb →
         (v r l = true ↔ cc = 7 ∨ holds cc (if na then -1 else 1) 0))
       ∧ (f.ty = 3 → ∀ na nb, a = .inf na → b = .inf nb →
         (v r l = true ↔ cc = 7 ∨ holds cc (if na then -1 else 1) (if nb then -1 else 1)))))
  ∧
  ((∀ f : FmtB, codeOk (nreg f.ty) f.d = true →
     (isInt f.ty = false → f.clp = 0 → f.sc = 0 → delivers (rfMov f) (nreg f.ty) f.d (srcI f))
     ∧ (isInt f.ty = true → ∃ u : RF → Nat → DWord, delivers (rfMov f) (nreg f.ty) f.d u ∧ ∀ r l e, e < elemN f.ty →
         elem f.ty (u r l) e = elem f.ty (srcI f r l) e))
   ∧ (∀ f : FmtB, codeOk (nreg f.ty) f.d = true → f.ty.toNat ≤ 12 →
     ∃ I : DWord, delivers (rfMovi f) (nreg f.ty) f.d (fun _ _ => I)
       ∧ (f.x = 1 → (f.ty = 11 → I.toInt = f.imm32.toInt) ∧ (f.ty ≠ 11 → I.toNat = f.imm32.toNat))
       ∧ (f.x = 0 → f.ty = 1 ∨ f.ty = 11 → (I.setWidth (32 * nreg f.ty)).toInt = f.imm16.toInt)
       ∧ (f.x = 0 → f.ty = 0 ∨ f.ty = 2 ∨ f.ty = 10 ∨ f.ty = 12 → I.toNat = f.imm16.toNat)
       ∧ (f.x = 0 → f.ty = 3 → I.toNat = f.imm16.toNat * 2 ^ 16)
       ∧ (f.x = 0 → f.ty = 4 ∨ f.ty = 5 ∨ f.ty = 6 ∨ f.ty = 7 → I.toNat = f.imm16.toNat * (2 ^ 16 + 1))
       ∧ (f.x = 0 → f.ty = 8 ∨ f.ty = 9 → I.toNat = f.imm16.toNat % 256 * (2 ^ 24 + 2 ^ 16 + 2 ^ 8 + 1)))
   ∧ (∀ f : FmtB, codeOk 1 f.d = true → ∃ u : RF → Nat → DWord, delivers (rfPmovGet f) 1 f.d u ∧ ∀ r l,
       (∀ n, n < 7 → bitAt (u r l) n = r.readP n l) ∧ bitAt (u r l) 7 = true ∧ (u r l).toNat < 256)
   ∧ (∀ (f : FmtB) (r : RF) (ls : List Nat) (n l : Nat), ls.Nodup → (∀ l ∈ ls, l < 32) → n < 7 → l < 32 →
       (rfPmovSet f r ls).readP n l = if l ∈ ls ∧ bitAt f.imm16 (8 + n) then bitAt (r.read1 f.a l) n else r.readP n l))

/-- R342: the four shuffles are legal for b32 and b64 alone. Each lane that participates takes its own B and reads the value of its source
lane, which lies within its own group, when that lane participates as well; an unfed lane keeps its D. All sources are read
before anything is written, so D may be A. A write to gz is discarded. A k register takes the value of the lowest participating lane (R95), and keeps D where that
lane is unfed: that is the model's reading (log 87). -/
def Obligations.ShuffleResults : Prop :=
  ∀ (i : Instr) (f : FmtA) (src : Nat → Nat → Nat → Nat → Nat),
    (i, src) ∈ [(.shfli f, fun w b _ B => b + B % w), (.shflu f, fun w b k B => b + (k + (w - B % w)) % w),
      (.shfld f, fun w b k B => b + (k + B) % w), (.shflx f, fun w b k B => b + (k ^^^ (B % w)))] →
    (∀ st, legal st i = true → (f.ty = 0 ∨ f.ty = 10) ∧ f.c.toNat ≤ 5 ∧ codeOk (nreg f.ty) f.d = true)
    ∧ ∃ g, aluOf i = some g ∧ ∀ (r : RF) (ls : List Nat), f.ty = 0 ∨ f.ty = 10 → f.c.toNat ≤ 5 → codeOk (nreg f.ty) f.d = true → ls.Nodup → (∀ l ∈ ls, l < 32) →
      let w := 2 ^ f.c.toNat
      let fed := fun (l : Nat) => src w (l - l % w) (l % w) (r.read1 f.b l).toNat
      let new := fun (l : Nat) => if fed l ∈ ls then r.readD (nreg f.ty) f.a (fed l) else r.readD (nreg f.ty) f.d l
      (isG f.d = true → ∀ l ∈ ls, fed l / w = l / w ∧ (g r ls).readD (nreg f.ty) f.d l = new l)
      ∧ (isK f.d = true → ∀ l ∈ ls.head?, (g r ls).readD (nreg f.ty) f.d l = new l)
      ∧ (isGz f.d = true → g r ls = r)

/-- R343 to R345: the votes over each lane group, the ballot, the classes of MATCHANY and MATCHALL with their fields, and REDUX of an
integer type: the exact sum, the smallest, the largest, of the participating lanes of the group, all of them (reduction), those up
to L (inclusive scan), those below L (exclusive scan, with the operation's identity). -/
def Obligations.LaneResults : Prop :=
  ((∀ f : FmtA, f.c.toNat ≤ 5 →
     ∀ (r : RF) (ls : List Nat), ls.Nodup → (∀ l ∈ ls, l < 32) → ∀ l ∈ ls, f.d.toNat % 8 < 7 →
       ((rfVall f r ls).readP (f.d.toNat % 8) l = true ↔
         ∀ j ∈ ls, j / 2 ^ f.c.toNat = l / 2 ^ f.c.toNat → r.readP (f.a.toNat % 8) j = true)
       ∧ ((rfVany f r ls).readP (f.d.toNat % 8) l = true ↔
         ∃ j ∈ ls, j / 2 ^ f.c.toNat = l / 2 ^ f.c.toNat ∧ r.readP (f.a.toNat % 8) j = true))
   ∧ (∀ (f : FmtA) (r : RF) (ls : List Nat), codeOk 1 f.d = true → isG f.d = true → ls.Nodup → (∀ l ∈ ls, l < 32) →
     ∀ l ∈ ls, ∀ j, j < 32 →
       bitAt ((rfVbal f r ls).read1 f.d l) j = (decide (j ∈ ls) && r.readP (f.a.toNat % 8) j))
   ∧ (∀ (f : FmtA) (r : RF) (ls : List Nat), codeOk 1 f.d = true → isG f.d = true → ls.Pairwise (· < ·) → (∀ l ∈ ls, l < 32) →
     ∀ l ∈ ls,
       let A := fun j => r.readD (nreg f.ty) f.a j
       let any := (rfMatchany f r ls).read1 f.d l
       let all := (rfMatchall f r ls).read1 f.d l
       let first := fun j => ls.all fun k => A k != A j || j ≤ k
       (bitAt any 31 = first l)
       ∧ fieldN any 16 6 = ls.countP (fun j => A j == A l)
       ∧ fieldN any 0 5 = ls.countP (fun j => A j == A l && j < l)
       ∧ (∃ d ∈ ls, first d = true ∧ A d = A l ∧ fieldN any 8 5 = d ∧ fieldN all 0 5 = ls.countP (fun j => first j && j < d))
       ∧ fieldN any 22 9 = 0 ∧ fieldN any 13 3 = 0 ∧ fieldN any 5 3 = 0
       ∧ fieldN all 16 6 = ls.countP first ∧ bitAt all 31 = ls.all (fun j => A j == A l) ∧ fieldN all 22 9 = 0 ∧ fieldN all 5 11 = 0)
   ∧ (∀ f : FmtA, codeOk (nreg f.ty) f.d = true → isG f.d = true → f.c.toNat ≤ 5 → f.ty = 1 ∨ f.ty = 2 ∨ f.ty = 11 ∨ f.ty = 12 →
     ∀ (r : RF) (ls : List Nat), ls.Pairwise (· < ·) → (∀ l ∈ ls, l < 32) → ∀ l ∈ ls,
       let A := fun j => intOf f.ty (elem f.ty (r.readD (nreg f.ty) f.a j) 0)
       let D := (rfRedux f r ls).readD (nreg f.ty) f.d l
       let mode := f.b.toNat / 16 % 4
       let P := ls.filter fun j => j / 2 ^ f.c.toNat == l / 2 ^ f.c.toNat && (mode == 0 || (mode == 1 && j ≤ l) || (mode == 2 && j < l))
       mode < 3 →
       (f.b.toNat % 16 = 0 → f.clp = 0 → (elem f.ty D 0 : Int) = (P.map A).sum % 2 ^ elemW f.ty)
       ∧ (f.b.toNat % 16 = 0 → f.clp = 3 → intOf f.ty (elem f.ty D 0) = max (intLo f.ty) (min (intHi f.ty) (P.map A).sum))
       ∧ (f.b.toNat % 16 = 1 → f.clp = 0 → (∀ j ∈ P, intOf f.ty (elem f.ty D 0) ≤ A j) ∧ (P = [] → intOf f.ty (elem f.ty D 0) = intHi f.ty)
           ∧ (P ≠ [] → ∃ j ∈ P, intOf f.ty (elem f.ty D 0) = A j))
       ∧ (f.b.toNat % 16 = 2 → f.clp = 0 → (∀ j ∈ P, A j ≤ intOf f.ty (elem f.ty D 0)) ∧ (P = [] → intOf f.ty (elem f.ty D 0) = intLo f.ty)
           ∧ (P ≠ [] → ∃ j ∈ P, intOf f.ty (elem f.ty D 0) = A j))))

/-- R118 and R119, in f32, bf16 and f16: a finite value whose rounding does not overflow becomes, to nearest even, the nearest finite
value of the format, the even code of two that are equally near; to nearest away, the one farther from zero; towards zero, up and down, the
last value of the format on that side. A value of the format becomes its own code.
R333 and R98: FADD, FSUB, FMUL and FFMA, and their immediate forms, compute each element exactly, scale it by 2^s, round it once with
RNE into the element's format and clamp it; operands and result are flushed under FZ = 0xE (R327); infinity − infinity,
0 × infinity and a NaN operand give the canonical NaN.
R334: FMIN and FMAX, and their immediate forms, take the smaller or the larger value, −0 below +0; a NaN yields the other operand.
R340: FRND rounds the scaled value to an integer in its mode, then clamps it; a zero keeps the sign, infinities pass, a NaN is canonical.
R338 and R339: CVT to a floating type takes the source's value, or the element that it selects, scales it exactly and rounds it once in its
mode; CVT of an f32 to an integer type rounds under its mode, and clamps to the type's range; a NaN gives zero.
The symmetries of R336: FCOS of −x is FCOS of x, FSIN and FTANH of −x are the negations. -/
def Obligations.FloatResults : Prop :=
  (∀ t ∈ [fp32, bf16, fp16],
     (∀ (mode : Nat) (n : Bool) (m : Nat) (e : Int) (c' : Nat) (n1 n2 : Bool) (m1 m2 : Nat) (e1 e2 q : Int), 2 ≤ mode → mode ≤ 5 →
         t.decode (t.encode mode (.fin n m e)) = .fin n1 m1 e1 → c' < 2 ^ t.width → t.decode c' = .fin n2 m2 e2 →
         q ≤ e → q ≤ e1 → q ≤ e2 →
         let v := finInt n m e q
         let v1 := finInt n1 m1 e1 q
         let v2 := finInt n2 m2 e2 q
         (mode = 2 → (v1 - v).natAbs ≤ (v2 - v).natAbs ∧ ((v1 - v).natAbs = (v2 - v).natAbs → v2.natAbs ≤ v1.natAbs))
         ∧ (mode = 3 → 0 ≤ v1 * v ∧ v1.natAbs ≤ v.natAbs ∧ ¬(0 ≤ v2 * v ∧ v1.natAbs < v2.natAbs ∧ v2.natAbs ≤ v.natAbs))
         ∧ (mode = 4 → v ≤ v1 ∧ ¬(v ≤ v2 ∧ v2 < v1))
         ∧ (mode = 5 → v1 ≤ v ∧ ¬(v1 < v2 ∧ v2 ≤ v))) ∧
     (∀ c, c < 2 ^ t.width → t.decode c ≠ .nan → t.encode 1 (t.decode c) = c)
     ∧ (∀ (n : Bool) (m : Nat) (e : Int) (c' : Nat) (n1 n2 : Bool) (m1 m2 : Nat) (e1 e2 q : Int),
         t.decode (t.encode 1 (.fin n m e)) = .fin n1 m1 e1 → c' < 2 ^ t.width → t.decode c' = .fin n2 m2 e2 →
         q ≤ e → q ≤ e1 → q ≤ e2 →
         (finInt n1 m1 e1 q - finInt n m e q).natAbs ≤ (finInt n2 m2 e2 q - finInt n m e q).natAbs
         ∧ ((finInt n1 m1 e1 q - finInt n m e q).natAbs = (finInt n2 m2 e2 q - finInt n m e q).natAbs →
             finInt n1 m1 e1 q ≠ finInt n2 m2 e2 q → t.encode 1 (.fin n m e) % 2 = 0)))
  ∧
  ((∀ f : FmtA, codeOk 1 f.d = true → f.ty = 3 ∨ f.ty = 4 ∨ f.ty = 5 →
     let t := fmtOf f.ty
     let z := flushOf f.c
     let A := fun (r : RF) (l e : Nat) => t.decode (t.flush z (elem f.ty (srcA f r l) e))
     let B := fun (r : RF) (l e : Nat) => t.decode (t.flush z (elem f.ty (srcB f r l) e))
     let is := fun (g : RF → List Nat → RF) (flush : Bool) (v : RF → Nat → Nat → FpVal) =>
       ∃ u : RF → Nat → DWord, delivers g 1 f.d u ∧ ∀ r l e, e < elemN f.ty →
         elem f.ty (u r l) e = t.clamp f.clp.toNat (t.flush flush (t.encode 1 ((v r l e).scale f.sc.toInt)))
     is (rfFadd f) z (fun r l e => (A r l e).add (B r l e))
     ∧ is (rfFsub f) z (fun r l e => (A r l e).add (B r l e).flip)
     ∧ is (rfFmul f) z (fun r l e => (A r l e).mul (B r l e))
     ∧ is (rfFmin f) z (fun r l e => FpVal.pick false (A r l e) (B r l e))
     ∧ is (rfFmax f) z (fun r l e => FpVal.pick true (A r l e) (B r l e))
     ∧ is (rfFfma f) false (fun r l e => ((t.decode (elem f.ty (srcA f r l) e)).mul (t.decode (elem f.ty (srcB f r l) e))).add
         (t.decode (elem f.ty (srcC f r l) e))))
   ∧ (∀ f : FmtB, codeOk 1 f.d = true → f.ty = 3 ∨ f.ty = 4 ∨ f.ty = 5 →
     let t := fmtOf f.ty
     let A := fun (r : RF) (l e : Nat) => t.decode (elem f.ty (srcI f r l) e)
     let I := fun (e : Nat) => t.decode (elem f.ty (immOf f) e)
     let is := fun (g : RF → List Nat → RF) (v : RF → Nat → Nat → FpVal) =>
       ∃ u : RF → Nat → DWord, delivers g 1 f.d u ∧ ∀ r l e, e < elemN f.ty →
         elem f.ty (u r l) e = t.clamp f.clp.toNat (t.encode 1 ((v r l e).scale f.sc.toInt))
     is (rfFaddImm f) (fun r l e => (A r l e).add (I e))
     ∧ is (rfFsubImm f) (fun r l e => (A r l e).add (I e).flip)
     ∧ is (rfFmulImm f) (fun r l e => (A r l e).mul (I e))
     ∧ is (rfFminImm f) (fun r l e => FpVal.pick false (A r l e) (I e))
     ∧ is (rfFmaxImm f) (fun r l e => FpVal.pick true (A r l e) (I e))
     ∧ is (rfFfmaImm f) (fun r l e => ((A r l e).mul (I e)).add (t.decode (elem f.ty (r.readD 1 f.d l) e))))
   ∧ (∀ x : FpVal, ∀ n : Bool, ∀ m : Nat, ∀ e : Int,
     FpVal.nan.add x = .nan ∧ x.add .nan = .nan ∧ FpVal.nan.mul x = .nan ∧ x.mul .nan = .nan
     ∧ (FpVal.inf n).add (.inf !n) = .nan ∧ (FpVal.inf n).mul (.fin n 0 e) = .nan ∧ (FpVal.fin n 0 e).mul (.inf n) = .nan
     ∧ (FpVal.fin false m e).add (.fin true m e) = .fin false 0 0
     ∧ FpVal.pick n .nan x = x ∧ FpVal.pick n x .nan = x ∧ FpVal.pick false (.fin true 0 e) (.fin false 0 e) = .fin true 0 e
     ∧ FpVal.pick true (.fin true 0 e) (.fin false 0 e) = .fin false 0 e ∧ FpVal.pick false (.fin false 0 e) (.fin true 0 e) = .fin true 0 e
     ∧ FpVal.pick true (.fin false 0 e) (.fin true 0 e) = .fin false 0 e
     ∧ (x ≠ .nan → FpVal.pick false (.inf true) x = .inf true ∧ FpVal.pick false x (.inf true) = .inf true
       ∧ FpVal.pick true (.inf true) x = x ∧ FpVal.pick true x (.inf true) = x
       ∧ FpVal.pick true (.inf false) x = .inf false ∧ FpVal.pick true x (.inf false) = .inf false
       ∧ FpVal.pick false (.inf false) x = x ∧ FpVal.pick false x (.inf false) = x))
   ∧ (∀ (na nb : Bool) (ma mb : Nat) (ea eb q : Int), q ≤ ea → q ≤ eb → finInt na ma ea q < finInt nb mb eb q →
     let a := FpVal.fin na ma ea
     let b := FpVal.fin nb mb eb
     FpVal.pick false a b = a ∧ FpVal.pick false b a = a ∧ FpVal.pick true a b = b ∧ FpVal.pick true b a = b))
  ∧
  (∀ f : FmtA, codeOk 1 f.d = true → f.ty = 3 ∨ f.ty = 4 ∨ f.ty = 5 → fieldN f.c 0 4 ≤ 5 →
     let t := fmtOf f.ty
     let z := flushOf f.c
     let mode := fieldN f.c 0 4
     ∃ u : RF → Nat → DWord, delivers (rfFrnd f) 1 f.d u ∧ ∀ r l e, e < elemN f.ty →
       ∃ y : FpVal, elem f.ty (u r l) e = t.clamp f.clp.toNat (t.flush z (t.encode (max 1 mode) y))
         ∧ (let x := (t.decode (t.flush z (elem f.ty (srcA f r l) e))).scale f.sc.toInt
            (x = .nan → y = .nan) ∧ (∀ n, x = .inf n → y = .inf n)
            ∧ (∀ n m (ex : Int), x = .fin n m ex → 0 ≤ ex → y = x)
            ∧ (∀ n m (ex : Int), x = .fin n m ex → ex < 0 →
              let one : Int := 2 ^ (-ex).toNat
              let v := finInt n m ex ex
              ∃ k : Nat, y = .fin n k 0
                ∧ (let i : Int := if n then -k else k
                   (mode = 3 → k * one ≤ v.natAbs ∧ v.natAbs < (k + 1) * one)
                   ∧ (mode = 4 → (i - 1) * one < v ∧ v ≤ i * one)
                   ∧ (mode = 5 → i * one ≤ v ∧ v < (i + 1) * one)
                   ∧ (mode ≤ 2 → 2 * (i * one - v).natAbs ≤ one)
                   ∧ (mode ≤ 1 → 2 * (i * one - v).natAbs = one → k % 2 = 0)
                   ∧ (mode = 2 → 2 * (i * one - v).natAbs = one → v.natAbs < k * one)))))
  ∧
  (∀ f : FmtA, codeOk 1 f.d = true → f.ty = 3 ∨ f.ty = 4 ∨ f.ty = 5 → (cvtRnd f).toNat ≤ 5 →
     let s := cvtSrc f
     let mode := max 1 (cvtRnd f).toNat
     let A := fun (r : RF) (l : Nat) => r.src s f.a f.na f.aa l
     let B := fun (r : RF) (l : Nat) => r.src s f.b f.nb f.ab l
     ∃ u : RF → Nat → DWord, delivers (rfCvt f) 1 f.d u ∧ ∀ r l,
       let is := fun (e : Nat) (mode : Nat) (v : FpVal) =>
         elem f.ty (u r l) e = (fmtOf f.ty).clamp f.clp.toNat ((fmtOf f.ty).encode mode (v.scale f.sc.toInt))
       (f.ty = 3 → s = 4 ∨ s = 5 → is 0 1 ((fmtOf s).decode (elem s (A r l) f.nb.toNat)))
       ∧ (f.ty = 3 → s = 3 → is 0 1 (fp32.decode (elem 3 (A r l) 0)))
       ∧ (f.ty = 3 → s = 1 ∨ s = 2 ∨ s = 11 ∨ s = 12 →
         let k := intOf s (elem s (A r l) 0)
         is 0 mode (.fin (decide (k < 0)) k.natAbs 0))
       ∧ (f.ty = 4 ∨ f.ty = 5 → s = 3 →
         is 0 mode (fp32.decode (elem 3 (A r l) 0)) ∧ is 1 mode (fp32.decode (elem 3 (B r l) 0)))
       ∧ (f.ty = 4 ∧ s = 5 ∨ f.ty = 5 ∧ s = 4 →
         is 0 mode ((fmtOf s).decode (elem s (A r l) 0)) ∧ is 1 mode ((fmtOf s).decode (elem s (A r l) 1))))
  ∧
  (∀ f : FmtA, codeOk 1 f.d = true → f.ty = 3 → f.sc = 0 → f.clp = 0 →
     ∃ u : Nat → RF → Nat → DWord, delivers (rfFsin f) 1 f.d (u 5) ∧ delivers (rfFcos f) 1 f.d (u 6) ∧ delivers (rfFtanh f) 1 f.d (u 7)
       ∧ ∀ r l r' l', let x := fp32.flush (flushOf f.c) (elem 3 (srcA f r l) 0)
         let y := fp32.flush (flushOf f.c) (elem 3 (srcA f r' l') 0)
         (y + 2 ^ 31) % 2 ^ 32 = x → fp32.decode x ≠ .nan →
         u 6 r' l' = u 6 r l ∧ ((∀ n, fp32.decode x ≠ .inf n) → u 5 r' l' = u 5 r l ^^^ 0x80000000)
         ∧ u 7 r' l' = u 7 r l ^^^ 0x80000000)
  ∧
  (∀ f : FmtA, codeOk (nreg f.ty) f.d = true → f.ty = 1 ∨ f.ty = 2 ∨ f.ty = 11 ∨ f.ty = 12 → cvtSrc f = 3 → (cvtRnd f).toNat ≤ 5 →
     ∃ u : RF → Nat → DWord, delivers (rfCvt f) (nreg f.ty) f.d u ∧ ∀ r l,
       let x := fp32.decode (elem 3 (r.src 3 f.a f.na f.aa l) 0)
       let got := intOf f.ty (elem f.ty (u r l) 0)
       (x = .nan → got = 0)
       ∧ (∀ n, x = .inf n → got = if n then intLo f.ty else intHi f.ty)
       ∧ (∀ n m (e : Int), x = .fin n m e →
         let q := min e 0
         let one : Int := 2 ^ (-q).toNat
         let v := finInt n m e q
         ∃ k : Int, got = max (intLo f.ty) (min (intHi f.ty) k)
           ∧ ((cvtRnd f).toNat = 3 → k.natAbs * one ≤ v.natAbs ∧ v.natAbs < (k.natAbs + 1) * one ∧ 0 ≤ k * v)
           ∧ ((cvtRnd f).toNat = 4 → (k - 1) * one < v ∧ v ≤ k * one)
           ∧ ((cvtRnd f).toNat = 5 → k * one ≤ v ∧ v < (k + 1) * one)
           ∧ ((cvtRnd f).toNat ≤ 2 → 2 * (k * one - v).natAbs ≤ one)
           ∧ ((cvtRnd f).toNat ≤ 1 → 2 * (k * one - v).natAbs = one → k % 2 = 0)
           ∧ ((cvtRnd f).toNat = 2 → 2 * (k * one - v).natAbs = one → v.natAbs < k.natAbs * one)))

/-- R337: the special operands of the special functions, ahead of the bounds of R336: a NaN gives the canonical NaN; the infinities, the
zeros and the negative values give what the table says; FLOG2 of 1 is +0; FRCP of a subnormal whose reciprocal exceeds the
largest finite f32 (a significand of at most 2^21) is infinity of its sign. `x` is the operand after the modifiers and the flush; no scale and no clamp
is named. -/
def Obligations.FunctionResults : Prop :=
  ∀ f : FmtA, codeOk 1 f.d = true → f.ty = 3 → f.sc = 0 → f.clp = 0 →
    ∃ u : Nat → RF → Nat → DWord,
      delivers (rfFrcp f) 1 f.d (u 0) ∧ delivers (rfFrsq f) 1 f.d (u 1) ∧ delivers (rfFsqrt f) 1 f.d (u 2)
      ∧ delivers (rfFexp2 f) 1 f.d (u 3) ∧ delivers (rfFlog2 f) 1 f.d (u 4) ∧ delivers (rfFsin f) 1 f.d (u 5)
      ∧ delivers (rfFcos f) 1 f.d (u 6) ∧ delivers (rfFtanh f) 1 f.d (u 7)
      ∧ ∀ r l, let x := fp32.flush (flushOf f.c) (elem 3 (srcA f r l) 0)
        let gives := fun (l8 : List Nat) => ∀ n v, (n, v) ∈ (List.range 8).zip l8 → (u n r l).toNat = v
        (fp32.decode x = .nan → ∀ n, n < 8 → u n r l = 0x7FC00000)
        ∧ (x = 0xFF800000 → gives [0x80000000, 0x7FC00000, 0x7FC00000, 0, 0x7FC00000, 0x7FC00000, 0x7FC00000, 0xBF800000])
        ∧ (x = 0x80000000 → gives [0xFF800000, 0xFF800000, 0x80000000, 0x3F800000, 0xFF800000, 0x80000000, 0x3F800000, 0x80000000])
        ∧ (x = 0 → gives [0x7F800000, 0x7F800000, 0, 0x3F800000, 0xFF800000, 0, 0x3F800000, 0])
        ∧ (x = 0x7F800000 → gives [0, 0, 0x7F800000, 0x7F800000, 0x7F800000, 0x7FC00000, 0x7FC00000, 0x3F800000])
        ∧ (x = 0x3F800000 → u 4 r l = 0)
        ∧ (0x80000000 < x → x < 0xFF800000 → u 1 r l = 0x7FC00000 ∧ u 2 r l = 0x7FC00000 ∧ u 4 r l = 0x7FC00000)
        ∧ (0 < x % 2 ^ 31 → x % 2 ^ 31 ≤ 2 ^ 21 → (u 0 r l).toNat = x / 2 ^ 31 * 2 ^ 31 + 0x7F800000)

/-! ## Memory accesses -/

/-- LD, ST, STE and TAGCLR (R300, R302, R303) complete for a ready gang whose acting lanes pass their checks (R297): one request
for each lane, or one for the whole gang on the scalar path, is on its way to its home (two of 64 bits for a 128-bit access to a peer or
the host); nothing of a memory or of a scratchpad changes until it is performed there; V of a load is pending in the slices that act.
With no acting lane they do nothing.
A memory instruction of a ready gang whose first failing lane, in increasing lane order, fails its checks raises that lane's
fault at the instruction, once no reply to the slices that take it is awaited (R234, R297): nothing is sent,
no register, no byte of a memory and no other slice changes. That the fault is taken in that lane's slice alone is the model's reading (log 75);
an instruction that runs once on the scalar path takes it in every acting slice, since no fault there differs from lane to lane (R95). -/
def Obligations.LoadsStoresComplete : Prop :=
  ((∀ (s : State) (c w j : Nat) (f : FmtM) (i : Instr), i ∈ [.ld f, .st f, .ste f, .tagclr f] →
     s.gangReady c w j i = true → s.acts c w j i = false → exec i s = .next (s.gangDone c w j i s))
   ∧ (∀ (s : State) (c w j : Nat) (f : FmtM) (i : Instr) (l : List LaneAcc), i ∈ [.ld f, .st f, .ste f, .tagclr f] →
     let x := s.gangIssue c w j i
     let load := i == .ld f
     s.gangReady c w j i = true → s.acts c w j i = true →
     s.checkLanes x (memLanes f x.acting) (s.checkLane x f (if load then .read else .write)) = .ok l →
     ∃ t new, exec i s = .next (s.gangDone c w j i t)
       ∧ t.fab.reqs.map (fun r => { r with tracked := false, sent := none, left := false })
         = (s.fab.reqs ++ new).map (fun r => { r with tracked := false, sent := none, left := false })
       ∧ (∀ r ∈ new, r.done = false ∧ r.kind = (if load then .load else .store) ∧ r.uid = (s.warp c w).uid
           ∧ r.op = (if i = .ste f then 1 else if i = .tagclr f then 2 else 0)
           ∧ ∃ a ∈ l, r.va = a.va ∧ r.home = { a.home with addr := a.home.addr + 8 * r.sec } ∧ r.len * (r.sec + 1) ≤ accBytes f
             ∧ (r.len < accBytes f → a.home.loc = 1 ∨ a.home.loc = 2)
             ∧ (load = false → r.data.setWidth 64 =
                 (((s.warp c w).rf.readQ (nregSz f.sz) f.v a.lane) >>> (64 * r.sec)).setWidth 64)
             ∧ (load = true → r.parts.map Part.lane = [a.lane]))
       ∧ (∀ a ∈ l, ∃ r ∈ new, r.va = a.va ∧ r.home = a.home)
       ∧ (load = true → isG f.v = true → ∀ k ∈ slicesOf x.acting, ∀ n, n < nregSz f.sz →
           Sparse.get false (t.warp c w).pg (8 * (f.v.toNat + n) + k) = true)
       ∧ (load = true → isK f.v = true → ∀ n, n < nregSz f.sz → Sparse.get false (t.warp c w).pk (kIdx f.v + n) = true)
       ∧ t.mem = s.mem ∧ (∀ d, (t.core d).scr = (s.core d).scr ∧ (t.core d).tags = (s.core d).tags)
       ∧ (∀ d v, (t.warp d v).rf = (s.warp d v).rf)))
  ∧
  (∀ (s : State) (c w j : Nat) (f : FmtM) (i : Instr) (l : Nat) (code : BitVec 8) (fva : DWord),
     i ∈ [.ld f, .st f, .ste f, .tagclr f, .atomAdd f, .atomMin f, .atomMax f, .atomAnd f, .atomOr f, .atomXor f, .atomExch f, .atomCas f] →
     let x := s.gangIssue c w j i
     let lanes := if i = .ld f ∨ i = .st f ∨ i = .ste f ∨ i = .tagclr f then memLanes f x.acting else atomLanes f x.acting
     let want := if i = .ld f then .read else if i = .st f ∨ i = .ste f ∨ i = .tagclr f then .write else .update
     let once := if i = .ld f ∨ i = .st f ∨ i = .ste f ∨ i = .tagclr f then memOnce f else atomOnce f
     let at_ := if once then actingSlices x.acting x.slices else [l / 4]
     s.gangReady c w j i = true → l ∈ lanes → (∀ m ∈ lanes, m < l → ∃ a, s.checkLane x f want m = .ok a ∧ (eSA a.leaf = false ∨ a.home.loc ≠ 2)) →
     lanes.Pairwise (· < ·) → s.checkLane x f want l = .fault code fva → s.awaits (s.warp c w).uid at_ = false →
     ∃ t : State, exec i s = .next t
       ∧ (∀ k ∈ at_, ((t.warp c w).slice k) = ((s.warp c w).slice k).fault code fva x.opw)
       ∧ (∀ k, k ∉ at_ → (t.warp c w).slice k = (s.warp c w).slice k)
       ∧ (t.warp c w).rf = (s.warp c w).rf ∧ (∀ d v, d ≠ c ∨ v ≠ w → t.warp d v = s.warp d v)
       ∧ t.fab = s.fab ∧ t.mem = s.mem ∧ (∀ d, (t.core d).scr = (s.core d).scr))

/-- LDF, LDFK and STF (R86, R301, R303): where one lane acts and its word's or doubleword's tags are as its condition asks, nothing waits
at a bank, nothing must be performed before it, and before a release nothing must still leave the core (R180; log 124), the access is served at once: LDF and LDFK deliver the data, LDF leaves the tags empty, LDFK
as they are, STF writes the data and leaves the tags full; every slice of the gang goes on. -/
def Obligations.FullEmptyComplete : Prop :=
  ∀ (s : State) (c w j lane : Nat) (f : FmtM) (i : Instr) (a : LaneAcc), i ∈ [.ldf f, .ldfk f, .stf f] →
    let x := s.gangIssue c w j i
    let full := !(i == .stf f)
    let len := if f.sz = 3 then 8 else 4
    let k := s.core a.home.core
    let words := tagWords a.home.addr (f.sz == 3)
    s.gangReady c w j i = true → x.again = false → memLanes f x.acting = [lane] →
    bitAt ((s.warp c w).slice (lane / 4)).served (lane % 4) = false → (∀ n ∈ x.slices, ((s.warp c w).slice n).park ≠ .fullEmpty) →
    s.checkLanes x [lane] (s.checkLane x f (if full then .read else .write)) = .ok [a] →
    (s.orderAfter (s.request x f (if full then .load else .store) a x.acting 0)).any s.awaited = false →
    (s.narrowRelease (s.request x f (if full then .load else .store) a x.acting 0) && s.unleft (s.warp c w).uid (maskOf 8 (slicesOf x.acting))) = false →
    (∀ d, (s.core d).waiters = []) → (∀ n ∈ words, k.scrTag n = full) → k.scrPoisonAt a.home.addr len = none → k.bars = [] →
    a.home.addr + len ≤ k.scrSize → lane < 32 → a.lane = lane →
    ∃ t : State, exec i s = .next (s.gangGoes c w j i t (x.slices.map fun n => (n, x.next)))
      ∧ (full = true → (t.warp c w).rf = (s.warp c w).rf.writeD (len / 4) f.v lane (BitVec.ofNat 64 (k.scrNat a.home.addr len)))
      ∧ (full = false → (t.warp c w).rf = (s.warp c w).rf)
      ∧ (∀ n ∈ words, (t.core a.home.core).scrTag n = if i = .ldfk f then true else !full)
      ∧ (∀ b, b < k.scrSize → (t.core a.home.core).scrByte b =
          if full = false ∧ a.home.addr ≤ b ∧ b < a.home.addr + len
          then BitVec.ofNat 8 (((s.warp c w).rf.readD (nregSz f.sz) f.v lane).toNat / 256 ^ (b - a.home.addr)) else k.scrByte b)
      ∧ (∀ loc b, t.mem.byte loc b = s.mem.byte loc b)

/-- HOME_ACCESS_PERFORM (R180, R58, R296, R303): a load or a store that may be performed, that has a way to its home and need not cross a link
first, is performed at its home. A store writes the
bytes that it computes, there and nowhere else: its data, the unit of its element with the other elements kept, or the bits of its mask; a load changes no byte and
fixes the value of its reply, or of an LDA16's lane (R190, R306). An access that a link has carried to a peer is complete only when the peer's
answer is back (R180). The request's block still holds a warp, its home is no armed object's
header, and no memory is closed (R244, R248). When a request may be performed is the model's reading (log 124).
LOAD_WRITEBACK (R99): once every request of a load has been performed, without poison, its data is written to V in the lanes that
await it, a k register receiving the lowest lane's (R95), V is no longer pending in their slices, and the requests are gone. -/
def Obligations.HomeAccess : Prop :=
  ((∀ (s : State) (r : Req), s.findReq r.id = some r → r.done = false → r.ans = none → s.mayPerform r = true → s.waveHolds r.home r.len = false →
     s.cutOff r = false → s.unsent r = false → ((s.core r.core).block r.block).warps ≠ [] → s.openMem = true → (∀ o ∈ s.fab.objs, o.2.armed = false) →
     r.home.loc < 3 → (r.kind = .store → r.op = 0) →
     ∃ t : State, exec (.homeAccessPerform r.id) s = .next t
       ∧ (r.kind = .store → ∀ loc b, loc < 3 → t.mem.byte loc b =
           if loc = r.home.loc ∧ r.home.addr ≤ b ∧ b < r.home.addr + (s.storeBytes r).length
           then (s.storeBytes r).getD (b - r.home.addr) 0 else s.mem.byte loc b)
       ∧ (r.kind = .load → (∀ loc b, loc < 3 → t.mem.byte loc b = s.mem.byte loc b)
           ∧ ∀ q, t.findReq r.id = some q → r.home.loc ≠ 1 →
             q.done = true ∧ q.replies = [BitVec.ofNat 128 (r.pick (s.mem.readNat r.home.loc r.home.addr r.len))])
       ∧ (r.kind = .store ∨ r.kind = .load → r.home.loc = 1 → r.sent.isSome = true →
           ∃ q, t.findReq r.id = some q ∧ q.done = false ∧ q.ans.isSome = true)
       ∧ (r.kind = .load → r.home.loc ≠ 1 → (t.core r.core).lda = (s.core r.core).lda.map fun d =>
           d.took r (BitVec.ofNat 128 (r.pick (s.mem.readNat r.home.loc r.home.addr r.len))) (s.mem.poisoned r.home.loc r.home.addr r.len))
       ∧ (r.kind = .store ∨ r.kind = .load → ∀ d, (t.core d).scr = (s.core d).scr ∧ ∀ v, (t.warp d v).rf = (s.warp d v).rf))
   ∧ (∀ (s : State) (r : Req), s.findReq r.id = some r → r.kind = .store → r.op = 0 → r.done = false → r.ans = none → s.mayPerform r = true → r.home.loc = 3 →
     ((s.core r.core).block r.block).warps ≠ [] → (s.core r.home.core).bars = [] →
     r.home.addr + (s.storeBytes r).length ≤ (s.core r.home.core).scrSize →
     ∃ t : State, exec (.homeAccessPerform r.id) s = .next t ∧ t.mem = s.mem
       ∧ (∀ b, b < (s.core r.home.core).scrSize → (t.core r.home.core).scrByte b =
           if r.home.addr ≤ b ∧ b < r.home.addr + (s.storeBytes r).length
           then (s.storeBytes r).getD (b - r.home.addr) 0 else (s.core r.home.core).scrByte b)
       ∧ (∀ d, d ≠ r.home.core → (t.core d).scr = (s.core d).scr))
   ∧ (∀ (s : State) (r : Req), (r.mask = 0 → r.width = 0 → s.storeBytes r = leBytes r.len r.data.toNat)
     ∧ (r.mask ≠ 0 → r.len = 16 → ∀ b, b < 128 → bitAt (BitVec.ofNat 128 (leNat (s.storeBytes r))) b =
         if bitAt r.mask b then bitAt r.data b else bitAt (BitVec.ofNat 128 (s.homeNat r.home 16)) b)
     ∧ (r.mask = 0 → r.width ≠ 0 → r.bit + r.width ≤ 64 → ∀ b, b < 64 → bitAt (BitVec.ofNat 64 (leNat (s.storeBytes r))) b =
         if r.bit ≤ b ∧ b < r.bit + r.width then bitAt r.data (b - r.bit) else bitAt (BitVec.ofNat 64 (s.homeNat r.home 8)) b)))
  ∧
  (∀ (s : State) (r : Req) (p : Part), s.findReq r.id = some r → r.kind = .load ∨ r.kind = .atom →
     let rs := s.fab.reqs.filter fun q => q.inst == r.inst && q.uid == r.uid && q.kind == r.kind
     (∀ q ∈ rs, q.done = true ∧ q.pois = false) → r.parts.find? r.wants = some p →
     let lanes := if isK p.v then (replyLanes rs).take 1 else replyLanes rs
     ∃ t : State, exec (.loadWriteback r.id) s = .next t
       ∧ (t.warp r.core r.warp).rf = lanes.foldl (fun rf l => rf.writeQ r.n p.v l (replyOf rs l)) (s.warp r.core r.warp).rf
       ∧ (∀ q ∈ rs, q ∉ t.fab.reqs) ∧ (∀ q ∈ s.fab.reqs, q ∉ rs → q ∈ t.fab.reqs)
       ∧ (isG p.v = true → ∀ q ∈ rs, ∀ k ∈ bitsOf q.slices 8, ∀ n, n < r.n →
           Sparse.get false (t.warp r.core r.warp).pg (8 * (p.v.toNat + n) + k) = false)
       ∧ t.mem = s.mem ∧ (∀ d v, d ≠ r.core ∨ v ≠ r.warp → t.warp d v = s.warp d v))

/-- PREF, IPREF and CCTL (R307 to R309) complete for a ready gang, PREF and IPREF once no lane's translation has to be walked for (R34): they change no byte of a memory, no scratchpad, no register. A local line that
PREF's page keeps is in L2; IPREF's line is cached or being filled; CCTL.wb leaves its local lines clean, CCTL.evict drops
them unless a lease pins them, CCTL.pdrop discards the peer-read copy. The ordered forms act once nothing that precedes them
is on its way.
FENCE, FENCEMIR and ISYNC (R185, R195, R196, R310 to R312) complete for a ready gang. After a FENCE every access of an acting slice that is not yet
performed and that the fence's order covers comes before every later access (or every later store, for a release) of the slice,
or is tracked by the core for a narrow release, and every later store of the slice is a fence-built release (R181); an acquire at system scope waits for its loads and then discards the peer-read
cache. FENCEMIR has no effect of its own once every mirror write is acknowledged and mirroring is not broken. ISYNC discards the core's
cached code and the fills on their way. -/
def Obligations.CacheAndFencesComplete : Prop :=
  (∀ (s : State) (c w j : Nat) (f : FmtM) (i : Instr), i ∈ [.pref f, .ipref f, .cctlWb f, .cctlEvict f, .cctlPdrop f] →
     let x := s.gangIssue c w j i
     s.gangReady c w j i = true →
     ((i = .pref f ∧ ∀ n ∈ memLanes f x.acting, s.hintLane x f .read n ≠ .miss)
       ∨ (i = .ipref f ∧ ∀ n ∈ memLanes f x.acting, s.hintLane x f .fetch n ≠ .miss) ∨ ((s.quiet ∨ i = .cctlPdrop f) ∧
       ∃ l, s.checkLanes x (memLanes f x.acting) (s.checkLane x { f with sz := 0 } .read) = .ok l)) →
     ∃ t : State, exec i s = .next (s.gangDone c w j i t) ∧ sameBytes s t ∧ sameScratch s t ∧ sameRegs s t ∧ t.fab.reqs = s.fab.reqs
       ∧ (∀ lane leaf pa, i = .pref f → memLanes f x.acting = [lane] →
           s.hintLane x f .read lane = .ok leaf pa →
           eLoc leaf = 0 → max (eCP leaf) f.cph.toNat ≠ 2 → (Sparse.get L2Line.absent t.mem.l2 (pa / 128)).held = true)
       ∧ (∀ lane leaf pa, i = .ipref f → memLanes f x.acting = [lane] →
           s.hintLane x f .fetch lane = .ok leaf pa →
           ((t.core c).iline (s.regionOf x).asn ((laneAddr f (s.warp c w).rf lane).toNat / 128)).isSome = true
             ∨ (t.core c).filling (s.regionOf x).asn ((laneAddr f (s.warp c w).rf lane).toNat / 128) = true)
       ∧ (∀ l, s.checkLanes x (memLanes f x.acting) (s.checkLane x { f with sz := 0 } .read) = .ok l → ∀ a ∈ l,
           let old := Sparse.get L2Line.absent s.mem.l2 (a.home.addr / 128)
           let new := Sparse.get L2Line.absent t.mem.l2 (a.home.addr / 128)
           (i = .cctlWb f → a.home.loc = 0 → new = { old with dirty := false })
           ∧ (i = .cctlEvict f → a.home.loc = 0 → new = { old with dirty := false, held := old.pin.isSome })
           ∧ (i = .cctlPdrop f → a.home.loc = 1 → Sparse.get none t.mem.peerRd (a.home.addr / 128) = none)))
  ∧
  ((∀ (s : State) (c w j : Nat) (f : FmtM), s.gangReady c w j (.fence f) = true →
     let sls := slicesOf (s.gangIssue c w j (.fence f)).acting
     let acq := f.ord = 1 ∨ f.ord = 3
     let rel := f.ord = 2 ∨ f.ord = 3
     (acq → f.sco = 3 → ∀ k ∈ sls, (s.fenced c w k (f.ord = 1) true).any s.awaited = false) →
     ∃ t : State, exec (.fence f) s = .next (s.gangDone c w j (.fence f) t) ∧ sameBytes s t ∧ sameScratch s t ∧ sameRegs s t
       ∧ (acq → f.sco = 3 → sls ≠ [] → t.mem.peerRd = [])
       ∧ (rel → ∀ k ∈ sls, (if 2 ≤ f.sco.toNat then 2 else 1) ≤ ((t.warp c w).slice k).fence)
       ∧ ∀ k ∈ sls, ∀ r ∈ s.fab.reqs, r.uid = (s.warp c w).uid → bitAt r.slices k = true → r.done = false →
         let fenced := fun (storesOnly : Bool) =>
           ∃ g ∈ t.fab.fences, g.uid = r.uid ∧ g.slice = k ∧ r.id ∈ g.before ∧ g.storesOnly = storesOnly
         (acq → r.replies? = true ∨ (f.ord = 3 ∧ 2 ≤ f.sco.toNat) → fenced false)
         ∧ (f.ord = 2 → 2 ≤ f.sco.toNat → fenced true)
         ∧ (rel → f.sco.toNat < 2 → r.id < s.nextId →
             ∃ q ∈ t.fab.reqs, q.tracked = true ∧ { q with tracked := r.tracked, left := r.left } = r))
   ∧ (∀ (s : State) (c w j : Nat) (f : FmtM), s.gangReady c w j (.fencemir f) = true →
     bitAt s.io.mircfg 62 = false → s.mirrorBusy (s.warp c w).uid (maskOf 8 (slicesOf (s.gangIssue c w j (.fencemir f)).acting)) = false →
     exec (.fencemir f) s = .next (s.gangDone c w j (.fencemir f) s))
   ∧ (∀ (s : State) (c w j : Nat) (f : FmtM), s.gangReady c w j (.isync f) = true → s.acts c w j (.isync f) = true →
     s.loadsOpen (s.warp c w).uid (slicesOf (s.gangIssue c w j (.isync f)).acting) = false →
     ∃ t : State, exec (.isync f) s = .next (s.gangDone c w j (.isync f) t) ∧ t.mem = s.mem ∧ sameRegs s t
       ∧ (t.core c).icache = [] ∧ (∀ l ∈ (t.core c).fills, l.dead = true) ∧ ∀ d, d ≠ c → t.core d = s.core d))

/-! ## Copies, rings, descriptors, leases -/

/-- XSTART and LDA16 (R305, R306, R69), the acceptance of a copy (R49, R50), and the cards from which copies start (XTSET and XQUERY, R314, R315) complete. XSTART leaves each acting lane's copy, checked, waiting for
its acceptance in increasing lane order, and a slice that acts stays until its last is accepted, while the others of the gang go on; COPY_ACCEPT
moves the first waiting copy into flight and into the job window, and lets the slices go on that wait for no other; LDA16 has a copy of 16
bytes on its way for each lane, and the load of its source: two of 64 bits at a peer or the host (R297). -/
def Obligations.CopiesStart : Prop :=
  (∀ (s : State) (c w j : Nat) (f : FmtM),
    let x := s.gangIssue c w j (.xstart f)
    let ls := s.copyLanes x f s.nextId
    s.gangReady c w j (.xstart f) = true → s.acts c w j (.xstart f) = true → s.unaccepted x = false → s.installing x = false →
    (∀ p ∈ ls, ∃ r, p.2 = .ok r) →
    ∃ t new, exec (.xstart f) s = .next (s.gangGoes c w j (.xstart f) t ((x.slices.filter fun k => !bitAt x.mask k).map fun k => (k, x.next)))
      ∧ (t.core c).apq = (s.core c).apq ++ new
      ∧ new.map (fun r => LaneCopy.ok { r with id := 0, after := [] }) = ls.map Prod.snd
      ∧ t.mem = s.mem ∧ sameRegs s t ∧ sameScratch s t)
  ∧ (∀ (s : State) (c b : Nat) (f : FmtM),
    let x := s.seqIssue c b true (.xstart f)
    let ls := s.copyLanes x f s.nextId
    s.seqReady c b true (.xstart f) = true → s.unaccepted x = false → s.installing x = false → (∀ p ∈ ls, ∃ r, p.2 = .ok r) →
    ∃ t new, exec (.xstart f) s = .next t
      ∧ (t.core c).apq = (s.core c).apq ++ new
      ∧ new.map (fun r => LaneCopy.ok { r with id := 0, after := [] }) = ls.map Prod.snd
      ∧ t.mem = s.mem ∧ sameRegs s t ∧ sameScratch s t)
  ∧ (∀ (s : State) (c : Nat) (r : CopyRec) (rest : List CopyRec), (s.core c).apq = r :: rest → (s.core c).inFlight < 128 →
    (s.ctx r.ctx).runs [.copyEngine c] = true → s.issuerRuns c r = true →
    ∃ t : State, exec (.copyAccept c) s = .next t ∧ (t.core c).apq = rest ∧ (t.core c).copies = (s.core c).copies ++ [r]
      ∧ (t.core c).window = (s.core c).window ++ [.copy r.id]
      ∧ (r.warp = none → (rest.any fun q => q.inst == r.inst) = false → ((t.core c).seq r.block true).pc = r.next)
      ∧ (∀ w, r.warp = some w → (s.warp c w).uid = r.uid → (t.warp c w).live = true → ∀ k ∈ bitsOf r.gang 8,
          (rest.any fun q => q.inst == r.inst && bitAt q.gang k) = false →
          ((t.warp c w).slice k).pc = (((s.warp c w).slice k).goto r.next).pc ∧ ((t.warp c w).slice k).st = (((s.warp c w).slice k).goto r.next).st))
  ∧ (∀ (s : State) (c w j : Nat) (f : FmtM),
    let x := s.gangIssue c w j (.lda16 f)
    s.gangReady c w j (.lda16 f) = true → s.acts c w j (.lda16 f) = true → (s.core c).inFlight < 128 →
    (∀ l ∈ memLanes f x.acting, ∃ a dst slot hdr, s.laneLda x f l = .ok a dst slot hdr) →
    ∃ t new, exec (.lda16 f) s = .next (s.gangDone c w j (.lda16 f) t) ∧ (t.core c).lda = (s.core c).lda ++ new
      ∧ new.map LdaRec.lane = (memLanes f x.acting)
      ∧ (∀ r ∈ new, ∃ a, s.laneLda x f r.lane = .ok a r.dst r.slot r.hdr ∧ r.data = 0 ∧ r.pois = false
          ∧ r.reqs.length = (if a.home.loc = 1 ∨ a.home.loc = 2 then 2 else 1)
          ∧ ∀ n, n < r.reqs.length → ∃ q ∈ t.fab.reqs, q.id = r.reqs.getD n 0 ∧ q.kind = .load ∧ q.sec = n
            ∧ q.home = { a.home with addr := a.home.addr + 8 * n } ∧ q.len = 16 / r.reqs.length ∧ q.parts = [] ∧ q.done = false)
      ∧ t.mem = s.mem ∧ sameRegs s t ∧ sameScratch s t)
  ∧ (∀ (s : State) (f : FmtY),
    let x := s.issueOf (.xtset f)
    let ofs := fieldN ((s.rfOf x).read1 f.a x.low) 0 24
    let n := cardUnits (BitVec.ofNat 64 ((s.core x.core).scrNat ofs 8))
    let card := (s.core x.core).cardImage ofs n
    s.readyFor (.xtset f) = true → (s.rfOf x).read1 f.a x.low = BitVec.ofNat 32 ofs → ofs % 16 = 0 → ofs + 384 ≤ (s.core x.core).scrSize →
    f.imm12.toNat ≤ 63 → cardBad f.imm12.toNat card = false → indexUsed ((s.core x.core).copies ++ (s.core x.core).apq) f.imm12.toNat n = false →
    s.busyBefore x = false → s.scrHeld x.core ofs 128 = false → s.scrHeld x.core ofs (128 * n) = false → s.poisonIn x ofs (128 * n) = none →
    ∃ t : State, exec (.xtset f) s = .next (s.doneWith (.xtset f) t) ∧ (t.core x.core).card f.imm12.toNat = some card)
  ∧ (∀ (s : State) (f : FmtY), s.readyFor (.xquery f) = true → f.imm12.toNat ≤ 1 ∨ (0x40 ≤ f.imm12.toNat ∧ f.imm12.toNat < 0x80) →
    ∃ v t, (s.core (s.issueOf (.xquery f)).core).query f.imm12.toNat = some v ∧ exec (.xquery f) s = .next t)

/-- R64: an arrival on a ring slot adds one to ARR, which saturates; FULL is 1 once ARR reaches EXP, and its change to 1 adds one to WP, and makes
whoever is parked on the slot ready (R65). The slot lies behind its ring's header, and both lie in the scratchpad.
A copy as it goes on (R56, R58, R60, R61, R64, R69, R72): COPY_CHUNK first sends the reads of the sources that lie over a link, then moves the
elements of the next chunk, in visiting order, sends the masked writes of those that go over a link, and counts it;
the element's bits are written, and no other bit of the bytes that hold them; COPY_ARRIVAL counts a copy that is written, and acknowledged
where it goes over a link (R180), on its slot
and takes it out of flight; LDA16_ARRIVAL writes a lane's 16 bytes, poison with them, counts its arrival on its slot as the first clause says,
and changes no other byte of the scratchpad. The model's reading: what a chunk is, and that it is one step (log 46). -/
def Obligations.CopiesGoOn : Prop :=
  (∀ (k : Core) (hdr at_ : Nat), k.bars = [] → hdr + 16 ≤ at_ → at_ + 16 ≤ k.scrSize →
     let e := k.scrNat at_ 4 / 65536
     let arr := min 65535 (k.scrNat at_ 4 % 65536 + 1)
     let full := k.scrNat (at_ + 4) 4 % 2 == 1
     let k' := k.arrive hdr at_
     k'.scrNat at_ 4 = e * 65536 + arr
     ∧ k'.scrNat (at_ + 4) 4 = (if e ≤ arr then 1 else 0)
     ∧ k'.scrNat (hdr + 4) 4 % 65536 = (if e ≤ arr ∧ full = false then k.scrNat (hdr + 4) 4 + 1 else k.scrNat (hdr + 4) 4) % 65536
     ∧ k'.scrNat (hdr + 4) 4 / 65536 = k.scrNat (hdr + 4) 4 / 65536
     ∧ (e ≤ arr → full = false → ∀ w j, ((k.warp w).slice j).park = .awaitf ∨ ((k.warp w).slice j).park = .yieldc →
         ((k.warp w).slice j).tok = some (BitVec.ofNat 64 at_) → ((k'.warp w).slice j).ready = true)
     ∧ (∀ b, b < k.scrSize → (b < hdr + 4 ∨ (hdr + 8 ≤ b ∧ b < at_) ∨ at_ + 8 ≤ b) → k'.scrByte b = k.scrByte b))
  ∧
  ((∀ (s : State) (c job : Nat) (r : CopyRec),
     let es := r.chunk ((r.elem r.pos).d / 32768) (cardCount r.card - r.pos) r.pos
     (s.core c).copies.find? (fun q => q.id = job) = some r → r.fin = false → r.code = 0 → (s.ctx r.ctx).runs [.copyEngine c] = true →
     r.after.any s.awaited = false → (s.core c).edgesDone (.copy job) = true → (s.core c).channelTurn r = true →
     es.all r.within = true → es.findSome? (s.elemFault c r) = none → es.flatMap (s.elemMisses c r) = [] →
     es.any (s.elemHeld c r) = false → (s.core c).bad = [] →
     (s.unread c r es ≠ [] → s.copyReads job = false → exec (.copyChunk c job) s = .next (s.askPeer c r (s.unread c r es)))
     ∧ (s.unread c r es = [] →
       let m := (if cardSsp r.card && cardDsp r.card then s else s.moves (s.ctx r.ctx).rcb 0).moveElems c r es
       ∃ t : State, exec (.copyChunk c job) s = .next t
         ∧ t.mem = (m.1.clearCovered c r es m.2.2).mem
         ∧ (t.core c).scr = (m.1.core c).scr
         ∧ (t.core c).scrPois = ((m.1.clearCovered c r es m.2.2).core c).scrPois
         ∧ (t.core c).copies.find? (fun q => q.id = job) =
           some { r with chunks := r.chunks + 1, pos := r.pos + es.length, fin := decide (cardCount r.card ≤ r.pos + es.length), got := [] }
         ∧ (t.fab.reqs.drop s.fab.reqs.length).map (fun q => (q.kind, q.home, q.data, q.mask)) =
           m.2.1.map (fun p => (.store, ⟨p.1.1, 0, 16 * p.1.2⟩, p.2.2.2.1, if p.2.2.1 = BitVec.allOnes 128 then 0 else p.2.2.1))
         ∧ sameRegs s t))
   ∧ (∀ (s : State) (h : Home) (bit n v b : Nat), h.loc = 3 → (s.core h.core).bars = [] → bit < 8 →
     h.addr + (bit + n + 7) / 8 ≤ (s.core h.core).scrSize → b < 8 * (s.core h.core).scrSize →
     bitAt (((s.putBits h bit n v).core h.core).scrByte (b / 8)) (b % 8) =
       if 8 * h.addr + bit ≤ b ∧ b < 8 * h.addr + bit + n then v.testBit (b - (8 * h.addr + bit))
       else bitAt ((s.core h.core).scrByte (b / 8)) (b % 8))
   ∧ (∀ (s : State) (c job : Nat) (r : CopyRec), (s.core c).copies.find? (fun q => q.id = job) = some r → r.fin = true →
     s.copyMoves job = false → (s.core c).bad = [] → (s.ctx r.ctx).runs [.copyEngine c] = true → ((s.core c).copies.takeWhile (fun q => q.id != r.id)).any (fun q => q.ch == r.ch) = false →
     s.scrHeld c r.hdr 16 = false → s.scrHeld c r.slot 16 = false → ((s.core c).block r.block).warps ≠ [] →
     exec (.copyArrival c job) s = .next (s.setCore c
       { (s.core c).arrive r.hdr r.slot with copies := (s.core c).copies.filter fun q => q.id != job }))
   ∧ (∀ (s : State) (c id : Nat) (r : LdaRec), (s.core c).lda.find? (fun q => q.id = id) = some r →
     r.reqs = [] → s.ldaHeld c r = false → ((s.core c).block r.block).warps ≠ [] → (s.core c).bad = [] →
     (s.core c).bars = [] → r.dst + 16 ≤ (s.core c).scrSize → r.hdr + 16 ≤ r.slot → r.slot + 16 ≤ (s.core c).scrSize →
     let k := (s.core c).writeScr r.dst (leBytes 16 r.data.toNat)
     let k := if r.pois then k.poisonScr (r.dst / 16) else k
     ∃ t : State, exec (.lda16Arrival c id) s = .next t
       ∧ t = s.setCore c { k.arrive r.hdr r.slot with lda := (s.core c).lda.filter fun q => q.id != id }
       ∧ (∀ b, b < (s.core c).scrSize → (b < r.hdr + 4 ∨ (r.hdr + 8 ≤ b ∧ b < r.slot) ∨ r.slot + 8 ≤ b) →
           (t.core c).scrByte b =
             if r.dst ≤ b ∧ b < r.dst + 16 then BitVec.ofNat 8 (r.data.toNat / 256 ^ (b - r.dst)) else (s.core c).scrByte b)
       ∧ (t.core c).scrNat r.slot 4 = k.scrNat r.slot 4 / 65536 * 65536 + min 65535 (k.scrNat r.slot 4 % 65536 + 1)
       ∧ (r.pois = true → ((t.core c).scrPoisonAt r.dst 16).isSome = true)
       ∧ sameBytes s t ∧ sameRegs s t))

/-- XTSET and XQUERY (R55, R314, R315) complete for a gang or a sequencer. XTSET installs the card image of own scratchpad at its index, unit
for unit, once no earlier access of the issuer is on its way, no access that the core tracks meets the image and no copy uses the index;
XQUERY writes the value that its selector names: the copies in flight, the channels in use, the card that begins at an index, with
its units, its element width and dimensions, and whether a copy in flight uses the index. That an install is one step is the model's reading (log 47). -/
def Obligations.CardsComplete : Prop :=
  (∀ (s : State) (f : FmtY),
    let x := s.issueOf (.xtset f)
    let k := s.core x.core
    let a := (s.rfOf x).read1 f.a x.low
    let n := cardUnits (BitVec.ofNat 64 (k.scrNat (fieldN a 0 24) 8))
    s.readyFor (.xtset f) = true → s.busyBefore x = false → k.ownScr a 128 = true → k.ownScr a (128 * n) = true →
    s.scrHeld x.core (fieldN a 0 24) 128 = false → s.scrHeld x.core (fieldN a 0 24) (128 * n) = false →
    s.poisonIn x (fieldN a 0 24) (128 * n) = none →
    fieldN a 0 24 % 16 = 0 → f.imm12.toNat ≤ 63 → cardBad f.imm12.toNat (k.cardImage (fieldN a 0 24) n) = false →
    indexUsed (k.copies ++ k.apq) f.imm12.toNat n = false →
    ∃ t : State, exec (.xtset f) s = .next (s.doneWith (.xtset f) t)
      ∧ (t.core x.core).card f.imm12.toNat = some (k.cardImage (fieldN a 0 24) n)
      ∧ t.mem = s.mem ∧ sameRegs s t ∧ sameScratch s t)
  ∧ (∀ (s : State) (f : FmtY) (v : Word),
    let x := s.issueOf (.xquery f)
    let k := s.core x.core
    s.readyFor (.xquery f) = true → k.query f.imm12.toNat = some v →
    exec (.xquery f) s = .next (s.doneWith (.xquery f) (s.putOnce x 1 f.d (v.setWidth 64)))
      ∧ (f.imm12 = 0 → v.toNat = (k.copies.length + (k.lda.map LdaRec.inst).dedup.length) % 2 ^ 32)
      ∧ (f.imm12 = 1 → ∀ b, b < 16 → bitAt v b = k.copies.any (fun r => r.ch == b))
      ∧ (0x40 ≤ f.imm12.toNat →
          let t := f.imm12.toNat - 0x40
          let n := Sparse.get 0 k.cardAt t
          (bitAt v 30 = true ↔ ∃ r ∈ k.copies, r.tidx ≤ t ∧ t < r.tidx + cardUnits (r.card.getD 0 0))
          ∧ (n = 0 → bitAt v 31 = false ∧ fieldN v 0 30 = 0)
          ∧ (n = 1 ∨ n = 2 ∨ n = 3 → bitAt v 31 = true ∧ fieldN v 28 2 = n ∧ fieldN v 9 19 = 0
              ∧ fieldN v 0 9 = fieldN ((Sparse.get [] k.units t).getD 0 0) 0 9)))
  ∧ (∀ (s : State) (f : FmtY), s.readyFor (.xquery f) = true →
    (f.imm12.toNat ≤ 1 ∨ (0x40 ≤ f.imm12.toNat ∧ f.imm12.toNat < 0x80)) →
    ∃ v, exec (.xquery f) s = .next (s.doneWith (.xquery f) (s.putOnce (s.issueOf (.xquery f)) 1 f.d v)))

/-- RINGINIT, AWAITF and YIELDC (R63, R316, R317, R319, R320). RINGINIT lays a ring out; AWAITF and YIELDC write the address of the
slot's data area where the slot is full, and park where it is not (AWAITF the acting slices, YIELDC the gang); parked slices whose slot
has filled since go on, though it be full no longer (R65). -/
def Obligations.RingsComplete : Prop :=
  (∀ (s : State) (f : FmtY),
    let x := s.issueOf (.ringinit f)
    let a := (s.rfOf x).read1 f.a x.low
    let b := (s.rfOf x).read1 f.b x.low
    s.readyFor (.ringinit f) = true → s.ringFault x a (ringBytes (fieldN b 0 8 + 1) f.imm12.toNat) = none → s.busyBefore x = false →
    s.scrHeld x.core (fieldN a 0 24) (ringBytes (fieldN b 0 8 + 1) f.imm12.toNat) = false →
    exec (.ringinit f) s = .next (s.doneWith (.ringinit f) (s.modCore x.core fun k =>
      k.layRing (fieldN a 0 24) (fieldN b 0 8 + 1) f.imm12.toNat (fieldN b 16 16))))
  ∧ (∀ (k : Core) (ring slots sz e : Nat), k.bars = [] → 0 < slots → slots ≤ 256 → sz < 4096 → e < 65536 →
    ring + ringBytes slots sz ≤ k.scrSize →
    let k' := k.layRing ring slots sz e
    k'.ringSlots ring = slots ∧ k'.ringSz ring = sz ∧ k'.scrNat (ring + 4) 4 = (if e = 0 then slots else 0)
    ∧ ∀ n, n < slots → k'.scrNat (ringSlot ring sz n) 4 = e * 65536 ∧ k'.slotFull (ringSlot ring sz n) = (e == 0))
  ∧ (∀ (s : State) (f : FmtY) (at_ : Nat) (full : Bool),
    let x := s.issueOf (.awaitf f)
    s.readyFor (.awaitf f) = true → x.again = false →
    s.nameSlot x ((s.rfOf x).read1 f.a x.low) ((s.rfOf x).read1 f.b x.low + f.imm12.setWidth 32).toNat = .inl at_ →
    (s.core x.core).slotFull at_ = full →
    exec (.awaitf f) s = .next (if full
      then s.goesWith (.awaitf f) (s.putOnce x 1 f.d (BitVec.ofNat 64 (at_ + 16)))
        (if x.slices = [] then [(0, x.next)] else x.slices.map fun k => (k, x.next))
      else s.goesWith (.awaitf f) (s.parkOnSlot x (actingSlices x.acting x.slices) .awaitf f.d at_)
        ((x.slices.filter fun k => !(actingSlices x.acting x.slices).contains k).map fun k => (k, x.next))))
  ∧ (∀ (s : State) (c w j : Nat) (f : FmtY) (at_ : Nat) (full : Bool),
    let x := s.gangIssue c w j (.yieldc f)
    s.gangReady c w j (.yieldc f) = true → s.acts c w j (.yieldc f) = true → x.again = false →
    s.nameSlot x ((s.rfOf x).read1 f.a x.low) ((s.rfOf x).read1 f.b x.low).toNat = .inl at_ →
    (s.core c).slotFull at_ = full →
    exec (.yieldc f) s = .next (if full
      then s.gangGoes c w j (.yieldc f) (s.putOnce x 1 f.d (BitVec.ofNat 64 (at_ + 16))) (x.slices.map fun k => (k, x.pc + 8 * f.imm12.setWidth 64))
      else s.gangGoes c w j (.yieldc f) (s.parkOnSlot x x.slices .yieldc f.d at_) []))
  ∧ (∀ (s : State) (f : FmtY) (at_ : Nat),
    let x := s.issueOf (.awaitf f)
    s.readyFor (.awaitf f) = true → x.slices ≠ [] → s.parkedOn x = some (at_, true) →
    exec (.awaitf f) s = .next (s.goesWith (.awaitf f)
      ((s.putOnce x 1 f.d (BitVec.ofNat 64 (at_ + 16))).modWarp x.core x.warp fun w => w.mark f.d 1 (actingSlices x.acting x.slices) false)
      (x.slices.map fun k => (k, x.next))))

/-- R66: RELS rearms a slot (and RELS.keep, with e the slot's EXP, R318), for a gang or a sequencer once its earlier accesses are performed.
A full slot keeps the arrivals beyond its EXP; EXP becomes e, RP counts the RELS; FULL is formed anew, and counts in WP when it is 1
again. No other byte of the scratchpad changes. -/
def Obligations.SlotRearm : Prop :=
  (∀ (s : State) (f : FmtY) (i : Instr) (at_ : Nat), i = .rels f ∨ i = .relsKeep f →
    let x := s.issueOf i
    let a := (s.rfOf x).read1 f.a x.low
    s.readyFor i = true → s.nameSlot x a ((s.rfOf x).read1 f.b x.low + f.imm12.setWidth 32).toNat = .inl at_ → s.busyBefore x = false →
    exec i s = .next (s.doneWith i (s.modCore x.core fun k =>
      k.rearm (fieldN a 0 24) at_ (if i = .rels f then some (fieldN ((s.rfOf x).read1 f.d x.low) 0 16) else none))))
  ∧ ∀ (k : Core) (hdr at_ : Nat) (e : Option Nat), k.bars = [] → hdr + 16 ≤ at_ → at_ + 16 ≤ k.scrSize → (∀ n, e = some n → n < 65536) →
    let EXP := fun (k : Core) => k.scrNat at_ 4 / 65536
    let ARR := fun (k : Core) => k.scrNat at_ 4 % 65536
    let FULL := fun (k : Core) => k.scrNat (at_ + 4) 4 % 2
    let RP := fun (k : Core) => k.scrNat (hdr + 4) 4 / 65536
    let WP := fun (k : Core) => k.scrNat (hdr + 4) 4 % 65536
    let k' := k.rearm hdr at_ e
    (FULL k = 1 → EXP k ≤ ARR k → ARR k' = ARR k - EXP k) ∧ (FULL k = 0 → ARR k' = ARR k)
      ∧ EXP k' = e.getD (EXP k) ∧ RP k' = (RP k + 1) % 65536
      ∧ FULL k' = (if EXP k' ≤ ARR k' then 1 else 0) ∧ WP k' = (WP k + FULL k') % 65536
      ∧ ∀ b, b < k.scrSize → (b < hdr + 4 ∨ (hdr + 8 ≤ b ∧ b < at_) ∨ at_ + 8 ≤ b) → k'.scrByte b = k.scrByte b

/-- DSET and DSET.w (R146, R321, R322) complete for a gang or a sequencer: the descriptor is the 32 bytes of own scratchpad, or the descriptor
with one dword replaced, once no accepted job uses it and the image passes its checks; no other descriptor changes.
LEASE, UNLEASE and the end of a lease (R45, R46, R323 to R325). LEASE writes its status and, when it is granted, a handle from 1 to 255 that
no live lease of the region has, the ways that it reserves are written back and emptied (R324; which lines they hold is free, log 111),
and the lease counts its lifetime at every slice that the mask names; UNLEASE ends the lease
of its handle: its lines are pinned no more; the end of a slice's count ends the lease there, and everywhere with its last slice. -/
def Obligations.DescriptorsComplete : Prop :=
  ((∀ (s : State) (f : FmtS),
     let x := s.issueOf (.dset f)
     let k := s.core x.core
     let a := (s.rfOf x).read1 f.a x.low
     let d : BitVec 256 := BitVec.ofNat 256 (k.scrNat (fieldN a 0 24) 32)
     s.readyFor (.dset f) = true → k.descUsed x.block (fieldN f.sel 0 4) = false → s.busyBefore x = false → k.ownScr a 32 = true →
     fieldN a 0 24 % 16 = 0 → s.scrHeld x.core (fieldN a 0 24) 32 = false → s.poisonIn x (fieldN a 0 24) 32 = none → descFault k.scrSize d = none →
     exec (.dset f) s = .next (s.doneWith (.dset f) (s.modBlock x.core x.block fun b =>
       { b with desc := Sparse.set 0 b.desc (fieldN f.sel 0 4) d })))
   ∧ (∀ (s : State) (f : FmtS),
     let x := s.issueOf (.dsetW f)
     let k := s.core x.core
     let old := Sparse.get 0 (k.block x.block).desc (fieldN f.sel 0 4)
     let v := (s.rfOf x).read2 f.a x.low
     ∀ d : BitVec 256, (∀ b, b < 256 → bitAt d b = if b / 64 = fieldN f.sel 5 2 then bitAt v (b % 64) else bitAt old b) →
     s.readyFor (.dsetW f) = true → k.descUsed x.block (fieldN f.sel 0 4) = false → descFault k.scrSize d = none →
     exec (.dsetW f) s = .next (s.doneWith (.dsetW f) (s.modBlock x.core x.block fun b =>
       { b with desc := Sparse.set 0 b.desc (fieldN f.sel 0 4) d }))))
  ∧
  ((∀ (s : State) (f : FmtS),
     let x := s.issueOf (.lease f)
     let r := s.rfOf x
     let hi := r.read1 (f.a + 1) x.low
     let life := (r.read1 (f.a + 2) x.low).toNat
     let slices := bitsOf (hi ++ r.read1 f.a x.low) 48
     let rcb := (s.ctx (s.ctxOf x)).rcb
     let st := s.fab.leaseStatus rcb slices (fieldN hi 20 12) (fieldN hi 16 4) life
     s.readyFor (.lease f) = true →
     ∃ t : State, exec (.lease f) s = .next (s.doneWith (.lease f) (t.putOnce x 1 f.d (BitVec.ofNat 64 (256 * st.1 + st.2))))
       ∧ sameRegs s t ∧ sameBytes s t ∧ t.cores = s.cores
       ∧ (st.1 ≠ 0 → t.fab = s.fab ∧ t.mem = s.mem ∧ st.2 = 0)
       ∧ (st.1 = 0 → 1 ≤ st.2 ∧ st.2 ≤ 255 ∧ (∀ l ∈ s.fab.leases, l.rcb = rcb → l.handle ≠ st.2)
           ∧ ∃ l, t.fab.leases = s.fab.leases ++ [l] ∧ l.rcb = rcb ∧ l.handle = st.2 ∧ l.ways = fieldN hi 16 4
             ∧ (∀ line, l.holds (Config.homeSlice line) = true → Config.inLeasedWays l.id line = true →
                 (Sparse.get L2Line.absent s.mem.l2 line).pin = none → Sparse.get L2Line.absent t.mem.l2 line = L2Line.absent)
             ∧ ∀ n, n < 48 → Sparse.get 0 l.left n = if n ∈ slices then life else 0))
   ∧ (∀ (s : State) (f : FmtS),
     let x := s.issueOf (.unlease f)
     let h := fieldN ((s.rfOf x).read1 f.a x.low) 0 8
     s.readyFor (.unlease f) = true →
     match s.fab.leases.find? fun l => l.rcb = (s.ctx (s.ctxOf x)).rcb && l.handle = h && h != 0 with
     | none => exec (.unlease f) s = .next (s.doneWith (.unlease f) (s.putOnce x 1 f.d 1))
     | some l => ∃ t : State, exec (.unlease f) s = .next (s.doneWith (.unlease f) (t.putOnce x 1 f.d 0))
         ∧ t.fab.leases = s.fab.leases.filter (fun q => q.id != l.id) ∧ sameBytes s t ∧ sameRegs s t
         ∧ ∀ line, (Sparse.get L2Line.absent t.mem.l2 line).pin ≠ some l.id)
   ∧ (∀ (s : State) (slice id : Nat) (l : Lease), s.fab.leases.find? (fun q => q.id = id) = some l →
     ∃ t : State, exec (.leaseExpiry slice id) s = .next t ∧ sameBytes s t ∧ t.cores = s.cores
       ∧ (∀ line, Config.homeSlice line = slice → (Sparse.get L2Line.absent t.mem.l2 line).pin ≠ some id)
       ∧ (∀ q, q ∈ t.fab.leases → q.id = id → Sparse.get 0 q.left slice = 0)
       ∧ (Sparse.set 0 l.left slice 0 = [] → ∀ q ∈ t.fab.leases, q.id ≠ id)))

/-! ## Atomics and combinable objects -/

/-- The ATOMs (R162 to R164, R367, R368) complete for a ready gang whose acting lanes pass their checks: one request for each address that
they name, carrying the lanes of that address in increasing order with their operands (for CAS the value compared with, and the
new one in the next register or pair). That lanes name one address where they name one word, under whichever virtual address or hop, and that both
values of a CAS with gz are zero, is the model's reading (logs 131 and 138). V is pending until the reply, unless it is gz. No byte of a memory changes until the
request is performed at its home. CMB (R369) completes as they do: a request for each lane, or one for the gang on the scalar path. -/
def Obligations.AtomsComplete : Prop :=
  (∀ (s : State) (c w j : Nat) (f : FmtM) (i : Instr) (op : Nat) (l : List LaneAcc),
    (i, op) ∈ [(.atomAdd f, 0), (.atomMin f, 1), (.atomMax f, 2), (.atomAnd f, 3), (.atomOr f, 4), (.atomXor f, 5), (.atomExch f, 6), (.atomCas f, 7)] →
    let x := s.gangIssue c w j i
    let rf := (s.warp c w).rf
    let n := nregSz f.sz
    s.gangReady c w j i = true → s.acts c w j i = true → s.checkLanes x (atomLanes f x.acting) (s.checkAtom x f op) = .ok l →
    ∃ t new, exec i s = .next (s.gangDone c w j i t)
      ∧ t.fab.reqs.map (fun r => { r with tracked := false, sent := none, left := false })
        = (s.fab.reqs ++ new).map (fun r => { r with tracked := false, sent := none, left := false })
      ∧ (∀ r ∈ new, r.kind = .atom ∧ r.op = op ∧ r.ty = f.ty ∧ r.done = false ∧ r.merge = []
          ∧ r.parts.map Part.lane = (l.filter fun a => a.home == r.home).map LaneAcc.lane
          ∧ (∀ p ∈ r.parts, p.v = f.v ∧ (if op = 7 then
                (if isGz f.opr then p.cmp = 0 ∧ p.opr = 0
                 else p.cmp = rf.readD n f.opr p.lane ∧ p.opr = rf.readD n (f.opr + BitVec.ofNat 8 n) p.lane)
              else p.opr = rf.readD n f.opr p.lane)))
      ∧ (∀ a ∈ l, (new.filter fun r => r.home == a.home).length = 1)
      ∧ (isG f.v = true → ∀ k ∈ slicesOf x.acting, ∀ m, m < n → Sparse.get false (t.warp c w).pg (8 * (f.v.toNat + m) + k) = true)
      ∧ (isGz f.v = true → (t.warp c w).pg = (s.warp c w).pg ∧ (t.warp c w).pk = (s.warp c w).pk)
      ∧ t.mem = s.mem ∧ sameScratch s t ∧ (∀ d v, (t.warp d v).rf = (s.warp d v).rf))
  ∧ ∀ (s : State) (c w j : Nat) (f : FmtM) (i : Instr), i = .cmb f → s.gangReady c w j i = true →
    let x := s.gangIssue c w j i
    (s.acts c w j i = false → exec i s = .next (s.gangDone c w j i s))
    ∧ (s.acts c w j i = true → ∀ l, s.checkLanes x (atomLanes f x.acting) (fun n => s.checkHeader x .update n (laneAddr f (s.warp c w).rf n)) = .ok l →
        ∃ t : State, exec i s = .next (s.gangDone c w j i t) ∧ t.fab.reqs.length = s.fab.reqs.length + l.length ∧ t.mem = s.mem)

/-- ATOM_HOME_PERFORM (R162, R163, R167): an unmerged ATOM to a memory is performed as one access, each lane's part applied to what the
lane before left; the word holds the last value, no other byte changes, and each lane's reply is the value that its part found. It need
not cross a link first and has a way to its home, its block still holds a warp, no object is armed, and no memory is closed (R244, R248). The operations: ADD, MIN and MAX of an integer type
modulo 2^w and by its order, the bitwise ones, EXCH, CAS. One at a peer is complete only when the peer's answer is back (R180).
ROUTER_REQUEST_ARRIVAL (R165): two relaxed ATOMs of one operation, type and word in local HBM that together carry at most eight tags
merge: the one that waits takes the tags of the one that arrives, in merge order, and the latter is performed no more on
its own. Otherwise nothing happens.
CMB_REQUEST_ARRIVAL (R170) answers a request that its object cannot take, and else adds it to the object's trug. -/
def Obligations.AtomsPerform : Prop :=
  ((∀ (s : State) (r : Req), s.findReq r.id = some r → r.kind = .atom → r.done = false → r.ans = none → r.into = false → r.merge = [] → r.split = none →
     s.mayPerform r = true → s.waveHolds r.home r.len = false → r.home.loc < 3 → (r.home.loc = 2 → r.sa = true) → s.homePoison r.home r.len = false →
     s.cutOff r = false → s.unsent r = false → ((s.core r.core).block r.block).warps ≠ [] → s.openMem = true → (∀ o ∈ s.fab.objs, o.2.armed = false) →
     r.len ≤ 8 →
     let run := atomRun r.op r.ty (BitVec.ofNat 64 (s.mem.readNat r.home.loc r.home.addr r.len)) r.parts
     ∃ t : State, exec (.atomHomePerform r.id) s = .next t
       ∧ (∀ loc b, loc < 3 → t.mem.byte loc b = if loc = r.home.loc ∧ r.home.addr ≤ b ∧ b < r.home.addr + r.len
           then BitVec.ofNat 8 (run.1.toNat / 256 ^ (b - r.home.addr)) else s.mem.byte loc b)
       ∧ (∀ q, t.findReq r.id = some q → q.replies = run.2.map (fun d => d.setWidth 128) ∧ (r.home.loc ≠ 1 → q.done = true))
       ∧ (r.home.loc = 1 → ∃ q, t.findReq r.id = some q ∧ q.done = false ∧ q.ans.isSome = true)
       ∧ sameScratch s t ∧ sameRegs s t)
   ∧ (∀ (op : Nat) (ty : BitVec 4) (v : DWord) (p : Part) (ps : List Part),
     atomRun op ty v [] = (v, []) ∧ (atomRun op ty v (p :: ps)).1 = (atomRun op ty (atomNew op ty v p.opr p.cmp) ps).1
       ∧ (atomRun op ty v (p :: ps)).2 = v :: (atomRun op ty (atomNew op ty v p.opr p.cmp) ps).2)
   ∧ (∀ (ty : BitVec 4) (a b d : DWord), ty.toNat ≤ 12 →
     let int := fun (v : DWord) (e : Nat) => intOf ty (elem ty v e)
     (isInt ty = true → ∀ e, e < elemN ty →
       (elem ty (atomNew 0 ty a b d) e : Int) = (int a e + int b e) % 2 ^ elemW ty
       ∧ int (atomNew 1 ty a b d) e = min (int a e) (int b e) ∧ int (atomNew 2 ty a b d) e = max (int a e) (int b e))
     ∧ atomNew 3 ty a b d = a &&& b ∧ atomNew 4 ty a b d = a ||| b ∧ atomNew 5 ty a b d = a ^^^ b ∧ atomNew 6 ty a b d = b
     ∧ atomNew 7 ty a b d = if a = d then b else a))
  ∧
  (∀ (s : State) (e a : Req), s.findReq e.id = some e → s.findReq a.id = some a → e.id ≠ a.id → e.mergeable = true → a.mergeable = true →
     e.home = a.home → e.op = a.op → e.ty = a.ty → e.len = a.len → s.mayPerform e = true → s.mayPerform a = true →
     if e.merge.length + a.merge.length + 2 ≤ 8
     then ∃ t : State, exec (.routerRequestArrival e.id a.id) s = .next t
       ∧ t.findReq e.id = some { e with merge := e.merge ++ a.id :: a.merge } ∧ t.findReq a.id = some { a with into := true, merge := [] }
       ∧ t.mem = s.mem ∧ t.cores = s.cores
     else exec (.routerRequestArrival e.id a.id) s = .next s)
  ∧
  (∀ (s : State) (r : Req), s.fab.reqs = [r] → r.kind = .cmb → r.done = false → (s.obj r.home.addr).holds r.id = false → s.mayArrive r = true →
     (∀ st, s.cmbStatus r = some st → exec (.cmbRequestArrival r.id) s = .next (s.answer r st 0))
     ∧ (s.cmbStatus r = none → ∃ t : State, exec (.cmbRequestArrival r.id) s = .next t
         ∧ (t.obj r.home.addr).trug = (s.obj r.home.addr).trug ++ [(s.nextId, r.id)] ∧ t.mem = s.mem ∧ t.cores = s.cores ∧ t.fab.reqs = s.fab.reqs))

/-- CMB (R369, R174) completes for a ready gang whose header addresses pass their checks: each acting lane sends its argument and its method's
number (one lane for the gang on the scalar path, R95); V and the status predicate are pending until its reply, but for a V of gz.
CMB_REQUEST_ARRIVAL (R170): a request that arrives is answered at once with CNOOBJ, CPOISON, CFAULT or CFULL, the first whose condition
holds, and otherwise waits in its object's trug, with the number of its arrival. Its context runs and its header lies on no encrypted page.
The answer (R174): V's pair receives the 64-bit reply with the status OK and the status's code with any other, and the status predicate is
set on OK alone, in every lane that the request stands for; what is not dropped is delivered when the reply is written. -/
def Obligations.CombineRequests : Prop :=
  (∀ (s : State) (c w j : Nat) (f : FmtM) (l : List LaneAcc),
    let i : Instr := .cmb f
    let x := s.gangIssue c w j i
    let rf := (s.warp c w).rf
    s.gangReady c w j i = true → s.acts c w j i = true →
    s.checkLanes x (atomLanes f x.acting) (fun n => s.checkHeader x .update n (laneAddr f rf n)) = .ok l →
    ∃ t new, exec i s = .next (s.gangDone c w j i t)
      ∧ t.fab.reqs.map (fun r => { r with tracked := false, sent := none, left := false })
        = (s.fab.reqs ++ new).map (fun r => { r with tracked := false, sent := none, left := false })
      ∧ new.map (fun r => (r.kind, r.home, r.meth, r.sprd, r.parts.map fun p => (p.lane, p.v, p.opr))) =
          l.map (fun a => (ReqKind.cmb, a.home, f.meth.toNat, f.sprd.toNat, [(a.lane, f.v, rf.read2 f.opr a.lane)]))
      ∧ (isG f.v = true → ∀ k ∈ slicesOf x.acting, ∀ m, m < 2 → Sparse.get false (t.warp c w).pg (8 * (f.v.toNat + m) + k) = true)
      ∧ (isK f.v = true → ∀ m, m < 2 → Sparse.get false (t.warp c w).pk (kIdx f.v + m) = true)
      ∧ (isGz f.v = true → (t.warp c w).pg = (s.warp c w).pg ∧ (t.warp c w).pk = (s.warp c w).pk)
      ∧ (f.sprd ≠ 7 → ∀ k ∈ slicesOf x.acting, Sparse.get false (t.warp c w).pp (8 * f.sprd.toNat + k) = true)
      ∧ t.mem = s.mem ∧ sameScratch s t ∧ (∀ d v, (t.warp d v).rf = (s.warp d v).rf))
  ∧ (∀ (s : State) (r : Req), s.fab.reqs = [r] → r.kind = .cmb → r.done = false → (s.obj r.home.addr).holds r.id = false → s.mayArrive r = true →
    s.ctxRuns r = true → (s.tag (r.home.addr / 65536)).mode < 2 →
    let d := fun (n : Nat) => s.mem.dword (r.home.addr + 8 * n)
    let o := s.obj r.home.addr
    let full := 32 ≤ o.trug.length ∨ (o.active = false ∧ 256 ≤ s.tracked (objSlice r.home.addr))
    (bitAt (d 0) 63 = false ∨ o.armed = false → exec (.cmbRequestArrival r.id) s = .next (s.answer r 4 0))
    ∧ (bitAt (d 0) 63 = true → o.armed = true →
        (bitAt (d 0) 62 = true → exec (.cmbRequestArrival r.id) s = .next (s.answer r 3 0))
        ∧ (bitAt (d 0) 62 = false →
            (fieldN (d 0) 56 5 ≤ r.meth ∨ 16 ≤ r.meth ∨ bitAt (d (3 + r.meth / 4)) (16 * (r.meth % 4) + 15) = false →
              exec (.cmbRequestArrival r.id) s = .next (s.answer r 2 0))
            ∧ (r.meth < fieldN (d 0) 56 5 → r.meth < 16 → bitAt (d (3 + r.meth / 4)) (16 * (r.meth % 4) + 15) = true →
                (full → exec (.cmbRequestArrival r.id) s = .next (s.answer r 1 0))
                ∧ (¬ full → ∃ t : State, exec (.cmbRequestArrival r.id) s = .next t
                    ∧ (t.obj r.home.addr).trug = o.trug ++ [(s.nextId, r.id)] ∧ t.mem = s.mem ∧ t.cores = s.cores ∧ t.fab.reqs = s.fab.reqs)))))
  ∧ (∀ (s : State) (r : Req) (p : Part) (st : Nat) (v : DWord), s.fab.reqs = [r] → r.kind = .cmb → r.parts = [p] → r.wants p = true →
    ((s.core r.core).block r.block).warps ≠ [] → (r.sprd ≠ 7 ∨ st = 0 ∨ st = 4) →
    sameBytes s (s.answer r st v) ∧ ∀ q, (s.answer r st v).findReq r.id = some q →
      q.done = true ∧ q.pois = false ∧ q.op = st ∧ q.parts = [p] ∧ q.replies = [if st = 0 then v.setWidth 128 else BitVec.ofNat 128 st])
  ∧ (∀ (s : State) (r : Req) (p : Part) (v : BitVec 128), s.fab.reqs = [r] → r.kind = .cmb → r.done = true → r.pois = false → r.parts = [p] →
    r.wants p = true → r.sec = 0 → r.replies = [v] → r.n = 2 →
    ∃ t : State, exec (.loadWriteback r.id) s = .next t ∧ t.fab.reqs = [] ∧ t.mem = s.mem
      ∧ (t.warp r.core r.warp).rf = ((s.warp r.core r.warp).rf.writeQ 2 p.v p.lane v).writePreds r.sprd p.lanes (fun _ => r.op == 0))

/-- The combiner engine of a slice (R172, R173, R175). An idle engine starts a wave: the oldest request's method, and every pending request of
that method, up to 32, leave the trug for the wave. The wave's end frees the engine and the object; where the method runs to
its end without a method fault, what it stored commits and each lane's reply is sent, and otherwise the wave aborts. No context is
halted, so that no request leaves the trug for that (R176). -/
def Obligations.Waves : Prop :=
  (∀ (s : State) (slice pa m : Nat) (r : Req), Sparse.get none s.fab.engines slice = none → s.answerHalted = s → s.nextObj slice = some pa →
    (s.obj pa).trug ≠ [] → ((s.findReq ((s.obj pa).trug.headD (0, 0)).2).map Req.meth) = some m →
    let sameMethod := fun (q : Nat × Nat) => ((s.findReq q.2).map Req.meth).getD 0 == m
    ∃ t ids, exec (.combinerWaveStart slice) s = .next t ∧ Sparse.get none t.fab.engines slice = some pa ∧ (t.obj pa).wave = some (m, ids)
      ∧ ids = (((s.obj pa).trug.filter sameMethod).map Prod.snd).take 32
      ∧ (t.obj pa).trug = (s.obj pa).trug.filter (fun q => !ids.contains q.2)
      ∧ t.mem = s.mem ∧ t.cores = s.cores ∧ t.fab.reqs = s.fab.reqs)
  ∧ (∀ (s : State) (slice pa m : Nat) (ids : List Nat), Sparse.get none s.fab.engines slice = some pa → (s.obj pa).wave = some (m, ids) →
    let rs := ids.filterMap s.findReq
    let start := Wave.start m (rs.map fun r => ((r.parts.map Part.opr).headD 0))
    let result := Wave.run { mem := s.mem, base := pa + 64, size := 64 * hdrPlen s.mem pa } rs.length (Sparse.get [] (s.obj pa).methods m) 0 false start
    let idle := { s with fab := { s.fab with engines := Sparse.set none s.fab.engines slice none } }.modObj pa fun b => { b with wave := none }
    (∀ v, result = some v → exec (.combinerWaveEnd slice false) s = .next
      (((List.range rs.length).zip rs).foldl (fun t q => t.answer q.2 0 ((Sparse.get none v.out q.1).getD 0)) (idle.commitWave pa v)))
    ∧ (result = none → exec (.combinerWaveEnd slice false) s = .next (idle.abortWave pa m ids false))
    ∧ exec (.combinerWaveEnd slice true) s = .next (idle.abortWave pa m ids true))
  ∧ (∀ (meth : Nat) (args : List DWord) (l : Nat), l < args.length → args.length ≤ 32 → meth < 16 →
    let v := Wave.start meth args
    v.rf.read2 0 l = args.getD l 0 ∧ v.rf.read1 2 l = BitVec.ofNat 32 l ∧ v.rf.read1 3 l = BitVec.ofNat 32 meth
      ∧ v.rf.readK 0 = BitVec.ofNat 32 args.length ∧ v.stored = [])

/-- COBJ.INIT, COBJ.ARM and COBJ.QUERY (R169, R370 to R373) complete for a ready issuer with a cached, permitted header and nothing to wait for.
INIT writes its status, and on 0 the header and a zero payload; ARM of an object that is not valid answers 1, of an object whose methods are
refused 3 with the method's number, and otherwise 0: the object is armed with the methods as they are then; QUERY delivers the
header's first two doublewords. -/
def Obligations.ObjectsComplete : Prop :=
  (∀ (s : State) (f : FmtS) (leaf : DWord) (pa : Nat),
    let x := s.issueOf (.cobjInit f)
    let r := s.rfOf x
    let va := r.read2 f.a x.low
    let img := r.read1 (f.a + 2) x.low
    let k := s.core x.core
    let d := k.objImage (fieldN img 0 24)
    let st := s.initStatus pa (eLoc leaf != 0 || !bitAt leaf 2 || !bitAt leaf 3 || eCrypt leaf == 2) d
    s.readyFor (.cobjInit f) = true → va.toNat < 2 ^ 57 → va.toNat % 64 = 0 → s.translate x.core x.who (s.regionOf x) va .read ≠ .miss →
    s.cachedPage x.core (s.regionOf x) va = some (leaf, pa) → s.leafFault (s.regionOf x) leaf pa .update = none →
    k.ownScr img 64 = true → fieldN img 0 24 % 16 = 0 → s.busyBefore x = false → s.coreTracks x.core = false → (s.obj pa).wave = none →
    s.poisonIn x (fieldN img 0 24) 64 = none →
    ∃ t : State, exec (.cobjInit f) s = .next (s.doneWith (.cobjInit f) (t.putOnce x 1 f.d (BitVec.ofNat 64 st)))
      ∧ (st ≠ 0 → sameBytes s t)
      ∧ (st = 0 → s.openMem = true → eMir leaf = false → (∀ o ∈ s.fab.objs, o.2.armed = true → o.1 = pa) →
          hdrVld t.mem pa = true ∧ hdrPois t.mem pa = false ∧ bitAt (t.mem.dword pa) 61 = false
          ∧ hdrNmeth t.mem pa = fieldN (d.getD 0 0) 56 5 ∧ hdrPlen t.mem pa = fieldN (d.getD 0 0) 32 7
          ∧ hdrMbase t.mem pa = fieldN (d.getD 2 0) 0 57
          ∧ (∀ b, b < 64 * hdrPlen t.mem pa → t.mem.byte 0 (pa + 64 + b) = 0)
          ∧ (∀ loc b, loc < 3 → loc ≠ 0 ∨ b < pa ∨ pa + 64 + 64 * hdrPlen t.mem pa ≤ b → t.mem.byte loc b = s.mem.byte loc b)
          ∧ (t.obj pa).armed = false))
  ∧ (∀ (s : State) (f : FmtS) (a : LaneAcc),
    let x := s.issueOf (.cobjArm f)
    let va := (s.rfOf x).read2 f.a x.low
    let pa := a.home.addr
    s.readyFor (.cobjArm f) = true → s.checkHeader x .update x.low va = .ok a → s.busyBefore x = false → s.coreTracks x.core = false →
    (s.obj pa).wave = none →
    (hdrVld s.mem pa = false ∨ eCrypt a.leaf = 2 → exec (.cobjArm f) s = .next (s.doneWith (.cobjArm f) ((x.settled s).putOnce x 1 f.d 1)))
    ∧ (hdrVld s.mem pa = true → eCrypt a.leaf ≠ 2 → ∀ n, s.takeMethods x pa = .error (n, none) →
        exec (.cobjArm f) s = .next (s.doneWith (.cobjArm f) ((x.settled s).putOnce x 1 f.d (BitVec.ofNat 64 (3 + 256 * n)))))
    ∧ (hdrVld s.mem pa = true → eCrypt a.leaf ≠ 2 → ∀ ms, s.takeMethods x pa = .ok ms →
        ∃ t : State, exec (.cobjArm f) s = .next (s.doneWith (.cobjArm f) (t.putOnce x 1 f.d 0))
          ∧ (t.obj pa).armed = true ∧ (t.obj pa).methods = ms ∧ (t.obj pa).armVa = va
          ∧ (s.openMem = true → eMir a.leaf = false → (∀ o ∈ s.fab.objs, o.2.armed = true → o.1 = pa) → bitAt (t.mem.dword pa) 61 = true ∧ hdrPois t.mem pa = false)))
  ∧ (∀ (s : State) (f : FmtS) (a : LaneAcc),
    let x := s.issueOf (.cobjQuery f)
    let pa := a.home.addr
    s.readyFor (.cobjQuery f) = true → s.checkHeader x .read x.low ((s.rfOf x).read2 f.a x.low) = .ok a → s.quiet → (s.obj pa).wave = none →
    s.mem.poisoned 0 pa 16 = false → isGz f.d = false → eCrypt a.leaf ≠ 2 →
    exec (.cobjQuery f) s = .next (s.doneWith (.cobjQuery f)
      (((x.settled s).putOnce x 2 f.d (s.mem.dword pa)).putOnce x 2 (f.d + 2) (s.mem.dword (pa + 8)))))

/-! ## Barriers -/

/-- The state of a barrier (R374, R375, R237): an arrival adds one to ARR; the one that reaches EXPC sets ARR to 0, completes the
phase and notes whether it is abandoned. A warp's arrival takes effect when every slice that has not exited has recorded one. A killed
warp that was counted takes one from EXPC, for the current phase, which is then abandoned, if it has not arrived in it,
and from the next phase on if it has.
NBARV, NBWAIT, NBSYNC (R376) and BARINIT.nb (R379) complete. In a gang each acting slice arrives, and a wait consumes the oldest phase
that its slice has not consumed: complete, it writes the status in every active lane of the slice; not complete, the slice is parked. A
sequencer does the same for itself, its arrival counting once. BARINIT.nb sets EXPC at once when the phase has no arrival, else
from the next phase. No memory, scratchpad, g or k register changes. -/
def Obligations.NumberedBarriers : Prop :=
  ((∀ b : Bar,
     (b.arr + 1 < b.exp → b.arrive = { b with arr := b.arr + 1 })
     ∧ (b.exp ≤ b.arr + 1 → b.arrive.arr = 0 ∧ b.arrive.ph = b.ph + 1 ∧ b.arrive.exp = b.next.getD b.exp - b.less ∧ b.arrive.next = none
         ∧ ∀ n, n < 32 → bitAt b.arrive.abh n = if n = b.ph.toNat % 32 then b.aband else bitAt b.abh n))
   ∧ (∀ (b : Bar) (w k : Nat) (left : BitVec 8), k < 8 →
     let r := setBit (Sparse.get 0 b.recd w) k true
     let c := b.record w k left
     if left &&& ~~~ r = 0
     then c.arr = b.arrive.arr ∧ c.ph = b.arrive.ph ∧ c.abh = b.arrive.abh ∧ c.exp = b.arrive.exp ∧ w ∈ c.counted ∧ ∀ m, c.pending w m = false
     else c.arr = b.arr ∧ c.ph = b.ph ∧ c.abh = b.abh ∧ c.exp = b.exp ∧ c.counted = b.counted ∧ c.pending w k = true)
   ∧ ∀ (b : Bar) (w : Nat),
     (b.all = false ∧ w ∉ b.counted → (b.leave w).exp = b.exp ∧ (b.leave w).arr = b.arr ∧ (b.leave w).ph = b.ph ∧ (b.leave w).less = b.less)
     ∧ (b.all = true ∨ w ∈ b.counted →
         (w ∈ b.arrived → (b.leave w).exp = b.exp ∧ (b.leave w).ph = b.ph ∧ (b.leave w).less = b.less + 1)
         ∧ (w ∉ b.arrived → b.arr < b.exp - 1 → (b.leave w).exp = b.exp - 1 ∧ (b.leave w).arr = b.arr ∧ (b.leave w).ph = b.ph ∧ (b.leave w).aband = true)
         ∧ (w ∉ b.arrived → b.exp - 1 ≤ b.arr → (b.leave w).arr = 0 ∧ (b.leave w).ph = b.ph + 1 ∧ bitAt (b.leave w).abh (b.ph.toNat % 32) = true)))
  ∧
  ((∀ (s : State) (c w j : Nat) (i : Instr) (f : FmtY) (arrive wait : Bool),
     (i, arrive, wait) ∈ [(.nbarv f, true, false), (.nbwait f, false, true), (.nbsync f, true, true)] →
     let x := s.gangIssue c w j i
     let v := s.warp c w
     let r := BarRef.num f.nb.toNat
     let sls := actingSlices x.acting x.slices
     s.gangReady c w j i = true → s.acts c w j i = true →
     (arrive = true → ∀ k ∈ sls, (v.slice k).arrived = none ∧ (s.getBar x r).pending w k = false) →
     let b := if arrive then sls.foldl (fun b k => b.record w k v.left) (s.getBar x r) else s.getBar x r
     let p := fun k => Sparse.get 0 (v.slice k).wph f.nb.toNat
     ∃ t : State, exec i s = .next (s.gangGoes c w j i t
         ((x.slices.filter fun k => !sls.contains k || !wait || b.passed (p k)).map fun k => (k, x.next)))
       ∧ t.getBar x r = b
       ∧ (wait = true → ∀ k ∈ sls, if b.passed (p k)
           then Sparse.get 0 ((t.warp c w).slice k).wph f.nb.toNat = p k + 1
             ∧ (predCode f.d < 7 → ∀ l ∈ v.activeLanes k, (t.warp c w).rf.readP (predCode f.d) l = b.status (p k))
           else ((t.warp c w).slice k).st = .parked ∧ ((t.warp c w).slice k).park = .barrier ∧ ((t.warp c w).slice k).pc = (v.slice k).pc
             ∧ ((t.warp c w).slice k).wph = (v.slice k).wph)
       ∧ t.mem = s.mem ∧ sameScratch s t ∧ (t.warp c w).rf.k = v.rf.k ∧ ∀ m l, (t.warp c w).rf.readG m l = v.rf.readG m l)
   ∧ (∀ (s : State) (c n : Nat) (cp : Bool) (i : Instr) (f : FmtY) (arrive wait : Bool),
     (i, arrive, wait) ∈ [(.nbarv f, true, false), (.nbwait f, false, true), (.nbsync f, true, true)] → s.seqReady c n cp i = true →
     let x := s.seqIssue c n cp i
     let q := (s.core c).seq n cp
     let r := BarRef.num f.nb.toNat
     let b := if arrive && q.tok.isNone then (s.getBar x r).arrive else s.getBar x r
     let p := Sparse.get 0 q.wph f.nb.toNat
     if wait = false ∨ b.passed p = true
     then ∃ t : State, exec i s = .next (s.seqDone c n cp i t) ∧ t.getBar x r = b ∧ t.mem = s.mem ∧ sameScratch s t
       ∧ (wait = true → Sparse.get 0 ((t.core c).seq n cp).wph f.nb.toNat = p + 1
           ∧ (predCode f.d < 7 → ((t.core c).seq n cp).rf.readP (predCode f.d) 0 = b.status p))
     else ∃ t : State, exec i s = .next t ∧ t.getBar x r = b ∧ t.mem = s.mem ∧ sameScratch s t ∧ ((t.core c).seq n cp).st = .parked
       ∧ ((t.core c).seq n cp).park = .barrier ∧ ((t.core c).seq n cp).pc = q.pc ∧ ((t.core c).seq n cp).wph = q.wph)
   ∧ ∀ (s : State) (c w j : Nat) (f : FmtY),
     let i : Instr := .barinitNb f
     let x := s.gangIssue c w j i
     let r := BarRef.num f.nb.toNat
     let b := s.getBar x r
     s.gangReady c w j i = true → s.acts c w j i = true →
     ∃ t : State, exec i s = .next (s.gangDone c w j i t) ∧ (t.getBar x r).arr = b.arr ∧ (t.getBar x r).ph = b.ph ∧ (t.getBar x r).abh = b.abh
       ∧ (t.getBar x r).counted = [] ∧ (t.getBar x r).all = false
       ∧ (if b.arr = 0 then (t.getBar x r).exp = f.imm12.toNat else (t.getBar x r).exp = b.exp ∧ (t.getBar x r).next = some f.imm12.toNat)
       ∧ t.mem = s.mem ∧ sameScratch s t ∧ ∀ d v, (t.warp d v).rf = (s.warp d v).rf)

/-- BARARV, BARWAIT, BARSYNC and BARINIT (R377, R378) check their offset in the order of R377, and complete: BARARV delivers PHASE as it stands
when its slice's arrival is recorded; a wait whose phase is not complete parks its slice. BARINIT registers the object, keeping PHASE
and ABH, unless another block holds it or 64 others are registered, and its predicate says so. -/
def Obligations.BarrierObjects : Prop :=
  (∀ (s : State) (c w j : Nat) (i : Instr) (f : FmtY) (arrive wait : Bool),
    (i, arrive, wait) ∈ [(.bararv f, true, false), (.barwait f, false, true), (.barsync f, true, true)] →
    let x := s.gangIssue c w j i
    let v := s.warp c w
    let a := v.rf.read1 f.a x.low
    let o := fieldN a 0 24
    let r := BarRef.obj o
    let sls := actingSlices x.acting x.slices
    s.gangReady c w j i = true → s.acts c w j i = true → x.again = false → (∀ k ∈ sls, (v.slice k).arrived = none) →
    ((s.core c).ownScr a 1 = false → exec i s = .next (s.finishGang x v.pmsel (.fault sls cPF (a.setWidth 64))))
    ∧ ((s.core c).ownScr a 1 = true → o % 16 ≠ 0 → exec i s = .next (s.finishGang x v.pmsel (.fault sls cAL (a.setWidth 64))))
    ∧ ((s.core c).ownScr a 1 = true → o % 16 = 0 → (∀ q ∈ (s.core c).bars, q.ofs = o → q.block ≠ v.block) →
        exec i s = .next (s.finishGang x v.pmsel (.fault sls cPF (a.setWidth 64))))
    ∧ ((s.core c).ownScr a 1 = true → o % 16 = 0 → (∃ q ∈ (s.core c).bars, q.ofs = o ∧ q.block = v.block) →
        (arrive = true → ∀ k ∈ sls, (s.getBar x r).pending w k = false) →
        let upTo := fun (l : List Nat) => l.foldl (fun b k => b.record w k v.left) (s.getBar x r)
        let b := if arrive then upTo sls else s.getBar x r
        let p := fun k => if arrive then (upTo (sls.takeWhile (· != k))).ph else v.rf.read1 f.b x.low
        ∃ t : State, exec i s = .next (s.gangGoes c w j i t
            ((x.slices.filter fun k => !sls.contains k || !wait || b.passed (p k)).map fun k => (k, x.next)))
          ∧ t.getBar x r = b
          ∧ (wait = true → ∀ k ∈ sls, if b.passed (p k)
              then predCode f.d < 7 → ∀ l ∈ v.activeLanes k, (t.warp c w).rf.readP (predCode f.d) l = b.status (p k)
              else ((t.warp c w).slice k).st = .parked ∧ ((t.warp c w).slice k).park = .barrier ∧ ((t.warp c w).slice k).pc = (v.slice k).pc)
          ∧ (wait = false → isG f.d = true → ∀ l ∈ x.acting, (t.warp c w).rf.readG f.d.toNat l = p (l / 4))
          ∧ (wait = false → isK f.d = true → (t.warp c w).rf.readK (kIdx f.d) = p (x.low / 4))
          ∧ t.mem = s.mem ∧ sameScratch s t))
  ∧ ∀ (s : State) (c w j : Nat) (f : FmtY),
    let i : Instr := .barinit f
    let x := s.gangIssue c w j i
    let v := s.warp c w
    let k := s.core c
    let a := v.rf.read1 f.a x.low
    let o := fieldN a 0 24
    let ok := match k.bars.find? fun q => q.ofs == o with
      | some q => q.block == v.block
      | none => decide (k.bars.length < 64)
    s.gangReady c w j i = true → s.acts c w j i = true → k.ownScr a 1 = true → o % 16 = 0 → s.scrStores x o 16 = false →
    ((∃ q ∈ k.bars, q.ofs = o) ∨ k.scrPoisonAt o 16 = none) →
    ∃ t : State, exec i s = .next (s.gangDone c w j i t)
      ∧ (predCode f.d < 7 → ∀ n ∈ actingSlices x.acting x.slices, ∀ l ∈ v.activeLanes n, (t.warp c w).rf.readP (predCode f.d) l = ok)
      ∧ (ok = false → (t.core c).bars = k.bars)
      ∧ (ok = true → (t.core c).bars.find? (fun q => q.ofs == o) = some ⟨o, v.block,
          { Bar.init f.imm12.toNat false with ph := BitVec.ofNat 32 (k.scrNat (o + 4) 4), abh := BitVec.ofNat 32 (k.scrNat (o + 8) 4) }⟩)
      ∧ (∀ m, m ≠ o → (t.core c).bars.find? (fun q => q.ofs == m) = k.bars.find? (fun q => q.ofs == m))
      ∧ t.mem = s.mem ∧ sameScratch s t

/-! ## Control transfer, sequencers, tasks -/

/-- The instruction boundary of a slice (R213): it goes on at an address of 57 bits; at the join of its innermost entry the lanes that
still have to run the other path do so, and then all of them rejoin; a slice with no active lane and no entry left has exited. That the address is
cut to 57 bits, as a stop record holds it (R236, R382), is the model's reading (log 15). -/
def Obligations.SliceBoundary : Prop :=
  ∀ (y : Slice) (pc : DWord), let z := y.goto pc; let a := pc &&& 0x1FFFFFFFFFFFFFF
    (y.stack = [] → z.pc = a ∧ z.mask = y.mask ∧ z.stack = [] ∧ z.st = if y.mask = 0 then .exited else .running)
    ∧ (∀ top rest, y.stack = top :: rest → y.mask ≠ 0 → top.join ≠ a → z.pc = a ∧ z.mask = y.mask ∧ z.stack = y.stack ∧ z.st = .running)
    ∧ (∀ top rest, y.stack = top :: rest → top.join = a → top.pend ≠ 0 → top.ppc ≠ top.join →
        z.pc = top.ppc ∧ z.mask = top.pend ∧ z.stack = { top with pend := 0 } :: rest ∧ z.st = .running)
    ∧ (∀ top, y.stack = [top] → top.join = a → top.pend = 0 → top.m ≠ 0 → z.pc = a ∧ z.mask = top.m ∧ z.stack = [] ∧ z.st = .running)

/-- BRA, BRX, CALL, RET, EXIT, REGANG and NOP complete (R212 to R214, R380 to R385). A slice whose lanes disagree at a BRA pushes an entry
with the join and the lanes that fall through; without a join, or at depth eight, it raises BD. BRX, CALL and RET go to the address that
a slice's acting lanes agree on, CALL writing its return address after its target is read. EXIT ends its acting lanes and arrives
nowhere. REGANG makes one gang of the slices of its mask once they all wait there. No memory and no other register changes. That addresses, the join
that BRA pushes among them, are cut to 57 bits is the model's reading (log 15). -/
def Obligations.ControlTransfers : Prop :=
  (∀ (s : State) (c w j : Nat) (f : FmtC),
    let i : Instr := .bra f
    let x := s.gangIssue c w j i
    let v := s.warp c w
    let lanes := laneMask x.acting
    let splits := fun k => lanes k ≠ 0 ∧ lanes k ≠ (v.slice k).mask
    let bad := fun k => lanes k != 0 && lanes k != (v.slice k).mask && (f.j20 == 0 || decide (8 ≤ (v.slice k).stack.length))
    s.gangReady c w j i = true →
    ((∃ k ∈ x.slices, bad k = true) → exec i s = .next (s.finishGang x v.pmsel (.fault (x.slices.filter bad) cBD 0)))
    ∧ ((∀ k ∈ x.slices, bad k = false) → ∃ t : State,
        exec i s = .next (s.gangGoes c w j i t (x.slices.map fun k => (k, if lanes k = 0 then x.next else x.pc + 8 * f.t20.signExtend 64)))
        ∧ t.mem = s.mem ∧ sameRegs s t
        ∧ ∀ k ∈ x.slices,
          (¬ splits k → (t.warp c w).slice k = v.slice k)
          ∧ (splits k → (t.warp c w).slice k = { v.slice k with mask := lanes k, stack := ⟨(x.pc + 8 * f.j20.signExtend 64) &&& 0x1FFFFFFFFFFFFFF,
              (v.slice k).mask, x.next, (v.slice k).mask &&& ~~~ lanes k⟩ :: (v.slice k).stack })))
  ∧ (∀ (s : State) (c w j : Nat) (i : Instr) (f : FmtC) (call : Bool), (i, call) ∈ [(.brx f, false), (.call f, true), (.ret f, false)] →
    let x := s.gangIssue c w j i
    let v := s.warp c w
    let pair := fun l => v.rf.read2 f.l l &&& 0x1FFFFFFFFFFFFFF
    let tgt := fun l => if call && f.t20 != 0 then x.pc + 8 * f.t20.signExtend 64 else pair l
    let mine := fun k => x.acting.filter fun l => l / 4 == k
    let agrees := fun k => mine k = [] ∨ (mine k = v.activeLanes k ∧ ∀ l ∈ mine k, tgt l = tgt ((mine k).headD 0))
    s.gangReady c w j i = true →
    (¬ (∀ k ∈ x.slices, agrees k) → ∃ sls, (∀ k, k ∈ sls ↔ k ∈ x.slices ∧ ¬ agrees k) ∧
        exec i s = .next (s.finishGang x v.pmsel (.fault sls cBD 0)))
    ∧ ((∀ k ∈ x.slices, agrees k) →
        exec i s = .next (s.gangGoes c w j i
          (if call then s.setRF c w (v.rf.writeLanes 2 f.l x.acting fun _ => x.pc + 8) else s)
          (x.slices.map fun k => (k, if mine k = [] then x.next else tgt ((mine k).headD 0))))))
  ∧ (∀ (s : State) (c b : Nat) (cp : Bool) (f : FmtC),
    let q := (s.core c).seq b cp
    let pair := q.rf.read2 f.l 0 &&& 0x1FFFFFFFFFFFFFF
    (s.seqReady c b cp (.bra f) = true → exec (.bra f) s = .next (s.finishSeq (s.seqIssue c b cp (.bra f)) (.go s [(0, q.pc + 8 * f.t20.signExtend 64)])))
    ∧ (∀ i ∈ [Instr.brx f, .ret f], s.seqReady c b cp i = true → exec i s = .next (s.finishSeq (s.seqIssue c b cp i) (.go s [(0, pair)])))
    ∧ (s.seqReady c b cp (.call f) = true → exec (.call f) s = .next (s.finishSeq (s.seqIssue c b cp (.call f))
        (.go (s.setSeq c b cp { q with rf := q.rf.write2 f.l 0 (q.pc + 8) }) [(0, if f.t20 = 0 then pair else q.pc + 8 * f.t20.signExtend 64)])))
    ∧ (s.seqReady c b cp (.nop f) = true → exec (.nop f) s = .next (s.seqDone c b cp (.nop f) s)))
  ∧ (∀ (s : State) (c w j : Nat) (f : FmtC),
    let i : Instr := .exit f
    let x := s.gangIssue c w j i
    s.gangReady c w j i = true →
    ∃ t : State, exec i s = .next (s.gangGoes c w j i t (x.slices.map fun k => (k, x.next))) ∧ t.mem = s.mem ∧ sameRegs s t
      ∧ (∀ k ∈ x.slices, ((t.warp c w).slice k).mask = ((s.warp c w).slice k).mask &&& ~~~ laneMask x.acting k)
      ∧ (∀ n, n < 16 → Sparse.get 0 (((s.core c).block x.block).bar n).recd w = 0 → ((t.core c).block x.block).bar n = ((s.core c).block x.block).bar n))
  ∧ (∀ (s : State) (c w j : Nat) (f : FmtC), s.gangReady c w j (.nop f) = true → exec (.nop f) s = .next (s.gangDone c w j (.nop f) s))
  ∧ ∀ (s : State) (c w j : Nat) (f : FmtC),
    let i : Instr := .regang f
    let x := s.gangIssue c w j i
    let v := s.warp c w
    let waits := fun k => (v.slice k).st = .parked ∧ (v.slice k).park = .regang
    let here := fun k => waits k ∧ (v.slice k).pc = x.pc ∧ (v.slice k).rgMask = f.l
    let other := fun k => k < 8 ∧ bitAt f.l k = true ∧ k ∉ x.slices ∧ (v.slice k).st ≠ .exited
    let enters := x.again = false ∨ ∃ k ∈ x.slices, (v.slice k).ready = true
    s.gangReady c w j i = true → (x.again = true → ∀ k ∈ x.slices, waits k) →
    ((∃ k ∈ x.slices, bitAt f.l k = false) → exec i s = .next (s.finishGang x v.pmsel (.fault (x.slices.filter fun k => !bitAt f.l k) cGM 0)))
    ∧ ((∀ k ∈ x.slices, bitAt f.l k = true) → enters → (∃ k, k < 8 ∧ bitAt f.l k = true ∧ waits k ∧ ¬ here k) →
        exec i s = .next (s.finishGang x v.pmsel (.fault x.slices cGM 0)))
    ∧ ((∀ k ∈ x.slices, bitAt f.l k = true) → (¬ enters ∨ ∀ k, k < 8 → bitAt f.l k = true → waits k → here k) → (∃ k, other k ∧ ¬ here k) →
        ∃ t : State, exec i s = .next (s.gangGoes c w j i t []) ∧ t.mem = s.mem ∧ sameRegs s t
          ∧ ∀ k ∈ x.slices, ((t.warp c w).slice k).st = .parked ∧ ((t.warp c w).slice k).park = .regang ∧ ((t.warp c w).slice k).rgMask = f.l
            ∧ ((t.warp c w).slice k).pc = (v.slice k).pc)
    ∧ ((∀ k ∈ x.slices, bitAt f.l k = true) → (¬ enters ∨ ∀ k, k < 8 → bitAt f.l k = true → waits k → here k) → (∀ k, other k → here k) →
        (∃ k ∈ x.slices, ((v.slice k).goto x.next).st ≠ .exited) →
        ∃ t : State, exec i s = .next t ∧ t.mem = s.mem ∧ sameRegs s t
          ∧ ∀ k, k ∈ x.slices ∨ other k →
            ((t.warp c w).slice k).pc = ((v.slice k).goto x.next).pc ∧ ((t.warp c w).slice k).mask = ((v.slice k).goto x.next).mask
            ∧ ((t.warp c w).slice k).stack = ((v.slice k).goto x.next).stack ∧ ((t.warp c w).slice k).st = ((v.slice k).goto x.next).st
            ∧ (((v.slice k).goto x.next).st ≠ .exited → ∀ m, m < 8 → (bitAt ((t.warp c w).slice k).gang m = true ↔
                (m ∈ x.slices ∨ other m) ∧ ((v.slice m).goto x.next).st ≠ .exited ∧ ((v.slice m).goto x.next).pc = ((v.slice k).goto x.next).pc)))

/-- FORK, RDV, SEQEND, and EXIT in a sequencer, complete (R211, R386): FORK starts an idle sequencer with the warp's k0 to k15 and parks
its acting slices while the sequencer is busy; RDV completes once it is idle, and till then nothing changes; SEQEND makes it idle
once the jobs of its stream are complete. Where it leaves the block without a warp or a running sequencer, and nothing of the block is
on its way, the task retires (R207). The model's readings: FORK parks the slices that act alone, the others of the gang go on (log 56); RDV waits
without a park (log 57); the start is cut to 57 bits (log 15). -/
def Obligations.SequencersComplete : Prop :=
  (∀ (s : State) (c w j : Nat) (f : FmtS),
    let i : Instr := .fork f
    let x := s.gangIssue c w j i
    let q := (s.core c).seq x.block (bitAt f.sel 0)
    let rf := (s.warp c w).rf
    s.gangReady c w j i = true → s.acts c w j i = true →
    (q.st = .exited → ∃ t : State, exec i s = .next (s.gangDone c w j i t)
        ∧ (let p := (t.core c).seq x.block (bitAt f.sel 0)
          p.st = .running ∧ p.pc = (if isGz f.a then x.pc + 8 * f.imm16.signExtend 64 else rf.read2 f.a 0) &&& 0x1FFFFFFFFFFFFFF
          ∧ (∀ n, n < 16 → p.rf.readK n = rf.readK n) ∧ p.wph = q.wph)
        ∧ t.mem = s.mem ∧ sameScratch s t ∧ ∀ d v, (t.warp d v).rf = (s.warp d v).rf)
    ∧ (q.st ≠ .exited → x.again = false → ∃ t : State,
        exec i s = .next (s.gangGoes c w j i t ((x.slices.filter fun k => !(actingSlices x.acting x.slices).contains k).map fun k => (k, x.next)))
        ∧ t.mem = s.mem ∧ sameRegs s t ∧ ∀ k ∈ actingSlices x.acting x.slices,
            ((t.warp c w).slice k).st = .parked ∧ ((t.warp c w).slice k).park = .fork ∧ ((t.warp c w).slice k).pc = ((s.warp c w).slice k).pc)
    ∧ (q.st ≠ .exited → x.again = true → exec i s = .next s))
  ∧ (∀ (s : State) (c w j : Nat) (f : FmtS), s.gangReady c w j (.rdv f) = true → s.acts c w j (.rdv f) = true →
    exec (.rdv f) s = .next (if ((s.core c).seq (s.warp c w).block (bitAt f.sel 0)).st = .exited then s.gangDone c w j (.rdv f) s else s))
  ∧ ∀ (s : State) (c b : Nat) (cp : Bool) (i : Instr) (f : FmtS) (g : FmtC), i ∈ [Instr.seqend f, .exit g] → s.seqReady c b cp i = true →
    let y := (s.core c).block b
    let l := s.launch y.launch
    ((cp = false ∧ ∃ q ∈ (s.core c).jobs, q.block = b) → exec i s = .next s)
    ∧ ((cp = true ∨ ∀ q ∈ (s.core c).jobs, q.block ≠ b) →
        (y.warps ≠ [] ∨ (y.seq (!cp)).st ≠ .exited → ∃ t : State, exec i s = .next t ∧ ((t.core c).seq b cp).st = .exited
            ∧ ((t.core c).seq b cp).rf = (y.seq cp).rf ∧ t.mem = s.mem ∧ t.launches = s.launches)
        ∧ (y.live = true → y.warps = [] → (y.seq (!cp)).st = .exited → s.blockBusy c b = false → ∃ t : State, exec i s = .next t
            ∧ ((t.core c).block b).live = false ∧ (t.launch y.launch).counter = l.counter - 1 ∧ (t.launch y.launch).retired = l.retired + 1
            ∧ (1 < l.counter → (t.launch y.launch).phase = l.phase ∧ t.mem = s.mem)
            ∧ (l.counter ≤ 1 → (t.launch y.launch).phase = 2)))

/-- SOW, WAITP, TRIGGER, CSRR, CSRW, SVC, and BRKPT and TRAP (R385, R387 to R394), complete: SOW numbers a task and queues it, or parks its slices with
it on a full queue, and a slice that is parked so queues that same task later; a stage that is not there, or a counter at its end,
raises QF. WAITP completes once its launch's producers are satisfied. SVC sends its argument and leaves its pair pending. BRKPT and
TRAP raise TP in the slices that act. The model's readings: IMM16 of SOW is signed (log 58); only the slices that act park at SOW and WAITP (log 56);
CSRR and CSRW act before their own instruction is counted (log 79); the entry of a task is cut to 57 bits (log 15). -/
def Obligations.SystemComplete : Prop :=
  (∀ (s : State) (c w j : Nat) (f : FmtS),
    let i : Instr := .sow f
    let x := s.gangIssue c w j i
    let v := s.warp c w
    let sls := actingSlices x.acting x.slices
    let lid := s.launchOf x
    let l := s.launch lid
    let st := fieldN f.sel 0 3
    let entry := (if bitAt f.sel 15 then v.rf.read2 (f.a + 2) x.low else if f.imm16 ≠ 0 then x.pc + 8 * f.imm16.signExtend 64
      else if l.nstg = 0 then l.entry else (l.stage st).1) &&& 0x1FFFFFFFFFFFFFF
    let task : TaskRec := ⟨lid, entry, v.rf.read2 f.a x.low, st, BitVec.ofNat 32 l.nextNum, s.nextId, false⟩
    s.gangReady c w j i = true → s.acts c w j i = true →
    (x.again = false → ((l.nstg ≠ 0 ∧ l.nstg ≤ st) ∨ (l.nstg = 0 ∧ st ≠ 0) ∨ 2 ^ 32 ≤ l.counter + 1) →
        exec i s = .next (s.finishGang x v.pmsel (.fault sls cQF (BitVec.ofNat 64 st))))
    ∧ (x.again = false → (l.nstg = 0 → st = 0) → (l.nstg ≠ 0 → st < l.nstg) → l.counter + 1 < 2 ^ 32 → s.busyBefore x = false → s.coreTracks c = false →
        ∃ (t : State) (next : List (Nat × DWord)), exec i s = .next (s.gangGoes c w j i t next)
          ∧ (t.launch lid).counter = l.counter + 1 ∧ (t.launch lid).nextNum = l.nextNum + 1 ∧ t.mem = s.mem ∧ sameScratch s t
          ∧ (isG f.d = true → ∀ n ∈ x.acting, (t.warp c w).rf.readG f.d.toNat n = task.num)
          ∧ (isK f.d = true → (t.warp c w).rf.readK (kIdx f.d) = task.num)
          ∧ (if (l.queue st).length < l.qcap st ∧ s.heldBefore lid st s.nextId = false
              then (t.launch lid).queue st = l.queue st ++ [task] ∧ next = x.slices.map fun k => (k, x.next)
              else (t.launch lid).queue st = l.queue st ∧ next = (x.slices.filter fun k => !sls.contains k).map (fun k => (k, x.next))
                ∧ ((t.warp c w).slice (sls.headD 0)).held = some task
                ∧ ∀ k ∈ sls, ((t.warp c w).slice k).st = .parked ∧ ((t.warp c w).slice k).park = .sow))
    ∧ (x.again = true → ∀ h, (v.slice (x.slices.headD 0)).held = some h →
        if ((s.launch h.launch).queue h.stage).length < (s.launch h.launch).qcap h.stage ∧ s.heldBefore h.launch h.stage h.seq = false
        then ∃ t : State, exec i s = .next (s.gangDone c w j i t) ∧ (t.launch h.launch).queue h.stage = (s.launch h.launch).queue h.stage ++ [h]
          ∧ (t.launch h.launch).counter = (s.launch h.launch).counter ∧ ((t.warp c w).slice (x.slices.headD 0)).held = none ∧ t.mem = s.mem
        else exec i s = .next s))
  ∧ (∀ (s : State) (c w j : Nat) (f : FmtS),
    let i : Instr := .waitp f
    let x := s.gangIssue c w j i
    let sls := actingSlices x.acting x.slices
    s.gangReady c w j i = true → s.acts c w j i = true →
    (s.producersOk (s.launchOf x) = true → exec i s = .next (s.gangDone c w j i s))
    ∧ (s.producersOk (s.launchOf x) = false → x.again = true → exec i s = .next s)
    ∧ (s.producersOk (s.launchOf x) = false → x.again = false → ∃ t : State,
        exec i s = .next (s.gangGoes c w j i t ((x.slices.filter fun k => !sls.contains k).map fun k => (k, x.next))) ∧ t.mem = s.mem ∧ sameRegs s t
        ∧ ∀ k ∈ sls, ((t.warp c w).slice k).st = .parked ∧ ((t.warp c w).slice k).park = .waitp))
  ∧ (∀ (s : State) (c w j : Nat) (f : FmtS),
    let i : Instr := .trigger f
    let x := s.gangIssue c w j i
    s.gangReady c w j i = true → s.acts c w j i = true → s.busyBefore x = false → s.coreTracks c = false →
    exec i s = .next (s.gangDone c w j i (s.modLaunch (s.launchOf x) fun l => { l with triggered := true })))
  ∧ (∀ (s : State) (c w j : Nat) (f : FmtS),
    let i : Instr := .csrr f
    let x := s.gangIssue c w j i
    let v := s.warp c w
    s.gangReady c w j i = true → s.acts c w j i = true →
    exec i s = .next (s.gangDone c w j i (s.setRF c w (v.rf.writeLanes (if csr64.contains f.sel.toNat then 2 else 1) f.d x.acting (s.csr x f.sel.toNat))))
    ∧ ∀ l, l < 32 → s.csr x 0x000 l = BitVec.ofNat 64 l ∧ s.csr x 0x001 l = BitVec.ofNat 64 (l / 4) ∧ s.csr x 0x002 l = BitVec.ofNat 64 w
      ∧ s.csr x 0x003 l = BitVec.ofNat 64 v.block
      ∧ (c < 128 → fieldN (s.csr x 0x008 l) 16 8 = c ∧ fieldN (s.csr x 0x008 l) 8 2 = pwGF (s.core c).pword ∧ fieldN (s.csr x 0x008 l) 4 3 = c / 16
          ∧ fieldN (s.csr x 0x008 l) 0 4 = c % 16 ∧ fieldN (s.csr x 0x008 l) 24 8 = 0)
      ∧ (s.csr x 0x00A l).toNat = s.ctxOf x % 65536 ∧ s.csr x 0x00B l = (s.regionOf x).asn.setWidth 64 ∧ s.csr x 0x010 l = (s.core c).cycle
      ∧ s.csr x 0x011 l = (s.core c).chkrpl.setWidth 64 ∧ s.csr x 0x012 l = v.instret ∧ s.csr x 0x018 l = v.pmsel.setWidth 64 ∧ s.csr x 0x019 l = v.pmcnt)
  ∧ (∀ (s : State) (c w j : Nat) (f : FmtS),
    let i : Instr := .csrw f
    let x := s.gangIssue c w j i
    let v := s.warp c w
    s.gangReady c w j i = true → s.acts c w j i = true →
    exec i s = .next (s.gangDone c w j i (s.modWarp c w fun y =>
      if f.sel = 0x018 then { y with pmsel := v.rf.read1 f.a x.low &&& 0xF } else { y with pmcnt := v.rf.read2 f.a x.low })))
  ∧ (∀ (s : State) (c w j : Nat) (f : FmtS),
    let i : Instr := .svc f
    let x := s.gangIssue c w j i
    s.gangReady c w j i = true → s.acts c w j i = true →
    ∃ (t : State) (r : Req), exec i s = .next (s.gangDone c w j i t)
      ∧ t.fab.reqs.map (fun q => { q with tracked := false, sent := none, left := false })
        = (s.fab.reqs ++ [r]).map (fun q => { q with tracked := false, sent := none, left := false })
      ∧ r.kind = .svc ∧ r.meth = f.sel.toNat ∧ r.done = false ∧ r.parts.map (fun p => (p.v, p.opr)) = [(f.d, (s.warp c w).rf.read2 f.a x.low)]
      ∧ (isK f.d = true → ∀ m, m < 2 → Sparse.get false (t.warp c w).pk (kIdx f.d + m) = true)
      ∧ t.mem = s.mem ∧ sameScratch s t ∧ sameRegs s t)
  ∧ ∀ (s : State) (i : Instr) (fva : DWord) (f : FmtC) (g : FmtS),
    (i, fva) ∈ [(Instr.brkpt f, f.l.setWidth 64), (.trap g, 0x8000000000000000 ||| g.imm16.setWidth 64)] →
    (∀ c w j, s.cur = .gang c w j → s.gangReady c w j i = true → s.acts c w j i = true →
      let x := s.gangIssue c w j i
      exec i s = .next (s.finishGang x (s.warp c w).pmsel (.fault (actingSlices x.acting x.slices) cTP fva)))
    ∧ (∀ c b cp, s.cur = .seq c b cp → s.seqReady c b cp i = true → exec i s = .next (s.raiseSeq c b cp cTP fva (encodeWord i)))

/-- LAUNCH_PLACEMENT and BLOCK_PLACEMENT (R203, R205, R208, R209): a launch that its checks refuse is signalled with status 1; otherwise its seed
group is placed on the core with the most free warp slots, once one has room. A stage table that lies at a peer or the host is read on a link before
(R267; the model's reading, log 141); that bits [63:57] of an entry's first dword must be zero is the model's choice (log 134). The balancer of a core places the head task of the queue that
no other candidate is preferred to. -/
def Obligations.Placement : Prop :=
  (∀ (s : State) (lid : Nat), let l := s.launch lid
    let who := agentOf lid
    let gs := s.ioUnread who (s.region l.rcb) l.stageReads
    let u := s.ioDenied (s.region l.rcb) l.stageReads
    l.phase = 0 → (s.region l.rcb).ctx = l.ctx → (s.ctx l.ctx).st = .running → s.outranked lid = false →
    (gs ≠ [] → exec (.launchPlacement lid) s = .next (gs.foldl (fun t p => t.ioAsk who l.ctx p) s))
    ∧ (gs = [] → u.readStages lid l = none → exec (.launchPlacement lid) s = .next ((u.signal lid 1).forget who))
    ∧ ∀ st, gs = [] → u.readStages lid l = some st → let m := { l with stages := st }
      (m.refused (s.region l.rcb).pgf = true → exec (.launchPlacement lid) s = .next ((u.signal lid 1).forget who))
      ∧ (m.refused (s.region l.rcb).pgf = false → u.seedCore m = none → exec (.launchPlacement lid) s = .next (u.forget who))
      ∧ (m.refused (s.region l.rcb).pgf = false → ∀ c, u.seedCore m = some c → (∃ b, b < 256 ∧ ((s.core c).block b).live = false) →
          (∀ d ∈ (s.ctx l.ctx).cores, (s.core d).fits m 1 = true → s.groupFree d (pwGF l.pword) = true → (s.core c).residents ≤ (s.core d).residents)
          ∧ ∃ t : State, exec (.launchPlacement lid) s = .next t ∧ (t.launch lid).phase = 1 ∧ (t.launch lid).stages = st ∧ t.mem = s.mem
            ∧ blockStarted (t.core c) m lid ⟨lid, l.entry, l.args, 0, 0, 0, true⟩ 1 ∧ ∀ d, d ≠ c → t.core d = s.core d))
  ∧ ∀ (s : State) (c : Nat),
    (∀ p ∈ s.launches, s.launch p.1 = p.2) →
    (s.candidates c = [] → exec (.blockPlacement c) s = .next s)
    ∧ (s.candidates c ≠ [] → (∃ b, b < 256 ∧ ((s.core c).block b).live = false) →
        ∃ (lid st : Nat) (t : State) (h : TaskRec) (rest : List TaskRec), (lid, st) ∈ s.candidates c
          ∧ (∀ q ∈ s.candidates c, s.prefers q (lid, st) = false) ∧ (s.launch lid).queue st = h :: rest
          ∧ exec (.blockPlacement c) s = .next t ∧ (t.launch lid).queue st = rest ∧ t.mem = s.mem
          ∧ blockStarted (t.core c) (s.launch lid) lid h ((s.launch lid).warpsOf h) ∧ ∀ d, d ≠ c → t.core d = s.core d)

/-! ## Formats and slots -/

/-- DEC, DEC.blk, ENC, REQ and REQ.blk (R346 to R348, R351) complete for a ready gang once their slot has no operation pending, where it
is bound to an image that has the rounding mode and accepts every acting lane's word; otherwise they raise SL. DEC delivers the code's
value, under the block scale in its form .blk, times 2^s; ENC the code of A times 2^s; REQ the value of that code. -/
def Obligations.FormatsComplete : Prop :=
  ∀ (s : State) (c w j : Nat) (f : FmtF) (i : Instr) (blk : Bool) (g : Img → Word → Nat → RF → Nat → Nat),
    (i, blk, g) ∈ ([
      (.dec f, false, fun m y mode r l => deliver32 m y mode (scaleOf f.sc) f.clp.toNat ((m.elt y f.ew.toNat).decode (r.read1 f.a l).toNat)),
      (.decBlk f, true, fun m y mode r l => deliver32 m y mode (scaleOf f.sc) f.clp.toNat
        (underScale ((m.elt y f.ew.toNat).decode (r.read1 f.a l).toNat) (scaleVal (fieldN (r.read2 f.a l) 32 20)))),
      (.enc f, false, fun m y mode r l => (m.elt y f.ew.toNat).encode m.digest y mode (encValue f r l)),
      (.req f, false, fun m y mode r l => match encValue f r l with
        | .nan => fp32.deliver 1 0 false f.clp.toNat .nan
        | v => fp32.deliver 1 0 false f.clp.toNat ((m.elt y f.ew.toNat).decode ((m.elt y f.ew.toNat).encode m.digest y mode v))),
      (.reqBlk f, true, fun m y mode r l => fp32.deliver 1 0 false f.clp.toNat
        (requantise m f y mode (encValue f r l) (scaleVal (fieldN (r.read2 f.b l) 32 20))))] : List (Instr × Bool × (Img → Word → Nat → RF → Nat → Nat))) →
    let x := s.gangIssue c w j i
    let v := s.warp c w
    let fault := s.finishGang x v.pmsel (.fault (actingSlices x.acting x.slices) cSL (BitVec.ofNat 64 f.fs.toNat))
    s.gangReady c w j i = true → s.acts c w j i = true →
    (((s.core c).fslot f.fs.toNat).queue ≠ [] → exec i s = .next s)
    ∧ (((s.core c).fslot f.fs.toNat).queue = [] →
        (s.slotImg c f.fs.toNat = none → exec i s = .next fault)
        ∧ ∀ m, s.slotImg c f.fs.toNat = some m →
          (m.mode f.rm.toNat = none → exec i s = .next fault)
          ∧ ∀ mode, m.mode f.rm.toNat = some mode →
            let word := fun l => if isGz f.b then m.defaultWord else v.rf.read1 f.b l
            ((∃ l ∈ x.acting, m.accepts (word l) f.ew.toNat blk = false) → exec i s = .next fault)
            ∧ ((∀ l ∈ x.acting, m.accepts (word l) f.ew.toNat blk = true) → exec i s = .next (s.gangDone c w j i
                (s.setRF c w (v.rf.writeLanes 1 f.d x.acting fun l => BitVec.ofNat 64 (g m (word l) mode v.rf l))))))

/-- SCLQ, FMTQ and ENC.blk (R349, R350, R352, R353) complete under a bound image that accepts their words. SCLQ delivers the scale that ENC.blk would
choose, with a bit for a clipped one; FMTQ describes a word. ENC.blk delivers to each lane its code and the block's scale (with A no g register
it encodes once, for the lowest acting lane, R95): an element
that lies outside the finite range is captured as an outlier, its code a zero, while the buffer has room, and else takes the
range limit and is counted. The lanes come one after another: the model's reading (log 70). In a mode of an image an element whose code would be an infinity lies outside as well: the model's reading (log 139). -/
def Obligations.BlockFormatsComplete : Prop :=
  (∀ (s : State) (c w j : Nat) (f : FmtF) (m : Img) (mode : Nat),
    let v := s.warp c w
    let low := fun (i : Instr) => (s.gangIssue c w j i).low
    let word := fun l => if isGz f.b then m.defaultWord else v.rf.read1 f.b l
    let ready := fun (i : Instr) => s.gangReady c w j i = true ∧ s.acts c w j i = true
    let accepted := fun (i : Instr) => ∀ l ∈ (s.gangIssue c w j i).acting, m.accepts (word l) f.ew.toNat true = true
    ((s.core c).fslot f.fs.toNat).queue = [] → s.slotImg c f.fs.toNat = some m →
    (ready (.fmtq f) → exec (.fmtq f) s = .next (s.gangDone c w j (.fmtq f) (s.setRF c w (v.rf.writeLanes 1 f.d (s.gangIssue c w j (.fmtq f)).acting
        fun _ => BitVec.ofNat 64 (m.describe (word (low (.fmtq f))))))))
    ∧ (ready (.sclq f) → m.mode f.rm.toNat = some mode → accepted (.sclq f) →
        let sc := chooseScale (m.elt (word (low (.sclq f))) f.ew.toNat)
          ((s.gangIssue c w j (.sclq f)).acting.map fun l => fp32.decode (v.rf.read1 f.a l).toNat) (fieldN (v.rf.read2 f.b (low (.sclq f))) 32 20)
        exec (.sclq f) s = .next (s.gangDone c w j (.sclq f) (s.setRF c w (v.rf.writeLanes 1 f.d (s.gangIssue c w j (.sclq f)).acting
          fun _ => BitVec.ofNat 64 (sc.1 + if sc.2 then 2 ^ 31 else 0)))))
    ∧ (ready (.encBlk f) → m.mode f.rm.toNat = some mode → accepted (.encBlk f) →
        let x := s.gangIssue c w j (.encBlk f)
        let q := v.rf.read4 f.b x.low
        let ocap := fieldN q 88 8
        let at_ := fieldN q 68 20 * 16
        let k := s.core c
        fieldN q 65 3 = 0 → (ocap = 0 ∨ (at_ + 16 + 128 * ocap ≤ k.scrSize ∧ s.quiet ∧ (bitAt q 64 = true ∨ k.scrPoisonAt at_ 16 = none) ∧ k.bars = [])) →
        let e := m.elt (word x.low) f.ew.toNat
        let vs := (if isG f.a then x.acting else [x.low]).map fun l => (l, encValue f v.rf l)
        let sc := chooseScale e (vs.map Prod.snd) (fieldN q 32 20)
        let old := fun n => if ocap = 0 ∨ bitAt q 64 = true then 0 else k.scrNat (at_ + 4 * n) 4
        let out := BlkEnc.lanes ⟨e, m.digest, word x.low, mode, scaleVal sc.1, ocap, fieldN q 52 12, fieldN q 96 24⟩ ⟨old 0, old 1, []⟩ vs
        ∃ t : State, exec (.encBlk f) s = .next (s.gangDone c w j (.encBlk f) t) ∧ t.mem = s.mem
          ∧ (isG f.d = true → ∀ l ∈ x.acting, ∃ p ∈ out.2, (isG f.a = true → p.1 = l)
              ∧ (t.warp c w).rf.read2 f.d l = BitVec.ofNat 64 (p.2 + sc.1 * 2 ^ 32))
          ∧ out.2.map Prod.fst = (if isG f.a then x.acting else [x.low])
          ∧ (ocap = 0 → sameScratch s t)
          ∧ (ocap ≠ 0 → (t.core c).scrNat at_ 4 = out.1.nout ∧ (t.core c).scrNat (at_ + 4) 4 = out.1.novf
              ∧ (t.core c).scrNat (at_ + 8) 4 = min (old 2 + if sc.2 then 1 else 0) (2 ^ 32 - 1)
              ∧ ∀ n, n < out.1.new.length → (t.core c).scrNat (at_ + 16 + 8 * (old 0 + n)) 8 = (out.1.new.getD n 0).toNat)))
  ∧ ∀ (b : BlkEnc) (buf : OutBuf) (l : Nat) (v : FpVal),
    let y := overScale v b.sc
    let half := fp16.encode 1 v
    let finite := (∃ n m e, fp16.decode half = .fin n m e)
    let zero := b.t.encode b.digest b.word (match b.t with
      | .own _ _ _ _ => b.mode
      | _ => 1) (.fin false 0 0)
    (b.t = .bin → zero = 1)
    ∧ (b.sc.isZero = true → b.lane buf l v = (buf, zero))
    ∧ (b.sc.isZero = false → b.t.outside b.digest b.word b.mode y = false → b.lane buf l v = (buf, b.t.encode b.digest b.word b.mode y))
    ∧ (b.sc.isZero = false → b.t.outside b.digest b.word b.mode y = true → b.t ≠ .bin → buf.nout < 16 * b.ocap → finite →
        b.lane buf l v = ({ buf with nout := buf.nout + 1
                                     new := buf.new ++ [BitVec.ofNat 64 (b.line * 2 ^ 40 + (32 * b.n + l) % 2 ^ 24 * 2 ^ 16 + half)] }, zero))
    ∧ (b.sc.isZero = false → b.t.outside b.digest b.word b.mode y = true → b.ocap ≠ 0 → (b.t = .bin ∨ 16 * b.ocap ≤ buf.nout ∨ ¬ finite) →
        b.lane buf l v = ({ buf with novf := min (buf.novf + 1) (2 ^ 32 - 1) }, b.t.limit b.digest b.word v.neg?))

/-- SLOTBIND, SLOTREL and SLOTFENCE (R136 to R139, R354, R355) complete for a ready issuer: the first two join their slot's queue and do not
wait; a handle that the region may not use raises SL; SLOTFENCE waits for the queue, and in a matrix stream for its own jobs on the
slot, and delivers the slot's generation. SLOT_RECONFIGURE_START takes the first operation once the jobs before it that name the slot are
complete: a release, or a bind of the image bound, is then done. SLOT_RECONFIGURE_END binds, or leaves the slot unbound and posts SLRB; that the generation
stays after a readback that failed is the model's choice (log 105). -/
def Obligations.SlotsComplete : Prop :=
  (∀ (s : State) (f : FmtS), let fs := fieldN f.sel 0 3
    (s.readyFor (.slotbind f) = true →
      let x := s.issueOf (.slotbind f)
      let h := (s.rfOf x).read1 f.a x.low
      (s.usable (s.ctx (s.ctxOf x)).rcb h = false → exec (.slotbind f) s = .next (s.faultWith (.slotbind f) cSL (BitVec.ofNat 64 fs)))
      ∧ (s.usable (s.ctx (s.ctxOf x)).rcb h = true → ∃ t : State, exec (.slotbind f) s = .next (s.doneWith (.slotbind f) t)
          ∧ (t.core x.core).fslot fs = { (s.core x.core).fslot fs with queue := ((s.core x.core).fslot fs).queue ++ [⟨s.nextId, some h⟩] }
          ∧ t.mem = s.mem ∧ sameRegs s t ∧ sameScratch s t))
    ∧ (s.readyFor (.slotrel f) = true →
      let x := s.issueOf (.slotrel f)
      ∃ t : State, exec (.slotrel f) s = .next (s.doneWith (.slotrel f) t)
        ∧ (t.core x.core).fslot fs = { (s.core x.core).fslot fs with queue := ((s.core x.core).fslot fs).queue ++ [⟨s.nextId, none⟩] }
        ∧ t.mem = s.mem ∧ sameRegs s t ∧ sameScratch s t)
    ∧ (s.readyFor (.slotfence f) = true →
      let x := s.issueOf (.slotfence f)
      let q := (s.core x.core).fslot fs
      exec (.slotfence f) s = .next
        (if q.queue ≠ [] ∨ (x.slices = [] ∧ ∃ n ∈ (s.core x.core).jobs, n.block = x.block ∧ n.names fs = true) then s
        else s.doneWith (.slotfence f) (s.putOnce x 1 f.d (q.gen.setWidth 64)))))
  ∧ (∀ (s : State) (c fs : Nat) (op : SlotOp) (rest : List SlotOp), let q := (s.core c).fslot fs
    q.queue = op :: rest → q.reconf = false → (s.ctx (s.ctxOn c)).runs [.format c] = true →
    ((∃ n ∈ (s.core c).jobs, n.names fs = true ∧ n.id < op.id) → exec (.slotReconfigureStart c fs) s = .next s)
    ∧ ((∀ n ∈ (s.core c).jobs, n.names fs = true → op.id ≤ n.id) → ∃ t : State, exec (.slotReconfigureStart c fs) s = .next t
        ∧ t.mem = s.mem ∧ sameRegs s t ∧ sameScratch s t ∧ (t.core c).jobs = (s.core c).jobs
        ∧ (t.core c).fslot fs = match op.bind with
          | none => { q with handle := 0, gen := q.gen + 1, queue := rest, reconf := false }
          | some h => if h = q.handle then { q with queue := rest } else { q with reconf := true }))
  ∧ ∀ (s : State) (c fs : Nat) (op : SlotOp) (rest : List SlotOp) (h : Word) (ok : Bool), let q := (s.core c).fslot fs
    q.queue = op :: rest → q.reconf = true → op.bind = some h →
    ∃ t : State, exec (.slotReconfigureEnd c fs ok) s = .next (if ok then t else t.postHealth 0x86 (BitVec.ofNat 64 c) (BitVec.ofNat 64 fs) h.toNat)
      ∧ t.mem = s.mem ∧ sameRegs s t ∧ sameScratch s t ∧ (∀ n, n ≠ fs → (t.core c).fslot n = (s.core c).fslot n)
      ∧ (t.core c).fslot fs = if ok then { q with handle := h, gen := q.gen + 1, queue := rest, reconf := false }
          else { q with handle := 0, queue := rest, reconf := false }

/-! ## Accumulator tiles and the matrix path -/

/-- ACAL, ACFREE, ACSTAT, ACSTAT.blk, ACBAND and ACBAND.rel (R147 to R151, R361 to R365) complete for a ready issuer, whose stream first waits
for its own jobs on the tile. ACAL answers 3 for a handle in use, 2 for an extent that does not fit, 1 for a bank in use, and otherwise 0
with an open tile of zeros. ACFREE and the band instructions raise AU for a free tile and AB where a band is missing, overlaps, is too
many, or in a sequencer. -/
def Obligations.TilesComplete : Prop :=
  (∀ (s : State) (f : FmtS), s.readyFor (.acal f) = true →
    let x := s.issueOf (.acal f)
    let k := s.core x.core
    let h := fieldN f.sel 0 4
    let a := (s.rfOf x).read2 f.a x.low
    let rows := fieldN a 0 16
    let cols := fieldN a 16 13
    let first := fieldN a 32 11
    let n := (rows * cols + 1023) / 1024
    let st := if (k.tile x.block h).state ≠ 0 then 3
      else if fieldN a 29 3 ≠ 0 ∨ rows = 0 ∨ cols = 0 ∨ 4096 < cols ∨ k.accBanks < first + n then 2
      else if (k.tiles.any fun p => p.2.state != 0 && decide (p.2.first < first + n) && decide (first < p.2.first + p.2.nbk)) = true then 1 else 0
    (x.slices = [] ∧ k.tileUsed x.block h = true → exec (.acal f) s = .next s)
    ∧ (x.slices ≠ [] ∨ k.tileUsed x.block h = false → ∃ t : State,
        exec (.acal f) s = .next (s.doneWith (.acal f) (t.putOnce x 1 f.d (BitVec.ofNat 64 st)))
        ∧ (st ≠ 0 → t = s)
        ∧ (st = 0 → (t.core x.core).tile x.block h = ⟨1, bitAt f.sel 4, false, false, [], first, n, rows, cols, 0, 0⟩
            ∧ (∀ e, 1024 * first ≤ e → e < 1024 * (first + n) → (t.core x.core).accElem e = 0 ∧ (t.core x.core).accPoison e = false)
            ∧ (∀ e, e < 1024 * first ∨ 1024 * (first + n) ≤ e → (t.core x.core).accElem e = k.accElem e)
            ∧ (∀ b g, 16 * b + g ≠ 16 * x.block + h → (t.core x.core).tile b g = k.tile b g) ∧ t.mem = s.mem ∧ sameRegs s t ∧ sameScratch s t)))
  ∧ (∀ (s : State) (f : FmtS), s.readyFor (.acfree f) = true →
    let x := s.issueOf (.acfree f)
    let k := s.core x.core
    let h := fieldN f.sel 0 4
    let q := k.tile x.block h
    let holds := x.slices = [] ∨ (q.bands ≠ [] ∧ ∀ b ∈ q.bands, b.warp = x.warp)
    (q.state = 0 → exec (.acfree f) s = .next (s.faultWith (.acfree f) cAU (tileFva 0 h)))
    ∧ (q.state ≠ 0 → ¬ holds → exec (.acfree f) s = .next (s.faultWith (.acfree f) cAB (tileFva 0 h)))
    ∧ (q.state ≠ 0 → holds → k.tileUsed x.block h = true → exec (.acfree f) s = .next s)
    ∧ (q.state ≠ 0 → holds → k.tileUsed x.block h = false →
        exec (.acfree f) s = .next (s.doneWith (.acfree f) (s.modCore x.core fun k => k.setTile x.block h Tile.free))))
  ∧ (∀ (s : State) (f : FmtS), s.readyFor (.acstat f) = true →
    let x := s.issueOf (.acstat f)
    let k := s.core x.core
    let q := k.tile x.block (fieldN f.sel 0 4)
    exec (.acstat f) s = .next (if x.slices = [] ∧ k.tileUsed x.block (fieldN f.sel 0 4) = true then s
      else s.doneWith (.acstat f) (s.putOnce x 2 f.d (k.tileWord q)))
    ∧ (q.state = 0 → k.tileWord q = 0)
    ∧ (q.state ≠ 0 → q.state < 4 → q.bands.length < 64 → q.first < 2048 → q.nbk < 4096 → q.rows < 65536 → q.cols < 8192 →
        let v := k.tileWord q
        fieldN v 62 2 = q.state ∧ bitAt v 61 = q.i32 ∧ bitAt v 60 = q.satx ∧ bitAt v 59 = k.tilePois q ∧ bitAt v 58 = q.satm ∧ fieldN v 52 6 = q.bands.length
          ∧ fieldN v 41 11 = q.first ∧ fieldN v 29 12 = q.nbk ∧ fieldN v 13 16 = q.rows ∧ fieldN v 0 13 = q.cols))
  ∧ (∀ (s : State) (f : FmtS), s.readyFor (.acstatBlk f) = true →
    let x := s.issueOf (.acstatBlk f)
    let b := (s.core x.core).block x.block
    ∃ t : State, exec (.acstatBlk f) s = .next (s.doneWith (.acstatBlk f) (t.putOnce x 1 f.d b.mxWord))
      ∧ t = (if bitAt f.sel 5 then s.modBlock x.core x.block fun b => { b with ua := false, trb := false, fbs := false } else s)
      ∧ (b.fbn < 65536 → bitAt b.mxWord 31 = b.ua ∧ bitAt b.mxWord 30 = b.trb ∧ bitAt b.mxWord 29 = b.fbs ∧ fieldN b.mxWord 0 16 = b.fbn))
  ∧ ∀ (s : State) (f : FmtS) (i : Instr), i ∈ [Instr.acband f, .acbandRel f] → s.readyFor i = true →
    let x := s.issueOf i
    let h := fieldN f.sel 0 4
    let q := (s.core x.core).tile x.block h
    let a := (s.rfOf x).read1 f.a x.low
    let row0 := fieldN a 0 16
    let n := fieldN a 16 16
    let bad := n = 0 ∨ q.rows < row0 + n ∨ 8 ≤ q.bands.length ∨ ∃ b ∈ q.bands, b.row0 < row0 + n ∧ row0 < b.row0 + b.nrows
    (q.state = 0 → exec i s = .next (s.faultWith i cAU (tileFva 0 h)))
    ∧ (q.state ≠ 0 → x.slices = [] → exec i s = .next (s.faultWith i cAB (tileFva 0 h)))
    ∧ (q.state ≠ 0 → x.slices ≠ [] → i = .acband f → bad → exec i s = .next (s.faultWith i cAB (tileFva 0 h)))
    ∧ (q.state ≠ 0 → x.slices ≠ [] → i = .acband f → ¬ bad → exec i s = .next (s.doneWith i
        (s.modCore x.core fun k => k.setTile x.block h { q with bands := q.bands ++ [⟨row0, n, x.warp⟩] })))
    ∧ (q.state ≠ 0 → x.slices ≠ [] → i = .acbandRel f → exec i s = .next (s.doneWith i
        (s.modCore x.core fun k => k.setTile x.block h { q with bands := q.bands.filter fun b => b.warp != x.warp })))

/-- ACRD and ACRDCLR (R151, R366) complete for a ready gang on a closed tile of the type named, where no element read is poisoned and, for
ACRDCLR, every lane's element lies in a band of the warp: each lane receives the fold of its element, of another tile of the block where its
index runs over, or zero with UA set where no tile holds it; ACRDCLR leaves zero in the elements it read. A free tile raises AU, another
state or type AB. ACRDCLR's values are stated for lanes that name different elements. -/
def Obligations.TileReads : Prop :=
  ∀ (s : State) (c w j : Nat) (f : FmtA) (i : Instr) (clr : Bool), (i, clr) ∈ [(Instr.acrd f, false), (.acrdclr f, true)] →
    let x := s.gangIssue c w j i
    let k := s.core c
    let v := s.warp c w
    let h := fieldN f.c 0 4
    let q := k.tile x.block h
    let once := isG f.a = false ∧ isG f.b = false
    let idx := fun l => (v.rf.read1 f.a l).toNat * q.cols + (v.rf.read1 f.b l).toNat
    s.gangReady c w j i = true → s.acts c w j i = true → Sparse.wf Tile.free k.tiles = true →
    (q.state = 0 → exec i s = .next (s.finishGang x v.pmsel (.fault (actingSlices x.acting x.slices) cAU (tileFva 0 h))))
    ∧ (q.state ≠ 0 → q.state ≠ 2 ∨ f.ty ≠ (if q.i32 then 1#4 else 3#4) →
        exec i s = .next (s.finishGang x v.pmsel (.fault (actingSlices x.acting x.slices) cAB (tileFva 0 h))))
    ∧ (q.state = 2 → f.ty = (if q.i32 then 1#4 else 3#4) →
        (∀ l ∈ x.acting, ∀ n o e, k.readFrom x.block h q (idx l) = some (n, o, e) → k.accPoison (o.at_ e) = false) →
        (clr = true → (∀ l ∈ x.acting, idx l < q.rows * q.cols
            ∧ ∃ b ∈ q.bands, b.warp = w ∧ b.row0 ≤ (v.rf.read1 f.a l).toNat ∧ (v.rf.read1 f.a l).toNat < b.row0 + b.nrows)
          ∧ (once ∨ (x.acting.map idx).Nodup)) →
        let value := fun l => match k.readFrom x.block h q (idx l) with
          | some (n, _, e) => (foldChains (k.tile x.block n).i32 (k.tile x.block n).satm (k.accElem ((k.tile x.block n).at_ e))).1
          | none => 0
        ∃ t : State, exec i s = .next (s.gangDone c w j i t) ∧ t.mem = s.mem ∧ sameScratch s t
          ∧ (isG f.d = true → ∀ l ∈ x.acting, (t.warp c w).rf.readG f.d.toNat l = value l)
          ∧ (isK f.d = true → (t.warp c w).rf.readK (kIdx f.d) = value x.low)
          ∧ (clr = true → ∀ l ∈ x.acting, (t.core c).accElem (q.at_ (idx l)) = 0)
          ∧ (∀ e, (clr = false ∨ ∀ l ∈ x.acting, e ≠ q.at_ (idx l)) → (t.core c).accElem e = k.accElem e)
          ∧ ((t.core c).block x.block).ua = (((k.block x.block).ua || x.acting.any fun l => (k.readFrom x.block h q (idx l)).isNone)))

/-- MMA, ACZ, ACDRN and ACCLOSE (R143, R149, R356 to R360) in the matrix stream. Each waits while the stream holds four jobs or a job on its
tile is in its way, and raises AU for a free tile, AB for a tile in the wrong state or of the wrong kind; then MMA, ACDRN and ACCLOSE are
accepted as jobs, with their operands and descriptors as they are then, and ACZ clears its tile, opens it and arrives. That ACZ does so at its issue,
where R143 counts it among the jobs, and that ACCLOSE is performed later, is the model's reading (log 63). -/
def Obligations.MatrixAccepts : Prop :=
  (∀ (s : State) (c b : Nat) (f : FmtMX) (i : Instr) (sub : Nat), (i, sub) ∈ [(Instr.mma f, 0), (.acdrn f, 2), (.acclose f, 3)] →
    let k := s.core c
    let rf := (k.seq b false).rf
    let q := k.tile b f.acc.toNat
    let a := k.tile b f.da.toNat
    let src := sub = 0 ∧ f.asrc = 1
    let full := 4 ≤ (k.jobs.filter fun n => n.block == b).length
    let held := full ∨ (if sub = 2 then k.tileWritten b f.acc.toNat = true else k.tileUsed b f.acc.toNat = true) ∨ (src ∧ k.tileWritten b f.da.toNat = true)
    let fault := fun (code : BitVec 8) (h : Nat) => exec i s = .next (s.raiseSeq c b false code (tileFva 0 h) (encodeWord i))
    s.seqReady c b false i = true →
    (held → exec i s = .next s)
    ∧ (¬ held → q.state = 0 → fault cAU f.acc.toNat)
    ∧ (¬ held → q.state ≠ 0 → src → a.state = 0 → fault cAU f.da.toNat)
    ∧ (¬ held → q.state ≠ 0 → (src → a.state ≠ 0) → sub ≠ 2 → q.state ≠ 1 → fault cAB f.acc.toNat)
    ∧ (¬ held → q.state = 1 → src → a.state ≠ 0 → a.state ≠ 2 → fault cAB f.da.toNat)
    ∧ (¬ held → q.state = 1 → sub = 0 → (src → a.state = 2) → q.i32 ≠ (f.am != 0) → fault cAB f.acc.toNat)
    ∧ (¬ held → q.state ≠ 0 → (sub ≠ 2 → q.state = 1) → (src → a.state = 2) → (sub = 0 → q.i32 = (f.am != 0)) →
        ∃ t : State, exec i s = .next (s.seqDone c b false i t)
          ∧ (t.core c).jobs = k.jobs ++ [⟨s.nextId, b, sub, (k.seq b false).pc, encodeWord i, f, Sparse.get 0 (k.block b).desc f.da.toNat,
              Sparse.get 0 (k.block b).desc f.db.toNat, (rf.readK f.qm.toNat).toNat, (rf.readK f.qn.toNat).toNat, (rf.readK f.qk.toNat).toNat,
              rf.readK f.qm.toNat, false, 0, 0, none, 0, false, 0, 0, false⟩]
          ∧ (t.core c).window = (if sub = 3 then k.window else k.window ++ [.job s.nextId])
          ∧ (t.core c).tiles = k.tiles ∧ t.mem = s.mem ∧ sameRegs s t ∧ sameScratch s t))
  ∧ ∀ (s : State) (c b : Nat) (f : FmtMX),
    let k := s.core c
    let q := k.tile b f.acc.toNat
    let held := 4 ≤ (k.jobs.filter fun n => n.block == b).length ∨ k.tileUsed b f.acc.toNat = true
    s.seqReady c b false (.acz f) = true →
    (held → exec (.acz f) s = .next s)
    ∧ (¬ held → q.state = 0 → exec (.acz f) s = .next (s.raiseSeq c b false cAU (tileFva 0 f.acc.toNat) (encodeWord (.acz f))))
    ∧ (¬ held → q.state ≠ 0 → ∃ t : State, exec (.acz f) s = .next (s.seqDone c b false (.acz f) t)
        ∧ (t.core c).tile b f.acc.toNat = { q with state := 1, satx := false, bands := [] }
        ∧ (∀ e, 1024 * q.first ≤ e → e < 1024 * (q.first + q.nbk) → (t.core c).accElem e = 0 ∧ (t.core c).accPoison e = false)
        ∧ (∀ n, n < 15 → ((t.core c).block b).bar n = if f.bn.toNat = n then ((k.block b).bar n).arrive else (k.block b).bar n)
        ∧ t.mem = s.mem ∧ sameRegs s t ∧ sameScratch s t)

/-- The array and the down-converter (R144, R149, R152 to R160). JOB_DISPATCH takes a job that is ready, of another block than the last one's
where there is one; one that fails its checks is a program fault of its context. MMA_OUTPUT_BLOCK writes the rest of the current block of
outputs, on the path that the fallback rules choose, and counts a fallback. ACDRN_LINE writes the next line. Neither goes on while the
scratchpad that its job names is held. At a stop the array keeps its attempt at the block with its checkpoint, and the chains of the k-groups
that it has added (R154). MATRIX_JOB_COMPLETE and TILE_CLOSE end a job, its arrival counted. The model's readings: the late checks are made at
dispatch (log 72), the grid of blocks ends with the outputs written (log 65), known trouble is counted as a fallback (log 66), TILE_CLOSE is when a tile
closes (log 63). -/
def Obligations.MatrixWorks : Prop :=
  (∀ (s : State) (c : Nat) (drain : Bool), let k := s.core c
    let sub := if drain then 2 else 0
    let last := if drain then k.lastDrn else k.lastArr
    (if drain then k.drn = none ∧ k.converting = false else k.arr = none) →
    (k.readyJobs sub = [] → exec (.jobDispatch c drain) s = .next s)
    ∧ ∀ q, k.nextJob sub last = some q →
      (q ∈ k.readyJobs sub ∧ (some q.block = last → ∀ n ∈ k.readyJobs sub, some n.block = last))
      ∧ (s.arrayRuns c q.block = true → (drain = true ∨ q.f.asrc = 0 ∨ k.drn = none) →
        (∀ code fva, (if drain then s.drainFault c q else s.mmaFault c q) = some (code, fva) → code ≠ 0 →
          ∃ t : State, exec (.jobDispatch c drain) s = .next t ∧ (t.core c).job q.id = some { q with code := code, fva := fva }
            ∧ (t.ctx (k.block q.block).ctx).st ≠ .running ∧ (t.ctx (k.block q.block).ctx).flt = true ∧ t.mem = s.mem ∧ sameRegs s t)
        ∧ ((if drain then s.drainFault c q else s.mmaFault c q) = none →
          let y := k.tile q.block q.f.acc.toNat
          ∃ t : State, exec (.jobDispatch c drain) s = .next t
            ∧ (t.core c).job q.id = some { q with started := true, done := if drain then min y.rows (dLines q.db) == 0 || min y.cols (dLen q.db) == 0
                else (q.k == 0 && q.f.zc == 0) || min q.m y.rows == 0 || min q.n y.cols == 0 }
            ∧ (if drain then (t.core c).drn = some q.id ∧ (t.core c).arr = k.arr else (t.core c).arr = some q.id ∧ (t.core c).drn = k.drn)
            ∧ t.mem = s.mem ∧ sameRegs s t ∧ sameScratch s t ∧ ∀ e, (t.core c).accElem e = k.accElem e)))
  ∧ (∀ (s : State) (c id : Nat) (q : MxJob) (e : MmaEnv) (residue : Bool), let k := s.core c
    k.arr = some id → k.job id = some q → s.mmaEnv c q = some e → q.done = false → s.arrayRuns c q.block = true →
    s.jobHeld c q = false → k.bad = [] → (∀ a, q.att = some a → a.cp.length = (k.curRows q).length * (k.curCols q).length) →
    let y := k.tile q.block q.f.acc.toNat
    let p := k.blockPath q e (s.jobWide c q) (k.curRows q) (k.curCols q)
    let endRow := (min q.n y.cols + 63) / 64 ≤ q.bj + 1
    ∃ t : State, exec (.mmaOutputBlock c residue) s = .next t
      ∧ (∀ o ∈ p.1.out, (t.core c).accElem (y.at_ o.1) = o.2.o ++ o.2.e)
      ∧ (∀ n, (∀ o ∈ p.1.out, n ≠ y.at_ o.1) → (t.core c).accElem n = k.accElem n)
      ∧ (p.1.out.map Prod.fst = (blockSpan q.bi (min q.m y.rows)).flatMap fun a => (blockSpan q.bj (min q.n y.cols)).map fun b => a * y.cols + b)
      ∧ ((q.k ≠ 0 ∨ q.f.zc ≠ 0) → ∀ r, (t.core c).job id = some r →
          r.bi = (if endRow then q.bi + 1 else q.bi) ∧ r.bj = (if endRow then 0 else q.bj + 1) ∧ r.att = none
          ∧ (r.done = true ↔ endRow ∧ (min q.m y.rows + 63) / 64 ≤ q.bi + 1))
      ∧ (p.2.2.1 = true → ((t.core c).block q.block).fbs = true ∧ ((t.core c).block q.block).fbn = min 65535 ((k.block q.block).fbn + 1))
      ∧ sameRegs s t ∧ sameScratch s t)
  ∧ (∀ (s : State) (c id n : Nat) (q : MxJob), let k := s.core c
    s.jobHeld c q = true → (k.arr = some id → k.job id = some q → exec (.mmaOutputBlock c false) s = .next s)
      ∧ (k.drn = some n → k.job n = some q → exec (.acdrnLine c) s = .next s))
  ∧ (∀ (s : State) (x c id : Nat) (q : MxJob) (e : MmaEnv), let k := s.core c
    k.arr = some id → k.job id = some q → s.mmaEnv c q = some e → q.done = false → s.arrayRuns c q.block = true →
    s.jobHeld c q = false → k.bad = [] → (s.ctx x).st = .halting → StopAgent.array c ∈ s.agents x → StopAgent.array c ∉ (s.ctx x).acks →
    (∀ o ∈ s.fab.objs, o.2.trug = []) →
    ∃ (n : Nat) (t : State), exec (.agentStop x (.array c)) s = .next t ∧ StopAgent.array c ∈ (t.ctx x).acks
      ∧ (let p := k.cutPath q e (s.jobWide c q) (k.curRows q) (k.curCols q) n
        (t.core c).job id = some { q with att := some p.1 } ∧ (q.att = none → p.1.next ≤ e.groups q p.1.wide)
        ∧ (p.2.2 = true → ((t.core c).block q.block).fbs = true ∧ ((t.core c).block q.block).fbn = min 65535 ((k.block q.block).fbn + 1))
        ∧ (∀ m, (∀ o ∈ p.2.1.out, m ≠ (k.tile q.block q.f.acc.toNat).at_ o.1) → (t.core c).accElem m = k.accElem m))
      ∧ sameRegs s t ∧ sameScratch s t)
  ∧ (∀ (s : State) (c id : Nat) (q : MxJob), let k := s.core c
    k.job id = some q → s.arrayRuns c q.block = true →
    (q.done = true → exec (.matrixJobComplete c id) s = .next ((s.modCore c fun k => if q.sub = 0 then { k with arr := none, lastArr := some q.block }
      else { k with drn := none, lastDrn := some q.block }).finishJob c q))
    ∧ (q.sub = 3 → (∀ n ∈ k.jobs, n.block = q.block → n.id < id → n.usesTile q.f.acc.toNat = false) →
        exec (.tileClose c id) s = .next ((s.modCore c fun k => k.modTile q.block q.f.acc.toNat fun y =>
          { y with state := 2, slot := q.f.fa.toNat, word := q.word }).finishJob c q)))
  ∧ (∀ (s : State) (c id : Nat) (q : MxJob) (m : Img), let k := s.core c
    let y := k.tile q.block q.f.acc.toNat
    k.drn = some id → k.job id = some q → s.slotImg c q.f.fb.toNat = some m → q.done = false → s.arrayRuns c q.block = true →
    s.jobHeld c q = false → k.bad = [] →
    ∃ t : State, exec (.acdrnLine c) s = .next t ∧ (t.core c).job id = some { q with next := q.next + 1, done := decide (min y.rows (dLines q.db) ≤ q.next + 1) }
      ∧ (∀ n, (t.core c).accElem n = k.accElem n) ∧ t.mem = s.mem ∧ sameRegs s t
      ∧ (k.bars = [] → m.elt (dFmt q.db) 0 = .fp bf16 → y.i32 = false → dBase q.db + q.next * dPitch q.db + 2 * min y.cols (dLen q.db) ≤ k.scrSize →
          ∀ n, n < min y.cols (dLen q.db) → (t.core c).scrNat (dBase q.db + q.next * dPitch q.db + 2 * n) 2 =
            (Elt.fp bf16).encode m.digest (dFmt q.db) ((m.mode 0).getD 1)
              (fp32.decode (foldChains false y.satm (k.accElem (y.at_ (q.next * y.cols + n)))).1.toNat)))
  ∧ ∀ (g m n : Nat) (as bs : List Int) (c : Chains), 0 < g → as.length = n → bs.length = n →
    let row := fun (l : List Int) => (⟨l.map fun i => some (intFp i), [], false, false, false⟩ : OpRow)
    let d := addGroups g m n true false (row as) (row bs) c
    d.e + d.o = c.e + c.o + BitVec.ofInt 32 ((as.zip bs).map fun p => p.1 * p.2).sum

/-! ## The scheduler cores, command records, queue slots -/

/-- RFETCH, BFX, SWAIT and DISP (R222 to R227) complete on their scheduler core, or take a synchronous exception there: XADDR 24, XFIELD 25,
XWAIT 26, XSLOT 27. What the entry of an exception does beyond the address and the cause is the family's (log 6); whether placement is full
is open (log 9). The model's own choices and readings: a launch of a function that is being reset is answered 2 (log 112), a descriptor is a
multiple of 8 and a signal word lies wherever SIG points (log 133), and what lies at a peer or the host is first read on a link, the
instruction being issued again until it is there (log 141). -/
def Obligations.XdispComplete : Prop :=
  (∀ (s : State) (c cause : Nat), let k := s.schedCore c; let t := (s.schedTrap c cause).schedCore c
    t.mepc = k.pc ∧ t.mcause = BitVec.ofNat 64 cause ∧ t.mtval = 0 ∧ t.pc = k.mtvec &&& ~~~3 ∧ bitAt t.mstatus 7 = bitAt k.mstatus 3
      ∧ bitAt t.mstatus 3 = false ∧ fieldN t.mstatus 11 2 = 3 ∧ t.x = k.x ∧ t.win = k.win)
  ∧ (∀ (s : State) (c : Nat) (rd n : BitVec 5) (v : DWord), let k := s.schedCore c; let t := (s.schedDone c rd v).schedCore c
    t.read n = (if n = 0 then 0 else if n = rd then v else k.read n) ∧ t.pc = k.pc + 4 ∧ t.mepc = k.mepc ∧ t.mcause = k.mcause ∧ t.mstatus = k.mstatus)
  ∧ (∀ (s : State) (c : Nat) (rd rs1 rs2 : BitVec 5), s.cur = .sched c →
    let a := (s.schedCore c).read rs1
    let b := (s.schedCore c).read rs2
    (1 ≤ fieldN b 8 6 → fieldN b 0 6 + fieldN b 8 6 ≤ 64 → ∃ v : DWord, exec (.bfx rd rs1 rs2) s = .next (s.schedDone c rd v)
        ∧ ∀ n, n < 64 → bitAt v n = (decide (n < fieldN b 8 6) && bitAt a (fieldN b 0 6 + n)))
    ∧ (fieldN b 8 6 = 0 ∨ 64 < fieldN b 0 6 + fieldN b 8 6 → exec (.bfx rd rs1 rs2) s = .next (s.schedTrap c 25)))
  ∧ (∀ (s : State) (c : Nat) (rd rs1 : BitVec 5), s.cur = .sched c →
    let m := (s.schedCore c).read rs1
    let src := fun (n : Nat) => match n with
      | 0 => s.io.pendArr ≠ []
      | 1 => ∃ k ∈ coreSlots c, s.slotReady k = true
      | 2 => ∃ k ∈ coreSlots c, (s.qslot k).dbl = true
      | _ => s.io.fwmq ≠ []
    (m = 0 ∨ 16 ≤ m.toNat → exec (.swait rd rs1) s = .next (s.schedTrap c 26))
    ∧ (m ≠ 0 → m.toNat < 16 → (∀ n, n < 4 → bitAt m n = true → ¬ src n) →
        exec (.swait rd rs1) s = .next (s.modSched c fun k => { k with asleep := true }))
    ∧ (m ≠ 0 → m.toNat < 16 → (∃ n, n < 4 ∧ bitAt m n = true ∧ src n) → ∃ v : DWord, exec (.swait rd rs1) s = .next (s.schedDone c rd v)
        ∧ v.toNat < 16 ∧ ∀ n, n < 4 → (bitAt v n = true ↔ bitAt m n = true ∧ src n)))
  ∧ (∀ (s : State) (c : Nat) (rd rs1 rs2 : BitVec 5), s.cur = .sched c →
    let n := ((s.schedCore c).read rs2).toNat
    let va := ((s.schedCore c).read rs1).toNat
    let rcb := s.qcbRegion n
    let r := s.region rcb
    let outside := Config.hbmBytes ≤ 64 * (s.qslot n).qcba + 63
    let dead := r.live = false ∨ s.overBudget rcb = true ∨ s.resetting rcb = true
    let gs := s.ioUnread n r (dwordsAt va)
    let u := s.ioDenied r (dwordsAt va)
    (64 ≤ n ∨ n / 4 ≠ c ∨ (s.qslot n).map = false → exec (.disp rd rs1 rs2) s = .next (s.schedTrap c 27))
    ∧ (n < 64 → n / 4 = c → (s.qslot n).map = true → outside → exec (.disp rd rs1 rs2) s = .next (s.schedTrap c 24))
    ∧ (n < 64 → n / 4 = c → (s.qslot n).map = true → ¬ outside →
        (gs ≠ [] → exec (.disp rd rs1 rs2) s = .next (gs.foldl (fun t p => t.ioAsk n r.ctx p) s))
        ∧ (gs = [] →
          (dead → exec (.disp rd rs1 rs2) s = .next ((u.schedDone c rd 2).forget n))
          ∧ (¬ dead → (va % 8 ≠ 0 ∨ u.ioDwords n r va = none) → exec (.disp rd rs1 rs2) s = .next ((u.schedTrap c 24).forget n))
          ∧ (¬ dead → va % 8 = 0 → ∀ d, u.ioDwords n r va = some d → u.ioLeaf r (fieldN (d.getD 2 0) 0 57) .write = none →
              exec (.disp rd rs1 rs2) s = .next ((u.schedTrap c 24).forget n))
          ∧ (¬ dead → va % 8 = 0 → ∀ d, u.ioDwords n r va = some d → ∀ leaf pa, u.ioLeaf r (fieldN (d.getD 2 0) 0 57) .write = some (leaf, pa) →
              if Config.placementFull s.freeCtr = true then exec (.disp rd rs1 rs2) s = .next ((u.bump.schedDone c rd 1).forget n)
              else ∃ (t : State) (id : Nat), exec (.disp rd rs1 rs2) s = .next ((t.schedDone c rd 0).forget n)
                ∧ t.launch id = ⟨r.ctx, rcb, d, [], 0, 1, 0, 1, false, leaf, pa, []⟩ ∧ (∀ m, m ≠ id → t.launch m = s.launch m)
                ∧ (t.region rcb).tags = (id :: r.tags).take 256 ∧ t.mem = s.mem ∧ t.sched = s.sched))))
  ∧ ∀ (s : State) (c : Nat) (rd : BitVec 5), s.cur = .sched c →
    let outside := ∃ n ∈ coreSlots c, (s.qslot n).map = true ∧ Config.hbmBytes ≤ 64 * (s.qslot n).qcba + 63
    (outside → exec (.rfetch rd) s = .next (s.schedTrap c 24))
    ∧ (¬ outside → (∀ n ∈ coreSlots c, s.slotReady n = false) → exec (.rfetch rd) s = .next (s.schedDone c rd (BitVec.allOnes 64)))
    ∧ (¬ outside → ∀ n, n ∈ coreSlots c → s.slotReady n = true →
        (∀ m ∈ coreSlots c, s.slotReady m = true → (s.qslot m).rank < (s.qslot n).rank ∨ ((s.qslot m).rank = (s.qslot n).rank ∧ n ≤ m)) →
        let ri := fieldN (s.qcb n 2) 32 32
        let ring := fieldN (s.qcb n 0) 0 57
        let r := s.region (s.qcbRegion n)
        let va := ring + 64 * (ri % 2 ^ fieldN (s.qcb n 1) 32 8)
        let gs := s.ioUnread n r (dwordsAt va)
        let u := s.ioDenied r (dwordsAt va)
        (ring % 64 ≠ 0 → exec (.rfetch rd) s = .next (s.schedTrap c 24))
        ∧ (ring % 64 = 0 → gs ≠ [] → exec (.rfetch rd) s = .next (gs.foldl (fun t p => t.ioAsk n r.ctx p) s))
        ∧ (ring % 64 = 0 → gs = [] → u.ioDwords n r va = none → exec (.rfetch rd) s = .next ((u.schedTrap c 24).forget n))
        ∧ ∀ rec, ring % 64 = 0 → gs = [] → u.ioDwords n r va = some rec →
          ∃ t : State, exec (.rfetch rd) s = .next ((t.schedDone c rd (BitVec.ofNat 64 n)).forget n)
          ∧ (t.schedCore c).win = rec ∧ (t.qslot n).recs = (s.qslot n).recs ++ [(BitVec.ofNat 32 ri, rec)] ∧ (t.schedCore c).x = (s.schedCore c).x ∧ (t.schedCore c).pc = (s.schedCore c).pc
          ∧ (t.qslot n).dbl = false ∧ (t.qslot n).age = 0
          ∧ (∀ m ∈ coreSlots c, m ≠ n → (t.qslot m).age = if s.slotReady m then min 4095 ((s.qslot m).age + 1) else (s.qslot m).age)
          ∧ (s.openMem = true → t.mem.readNat 0 (64 * (s.qslot n).qcba + 20) 4 = (ri + 1) % 2 ^ 32
              ∧ ∀ loc b, loc < 3 → (loc ≠ 0 ∨ b < 64 * (s.qslot n).qcba + 20 ∨ 64 * (s.qslot n).qcba + 24 ≤ b) → t.mem.byte loc b = s.mem.byte loc b))

/-- LAUNCH, LAUNCHN, WAITSIG, SETSIG, SKIPIF and EXEC (R228) complete. Where the core of a mapped slot may run its record, the record has its
effect and is consumed; a wait keeps it, and so does a launch that placement does not accept now: a LAUNCHN goes on from the launches that
it has made. Only a record of zeros ends a pass of an EXEC buffer. A record to be skipped is consumed unexecuted, one that does not decode stops
its queue. QSLOT writes and kicks (R219, R220) complete. A mapped slot takes QID and QCBA, the priority of its QCB under its region's bound, and
a doorbell that waited for its QID; unmapping keeps a doorbell in the pending array. A kick rings the slot that holds its QID, or waits
there. A write that its core does not serve, of a QID that another slot holds, or a kick with reserved bits, changes nothing. The model's own
choices and readings: what a record cannot reach is XADDR (24) of its core, which R223 names for RFETCH and DISP alone (log 137); a slot that is
unmapped drops the records that it had fetched (log 119); a LAUNCHN that has begun goes on whatever its region's budget (log 107); nothing runs
for a function that is being reset (log 112); bytes at a peer or the host are read on a link before (log 141). -/
def Obligations.RecordsComplete : Prop :=
  (∀ (s : State) (n : Nat) (i : Instr) (reads : List (Nat × Nat)) (buf naddr stride a v : DWord) (cond : BitVec 4) (m : BitVec 16),
     (i, reads) ∈ [(Instr.recLaunch n buf, dwordsAt buf.toNat), (.recLaunchn n buf naddr stride, (naddr.toNat, 4) :: dwordsAt buf.toNat),
       (.recWaitsig n a v, [(a.toNat, 8)]), (.recSetsig n a v, []), (.recSkipif n cond m a v, [(a.toNat, 8)]),
       (.recExec n buf naddr, (naddr.toNat, 4) :: dwordsAt buf.toNat)] →
     let rcb := s.qcbRegion n
     let r := s.region rcb
     let all := s.recordReads n ++ reads
     let gs := s.ioUnread n r all
     let u := s.ioDenied r all
     let q := s.qslot n
     let ends := fun (d : List DWord) => q.pass ≠ none ∧ ∀ w ∈ d, w = 0
     (q.pass = none → s.consumed n = s.modQslot n fun q => { q with recs := q.recs.drop 1 })
     ∧ (s.recordHeld n = true → exec i s = .next s)
     ∧ (s.recordHeld n = false → gs ≠ [] → exec i s = .next (gs.foldl (fun t p => t.ioAsk n r.ctx p) s))
     ∧ (s.recordHeld n = false → gs = [] →
       (u.record n = none → exec i s = .next ((if q.pass = none then u else u.schedTrap (n / 4) 24).forget n))
       ∧ ∀ d, u.record n = some d →
         (ends d → exec i s = .next ((u.modQslot n QSlot.passEnds).forget n))
         ∧ (¬ ends d → 0 < q.skip → exec i s = .next (((u.modQslot n fun q => { q with skip := q.skip - 1 }).consumed n).forget n))
         ∧ (¬ ends d → q.skip = 0 → ∀ e, decodeRecord n d = .error e → exec i s = .next ((u.stopQueue n).forget n))
         ∧ (¬ ends d → q.skip = 0 → ∀ j, decodeRecord n d = .ok j → j ≠ i → exec i s = .next (u.forget n))))
  ∧ (∀ (s : State) (n : Nat) (d : List DWord), s.recordHeld n = false →
     let rcb := s.qcbRegion n
     let r := s.region rcb
     let q := s.qslot n
     let is := fun (i : Instr) (reads : List (Nat × Nat)) =>
       s.ioUnread n r (s.recordReads n ++ reads) = [] ∧ s.record n = some d ∧ q.skip = 0 ∧ decodeRecord n d = .ok i
     let seen := fun (reads : List (Nat × Nat)) => s.ioDenied r (s.recordReads n ++ reads)
     (∀ desc, let reads := dwordsAt desc.toNat
       let u := seen reads
       is (.recLaunch n desc) reads →
         (∀ t, u.submit n rcb desc.toNat 0 = .accepted t → exec (.recLaunch n desc) s = .next ((t.bump.consumed n).forget n))
         ∧ (u.submit n rcb desc.toNat 0 = .full → exec (.recLaunch n desc) s = .next (u.bump.forget n))
         ∧ (u.submit n rcb desc.toNat 0 = .dead → exec (.recLaunch n desc) s = .next (u.forget n))
         ∧ (u.submit n rcb desc.toNat 0 = .xaddr → exec (.recLaunch n desc) s = .next ((u.schedTrap (n / 4) 24).forget n)))
     ∧ (∀ desc naddr stride, let reads := (naddr.toNat, 4) :: dwordsAt desc.toNat
       let i : Instr := .recLaunchn n desc naddr stride
       let u := seen reads
       let nth := u.ioRead n r naddr.toNat 4
       is i reads →
         (q.laun = none → nth = none → exec i s = .next ((u.schedTrap (n / 4) 24).forget n))
         ∧ (q.laun = none → ∀ m, nth = some (m + 1) → s.overBudget rcb = true → exec i s = .next (u.forget n))
         ∧ ∀ (first k m : Nat) (at_ : Nat → State),
           (q.laun = some (first, m) ∨ (q.laun = none ∧ first = 0 ∧ nth = some m ∧ (m = 0 ∨ s.overBudget rcb = false))) →
           first ≤ k → k ≤ m → at_ first = u →
           (∀ j, first ≤ j → j < k → ∃ t, (at_ j).takeLaunch n rcb desc.toNat (stride.toNat * j) = .accepted t ∧ at_ (j + 1) = t.bump) →
           let v := at_ k
           let stays := fun (t : State) => t.modQslot n fun q => { q with laun := some (k, m) }
           (k = m → exec i s = .next (((v.modQslot n fun q => { q with laun := none }).consumed n).forget n))
           ∧ (k < m → v.takeLaunch n rcb desc.toNat (stride.toNat * k) = .full → exec i s = .next ((stays v.bump).forget n))
           ∧ (k < m → v.takeLaunch n rcb desc.toNat (stride.toNat * k) = .dead → exec i s = .next ((stays v).forget n))
           ∧ (k < m → v.takeLaunch n rcb desc.toNat (stride.toNat * k) = .xaddr → exec i s = .next (((stays v).schedTrap (n / 4) 24).forget n)))
     ∧ (∀ a v, let reads := [(a.toNat, 8)]
       let u := seen reads
       is (.recWaitsig n a v) reads →
         (u.ioRead n r a.toNat 8 = none → exec (.recWaitsig n a v) s = .next ((u.schedTrap (n / 4) 24).forget n))
         ∧ ∀ y, u.ioRead n r a.toNat 8 = some y →
           exec (.recWaitsig n a v) s = .next ((if v.toNat ≤ y then u.dropPeerReads.consumed n else u).forget n))
     ∧ (∀ a v, let u := seen []
       is (.recSetsig n a v) [] →
         (a.toNat % 8 ≠ 0 ∨ u.ioLeaf r a.toNat .write = none → exec (.recSetsig n a v) s = .next ((u.schedTrap (n / 4) 24).forget n))
         ∧ (a.toNat % 8 = 0 → ∀ leaf pa, u.ioLeaf r a.toNat .write = some (leaf, pa) →
             exec (.recSetsig n a v) s = .next (((u.storePage r.ctx leaf pa (leBytes 8 v.toNat)).consumed n).forget n)))
     ∧ (∀ cond m a v, let reads := [(a.toNat, 8)]
       let u := seen reads
       is (.recSkipif n cond m a v) reads →
         (u.ioRead n r a.toNat 8 = none → exec (.recSkipif n cond m a v) s = .next ((u.schedTrap (n / 4) 24).forget n))
         ∧ ∀ y, u.ioRead n r a.toNat 8 = some y → exec (.recSkipif n cond m a v) s = .next
           ((if (if cond = 1 then y = v.toNat else if cond = 2 then y ≠ v.toNat else y < v.toNat)
             then (u.consumed n).modQslot n fun q => { q with skip := m.toNat } else u.consumed n).forget n))
     ∧ (∀ buf naddr, let reads := (naddr.toNat, 4) :: dwordsAt buf.toNat
       let i : Instr := .recExec n buf naddr
       let u := seen reads
       is i reads →
         (q.pass ≠ none → exec i s = .next ((u.stopQueue n).forget n))
         ∧ (q.pass = none →
           (u.ioRead n r naddr.toNat 4 = none → exec i s = .next ((u.schedTrap (n / 4) 24).forget n))
           ∧ (u.ioRead n r naddr.toNat 4 = some 0 → exec i s = .next ((u.consumed n).forget n))
           ∧ ∀ m, u.ioRead n r naddr.toNat 4 = some (m + 1) →
             let go := fun (q : QSlot) => { q with buf := buf, left := m + 1, pass := some (0, 0) }
             (u.ioDwords n r buf.toNat = none → exec i s = .next ((u.modQslot n go).forget n))
             ∧ ∀ d, u.ioDwords n r buf.toNat = some d →
               ((∃ w ∈ d, w ≠ 0) → exec i s = .next ((u.modQslot n go).forget n))
               ∧ ((∀ w ∈ d, w = 0) → ∃ t : State, exec i s = .next t ∧ (t.qslot n).pass = none ∧ (t.qslot n).recs = q.recs.drop 1))))
  ∧
  ((∀ (s : State) (n c : Nat) (v : DWord), let qid := fieldN v 47 12
     let taken := ∃ m, m < 64 ∧ m ≠ n ∧ (s.qslot m).map = true ∧ (s.qslot m).qid = qid
     let qcb := 64 * fieldN v 0 47
     let waits := fun q => Sparse.get false s.io.pendArr q = true ∨ ((s.qslot n).map = true ∧ (s.qslot n).dbl = true ∧ (s.qslot n).qid = q)
     (64 ≤ n ∨ n / 4 ≠ c ∨ bitAt v 63 = false ∨ taken → exec (.qslotMap n c v) s = .next s)
     ∧ (n < 64 → n / 4 = c → bitAt v 63 = true → ¬ taken → ∃ t : State, exec (.qslotMap n c v) s = .next t
         ∧ (t.qslot n).map = true ∧ (t.qslot n).rcb = fieldN (s.seenSched.dword (qcb + 24)) 0 53 ∧ (t.qslot n).recs = [] ∧ (t.qslot n).qid = qid ∧ (t.qslot n).qcba = fieldN v 0 47 ∧ (t.qslot n).age = 0
         ∧ ((t.qslot n).dbl = true ↔ waits qid)
         ∧ (t.qslot n).prio = min (fieldN (s.seenSched.dword (qcb + 8)) 40 8) (s.region (fieldN (s.seenSched.dword (qcb + 24)) 0 53)).prio
         ∧ (∀ q, Sparse.get false t.io.pendArr q = true ↔ q ≠ qid ∧ waits q) ∧ (∀ m, m ≠ n → t.qslot m = s.qslot m) ∧ t.mem = s.mem)
     ∧ (64 ≤ n ∨ n / 4 ≠ c ∨ bitAt v 63 = true ∨ taken → exec (.qslotUnmap n c v) s = .next s)
     ∧ (n < 64 → n / 4 = c → bitAt v 63 = false → ¬ taken → ∃ t : State, exec (.qslotUnmap n c v) s = .next t
         ∧ t.qslot n = { QSlot.empty with qid := qid, qcba := fieldN v 0 47 } ∧ (∀ q, Sparse.get false t.io.pendArr q = true ↔ waits q)
         ∧ (∀ m, m ≠ n → t.qslot m = s.qslot m) ∧ t.mem = s.mem))
   ∧ ∀ (s : State) (v : Word), let qid := fieldN v 0 12
     (fieldN v 12 20 ≠ 0 → exec (.kick v) s = .next s)
     ∧ (fieldN v 12 20 = 0 → (∀ m, m < 64 → (s.qslot m).map = true → (s.qslot m).qid ≠ qid) →
         exec (.kick v) s = .next { s with io := { s.io with pendArr := Sparse.set false s.io.pendArr qid true } })
     ∧ (fieldN v 12 20 = 0 → ∀ n, n < 64 → (s.qslot n).map = true → (s.qslot n).qid = qid → (∀ m, m < n → (s.qslot m).map = true → (s.qslot m).qid ≠ qid) →
         exec (.kick v) s = .next (s.modQslot n fun q => { q with dbl := true })))

/-! ## Translation, instruction fetch -/

/-- Walks, invalidation and instruction fetch (R34 to R37, R397, R399) complete. A miss joins the walk of its page or starts one on a free
walker; a walk that ends caches its leaf in the slice's TLB and in those of the cores that wait, or reports its failure to those
that wait; one that an invalidation has overtaken does neither. An invalidation ends, once the walks before it have, with no TLB holding an
entry of its range, and takes no other entry. A fetch whose line is absent starts one fill, waits for a walk, or raises the fault of its
translation in every slice of the gang with OPW 0; a fill that no ISYNC has overtaken caches the line as its home holds it, with the poison of
its granules, once a link that it crosses has carried it. A walker reads closed bytes as zero (log 27); a parked gang fetches nothing (log 76);
a line that no link can carry any more comes poisoned, and the attach takes a credit (logs 126, 141). -/
def Obligations.TranslationComplete : Prop :=
  (∀ (s : State) (slice : Nat) (m : Miss), s.fab.misses.find? (fun q => q.slice = slice) = some m →
    (∀ y, s.fab.walks.find? (fun y => y.slice == m.slice && y.ctx == m.ctx && y.vpage == m.vpage) = some y →
        (y.dead = true → exec (.walkerStart slice) s = .next s)
        ∧ (y.dead = false → ∃ t : State, exec (.walkerStart slice) s = .next t ∧ t.fab.misses = s.fab.misses.erase m
            ∧ t.fab.walks = s.fab.walks.map (fun q => if q.id = y.id then { q with whos := q.whos ++ [m.who] } else q) ∧ t.mem = s.mem ∧ t.cores = s.cores))
    ∧ (s.fab.walks.find? (fun y => y.slice == m.slice && y.ctx == m.ctx && y.vpage == m.vpage) = none →
        if Config.walkersPerStack ≤ (s.fab.walks.filter fun y => y.slice / Config.slicesPerStack = slice / Config.slicesPerStack).length
        then exec (.walkerStart slice) s = .next s
        else ∃ t : State, exec (.walkerStart slice) s = .next t ∧ t.fab.misses = s.fab.misses.erase m
          ∧ t.fab.walks = s.fab.walks ++ [⟨s.nextId, slice, m.ctx, m.asn, m.vpage, [m.who], false⟩] ∧ t.mem = s.mem ∧ t.cores = s.cores))
  ∧ (∀ (s : State) (y : Walk), s.fab.walks.find? (fun q => q.id = y.id) = some y →
    ∃ t : State, exec (.walkComplete y.id) s = .next t ∧ t.fab.walks = s.fab.walks.filter (fun q => q.id != y.id) ∧ t.mem = s.mem ∧ sameRegs s t
      ∧ sameScratch s t
      ∧ (y.dead = true ∨ (s.ctx y.ctx).st = .none → t.cores = s.cores ∧ t.fab.stlb = s.fab.stlb)
      ∧ (y.dead = false → (s.ctx y.ctx).st ≠ .none →
          (∀ leaf log, s.seen.walk (s.ctxRegion y.ctx).troot (y.vpage * 65536) = some (leaf, log) →
            let e : TlbEnt := ⟨y.asn, y.vpage * 65536 / 2 ^ log, log, leaf⟩
            (Sparse.get [] t.fab.stlb y.slice).head? = some e
            ∧ (∀ a ∈ y.whos, ∀ c, agentCore a = some c → (t.core c).tlb.head? = some e)
            ∧ (∀ c, (∀ a ∈ y.whos, agentCore a ≠ some c) → t.core c = s.core c) ∧ ∀ c, (t.core c).wfault = (s.core c).wfault)
          ∧ (s.seen.walk (s.ctxRegion y.ctx).troot (y.vpage * 65536) = none →
            t.fab.stlb = s.fab.stlb ∧ (∀ c, (t.core c).tlb = (s.core c).tlb)
            ∧ ∀ a ∈ y.whos, ∀ c, agentCore a = some c → (t.core c).wfault.any (fun f => f.who = a ∧ f.asn = y.asn ∧ f.vpage = y.vpage) = true)))
  ∧ (∀ (s : State) (v : Word),
    (bitAt s.io.xlctl 31 = true → exec (.xlinvCtlWrite v) s = .next s)
    ∧ (bitAt s.io.xlctl 31 = false → ∃ t : State, exec (.xlinvCtlWrite v) s = .next t ∧ bitAt t.io.xlctl 31 = true ∧ field t.io.xlctl 0 16 = field v 0 16
        ∧ t.io.xlLo = s.io.valo ∧ t.io.xlHi = s.io.vahi ∧ bitAt t.io.xlctl 23 = bitAt v 23 ∧ fieldN t.io.xlctl 24 4 = fieldN v 24 4 ∧ t.io.xlwait = s.fab.walks.map Walk.id
        ∧ (∀ y ∈ t.fab.walks, y.dead = true) ∧ t.cores = s.cores ∧ t.mem = s.mem))
  ∧ (∀ s : State,
    (bitAt s.io.xlctl 31 = false ∨ (∃ y ∈ s.fab.walks, y.id ∈ s.io.xlwait) → exec .invalidationComplete s = .next s)
    ∧ (bitAt s.io.xlctl 31 = true → (∀ y ∈ s.fab.walks, y.id ∉ s.io.xlwait) → ∃ t : State, exec .invalidationComplete s = .next t
        ∧ bitAt t.io.xlctl 31 = false ∧ t.mem = s.mem
        ∧ (Sparse.wf Core.reset s.cores = true → ∀ c, (t.core c).tlb = (s.core c).tlb.filter fun e => !s.io.invalidates e)
        ∧ (Sparse.wf [] s.fab.stlb = true → ∀ n, Sparse.get [] t.fab.stlb n = (Sparse.get [] s.fab.stlb n).filter fun e => !s.io.invalidates e)))
  ∧ (∀ (s : State) (who : Agent),
    (s.fetchAt who = none → exec (.instructionFetch who) s = .next s)
    ∧ ∀ c n pc, s.fetchAt who = some (c, n, pc) → let r := s.ctxRegion n
      (∀ y e, (s.core c).fetch r.asn pc = .words y e → exec (.instructionFetch who) s = .next s)
      ∧ (pc.toNat % 8 ≠ 0 → exec (.instructionFetch who) s = .next (s.fetchFault who cIF pc))
      ∧ ∀ va, (s.core c).fetch r.asn pc = .absent va →
        ((s.core c).filling r.asn (va.toNat / 128) = true → exec (.instructionFetch who) s = .next s)
        ∧ ((s.core c).filling r.asn (va.toNat / 128) = false →
          (∀ leaf pa, s.translate c (s.missName who) r va .fetch = .ok leaf pa → ∃ t : State, exec (.instructionFetch who) s = .next t
              ∧ (t.core c).fills = (s.core c).fills ++ [⟨s.nextId, r.asn, va.toNat / 128, eLoc leaf, pa / 128 * 128, false⟩]
              ∧ (t.core c).icache = (s.core c).icache ∧ t.mem = s.mem ∧ sameRegs s t)
          ∧ (∀ code, s.translate c (s.missName who) r va .fetch = .fault code → exec (.instructionFetch who) s = .next (s.fetchFault who code va))
          ∧ (s.translate c (s.missName who) r va .fetch = .miss → exec (.instructionFetch who) s = .next (s.queueMiss c (s.missName who) n r.asn va))))
  ∧ (∀ (s : State) (c w j : Nat) (code : BitVec 8) (va : DWord), code ≠ 0 → let ms := (s.warp c w).gangOf j
    s.awaits (s.warp c w).uid ms = false → let t := s.fetchFault (.gang c w j) code va
      (∀ k ∈ ms, ((t.warp c w).slice k).st = .faulted ∧ ((t.warp c w).slice k).code = code ∧ ((t.warp c w).slice k).fva = va ∧ ((t.warp c w).slice k).opw = 0
        ∧ ((t.warp c w).slice k).pc = ((s.warp c w).slice k).pc)
      ∧ (t.ctx ((s.core c).block (s.warp c w).block).ctx).st ≠ .running)
  ∧ ∀ (s : State) (c : Nat) (f : Fill), (s.core c).fills.find? (fun q => q.id = f.id) = some f →
    let lost := (f.loc = 1 ∧ s.routes (f.pa / 2 ^ 40) = false) ∨ (f.loc = 2 ∧ s.attachGone = true)
    let crosses := ¬ lost ∧ (s.creditless f.id = true ∨ (f.loc = 2 ∧ s.hostPort = none))
    (f.dead = false → crosses → exec (.icacheFillArrival c f.id) s = .next s)
    ∧ (f.dead = true ∨ ¬ crosses → s.openMem = true → ∃ t : State, exec (.icacheFillArrival c f.id) s = .next t ∧ (t.core c).fills = (s.core c).fills.filter (fun q => q.id != f.id) ∧ t.mem = s.mem
      ∧ (f.dead = true → (t.core c).icache = (s.core c).icache)
      ∧ (f.dead = false → ∃ l : ILine, (t.core c).iline f.asn f.line = some l ∧ l.asn = f.asn ∧ l.line = f.line
          ∧ (lost → ∀ n, n < 8 → bitAt l.pois n = true)
          ∧ (¬ lost → l.data = ((List.range 16).map fun i => BitVec.ofNat 64 (s.mem.readNat f.loc (f.pa + 8 * i) 8))
              ∧ ∀ n, n < 8 → bitAt l.pois n = s.mem.poisoned f.loc (f.pa + 16 * n) 16)))

/-! ## The host, the management space, the pool -/

/-- HOST_ACCESS (R43, R47, R249, R254, R263) completes once the attach is open: a read returns the bytes of local memory, zeros for those that are
hidden from the host, and changes none; a write and an atomic change the bytes named, but for hidden ones; a host atomic returns the old
value, also on a page in the host's memory. No wave holds the bytes, no object is armed, and no memory is closed. BOOTSTAT reads on the sideband at
any time (R266). Writes of the management space (R37, R220, R230, R251, R253, R264 to R266) complete: one of a register with an effect of its own
has that effect; another touches no memory, core, region, context or launch. A
register reads back the fields that it holds, with reserved bits zero; a write that is misaligned or of another width is discarded, and so is one of a
scheduler core held in reset. EVQI sets RI, acknowledges the message and clears OVF where a 1 is written; FWMQPOP takes the oldest message;
FWPOSTDB appends one, or counts it as denied. The pool and the power controller (R77, R78, R84, R253) complete. A scrub of a clean bank's row changes
no byte and no element, and the row is then touched; the clean bit goes with the bank's last untouched row. A fault-map write marks the named bank of
a group that has none failed. Over the cap the module is slowed by at least one step, at or below it it is not. The model's own choices and
readings: an access of the host waits while the attach retrains and is not let in before its first opening (log 122); what the host reads of the
last eighth of a CRYPT 2 range is open (log 128); a fault-map write posts PREL (log 53); how many steps the power controller takes is open (log
36). -/
def Obligations.ManagementWrites : Prop :=
  (((∀ (s : State) (op : HostOp), s.attachOpen = false → offAttach op = false →
      exec (.hostAccess op) s = .next (if s.attachBooted = true then { s with io := { s.io with hostq := s.io.hostq ++ [op] } } else s))
    ∧ (∀ (s : State), ∃ t : State, exec (.hostAccess .sideband) s = .next t ∧ t.io.hostRd = [s.io.bootstat] ∧ t.mem = s.mem ∧ t.cores = s.cores)
    ∧ (∀ (s : State) (pa : Nat) (bs : List Byte), ∃ t : State, exec (.hostAccess (.own pa bs)) s = .next t ∧ t.io = s.io
        ∧ ∀ loc a, loc < 3 → t.mem.byte loc a = if loc = 2 ∧ pa ≤ a ∧ a < pa + bs.length then bs.getD (a - pa) 0 else s.mem.byte loc a)
    ∧ (∀ (s : State) (pa op ty : Nat) (opr cmp : DWord), let n := 4 * nreg (BitVec.ofNat 4 ty)
        ∃ t : State, exec (.hostAccess (.ownAtomic pa op ty opr cmp)) s = .next t ∧ t.io.hostRd = s.mem.read 2 pa n
          ∧ t.mem.readNat 2 pa n = (atomNew op (BitVec.ofNat 4 ty) (BitVec.ofNat 64 (s.mem.readNat 2 pa n)) opr cmp).toNat % 2 ^ (8 * n)
          ∧ ∀ loc a, loc < 3 → loc ≠ 2 ∨ a < pa ∨ pa + n ≤ a → t.mem.byte loc a = s.mem.byte loc a)
    ∧ (∀ (s : State) (pa len : Nat), s.attachOpen = true → s.waveHolds ⟨0, 0, pa⟩ len = false → s.openMem = true → len ≤ 128 →
      ∃ t : State, exec (.hostAccess (.read pa len)) s = .next t ∧ t.io.hostRd.length = len
        ∧ (∀ i, i < len → (s.hostHidden (pa + i) false = true ∨ s.isMeta (pa + i) = false) →
          t.io.hostRd.getD i 0 = if s.hostHidden (pa + i) false then 0 else s.mem.byte 0 (pa + i)) ∧ sameBytes s t ∧ t.cores = s.cores)
    ∧ (∀ (s : State) (pa : Nat) (bs : List Byte), s.attachOpen = true → s.waveHolds ⟨0, 0, pa⟩ bs.length = false → s.openMem = true →
      (∀ o ∈ s.fab.objs, o.2.armed = false) →
      ∃ t : State, exec (.hostAccess (.write pa bs)) s = .next t ∧ t.cores = s.cores
        ∧ ∀ loc a, loc < 3 → t.mem.byte loc a = if loc = 0 ∧ pa ≤ a ∧ a < pa + bs.length ∧ s.hostHidden a true = false then bs.getD (a - pa) 0 else s.mem.byte loc a)
    ∧ (∀ (s : State) (pa op ty : Nat) (opr cmp : DWord), let n := 4 * nreg (BitVec.ofNat 4 ty)
      s.attachOpen = true → s.waveHolds ⟨0, 0, pa⟩ n = false → s.openMem = true → (∀ o ∈ s.fab.objs, o.2.armed = false) → (∀ i, i < n → s.hostHidden (pa + i) true = false ∧ s.hostHidden (pa + i) false = false ∧ s.isMeta (pa + i) = false) →
      (let new := atomNew op (BitVec.ofNat 4 ty) (BitVec.ofNat 64 (s.mem.readNat 0 pa n)) opr cmp
        ∃ t : State, exec (.hostAccess (.atomic pa op ty opr cmp)) s = .next t ∧ t.io.hostRd = s.mem.read 0 pa n ∧ t.mem.readNat 0 pa n = new.toNat % 2 ^ (8 * n)
          ∧ ∀ loc a, loc < 3 → loc ≠ 0 ∨ a < pa ∨ pa + n ≤ a → t.mem.byte loc a = s.mem.byte loc a)
      ∧ (∃ t : State, exec (.hostAccess (.splitRead pa ty)) s = .next t ∧ t.io.hostRd = s.mem.read 0 pa n ∧ t.io.hostSplit = t.io.hostRd ∧ t.mem = s.mem)
      ∧ (let new := atomNew op (BitVec.ofNat 4 ty) (BitVec.ofNat 64 (leNat s.io.hostSplit)) opr cmp
        ∃ t : State, exec (.hostAccess (.splitWrite pa op ty opr cmp)) s = .next t ∧ t.mem.readNat 0 pa n = new.toNat % 2 ^ (8 * n)
          ∧ ∀ loc a, loc < 3 → loc ≠ 0 ∨ a < pa ∨ pa + n ≤ a → t.mem.byte loc a = s.mem.byte loc a))
    ∧ ∀ (s : State) (ofs width : Nat), s.attachOpen = true → width ≤ 64 →
      ∃ t : State, exec (.hostAccess (.readReg ofs width)) s = .next t ∧ t.io.hostRd = leBytes (width / 8) (s.mgmtRead .host ofs width).toNat ∧ t.mem = s.mem)
   ∧
   ((∀ (s : State) (ofs width : Nat) (v : DWord), s.attachOpen = false → exec (.registerWrite .host ofs width v) s =
        .next (if s.attachBooted = true then { s with io := { s.io with hostq := s.io.hostq ++ [.writeReg ofs width v] } } else s))
    ∧ (∀ (s : State) (c ofs width : Nat) (v : DWord), (s.schedCore c).inReset = true → exec (.registerWrite (.sched c) ofs width v) s = .next s)
    ∧ (∀ (s : State) (who : MgmtAgent) (v : DWord), (match who with | .host => s.attachOpen = true | .sched c => (s.schedCore c).inReset = false) → let w := fun n => exec (.registerWrite who n 32 v) s
        let d := fun n => exec (.registerWrite who n 64 v) s
        (∀ slab g, slab < 128 → g < 32 → w (0x20000 + 128 * slab + 4 * g) = exec (.poolFaultMapWrite slab g (v.setWidth 32)) s)
        ∧ w 0x30008 = exec (.xlinvCtlWrite (v.setWidth 32)) s ∧ w 0x40200 = exec (.kick (v.setWidth 32)) s
        ∧ (∀ n, n < 256 → d (0x50008 + 16 * n) = exec (.evqiWrite n v) s)
        ∧ (who = .host → w 0xB0140 = exec (.fwpostdb (v.setWidth 32)) s ∧ w 0x90100 = .next (s.doorbell .host (v.setWidth 32)))
        ∧ (∀ c, who = .sched c → w 0xB0080 = exec (.fwmqpop (v.setWidth 32)) s ∧ w 0xA0100 = .next (s.doorbell .fw (v.setWidth 32))
            ∧ d 0x70100 = exec (.mircfgWrite v) s
            ∧ (∀ n, n < 64 → d (0x40000 + 8 * n) = if bitAt v 63 = true then exec (.qslotMap n c v) s else exec (.qslotUnmap n c v) s)
            ∧ (fieldN v 60 4 = 1 → d 0x60000 = exec (.ctxSave v) s) ∧ (fieldN v 60 4 = 2 → d 0x60000 = exec (.ctxRestore v none) s)
            ∧ (fieldN v 60 4 = 3 → d 0x60000 = exec (.ctxTerminate v) s)))
    ∧ (∀ (s : State) (who : MgmtAgent) (ofs width : Nat) (v : DWord), (match who with | .host => s.attachOpen = true | .sched c => (s.schedCore c).inReset = false) →
        width ≠ 32 ∧ width ≠ 64 ∨ ofs % (width / 8) ≠ 0 → exec (.registerWrite who ofs width v) s = .next s)
    ∧ (∀ (s : State) (who : MgmtAgent) (ofs width : Nat) (v : DWord), (match who with | .host => s.attachOpen = true | .sched c => (s.schedCore c).inReset = false) → s.ownWrite who ofs width v = none → ∃ t : State, exec (.registerWrite who ofs width v) s = .next t
      ∧ t.mem = s.mem ∧ t.cores = s.cores ∧ t.regions = s.regions ∧ t.ctxs = s.ctxs ∧ t.launches = s.launches ∧ t.fab = s.fab ∧ t.sched = s.sched
      ∧ (width = 32 → ofs = 0x30000 → t.mgmtRead who ofs 32 = v &&& 0xFFFF0000)
      ∧ (width = 32 → ofs = 0x30004 → t.mgmtRead who ofs 32 = v &&& 0x01FFFFFF)
      ∧ (width = 64 → ∀ d, d < 256 → ofs = 0x50000 + 16 * d → t.mgmtRead who ofs 64 = v &&& 0xFC1FFFFFFFFFFFFF)
      ∧ (width = 32 → ofs = 0x80000 → t.mgmtRead who ofs 32 = if who = .host then v &&& 0xFFF else s.mgmtRead who ofs 32)
      ∧ (width = 64 → ∀ n, n < 16 → ofs = 0x80100 + 16 * n → who = .host → t.mgmtRead .host ofs 64 = v &&& 0x001FFFFFFFFFF000)
      ∧ (width = 64 → ∀ n, n < 16 → ofs = 0x80108 + 16 * n → who = .host → t.mgmtRead .host ofs 64 = v &&& 0xC00001FFFFFFFFFF)
      ∧ (width = 64 → ofs = 0x70108 → t.mgmtRead who ofs 64 = if who = .host then s.mgmtRead who ofs 64 else v &&& 0x8000FFFFFFFFFFFF)
      ∧ (width = 64 → ∀ n, n < 64 → ofs = 0x40400 + 8 * n → t.mgmtRead who ofs 64 = s.mgmtRead who ofs 64 &&& ~~~ v)
      ∧ (width = 64 → ∀ n, n < 32 → ofs = 0x90000 + 8 * n → who = .host → t.mgmtRead .host ofs 64 = v))
    ∧ (∀ (s : State) (dom : Nat) (v : DWord), ∃ t : State, exec (.evqiWrite dom v) s = .next t ∧ t.mem = s.mem ∧ t.cores = s.cores
      ∧ (256 ≤ dom → t = s)
      ∧ (dom < 256 → let q := Sparse.get EvQ.reset s.io.evq dom
          Sparse.get EvQ.reset t.io.evq dom = ⟨q.b, if fieldN v 48 16 = 0 then q.ovf else 0, field v 32 16, q.wi, false⟩
          ∧ ∀ e, e ≠ dom → Sparse.get EvQ.reset t.io.evq e = Sparse.get EvQ.reset s.io.evq e))
    ∧ (∀ (s : State) (v : DWord), exec (.mgmtbaseWrite v) s = .next (if s.attachOpen = true then { s with io := { s.io with mgmtBase := v &&& 0xFFFFFFFFFF000000 } }
        else if s.attachBooted = true then { s with io := { s.io with hostq := s.io.hostq ++ [.baseWrite v] } } else s))
    ∧ (∀ (s : State) (v : Word),
      (bitAt v 0 = false ∨ (∀ c, c < Config.numSched → (s.schedCore c).inReset = true) → exec (.fwmqpop v) s = .next s)
      ∧ (s.attachOpen = false → exec (.fwpostdb v) s = .next
          (if s.attachBooted = true then { s with io := { s.io with hostq := s.io.hostq ++ [.writeReg 0xB0140 32 (v.setWidth 64)] } } else s))
      ∧ (bitAt v 0 = false → s.attachOpen = true → exec (.fwpostdb v) s = .next s)
      ∧ (bitAt v 0 = true → (∃ c, c < Config.numSched ∧ (s.schedCore c).inReset = false) → ∃ t : State, exec (.fwmqpop v) s = .next t ∧ t.mem = s.mem ∧ t.cores = s.cores
          ∧ (s.io.monmq = [] → t.io.fwmq = s.io.fwmq.drop 1) ∧ (s.io.fwmq ≠ [] → ∀ m l, s.io.monmq = m :: l → t.io.fwmq = s.io.fwmq.drop 1 ++ [m] ∧ t.io.monmq = l))
      ∧ (bitAt v 0 = true → s.attachOpen = true → s.io.fwmq.length < 16 → ∃ t : State, exec (.fwpostdb v) s = .next t ∧ t.mem = s.mem ∧ t.cores = s.cores
          ∧ t.io.fwmq = s.io.fwmq ++ [1 :: ((List.range 16).flatMap fun i => leBytes 4 (Sparse.get 0 s.io.postbuf i).toNat).drop 1])
      ∧ (bitAt v 0 = true → s.attachOpen = true → 16 ≤ s.io.fwmq.length → exec (.fwpostdb v) s = .next s.deny))))
  ∧
  ((∀ (s : State) (c : Nat) (use : PoolUse) (bank row : Nat), let k := s.core c
     let held := bank < (match use with | .scr => k.scrBanks | .acc => k.accBanks | .reg => 16 * pwRFU k.pword) ∧ row < 512
       ∧ Sparse.get false k.clean (bankKey use bank) = true
     ∃ t : State, exec (.poolScrubRow c use bank row) s = .next t ∧ t.mem = s.mem ∧ sameRegs s t ∧ (∀ d, d ≠ c → t.core d = s.core d)
       ∧ (¬ held → t.core c = k)
       ∧ (∀ o, (t.core c).scrByte o = k.scrByte o) ∧ (∀ e, (t.core c).accElem e = k.accElem e)
       ∧ (held → Sparse.wf Warp.absent k.warps = true → (t.core c).touchedRow use bank row = true
           ∧ (Sparse.get false (t.core c).clean (bankKey use bank) = false ↔ ∀ n, n < 512 → (t.core c).touchedRow use bank n = true)))
   ∧ (∀ (s : State) (slab group : Nat) (v : Word), let y := s.poolWord slab group
     let marks := slab < Config.numCores ∧ group < 32 ∧ bitAt y 31 = false ∧ bitAt v 31 = true
     (¬ marks → exec (.poolFaultMapWrite slab group v) s = .next s)
     ∧ (marks → ∃ t : State, exec (.poolFaultMapWrite slab group v) s = .next (t.postHealth 0x80 (BitVec.ofNat 64 slab) (BitVec.ofNat 64 group) (t.poolWord slab group).toNat)
         ∧ bitAt (t.poolWord slab group) 31 = true ∧ fieldN (t.poolWord slab group) 25 5 = fieldN v 25 5 ∧ fieldN (t.poolWord slab group) 0 25 = fieldN y 0 25
         ∧ t.mem = s.mem ∧ t.cores = s.cores))
   ∧ ∀ (s : State) (avg : Nat), 400 ≤ s.io.clock → s.io.clock ≤ 1600 → s.io.hbmStep ≤ Config.hbmSteps →
     ∃ t : State, exec (.powerCapInterval avg) s = .next t ∧ t.mem = s.mem ∧ t.cores = s.cores ∧ 400 ≤ t.io.clock ∧ t.io.clock ≤ 1600 ∧ t.io.hbmStep ≤ Config.hbmSteps
       ∧ (min 2800 s.io.pwrcap < avg → t.io.clock ≤ s.io.clock ∧ s.io.hbmStep ≤ t.io.hbmStep ∧ (400 < s.io.clock → t.io.clock < s.io.clock))
       ∧ (avg ≤ min 2800 s.io.pwrcap → s.io.clock ≤ t.io.clock ∧ t.io.hbmStep ≤ s.io.hbmStep))


/-! ## Regions and contexts -/

/-- Regions (R158, R198 to R201, R238, R239, R261, R262) complete. An activation answers a status, and on 0 makes the region live with
its own or its parent's values: what it then holds stays within its parent, and a region that was live keeps its gang factor. A retirement, the event of
a region's budget at any depth and a write of held usage records, of a deleted root too, do what their rules say; a pre-emption raises the halt
line, or ranks the launch behind it. The model's own choices and readings: the context's number is an operand, and an activation that names one in use, or a
parent whose function is being reset, is ignored (logs 28, 112); a live region below itself is answered 8 (log 135); a region held pre-empted gets its
context later (log 28); how many HBM and link bytes an access moved, and of which region, is open (log 29); a retirement or an event waits while the monitor
holds 64 records (log 114); launches that wait on one save are ranked (log 45). -/
def Obligations.RegionsComplete : Prop :=
  (∀ (s : State) (rcb ctx : Nat), let d := s.rcbWords rcb
    let w := fun n => d.getD n 0
    let p := s.region (fieldN (w 0) 0 53)
    let own := fun n => bitAt (w 1) (48 + n) = true
    let r := s.effective d false p
    let st := s.activateStatus rcb d false r p
    let names := rcb % 128 = 0 ∧ rcb + 128 ≤ Config.hbmBytes ∧ ctx < 65536 ∧ ((s.region rcb).live = true ∨ ((s.ctx ctx).st = .none ∧ ∀ q ∈ s.regions, q.2.live = true → q.2.ctx ≠ ctx))
      ∧ s.resetting (fieldN (w 0) 0 53) = false
    (¬ names → exec (.regionActivation rcb ctx) s = .next s)
    ∧ (names → ∃ t : State, exec (.regionActivation rcb ctx) s = .next t ∧ t.io.fwReply = BitVec.ofNat 64 st ∧ t.mem = s.mem ∧ t.cores = s.cores
        ∧ (st ≠ 0 → t.regions = s.regions ∧ t.ctxs = s.ctxs)
        ∧ (st = 0 → let q := t.region rcb
            q.live = true ∧ q.root = p.root ∧ q.parent = fieldN (w 0) 0 53
            ∧ q.prio = (if own 0 then fieldN (w 1) 40 8 else p.prio) ∧ q.fdom = (if own 1 then fieldN (w 1) 32 8 else p.fdom)
            ∧ q.chk = (if own 2 then fieldN (w 1) 30 2 else p.chk) ∧ q.asn = (if own 3 then field (w 1) 0 16 else p.asn)
            ∧ q.troot = (if own 3 then fieldN (w 2) 12 41 * 4096 else p.troot)
            ∧ (∀ n, n < 4 → q.budgetOf n = if own (4 + n) then (w (3 + n)).toNat else p.budgetOf n)
            ∧ q.keys = (if own 8 then w 8 ++ w 7 else p.keys)
            ∧ p.live = true ∧ q.prio ≤ p.prio ∧ q.keys &&& ~~~ p.keys = 0 ∧ (∀ k ∈ q.imgs, k ∈ p.imgs) ∧ (∀ n, n < 4 → q.budgetOf n ≤ p.budgetOf n)
            ∧ p.px ≤ q.px ∧ q.px + q.pw ≤ p.px + p.pw ∧ p.py ≤ q.py ∧ q.py + q.ph ≤ p.py + p.ph ∧ ¬ (q.chk = 1 ∧ p.chk = 0)
            ∧ ((s.region rcb).live = true → q.pgf = (s.region rcb).pgf)
            ∧ ((s.region rcb).live = false → q.ctx = ctx
                ∧ (t.held rcb = true → t.ctx ctx = s.ctx ctx)
                ∧ (t.held rcb = false → (t.ctx ctx).st = .running ∧ (t.ctx ctx).rcb = rcb ∧ (t.ctx ctx).px = q.px ∧ (t.ctx ctx).py = q.py
                  ∧ (t.ctx ctx).pw = q.pw ∧ (t.ctx ctx).ph = q.ph ∧ (t.ctx ctx).pgf = q.pgf)))))
  ∧ (∀ (s : State) (rcb : Nat), let r := s.region rcb
    let ends := r.live = true ∧ r.parent ≠ 0 ∧ (∀ q ∈ s.regions, q.2.live = true → q.2.parent ≠ rcb) ∧ s.idleCtx r.ctx = true
      ∧ s.usageFull rcb = false
    (¬ ends → exec (.regionRetirement rcb) s = .next s)
    ∧ (ends → ∃ t : State, exec (.regionRetirement rcb) s = .next t ∧ (t.region rcb).live = false ∧ (t.ctx r.ctx).st = .none
        ∧ (t.root r.root).seq = (s.root r.root).seq + 1 ∧ sameRegs s t)
    ∧ (r.live = true → ∃ t : State, exec (.fallbackCounterClear rcb) s = .next t ∧ t.io.fwReply = BitVec.ofNat 64 r.fbcnt
        ∧ t.region rcb = { r with fbcnt := 0, fbsat := false } ∧ t.mem = s.mem ∧ t.cores = s.cores ∧ t.ctxs = s.ctxs))
  ∧ (∀ (s : State) (rcb kind : Nat), let u := s.coreCharges
    let r := u.region rcb
    let movers := (u.below rcb).filter fun q => (kind == 2 && (u.region q).hbm) || (kind == 3 && (u.region q).link)
    let reached := r.budgetOf kind ≤ r.chargeOf kind
    r.live = true → kind < 4 → s.usageFull rcb = false →
    (reached → r.preempted = true → exec (.budgetReached rcb kind) s = .next s)
    ∧ (¬ reached → movers = [] → exec (.budgetReached rcb kind) s = .next s)
    ∧ ((reached ∧ r.preempted = false) ∨ (¬ reached ∧ movers ≠ [] ∧ ∀ q ∈ movers, u.passes rcb q kind (r.budgetOf kind - r.chargeOf kind) = false) →
      ∃ t : State, exec (.budgetReached rcb kind) s = .next t ∧ (t.region rcb).budgetOf kind = r.budgetOf kind ∧ r.budgetOf kind ≤ (t.region rcb).chargeOf kind
      ∧ (t.region rcb).preempted = true ∧ (∀ q ∈ s.below rcb, (t.ctx (s.region q).ctx).st ≠ .running) ∧ (t.root r.root).seq = (s.root r.root).seq + 1
      ∧ sameRegs s t ∧ sameScratch s t
      ∧ (let q := Sparse.get EvQ.reset s.io.evq r.fdom
        q.open? = true → (q.wi - q.ri).toNat ≠ 2 ^ fieldN q.b 58 5 → (Sparse.get EvQ.reset t.io.evq r.fdom).wi = q.wi + 1)))
  ∧ (∀ (s : State) (n : Nat), let q := s.root n
    s.mon.late = [] → Sparse.wf Root.none s.mon.roots = true →
    (q.held = false → exec (.usageRecordWrite n) s = .next s)
    ∧ (q.held = true → s.openMem = true → q.full = false → ∀ u, q.records = [u] → q.written < (s.mem.dword q.cblk).toNat + 2 ^ q.logn →
        ∃ t : State, exec (.usageRecordWrite n) s = .next t ∧ t.root n = { q with records := [], written := q.written + 1 } ∧ t.cores = s.cores
          ∧ t.mem.read 0 (q.ring + 4096 * (q.written % 2 ^ q.logn)) u.length = u)
    ∧ (q.held = true → q.full = false → ∀ u, q.records = [u] → (s.mem.dword q.cblk).toNat + 2 ^ q.logn ≤ q.written → exec (.usageRecordWrite n) s = .next s))
  ∧ (∀ (s : State) (n : Nat) (q : Root) (u : List Byte), s.mon.late = [(n, q)] → q.records = [u] → (s.root n).held = false → s.openMem = true →
    q.written < (s.mem.dword q.cblk).toNat + 2 ^ q.logn → ∃ t : State, exec (.usageRecordWrite n) s = .next t ∧ t.mon.late = [] ∧ t.cores = s.cores
      ∧ t.mem.read 0 (q.ring + 4096 * (q.written % 2 ^ q.logn)) u.length = u)
  ∧ ∀ (s : State) (n : Nat) (l : Option Nat), let x := s.ctx n
    ∃ t : State, exec (.preemptRequest n l) s = .next t ∧ t.mem = s.mem ∧ t.cores = s.cores ∧ (∀ m, m ≠ n → t.ctx m = s.ctx m)
      ∧ (x.st = .running → (t.ctx n).st = .halting ∧ (t.ctx n).flt = x.flt ∧ ∀ m, l = some m → (t.ctx n).queued = [m])
      ∧ (x.st ≠ .running → (t.ctx n).st = x.st)
      ∧ (x.st = .none ∨ x.st = .saved → t.ctx n = x)
      ∧ (x.st = .halting ∨ x.st = .waiting → ∀ m, l = some m → m ∉ x.queued → (∀ k ∈ x.queued, s.launchPrio m ≤ s.launchPrio k) → (t.ctx n).queued = x.queued ++ [m])

/-- Contexts (R233 to R243, R399, R400, R411, R413) complete. An agent of a halting context acknowledges at its boundary. Once all have and
nothing of the context is on its way, its image goes to the first save area that is free and large enough, its cores are freed, and it is
saved, which CTXSTAT reports whoever asked for it; without an area it waits, and NOSAVE is posted. CTX_SAVE, CTX_RESTORE and CTX_TERMINATE answer by
the state in which they find the context; a restore places the saved cores on the new rectangle, and loses a context whose image memory shows to be
wrong. The model's own choices and readings: the answers of CTX_SAVE to a context that is halting, waiting or saved (log 19), the refusal of a region
held pre-empted (log 31), what the check of an image finds beside memory as an operand (logs 92, 118). -/
def Obligations.ContextsComplete : Prop :=
  (∀ (s : State) (n : Nat) (who : StopAgent), let x := s.ctx n
    let stops := x.st = .halting ∧ who ∈ s.agents n ∧ who ∉ x.acks ∧ s.atBoundary who = true
    (¬ stops → exec (.agentStop n who) s = .next s)
    ∧ (stops → ∃ t : State, exec (.agentStop n who) s = .next t.answerHalted ∧ (t.ctx n).acks = x.acks ++ [who] ∧ (t.ctx n).st = .halting
        ∧ ((∀ c, who ≠ .array c) → t.mem = s.mem ∧ t.cores = s.cores)))
  ∧ (∀ (s : State) (n : Nat), let x := s.ctx n
    (x.st ≠ .halting ∨ (∃ a ∈ s.agents n, a ∉ x.acks) → exec (.saveComplete n) s = .next s)
    ∧ (x.st = .halting → (∀ a ∈ s.agents n, a ∈ x.acks) → s.answerHalted = s →
        ((∃ r ∈ s.fab.reqs, r.ctx = n) ∨ ∃ c ∈ s.usedCores n, (s.core c).lda ≠ []) → exec (.saveComplete n) s = .next s)
    ∧ (x.st = .halting → (∀ a ∈ s.agents n, a ∈ x.acks) → s.answerHalted = s → (∀ r ∈ s.fab.reqs, r.ctx ≠ n) → (∀ c ∈ s.usedCores n, (s.core c).lda = []) → s.sound = true → s.openMem = true →
        (x.kill = 1 → ∃ t : State, exec (.saveComplete n) s = .next t ∧ (t.ctx n).st = .none ∧ t.io.ctxBusy = false ∧ t.io.ctxStat = 0)
        ∧ (x.kill = 0 → ∀ a, s.areaFor (s.imageSize n) = some a → ∃ t : State, exec (.saveComplete n) s = .next t
            ∧ (t.ctx n).st = .saved ∧ (t.ctx n).area = some a.base ∧ (t.ctx n).rcb = x.rcb ∧ (∀ c ∈ s.usedCores n, (t.core c).use = none)
            ∧ (t.ctx n).saved = s.coreImages n
            ∧ (x.flt = false → fieldN (t.mem.dword a.base) 56 8 = 1 ∧ fieldN (t.mem.dword a.base) 48 5 = x.pw % 32 ∧ fieldN (t.mem.dword a.base) 44 4 = x.ph % 16
                ∧ bitAt (t.mem.dword a.base) 55 = false ∧ t.mem.dword (a.base + 8) = BitVec.ofNat 64 x.rcb)
            ∧ t.io.ctxStat = 0 ∧ t.io.ctxBusy = (s.io.ctxBusy && !x.cmd))
        ∧ (x.kill = 0 → s.areaFor (s.imageSize n) = none → ∃ t : State, exec (.saveComplete n) s = .next t ∧ (t.ctx n).st = .waiting ∧ t.cores = s.cores
            ∧ (x.cmd = true → t.io.ctxStat = 4))
        ∧ (x.kill = 2 → ∃ t : State, exec (.saveComplete n) s = .next t ∧ (t.ctx n).st = .none ∧ t.io.ctxBusy = false ∧ t.io.ctxStat = 0
            ∧ (s.areaFor (s.imageSize n) = none → let d := (s.region x.rcb).fdom
              let q := Sparse.get EvQ.reset s.io.evq d
              q.open? = true → (q.wi - q.ri).toNat ≠ 2 ^ fieldN q.b 58 5 → (Sparse.get EvQ.reset t.io.evq d).wi = q.wi + 1))))
  ∧ (∀ (s : State) (v : DWord), let n := fieldN v 0 16
    let x := s.ctx n
    let answers := fun (i : Instr) (st : Nat) => exec i s = .next { s with io := { s.io with ctxBusy := false, ctxStat := st } }
    (s.io.ctxBusy = true ∨ fieldN v 60 4 ≠ 1 → exec (.ctxSave v) s = .next s) ∧ (s.io.ctxBusy = true ∨ fieldN v 60 4 ≠ 3 → exec (.ctxTerminate v) s = .next s)
    ∧ (s.io.ctxBusy = true ∨ fieldN v 60 4 ≠ 2 → ∀ e, exec (.ctxRestore v e) s = .next s)
    ∧ (s.io.ctxBusy = false → fieldN v 60 4 = 1 →
        (x.st = .none → answers (.ctxSave v) 1) ∧ (x.st = .halting → answers (.ctxSave v) 3) ∧ (x.st = .waiting → answers (.ctxSave v) 4) ∧ (x.st = .saved → answers (.ctxSave v) 0)
        ∧ (x.st = .running → ∃ t : State, exec (.ctxSave v) s = .next t ∧ (t.ctx n).st = .halting ∧ (t.ctx n).cmd = true ∧ t.io.ctxBusy = true ∧ t.mem = s.mem ∧ t.cores = s.cores))
    ∧ (s.io.ctxBusy = false → fieldN v 60 4 = 3 →
        (x.st = .none → answers (.ctxTerminate v) 1)
        ∧ (x.st = .running ∨ x.st = .halting → ∃ t : State, exec (.ctxTerminate v) s = .next t ∧ (t.ctx n).st = .halting ∧ (t.ctx n).kill = (if x.st = .running then 1 else 2)
            ∧ t.io.ctxBusy = true ∧ t.mem = s.mem ∧ t.cores = s.cores)
        ∧ (x.st = .waiting ∨ x.st = .saved → ∃ t : State, exec (.ctxTerminate v) s = .next t ∧ (t.ctx n).st = .none ∧ t.io.ctxBusy = false ∧ t.io.ctxStat = 0
            ∧ ∀ p ∈ s.launches, p.2.ctx = n → (t.launch p.1).phase = 2))
    ∧ (s.io.ctxBusy = false → fieldN v 60 4 = 2 →
        let wrong := ∃ a, x.area = some a ∧ ((∃ l ∈ s.mem.failed, a ≤ 128 * l ∧ 128 * l < a + x.size) ∨ ∃ p ∈ s.mem.pois, a < 16 * p.1 + 16 ∧ 16 * p.1 < a + x.size)
        (s.restoreRefused x v = true → ∀ e, answers (.ctxRestore v e) 1)
        ∧ (s.restoreRefused x v = false → ∀ e, wrong ∨ e ≠ none → ∃ t : State, exec (.ctxRestore v e) s = .next t ∧ (t.ctx n).st = .none ∧ t.io.ctxStat = 2)
        ∧ (s.restoreRefused x v = false → ¬ wrong → fieldN v 58 2 ≠ 3 → Sparse.wf Core.reset x.saved = true → (∀ p ∈ x.saved, p.1 < x.pw * x.ph) →
          (∀ p ∈ x.saved, ∀ b ∈ p.2.liveBlocks, (p.2.block b).warps ≠ [] ∨ (p.2.block b).mx.st ≠ .exited ∨ (p.2.block b).cp.st ≠ .exited) →
          ∃ t : State, exec (.ctxRestore v none) s = .next t ∧ (t.ctx n).st = .running ∧ (t.ctx n).px = fieldN v 54 4 ∧ (t.ctx n).py = fieldN v 51 3
            ∧ (t.ctx n).rcb = x.rcb ∧ (t.ctx n).pw = x.pw ∧ (t.ctx n).ph = x.ph ∧ t.io.ctxBusy = false ∧ t.io.ctxStat = 0
            ∧ ∀ p ∈ x.saved, let k := t.core (16 * (fieldN v 51 3 + p.1 / x.pw) + fieldN v 54 4 + p.1 % x.pw)
              k.scr = p.2.scr ∧ k.tags = p.2.tags ∧ k.acc = p.2.acc ∧ k.tiles = p.2.tiles ∧ k.slots = p.2.slots ∧ k.bars = p.2.bars ∧ k.use = p.2.use
                ∧ k.cycle = (s.core (16 * (fieldN v 51 3 + p.1 / x.pw) + fieldN v 54 4 + p.1 % x.pw)).cycle)))

/-! ## The monitor, resets -/

/-- A command of a mailbox (R250): ignored while another of the mailbox waits; it waits while the monitor serves another; DENIED to a mailbox whose
caller the table does not name, ahead of every argument (log 84); an unknown one is BADARG. The firmware's mailbox is a scheduler core's that runs;
the host's waits while the attach retrains, and is not open before (log 122). FWLOAD, ATTEST, CONFSET and DBGEN (R246 to R248, R252, R254) complete,
and answer in the order of their checks. The model's own choices: which dwords these commands name (log 108), the first 256 bytes of a report in the
buffer (log 109). -/
def Obligations.MonitorBoots : Prop :=
  (∀ (s : State) (mb : Mailbox) (base : Nat) (nonce : BitVec 384) (mode : Nat) (ra : RootArgs) (rs : RootSetArgs) (n : Nat) (i : Instr) (code : Word) (host fw : Bool),
    (i, code, host, fw) ∈ [(Instr.fwload mb base, 0x01#32, true, false), (.attest mb nonce, 0x02#32, true, true), (.attestCerts mb, 0x02#32, true, true),
      (.confset mb mode, 0x03#32, true, false), (.dbgen mb, 0x04#32, true, false), (.rootact mb ra, 0x10#32, true, false), (.rootset mb rs, 0x11#32, true, false),
      (.rootdel mb n, 0x12#32, true, false), (.usagereq mb n, 0x13#32, true, true), (.keyerase mb, 0x21#32, false, true), (.tagset mb, 0x22#32, false, true),
      (.imgreg mb, 0x41#32, false, true), (.keynewGenerate mb, 0x20#32, false, true), (.keynewImport mb, 0x20#32, false, true),
      (.savesetCreate mb, 0x23#32, false, true), (.savesetRelease mb, 0x23#32, false, true)] →
    s.mon.erase = none → (i = .attest mb nonce → s.mon.dword mb 0 ≠ 1) → (i = .attestCerts mb → s.mon.dword mb 0 = 1) →
    (i = .keynewGenerate mb → bitAt (s.mon.dword mb 1) 8 = false) → (i = .keynewImport mb → bitAt (s.mon.dword mb 1) 8 = true) →
    (i = .savesetCreate mb → bitAt (s.mon.dword mb 2) 0 = false) → (i = .savesetRelease mb → bitAt (s.mon.dword mb 2) 0 = true) →
    (s.mon.busy mb = true → s.mon.cmd mb ≠ code → exec i s = .next s)
    ∧ (s.mon.busy mb = false → s.mailOpen mb = false → exec i s = .next
        (if mb = .host ∧ s.attachBooted = true then { s with io := { s.io with hostq := s.io.hostq ++ [.writeReg 0x90100 32 (code.setWidth 64)] } } else s))
    ∧ ((if s.mon.busy mb = true then s.mon.cmd mb = code else s.mailOpen mb = true) → s.mon.serves mb = false →
        exec i s = .next (if s.mon.busy mb then s else s.ring mb code))
    ∧ (s.takes mb code = true → (mb = .host ∧ host = false) ∨ (mb = .fw ∧ fw = false) → exec i s = .next (s.served mb 2)))
  ∧ (∀ (s : State) (mb : Mailbox) (st : Nat), let t := s.served mb st
    t.mon.status mb = BitVec.ofNat 32 st ∧ t.mon.last = mb ∧ (∀ m, t.mon.buf m = s.mon.buf m) ∧ t.mem = s.mem ∧ t.cores = s.cores ∧ t.io = s.io)
  ∧ (∀ (s : State) (mb : Mailbox) (code : Word), (s.mon.busy mb = true ∨ code.toNat ∈ knownCommands → exec (.mondbUnknownCommand mb code) s = .next s)
    ∧ (s.mailOpen mb = true → s.mon.busy mb = false → code.toNat ∉ knownCommands → exec (.mondbUnknownCommand mb code) s = .next (s.setStatus mb 1)))
  ∧ (∀ s : State, s.mailOpen .fw = true ↔ ∃ c, c < Config.numSched ∧ (s.schedCore c).inReset = false)
  ∧ (∀ (s : State) (base : Nat), s.takes .host 0x01 = true → s.mon.named .host 1 = false → exec (.fwload .host base) s = .next
    (s.served .host (if s.mon.fwrange = none then 1 else 5)))
  ∧ (∀ (s : State) (base : Nat), s.takes .host 0x01 = true → s.mon.named .host 1 = true →
    let h := s.mem.dword base
    let n := fieldN h 0 32
    let cls := fieldN h 56 8
    let body := s.mem.read 0 base n
    let signed := Config.ed25519Ok Config.fusedEd body (s.mem.read 0 (base + n) 64) && Config.mldsaOk Config.fusedMl body (s.mem.read 0 (base + n + 64) 3309)
    let answers := fun (st : Nat) => exec (.fwload .host base) s = .next (s.served .host st)
    (s.mon.fwrange ≠ none → answers 5)
    ∧ (s.mon.fwrange = none → fwBad h base = true → answers 1)
    ∧ (s.mon.fwrange = none → fwBad h base = false → signed = false → answers 3)
    ∧ (s.mon.fwrange = none → fwBad h base = false → signed = true → fieldN h 48 8 < Sparse.get 0 s.mon.roll cls → answers 4)
    ∧ (s.mon.fwrange = none → fwBad h base = false → signed = true → Sparse.get 0 s.mon.roll cls ≤ fieldN h 48 8 → (cls < 2 ∨ (s.fab.reqs = [] ∧ ∀ p ∈ s.cores, p.2.fills = [])) →
        ∃ t : State, exec (.fwload .host base) s = .next t ∧ t.mon.status .host = 0 ∧ t.mem = s.mem ∧ t.cores = s.cores
          ∧ (let m := if cls = 0 then 2 else 3
            Sparse.get 0 t.mon.meas m = Config.sha384 (leBytes 48 (Sparse.get 0 s.mon.meas m).toNat ++ leBytes 48 (Config.sha384 body).toNat))
          ∧ Sparse.get 0 t.mon.roll cls = (if bitAt h 47 then fieldN h 48 8 else Sparse.get 0 s.mon.roll cls)
          ∧ (cls = 0 → t.mon.fwrange = some (base, n) ∧ t.io.bootstat = 0x02 ∧ ∀ c, c < Config.numSched → (t.schedCore c).inReset = false)
          ∧ (cls ≠ 0 → t.mon.fwrange = none ∧ ∀ p ∈ (if cls = 1 then [8, 9, 10, 11] else List.range 8),
              (Sparse.get Link.reset t.io.links p).up = false ∧ (Sparse.get Link.reset t.io.links p).mode = if cls = 1 then 0 else cls - 1)))
  ∧ (∀ (s : State) (mb : Mailbox), s.takes mb 0x02 = true →
    (s.mon.named mb 7 = false → (s.mon.dword mb 0 ≠ 1 → ∀ nonce, exec (.attest mb nonce) s = .next (s.served mb 1))
      ∧ (s.mon.dword mb 0 = 1 → exec (.attestCerts mb) s = .next (s.served mb 1)))
    ∧ (s.mon.named mb 7 = true →
      (s.mon.dword mb 0 ≠ 1 → ∀ nonce, ∃ t : State, exec (.attest mb nonce) s = .next t ∧ t.mon.report = s.purgeImages.attestation nonce
        ∧ (∀ i, i < 256 → i < t.mon.report.length → Sparse.get 0 (t.mon.buf mb) i = t.mon.report.getD i 0) ∧ t.mon.status mb = 0 ∧ t.mem = s.mem ∧ t.cores = s.cores)
      ∧ (s.mon.dword mb 0 = 1 → ∃ t : State, exec (.attestCerts mb) s = .next t ∧ t.mon.report = Config.certs
        ∧ (∀ i, i < 256 → i < t.mon.report.length → Sparse.get 0 (t.mon.buf mb) i = t.mon.report.getD i 0) ∧ t.mon.status mb = 0 ∧ t.mem = s.mem ∧ t.cores = s.cores)))
  ∧ (∀ (s : State) (mode : Nat), s.takes .host 0x03 = true →
    (s.mon.named .host 1 = false ∨ 1 < mode → exec (.confset .host mode) s = .next (s.served .host 1))
    ∧ (s.mon.named .host 1 = true → mode ≤ 1 →
        exec (.confset .host mode) s = .next (({ s with mon := { s.mon with confNext := mode == 1 } } : State).served .host 0)))
  ∧ ∀ s : State, s.takes .host 0x04 = true → exec (.dbgen .host) s = .next
    (if s.mon.named .host 0 = false then s.served .host 1 else if s.mon.conf then s.served .host 9
      else ({ s with mon := { s.mon with dbg := true } } : State).served .host 0)

/-- Quota roots and format images (R131 to R133, R250, R260 to R262, R410) complete: ROOTACT, ROOTSET, ROOTDEL and USAGEREQ answer in the order
of their checks; a root that is made holds its arguments and its live region, a ROOTSET changes the budgets and its counter only under a
signature with a higher counter, a ROOTDEL leaves no live region of the root. IMGREG returns its status and a handle; a new image takes the next
handle. The model's own choices and readings: a root takes the lowest free number, and a refused activation is BADARG (log 25); which dwords the commands
name (log 108); a function that is being reset makes them DENIED (log 112); ROOTDEL and USAGEREQ wait at 64 held records (log 114); a full image store is
found after the key and a digest that is there (log 103); an image at a peer or the host is read on a link before (log 141). -/
def Obligations.RootsAndImages : Prop :=
  (∀ (s : State) (a : RootArgs), s.takes .host 0x10 = true →
    let d := s.rcbWords a.rcb
    let r := s.effective d true Region.none
    let resets := s.io.flrBusy = true ∧ s.io.flrFn = a.fn
    let bad := s.mon.named .host 18 = false ∨ s.rootBad a = true ∨ s.activateStatus a.rcb d true r Region.none ≠ 0 ∨ r.parent ≠ 0
    (resets → exec (.rootact .host a) s = .next (s.served .host 2))
    ∧ (¬ resets → bad → exec (.rootact .host a) s = .next (s.served .host 1))
    ∧ (¬ resets → ¬ bad → (∀ n, n < 64 → (s.root n).held = true) → exec (.rootact .host a) s = .next (s.served .host 8))
    ∧ (¬ resets → ¬ bad → ∀ n, n < 64 → (s.root n).held = false → (∀ m, m < n → (s.root m).held = true) →
        ∃ t : State, exec (.rootact .host a) s = .next t ∧ t.mon.status .host = 0 ∧ (t.mon.dword .host 0).toNat = n ∧ t.mem = s.mem ∧ t.cores = s.cores
          ∧ t.root n = { Root.none with held := true, rcb := a.rcb, fn := a.fn, ed := a.ed, ml := a.ml, ring := a.ring, logn := a.logn, cblk := a.cblk }
          ∧ (t.region a.rcb).live = true ∧ (t.region a.rcb).root = n ∧ (t.region a.rcb).ctx = a.ctx ∧ (t.ctx a.ctx).st = .running ∧ (t.ctx a.ctx).rcb = a.rcb))
  ∧ (∀ (s : State) (a : RootSetArgs), s.takes .host 0x11 = true → (s.mon.named .host 15 = false → exec (.rootset .host a) s = .next (s.served .host 1))
    ∧ (s.mon.named .host 15 = true →
    let q := s.root a.root
    let there := a.root < 64 ∧ q.held = true
    let signed := Config.ed25519Ok q.ed (rootSetBody a) (leBytes 64 a.edSig.toNat) && Config.mldsaOk q.ml (rootSetBody a) a.mlSig
    (¬ there → exec (.rootset .host a) s = .next (s.served .host 11))
    ∧ (there → signed = false → exec (.rootset .host a) s = .next (s.served .host 3))
    ∧ (there → signed = true → a.counter.toNat ≤ q.counter.toNat → exec (.rootset .host a) s = .next (s.served .host 10))
    ∧ (there → signed = true → q.counter.toNat < a.counter.toNat → ∃ t : State, exec (.rootset .host a) s = .next t ∧ t.mon.status .host = 0
        ∧ t.root a.root = { q with counter := a.counter } ∧ (t.region q.rcb).budget = [a.bcyc.toNat, a.bpool.toNat, a.bhbm.toNat, a.blink.toNat]
        ∧ (t.region q.rcb).charge = (s.region q.rcb).charge ∧ t.mem = s.mem ∧ t.cores = s.cores ∧ t.ctxs = s.ctxs)))
  ∧ (∀ (s : State) (n : Nat), s.takes .host 0x12 = true → (s.mon.named .host 1 = false → exec (.rootdel .host n) s = .next (s.served .host 1))
    ∧ (s.mon.named .host 1 = true →
    let q := s.root n
    let busy := (∃ p ∈ s.regions, p.2.live = true ∧ p.2.root = n ∧ p.1 ≠ q.rcb) ∨ s.idleCtx (s.region q.rcb).ctx = false
    (64 ≤ n ∨ q.held = false → exec (.rootdel .host n) s = .next (s.served .host 11))
    ∧ (n < 64 → q.held = true → busy → exec (.rootdel .host n) s = .next (s.served .host 8))
    ∧ (n < 64 → q.held = true → ¬ busy → s.usageFull q.rcb = true → exec (.rootdel .host n) s = .next ((s.setCmd .host 0x12).served .host (2 ^ 31)))
    ∧ (n < 64 → q.held = true → ¬ busy → s.usageFull q.rcb = false → ∃ t : State, exec (.rootdel .host n) s = .next t ∧ t.mon.status .host = 0 ∧ (t.root n).held = false
        ∧ (t.region q.rcb).live = false ∧ sameRegs s t)))
  ∧ (∀ (s : State) (mb : Mailbox) (rcb : Nat), s.takes mb 0x13 = true →
    (s.mon.named mb 1 = false ∨ (s.region rcb).live = false → exec (.usagereq mb rcb) s = .next (s.served mb 1))
    ∧ (s.mon.named mb 1 = true → (s.region rcb).live = true → s.usageFull rcb = true → exec (.usagereq mb rcb) s = .next ((s.setCmd mb 0x13).served mb (2 ^ 31)))
    ∧ (s.mon.named mb 1 = true → (s.region rcb).live = true → s.usageFull rcb = false → ∃ t : State, exec (.usagereq mb rcb) s = .next t ∧ t.mon.status mb = 0 ∧ sameRegs s t
        ∧ (t.root (s.region rcb).root).seq = (s.root (s.region rcb).root).seq + 1))
  ∧ ∀ s : State, s.takes .fw 0x41 = true →
    let rcb := (s.mon.dword .fw 0).toNat
    let va := (s.mon.dword .fw 1).toNat
    let r := s.region rcb
    let named := s.mon.namedOnly .fw [allBits, allBits] = true ∧ r.live = true
    let reads := s.imageReads 64 r va
    let gs := s.ioUnread 64 r reads
    (s.resetting rcb = true → exec (.imgreg .fw) s = .next ((s.forget 64).served .fw 2))
    ∧ (s.resetting rcb = false → ¬ named → exec (.imgreg .fw) s = .next ((s.forget 64).served .fw 1))
    ∧ (s.resetting rcb = false → named → gs ≠ [] → exec (.imgreg .fw) s = .next (gs.foldl (fun t p => t.ioAsk 64 r.ctx p) s))
    ∧ (s.resetting rcb = false → named → gs = [] → ∀ t h st, (s.ioDenied r reads).register 64 rcb va = (t, h, st) →
        exec (.imgreg .fw) s = .next (((t.forget 64).result .fw (leBytes 4 h ++ leBytes 1 st)).served .fw 0))
    ∧ (s.purgeImages = s → s.ioBytes 64 r va 8 = none → s.register 64 rcb va = (s, 0, 5))
    ∧ (s.purgeImages = s → ∀ hb, s.ioBytes 64 r va 8 = some hb → imgHdrBad (BitVec.ofNat 64 (leNat hb)) = true → s.register 64 rcb va = (s, 0, 1))
    ∧ (s.purgeImages = s → ∀ hb all, s.ioBytes 64 r va 8 = some hb → let y : DWord := BitVec.ofNat 64 (leNat hb)
        bitAt y 63 = false → imgHdrBad y = false → s.ioBytes 64 r va (8 + fieldN y 0 32 + 3373) = some all →
        let body := all.take (8 + fieldN y 0 32)
        let signed := Config.ed25519Ok (Config.imageKey all) body ((all.drop (8 + fieldN y 0 32)).take 64)
          && Config.mldsaOk (Config.imageKey all) body (all.drop (8 + fieldN y 0 32 + 64))
        (signed = false → s.register 64 rcb va = (s, 0, 2)) ∧ (signed = true → Config.imageKey all ∉ r.imgs → s.register 64 rcb va = (s, 0, 3))
        ∧ (signed = true → Config.imageKey all ∈ r.imgs → (∀ p ∈ s.mon.images, p.2.digest ≠ Config.sha384 all ∨ p.2.rcb ≠ rcb) →
            (240 ≤ s.mon.images.length → s.register 64 rcb va = (s, 0, 4))
            ∧ (s.mon.images.length < 240 → ∃ t : State, s.register 64 rcb va = (t, s.mon.nextHandle, 0) ∧ t.mon.nextHandle = s.mon.nextHandle + 1
                ∧ t.mon.images = s.mon.images ++ [(s.mon.nextHandle, ⟨y, 0, Config.sha384 all, Config.imageKey all, rcb⟩)]
                ∧ t.mem = s.mem ∧ t.cores = s.cores)))

/-- Key slots, crypt tags and save areas (R39, R240, R250, R256 to R258, R410, R413) complete. KEYNEW fills the lowest empty slot of the region's
set; KEYERASE empties a slot and clears, with zeros, the pages that name it, and a slot whose erasure runs on is erasing meanwhile; TAGSET sets the tags of a range, writing zeros into the pages whose
tag changes; SAVESET creates and releases a save area, with zeros. No context waits for a save area. No other byte changes. That a region whose function
is being reset makes KEYNEW and TAGSET DENIED is the model's reading (log 112). -/
def Obligations.KeysAndTags : Prop :=
  (∀ s : State, s.takes .fw 0x20 = true →
    let r := s.region (s.mon.dword .fw 0).toNat
    let gcm := bitAt (s.mon.dword .fw 1) 0
    let named := s.mon.namedOnly .fw [allBits, 0x101] = true ∧ r.live = true
    let resets := s.resetting (s.mon.dword .fw 0).toNat
    let bytes := if gcm then 1148 else 1180
    (bitAt (s.mon.dword .fw 1) 8 = true → exec (.keynewGenerate .fw) s = .next s) ∧ (bitAt (s.mon.dword .fw 1) 8 = false → exec (.keynewImport .fw) s = .next s)
    ∧ (bitAt (s.mon.dword .fw 1) 8 = false → resets = true → exec (.keynewGenerate .fw) s = .next (s.served .fw 2))
    ∧ (bitAt (s.mon.dword .fw 1) 8 = false → resets = false →
        (¬ named → exec (.keynewGenerate .fw) s = .next (s.served .fw 1))
        ∧ (named → (∀ n, n < 128 → (s.key n).st ≠ 0) → exec (.keynewGenerate .fw) s = .next (s.served .fw 6))
        ∧ (named → (∃ n, n < 128 ∧ (s.key n).st = 0) → (∀ n, n < 128 → bitAt r.keys n = true → (s.key n).st ≠ 0) → exec (.keynewGenerate .fw) s = .next (s.served .fw 7))
        ∧ (named → ∀ n, n < 128 → bitAt r.keys n = true → (s.key n).st = 0 → (∀ m, m < n → bitAt r.keys m = true → (s.key m).st ≠ 0) →
            ∃ (t : State) (k : BitVec 512), exec (.keynewGenerate .fw) s = .next t ∧ t.mon.status .fw = 0 ∧ t.key n = ⟨1, gcm, r.root, k, []⟩
              ∧ fieldN (t.mon.dword .fw 0) 0 8 = n ∧ (∀ m, m ≠ n → t.key m = s.key m) ∧ t.mem = s.mem ∧ t.cores = s.cores))
    ∧ (bitAt (s.mon.dword .fw 1) 8 = true → resets = true → exec (.keynewImport .fw) s = .next (s.served .fw 2))
    ∧ (bitAt (s.mon.dword .fw 1) 8 = true → resets = false → Config.hbmBytes < (s.mon.dword .fw 2).toNat + bytes → exec (.keynewImport .fw) s = .next (s.served .fw 1))
    ∧ (bitAt (s.mon.dword .fw 1) 8 = true → resets = false → (s.mon.dword .fw 2).toNat + bytes ≤ Config.hbmBytes → s.mon.namedOnly .fw [allBits, 0x101, allBits] = true → r.live = true →
        ∀ n, n < 128 → bitAt r.keys n = true → (s.key n).st = 0 → (∀ m, m < n → bitAt r.keys m = true → (s.key m).st ≠ 0) →
          (Config.unwrap (s.importBlock (s.mon.dword .fw 2).toNat gcm) = none → exec (.keynewImport .fw) s = .next (s.served .fw 3))
          ∧ ∀ k, Config.unwrap (s.importBlock (s.mon.dword .fw 2).toNat gcm) = some k → ∃ t : State, exec (.keynewImport .fw) s = .next t
            ∧ t.mon.status .fw = 0 ∧ t.key n = ⟨1, gcm, r.root, k, []⟩ ∧ fieldN (t.mon.dword .fw 0) 0 8 = n ∧ t.mem = s.mem ∧ t.cores = s.cores))
  ∧ (∀ s : State, s.takes .fw 0x21 = true → Sparse.wf Tag.clear s.mon.tags = true → s.openMem = true →
    let r := s.region (s.mon.dword .fw 0).toNat
    let n := fieldN (s.mon.dword .fw 1) 0 8
    let bad := s.mon.namedOnly .fw [allBits, 0xFF] = false ∨ r.live = false ∨ 128 ≤ n ∨ bitAt r.keys n = false
    let names := fun (p : Nat) => (s.tag p).mode ≠ 0 ∧ (s.tag p).slot = n ∧ (s.tag p).sv = false
    (bad → exec (.keyerase .fw) s = .next (s.served .fw 1)) ∧ (¬ bad → (s.key n).st = 2 → exec (.keyerase .fw) s = .next (s.served .fw 8))
    ∧ (¬ bad → (s.key n).st = 0 → exec (.keyerase .fw) s = .next (s.served .fw 0))
    ∧ (¬ bad → (s.key n).st ≠ 0 → (s.key n).st ≠ 2 → s.mon.busy .fw = true → ∃ t : State, exec (.keyerase .fw) s = .next t ∧ t.mon.busy .fw = true
        ∧ t.mon.erase = some n ∧ t.key n = { KeySlot.empty with st := 2, root := (s.key n).root } ∧ t.mon.tags = s.mon.tags ∧ t.mem = s.mem ∧ t.cores = s.cores)
    ∧ (¬ bad → (s.key n).st ≠ 0 → (s.key n).st ≠ 2 → s.mon.busy .fw = false → ∃ t : State, exec (.keyerase .fw) s = .next t ∧ t.mon.status .fw = 0 ∧ t.key n = KeySlot.empty
        ∧ (∀ p, names p → t.tag p = Tag.clear) ∧ (∀ p, ¬ names p → t.tag p = s.tag p)
        ∧ (∀ b, names (b / 65536) → t.mem.byte 0 b = 0) ∧ ∀ loc b, loc < 3 → loc ≠ 0 ∨ ¬ names (b / 65536) → t.mem.byte loc b = s.mem.byte loc b))
  ∧ (∀ (s : State) (n : Nat), s.mon.erase = some n → s.mon.busy .fw = true → s.mon.cmd .fw = 0x21 → Sparse.wf Tag.clear s.mon.tags = true → s.openMem = true →
    let names := fun (p : Nat) => (s.tag p).mode ≠ 0 ∧ (s.tag p).slot = n ∧ (s.tag p).sv = false
    ∃ t : State, exec (.keyerase .fw) s = .next t ∧ t.mon.status .fw = 0 ∧ t.mon.erase = none ∧ t.key n = KeySlot.empty
      ∧ (∀ p, names p → t.tag p = Tag.clear) ∧ (∀ p, ¬ names p → t.tag p = s.tag p)
      ∧ (∀ b, names (b / 65536) → t.mem.byte 0 b = 0) ∧ ∀ loc b, loc < 3 → loc ≠ 0 ∨ ¬ names (b / 65536) → t.mem.byte loc b = s.mem.byte loc b)
  ∧ (∀ s : State, s.takes .fw 0x22 = true → Sparse.wf Tag.clear s.mon.tags = true → s.openMem = true →
    let a := (s.mon.dword .fw 0).toNat
    let size := (s.mon.dword .fw 1).toNat
    let mode := fieldN (s.mon.dword .fw 2) 0 2
    let slot := fieldN (s.mon.dword .fw 2) 8 7
    let r := s.region (s.mon.dword .fw 3).toNat
    let good := s.mon.namedOnly .fw [allBits, allBits, 0x7F03, allBits] = true ∧ r.live = true ∧ a % 65536 = 0 ∧ size ≠ 0 ∧ size % 65536 = 0
      ∧ a + size ≤ Config.hbmBytes ∧ mode ≠ 3 ∧ (mode ≠ 0 → (s.key slot).st = 1 ∧ bitAt r.keys slot = true) ∧ (mode = 2 → a % 524288 = 0 ∧ size % 524288 = 0)
    let inside := fun (p : Nat) => a / 65536 ≤ p ∧ p < (a + size) / 65536
    let new := fun (p : Nat) => rangeTag mode (if mode = 0 then 0 else slot) (size / 65536) (p - a / 65536) false
    let resets := s.resetting (s.mon.dword .fw 3).toNat
    (resets = true → exec (.tagset .fw) s = .next (s.served .fw 2)) ∧ (resets = false → ¬ good → exec (.tagset .fw) s = .next (s.served .fw 1))
    ∧ (resets = false → good → (∃ p, inside p ∧ (s.tag p).sv = true) → exec (.tagset .fw) s = .next (s.served .fw 8))
    ∧ (resets = false → good → (∀ p, inside p → (s.tag p).sv = false) → ∃ t : State, exec (.tagset .fw) s = .next t ∧ t.mon.status .fw = 0
        ∧ (∀ p, t.tag p = if inside p then new p else s.tag p)
        ∧ ∀ loc b, loc < 3 → t.mem.byte loc b = if loc = 0 ∧ inside (b / 65536) ∧ new (b / 65536) ≠ s.tag (b / 65536) then 0 else s.mem.byte loc b))
  ∧ ∀ s : State, s.takes .fw 0x23 = true → Sparse.wf Tag.clear s.mon.tags = true → s.openMem = true → (∀ p ∈ s.ctxs, p.2.st ≠ .waiting) →
    let inside := fun (a size p : Nat) => a / 65536 ≤ p ∧ p < (a + size) / 65536
    let release := bitAt (s.mon.dword .fw 2) 0 = true
    (release → exec (.savesetCreate .fw) s = .next s) ∧ (¬ release → exec (.savesetRelease .fw) s = .next s)
    ∧ (s.savesetArgs .fw = none → exec (if bitAt (s.mon.dword .fw 2) 0 then .savesetRelease .fw else .savesetCreate .fw) s = .next (s.served .fw 1))
    ∧ ∀ a size, s.savesetArgs .fw = some (a, size) →
      (¬ release → (∃ p, inside a size p ∧ ((s.tag p).mode ≠ 0 ∨ (s.tag p).sv = true)) → exec (.savesetCreate .fw) s = .next (s.served .fw 8))
      ∧ (¬ release → (∀ p, inside a size p → (s.tag p).mode = 0 ∧ (s.tag p).sv = false) → ∃ t : State, exec (.savesetCreate .fw) s = .next t ∧ t.mon.status .fw = 0
          ∧ t.mon.areas = s.mon.areas ++ [⟨a, size, none⟩] ∧ (∀ p, inside a size p → (t.tag p).sv = true)
          ∧ ∀ loc b, loc < 3 → t.mem.byte loc b = if loc = 0 ∧ a ≤ b ∧ b < a + size then 0 else s.mem.byte loc b)
      ∧ (release → (∀ q ∈ s.mon.areas, q.base ≠ a ∨ q.size ≠ size) → exec (.savesetRelease .fw) s = .next (s.served .fw 1))
      ∧ (release → ∀ q, s.mon.areas.find? (fun q => q.base = a && q.size = size) = some q →
          (q.ctx ≠ none → exec (.savesetRelease .fw) s = .next (s.served .fw 8))
          ∧ (q.ctx = none → ∃ t : State, exec (.savesetRelease .fw) s = .next t ∧ t.mon.status .fw = 0 ∧ t.mon.areas = s.mon.areas.filter (fun q => q.base != a)
              ∧ (∀ p, inside a size p → t.tag p = Tag.clear)
              ∧ ∀ loc b, loc < 3 → t.mem.byte loc b = if loc = 0 ∧ a ≤ b ∧ b < a + size then 0 else s.mem.byte loc b))

/-- FLR and full reset (R245, R255, R259) complete. A function-level reset ends the contexts of its function's regions, discards their requests, erases
the keys of its roots, retires its regions, and reports that it is done; other regions stay as live as they were; a reset that a register write starts
is busy until its end. A full reset with good fuses leaves the boot state with the attach open, the roll-back values kept, the mode that was set, no
key, no tag, and local memory of zeros where a mode was confidential; with bad fuses the device reports it. The model's own choices and readings: a
reset takes two events when a register write starts it (log 16); a root's own region, which R259 retires with the others, emits its record and stays
live, since the root does (log 113); a write while the attach retrains waits (log 122). -/
def Obligations.Resets : Prop :=
  (∀ (s : State) (v : Word), let fn := fieldN v 0 4
    let mine := fun (p : Nat) => p ∈ s.fnRegions fn
    (bitAt v 31 = false ∨ (s.io.flrBusy = true ∧ fn ≠ s.io.flrFn) → exec (.flr v) s = .next s)
    ∧ (bitAt v 31 = true → s.io.flrBusy = false → s.attachOpen = false → exec (.flr v) s = .next
        (if s.attachBooted = true then { s with io := { s.io with hostq := s.io.hostq ++ [.writeReg 0x80010 32 (v.setWidth 64)] } } else s))
    ∧ (s.attachOpen = true → exec (.registerWrite .host 0x80010 32 (v.setWidth 64)) s = .next (if bitAt v 31 && !s.io.flrBusy then s.flrStart fn else s))
    ∧ (let t := s.flrStart fn; t.io.flrBusy = true ∧ t.io.flrFn = fn ∧ (∀ p, mine p → (t.ctx (s.region p).ctx).st = .none) ∧ (∀ p, (t.region p).live = (s.region p).live)
        ∧ (∀ n, n < 128 → (s.key n).st = 1 → (s.root (s.key n).root).held = true → (s.root (s.key n).root).fn = fn → (t.key n).st = 2))
    ∧ (bitAt v 31 = true → s.io.flrBusy = true → s.io.flrFn = fn → exec (.flr v) s = .next s.flrEnd)
    ∧ (bitAt v 31 = true → s.io.flrBusy = false → s.attachOpen = true → Sparse.wf Region.none s.regions = true →
        (∀ p, mine p → (s.root (s.region p).root).records.length + (s.fnRegions fn).length ≤ 63) →
        ∃ t : State, exec (.flr v) s = .next t ∧ t.io.flrDone = true ∧ t.io.flrBusy = false ∧ t.io.flrFn = fn
        ∧ (∀ p, mine p → (t.ctx (s.region p).ctx).st = .none ∧ (t.region p).live = decide ((s.region p).parent = 0))
        ∧ (∀ p, ¬ mine p → (t.region p).live = (s.region p).live)
        ∧ (∀ r ∈ t.fab.reqs, ∀ p, mine p → r.ctx ≠ (s.region p).ctx)
        ∧ ∀ n, n < 128 → (s.root (s.key n).root).held = true → (s.root (s.key n).root).fn = fn → (t.key n).st = 0))
  ∧ ∀ s : State,
    (∃ t : State, exec (.fullReset false) s = .next t ∧ t.io.bootstat = 0xFF ∧ t.cores = [] ∧ t.mon.fwrange = none)
    ∧ ∃ t : State, exec (.fullReset true) s = .next t ∧ t.io.bootstat = 0x01 ∧ t.cores = [] ∧ t.regions = [] ∧ t.ctxs = [] ∧ t.launches = []
      ∧ t.mon.keys = [] ∧ t.mon.tags = [] ∧ t.mon.images = [] ∧ t.mon.roots = [] ∧ t.mon.areas = [] ∧ t.mon.fwrange = none ∧ t.mon.dbg = false ∧ t.mon.deny = 0
      ∧ t.mon.roll = s.mon.roll ∧ t.mon.conf = s.mon.confNext ∧ (∀ c, (t.schedCore c).inReset = true) ∧ t.mem.pois = []
      ∧ (s.mon.conf = true ∨ s.mon.confNext = true → ∀ a, t.mem.byte 0 a = 0)
      ∧ (s.mon.conf = false → s.mon.confNext = false → Sparse.wf Tag.clear s.mon.tags = true → ∀ a, (s.tag (a / 65536)).mode = 0 → t.mem.byte 0 a = s.mem.byte 0 a)
      ∧ Sparse.get 0 t.mon.meas 0 = Config.sha384 (leBytes 48 0 ++ leBytes 48 Config.romDigest.toNat)
      ∧ Sparse.get 0 t.mon.meas 1 = Config.sha384 (leBytes 48 0 ++ leBytes 48 (Config.fuseState ((List.range 4).map fun n => Sparse.get 0 s.mon.roll n)).toNat)

/-! ## Links and mirroring -/

/-- The links (R249, R267 to R272, R41, R406) complete. A lane lost is repaired, halves the link and doubles its cost, or takes it down; a trained
link is whole, and lets in what waited for the attach; a silent peer is lost. A flit with a bad check is retried; a peer's load, store and
atomic meet the local crypt tags and are answered on the route of least cost; a reply completes the access that the peer has performed; a message and a frame go
to the buffers of their port, a pause frame stops the priorities that it names. MIRCFG clears BRK and what was pending, and sends every mirror page; a
partner's mirror write is stored in the receive range, or refused. The model's own choices and readings: the cost of a trained link is 1 (log 22) and it has no
credit yet (log 116); what waited for the attach (log 122); what MIRCFG forgets (log 35); replies that no access awaits (log 125); the layout of
a pause frame (log 140). -/
def Obligations.LinksComplete : Prop :=
  (∀ (s : State) (n : Nat), let l := s.port n
    (12 ≤ n ∨ l.up = false → exec (.laneLoss n) s = .next s)
    ∧ (n < 12 → l.up = true → ∃ t : State, exec (.laneLoss n) s = .next t ∧ min 65535 l.rtry ≤ (t.port n).rtry
        ∧ (8 ≤ n → 0 < l.spare → (t.port n).up = true ∧ (t.port n).spare = l.spare - 1 ∧ (t.port n).wid = l.wid ∧ (t.port n).cost = l.cost ∧ t.mem = s.mem ∧ t.fab = s.fab)
        ∧ (n < 8 ∨ l.spare = 0 → l.wid = 0 → (t.port n).up = true ∧ (t.port n).wid = 1 ∧ (t.port n).win = l.win / 2 ∧ (t.port n).weight = l.weight / 2
            ∧ (t.port n).cost = 2 * l.cost
            ∧ t.mem = s.mem ∧ t.fab = s.fab)
        ∧ (n < 8 ∨ l.spare = 0 → l.wid ≠ 0 → (t.port n).up = false ∧ (t.port n).wid = 2)
        ∧ (∀ m, m ≠ n → (t.port m).up = (s.port m).up ∧ (t.port m).wid = (s.port m).wid ∧ (t.port m).mode = (s.port m).mode ∧ (t.port m).cost = (s.port m).cost)
        ∧ ((8 ≤ n ∧ 0 < l.spare) ∨ l.wid = 0 → ∀ m, m ≠ n → t.port m = s.port m)))
  ∧ (∀ (s : State) (n : Nat), let starts := n < 12 ∧ (n < 8 → (s.port n).mode ≠ 0) ∧ (8 ≤ n → s.io.bootstat ≠ 0)
    (¬ starts → exec (.linkTrained n) s = .next s)
    ∧ (starts → ∃ t : State, exec (.linkTrained n) s = .next t ∧ (t.port n).up = true ∧ (t.port n).wid = 0 ∧ (t.port n).cost = 1
        ∧ (t.port n).win = Config.sendWindow n ∧ (t.port n).weight = Config.sendWeight n ∧ (t.port n).cred = 0
        ∧ (t.port n).mode = (s.port n).mode ∧ (n < 8 → (t.port n).spare = 0)
        ∧ (n < 8 ∨ s.io.hostq = [] → ∀ m, m ≠ n → t.port m = s.port m)
        ∧ (n < 8 ∨ s.io.hostq = [] → t.mem = s.mem ∧ t.cores = s.cores)
        ∧ (8 ≤ n → ∀ pa len, s.io.hostq = [.read pa len] → s.waveHolds ⟨0, 0, pa⟩ len = false → t.io.hostRd = s.hostBytes pa len ∧ t.io.hostq = [])))
  ∧ (∀ (s : State) (d : Nat), (d ∈ s.io.lost → exec (.peerSilenceDetected d) s = .next s)
    ∧ (d ∉ s.io.lost → ∃ t : State, exec (.peerSilenceDetected d) s = .next t ∧ d ∈ t.io.lost ∧ t.routes d = false ∧ t.routePort d = none))
  ∧ (∀ (s : State) (d p : Nat), s.routePort d = some p →
    p < 8 ∧ s.leads d p = true ∧ d ∉ s.io.lost
      ∧ ∀ q, q < 8 → s.leads d q = true → (s.port p).cost + Config.pathCost p d ≤ (s.port q).cost + Config.pathCost q d)
  ∧ (∀ (s : State) (n : Nat) (ok : Bool) (m : FabricMsg), let open_ := n < 8 ∧ (s.port n).up = true ∧ (s.port n).mode = 1
    (¬ open_ → exec (.fabricFlitReceive n ok m) s = .next s)
    ∧ (open_ → ok = false → exec (.fabricFlitReceive n ok m) s = .next (s.modLink n fun q => { q with rtry := min 65535 (q.rtry + 1) }))
    ∧ (open_ → ok = true → ∀ src bs, m = .message src bs → exec (.fabricFlitReceive n ok m) s = .next (s.modLink n fun l => { l with rx := l.rx ++ [bs] }))
    ∧ (open_ → ok = true → ∀ src tag pa len crypt key, m = .load src tag pa len crypt key → s.waveHolds ⟨0, 0, pa⟩ len = true → exec (.fabricFlitReceive n ok m) s = .next s)
    ∧ (open_ → ok = true → ∀ src tag pa len crypt key, m = .load src tag pa len crypt key → s.waveHolds ⟨0, 0, pa⟩ len = false → s.openMem = true →
        let good := s.peerOk pa len crypt key false
        exec (.fabricFlitReceive n ok m) s = .next (s.sendTo src (.reply tag (if good then s.mem.read 0 pa len else []) (good && s.mem.poisoned 0 pa len) !good)))
    ∧ (open_ → ok = true → ∀ src tag pa bs mask pois crypt key, m = .store src tag pa bs mask pois crypt key → s.waveHolds ⟨0, 0, pa⟩ bs.length = false → s.openMem = true →
        (∀ o ∈ s.fab.objs, o.2.armed = false) →
        let good := s.peerOk pa bs.length crypt key true
        let part := fun (n : Nat) => BitVec.ofNat 8 (mask / 256 ^ n)
        let new := fun (n : Nat) => if mask = 0 then bs.getD n 0 else (bs.getD n 0 &&& part n) ||| (s.mem.byte 0 (pa + n) &&& ~~~ part n)
        ∃ t : State, exec (.fabricFlitReceive n ok m) s = .next (t.sendTo src (.reply tag [] false !good)) ∧ t.cores = s.cores ∧ t.io = s.io
          ∧ (∀ loc b, loc < 3 → t.mem.byte loc b = if good = true ∧ loc = 0 ∧ pa ≤ b ∧ b < pa + bs.length then new (b - pa) else s.mem.byte loc b)
          ∧ (good = true → pois = true → bs ≠ [] → t.mem.poisoned 0 pa bs.length = true))
    ∧ (open_ → ok = true → ∀ src tag pa op ty ops crypt key, m = .atomic src tag pa op ty ops crypt key → let w := 4 * nreg (BitVec.ofNat 4 ty)
        let after := fun (l : List (DWord × DWord)) => l.foldl (fun a p => atomNew op (BitVec.ofNat 4 ty) a p.1 p.2) (BitVec.ofNat 64 (s.mem.readNat 0 pa w))
        s.waveHolds ⟨0, 0, pa⟩ w = false → s.openMem = true → (∀ o ∈ s.fab.objs, o.2.armed = false) → s.peerOk pa w crypt key true = true → s.mem.poisoned 0 pa w = false →
        ∃ t : State, exec (.fabricFlitReceive n ok m) s = .next
            (t.sendTo src (.reply tag ((List.range ops.length).flatMap fun k => leBytes w (after (ops.take k)).toNat) false false)) ∧ t.cores = s.cores ∧ t.io = s.io
          ∧ t.mem.readNat 0 pa w = (after ops).toNat % 2 ^ (8 * w)
          ∧ ∀ loc b, loc < 3 → loc ≠ 0 ∨ b < pa ∨ pa + w ≤ b → t.mem.byte loc b = s.mem.byte loc b)
    ∧ (open_ → ok = true → ∀ id bs pois, (m = .reply id bs pois true → exec (.fabricFlitReceive n ok m) s = .next s)
        ∧ (m = .reply id bs pois false → (s.findReq id = none → exec (.fabricFlitReceive n ok m) s = .next s)
          ∧ ∀ r, s.findReq id = some r →
            (r.done = true ∨ r.ans ≠ some bs ∨ pois ≠ r.pois → exec (.fabricFlitReceive n ok m) s = .next s)
            ∧ (r.done = false → r.ans = some bs → pois = r.pois → exec (.fabricFlitReceive n ok m) s = .next (s.complete r r.pois r.replies))))
    ∧ (open_ → ok = true → ∀ id, m = .mirrorAck id true → ∀ q, s.fab.mirror.find? (fun y => y.id = id && y.sent.isSome && !s.mirrorWaits id) = some q →
        ∃ t : State, exec (.fabricFlitReceive n ok m) s = .next t ∧ bitAt t.io.mircfg 62 = true ∧ t.mem = s.mem ∧ t.cores = s.cores)
    ∧ (open_ → ok = true → ∀ id refused, m = .mirrorAck id refused → s.fab.mirror.find? (fun y => y.id = id && y.sent.isSome && !s.mirrorWaits id) = none →
        exec (.fabricFlitReceive n ok m) s = .next s)
    ∧ (∀ pa len crypt key write, s.peerOk pa len crypt key write = true → 0 < len → pa + len ≤ Config.hbmBytes ∧
        let y := s.tag (pa / 65536)
        (y.sv = true → write = false ∧ crypt = 2) ∧ (y.sv = false → crypt = y.mode ∧ y.mode ≠ 3 ∧ (crypt ≠ 0 → key = y.slot ∧ (s.key y.slot).st = 1))))
  ∧ (∀ (s : State) (n : Nat) (bs : List Byte), let l := s.port n
    let half := fun k => (bs.getD k 0).toNat * 256 + (bs.getD (k + 1) 0).toNat
    let open_ := n < 8 ∧ l.up = true ∧ l.mode = 2 ∧ bs.length ≤ 9216
    let sends := fun (q : Link) => q.rx = l.rx ∧ q.txf = l.txf ++ l.txw.filter (fun b => !bitAt q.paused (framePrio b)) ∧ q.txw = l.txw.filter (fun b => bitAt q.paused (framePrio b))
    (¬ open_ → exec (.ethernetFrameReceive n bs) s = .next s)
    ∧ (open_ → half 12 ≠ 0x8808 ∨ (half 14 ≠ 0x0001 ∧ half 14 ≠ 0x0101) → exec (.ethernetFrameReceive n bs) s = .next (s.modLink n fun q => { q with rx := q.rx ++ [bs] }))
    ∧ (open_ → half 12 = 0x8808 → half 14 = 0x0001 → ∃ t : State, exec (.ethernetFrameReceive n bs) s = .next t ∧ t.mem = s.mem ∧ sends (t.port n)
        ∧ (t.port n).paused = (if half 16 = 0 then 0 else 0xFF))
    ∧ (open_ → half 12 = 0x8808 → half 14 = 0x0101 → ∃ t : State, exec (.ethernetFrameReceive n bs) s = .next t ∧ t.mem = s.mem ∧ sends (t.port n)
        ∧ ∀ k, k < 8 → bitAt (t.port n).paused k = if bitAt (bs.getD 17 0) k then half (18 + 2 * k) != 0 else bitAt l.paused k))
  ∧ (∀ (s : State) (v : DWord), let men := if s.ethernet && bitAt v 63 then bitAt s.io.mircfg 63 else bitAt v 63
    ∃ t : State, exec (.mircfgWrite v) s = .next t ∧ bitAt t.io.mircfg 63 = men ∧ fieldN t.io.mircfg 0 37 = fieldN v 0 37 ∧ t.mem = s.mem ∧ t.cores = s.cores
      ∧ (men = false → bitAt t.io.mircfg 62 = false ∧ t.fab.mirror = [])
      ∧ (men = true → bitAt t.io.mircfg 62 = !s.routes (fieldN v 24 13))
      ∧ (men = true → t.fab.mirror.map (fun m => (m.pa, m.bytes, m.makers)) = s.mirrorPages.flatMap fun p =>
          (List.range (2 ^ p.2 / 16)).map fun n => (p.1 + 16 * n, s.seen.read 0 (p.1 + 16 * n) 16, [])))
  ∧ ∀ (s : State) (src ofs : Nat) (bs : List Byte), let lo := fieldN s.io.mirrx 0 24 * 65536
    let takes := bitAt s.io.mirrx 63 = true ∧ lo ≤ ofs ∧ ofs + bs.length ≤ lo + fieldN s.io.mirrx 24 24 * 65536 ∧ ofs + bs.length ≤ Config.hbmBytes
    let up := ∃ p, p < 8 ∧ (s.port p).up = true ∧ (s.port p).mode = 1
    (¬ up → exec (.mirrorWriteReceive src ofs bs) s = .next s)
    ∧ (up → ¬ takes → exec (.mirrorWriteReceive src ofs bs) s = .next (s.sendTo src (.mirrorAck ofs true)))
    ∧ (up → takes → s.waveHolds ⟨0, 0, ofs⟩ bs.length = true → exec (.mirrorWriteReceive src ofs bs) s = .next s)
    ∧ (up → takes → s.waveHolds ⟨0, 0, ofs⟩ bs.length = false → s.openMem = true → (∀ o ∈ s.fab.objs, o.2.armed = false) →
        ∃ t : State, exec (.mirrorWriteReceive src ofs bs) s = .next (t.sendTo src (.mirrorAck ofs false)) ∧ t.cores = s.cores ∧ t.io = s.io
        ∧ ∀ loc b, loc < 3 → t.mem.byte loc b = if loc = 0 ∧ ofs ≤ b ∧ b < ofs + bs.length then bs.getD (b - ofs) 0 else s.mem.byte loc b)

/-! ## Exceptions of programs -/

/-- A program fault (R233, R234, R236), its return (R242), and the kill of a warp by a machine check (R104, R237, R383). The faulting slices stop
at the instruction and hold the code, the address and the word; the context's halt line rises and keeps the first code. On the return the
slice tries the instruction again, or goes on past it and its extension word. A machine check posts its record and ends the warp with nothing
of the instruction written: the warp counts in no barrier and holds no band. -/
def Obligations.ProgramFaults : Prop :=
  (∀ (s : State) (c w : Nat) (sls : List Nat) (code : BitVec 8) (fva opw : DWord), code ≠ 0 → sls.Nodup →
    let t := s.raise c w sls code fva opw
    let n := ((s.core c).block (s.warp c w).block).ctx
    (∀ j ∈ sls, let x := (t.warp c w).slice j; let y := (s.warp c w).slice j
      x.st = .faulted ∧ x.park = .none ∧ x.code = code ∧ x.fva = fva ∧ x.opw = opw ∧ x.pc = y.pc ∧ x.mask = y.mask ∧ x.stack = y.stack ∧ x.gang = y.gang)
    ∧ (∀ j, j ∉ sls → (t.warp c w).slice j = (s.warp c w).slice j)
    ∧ (t.ctx n).st = (if (s.ctx n).st = .running then .halting else (s.ctx n).st) ∧ (t.ctx n).flt = true
    ∧ (t.ctx n).first = (if (s.ctx n).first = 0 then code else (s.ctx n).first)
    ∧ (∀ m, m ≠ n → t.ctx m = s.ctx m) ∧ t.mem = s.mem ∧ t.fab = s.fab ∧ sameRegs s t ∧ sameScratch s t)
  ∧ (∀ (s : State) (c b : Nat) (cp : Bool) (code : BitVec 8) (fva opw : DWord), code ≠ 0 →
    let t := s.raiseSeq c b cp code fva opw
    let q := (t.core c).seq b cp
    q.st = .faulted ∧ q.code = code ∧ q.fva = fva ∧ q.opw = opw ∧ q.pc = ((s.core c).seq b cp).pc ∧ (t.ctx ((s.core c).block b).ctx).st ≠ .running
      ∧ t.mem = s.mem ∧ t.fab = s.fab ∧ sameRegs s t ∧ sameScratch s t)
  ∧ (∀ (x : Slice), x.st = .faulted →
    (let y := x.resume 1;
      y.st = .running ∧ y.pc = x.pc ∧ y.mask = x.mask ∧ y.stack = x.stack ∧ y.code = 0)
    ∧ (x.mask ≠ 0 → x.stack = [] → let y := x.resume 2;
      y.st = .running ∧ y.pc = (x.pc + if bitAt x.opw 63 then 16 else 8) &&& 0x1FFFFFFFFFFFFFF ∧ y.mask = x.mask))
  ∧ ∀ (s : State) (c w : Nat) (r : McRec) (pc opw : DWord), let b := (s.warp c w).block
    let y := (s.core c).block b
    w ∈ y.warps → (∃ v ∈ y.warps, v ≠ w) → (∀ p ∈ s.cores, p.2.waiters = []) →
    let t := s.machineCheck c w r pc opw
    (t.warp c w).live = false ∧ ((t.core c).block b).warps = y.warps.filter (· != w)
      ∧ (∀ v, v ≠ w → (t.warp c v).rf = (s.warp c v).rf ∧ (t.warp c v).live = (s.warp c v).live)
      ∧ (∀ n, n < 16 → ((t.core c).block b).bar n = (y.bar n).leave w)
      ∧ (∀ p ∈ (t.core c).tiles, p.1 / 16 = b → ∀ d ∈ p.2.bands, d.warp ≠ w)
      ∧ (∀ q ∈ t.fab.reqs, ∀ p ∈ q.parts, p.uid = (s.warp c w).uid → p.live = false)
      ∧ (let e := Sparse.get EvQ.reset s.io.evq (s.ctxRegion y.ctx).fdom
        e.open? = true → (e.wi - e.ri).toNat ≠ 2 ^ fieldN e.b 58 5 → (Sparse.get EvQ.reset t.io.evq (s.ctxRegion y.ctx).fdom).wi = e.wi + 1)

end
end

