-- ==== Sys2Proof/Laws/Decode.lean ====
section
/-!
SUPPORT. Fields of a word built by appending, the formats packed and unpacked, the opcode map on packed words.
-/

namespace Sys2Proof

/-! ## Fields -/

theorem field_append_lo {n m : Nat} (x : BitVec n) (y : BitVec m) (lo len : Nat) (h : lo + len ≤ m) :
    field (x ++ y) lo len = field y lo len := by
  unfold field
  apply BitVec.eq_of_getLsbD_eq
  intro i hi
  simp only [BitVec.getLsbD_extractLsb', BitVec.getLsbD_append]
  have : lo + i < m := by omega
  simp [this]

theorem field_append_hi {n m : Nat} (x : BitVec n) (y : BitVec m) (lo len : Nat) (h : m ≤ lo) :
    field (x ++ y) lo len = field x (lo - m) len := by
  unfold field
  apply BitVec.eq_of_getLsbD_eq
  intro i hi
  simp only [BitVec.getLsbD_extractLsb', BitVec.getLsbD_append]
  have h1 : ¬ lo + i < m := by omega
  have h2 : lo + i - m = lo - m + i := by omega
  simp [h1, h2]

@[simp] theorem field_self {n : Nat} (x : BitVec n) : field x 0 n = x := by simp [field]

theorem bitAt_eq_field {n : Nat} (x : BitVec n) (i : Nat) : bitAt x i = (field x i 1 == 1#1) := by
  have h : (field x i 1).getLsbD 0 = x.getLsbD i := by simp [field]
  unfold bitAt
  rw [← h]
  generalize field x i 1 = b
  revert b; decide

theorem bit_zero_or_one (b : BitVec 1) : b = 0 ∨ b = 1 := by revert b; decide

/-! ## The formats -/

theorem opc_packA (o : BitVec 7) (u : BitVec 5) (f : FmtA) : field (packA o u f) 56 7 = o := by
  unfold packA
  (repeat refine (field_append_hi _ _ _ _ (by decide)).trans ?_) <;>
    (first | exact field_self _ | (refine (field_append_lo _ _ _ _ (by decide)).trans ?_; exact field_self _))

theorem sub_packA (o : BitVec 7) (u : BitVec 5) (f : FmtA) : field (packA o u f) 4 5 = u := by
  unfold packA
  (repeat refine (field_append_hi _ _ _ _ (by decide)).trans ?_) <;>
    (first | exact field_self _ | (refine (field_append_lo _ _ _ _ (by decide)).trans ?_; exact field_self _))

theorem top_packA (o : BitVec 7) (u : BitVec 5) (f : FmtA) : field (packA o u f) 63 1 = 0#1 := by
  unfold packA
  (repeat refine (field_append_hi _ _ _ _ (by decide)).trans ?_) <;>
    (first | exact field_self _ | (refine (field_append_lo _ _ _ _ (by decide)).trans ?_; exact field_self _))

theorem unpack_packA (o : BitVec 7) (u : BitVec 5) (f : FmtA) : unpackA (packA o u f) = f := by
  cases f
  simp only [unpackA, packA, FmtA.mk.injEq]
  refine ⟨?_, ?_, ?_, ?_, ?_, ?_, ?_, ?_, ?_, ?_, ?_, ?_, ?_, ?_⟩ <;>
    (repeat refine (field_append_hi _ _ _ _ (by decide)).trans ?_) <;>
    (first | exact field_self _ | (refine (field_append_lo _ _ _ _ (by decide)).trans ?_; exact field_self _))

theorem opc_packB (o : BitVec 7) (u : BitVec 5) (f : FmtB) : field (packB o u f) 56 7 = o := by
  unfold packB
  (repeat refine (field_append_hi _ _ _ _ (by decide)).trans ?_) <;>
    (first | exact field_self _ | (refine (field_append_lo _ _ _ _ (by decide)).trans ?_; exact field_self _))

theorem sub_packB (o : BitVec 7) (u : BitVec 5) (f : FmtB) : field (packB o u f) 8 5 = u := by
  unfold packB
  (repeat refine (field_append_hi _ _ _ _ (by decide)).trans ?_) <;>
    (first | exact field_self _ | (refine (field_append_lo _ _ _ _ (by decide)).trans ?_; exact field_self _))

theorem top_packB (o : BitVec 7) (u : BitVec 5) (f : FmtB) : field (packB o u f) 63 1 = f.x := by
  unfold packB
  (repeat refine (field_append_hi _ _ _ _ (by decide)).trans ?_) <;>
    (first | exact field_self _ | (refine (field_append_lo _ _ _ _ (by decide)).trans ?_; exact field_self _))

theorem rsv_packB (o : BitVec 7) (u : BitVec 5) (f : FmtB) : field (packB o u f) 4 4 = 0#4 := by
  unfold packB
  (repeat refine (field_append_hi _ _ _ _ (by decide)).trans ?_) <;>
    (first | exact field_self _ | (refine (field_append_lo _ _ _ _ (by decide)).trans ?_; exact field_self _))

theorem bit_packB (o : BitVec 7) (u : BitVec 5) (f : FmtB) : bitAt (packB o u f) 63 = (f.x == 1#1) := by rw [bitAt_eq_field, top_packB]

theorem ext_packB (f : FmtB) (h : f.x = 1) : field (packBExt f) 0 32 = f.imm32 := by
  unfold packBExt
  rw [if_pos h]
  (repeat refine (field_append_hi _ _ _ _ (by decide)).trans ?_) <;>
    (first | exact field_self _ | (refine (field_append_lo _ _ _ _ (by decide)).trans ?_; exact field_self _))

theorem extRsv_packB (f : FmtB) : f.x = 0 ∨ field (packBExt f) 32 32 = 0 := by
  rcases bit_zero_or_one f.x with h | h
  · exact .inl h
  · right; unfold packBExt; rw [if_pos h]
    (repeat refine (field_append_hi _ _ _ _ (by decide)).trans ?_) <;>
      (first | exact field_self _ | (refine (field_append_lo _ _ _ _ (by decide)).trans ?_; exact field_self _))

theorem unpack_packB (o : BitVec 7) (u : BitVec 5) (f : FmtB) (h : f.x = 0 → f.imm32 = 0) : unpackB (packB o u f) (packBExt f) = f := by
  have hx : (if bitAt (packB o u f) 63 then field (packBExt f) 0 32 else 0) = f.imm32 := by
    rw [bit_packB]
    rcases bit_zero_or_one f.x with hx | hx
    · rw [h hx, hx]; rfl
    · rw [if_pos (by rw [hx]; rfl), ext_packB f hx]
  unfold unpackB
  rw [hx]
  cases f
  simp only [packB, FmtB.mk.injEq, and_true]
  refine ⟨?_, ?_, ?_, ?_, ?_, ?_, ?_, ?_, ?_, ?_⟩ <;>
    (repeat refine (field_append_hi _ _ _ _ (by decide)).trans ?_) <;>
    (first | exact field_self _ | (refine (field_append_lo _ _ _ _ (by decide)).trans ?_; exact field_self _))

theorem opc_packF (o : BitVec 7) (u : BitVec 5) (f : FmtF) : field (packF o u f) 56 7 = o := by
  unfold packF
  (repeat refine (field_append_hi _ _ _ _ (by decide)).trans ?_) <;>
    (first | exact field_self _ | (refine (field_append_lo _ _ _ _ (by decide)).trans ?_; exact field_self _))

theorem sub_packF (o : BitVec 7) (u : BitVec 5) (f : FmtF) : field (packF o u f) 4 5 = u := by
  unfold packF
  (repeat refine (field_append_hi _ _ _ _ (by decide)).trans ?_) <;>
    (first | exact field_self _ | (refine (field_append_lo _ _ _ _ (by decide)).trans ?_; exact field_self _))

theorem top_packF (o : BitVec 7) (u : BitVec 5) (f : FmtF) : field (packF o u f) 63 1 = 0#1 := by
  unfold packF
  (repeat refine (field_append_hi _ _ _ _ (by decide)).trans ?_) <;>
    (first | exact field_self _ | (refine (field_append_lo _ _ _ _ (by decide)).trans ?_; exact field_self _))

theorem rsv_packF (o : BitVec 7) (u : BitVec 5) (f : FmtF) : field (packF o u f) 14 2 = 0#2 := by
  unfold packF
  (repeat refine (field_append_hi _ _ _ _ (by decide)).trans ?_) <;>
    (first | exact field_self _ | (refine (field_append_lo _ _ _ _ (by decide)).trans ?_; exact field_self _))

theorem unpack_packF (o : BitVec 7) (u : BitVec 5) (f : FmtF) : unpackF (packF o u f) = f := by
  cases f
  simp only [unpackF, packF, FmtF.mk.injEq]
  refine ⟨?_, ?_, ?_, ?_, ?_, ?_, ?_, ?_, ?_, ?_, ?_, ?_, ?_⟩ <;>
    (repeat refine (field_append_hi _ _ _ _ (by decide)).trans ?_) <;>
    (first | exact field_self _ | (refine (field_append_lo _ _ _ _ (by decide)).trans ?_; exact field_self _))

theorem opc_packM (o : BitVec 7) (u : BitVec 5) (f : FmtM) : field (packM o u f) 56 7 = o := by
  unfold packM
  (repeat refine (field_append_hi _ _ _ _ (by decide)).trans ?_) <;>
    (first | exact field_self _ | (refine (field_append_lo _ _ _ _ (by decide)).trans ?_; exact field_self _))

theorem sub_packM (o : BitVec 7) (u : BitVec 5) (f : FmtM) : field (packM o u f) 0 5 = u := by
  unfold packM
  (repeat refine (field_append_hi _ _ _ _ (by decide)).trans ?_) <;>
    (first | exact field_self _ | (refine (field_append_lo _ _ _ _ (by decide)).trans ?_; exact field_self _))

theorem top_packM (o : BitVec 7) (u : BitVec 5) (f : FmtM) : field (packM o u f) 63 1 = f.x := by
  unfold packM
  (repeat refine (field_append_hi _ _ _ _ (by decide)).trans ?_) <;>
    (first | exact field_self _ | (refine (field_append_lo _ _ _ _ (by decide)).trans ?_; exact field_self _))

theorem bit_packM (o : BitVec 7) (u : BitVec 5) (f : FmtM) : bitAt (packM o u f) 63 = (f.x == 1#1) := by rw [bitAt_eq_field, top_packM]

theorem extew_packM (f : FmtM) (h : f.x = 1) : field (packMExt f) 27 5 = f.ew := by
  unfold packMExt
  rw [if_pos h]
  (repeat refine (field_append_hi _ _ _ _ (by decide)).trans ?_) <;>
    (first | exact field_self _ | (refine (field_append_lo _ _ _ _ (by decide)).trans ?_; exact field_self _))

theorem extcph_packM (f : FmtM) (h : f.x = 1) : field (packMExt f) 25 2 = f.cph := by
  unfold packMExt
  rw [if_pos h]
  (repeat refine (field_append_hi _ _ _ _ (by decide)).trans ?_) <;>
    (first | exact field_self _ | (refine (field_append_lo _ _ _ _ (by decide)).trans ?_; exact field_self _))

theorem extsprd_packM (f : FmtM) (h : f.x = 1) : field (packMExt f) 16 3 = f.sprd := by
  unfold packMExt
  rw [if_pos h]
  (repeat refine (field_append_hi _ _ _ _ (by decide)).trans ?_) <;>
    (first | exact field_self _ | (refine (field_append_lo _ _ _ _ (by decide)).trans ?_; exact field_self _))

theorem extmeth_packM (f : FmtM) (h : f.x = 1) : field (packMExt f) 12 4 = f.meth := by
  unfold packMExt
  rw [if_pos h]
  (repeat refine (field_append_hi _ _ _ _ (by decide)).trans ?_) <;>
    (first | exact field_self _ | (refine (field_append_lo _ _ _ _ (by decide)).trans ?_; exact field_self _))

theorem extopr_packM (f : FmtM) (h : f.x = 1) : field (packMExt f) 4 8 = f.opr := by
  unfold packMExt
  rw [if_pos h]
  (repeat refine (field_append_hi _ _ _ _ (by decide)).trans ?_) <;>
    (first | exact field_self _ | (refine (field_append_lo _ _ _ _ (by decide)).trans ?_; exact field_self _))

theorem extty_packM (f : FmtM) (h : f.x = 1) : field (packMExt f) 0 4 = f.ty := by
  unfold packMExt
  rw [if_pos h]
  (repeat refine (field_append_hi _ _ _ _ (by decide)).trans ?_) <;>
    (first | exact field_self _ | (refine (field_append_lo _ _ _ _ (by decide)).trans ?_; exact field_self _))

theorem extRsv_packM (f : FmtM) : f.x = 0 ∨ field (packMExt f) 32 32 = 0 ∧ field (packMExt f) 19 6 = 0 := by
  rcases bit_zero_or_one f.x with h | h
  · exact .inl h
  · right; unfold packMExt; rw [if_pos h]
    refine ⟨?_, ?_⟩ <;>
    (repeat refine (field_append_hi _ _ _ _ (by decide)).trans ?_) <;>
    (first | exact field_self _ | (refine (field_append_lo _ _ _ _ (by decide)).trans ?_; exact field_self _))

/-- The fields of the extension word are zero where there is none. -/
def FmtM.extOk (f : FmtM) : Prop := f.x = 0 → f.ew = 0 ∧ f.cph = 0 ∧ f.sprd = 0 ∧ f.meth = 0 ∧ f.opr = 0 ∧ f.ty = 0

theorem unpack_packM (o : BitVec 7) (u : BitVec 5) (f : FmtM) (h : f.extOk) : unpackM (packM o u f) (packMExt f) = f := by
  rcases bit_zero_or_one f.x with hx | hx
  · obtain ⟨h1, h2, h3, h4, h5, h6⟩ := h hx
    have hb : bitAt (packM o u f) 63 = false := by rw [bit_packM, hx]; rfl
    unfold unpackM
    rw [hb]
    cases f
    simp only at h1 h2 h3 h4 h5 h6 hx
    subst h1 h2 h3 h4 h5 h6 hx
    simp only [packM, FmtM.mk.injEq, Bool.false_eq_true, if_false, and_true]
    refine ⟨?_, ?_, ?_, ?_, ?_, ?_, ?_, ?_, ?_⟩ <;>
    (repeat refine (field_append_hi _ _ _ _ (by decide)).trans ?_) <;>
    (first | exact field_self _ | (refine (field_append_lo _ _ _ _ (by decide)).trans ?_; exact field_self _))
  · have hb : bitAt (packM o u f) 63 = true := by rw [bit_packM, hx]; rfl
    unfold unpackM
    rw [hb, if_pos rfl, if_pos rfl, if_pos rfl, if_pos rfl, if_pos rfl, if_pos rfl, extew_packM f hx, extcph_packM f hx,
      extsprd_packM f hx, extmeth_packM f hx, extopr_packM f hx, extty_packM f hx]
    cases f
    simp only [packM, FmtM.mk.injEq, and_true]
    refine ⟨?_, ?_, ?_, ?_, ?_, ?_, ?_, ?_, ?_⟩ <;>
    (repeat refine (field_append_hi _ _ _ _ (by decide)).trans ?_) <;>
    (first | exact field_self _ | (refine (field_append_lo _ _ _ _ (by decide)).trans ?_; exact field_self _))

theorem opc_packC (o : BitVec 7) (u : BitVec 4) (f : FmtC) : field (packC o u f) 56 7 = o := by
  unfold packC
  (repeat refine (field_append_hi _ _ _ _ (by decide)).trans ?_) <;>
    (first | exact field_self _ | (refine (field_append_lo _ _ _ _ (by decide)).trans ?_; exact field_self _))

theorem sub_packC (o : BitVec 7) (u : BitVec 4) (f : FmtC) : field (packC o u f) 0 4 = u := by
  unfold packC
  (repeat refine (field_append_hi _ _ _ _ (by decide)).trans ?_) <;>
    (first | exact field_self _ | (refine (field_append_lo _ _ _ _ (by decide)).trans ?_; exact field_self _))

theorem top_packC (o : BitVec 7) (u : BitVec 4) (f : FmtC) : field (packC o u f) 63 1 = 0#1 := by
  unfold packC
  (repeat refine (field_append_hi _ _ _ _ (by decide)).trans ?_) <;>
    (first | exact field_self _ | (refine (field_append_lo _ _ _ _ (by decide)).trans ?_; exact field_self _))

theorem unpack_packC (o : BitVec 7) (u : BitVec 4) (f : FmtC) : unpackC (packC o u f) = f := by
  cases f
  simp only [unpackC, packC, FmtC.mk.injEq]
  refine ⟨?_, ?_, ?_, ?_⟩ <;>
    (repeat refine (field_append_hi _ _ _ _ (by decide)).trans ?_) <;>
    (first | exact field_self _ | (refine (field_append_lo _ _ _ _ (by decide)).trans ?_; exact field_self _))

theorem opc_packY (o : BitVec 7) (u : BitVec 4) (f : FmtY) : field (packY o u f) 56 7 = o := by
  unfold packY
  (repeat refine (field_append_hi _ _ _ _ (by decide)).trans ?_) <;>
    (first | exact field_self _ | (refine (field_append_lo _ _ _ _ (by decide)).trans ?_; exact field_self _))

theorem sub_packY (o : BitVec 7) (u : BitVec 4) (f : FmtY) : field (packY o u f) 4 4 = u := by
  unfold packY
  (repeat refine (field_append_hi _ _ _ _ (by decide)).trans ?_) <;>
    (first | exact field_self _ | (refine (field_append_lo _ _ _ _ (by decide)).trans ?_; exact field_self _))

theorem top_packY (o : BitVec 7) (u : BitVec 4) (f : FmtY) : field (packY o u f) 63 1 = 0#1 := by
  unfold packY
  (repeat refine (field_append_hi _ _ _ _ (by decide)).trans ?_) <;>
    (first | exact field_self _ | (refine (field_append_lo _ _ _ _ (by decide)).trans ?_; exact field_self _))

theorem rsv_packY (o : BitVec 7) (u : BitVec 4) (f : FmtY) : field (packY o u f) 0 4 = 0#4 := by
  unfold packY
  (repeat refine (field_append_hi _ _ _ _ (by decide)).trans ?_) <;>
    (first | exact field_self _ | (refine (field_append_lo _ _ _ _ (by decide)).trans ?_; exact field_self _))

theorem unpack_packY (o : BitVec 7) (u : BitVec 4) (f : FmtY) : unpackY (packY o u f) = f := by
  cases f
  simp only [unpackY, packY, FmtY.mk.injEq]
  refine ⟨?_, ?_, ?_, ?_, ?_, ?_, ?_⟩ <;>
    (repeat refine (field_append_hi _ _ _ _ (by decide)).trans ?_) <;>
    (first | exact field_self _ | (refine (field_append_lo _ _ _ _ (by decide)).trans ?_; exact field_self _))

theorem opc_packMX (o : BitVec 7) (u : BitVec 4) (f : FmtMX) : field (packMX o u f) 56 7 = o := by
  unfold packMX
  (repeat refine (field_append_hi _ _ _ _ (by decide)).trans ?_) <;>
    (first | exact field_self _ | (refine (field_append_lo _ _ _ _ (by decide)).trans ?_; exact field_self _))

theorem sub_packMX (o : BitVec 7) (u : BitVec 4) (f : FmtMX) : field (packMX o u f) 0 4 = u := by
  unfold packMX
  (repeat refine (field_append_hi _ _ _ _ (by decide)).trans ?_) <;>
    (first | exact field_self _ | (refine (field_append_lo _ _ _ _ (by decide)).trans ?_; exact field_self _))

theorem top_packMX (o : BitVec 7) (u : BitVec 4) (f : FmtMX) : field (packMX o u f) 63 1 = 0#1 := by
  unfold packMX
  (repeat refine (field_append_hi _ _ _ _ (by decide)).trans ?_) <;>
    (first | exact field_self _ | (refine (field_append_lo _ _ _ _ (by decide)).trans ?_; exact field_self _))

theorem unpack_packMX (o : BitVec 7) (u : BitVec 4) (f : FmtMX) : unpackMX (packMX o u f) = f := by
  cases f
  simp only [unpackMX, packMX, FmtMX.mk.injEq]
  refine ⟨?_, ?_, ?_, ?_, ?_, ?_, ?_, ?_, ?_, ?_, ?_, ?_, ?_, ?_, ?_⟩ <;>
    (repeat refine (field_append_hi _ _ _ _ (by decide)).trans ?_) <;>
    (first | exact field_self _ | (refine (field_append_lo _ _ _ _ (by decide)).trans ?_; exact field_self _))

theorem opc_packS (o : BitVec 7) (u : BitVec 4) (f : FmtS) : field (packS o u f) 56 7 = o := by
  unfold packS
  (repeat refine (field_append_hi _ _ _ _ (by decide)).trans ?_) <;>
    (first | exact field_self _ | (refine (field_append_lo _ _ _ _ (by decide)).trans ?_; exact field_self _))

theorem sub_packS (o : BitVec 7) (u : BitVec 4) (f : FmtS) : field (packS o u f) 0 4 = u := by
  unfold packS
  (repeat refine (field_append_hi _ _ _ _ (by decide)).trans ?_) <;>
    (first | exact field_self _ | (refine (field_append_lo _ _ _ _ (by decide)).trans ?_; exact field_self _))

theorem top_packS (o : BitVec 7) (u : BitVec 4) (f : FmtS) : field (packS o u f) 63 1 = 0#1 := by
  unfold packS
  (repeat refine (field_append_hi _ _ _ _ (by decide)).trans ?_) <;>
    (first | exact field_self _ | (refine (field_append_lo _ _ _ _ (by decide)).trans ?_; exact field_self _))

theorem unpack_packS (o : BitVec 7) (u : BitVec 4) (f : FmtS) : unpackS (packS o u f) = f := by
  cases f
  simp only [unpackS, packS, FmtS.mk.injEq]
  refine ⟨?_, ?_, ?_, ?_, ?_⟩ <;>
    (repeat refine (field_append_hi _ _ _ _ (by decide)).trans ?_) <;>
    (first | exact field_self _ | (refine (field_append_lo _ _ _ _ (by decide)).trans ?_; exact field_self _))

/-! ## The opcode map on packed words -/

theorem raw_01 (u : BitVec 5) (f : FmtA) (e : DWord) :
    decodeRaw (packA 0x01#7 u f) e = decode01 (packA 0x01#7 u f) := by
  unfold decodeRaw
  rw [opc_packA, top_packA]
  rfl

theorem raw_02 (u : BitVec 5) (f : FmtB) :
    decodeRaw (packB 0x02#7 u f) (packBExt f) = decode02 (packB 0x02#7 u f) (packBExt f) := by
  unfold decodeRaw
  rw [opc_packB, rsv_packB, top_packB]
  exact if_pos ⟨rfl, extRsv_packB f⟩

theorem raw_03 (u : BitVec 5) (f : FmtA) (e : DWord) :
    decodeRaw (packA 0x03#7 u f) e = decode03 (packA 0x03#7 u f) := by
  unfold decodeRaw
  rw [opc_packA, top_packA]
  rfl

theorem raw_04 (u : BitVec 5) (f : FmtB) :
    decodeRaw (packB 0x04#7 u f) (packBExt f) = decode04 (packB 0x04#7 u f) (packBExt f) := by
  unfold decodeRaw
  rw [opc_packB, rsv_packB, top_packB]
  exact if_pos ⟨rfl, extRsv_packB f⟩

theorem raw_05 (u : BitVec 5) (f : FmtB) :
    decodeRaw (packB 0x05#7 u f) (packBExt f) = decode05 (packB 0x05#7 u f) (packBExt f) := by
  unfold decodeRaw
  rw [opc_packB, rsv_packB, top_packB]
  exact if_pos ⟨rfl, extRsv_packB f⟩

theorem raw_08 (u : BitVec 5) (f : FmtA) (e : DWord) :
    decodeRaw (packA 0x08#7 u f) e = decode08 (packA 0x08#7 u f) := by
  unfold decodeRaw
  rw [opc_packA, top_packA]
  rfl

theorem raw_09 (u : BitVec 5) (f : FmtB) :
    decodeRaw (packB 0x09#7 u f) (packBExt f) = decode09 (packB 0x09#7 u f) (packBExt f) := by
  unfold decodeRaw
  rw [opc_packB, rsv_packB, top_packB]
  exact if_pos ⟨rfl, extRsv_packB f⟩

theorem raw_0A (u : BitVec 5) (f : FmtA) (e : DWord) :
    decodeRaw (packA 0x0A#7 u f) e = decode0A (packA 0x0A#7 u f) := by
  unfold decodeRaw
  rw [opc_packA, top_packA]
  rfl

theorem raw_0B (u : BitVec 5) (f : FmtA) (e : DWord) :
    decodeRaw (packA 0x0B#7 u f) e = decode0B (packA 0x0B#7 u f) := by
  unfold decodeRaw
  rw [opc_packA, top_packA]
  rfl

theorem raw_0C (u : BitVec 5) (f : FmtA) (e : DWord) :
    decodeRaw (packA 0x0C#7 u f) e = decode0C (packA 0x0C#7 u f) := by
  unfold decodeRaw
  rw [opc_packA, top_packA]
  rfl

theorem raw_0D (u : BitVec 5) (f : FmtA) (e : DWord) :
    decodeRaw (packA 0x0D#7 u f) e = decode0D (packA 0x0D#7 u f) := by
  unfold decodeRaw
  rw [opc_packA, top_packA]
  rfl

theorem raw_10 (u : BitVec 5) (f : FmtA) (e : DWord) :
    decodeRaw (packA 0x10#7 u f) e = decode10 (packA 0x10#7 u f) := by
  unfold decodeRaw
  rw [opc_packA, top_packA]
  rfl

theorem raw_18 (u : BitVec 5) (f : FmtF) (e : DWord) :
    decodeRaw (packF 0x18#7 u f) e = decode18 (packF 0x18#7 u f) := by
  unfold decodeRaw
  rw [opc_packF, top_packF, rsv_packF]
  rfl

theorem raw_19 (u : BitVec 4) (f : FmtS) (e : DWord) :
    decodeRaw (packS 0x19#7 u f) e = decode19 (packS 0x19#7 u f) := by
  unfold decodeRaw
  rw [opc_packS, top_packS]
  rfl

theorem raw_20 (u : BitVec 5) (f : FmtM) :
    decodeRaw (packM 0x20#7 u f) (packMExt f) = decode20 (packM 0x20#7 u f) (packMExt f) := by
  unfold decodeRaw
  rw [opc_packM, top_packM]
  exact if_pos (extRsv_packM f)

theorem raw_21 (u : BitVec 5) (f : FmtM) :
    decodeRaw (packM 0x21#7 u f) (packMExt f) = decode21 (packM 0x21#7 u f) (packMExt f) := by
  unfold decodeRaw
  rw [opc_packM, top_packM]
  exact if_pos (extRsv_packM f)

theorem raw_22 (u : BitVec 5) (f : FmtM) :
    decodeRaw (packM 0x22#7 u f) (packMExt f) = decode22 (packM 0x22#7 u f) (packMExt f) := by
  unfold decodeRaw
  rw [opc_packM, top_packM]
  exact if_pos (extRsv_packM f)

theorem raw_23 (u : BitVec 5) (f : FmtM) :
    decodeRaw (packM 0x23#7 u f) (packMExt f) = decode23 (packM 0x23#7 u f) (packMExt f) := by
  unfold decodeRaw
  rw [opc_packM, top_packM]
  exact if_pos (extRsv_packM f)

theorem raw_28 (u : BitVec 5) (f : FmtM) :
    decodeRaw (packM 0x28#7 u f) (packMExt f) = decode28 (packM 0x28#7 u f) (packMExt f) := by
  unfold decodeRaw
  rw [opc_packM, top_packM]
  exact if_pos (extRsv_packM f)

theorem raw_29 (u : BitVec 5) (f : FmtM) :
    decodeRaw (packM 0x29#7 u f) (packMExt f) = decode29 (packM 0x29#7 u f) (packMExt f) := by
  unfold decodeRaw
  rw [opc_packM, top_packM]
  exact if_pos (extRsv_packM f)

theorem raw_2A (u : BitVec 4) (f : FmtS) (e : DWord) :
    decodeRaw (packS 0x2A#7 u f) e = decode2A (packS 0x2A#7 u f) := by
  unfold decodeRaw
  rw [opc_packS, top_packS]
  rfl

theorem raw_30 (u : BitVec 4) (f : FmtY) (e : DWord) :
    decodeRaw (packY 0x30#7 u f) e = decode30 (packY 0x30#7 u f) := by
  unfold decodeRaw
  rw [opc_packY, top_packY, rsv_packY]
  rfl

theorem raw_31 (u : BitVec 4) (f : FmtY) (e : DWord) :
    decodeRaw (packY 0x31#7 u f) e = decode31 (packY 0x31#7 u f) := by
  unfold decodeRaw
  rw [opc_packY, top_packY, rsv_packY]
  rfl

theorem raw_32 (u : BitVec 4) (f : FmtY) (e : DWord) :
    decodeRaw (packY 0x32#7 u f) e = decode32 (packY 0x32#7 u f) := by
  unfold decodeRaw
  rw [opc_packY, top_packY, rsv_packY]
  rfl

theorem raw_38 (u : BitVec 4) (f : FmtMX) (e : DWord) :
    decodeRaw (packMX 0x38#7 u f) e = decode38 (packMX 0x38#7 u f) := by
  unfold decodeRaw
  rw [opc_packMX, top_packMX]
  rfl

theorem raw_39 (u : BitVec 4) (f : FmtS) (e : DWord) :
    decodeRaw (packS 0x39#7 u f) e = decode39 (packS 0x39#7 u f) := by
  unfold decodeRaw
  rw [opc_packS, top_packS]
  rfl

theorem raw_3A (u : BitVec 5) (f : FmtA) (e : DWord) :
    decodeRaw (packA 0x3A#7 u f) e = decode3A (packA 0x3A#7 u f) := by
  unfold decodeRaw
  rw [opc_packA, top_packA]
  rfl

theorem raw_3B (u : BitVec 4) (f : FmtS) (e : DWord) :
    decodeRaw (packS 0x3B#7 u f) e = decode3B (packS 0x3B#7 u f) := by
  unfold decodeRaw
  rw [opc_packS, top_packS]
  rfl

theorem raw_40 (u : BitVec 4) (f : FmtC) (e : DWord) :
    decodeRaw (packC 0x40#7 u f) e = decode40 (packC 0x40#7 u f) := by
  unfold decodeRaw
  rw [opc_packC, top_packC]
  rfl

theorem raw_48 (u : BitVec 4) (f : FmtS) (e : DWord) :
    decodeRaw (packS 0x48#7 u f) e = decode48 (packS 0x48#7 u f) := by
  unfold decodeRaw
  rw [opc_packS, top_packS]
  rfl

theorem raw_50 (u : BitVec 4) (f : FmtS) (e : DWord) :
    decodeRaw (packS 0x50#7 u f) e = decode50 (packS 0x50#7 u f) := by
  unfold decodeRaw
  rw [opc_packS, top_packS]
  rfl

end Sys2Proof
end

