-- ==== Sys2Proof/Laws/Sparse.lean ====
section
/-!
SUPPORT. Sparse maps: what is read after a change, of any list of entries, and that every change keeps the canonical form.
-/

namespace Sys2Proof.Machine.Sparse

variable {α : Type}

/-! ## Reading -/

@[simp] theorem get_nil (d : α) (n : Nat) : get d ([] : Sparse α) n = d := rfl

/-- What is read is the common value or stands in the list. -/
theorem get_mem (d : α) (m : Sparse α) (k : Nat) : get d m k = d ∨ (k, get d m k) ∈ m := by
  induction m with
  | nil => exact .inl rfl
  | cons p r ih =>
    obtain ⟨n, v⟩ := p
    by_cases h : n = k
    · exact .inr (by simp [get, h])
    · simpa [get, h] using ih.imp_right .inr

theorem get_erase (d : α) (m : Sparse α) (n k : Nat) : get d (erase m n) k = if k = n then d else get d m k := by
  induction m with
  | nil => simp [erase]
  | cons p r ih =>
    obtain ⟨a, v⟩ := p
    by_cases h : a = n
    · subst h
      by_cases hk : k = a
      · subst hk; simp [erase, ih]
      · simp [erase, get, ih, hk, Ne.symm hk]
    · by_cases hk : a = k
      · subst hk; simp [erase, get, h]
      · simp [erase, get, h, hk, ih]

theorem get_insert (d : α) (m : Sparse α) (n k : Nat) (x : α) : get d (insert m n x) k = if k = n then x else get d m k := by
  induction m with
  | nil => by_cases h : k = n <;> simp [insert, get, eq_comm, h]
  | cons p r ih =>
    obtain ⟨a, v⟩ := p
    by_cases hk : k = n
    · subst hk
      rcases Nat.lt_trichotomy k a with h | h | h
      · simp [insert, get, h]
      · subst h; simp [insert, get]
      · have h1 : ¬ k < a := by omega
        have h2 : ¬ k = a := by omega
        have h3 : ¬ a = k := by omega
        simp [insert, get, h1, h2, h3, ih]
    · rcases Nat.lt_trichotomy n a with h | h | h
      · simp [insert, get, h, hk, Ne.symm hk]
      · subst h; simp [insert, get, hk, Ne.symm hk]
      · have h1 : ¬ n < a := by omega
        have h2 : ¬ n = a := by omega
        by_cases ha : a = k
        · subst ha; simp [insert, get, h1, h2, hk]
        · simp [insert, get, h1, h2, ih, hk, ha]

/-- A map reads as what was set last. -/
theorem get_set [DecidableEq α] (d : α) (m : Sparse α) (n k : Nat) (x : α) :
    get d (set d m n x) k = if k = n then x else get d m k := by
  unfold set
  split
  · next h => rw [get_erase, h]
  · exact get_insert d m n k x

@[simp] theorem get_set_self [DecidableEq α] (d : α) (m : Sparse α) (n : Nat) (x : α) : get d (set d m n x) n = x := by simp [get_set]

theorem get_set_ne [DecidableEq α] (d : α) (m : Sparse α) {n k : Nat} (x : α) (h : k ≠ n) : get d (set d m n x) k = get d m k := by
  simp [get_set, h]

theorem get_modify [DecidableEq α] (d : α) (m : Sparse α) (n k : Nat) (f : α → α) :
    get d (modify d m n f) k = if k = n then f (get d m n) else get d m k := get_set d m n k _

/-- A map whose every value is changed by a function that keeps the default. -/
theorem get_mapVals [DecidableEq α] (d : α) (m : Sparse α) (f : Nat → α → α) (k : Nat) (h : f k d = d) :
    get d (mapVals d m f) k = f k (get d m k) := by
  induction m with
  | nil => simp [mapVals, h]
  | cons p r ih =>
    obtain ⟨a, v⟩ := p
    have e : mapVals d ((a, v) :: r) f = set d (mapVals d r f) a (f a v) := rfl
    rw [e, get_set]
    by_cases hk : k = a
    · subst hk; simp [get]
    · simp [hk, get, Ne.symm hk, ih]

/-! ## The canonical form -/

theorem wfFrom_mono [DecidableEq α] {d : α} {m : Sparse α} {lo lo' : Nat} (h : wfFrom d lo m = true) (hl : lo' ≤ lo) :
    wfFrom d lo' m = true := by
  cases m with
  | nil => rfl
  | cons p r =>
    simp only [wfFrom, Bool.and_eq_true, decide_eq_true_eq] at h ⊢
    exact ⟨⟨by omega, h.1.2⟩, h.2⟩

theorem wfFrom_erase [DecidableEq α] {d : α} {m : Sparse α} {lo : Nat} (n : Nat) (h : wfFrom d lo m = true) :
    wfFrom d lo (erase m n) = true := by
  induction m generalizing lo with
  | nil => rfl
  | cons p r ih =>
    obtain ⟨a, v⟩ := p
    simp only [wfFrom, Bool.and_eq_true, decide_eq_true_eq] at h
    by_cases ha : a = n
    · subst ha
      simp only [erase, if_true]
      exact wfFrom_mono (ih h.2) (by omega)
    · simp only [erase, if_neg ha, wfFrom, Bool.and_eq_true, decide_eq_true_eq]
      exact ⟨h.1, ih h.2⟩

theorem wfFrom_insert [DecidableEq α] {d : α} {m : Sparse α} {lo n : Nat} {x : α} (hx : x ≠ d) (hn : lo ≤ n)
    (h : wfFrom d lo m = true) : wfFrom d lo (insert m n x) = true := by
  induction m generalizing lo with
  | nil => simp [insert, wfFrom, hx, hn]
  | cons p r ih =>
    obtain ⟨a, v⟩ := p
    simp only [wfFrom, Bool.and_eq_true, decide_eq_true_eq] at h
    rcases Nat.lt_trichotomy n a with hna | hna | hna
    · simp only [insert, hna, if_true, wfFrom, Bool.and_eq_true, decide_eq_true_eq]
      exact ⟨⟨hn, hx⟩, ⟨by omega, h.1.2⟩, h.2⟩
    · subst hna
      simp only [insert, Nat.lt_irrefl, if_false, if_true, wfFrom, Bool.and_eq_true, decide_eq_true_eq]
      exact ⟨⟨hn, hx⟩, h.2⟩
    · simp only [insert, if_neg (show ¬ n < a by omega), if_neg (show ¬ n = a by omega), wfFrom, Bool.and_eq_true, decide_eq_true_eq]
      exact ⟨h.1, ih (by omega) h.2⟩

/-- A write keeps the canonical form. -/
theorem wf_set [DecidableEq α] {d : α} {m : Sparse α} (n : Nat) (x : α) (h : wf d m = true) : wf d (set d m n x) = true := by
  unfold set
  split
  · exact wfFrom_erase n h
  · next hx => exact wfFrom_insert hx (Nat.zero_le n) h

theorem wf_modify [DecidableEq α] {d : α} {m : Sparse α} (n : Nat) (f : α → α) (h : wf d m = true) : wf d (modify d m n f) = true :=
  wf_set n _ h

theorem wf_mapVals [DecidableEq α] (d : α) (m : Sparse α) (f : Nat → α → α) : wf d (mapVals d m f) = true := by
  induction m with
  | nil => rfl
  | cons p r ih => exact wf_set p.1 (f p.1 p.2) ih

theorem wfFrom_filter [DecidableEq α] {d : α} {m : Sparse α} {lo : Nat} (p : Nat × α → Bool) (h : wfFrom d lo m = true) :
    wfFrom d lo (m.filter p) = true := by
  induction m generalizing lo with
  | nil => rfl
  | cons q r ih =>
    obtain ⟨a, v⟩ := q
    simp only [wfFrom, Bool.and_eq_true, decide_eq_true_eq] at h
    cases hp : p (a, v)
    · simp only [List.filter, hp]
      exact wfFrom_mono (ih h.2) (by omega)
    · simp only [List.filter, hp, wfFrom, Bool.and_eq_true, decide_eq_true_eq]
      exact ⟨h.1, ih h.2⟩

/-- Entries left out keep the canonical form. -/
theorem wf_filter [DecidableEq α] {d : α} {m : Sparse α} (p : Nat × α → Bool) (h : wf d m = true) : wf d (m.filter p) = true :=
  wfFrom_filter p h

/-- A fold of writes keeps the canonical form. -/
theorem wf_foldl [DecidableEq α] {β : Type} {d : α} (l : List β) (f : Sparse α → β → Sparse α)
    (hf : ∀ m b, wf d m = true → wf d (f m b) = true) {m : Sparse α} (h : wf d m = true) : wf d (l.foldl f m) = true := by
  induction l generalizing m with
  | nil => exact h
  | cons b r ih => exact ih (hf m b h)

end Sys2Proof.Machine.Sparse
end

