-- ==== Sys2Proof/Laws/State.lean ====
section
/-!
SUPPORT. What every named update of the state leaves, one lemma for a field, and what is read of the part that it changes.
-/

namespace Sys2Proof.Machine

/-! ## Fields of the device that an update leaves -/

@[simp] theorem State.setCore_agenda (s : State) (c : Nat) (k : Core) : (s.setCore c k).agenda = s.agenda := rfl
@[simp] theorem State.setCore_cur (s : State) (c : Nat) (k : Core) : (s.setCore c k).cur = s.cur := rfl
@[simp] theorem State.setCore_focus (s : State) (c : Nat) (k : Core) : (s.setCore c k).focus = s.focus := rfl
@[simp] theorem State.setCore_freeCtr (s : State) (c : Nat) (k : Core) : (s.setCore c k).freeCtr = s.freeCtr := rfl
@[simp] theorem State.setCore_nextId (s : State) (c : Nat) (k : Core) : (s.setCore c k).nextId = s.nextId := rfl
@[simp] theorem State.setCore_mem (s : State) (c : Nat) (k : Core) : (s.setCore c k).mem = s.mem := rfl
@[simp] theorem State.setCore_fab (s : State) (c : Nat) (k : Core) : (s.setCore c k).fab = s.fab := rfl
@[simp] theorem State.setCore_regions (s : State) (c : Nat) (k : Core) : (s.setCore c k).regions = s.regions := rfl
@[simp] theorem State.setCore_ctxs (s : State) (c : Nat) (k : Core) : (s.setCore c k).ctxs = s.ctxs := rfl
@[simp] theorem State.setCore_launches (s : State) (c : Nat) (k : Core) : (s.setCore c k).launches = s.launches := rfl
@[simp] theorem State.setCore_io (s : State) (c : Nat) (k : Core) : (s.setCore c k).io = s.io := rfl
@[simp] theorem State.setCore_sched (s : State) (c : Nat) (k : Core) : (s.setCore c k).sched = s.sched := rfl
@[simp] theorem State.setCore_mon (s : State) (c : Nat) (k : Core) : (s.setCore c k).mon = s.mon := rfl

@[simp] theorem State.modCore_agenda (s : State) (c : Nat) (f : Core → Core) : (s.modCore c f).agenda = s.agenda := rfl
@[simp] theorem State.modCore_cur (s : State) (c : Nat) (f : Core → Core) : (s.modCore c f).cur = s.cur := rfl
@[simp] theorem State.modCore_focus (s : State) (c : Nat) (f : Core → Core) : (s.modCore c f).focus = s.focus := rfl
@[simp] theorem State.modCore_freeCtr (s : State) (c : Nat) (f : Core → Core) : (s.modCore c f).freeCtr = s.freeCtr := rfl
@[simp] theorem State.modCore_nextId (s : State) (c : Nat) (f : Core → Core) : (s.modCore c f).nextId = s.nextId := rfl
@[simp] theorem State.modCore_mem (s : State) (c : Nat) (f : Core → Core) : (s.modCore c f).mem = s.mem := rfl
@[simp] theorem State.modCore_fab (s : State) (c : Nat) (f : Core → Core) : (s.modCore c f).fab = s.fab := rfl
@[simp] theorem State.modCore_regions (s : State) (c : Nat) (f : Core → Core) : (s.modCore c f).regions = s.regions := rfl
@[simp] theorem State.modCore_ctxs (s : State) (c : Nat) (f : Core → Core) : (s.modCore c f).ctxs = s.ctxs := rfl
@[simp] theorem State.modCore_launches (s : State) (c : Nat) (f : Core → Core) : (s.modCore c f).launches = s.launches := rfl
@[simp] theorem State.modCore_io (s : State) (c : Nat) (f : Core → Core) : (s.modCore c f).io = s.io := rfl
@[simp] theorem State.modCore_sched (s : State) (c : Nat) (f : Core → Core) : (s.modCore c f).sched = s.sched := rfl
@[simp] theorem State.modCore_mon (s : State) (c : Nat) (f : Core → Core) : (s.modCore c f).mon = s.mon := rfl

@[simp] theorem State.modWarp_agenda (s : State) (c w : Nat) (f : Warp → Warp) : (s.modWarp c w f).agenda = s.agenda := rfl
@[simp] theorem State.modWarp_cur (s : State) (c w : Nat) (f : Warp → Warp) : (s.modWarp c w f).cur = s.cur := rfl
@[simp] theorem State.modWarp_focus (s : State) (c w : Nat) (f : Warp → Warp) : (s.modWarp c w f).focus = s.focus := rfl
@[simp] theorem State.modWarp_freeCtr (s : State) (c w : Nat) (f : Warp → Warp) : (s.modWarp c w f).freeCtr = s.freeCtr := rfl
@[simp] theorem State.modWarp_nextId (s : State) (c w : Nat) (f : Warp → Warp) : (s.modWarp c w f).nextId = s.nextId := rfl
@[simp] theorem State.modWarp_mem (s : State) (c w : Nat) (f : Warp → Warp) : (s.modWarp c w f).mem = s.mem := rfl
@[simp] theorem State.modWarp_fab (s : State) (c w : Nat) (f : Warp → Warp) : (s.modWarp c w f).fab = s.fab := rfl
@[simp] theorem State.modWarp_regions (s : State) (c w : Nat) (f : Warp → Warp) : (s.modWarp c w f).regions = s.regions := rfl
@[simp] theorem State.modWarp_ctxs (s : State) (c w : Nat) (f : Warp → Warp) : (s.modWarp c w f).ctxs = s.ctxs := rfl
@[simp] theorem State.modWarp_launches (s : State) (c w : Nat) (f : Warp → Warp) : (s.modWarp c w f).launches = s.launches := rfl
@[simp] theorem State.modWarp_io (s : State) (c w : Nat) (f : Warp → Warp) : (s.modWarp c w f).io = s.io := rfl
@[simp] theorem State.modWarp_sched (s : State) (c w : Nat) (f : Warp → Warp) : (s.modWarp c w f).sched = s.sched := rfl
@[simp] theorem State.modWarp_mon (s : State) (c w : Nat) (f : Warp → Warp) : (s.modWarp c w f).mon = s.mon := rfl

@[simp] theorem State.modBlock_agenda (s : State) (c b : Nat) (f : Block → Block) : (s.modBlock c b f).agenda = s.agenda := rfl
@[simp] theorem State.modBlock_cur (s : State) (c b : Nat) (f : Block → Block) : (s.modBlock c b f).cur = s.cur := rfl
@[simp] theorem State.modBlock_focus (s : State) (c b : Nat) (f : Block → Block) : (s.modBlock c b f).focus = s.focus := rfl
@[simp] theorem State.modBlock_freeCtr (s : State) (c b : Nat) (f : Block → Block) : (s.modBlock c b f).freeCtr = s.freeCtr := rfl
@[simp] theorem State.modBlock_nextId (s : State) (c b : Nat) (f : Block → Block) : (s.modBlock c b f).nextId = s.nextId := rfl
@[simp] theorem State.modBlock_mem (s : State) (c b : Nat) (f : Block → Block) : (s.modBlock c b f).mem = s.mem := rfl
@[simp] theorem State.modBlock_fab (s : State) (c b : Nat) (f : Block → Block) : (s.modBlock c b f).fab = s.fab := rfl
@[simp] theorem State.modBlock_regions (s : State) (c b : Nat) (f : Block → Block) : (s.modBlock c b f).regions = s.regions := rfl
@[simp] theorem State.modBlock_ctxs (s : State) (c b : Nat) (f : Block → Block) : (s.modBlock c b f).ctxs = s.ctxs := rfl
@[simp] theorem State.modBlock_launches (s : State) (c b : Nat) (f : Block → Block) : (s.modBlock c b f).launches = s.launches := rfl
@[simp] theorem State.modBlock_io (s : State) (c b : Nat) (f : Block → Block) : (s.modBlock c b f).io = s.io := rfl
@[simp] theorem State.modBlock_sched (s : State) (c b : Nat) (f : Block → Block) : (s.modBlock c b f).sched = s.sched := rfl
@[simp] theorem State.modBlock_mon (s : State) (c b : Nat) (f : Block → Block) : (s.modBlock c b f).mon = s.mon := rfl

@[simp] theorem State.setSeq_agenda (s : State) (c b : Nat) (cp : Bool) (q : Seq) : (s.setSeq c b cp q).agenda = s.agenda := rfl
@[simp] theorem State.setSeq_cur (s : State) (c b : Nat) (cp : Bool) (q : Seq) : (s.setSeq c b cp q).cur = s.cur := rfl
@[simp] theorem State.setSeq_focus (s : State) (c b : Nat) (cp : Bool) (q : Seq) : (s.setSeq c b cp q).focus = s.focus := rfl
@[simp] theorem State.setSeq_freeCtr (s : State) (c b : Nat) (cp : Bool) (q : Seq) : (s.setSeq c b cp q).freeCtr = s.freeCtr := rfl
@[simp] theorem State.setSeq_nextId (s : State) (c b : Nat) (cp : Bool) (q : Seq) : (s.setSeq c b cp q).nextId = s.nextId := rfl
@[simp] theorem State.setSeq_mem (s : State) (c b : Nat) (cp : Bool) (q : Seq) : (s.setSeq c b cp q).mem = s.mem := rfl
@[simp] theorem State.setSeq_fab (s : State) (c b : Nat) (cp : Bool) (q : Seq) : (s.setSeq c b cp q).fab = s.fab := rfl
@[simp] theorem State.setSeq_regions (s : State) (c b : Nat) (cp : Bool) (q : Seq) : (s.setSeq c b cp q).regions = s.regions := rfl
@[simp] theorem State.setSeq_ctxs (s : State) (c b : Nat) (cp : Bool) (q : Seq) : (s.setSeq c b cp q).ctxs = s.ctxs := rfl
@[simp] theorem State.setSeq_launches (s : State) (c b : Nat) (cp : Bool) (q : Seq) : (s.setSeq c b cp q).launches = s.launches := rfl
@[simp] theorem State.setSeq_io (s : State) (c b : Nat) (cp : Bool) (q : Seq) : (s.setSeq c b cp q).io = s.io := rfl
@[simp] theorem State.setSeq_sched (s : State) (c b : Nat) (cp : Bool) (q : Seq) : (s.setSeq c b cp q).sched = s.sched := rfl
@[simp] theorem State.setSeq_mon (s : State) (c b : Nat) (cp : Bool) (q : Seq) : (s.setSeq c b cp q).mon = s.mon := rfl

@[simp] theorem State.setRF_agenda (s : State) (c w : Nat) (r : RF) : (s.setRF c w r).agenda = s.agenda := rfl
@[simp] theorem State.setRF_cur (s : State) (c w : Nat) (r : RF) : (s.setRF c w r).cur = s.cur := rfl
@[simp] theorem State.setRF_focus (s : State) (c w : Nat) (r : RF) : (s.setRF c w r).focus = s.focus := rfl
@[simp] theorem State.setRF_freeCtr (s : State) (c w : Nat) (r : RF) : (s.setRF c w r).freeCtr = s.freeCtr := rfl
@[simp] theorem State.setRF_nextId (s : State) (c w : Nat) (r : RF) : (s.setRF c w r).nextId = s.nextId := rfl
@[simp] theorem State.setRF_mem (s : State) (c w : Nat) (r : RF) : (s.setRF c w r).mem = s.mem := rfl
@[simp] theorem State.setRF_fab (s : State) (c w : Nat) (r : RF) : (s.setRF c w r).fab = s.fab := rfl
@[simp] theorem State.setRF_regions (s : State) (c w : Nat) (r : RF) : (s.setRF c w r).regions = s.regions := rfl
@[simp] theorem State.setRF_ctxs (s : State) (c w : Nat) (r : RF) : (s.setRF c w r).ctxs = s.ctxs := rfl
@[simp] theorem State.setRF_launches (s : State) (c w : Nat) (r : RF) : (s.setRF c w r).launches = s.launches := rfl
@[simp] theorem State.setRF_io (s : State) (c w : Nat) (r : RF) : (s.setRF c w r).io = s.io := rfl
@[simp] theorem State.setRF_sched (s : State) (c w : Nat) (r : RF) : (s.setRF c w r).sched = s.sched := rfl
@[simp] theorem State.setRF_mon (s : State) (c w : Nat) (r : RF) : (s.setRF c w r).mon = s.mon := rfl

@[simp] theorem State.modCtx_agenda (s : State) (n : Nat) (f : Ctx → Ctx) : (s.modCtx n f).agenda = s.agenda := rfl
@[simp] theorem State.modCtx_cur (s : State) (n : Nat) (f : Ctx → Ctx) : (s.modCtx n f).cur = s.cur := rfl
@[simp] theorem State.modCtx_focus (s : State) (n : Nat) (f : Ctx → Ctx) : (s.modCtx n f).focus = s.focus := rfl
@[simp] theorem State.modCtx_freeCtr (s : State) (n : Nat) (f : Ctx → Ctx) : (s.modCtx n f).freeCtr = s.freeCtr := rfl
@[simp] theorem State.modCtx_nextId (s : State) (n : Nat) (f : Ctx → Ctx) : (s.modCtx n f).nextId = s.nextId := rfl
@[simp] theorem State.modCtx_mem (s : State) (n : Nat) (f : Ctx → Ctx) : (s.modCtx n f).mem = s.mem := rfl
@[simp] theorem State.modCtx_fab (s : State) (n : Nat) (f : Ctx → Ctx) : (s.modCtx n f).fab = s.fab := rfl
@[simp] theorem State.modCtx_cores (s : State) (n : Nat) (f : Ctx → Ctx) : (s.modCtx n f).cores = s.cores := rfl
@[simp] theorem State.modCtx_regions (s : State) (n : Nat) (f : Ctx → Ctx) : (s.modCtx n f).regions = s.regions := rfl
@[simp] theorem State.modCtx_launches (s : State) (n : Nat) (f : Ctx → Ctx) : (s.modCtx n f).launches = s.launches := rfl
@[simp] theorem State.modCtx_io (s : State) (n : Nat) (f : Ctx → Ctx) : (s.modCtx n f).io = s.io := rfl
@[simp] theorem State.modCtx_sched (s : State) (n : Nat) (f : Ctx → Ctx) : (s.modCtx n f).sched = s.sched := rfl
@[simp] theorem State.modCtx_mon (s : State) (n : Nat) (f : Ctx → Ctx) : (s.modCtx n f).mon = s.mon := rfl

@[simp] theorem State.modRegion_agenda (s : State) (n : Nat) (f : Region → Region) : (s.modRegion n f).agenda = s.agenda := rfl
@[simp] theorem State.modRegion_cur (s : State) (n : Nat) (f : Region → Region) : (s.modRegion n f).cur = s.cur := rfl
@[simp] theorem State.modRegion_focus (s : State) (n : Nat) (f : Region → Region) : (s.modRegion n f).focus = s.focus := rfl
@[simp] theorem State.modRegion_freeCtr (s : State) (n : Nat) (f : Region → Region) : (s.modRegion n f).freeCtr = s.freeCtr := rfl
@[simp] theorem State.modRegion_nextId (s : State) (n : Nat) (f : Region → Region) : (s.modRegion n f).nextId = s.nextId := rfl
@[simp] theorem State.modRegion_mem (s : State) (n : Nat) (f : Region → Region) : (s.modRegion n f).mem = s.mem := rfl
@[simp] theorem State.modRegion_fab (s : State) (n : Nat) (f : Region → Region) : (s.modRegion n f).fab = s.fab := rfl
@[simp] theorem State.modRegion_cores (s : State) (n : Nat) (f : Region → Region) : (s.modRegion n f).cores = s.cores := rfl
@[simp] theorem State.modRegion_ctxs (s : State) (n : Nat) (f : Region → Region) : (s.modRegion n f).ctxs = s.ctxs := rfl
@[simp] theorem State.modRegion_launches (s : State) (n : Nat) (f : Region → Region) : (s.modRegion n f).launches = s.launches := rfl
@[simp] theorem State.modRegion_io (s : State) (n : Nat) (f : Region → Region) : (s.modRegion n f).io = s.io := rfl
@[simp] theorem State.modRegion_sched (s : State) (n : Nat) (f : Region → Region) : (s.modRegion n f).sched = s.sched := rfl
@[simp] theorem State.modRegion_mon (s : State) (n : Nat) (f : Region → Region) : (s.modRegion n f).mon = s.mon := rfl

@[simp] theorem State.modLaunch_agenda (s : State) (n : Nat) (f : Launch → Launch) : (s.modLaunch n f).agenda = s.agenda := rfl
@[simp] theorem State.modLaunch_cur (s : State) (n : Nat) (f : Launch → Launch) : (s.modLaunch n f).cur = s.cur := rfl
@[simp] theorem State.modLaunch_focus (s : State) (n : Nat) (f : Launch → Launch) : (s.modLaunch n f).focus = s.focus := rfl
@[simp] theorem State.modLaunch_freeCtr (s : State) (n : Nat) (f : Launch → Launch) : (s.modLaunch n f).freeCtr = s.freeCtr := rfl
@[simp] theorem State.modLaunch_nextId (s : State) (n : Nat) (f : Launch → Launch) : (s.modLaunch n f).nextId = s.nextId := rfl
@[simp] theorem State.modLaunch_mem (s : State) (n : Nat) (f : Launch → Launch) : (s.modLaunch n f).mem = s.mem := rfl
@[simp] theorem State.modLaunch_fab (s : State) (n : Nat) (f : Launch → Launch) : (s.modLaunch n f).fab = s.fab := rfl
@[simp] theorem State.modLaunch_cores (s : State) (n : Nat) (f : Launch → Launch) : (s.modLaunch n f).cores = s.cores := rfl
@[simp] theorem State.modLaunch_regions (s : State) (n : Nat) (f : Launch → Launch) : (s.modLaunch n f).regions = s.regions := rfl
@[simp] theorem State.modLaunch_ctxs (s : State) (n : Nat) (f : Launch → Launch) : (s.modLaunch n f).ctxs = s.ctxs := rfl
@[simp] theorem State.modLaunch_io (s : State) (n : Nat) (f : Launch → Launch) : (s.modLaunch n f).io = s.io := rfl
@[simp] theorem State.modLaunch_sched (s : State) (n : Nat) (f : Launch → Launch) : (s.modLaunch n f).sched = s.sched := rfl
@[simp] theorem State.modLaunch_mon (s : State) (n : Nat) (f : Launch → Launch) : (s.modLaunch n f).mon = s.mon := rfl

@[simp] theorem State.modSched_agenda (s : State) (n : Nat) (f : Sched → Sched) : (s.modSched n f).agenda = s.agenda := rfl
@[simp] theorem State.modSched_cur (s : State) (n : Nat) (f : Sched → Sched) : (s.modSched n f).cur = s.cur := rfl
@[simp] theorem State.modSched_focus (s : State) (n : Nat) (f : Sched → Sched) : (s.modSched n f).focus = s.focus := rfl
@[simp] theorem State.modSched_freeCtr (s : State) (n : Nat) (f : Sched → Sched) : (s.modSched n f).freeCtr = s.freeCtr := rfl
@[simp] theorem State.modSched_nextId (s : State) (n : Nat) (f : Sched → Sched) : (s.modSched n f).nextId = s.nextId := rfl
@[simp] theorem State.modSched_mem (s : State) (n : Nat) (f : Sched → Sched) : (s.modSched n f).mem = s.mem := rfl
@[simp] theorem State.modSched_fab (s : State) (n : Nat) (f : Sched → Sched) : (s.modSched n f).fab = s.fab := rfl
@[simp] theorem State.modSched_cores (s : State) (n : Nat) (f : Sched → Sched) : (s.modSched n f).cores = s.cores := rfl
@[simp] theorem State.modSched_regions (s : State) (n : Nat) (f : Sched → Sched) : (s.modSched n f).regions = s.regions := rfl
@[simp] theorem State.modSched_ctxs (s : State) (n : Nat) (f : Sched → Sched) : (s.modSched n f).ctxs = s.ctxs := rfl
@[simp] theorem State.modSched_launches (s : State) (n : Nat) (f : Sched → Sched) : (s.modSched n f).launches = s.launches := rfl
@[simp] theorem State.modSched_io (s : State) (n : Nat) (f : Sched → Sched) : (s.modSched n f).io = s.io := rfl
@[simp] theorem State.modSched_mon (s : State) (n : Nat) (f : Sched → Sched) : (s.modSched n f).mon = s.mon := rfl

@[simp] theorem State.bump_agenda (s : State)  : (s.bump).agenda = s.agenda := rfl
@[simp] theorem State.bump_cur (s : State)  : (s.bump).cur = s.cur := rfl
@[simp] theorem State.bump_focus (s : State)  : (s.bump).focus = s.focus := rfl
@[simp] theorem State.bump_nextId (s : State)  : (s.bump).nextId = s.nextId := rfl
@[simp] theorem State.bump_mem (s : State)  : (s.bump).mem = s.mem := rfl
@[simp] theorem State.bump_fab (s : State)  : (s.bump).fab = s.fab := rfl
@[simp] theorem State.bump_cores (s : State)  : (s.bump).cores = s.cores := rfl
@[simp] theorem State.bump_regions (s : State)  : (s.bump).regions = s.regions := rfl
@[simp] theorem State.bump_ctxs (s : State)  : (s.bump).ctxs = s.ctxs := rfl
@[simp] theorem State.bump_launches (s : State)  : (s.bump).launches = s.launches := rfl
@[simp] theorem State.bump_io (s : State)  : (s.bump).io = s.io := rfl
@[simp] theorem State.bump_sched (s : State)  : (s.bump).sched = s.sched := rfl
@[simp] theorem State.bump_mon (s : State)  : (s.bump).mon = s.mon := rfl

@[simp] theorem State.modLink_agenda (s : State) (n : Nat) (f : Link → Link) : (s.modLink n f).agenda = s.agenda := rfl
@[simp] theorem State.modLink_cur (s : State) (n : Nat) (f : Link → Link) : (s.modLink n f).cur = s.cur := rfl
@[simp] theorem State.modLink_focus (s : State) (n : Nat) (f : Link → Link) : (s.modLink n f).focus = s.focus := rfl
@[simp] theorem State.modLink_freeCtr (s : State) (n : Nat) (f : Link → Link) : (s.modLink n f).freeCtr = s.freeCtr := rfl
@[simp] theorem State.modLink_nextId (s : State) (n : Nat) (f : Link → Link) : (s.modLink n f).nextId = s.nextId := rfl
@[simp] theorem State.modLink_mem (s : State) (n : Nat) (f : Link → Link) : (s.modLink n f).mem = s.mem := rfl
@[simp] theorem State.modLink_fab (s : State) (n : Nat) (f : Link → Link) : (s.modLink n f).fab = s.fab := rfl
@[simp] theorem State.modLink_cores (s : State) (n : Nat) (f : Link → Link) : (s.modLink n f).cores = s.cores := rfl
@[simp] theorem State.modLink_regions (s : State) (n : Nat) (f : Link → Link) : (s.modLink n f).regions = s.regions := rfl
@[simp] theorem State.modLink_ctxs (s : State) (n : Nat) (f : Link → Link) : (s.modLink n f).ctxs = s.ctxs := rfl
@[simp] theorem State.modLink_launches (s : State) (n : Nat) (f : Link → Link) : (s.modLink n f).launches = s.launches := rfl
@[simp] theorem State.modLink_sched (s : State) (n : Nat) (f : Link → Link) : (s.modLink n f).sched = s.sched := rfl
@[simp] theorem State.modLink_mon (s : State) (n : Nat) (f : Link → Link) : (s.modLink n f).mon = s.mon := rfl

@[simp] theorem State.modIo_agenda (s : State) (f : IO → IO) : (s.modIo f).agenda = s.agenda := rfl
@[simp] theorem State.modIo_cur (s : State) (f : IO → IO) : (s.modIo f).cur = s.cur := rfl
@[simp] theorem State.modIo_focus (s : State) (f : IO → IO) : (s.modIo f).focus = s.focus := rfl
@[simp] theorem State.modIo_freeCtr (s : State) (f : IO → IO) : (s.modIo f).freeCtr = s.freeCtr := rfl
@[simp] theorem State.modIo_nextId (s : State) (f : IO → IO) : (s.modIo f).nextId = s.nextId := rfl
@[simp] theorem State.modIo_mem (s : State) (f : IO → IO) : (s.modIo f).mem = s.mem := rfl
@[simp] theorem State.modIo_fab (s : State) (f : IO → IO) : (s.modIo f).fab = s.fab := rfl
@[simp] theorem State.modIo_cores (s : State) (f : IO → IO) : (s.modIo f).cores = s.cores := rfl
@[simp] theorem State.modIo_regions (s : State) (f : IO → IO) : (s.modIo f).regions = s.regions := rfl
@[simp] theorem State.modIo_ctxs (s : State) (f : IO → IO) : (s.modIo f).ctxs = s.ctxs := rfl
@[simp] theorem State.modIo_launches (s : State) (f : IO → IO) : (s.modIo f).launches = s.launches := rfl
@[simp] theorem State.modIo_sched (s : State) (f : IO → IO) : (s.modIo f).sched = s.sched := rfl
@[simp] theorem State.modIo_mon (s : State) (f : IO → IO) : (s.modIo f).mon = s.mon := rfl

@[simp] theorem State.modReq_agenda (s : State) (n : Nat) (f : Req → Req) : (s.modReq n f).agenda = s.agenda := rfl
@[simp] theorem State.modReq_cur (s : State) (n : Nat) (f : Req → Req) : (s.modReq n f).cur = s.cur := rfl
@[simp] theorem State.modReq_focus (s : State) (n : Nat) (f : Req → Req) : (s.modReq n f).focus = s.focus := rfl
@[simp] theorem State.modReq_freeCtr (s : State) (n : Nat) (f : Req → Req) : (s.modReq n f).freeCtr = s.freeCtr := rfl
@[simp] theorem State.modReq_nextId (s : State) (n : Nat) (f : Req → Req) : (s.modReq n f).nextId = s.nextId := rfl
@[simp] theorem State.modReq_mem (s : State) (n : Nat) (f : Req → Req) : (s.modReq n f).mem = s.mem := rfl
@[simp] theorem State.modReq_cores (s : State) (n : Nat) (f : Req → Req) : (s.modReq n f).cores = s.cores := rfl
@[simp] theorem State.modReq_regions (s : State) (n : Nat) (f : Req → Req) : (s.modReq n f).regions = s.regions := rfl
@[simp] theorem State.modReq_ctxs (s : State) (n : Nat) (f : Req → Req) : (s.modReq n f).ctxs = s.ctxs := rfl
@[simp] theorem State.modReq_launches (s : State) (n : Nat) (f : Req → Req) : (s.modReq n f).launches = s.launches := rfl
@[simp] theorem State.modReq_io (s : State) (n : Nat) (f : Req → Req) : (s.modReq n f).io = s.io := rfl
@[simp] theorem State.modReq_sched (s : State) (n : Nat) (f : Req → Req) : (s.modReq n f).sched = s.sched := rfl
@[simp] theorem State.modReq_mon (s : State) (n : Nat) (f : Req → Req) : (s.modReq n f).mon = s.mon := rfl

@[simp] theorem State.modObj_agenda (s : State) (n : Nat) (f : CObj → CObj) : (s.modObj n f).agenda = s.agenda := rfl
@[simp] theorem State.modObj_cur (s : State) (n : Nat) (f : CObj → CObj) : (s.modObj n f).cur = s.cur := rfl
@[simp] theorem State.modObj_focus (s : State) (n : Nat) (f : CObj → CObj) : (s.modObj n f).focus = s.focus := rfl
@[simp] theorem State.modObj_freeCtr (s : State) (n : Nat) (f : CObj → CObj) : (s.modObj n f).freeCtr = s.freeCtr := rfl
@[simp] theorem State.modObj_nextId (s : State) (n : Nat) (f : CObj → CObj) : (s.modObj n f).nextId = s.nextId := rfl
@[simp] theorem State.modObj_mem (s : State) (n : Nat) (f : CObj → CObj) : (s.modObj n f).mem = s.mem := rfl
@[simp] theorem State.modObj_cores (s : State) (n : Nat) (f : CObj → CObj) : (s.modObj n f).cores = s.cores := rfl
@[simp] theorem State.modObj_regions (s : State) (n : Nat) (f : CObj → CObj) : (s.modObj n f).regions = s.regions := rfl
@[simp] theorem State.modObj_ctxs (s : State) (n : Nat) (f : CObj → CObj) : (s.modObj n f).ctxs = s.ctxs := rfl
@[simp] theorem State.modObj_launches (s : State) (n : Nat) (f : CObj → CObj) : (s.modObj n f).launches = s.launches := rfl
@[simp] theorem State.modObj_io (s : State) (n : Nat) (f : CObj → CObj) : (s.modObj n f).io = s.io := rfl
@[simp] theorem State.modObj_sched (s : State) (n : Nat) (f : CObj → CObj) : (s.modObj n f).sched = s.sched := rfl
@[simp] theorem State.modObj_mon (s : State) (n : Nat) (f : CObj → CObj) : (s.modObj n f).mon = s.mon := rfl

@[simp] theorem State.modRoot_agenda (s : State) (n : Nat) (f : Root → Root) : (s.modRoot n f).agenda = s.agenda := rfl
@[simp] theorem State.modRoot_cur (s : State) (n : Nat) (f : Root → Root) : (s.modRoot n f).cur = s.cur := rfl
@[simp] theorem State.modRoot_focus (s : State) (n : Nat) (f : Root → Root) : (s.modRoot n f).focus = s.focus := rfl
@[simp] theorem State.modRoot_freeCtr (s : State) (n : Nat) (f : Root → Root) : (s.modRoot n f).freeCtr = s.freeCtr := rfl
@[simp] theorem State.modRoot_nextId (s : State) (n : Nat) (f : Root → Root) : (s.modRoot n f).nextId = s.nextId := rfl
@[simp] theorem State.modRoot_mem (s : State) (n : Nat) (f : Root → Root) : (s.modRoot n f).mem = s.mem := rfl
@[simp] theorem State.modRoot_fab (s : State) (n : Nat) (f : Root → Root) : (s.modRoot n f).fab = s.fab := rfl
@[simp] theorem State.modRoot_cores (s : State) (n : Nat) (f : Root → Root) : (s.modRoot n f).cores = s.cores := rfl
@[simp] theorem State.modRoot_regions (s : State) (n : Nat) (f : Root → Root) : (s.modRoot n f).regions = s.regions := rfl
@[simp] theorem State.modRoot_ctxs (s : State) (n : Nat) (f : Root → Root) : (s.modRoot n f).ctxs = s.ctxs := rfl
@[simp] theorem State.modRoot_launches (s : State) (n : Nat) (f : Root → Root) : (s.modRoot n f).launches = s.launches := rfl
@[simp] theorem State.modRoot_io (s : State) (n : Nat) (f : Root → Root) : (s.modRoot n f).io = s.io := rfl
@[simp] theorem State.modRoot_sched (s : State) (n : Nat) (f : Root → Root) : (s.modRoot n f).sched = s.sched := rfl

@[simp] theorem State.setKey_agenda (s : State) (n : Nat) (k : KeySlot) : (s.setKey n k).agenda = s.agenda := rfl
@[simp] theorem State.setKey_cur (s : State) (n : Nat) (k : KeySlot) : (s.setKey n k).cur = s.cur := rfl
@[simp] theorem State.setKey_focus (s : State) (n : Nat) (k : KeySlot) : (s.setKey n k).focus = s.focus := rfl
@[simp] theorem State.setKey_freeCtr (s : State) (n : Nat) (k : KeySlot) : (s.setKey n k).freeCtr = s.freeCtr := rfl
@[simp] theorem State.setKey_nextId (s : State) (n : Nat) (k : KeySlot) : (s.setKey n k).nextId = s.nextId := rfl
@[simp] theorem State.setKey_mem (s : State) (n : Nat) (k : KeySlot) : (s.setKey n k).mem = s.mem := rfl
@[simp] theorem State.setKey_fab (s : State) (n : Nat) (k : KeySlot) : (s.setKey n k).fab = s.fab := rfl
@[simp] theorem State.setKey_cores (s : State) (n : Nat) (k : KeySlot) : (s.setKey n k).cores = s.cores := rfl
@[simp] theorem State.setKey_regions (s : State) (n : Nat) (k : KeySlot) : (s.setKey n k).regions = s.regions := rfl
@[simp] theorem State.setKey_ctxs (s : State) (n : Nat) (k : KeySlot) : (s.setKey n k).ctxs = s.ctxs := rfl
@[simp] theorem State.setKey_launches (s : State) (n : Nat) (k : KeySlot) : (s.setKey n k).launches = s.launches := rfl
@[simp] theorem State.setKey_io (s : State) (n : Nat) (k : KeySlot) : (s.setKey n k).io = s.io := rfl
@[simp] theorem State.setKey_sched (s : State) (n : Nat) (k : KeySlot) : (s.setKey n k).sched = s.sched := rfl

@[simp] theorem State.setTag_agenda (s : State) (n : Nat) (k : Tag) : (s.setTag n k).agenda = s.agenda := rfl
@[simp] theorem State.setTag_cur (s : State) (n : Nat) (k : Tag) : (s.setTag n k).cur = s.cur := rfl
@[simp] theorem State.setTag_focus (s : State) (n : Nat) (k : Tag) : (s.setTag n k).focus = s.focus := rfl
@[simp] theorem State.setTag_freeCtr (s : State) (n : Nat) (k : Tag) : (s.setTag n k).freeCtr = s.freeCtr := rfl
@[simp] theorem State.setTag_nextId (s : State) (n : Nat) (k : Tag) : (s.setTag n k).nextId = s.nextId := rfl
@[simp] theorem State.setTag_mem (s : State) (n : Nat) (k : Tag) : (s.setTag n k).mem = s.mem := rfl
@[simp] theorem State.setTag_fab (s : State) (n : Nat) (k : Tag) : (s.setTag n k).fab = s.fab := rfl
@[simp] theorem State.setTag_cores (s : State) (n : Nat) (k : Tag) : (s.setTag n k).cores = s.cores := rfl
@[simp] theorem State.setTag_regions (s : State) (n : Nat) (k : Tag) : (s.setTag n k).regions = s.regions := rfl
@[simp] theorem State.setTag_ctxs (s : State) (n : Nat) (k : Tag) : (s.setTag n k).ctxs = s.ctxs := rfl
@[simp] theorem State.setTag_launches (s : State) (n : Nat) (k : Tag) : (s.setTag n k).launches = s.launches := rfl
@[simp] theorem State.setTag_io (s : State) (n : Nat) (k : Tag) : (s.setTag n k).io = s.io := rfl
@[simp] theorem State.setTag_sched (s : State) (n : Nat) (k : Tag) : (s.setTag n k).sched = s.sched := rfl

@[simp] theorem State.dropPeerReads_agenda (s : State)  : (s.dropPeerReads).agenda = s.agenda := rfl
@[simp] theorem State.dropPeerReads_cur (s : State)  : (s.dropPeerReads).cur = s.cur := rfl
@[simp] theorem State.dropPeerReads_focus (s : State)  : (s.dropPeerReads).focus = s.focus := rfl
@[simp] theorem State.dropPeerReads_freeCtr (s : State)  : (s.dropPeerReads).freeCtr = s.freeCtr := rfl
@[simp] theorem State.dropPeerReads_nextId (s : State)  : (s.dropPeerReads).nextId = s.nextId := rfl
@[simp] theorem State.dropPeerReads_fab (s : State)  : (s.dropPeerReads).fab = s.fab := rfl
@[simp] theorem State.dropPeerReads_cores (s : State)  : (s.dropPeerReads).cores = s.cores := rfl
@[simp] theorem State.dropPeerReads_regions (s : State)  : (s.dropPeerReads).regions = s.regions := rfl
@[simp] theorem State.dropPeerReads_ctxs (s : State)  : (s.dropPeerReads).ctxs = s.ctxs := rfl
@[simp] theorem State.dropPeerReads_launches (s : State)  : (s.dropPeerReads).launches = s.launches := rfl
@[simp] theorem State.dropPeerReads_io (s : State)  : (s.dropPeerReads).io = s.io := rfl
@[simp] theorem State.dropPeerReads_sched (s : State)  : (s.dropPeerReads).sched = s.sched := rfl
@[simp] theorem State.dropPeerReads_mon (s : State)  : (s.dropPeerReads).mon = s.mon := rfl

@[simp] theorem State.dropWaiters_agenda (s : State) (c w : Nat) : (s.dropWaiters c w).agenda = s.agenda := rfl
@[simp] theorem State.dropWaiters_cur (s : State) (c w : Nat) : (s.dropWaiters c w).cur = s.cur := rfl
@[simp] theorem State.dropWaiters_focus (s : State) (c w : Nat) : (s.dropWaiters c w).focus = s.focus := rfl
@[simp] theorem State.dropWaiters_freeCtr (s : State) (c w : Nat) : (s.dropWaiters c w).freeCtr = s.freeCtr := rfl
@[simp] theorem State.dropWaiters_nextId (s : State) (c w : Nat) : (s.dropWaiters c w).nextId = s.nextId := rfl
@[simp] theorem State.dropWaiters_mem (s : State) (c w : Nat) : (s.dropWaiters c w).mem = s.mem := rfl
@[simp] theorem State.dropWaiters_fab (s : State) (c w : Nat) : (s.dropWaiters c w).fab = s.fab := rfl
@[simp] theorem State.dropWaiters_regions (s : State) (c w : Nat) : (s.dropWaiters c w).regions = s.regions := rfl
@[simp] theorem State.dropWaiters_ctxs (s : State) (c w : Nat) : (s.dropWaiters c w).ctxs = s.ctxs := rfl
@[simp] theorem State.dropWaiters_launches (s : State) (c w : Nat) : (s.dropWaiters c w).launches = s.launches := rfl
@[simp] theorem State.dropWaiters_io (s : State) (c w : Nat) : (s.dropWaiters c w).io = s.io := rfl
@[simp] theorem State.dropWaiters_sched (s : State) (c w : Nat) : (s.dropWaiters c w).sched = s.sched := rfl
@[simp] theorem State.dropWaiters_mon (s : State) (c w : Nat) : (s.dropWaiters c w).mon = s.mon := rfl

@[simp] theorem State.endWarp_agenda (s : State) (c w : Nat) : (s.endWarp c w).agenda = s.agenda := rfl
@[simp] theorem State.endWarp_cur (s : State) (c w : Nat) : (s.endWarp c w).cur = s.cur := rfl
@[simp] theorem State.endWarp_focus (s : State) (c w : Nat) : (s.endWarp c w).focus = s.focus := rfl
@[simp] theorem State.endWarp_freeCtr (s : State) (c w : Nat) : (s.endWarp c w).freeCtr = s.freeCtr := rfl
@[simp] theorem State.endWarp_nextId (s : State) (c w : Nat) : (s.endWarp c w).nextId = s.nextId := rfl
@[simp] theorem State.endWarp_mem (s : State) (c w : Nat) : (s.endWarp c w).mem = s.mem := rfl
@[simp] theorem State.endWarp_regions (s : State) (c w : Nat) : (s.endWarp c w).regions = s.regions := rfl
@[simp] theorem State.endWarp_ctxs (s : State) (c w : Nat) : (s.endWarp c w).ctxs = s.ctxs := rfl
@[simp] theorem State.endWarp_launches (s : State) (c w : Nat) : (s.endWarp c w).launches = s.launches := rfl
@[simp] theorem State.endWarp_io (s : State) (c w : Nat) : (s.endWarp c w).io = s.io := rfl
@[simp] theorem State.endWarp_sched (s : State) (c w : Nat) : (s.endWarp c w).sched = s.sched := rfl
@[simp] theorem State.endWarp_mon (s : State) (c w : Nat) : (s.endWarp c w).mon = s.mon := rfl

@[simp] theorem State.raise_agenda (s : State) (c w : Nat) (l : List Nat) (e : BitVec 8) (a o : DWord) : (s.raise c w l e a o).agenda = s.agenda := rfl
@[simp] theorem State.raise_cur (s : State) (c w : Nat) (l : List Nat) (e : BitVec 8) (a o : DWord) : (s.raise c w l e a o).cur = s.cur := rfl
@[simp] theorem State.raise_focus (s : State) (c w : Nat) (l : List Nat) (e : BitVec 8) (a o : DWord) : (s.raise c w l e a o).focus = s.focus := rfl
@[simp] theorem State.raise_freeCtr (s : State) (c w : Nat) (l : List Nat) (e : BitVec 8) (a o : DWord) : (s.raise c w l e a o).freeCtr = s.freeCtr := rfl
@[simp] theorem State.raise_nextId (s : State) (c w : Nat) (l : List Nat) (e : BitVec 8) (a o : DWord) : (s.raise c w l e a o).nextId = s.nextId := rfl
@[simp] theorem State.raise_mem (s : State) (c w : Nat) (l : List Nat) (e : BitVec 8) (a o : DWord) : (s.raise c w l e a o).mem = s.mem := rfl
@[simp] theorem State.raise_fab (s : State) (c w : Nat) (l : List Nat) (e : BitVec 8) (a o : DWord) : (s.raise c w l e a o).fab = s.fab := rfl
@[simp] theorem State.raise_regions (s : State) (c w : Nat) (l : List Nat) (e : BitVec 8) (a o : DWord) : (s.raise c w l e a o).regions = s.regions := rfl
@[simp] theorem State.raise_launches (s : State) (c w : Nat) (l : List Nat) (e : BitVec 8) (a o : DWord) : (s.raise c w l e a o).launches = s.launches := rfl
@[simp] theorem State.raise_io (s : State) (c w : Nat) (l : List Nat) (e : BitVec 8) (a o : DWord) : (s.raise c w l e a o).io = s.io := rfl
@[simp] theorem State.raise_sched (s : State) (c w : Nat) (l : List Nat) (e : BitVec 8) (a o : DWord) : (s.raise c w l e a o).sched = s.sched := rfl
@[simp] theorem State.raise_mon (s : State) (c w : Nat) (l : List Nat) (e : BitVec 8) (a o : DWord) : (s.raise c w l e a o).mon = s.mon := rfl

@[simp] theorem State.raiseSeq_agenda (s : State) (c b : Nat) (cp : Bool) (e : BitVec 8) (a o : DWord) : (s.raiseSeq c b cp e a o).agenda = s.agenda := rfl
@[simp] theorem State.raiseSeq_cur (s : State) (c b : Nat) (cp : Bool) (e : BitVec 8) (a o : DWord) : (s.raiseSeq c b cp e a o).cur = s.cur := rfl
@[simp] theorem State.raiseSeq_focus (s : State) (c b : Nat) (cp : Bool) (e : BitVec 8) (a o : DWord) : (s.raiseSeq c b cp e a o).focus = s.focus := rfl
@[simp] theorem State.raiseSeq_freeCtr (s : State) (c b : Nat) (cp : Bool) (e : BitVec 8) (a o : DWord) : (s.raiseSeq c b cp e a o).freeCtr = s.freeCtr := rfl
@[simp] theorem State.raiseSeq_nextId (s : State) (c b : Nat) (cp : Bool) (e : BitVec 8) (a o : DWord) : (s.raiseSeq c b cp e a o).nextId = s.nextId := rfl
@[simp] theorem State.raiseSeq_mem (s : State) (c b : Nat) (cp : Bool) (e : BitVec 8) (a o : DWord) : (s.raiseSeq c b cp e a o).mem = s.mem := rfl
@[simp] theorem State.raiseSeq_fab (s : State) (c b : Nat) (cp : Bool) (e : BitVec 8) (a o : DWord) : (s.raiseSeq c b cp e a o).fab = s.fab := rfl
@[simp] theorem State.raiseSeq_regions (s : State) (c b : Nat) (cp : Bool) (e : BitVec 8) (a o : DWord) : (s.raiseSeq c b cp e a o).regions = s.regions := rfl
@[simp] theorem State.raiseSeq_launches (s : State) (c b : Nat) (cp : Bool) (e : BitVec 8) (a o : DWord) : (s.raiseSeq c b cp e a o).launches = s.launches := rfl
@[simp] theorem State.raiseSeq_io (s : State) (c b : Nat) (cp : Bool) (e : BitVec 8) (a o : DWord) : (s.raiseSeq c b cp e a o).io = s.io := rfl
@[simp] theorem State.raiseSeq_sched (s : State) (c b : Nat) (cp : Bool) (e : BitVec 8) (a o : DWord) : (s.raiseSeq c b cp e a o).sched = s.sched := rfl
@[simp] theorem State.raiseSeq_mon (s : State) (c b : Nat) (cp : Bool) (e : BitVec 8) (a o : DWord) : (s.raiseSeq c b cp e a o).mon = s.mon := rfl

@[simp] theorem State.account_agenda (s : State) (c w : Nat) (p : Word) : (s.account c w p).agenda = s.agenda := rfl
@[simp] theorem State.account_cur (s : State) (c w : Nat) (p : Word) : (s.account c w p).cur = s.cur := rfl
@[simp] theorem State.account_focus (s : State) (c w : Nat) (p : Word) : (s.account c w p).focus = s.focus := rfl
@[simp] theorem State.account_nextId (s : State) (c w : Nat) (p : Word) : (s.account c w p).nextId = s.nextId := rfl
@[simp] theorem State.account_mem (s : State) (c w : Nat) (p : Word) : (s.account c w p).mem = s.mem := rfl
@[simp] theorem State.account_fab (s : State) (c w : Nat) (p : Word) : (s.account c w p).fab = s.fab := rfl
@[simp] theorem State.account_regions (s : State) (c w : Nat) (p : Word) : (s.account c w p).regions = s.regions := rfl
@[simp] theorem State.account_ctxs (s : State) (c w : Nat) (p : Word) : (s.account c w p).ctxs = s.ctxs := rfl
@[simp] theorem State.account_launches (s : State) (c w : Nat) (p : Word) : (s.account c w p).launches = s.launches := rfl
@[simp] theorem State.account_io (s : State) (c w : Nat) (p : Word) : (s.account c w p).io = s.io := rfl
@[simp] theorem State.account_sched (s : State) (c w : Nat) (p : Word) : (s.account c w p).sched = s.sched := rfl
@[simp] theorem State.account_mon (s : State) (c w : Nat) (p : Word) : (s.account c w p).mon = s.mon := rfl

@[simp] theorem State.park_agenda (s : State) (x : Issue) (l : List Nat) (p : Park) : (s.park x l p).agenda = s.agenda := rfl
@[simp] theorem State.park_cur (s : State) (x : Issue) (l : List Nat) (p : Park) : (s.park x l p).cur = s.cur := rfl
@[simp] theorem State.park_focus (s : State) (x : Issue) (l : List Nat) (p : Park) : (s.park x l p).focus = s.focus := rfl
@[simp] theorem State.park_freeCtr (s : State) (x : Issue) (l : List Nat) (p : Park) : (s.park x l p).freeCtr = s.freeCtr := rfl
@[simp] theorem State.park_nextId (s : State) (x : Issue) (l : List Nat) (p : Park) : (s.park x l p).nextId = s.nextId := rfl
@[simp] theorem State.park_mem (s : State) (x : Issue) (l : List Nat) (p : Park) : (s.park x l p).mem = s.mem := rfl
@[simp] theorem State.park_fab (s : State) (x : Issue) (l : List Nat) (p : Park) : (s.park x l p).fab = s.fab := rfl
@[simp] theorem State.park_regions (s : State) (x : Issue) (l : List Nat) (p : Park) : (s.park x l p).regions = s.regions := rfl
@[simp] theorem State.park_ctxs (s : State) (x : Issue) (l : List Nat) (p : Park) : (s.park x l p).ctxs = s.ctxs := rfl
@[simp] theorem State.park_launches (s : State) (x : Issue) (l : List Nat) (p : Park) : (s.park x l p).launches = s.launches := rfl
@[simp] theorem State.park_io (s : State) (x : Issue) (l : List Nat) (p : Park) : (s.park x l p).io = s.io := rfl
@[simp] theorem State.park_sched (s : State) (x : Issue) (l : List Nat) (p : Park) : (s.park x l p).sched = s.sched := rfl
@[simp] theorem State.park_mon (s : State) (x : Issue) (l : List Nat) (p : Park) : (s.park x l p).mon = s.mon := rfl

/-! ## Fields of a core, a warp, a block -/

@[simp] theorem Core.setWarp_use (k : Core) (w : Nat) (x : Warp) : (k.setWarp w x).use = k.use := rfl
@[simp] theorem Core.setWarp_pword (k : Core) (w : Nat) (x : Warp) : (k.setWarp w x).pword = k.pword := rfl
@[simp] theorem Core.setWarp_blocks (k : Core) (w : Nat) (x : Warp) : (k.setWarp w x).blocks = k.blocks := rfl
@[simp] theorem Core.setWarp_scr (k : Core) (w : Nat) (x : Warp) : (k.setWarp w x).scr = k.scr := rfl
@[simp] theorem Core.setWarp_tags (k : Core) (w : Nat) (x : Warp) : (k.setWarp w x).tags = k.tags := rfl
@[simp] theorem Core.setWarp_scrPois (k : Core) (w : Nat) (x : Warp) : (k.setWarp w x).scrPois = k.scrPois := rfl
@[simp] theorem Core.setWarp_acc (k : Core) (w : Nat) (x : Warp) : (k.setWarp w x).acc = k.acc := rfl
@[simp] theorem Core.setWarp_accPois (k : Core) (w : Nat) (x : Warp) : (k.setWarp w x).accPois = k.accPois := rfl
@[simp] theorem Core.setWarp_touched (k : Core) (w : Nat) (x : Warp) : (k.setWarp w x).touched = k.touched := rfl
@[simp] theorem Core.setWarp_clean (k : Core) (w : Nat) (x : Warp) : (k.setWarp w x).clean = k.clean := rfl
@[simp] theorem Core.setWarp_tiles (k : Core) (w : Nat) (x : Warp) : (k.setWarp w x).tiles = k.tiles := rfl
@[simp] theorem Core.setWarp_units (k : Core) (w : Nat) (x : Warp) : (k.setWarp w x).units = k.units := rfl
@[simp] theorem Core.setWarp_cardAt (k : Core) (w : Nat) (x : Warp) : (k.setWarp w x).cardAt = k.cardAt := rfl
@[simp] theorem Core.setWarp_install (k : Core) (w : Nat) (x : Warp) : (k.setWarp w x).install = k.install := rfl
@[simp] theorem Core.setWarp_apq (k : Core) (w : Nat) (x : Warp) : (k.setWarp w x).apq = k.apq := rfl
@[simp] theorem Core.setWarp_copies (k : Core) (w : Nat) (x : Warp) : (k.setWarp w x).copies = k.copies := rfl
@[simp] theorem Core.setWarp_window (k : Core) (w : Nat) (x : Warp) : (k.setWarp w x).window = k.window := rfl
@[simp] theorem Core.setWarp_jobs (k : Core) (w : Nat) (x : Warp) : (k.setWarp w x).jobs = k.jobs := rfl
@[simp] theorem Core.setWarp_arr (k : Core) (w : Nat) (x : Warp) : (k.setWarp w x).arr = k.arr := rfl
@[simp] theorem Core.setWarp_drn (k : Core) (w : Nat) (x : Warp) : (k.setWarp w x).drn = k.drn := rfl
@[simp] theorem Core.setWarp_lastArr (k : Core) (w : Nat) (x : Warp) : (k.setWarp w x).lastArr = k.lastArr := rfl
@[simp] theorem Core.setWarp_lastDrn (k : Core) (w : Nat) (x : Warp) : (k.setWarp w x).lastDrn = k.lastDrn := rfl
@[simp] theorem Core.setWarp_lda (k : Core) (w : Nat) (x : Warp) : (k.setWarp w x).lda = k.lda := rfl
@[simp] theorem Core.setWarp_slots (k : Core) (w : Nat) (x : Warp) : (k.setWarp w x).slots = k.slots := rfl
@[simp] theorem Core.setWarp_icache (k : Core) (w : Nat) (x : Warp) : (k.setWarp w x).icache = k.icache := rfl
@[simp] theorem Core.setWarp_fills (k : Core) (w : Nat) (x : Warp) : (k.setWarp w x).fills = k.fills := rfl
@[simp] theorem Core.setWarp_tlb (k : Core) (w : Nat) (x : Warp) : (k.setWarp w x).tlb = k.tlb := rfl
@[simp] theorem Core.setWarp_wfault (k : Core) (w : Nat) (x : Warp) : (k.setWarp w x).wfault = k.wfault := rfl
@[simp] theorem Core.setWarp_waiters (k : Core) (w : Nat) (x : Warp) : (k.setWarp w x).waiters = k.waiters := rfl
@[simp] theorem Core.setWarp_bars (k : Core) (w : Nat) (x : Warp) : (k.setWarp w x).bars = k.bars := rfl
@[simp] theorem Core.setWarp_cycle (k : Core) (w : Nat) (x : Warp) : (k.setWarp w x).cycle = k.cycle := rfl
@[simp] theorem Core.setWarp_chkrpl (k : Core) (w : Nat) (x : Warp) : (k.setWarp w x).chkrpl = k.chkrpl := rfl
@[simp] theorem Core.setWarp_upset (k : Core) (w : Nat) (x : Warp) : (k.setWarp w x).upset = k.upset := rfl

@[simp] theorem Core.modWarp_use (k : Core) (w : Nat) (f : Warp → Warp) : (k.modWarp w f).use = k.use := rfl
@[simp] theorem Core.modWarp_pword (k : Core) (w : Nat) (f : Warp → Warp) : (k.modWarp w f).pword = k.pword := rfl
@[simp] theorem Core.modWarp_blocks (k : Core) (w : Nat) (f : Warp → Warp) : (k.modWarp w f).blocks = k.blocks := rfl
@[simp] theorem Core.modWarp_scr (k : Core) (w : Nat) (f : Warp → Warp) : (k.modWarp w f).scr = k.scr := rfl
@[simp] theorem Core.modWarp_tags (k : Core) (w : Nat) (f : Warp → Warp) : (k.modWarp w f).tags = k.tags := rfl
@[simp] theorem Core.modWarp_scrPois (k : Core) (w : Nat) (f : Warp → Warp) : (k.modWarp w f).scrPois = k.scrPois := rfl
@[simp] theorem Core.modWarp_acc (k : Core) (w : Nat) (f : Warp → Warp) : (k.modWarp w f).acc = k.acc := rfl
@[simp] theorem Core.modWarp_accPois (k : Core) (w : Nat) (f : Warp → Warp) : (k.modWarp w f).accPois = k.accPois := rfl
@[simp] theorem Core.modWarp_touched (k : Core) (w : Nat) (f : Warp → Warp) : (k.modWarp w f).touched = k.touched := rfl
@[simp] theorem Core.modWarp_clean (k : Core) (w : Nat) (f : Warp → Warp) : (k.modWarp w f).clean = k.clean := rfl
@[simp] theorem Core.modWarp_tiles (k : Core) (w : Nat) (f : Warp → Warp) : (k.modWarp w f).tiles = k.tiles := rfl
@[simp] theorem Core.modWarp_units (k : Core) (w : Nat) (f : Warp → Warp) : (k.modWarp w f).units = k.units := rfl
@[simp] theorem Core.modWarp_cardAt (k : Core) (w : Nat) (f : Warp → Warp) : (k.modWarp w f).cardAt = k.cardAt := rfl
@[simp] theorem Core.modWarp_install (k : Core) (w : Nat) (f : Warp → Warp) : (k.modWarp w f).install = k.install := rfl
@[simp] theorem Core.modWarp_apq (k : Core) (w : Nat) (f : Warp → Warp) : (k.modWarp w f).apq = k.apq := rfl
@[simp] theorem Core.modWarp_copies (k : Core) (w : Nat) (f : Warp → Warp) : (k.modWarp w f).copies = k.copies := rfl
@[simp] theorem Core.modWarp_window (k : Core) (w : Nat) (f : Warp → Warp) : (k.modWarp w f).window = k.window := rfl
@[simp] theorem Core.modWarp_jobs (k : Core) (w : Nat) (f : Warp → Warp) : (k.modWarp w f).jobs = k.jobs := rfl
@[simp] theorem Core.modWarp_arr (k : Core) (w : Nat) (f : Warp → Warp) : (k.modWarp w f).arr = k.arr := rfl
@[simp] theorem Core.modWarp_drn (k : Core) (w : Nat) (f : Warp → Warp) : (k.modWarp w f).drn = k.drn := rfl
@[simp] theorem Core.modWarp_lastArr (k : Core) (w : Nat) (f : Warp → Warp) : (k.modWarp w f).lastArr = k.lastArr := rfl
@[simp] theorem Core.modWarp_lastDrn (k : Core) (w : Nat) (f : Warp → Warp) : (k.modWarp w f).lastDrn = k.lastDrn := rfl
@[simp] theorem Core.modWarp_lda (k : Core) (w : Nat) (f : Warp → Warp) : (k.modWarp w f).lda = k.lda := rfl
@[simp] theorem Core.modWarp_slots (k : Core) (w : Nat) (f : Warp → Warp) : (k.modWarp w f).slots = k.slots := rfl
@[simp] theorem Core.modWarp_icache (k : Core) (w : Nat) (f : Warp → Warp) : (k.modWarp w f).icache = k.icache := rfl
@[simp] theorem Core.modWarp_fills (k : Core) (w : Nat) (f : Warp → Warp) : (k.modWarp w f).fills = k.fills := rfl
@[simp] theorem Core.modWarp_tlb (k : Core) (w : Nat) (f : Warp → Warp) : (k.modWarp w f).tlb = k.tlb := rfl
@[simp] theorem Core.modWarp_wfault (k : Core) (w : Nat) (f : Warp → Warp) : (k.modWarp w f).wfault = k.wfault := rfl
@[simp] theorem Core.modWarp_waiters (k : Core) (w : Nat) (f : Warp → Warp) : (k.modWarp w f).waiters = k.waiters := rfl
@[simp] theorem Core.modWarp_bars (k : Core) (w : Nat) (f : Warp → Warp) : (k.modWarp w f).bars = k.bars := rfl
@[simp] theorem Core.modWarp_cycle (k : Core) (w : Nat) (f : Warp → Warp) : (k.modWarp w f).cycle = k.cycle := rfl
@[simp] theorem Core.modWarp_chkrpl (k : Core) (w : Nat) (f : Warp → Warp) : (k.modWarp w f).chkrpl = k.chkrpl := rfl
@[simp] theorem Core.modWarp_upset (k : Core) (w : Nat) (f : Warp → Warp) : (k.modWarp w f).upset = k.upset := rfl

@[simp] theorem Core.setBlock_use (k : Core) (b : Nat) (x : Block) : (k.setBlock b x).use = k.use := rfl
@[simp] theorem Core.setBlock_pword (k : Core) (b : Nat) (x : Block) : (k.setBlock b x).pword = k.pword := rfl
@[simp] theorem Core.setBlock_warps (k : Core) (b : Nat) (x : Block) : (k.setBlock b x).warps = k.warps := rfl
@[simp] theorem Core.setBlock_scr (k : Core) (b : Nat) (x : Block) : (k.setBlock b x).scr = k.scr := rfl
@[simp] theorem Core.setBlock_tags (k : Core) (b : Nat) (x : Block) : (k.setBlock b x).tags = k.tags := rfl
@[simp] theorem Core.setBlock_scrPois (k : Core) (b : Nat) (x : Block) : (k.setBlock b x).scrPois = k.scrPois := rfl
@[simp] theorem Core.setBlock_acc (k : Core) (b : Nat) (x : Block) : (k.setBlock b x).acc = k.acc := rfl
@[simp] theorem Core.setBlock_accPois (k : Core) (b : Nat) (x : Block) : (k.setBlock b x).accPois = k.accPois := rfl
@[simp] theorem Core.setBlock_touched (k : Core) (b : Nat) (x : Block) : (k.setBlock b x).touched = k.touched := rfl
@[simp] theorem Core.setBlock_clean (k : Core) (b : Nat) (x : Block) : (k.setBlock b x).clean = k.clean := rfl
@[simp] theorem Core.setBlock_tiles (k : Core) (b : Nat) (x : Block) : (k.setBlock b x).tiles = k.tiles := rfl
@[simp] theorem Core.setBlock_units (k : Core) (b : Nat) (x : Block) : (k.setBlock b x).units = k.units := rfl
@[simp] theorem Core.setBlock_cardAt (k : Core) (b : Nat) (x : Block) : (k.setBlock b x).cardAt = k.cardAt := rfl
@[simp] theorem Core.setBlock_install (k : Core) (b : Nat) (x : Block) : (k.setBlock b x).install = k.install := rfl
@[simp] theorem Core.setBlock_apq (k : Core) (b : Nat) (x : Block) : (k.setBlock b x).apq = k.apq := rfl
@[simp] theorem Core.setBlock_copies (k : Core) (b : Nat) (x : Block) : (k.setBlock b x).copies = k.copies := rfl
@[simp] theorem Core.setBlock_window (k : Core) (b : Nat) (x : Block) : (k.setBlock b x).window = k.window := rfl
@[simp] theorem Core.setBlock_jobs (k : Core) (b : Nat) (x : Block) : (k.setBlock b x).jobs = k.jobs := rfl
@[simp] theorem Core.setBlock_arr (k : Core) (b : Nat) (x : Block) : (k.setBlock b x).arr = k.arr := rfl
@[simp] theorem Core.setBlock_drn (k : Core) (b : Nat) (x : Block) : (k.setBlock b x).drn = k.drn := rfl
@[simp] theorem Core.setBlock_lastArr (k : Core) (b : Nat) (x : Block) : (k.setBlock b x).lastArr = k.lastArr := rfl
@[simp] theorem Core.setBlock_lastDrn (k : Core) (b : Nat) (x : Block) : (k.setBlock b x).lastDrn = k.lastDrn := rfl
@[simp] theorem Core.setBlock_lda (k : Core) (b : Nat) (x : Block) : (k.setBlock b x).lda = k.lda := rfl
@[simp] theorem Core.setBlock_slots (k : Core) (b : Nat) (x : Block) : (k.setBlock b x).slots = k.slots := rfl
@[simp] theorem Core.setBlock_icache (k : Core) (b : Nat) (x : Block) : (k.setBlock b x).icache = k.icache := rfl
@[simp] theorem Core.setBlock_fills (k : Core) (b : Nat) (x : Block) : (k.setBlock b x).fills = k.fills := rfl
@[simp] theorem Core.setBlock_tlb (k : Core) (b : Nat) (x : Block) : (k.setBlock b x).tlb = k.tlb := rfl
@[simp] theorem Core.setBlock_wfault (k : Core) (b : Nat) (x : Block) : (k.setBlock b x).wfault = k.wfault := rfl
@[simp] theorem Core.setBlock_waiters (k : Core) (b : Nat) (x : Block) : (k.setBlock b x).waiters = k.waiters := rfl
@[simp] theorem Core.setBlock_bars (k : Core) (b : Nat) (x : Block) : (k.setBlock b x).bars = k.bars := rfl
@[simp] theorem Core.setBlock_cycle (k : Core) (b : Nat) (x : Block) : (k.setBlock b x).cycle = k.cycle := rfl
@[simp] theorem Core.setBlock_chkrpl (k : Core) (b : Nat) (x : Block) : (k.setBlock b x).chkrpl = k.chkrpl := rfl
@[simp] theorem Core.setBlock_upset (k : Core) (b : Nat) (x : Block) : (k.setBlock b x).upset = k.upset := rfl

@[simp] theorem Core.modBlock_use (k : Core) (b : Nat) (f : Block → Block) : (k.modBlock b f).use = k.use := rfl
@[simp] theorem Core.modBlock_pword (k : Core) (b : Nat) (f : Block → Block) : (k.modBlock b f).pword = k.pword := rfl
@[simp] theorem Core.modBlock_warps (k : Core) (b : Nat) (f : Block → Block) : (k.modBlock b f).warps = k.warps := rfl
@[simp] theorem Core.modBlock_scr (k : Core) (b : Nat) (f : Block → Block) : (k.modBlock b f).scr = k.scr := rfl
@[simp] theorem Core.modBlock_tags (k : Core) (b : Nat) (f : Block → Block) : (k.modBlock b f).tags = k.tags := rfl
@[simp] theorem Core.modBlock_scrPois (k : Core) (b : Nat) (f : Block → Block) : (k.modBlock b f).scrPois = k.scrPois := rfl
@[simp] theorem Core.modBlock_acc (k : Core) (b : Nat) (f : Block → Block) : (k.modBlock b f).acc = k.acc := rfl
@[simp] theorem Core.modBlock_accPois (k : Core) (b : Nat) (f : Block → Block) : (k.modBlock b f).accPois = k.accPois := rfl
@[simp] theorem Core.modBlock_touched (k : Core) (b : Nat) (f : Block → Block) : (k.modBlock b f).touched = k.touched := rfl
@[simp] theorem Core.modBlock_clean (k : Core) (b : Nat) (f : Block → Block) : (k.modBlock b f).clean = k.clean := rfl
@[simp] theorem Core.modBlock_tiles (k : Core) (b : Nat) (f : Block → Block) : (k.modBlock b f).tiles = k.tiles := rfl
@[simp] theorem Core.modBlock_units (k : Core) (b : Nat) (f : Block → Block) : (k.modBlock b f).units = k.units := rfl
@[simp] theorem Core.modBlock_cardAt (k : Core) (b : Nat) (f : Block → Block) : (k.modBlock b f).cardAt = k.cardAt := rfl
@[simp] theorem Core.modBlock_install (k : Core) (b : Nat) (f : Block → Block) : (k.modBlock b f).install = k.install := rfl
@[simp] theorem Core.modBlock_apq (k : Core) (b : Nat) (f : Block → Block) : (k.modBlock b f).apq = k.apq := rfl
@[simp] theorem Core.modBlock_copies (k : Core) (b : Nat) (f : Block → Block) : (k.modBlock b f).copies = k.copies := rfl
@[simp] theorem Core.modBlock_window (k : Core) (b : Nat) (f : Block → Block) : (k.modBlock b f).window = k.window := rfl
@[simp] theorem Core.modBlock_jobs (k : Core) (b : Nat) (f : Block → Block) : (k.modBlock b f).jobs = k.jobs := rfl
@[simp] theorem Core.modBlock_arr (k : Core) (b : Nat) (f : Block → Block) : (k.modBlock b f).arr = k.arr := rfl
@[simp] theorem Core.modBlock_drn (k : Core) (b : Nat) (f : Block → Block) : (k.modBlock b f).drn = k.drn := rfl
@[simp] theorem Core.modBlock_lastArr (k : Core) (b : Nat) (f : Block → Block) : (k.modBlock b f).lastArr = k.lastArr := rfl
@[simp] theorem Core.modBlock_lastDrn (k : Core) (b : Nat) (f : Block → Block) : (k.modBlock b f).lastDrn = k.lastDrn := rfl
@[simp] theorem Core.modBlock_lda (k : Core) (b : Nat) (f : Block → Block) : (k.modBlock b f).lda = k.lda := rfl
@[simp] theorem Core.modBlock_slots (k : Core) (b : Nat) (f : Block → Block) : (k.modBlock b f).slots = k.slots := rfl
@[simp] theorem Core.modBlock_icache (k : Core) (b : Nat) (f : Block → Block) : (k.modBlock b f).icache = k.icache := rfl
@[simp] theorem Core.modBlock_fills (k : Core) (b : Nat) (f : Block → Block) : (k.modBlock b f).fills = k.fills := rfl
@[simp] theorem Core.modBlock_tlb (k : Core) (b : Nat) (f : Block → Block) : (k.modBlock b f).tlb = k.tlb := rfl
@[simp] theorem Core.modBlock_wfault (k : Core) (b : Nat) (f : Block → Block) : (k.modBlock b f).wfault = k.wfault := rfl
@[simp] theorem Core.modBlock_waiters (k : Core) (b : Nat) (f : Block → Block) : (k.modBlock b f).waiters = k.waiters := rfl
@[simp] theorem Core.modBlock_bars (k : Core) (b : Nat) (f : Block → Block) : (k.modBlock b f).bars = k.bars := rfl
@[simp] theorem Core.modBlock_cycle (k : Core) (b : Nat) (f : Block → Block) : (k.modBlock b f).cycle = k.cycle := rfl
@[simp] theorem Core.modBlock_chkrpl (k : Core) (b : Nat) (f : Block → Block) : (k.modBlock b f).chkrpl = k.chkrpl := rfl
@[simp] theorem Core.modBlock_upset (k : Core) (b : Nat) (f : Block → Block) : (k.modBlock b f).upset = k.upset := rfl

@[simp] theorem Core.setSeq_use (k : Core) (b : Nat) (cp : Bool) (q : Seq) : (k.setSeq b cp q).use = k.use := rfl
@[simp] theorem Core.setSeq_pword (k : Core) (b : Nat) (cp : Bool) (q : Seq) : (k.setSeq b cp q).pword = k.pword := rfl
@[simp] theorem Core.setSeq_warps (k : Core) (b : Nat) (cp : Bool) (q : Seq) : (k.setSeq b cp q).warps = k.warps := rfl
@[simp] theorem Core.setSeq_scr (k : Core) (b : Nat) (cp : Bool) (q : Seq) : (k.setSeq b cp q).scr = k.scr := rfl
@[simp] theorem Core.setSeq_tags (k : Core) (b : Nat) (cp : Bool) (q : Seq) : (k.setSeq b cp q).tags = k.tags := rfl
@[simp] theorem Core.setSeq_scrPois (k : Core) (b : Nat) (cp : Bool) (q : Seq) : (k.setSeq b cp q).scrPois = k.scrPois := rfl
@[simp] theorem Core.setSeq_acc (k : Core) (b : Nat) (cp : Bool) (q : Seq) : (k.setSeq b cp q).acc = k.acc := rfl
@[simp] theorem Core.setSeq_accPois (k : Core) (b : Nat) (cp : Bool) (q : Seq) : (k.setSeq b cp q).accPois = k.accPois := rfl
@[simp] theorem Core.setSeq_touched (k : Core) (b : Nat) (cp : Bool) (q : Seq) : (k.setSeq b cp q).touched = k.touched := rfl
@[simp] theorem Core.setSeq_clean (k : Core) (b : Nat) (cp : Bool) (q : Seq) : (k.setSeq b cp q).clean = k.clean := rfl
@[simp] theorem Core.setSeq_tiles (k : Core) (b : Nat) (cp : Bool) (q : Seq) : (k.setSeq b cp q).tiles = k.tiles := rfl
@[simp] theorem Core.setSeq_units (k : Core) (b : Nat) (cp : Bool) (q : Seq) : (k.setSeq b cp q).units = k.units := rfl
@[simp] theorem Core.setSeq_cardAt (k : Core) (b : Nat) (cp : Bool) (q : Seq) : (k.setSeq b cp q).cardAt = k.cardAt := rfl
@[simp] theorem Core.setSeq_install (k : Core) (b : Nat) (cp : Bool) (q : Seq) : (k.setSeq b cp q).install = k.install := rfl
@[simp] theorem Core.setSeq_apq (k : Core) (b : Nat) (cp : Bool) (q : Seq) : (k.setSeq b cp q).apq = k.apq := rfl
@[simp] theorem Core.setSeq_copies (k : Core) (b : Nat) (cp : Bool) (q : Seq) : (k.setSeq b cp q).copies = k.copies := rfl
@[simp] theorem Core.setSeq_window (k : Core) (b : Nat) (cp : Bool) (q : Seq) : (k.setSeq b cp q).window = k.window := rfl
@[simp] theorem Core.setSeq_jobs (k : Core) (b : Nat) (cp : Bool) (q : Seq) : (k.setSeq b cp q).jobs = k.jobs := rfl
@[simp] theorem Core.setSeq_arr (k : Core) (b : Nat) (cp : Bool) (q : Seq) : (k.setSeq b cp q).arr = k.arr := rfl
@[simp] theorem Core.setSeq_drn (k : Core) (b : Nat) (cp : Bool) (q : Seq) : (k.setSeq b cp q).drn = k.drn := rfl
@[simp] theorem Core.setSeq_lastArr (k : Core) (b : Nat) (cp : Bool) (q : Seq) : (k.setSeq b cp q).lastArr = k.lastArr := rfl
@[simp] theorem Core.setSeq_lastDrn (k : Core) (b : Nat) (cp : Bool) (q : Seq) : (k.setSeq b cp q).lastDrn = k.lastDrn := rfl
@[simp] theorem Core.setSeq_lda (k : Core) (b : Nat) (cp : Bool) (q : Seq) : (k.setSeq b cp q).lda = k.lda := rfl
@[simp] theorem Core.setSeq_slots (k : Core) (b : Nat) (cp : Bool) (q : Seq) : (k.setSeq b cp q).slots = k.slots := rfl
@[simp] theorem Core.setSeq_icache (k : Core) (b : Nat) (cp : Bool) (q : Seq) : (k.setSeq b cp q).icache = k.icache := rfl
@[simp] theorem Core.setSeq_fills (k : Core) (b : Nat) (cp : Bool) (q : Seq) : (k.setSeq b cp q).fills = k.fills := rfl
@[simp] theorem Core.setSeq_tlb (k : Core) (b : Nat) (cp : Bool) (q : Seq) : (k.setSeq b cp q).tlb = k.tlb := rfl
@[simp] theorem Core.setSeq_wfault (k : Core) (b : Nat) (cp : Bool) (q : Seq) : (k.setSeq b cp q).wfault = k.wfault := rfl
@[simp] theorem Core.setSeq_waiters (k : Core) (b : Nat) (cp : Bool) (q : Seq) : (k.setSeq b cp q).waiters = k.waiters := rfl
@[simp] theorem Core.setSeq_bars (k : Core) (b : Nat) (cp : Bool) (q : Seq) : (k.setSeq b cp q).bars = k.bars := rfl
@[simp] theorem Core.setSeq_cycle (k : Core) (b : Nat) (cp : Bool) (q : Seq) : (k.setSeq b cp q).cycle = k.cycle := rfl
@[simp] theorem Core.setSeq_chkrpl (k : Core) (b : Nat) (cp : Bool) (q : Seq) : (k.setSeq b cp q).chkrpl = k.chkrpl := rfl
@[simp] theorem Core.setSeq_upset (k : Core) (b : Nat) (cp : Bool) (q : Seq) : (k.setSeq b cp q).upset = k.upset := rfl

@[simp] theorem Warp.setSlice_live (w : Warp) (j : Nat) (x : Slice) : (w.setSlice j x).live = w.live := rfl
@[simp] theorem Warp.setSlice_uid (w : Warp) (j : Nat) (x : Slice) : (w.setSlice j x).uid = w.uid := rfl
@[simp] theorem Warp.setSlice_block (w : Warp) (j : Nat) (x : Slice) : (w.setSlice j x).block = w.block := rfl
@[simp] theorem Warp.setSlice_rank (w : Warp) (j : Nat) (x : Slice) : (w.setSlice j x).rank = w.rank := rfl
@[simp] theorem Warp.setSlice_nregs (w : Warp) (j : Nat) (x : Slice) : (w.setSlice j x).nregs = w.nregs := rfl
@[simp] theorem Warp.setSlice_rf (w : Warp) (j : Nat) (x : Slice) : (w.setSlice j x).rf = w.rf := rfl
@[simp] theorem Warp.setSlice_pg (w : Warp) (j : Nat) (x : Slice) : (w.setSlice j x).pg = w.pg := rfl
@[simp] theorem Warp.setSlice_pk (w : Warp) (j : Nat) (x : Slice) : (w.setSlice j x).pk = w.pk := rfl
@[simp] theorem Warp.setSlice_pp (w : Warp) (j : Nat) (x : Slice) : (w.setSlice j x).pp = w.pp := rfl
@[simp] theorem Warp.setSlice_rp (w : Warp) (j : Nat) (x : Slice) : (w.setSlice j x).rp = w.rp := rfl
@[simp] theorem Warp.setSlice_instret (w : Warp) (j : Nat) (x : Slice) : (w.setSlice j x).instret = w.instret := rfl
@[simp] theorem Warp.setSlice_pmsel (w : Warp) (j : Nat) (x : Slice) : (w.setSlice j x).pmsel = w.pmsel := rfl
@[simp] theorem Warp.setSlice_pmcnt (w : Warp) (j : Nat) (x : Slice) : (w.setSlice j x).pmcnt = w.pmcnt := rfl

@[simp] theorem Warp.modSlice_live (w : Warp) (j : Nat) (f : Slice → Slice) : (w.modSlice j f).live = w.live := rfl
@[simp] theorem Warp.modSlice_uid (w : Warp) (j : Nat) (f : Slice → Slice) : (w.modSlice j f).uid = w.uid := rfl
@[simp] theorem Warp.modSlice_block (w : Warp) (j : Nat) (f : Slice → Slice) : (w.modSlice j f).block = w.block := rfl
@[simp] theorem Warp.modSlice_rank (w : Warp) (j : Nat) (f : Slice → Slice) : (w.modSlice j f).rank = w.rank := rfl
@[simp] theorem Warp.modSlice_nregs (w : Warp) (j : Nat) (f : Slice → Slice) : (w.modSlice j f).nregs = w.nregs := rfl
@[simp] theorem Warp.modSlice_rf (w : Warp) (j : Nat) (f : Slice → Slice) : (w.modSlice j f).rf = w.rf := rfl
@[simp] theorem Warp.modSlice_pg (w : Warp) (j : Nat) (f : Slice → Slice) : (w.modSlice j f).pg = w.pg := rfl
@[simp] theorem Warp.modSlice_pk (w : Warp) (j : Nat) (f : Slice → Slice) : (w.modSlice j f).pk = w.pk := rfl
@[simp] theorem Warp.modSlice_pp (w : Warp) (j : Nat) (f : Slice → Slice) : (w.modSlice j f).pp = w.pp := rfl
@[simp] theorem Warp.modSlice_rp (w : Warp) (j : Nat) (f : Slice → Slice) : (w.modSlice j f).rp = w.rp := rfl
@[simp] theorem Warp.modSlice_instret (w : Warp) (j : Nat) (f : Slice → Slice) : (w.modSlice j f).instret = w.instret := rfl
@[simp] theorem Warp.modSlice_pmsel (w : Warp) (j : Nat) (f : Slice → Slice) : (w.modSlice j f).pmsel = w.pmsel := rfl
@[simp] theorem Warp.modSlice_pmcnt (w : Warp) (j : Nat) (f : Slice → Slice) : (w.modSlice j f).pmcnt = w.pmcnt := rfl

/-! ## The updates of the carve-out, the tags, the links and the mailboxes -/

/-- What a fold of changes leaves, each change leaves. -/
theorem State.foldl_keeps {α β : Type} (p : State → α) (l : List β) (f : State → β → State) (h : ∀ s x, p (f s x) = p s) (s : State) :
    p (l.foldl f s) = p s := by
  induction l generalizing s with
  | nil => rfl
  | cons x r ih => exact (ih _).trans (h s x)

@[simp] theorem State.deny_agenda (s : State) : (s.deny).agenda = s.agenda := rfl
@[simp] theorem State.deny_cur (s : State) : (s.deny).cur = s.cur := rfl
@[simp] theorem State.deny_focus (s : State) : (s.deny).focus = s.focus := rfl
@[simp] theorem State.deny_freeCtr (s : State) : (s.deny).freeCtr = s.freeCtr := rfl
@[simp] theorem State.deny_nextId (s : State) : (s.deny).nextId = s.nextId := rfl
@[simp] theorem State.deny_mem (s : State) : (s.deny).mem = s.mem := rfl
@[simp] theorem State.deny_fab (s : State) : (s.deny).fab = s.fab := rfl
@[simp] theorem State.deny_cores (s : State) : (s.deny).cores = s.cores := rfl
@[simp] theorem State.deny_regions (s : State) : (s.deny).regions = s.regions := rfl
@[simp] theorem State.deny_ctxs (s : State) : (s.deny).ctxs = s.ctxs := rfl
@[simp] theorem State.deny_launches (s : State) : (s.deny).launches = s.launches := rfl
@[simp] theorem State.deny_io (s : State) : (s.deny).io = s.io := rfl
@[simp] theorem State.deny_sched (s : State) : (s.deny).sched = s.sched := rfl

@[simp] theorem State.denyRead_agenda (s : State) (loc a len : Nat) : (s.denyRead loc a len).agenda = s.agenda := by unfold State.denyRead; split <;> rfl
@[simp] theorem State.denyRead_cur (s : State) (loc a len : Nat) : (s.denyRead loc a len).cur = s.cur := by unfold State.denyRead; split <;> rfl
@[simp] theorem State.denyRead_focus (s : State) (loc a len : Nat) : (s.denyRead loc a len).focus = s.focus := by unfold State.denyRead; split <;> rfl
@[simp] theorem State.denyRead_freeCtr (s : State) (loc a len : Nat) : (s.denyRead loc a len).freeCtr = s.freeCtr := by unfold State.denyRead; split <;> rfl
@[simp] theorem State.denyRead_nextId (s : State) (loc a len : Nat) : (s.denyRead loc a len).nextId = s.nextId := by unfold State.denyRead; split <;> rfl
@[simp] theorem State.denyRead_mem (s : State) (loc a len : Nat) : (s.denyRead loc a len).mem = s.mem := by unfold State.denyRead; split <;> rfl
@[simp] theorem State.denyRead_fab (s : State) (loc a len : Nat) : (s.denyRead loc a len).fab = s.fab := by unfold State.denyRead; split <;> rfl
@[simp] theorem State.denyRead_cores (s : State) (loc a len : Nat) : (s.denyRead loc a len).cores = s.cores := by unfold State.denyRead; split <;> rfl
@[simp] theorem State.denyRead_regions (s : State) (loc a len : Nat) : (s.denyRead loc a len).regions = s.regions := by unfold State.denyRead; split <;> rfl
@[simp] theorem State.denyRead_ctxs (s : State) (loc a len : Nat) : (s.denyRead loc a len).ctxs = s.ctxs := by unfold State.denyRead; split <;> rfl
@[simp] theorem State.denyRead_launches (s : State) (loc a len : Nat) : (s.denyRead loc a len).launches = s.launches := by unfold State.denyRead; split <;> rfl
@[simp] theorem State.denyRead_io (s : State) (loc a len : Nat) : (s.denyRead loc a len).io = s.io := by unfold State.denyRead; split <;> rfl
@[simp] theorem State.denyRead_sched (s : State) (loc a len : Nat) : (s.denyRead loc a len).sched = s.sched := by unfold State.denyRead; split <;> rfl

@[simp] theorem State.gcmLine_agenda (s : State) (line : Nat) : (s.gcmLine line).agenda = s.agenda := by unfold State.gcmLine; dsimp only; split <;> rfl
@[simp] theorem State.gcmLine_cur (s : State) (line : Nat) : (s.gcmLine line).cur = s.cur := by unfold State.gcmLine; dsimp only; split <;> rfl
@[simp] theorem State.gcmLine_focus (s : State) (line : Nat) : (s.gcmLine line).focus = s.focus := by unfold State.gcmLine; dsimp only; split <;> rfl
@[simp] theorem State.gcmLine_freeCtr (s : State) (line : Nat) : (s.gcmLine line).freeCtr = s.freeCtr := by unfold State.gcmLine; dsimp only; split <;> rfl
@[simp] theorem State.gcmLine_nextId (s : State) (line : Nat) : (s.gcmLine line).nextId = s.nextId := by unfold State.gcmLine; dsimp only; split <;> rfl
@[simp] theorem State.gcmLine_fab (s : State) (line : Nat) : (s.gcmLine line).fab = s.fab := by unfold State.gcmLine; dsimp only; split <;> rfl
@[simp] theorem State.gcmLine_cores (s : State) (line : Nat) : (s.gcmLine line).cores = s.cores := by unfold State.gcmLine; dsimp only; split <;> rfl
@[simp] theorem State.gcmLine_regions (s : State) (line : Nat) : (s.gcmLine line).regions = s.regions := by unfold State.gcmLine; dsimp only; split <;> rfl
@[simp] theorem State.gcmLine_ctxs (s : State) (line : Nat) : (s.gcmLine line).ctxs = s.ctxs := by unfold State.gcmLine; dsimp only; split <;> rfl
@[simp] theorem State.gcmLine_launches (s : State) (line : Nat) : (s.gcmLine line).launches = s.launches := by unfold State.gcmLine; dsimp only; split <;> rfl
@[simp] theorem State.gcmLine_io (s : State) (line : Nat) : (s.gcmLine line).io = s.io := by unfold State.gcmLine; dsimp only; split <;> rfl
@[simp] theorem State.gcmLine_sched (s : State) (line : Nat) : (s.gcmLine line).sched = s.sched := by unfold State.gcmLine; dsimp only; split <;> rfl

@[simp] theorem State.gcmWrote_agenda (s : State) (loc a len : Nat) : (s.gcmWrote loc a len).agenda = s.agenda := by
  unfold State.gcmWrote
  split
  · exact State.foldl_keeps (·.agenda) _ _ (fun t x => by simp) s
  · rfl
@[simp] theorem State.gcmWrote_cur (s : State) (loc a len : Nat) : (s.gcmWrote loc a len).cur = s.cur := by
  unfold State.gcmWrote
  split
  · exact State.foldl_keeps (·.cur) _ _ (fun t x => by simp) s
  · rfl
@[simp] theorem State.gcmWrote_focus (s : State) (loc a len : Nat) : (s.gcmWrote loc a len).focus = s.focus := by
  unfold State.gcmWrote
  split
  · exact State.foldl_keeps (·.focus) _ _ (fun t x => by simp) s
  · rfl
@[simp] theorem State.gcmWrote_freeCtr (s : State) (loc a len : Nat) : (s.gcmWrote loc a len).freeCtr = s.freeCtr := by
  unfold State.gcmWrote
  split
  · exact State.foldl_keeps (·.freeCtr) _ _ (fun t x => by simp) s
  · rfl
@[simp] theorem State.gcmWrote_nextId (s : State) (loc a len : Nat) : (s.gcmWrote loc a len).nextId = s.nextId := by
  unfold State.gcmWrote
  split
  · exact State.foldl_keeps (·.nextId) _ _ (fun t x => by simp) s
  · rfl
@[simp] theorem State.gcmWrote_fab (s : State) (loc a len : Nat) : (s.gcmWrote loc a len).fab = s.fab := by
  unfold State.gcmWrote
  split
  · exact State.foldl_keeps (·.fab) _ _ (fun t x => by simp) s
  · rfl
@[simp] theorem State.gcmWrote_cores (s : State) (loc a len : Nat) : (s.gcmWrote loc a len).cores = s.cores := by
  unfold State.gcmWrote
  split
  · exact State.foldl_keeps (·.cores) _ _ (fun t x => by simp) s
  · rfl
@[simp] theorem State.gcmWrote_regions (s : State) (loc a len : Nat) : (s.gcmWrote loc a len).regions = s.regions := by
  unfold State.gcmWrote
  split
  · exact State.foldl_keeps (·.regions) _ _ (fun t x => by simp) s
  · rfl
@[simp] theorem State.gcmWrote_ctxs (s : State) (loc a len : Nat) : (s.gcmWrote loc a len).ctxs = s.ctxs := by
  unfold State.gcmWrote
  split
  · exact State.foldl_keeps (·.ctxs) _ _ (fun t x => by simp) s
  · rfl
@[simp] theorem State.gcmWrote_launches (s : State) (loc a len : Nat) : (s.gcmWrote loc a len).launches = s.launches := by
  unfold State.gcmWrote
  split
  · exact State.foldl_keeps (·.launches) _ _ (fun t x => by simp) s
  · rfl
@[simp] theorem State.gcmWrote_io (s : State) (loc a len : Nat) : (s.gcmWrote loc a len).io = s.io := by
  unfold State.gcmWrote
  split
  · exact State.foldl_keeps (·.io) _ _ (fun t x => by simp) s
  · rfl
@[simp] theorem State.gcmWrote_sched (s : State) (loc a len : Nat) : (s.gcmWrote loc a len).sched = s.sched := by
  unfold State.gcmWrote
  split
  · exact State.foldl_keeps (·.sched) _ _ (fun t x => by simp) s
  · rfl

@[simp] theorem State.writeMem_agenda (s : State) (loc a : Nat) (bs : List Byte) : (s.writeMem loc a bs).agenda = s.agenda := by
  unfold State.writeMem
  split
  · exact (State.gcmWrote_agenda ..).trans rfl
  · rw [State.gcmWrote_agenda]
@[simp] theorem State.writeMem_cur (s : State) (loc a : Nat) (bs : List Byte) : (s.writeMem loc a bs).cur = s.cur := by
  unfold State.writeMem
  split
  · exact (State.gcmWrote_cur ..).trans rfl
  · rw [State.gcmWrote_cur]
@[simp] theorem State.writeMem_focus (s : State) (loc a : Nat) (bs : List Byte) : (s.writeMem loc a bs).focus = s.focus := by
  unfold State.writeMem
  split
  · exact (State.gcmWrote_focus ..).trans rfl
  · rw [State.gcmWrote_focus]
@[simp] theorem State.writeMem_freeCtr (s : State) (loc a : Nat) (bs : List Byte) : (s.writeMem loc a bs).freeCtr = s.freeCtr := by
  unfold State.writeMem
  split
  · exact (State.gcmWrote_freeCtr ..).trans rfl
  · rw [State.gcmWrote_freeCtr]
@[simp] theorem State.writeMem_nextId (s : State) (loc a : Nat) (bs : List Byte) : (s.writeMem loc a bs).nextId = s.nextId := by
  unfold State.writeMem
  split
  · exact (State.gcmWrote_nextId ..).trans rfl
  · rw [State.gcmWrote_nextId]
@[simp] theorem State.writeMem_fab (s : State) (loc a : Nat) (bs : List Byte) : (s.writeMem loc a bs).fab = s.fab := by
  unfold State.writeMem
  split
  · exact (State.gcmWrote_fab ..).trans rfl
  · rw [State.gcmWrote_fab]
@[simp] theorem State.writeMem_cores (s : State) (loc a : Nat) (bs : List Byte) : (s.writeMem loc a bs).cores = s.cores := by
  unfold State.writeMem
  split
  · exact (State.gcmWrote_cores ..).trans rfl
  · rw [State.gcmWrote_cores]
@[simp] theorem State.writeMem_regions (s : State) (loc a : Nat) (bs : List Byte) : (s.writeMem loc a bs).regions = s.regions := by
  unfold State.writeMem
  split
  · exact (State.gcmWrote_regions ..).trans rfl
  · rw [State.gcmWrote_regions]
@[simp] theorem State.writeMem_ctxs (s : State) (loc a : Nat) (bs : List Byte) : (s.writeMem loc a bs).ctxs = s.ctxs := by
  unfold State.writeMem
  split
  · exact (State.gcmWrote_ctxs ..).trans rfl
  · rw [State.gcmWrote_ctxs]
@[simp] theorem State.writeMem_launches (s : State) (loc a : Nat) (bs : List Byte) : (s.writeMem loc a bs).launches = s.launches := by
  unfold State.writeMem
  split
  · exact (State.gcmWrote_launches ..).trans rfl
  · rw [State.gcmWrote_launches]
@[simp] theorem State.writeMem_io (s : State) (loc a : Nat) (bs : List Byte) : (s.writeMem loc a bs).io = s.io := by
  unfold State.writeMem
  split
  · exact (State.gcmWrote_io ..).trans rfl
  · rw [State.gcmWrote_io]
@[simp] theorem State.writeMem_sched (s : State) (loc a : Nat) (bs : List Byte) : (s.writeMem loc a bs).sched = s.sched := by
  unfold State.writeMem
  split
  · exact (State.gcmWrote_sched ..).trans rfl
  · rw [State.gcmWrote_sched]

@[simp] theorem State.poisonMem_agenda (s : State) (loc g : Nat) : (s.poisonMem loc g).agenda = s.agenda := by unfold State.poisonMem; split <;> rfl
@[simp] theorem State.poisonMem_cur (s : State) (loc g : Nat) : (s.poisonMem loc g).cur = s.cur := by unfold State.poisonMem; split <;> rfl
@[simp] theorem State.poisonMem_focus (s : State) (loc g : Nat) : (s.poisonMem loc g).focus = s.focus := by unfold State.poisonMem; split <;> rfl
@[simp] theorem State.poisonMem_freeCtr (s : State) (loc g : Nat) : (s.poisonMem loc g).freeCtr = s.freeCtr := by unfold State.poisonMem; split <;> rfl
@[simp] theorem State.poisonMem_nextId (s : State) (loc g : Nat) : (s.poisonMem loc g).nextId = s.nextId := by unfold State.poisonMem; split <;> rfl
@[simp] theorem State.poisonMem_fab (s : State) (loc g : Nat) : (s.poisonMem loc g).fab = s.fab := by unfold State.poisonMem; split <;> rfl
@[simp] theorem State.poisonMem_cores (s : State) (loc g : Nat) : (s.poisonMem loc g).cores = s.cores := by unfold State.poisonMem; split <;> rfl
@[simp] theorem State.poisonMem_regions (s : State) (loc g : Nat) : (s.poisonMem loc g).regions = s.regions := by unfold State.poisonMem; split <;> rfl
@[simp] theorem State.poisonMem_ctxs (s : State) (loc g : Nat) : (s.poisonMem loc g).ctxs = s.ctxs := by unfold State.poisonMem; split <;> rfl
@[simp] theorem State.poisonMem_launches (s : State) (loc g : Nat) : (s.poisonMem loc g).launches = s.launches := by unfold State.poisonMem; split <;> rfl
@[simp] theorem State.poisonMem_io (s : State) (loc g : Nat) : (s.poisonMem loc g).io = s.io := by unfold State.poisonMem; split <;> rfl
@[simp] theorem State.poisonMem_sched (s : State) (loc g : Nat) : (s.poisonMem loc g).sched = s.sched := by unfold State.poisonMem; split <;> rfl
@[simp] theorem State.poisonMem_mon (s : State) (loc g : Nat) : (s.poisonMem loc g).mon = s.mon := by unfold State.poisonMem; split <;> rfl

@[simp] theorem State.sendTo_agenda (s : State) (dev : Nat) (m : FabricMsg) : (s.sendTo dev m).agenda = s.agenda := by unfold State.sendTo; split <;> rfl
@[simp] theorem State.sendTo_cur (s : State) (dev : Nat) (m : FabricMsg) : (s.sendTo dev m).cur = s.cur := by unfold State.sendTo; split <;> rfl
@[simp] theorem State.sendTo_focus (s : State) (dev : Nat) (m : FabricMsg) : (s.sendTo dev m).focus = s.focus := by unfold State.sendTo; split <;> rfl
@[simp] theorem State.sendTo_freeCtr (s : State) (dev : Nat) (m : FabricMsg) : (s.sendTo dev m).freeCtr = s.freeCtr := by unfold State.sendTo; split <;> rfl
@[simp] theorem State.sendTo_nextId (s : State) (dev : Nat) (m : FabricMsg) : (s.sendTo dev m).nextId = s.nextId := by unfold State.sendTo; split <;> rfl
@[simp] theorem State.sendTo_mem (s : State) (dev : Nat) (m : FabricMsg) : (s.sendTo dev m).mem = s.mem := by unfold State.sendTo; split <;> rfl
@[simp] theorem State.sendTo_fab (s : State) (dev : Nat) (m : FabricMsg) : (s.sendTo dev m).fab = s.fab := by unfold State.sendTo; split <;> rfl
@[simp] theorem State.sendTo_cores (s : State) (dev : Nat) (m : FabricMsg) : (s.sendTo dev m).cores = s.cores := by unfold State.sendTo; split <;> rfl
@[simp] theorem State.sendTo_regions (s : State) (dev : Nat) (m : FabricMsg) : (s.sendTo dev m).regions = s.regions := by unfold State.sendTo; split <;> rfl
@[simp] theorem State.sendTo_ctxs (s : State) (dev : Nat) (m : FabricMsg) : (s.sendTo dev m).ctxs = s.ctxs := by unfold State.sendTo; split <;> rfl
@[simp] theorem State.sendTo_launches (s : State) (dev : Nat) (m : FabricMsg) : (s.sendTo dev m).launches = s.launches := by unfold State.sendTo; split <;> rfl
@[simp] theorem State.sendTo_sched (s : State) (dev : Nat) (m : FabricMsg) : (s.sendTo dev m).sched = s.sched := by unfold State.sendTo; split <;> rfl
@[simp] theorem State.sendTo_mon (s : State) (dev : Nat) (m : FabricMsg) : (s.sendTo dev m).mon = s.mon := by unfold State.sendTo; split <;> rfl

@[simp] theorem State.mirrorPut_agenda (s : State) (id : Nat) (makers : List (Nat × BitVec 8)) (h : Home) (bs : List Byte) : (s.mirrorPut id makers h bs).agenda = s.agenda := by
  unfold State.mirrorPut; dsimp only; split
  · split
    · rfl
    · rfl
  · rfl
@[simp] theorem State.mirrorPut_cur (s : State) (id : Nat) (makers : List (Nat × BitVec 8)) (h : Home) (bs : List Byte) : (s.mirrorPut id makers h bs).cur = s.cur := by
  unfold State.mirrorPut; dsimp only; split
  · split
    · rfl
    · rfl
  · rfl
@[simp] theorem State.mirrorPut_focus (s : State) (id : Nat) (makers : List (Nat × BitVec 8)) (h : Home) (bs : List Byte) : (s.mirrorPut id makers h bs).focus = s.focus := by
  unfold State.mirrorPut; dsimp only; split
  · split
    · rfl
    · rfl
  · rfl
@[simp] theorem State.mirrorPut_freeCtr (s : State) (id : Nat) (makers : List (Nat × BitVec 8)) (h : Home) (bs : List Byte) : (s.mirrorPut id makers h bs).freeCtr = s.freeCtr := by
  unfold State.mirrorPut; dsimp only; split
  · split
    · rfl
    · rfl
  · rfl
@[simp] theorem State.mirrorPut_nextId (s : State) (id : Nat) (makers : List (Nat × BitVec 8)) (h : Home) (bs : List Byte) : (s.mirrorPut id makers h bs).nextId = s.nextId := by
  unfold State.mirrorPut; dsimp only; split
  · split
    · rfl
    · rfl
  · rfl
@[simp] theorem State.mirrorPut_mem (s : State) (id : Nat) (makers : List (Nat × BitVec 8)) (h : Home) (bs : List Byte) : (s.mirrorPut id makers h bs).mem = s.mem := by
  unfold State.mirrorPut; dsimp only; split
  · split
    · rfl
    · rfl
  · rfl
@[simp] theorem State.mirrorPut_cores (s : State) (id : Nat) (makers : List (Nat × BitVec 8)) (h : Home) (bs : List Byte) : (s.mirrorPut id makers h bs).cores = s.cores := by
  unfold State.mirrorPut; dsimp only; split
  · split
    · rfl
    · rfl
  · rfl
@[simp] theorem State.mirrorPut_regions (s : State) (id : Nat) (makers : List (Nat × BitVec 8)) (h : Home) (bs : List Byte) : (s.mirrorPut id makers h bs).regions = s.regions := by
  unfold State.mirrorPut; dsimp only; split
  · split
    · rfl
    · rfl
  · rfl
@[simp] theorem State.mirrorPut_ctxs (s : State) (id : Nat) (makers : List (Nat × BitVec 8)) (h : Home) (bs : List Byte) : (s.mirrorPut id makers h bs).ctxs = s.ctxs := by
  unfold State.mirrorPut; dsimp only; split
  · split
    · rfl
    · rfl
  · rfl
@[simp] theorem State.mirrorPut_launches (s : State) (id : Nat) (makers : List (Nat × BitVec 8)) (h : Home) (bs : List Byte) : (s.mirrorPut id makers h bs).launches = s.launches := by
  unfold State.mirrorPut; dsimp only; split
  · split
    · rfl
    · rfl
  · rfl
@[simp] theorem State.mirrorPut_sched (s : State) (id : Nat) (makers : List (Nat × BitVec 8)) (h : Home) (bs : List Byte) : (s.mirrorPut id makers h bs).sched = s.sched := by
  unfold State.mirrorPut; dsimp only; split
  · split
    · rfl
    · rfl
  · rfl
@[simp] theorem State.mirrorPut_mon (s : State) (id : Nat) (makers : List (Nat × BitVec 8)) (h : Home) (bs : List Byte) : (s.mirrorPut id makers h bs).mon = s.mon := by
  unfold State.mirrorPut; dsimp only; split
  · split
    · rfl
    · rfl
  · rfl

@[simp] theorem State.setBuf_agenda (s : State) (mb : Mailbox) (b : Sparse Byte) : (s.setBuf mb b).agenda = s.agenda := by cases mb <;> rfl
@[simp] theorem State.setBuf_cur (s : State) (mb : Mailbox) (b : Sparse Byte) : (s.setBuf mb b).cur = s.cur := by cases mb <;> rfl
@[simp] theorem State.setBuf_focus (s : State) (mb : Mailbox) (b : Sparse Byte) : (s.setBuf mb b).focus = s.focus := by cases mb <;> rfl
@[simp] theorem State.setBuf_freeCtr (s : State) (mb : Mailbox) (b : Sparse Byte) : (s.setBuf mb b).freeCtr = s.freeCtr := by cases mb <;> rfl
@[simp] theorem State.setBuf_nextId (s : State) (mb : Mailbox) (b : Sparse Byte) : (s.setBuf mb b).nextId = s.nextId := by cases mb <;> rfl
@[simp] theorem State.setBuf_mem (s : State) (mb : Mailbox) (b : Sparse Byte) : (s.setBuf mb b).mem = s.mem := by cases mb <;> rfl
@[simp] theorem State.setBuf_fab (s : State) (mb : Mailbox) (b : Sparse Byte) : (s.setBuf mb b).fab = s.fab := by cases mb <;> rfl
@[simp] theorem State.setBuf_cores (s : State) (mb : Mailbox) (b : Sparse Byte) : (s.setBuf mb b).cores = s.cores := by cases mb <;> rfl
@[simp] theorem State.setBuf_regions (s : State) (mb : Mailbox) (b : Sparse Byte) : (s.setBuf mb b).regions = s.regions := by cases mb <;> rfl
@[simp] theorem State.setBuf_ctxs (s : State) (mb : Mailbox) (b : Sparse Byte) : (s.setBuf mb b).ctxs = s.ctxs := by cases mb <;> rfl
@[simp] theorem State.setBuf_launches (s : State) (mb : Mailbox) (b : Sparse Byte) : (s.setBuf mb b).launches = s.launches := by cases mb <;> rfl
@[simp] theorem State.setBuf_io (s : State) (mb : Mailbox) (b : Sparse Byte) : (s.setBuf mb b).io = s.io := by cases mb <;> rfl
@[simp] theorem State.setBuf_sched (s : State) (mb : Mailbox) (b : Sparse Byte) : (s.setBuf mb b).sched = s.sched := by cases mb <;> rfl

@[simp] theorem State.setStatus_agenda (s : State) (mb : Mailbox) (st : Nat) : (s.setStatus mb st).agenda = s.agenda := by cases mb <;> rfl
@[simp] theorem State.setStatus_cur (s : State) (mb : Mailbox) (st : Nat) : (s.setStatus mb st).cur = s.cur := by cases mb <;> rfl
@[simp] theorem State.setStatus_focus (s : State) (mb : Mailbox) (st : Nat) : (s.setStatus mb st).focus = s.focus := by cases mb <;> rfl
@[simp] theorem State.setStatus_freeCtr (s : State) (mb : Mailbox) (st : Nat) : (s.setStatus mb st).freeCtr = s.freeCtr := by cases mb <;> rfl
@[simp] theorem State.setStatus_nextId (s : State) (mb : Mailbox) (st : Nat) : (s.setStatus mb st).nextId = s.nextId := by cases mb <;> rfl
@[simp] theorem State.setStatus_mem (s : State) (mb : Mailbox) (st : Nat) : (s.setStatus mb st).mem = s.mem := by cases mb <;> rfl
@[simp] theorem State.setStatus_fab (s : State) (mb : Mailbox) (st : Nat) : (s.setStatus mb st).fab = s.fab := by cases mb <;> rfl
@[simp] theorem State.setStatus_cores (s : State) (mb : Mailbox) (st : Nat) : (s.setStatus mb st).cores = s.cores := by cases mb <;> rfl
@[simp] theorem State.setStatus_regions (s : State) (mb : Mailbox) (st : Nat) : (s.setStatus mb st).regions = s.regions := by cases mb <;> rfl
@[simp] theorem State.setStatus_ctxs (s : State) (mb : Mailbox) (st : Nat) : (s.setStatus mb st).ctxs = s.ctxs := by cases mb <;> rfl
@[simp] theorem State.setStatus_launches (s : State) (mb : Mailbox) (st : Nat) : (s.setStatus mb st).launches = s.launches := by cases mb <;> rfl
@[simp] theorem State.setStatus_io (s : State) (mb : Mailbox) (st : Nat) : (s.setStatus mb st).io = s.io := by cases mb <;> rfl
@[simp] theorem State.setStatus_sched (s : State) (mb : Mailbox) (st : Nat) : (s.setStatus mb st).sched = s.sched := by cases mb <;> rfl

@[simp] theorem State.setCmd_agenda (s : State) (mb : Mailbox) (code : Word) : (s.setCmd mb code).agenda = s.agenda := by cases mb <;> rfl
@[simp] theorem State.setCmd_cur (s : State) (mb : Mailbox) (code : Word) : (s.setCmd mb code).cur = s.cur := by cases mb <;> rfl
@[simp] theorem State.setCmd_focus (s : State) (mb : Mailbox) (code : Word) : (s.setCmd mb code).focus = s.focus := by cases mb <;> rfl
@[simp] theorem State.setCmd_freeCtr (s : State) (mb : Mailbox) (code : Word) : (s.setCmd mb code).freeCtr = s.freeCtr := by cases mb <;> rfl
@[simp] theorem State.setCmd_nextId (s : State) (mb : Mailbox) (code : Word) : (s.setCmd mb code).nextId = s.nextId := by cases mb <;> rfl
@[simp] theorem State.setCmd_mem (s : State) (mb : Mailbox) (code : Word) : (s.setCmd mb code).mem = s.mem := by cases mb <;> rfl
@[simp] theorem State.setCmd_fab (s : State) (mb : Mailbox) (code : Word) : (s.setCmd mb code).fab = s.fab := by cases mb <;> rfl
@[simp] theorem State.setCmd_cores (s : State) (mb : Mailbox) (code : Word) : (s.setCmd mb code).cores = s.cores := by cases mb <;> rfl
@[simp] theorem State.setCmd_regions (s : State) (mb : Mailbox) (code : Word) : (s.setCmd mb code).regions = s.regions := by cases mb <;> rfl
@[simp] theorem State.setCmd_ctxs (s : State) (mb : Mailbox) (code : Word) : (s.setCmd mb code).ctxs = s.ctxs := by cases mb <;> rfl
@[simp] theorem State.setCmd_launches (s : State) (mb : Mailbox) (code : Word) : (s.setCmd mb code).launches = s.launches := by cases mb <;> rfl
@[simp] theorem State.setCmd_io (s : State) (mb : Mailbox) (code : Word) : (s.setCmd mb code).io = s.io := by cases mb <;> rfl
@[simp] theorem State.setCmd_sched (s : State) (mb : Mailbox) (code : Word) : (s.setCmd mb code).sched = s.sched := by cases mb <;> rfl

@[simp] theorem State.ring_agenda (s : State) (mb : Mailbox) (code : Word) : (s.ring mb code).agenda = s.agenda := by cases mb <;> rfl
@[simp] theorem State.ring_cur (s : State) (mb : Mailbox) (code : Word) : (s.ring mb code).cur = s.cur := by cases mb <;> rfl
@[simp] theorem State.ring_focus (s : State) (mb : Mailbox) (code : Word) : (s.ring mb code).focus = s.focus := by cases mb <;> rfl
@[simp] theorem State.ring_freeCtr (s : State) (mb : Mailbox) (code : Word) : (s.ring mb code).freeCtr = s.freeCtr := by cases mb <;> rfl
@[simp] theorem State.ring_nextId (s : State) (mb : Mailbox) (code : Word) : (s.ring mb code).nextId = s.nextId := by cases mb <;> rfl
@[simp] theorem State.ring_mem (s : State) (mb : Mailbox) (code : Word) : (s.ring mb code).mem = s.mem := by cases mb <;> rfl
@[simp] theorem State.ring_fab (s : State) (mb : Mailbox) (code : Word) : (s.ring mb code).fab = s.fab := by cases mb <;> rfl
@[simp] theorem State.ring_cores (s : State) (mb : Mailbox) (code : Word) : (s.ring mb code).cores = s.cores := by cases mb <;> rfl
@[simp] theorem State.ring_regions (s : State) (mb : Mailbox) (code : Word) : (s.ring mb code).regions = s.regions := by cases mb <;> rfl
@[simp] theorem State.ring_ctxs (s : State) (mb : Mailbox) (code : Word) : (s.ring mb code).ctxs = s.ctxs := by cases mb <;> rfl
@[simp] theorem State.ring_launches (s : State) (mb : Mailbox) (code : Word) : (s.ring mb code).launches = s.launches := by cases mb <;> rfl
@[simp] theorem State.ring_io (s : State) (mb : Mailbox) (code : Word) : (s.ring mb code).io = s.io := by cases mb <;> rfl
@[simp] theorem State.ring_sched (s : State) (mb : Mailbox) (code : Word) : (s.ring mb code).sched = s.sched := by cases mb <;> rfl

/-! ## What is read of the part that changes -/

theorem State.core_setCore (s : State) (c : Nat) (k : Core) (d : Nat) : (s.setCore c k).core d = if d = c then k else s.core d :=
  Sparse.get_set _ _ _ _ _

@[simp] theorem State.core_setCore_self (s : State) (c : Nat) (k : Core) : (s.setCore c k).core c = k := by simp [State.core_setCore]

theorem State.core_modCore (s : State) (c : Nat) (f : Core → Core) (d : Nat) :
    (s.modCore c f).core d = if d = c then f (s.core c) else s.core d := State.core_setCore s c _ d

@[simp] theorem State.core_modCore_self (s : State) (c : Nat) (f : Core → Core) : (s.modCore c f).core c = f (s.core c) := by
  simp [State.core_modCore]

theorem Core.warp_setWarp (k : Core) (w : Nat) (x : Warp) (v : Nat) : (k.setWarp w x).warp v = if v = w then x else k.warp v :=
  Sparse.get_set _ _ _ _ _

theorem Core.warp_modWarp (k : Core) (w : Nat) (f : Warp → Warp) (v : Nat) :
    (k.modWarp w f).warp v = if v = w then f (k.warp w) else k.warp v := Core.warp_setWarp k w _ v

@[simp] theorem Core.warp_modWarp_self (k : Core) (w : Nat) (f : Warp → Warp) : (k.modWarp w f).warp w = f (k.warp w) := by
  simp [Core.warp_modWarp]

@[simp] theorem Core.block_modWarp (k : Core) (w : Nat) (f : Warp → Warp) (b : Nat) : (k.modWarp w f).block b = k.block b := rfl

theorem Core.block_setBlock (k : Core) (b : Nat) (x : Block) (a : Nat) : (k.setBlock b x).block a = if a = b then x else k.block a :=
  Sparse.get_set _ _ _ _ _

theorem Core.block_modBlock (k : Core) (b : Nat) (f : Block → Block) (a : Nat) :
    (k.modBlock b f).block a = if a = b then f (k.block b) else k.block a := Core.block_setBlock k b _ a

@[simp] theorem Core.warp_modBlock (k : Core) (b : Nat) (f : Block → Block) (w : Nat) : (k.modBlock b f).warp w = k.warp w := rfl

theorem Warp.slice_setSlice (w : Warp) (j : Nat) (x : Slice) (i : Nat) : (w.setSlice j x).slice i = if i = j then x else w.slice i :=
  Sparse.get_set _ _ _ _ _

theorem Warp.slice_modSlice (w : Warp) (j : Nat) (f : Slice → Slice) (i : Nat) :
    (w.modSlice j f).slice i = if i = j then f (w.slice j) else w.slice i := Warp.slice_setSlice w j _ i

theorem Block.seq_setSeq (b : Block) (cp : Bool) (q : Seq) (d : Bool) : (b.setSeq cp q).seq d = if d = cp then q else b.seq d := by
  cases cp <;> cases d <;> rfl

theorem Core.seq_setSeq (k : Core) (b : Nat) (cp : Bool) (q : Seq) (a : Nat) (d : Bool) :
    (k.setSeq b cp q).seq a d = if a = b ∧ d = cp then q else k.seq a d := by
  unfold Core.setSeq Core.seq
  rw [Core.block_modBlock]
  by_cases h : a = b
  · subst h; simp [Block.seq_setSeq]
  · simp [h]

theorem State.warp_modWarp (s : State) (c w : Nat) (f : Warp → Warp) (d v : Nat) :
    (s.modWarp c w f).warp d v = if d = c ∧ v = w then f (s.warp c w) else s.warp d v := by
  unfold State.modWarp State.warp
  rw [State.core_modCore]
  by_cases h : d = c
  · subst h; simp [Core.warp_modWarp]
  · simp [h]

@[simp] theorem State.block_modWarp (s : State) (c w : Nat) (f : Warp → Warp) (d b : Nat) :
    ((s.modWarp c w f).core d).block b = (s.core d).block b := by
  unfold State.modWarp
  rw [State.core_modCore]
  split
  · next h => subst h; rfl
  · rfl

theorem State.seq_setSeq (s : State) (c b : Nat) (cp : Bool) (q : Seq) (d a : Nat) (e : Bool) :
    ((s.setSeq c b cp q).core d).seq a e = if d = c ∧ a = b ∧ e = cp then q else (s.core d).seq a e := by
  unfold State.setSeq
  rw [State.core_modCore]
  by_cases h : d = c
  · subst h; simp [Core.seq_setSeq]
  · simp [h]

@[simp] theorem State.warp_setSeq (s : State) (c b : Nat) (cp : Bool) (q : Seq) (d w : Nat) :
    (s.setSeq c b cp q).warp d w = s.warp d w := by
  unfold State.setSeq State.warp
  rw [State.core_modCore]
  split
  · next h => subst h; rfl
  · rfl

theorem State.rf_setRF (s : State) (c w : Nat) (r : RF) (d v : Nat) :
    ((s.setRF c w r).warp d v).rf = if d = c ∧ v = w then r else (s.warp d v).rf := by
  unfold State.setRF
  rw [State.warp_modWarp]
  split <;> rfl

theorem State.ctx_modCtx (s : State) (n : Nat) (f : Ctx → Ctx) (m : Nat) :
    (s.modCtx n f).ctx m = if m = n then f (s.ctx n) else s.ctx m := Sparse.get_modify _ _ _ _ _

theorem State.region_modRegion (s : State) (n : Nat) (f : Region → Region) (m : Nat) :
    (s.modRegion n f).region m = if m = n then f (s.region n) else s.region m := Sparse.get_modify _ _ _ _ _

theorem State.launch_modLaunch (s : State) (n : Nat) (f : Launch → Launch) (m : Nat) :
    (s.modLaunch n f).launch m = if m = n then f (s.launch n) else s.launch m := Sparse.get_modify _ _ _ _ _

theorem State.schedCore_modSched (s : State) (n : Nat) (f : Sched → Sched) (m : Nat) :
    (s.modSched n f).schedCore m = if m = n then f (s.schedCore n) else s.schedCore m := Sparse.get_modify _ _ _ _ _

theorem State.port_modLink (s : State) (n : Nat) (f : Link → Link) (m : Nat) :
    (s.modLink n f).port m = if m = n then f (s.port n) else s.port m := Sparse.get_modify _ _ _ _ _

end Sys2Proof.Machine
end

