-- ==== Sys2Proof/Laws/Issue.lean ====
section
/-!
SUPPORT. An instruction issued by a gang, by a sequencer or by either is its meaning, completed: what the provers cite instead of
unfolding the issue.
-/

namespace Sys2Proof.Machine

/-- In a sound state no codeword of a core, and none of a warp's registers, is wrong. -/
theorem State.sound_core {s : State} (h : s.sound = true) (c : Nat) : (s.core c).bad = [] := by
  rcases Sparse.get_mem Core.reset s.cores c with e | e
  · rw [State.core, e]; rfl
  · exact List.isEmpty_iff.mp (Bool.and_eq_true_iff.mp (List.all_eq_true.mp h _ e)).1

theorem State.sound_warp {s : State} (h : s.sound = true) (c w : Nat) : (s.warp c w).bad = [] := by
  rcases Sparse.get_mem Core.reset s.cores c with e | e
  · rw [State.warp, State.core, e]; rfl
  · rcases Sparse.get_mem Warp.absent (s.core c).warps w with e' | e'
    · rw [State.warp, Core.warp, e']; rfl
    · exact List.isEmpty_iff.mp (List.all_eq_true.mp (Bool.and_eq_true_iff.mp (List.all_eq_true.mp h _ e)).2 _ e')

/-- In a sound state the reads of the pool find nothing (R75). -/
theorem State.meetScr_sound {s : State} (h : s.sound = true) (c ofs len : Nat) : s.meetScr c ofs len = s := by
  simp [State.meetScr, State.sound_core h]

theorem State.meetAcc_sound {s : State} (h : s.sound = true) (c : Nat) (es : List Nat) : s.meetAcc c es = s := by
  simp [State.meetAcc, State.sound_core h]

theorem State.meetRegs_sound {s : State} (h : s.sound = true) (c w : Nat) (rows : List Nat) : s.meetRegs c w rows = s := by
  simp [State.meetRegs, State.sound_warp h]

/-- What a ready gang is. -/
theorem State.gangReady_iff (s : State) (c w j : Nat) (i : Instr) :
    s.gangReady c w j i = true ↔ s.cur = .gang c w j ∧ s.gangRuns c w j = true ∧ legal .lane i = true ∧ countOk (s.warp c w).nregs i = true
      ∧ (((s.warp c w).slice j).st = .parked ∨ (s.warp c w).pending ((s.warp c w).gangOf j) i = false)
      ∧ ((s.warp c w).poisonRead i (s.gangIssue c w j i).acting) = [] ∧ (s.core c).upset = none
      ∧ s.sound = true := by
  simp [State.gangReady, and_assoc]

/-- A ready gang's instruction is its meaning, completed. -/
theorem State.issueGang_ready (s : State) (c w j : Nat) (i : Instr) (body : Issue → State → Act) (h : s.gangReady c w j i = true) :
    s.issueGang c w j i body = s.finishGang (s.gangIssue c w j i) (s.warp c w).pmsel (body (s.gangIssue c w j i) s) := by
  obtain ⟨-, h1, h2, h3, h4, h5, h6, h7⟩ := (s.gangReady_iff c w j i).mp h
  have h5' : (s.warp c w).poisonRead i ((s.warp c w).actingLanes ((s.warp c w).gangOf j) (guardOf i)) = [] := h5
  have h4' : (!(((s.warp c w).slice j).st == .parked) && (s.warp c w).pending ((s.warp c w).gangOf j) i) = false := by
    rcases h4 with h4 | h4 <;> simp [h4]
  unfold State.issueGang
  simp only [h1, h2, h3, h4', Bool.not_true, Bool.and_self, Bool.and_false, Bool.false_eq_true, if_false, State.meetRegs_sound h7]
  unfold State.issueChecked
  simp only [h5', h6, Option.bind_none, List.isEmpty_nil, Bool.not_true, Bool.false_eq_true, if_false]
  rfl

/-- An instruction of a ready gang, whatever its meaning in a sequencer. -/
theorem State.issue_gang (s : State) (c w j : Nat) (i : Instr) (lane seq : Issue → State → Act) (h : s.gangReady c w j i = true) :
    s.issue i lane seq = .next (s.finishGang (s.gangIssue c w j i) (s.warp c w).pmsel (lane (s.gangIssue c w j i) s)) := by
  have hc := ((s.gangReady_iff c w j i).mp h).1
  simp only [State.issue, hc, State.issueGang_ready s c w j i lane h]

theorem State.issueLane_gang (s : State) (c w j : Nat) (i : Instr) (lane : Issue → State → Act) (h : s.gangReady c w j i = true) :
    s.issueLane i lane = .next (s.finishGang (s.gangIssue c w j i) (s.warp c w).pmsel (lane (s.gangIssue c w j i) s)) :=
  s.issue_gang c w j i lane _ h

/-- A ready gang's instruction that ends its own effect with `t` completes with it. -/
theorem State.issueLane_done (s t : State) (c w j : Nat) (i : Instr) (lane : Issue → State → Act) (h : s.gangReady c w j i = true)
    (hl : lane (s.gangIssue c w j i) s = .done t) : s.issueLane i lane = .next (s.gangDone c w j i t) := by
  rw [s.issueLane_gang c w j i lane h, hl]
  rfl

theorem State.issueLane_go (s t : State) (c w j : Nat) (i : Instr) (next : List (Nat × DWord)) (lane : Issue → State → Act)
    (h : s.gangReady c w j i = true) (hl : lane (s.gangIssue c w j i) s = .go t next) :
    s.issueLane i lane = .next (s.gangGoes c w j i t next) := by
  rw [s.issueLane_gang c w j i lane h, hl]
  rfl

/-- What a ready sequencer is. -/
theorem State.seqReady_iff (s : State) (c b : Nat) (cp : Bool) (i : Instr) :
    s.seqReady c b cp i = true ↔ s.cur = .seq c b cp ∧ s.seqRuns c b cp = true ∧ legal (if cp then .cp else .mx) i = true
      ∧ (s.core c).upset = none ∧ s.sound = true ∧ ((s.core c).seq b cp).rf.guard (guardOf i) 0 = true := by
  simp [State.seqReady, and_assoc]

/-- A ready sequencer acts in its lane 0. -/
theorem State.seqIssue_acting (s : State) (c b : Nat) (cp : Bool) (i : Instr) (h : s.seqReady c b cp i = true) :
    (s.seqIssue c b cp i).acting = [0] := by
  simp [State.seqIssue, ((s.seqReady_iff c b cp i).mp h).2.2.2.2.2]

/-- A ready sequencer's instruction is its meaning, completed. -/
theorem State.issueSeq_ready (s : State) (c b : Nat) (cp : Bool) (i : Instr) (body : Issue → State → Act) (h : s.seqReady c b cp i = true) :
    s.issueSeq c b cp i body = s.finishSeq (s.seqIssue c b cp i) (body (s.seqIssue c b cp i) s) := by
  obtain ⟨-, h1, h2, h3, -, h4⟩ := (s.seqReady_iff c b cp i).mp h
  unfold State.issueSeq State.seqIssue
  simp only [h1, h2, h3, h4, Option.filter_none, Bool.not_true, Bool.false_eq_true, if_false, if_true, List.isEmpty_cons]

theorem State.issue_seq (s : State) (c b : Nat) (cp : Bool) (i : Instr) (lane seq : Issue → State → Act) (h : s.seqReady c b cp i = true) :
    s.issue i lane seq = .next (s.finishSeq (s.seqIssue c b cp i) (seq (s.seqIssue c b cp i) s)) := by
  have hc := ((s.seqReady_iff c b cp i).mp h).1
  simp only [State.issue, hc, State.issueSeq_ready s c b cp i seq h]

/-- The meaning of a vector ALU instruction for a gang and for a sequencer. -/
theorem State.issueAlu_seq (s : State) (c b : Nat) (cp : Bool) (i : Instr) (g : RF → List Nat → RF) (h : s.seqReady c b cp i = true) :
    s.issueAlu i g = .next (s.seqDone c b cp i
      (s.setSeq c b cp { (s.core c).seq b cp with rf := g ((s.core c).seq b cp).rf [0] })) := by
  unfold State.issueAlu
  rw [s.issue_seq c b cp i _ _ h, s.seqIssue_acting c b cp i h]
  rfl

/-- Who a gang is. -/
theorem State.gangIssue_core (s : State) (c w j : Nat) (i : Instr) : (s.gangIssue c w j i).core = c := rfl
theorem State.gangIssue_warp (s : State) (c w j : Nat) (i : Instr) : (s.gangIssue c w j i).warp = w := rfl

end Sys2Proof.Machine
end

