-- ==== Sys2Proof/Laws/Memory.lean ====
section
/-!
SUPPORT. Memory: what a byte reads as after a write, and that every operation on a memory keeps its canonical form.
-/

namespace Sys2Proof.Machine

/-! ## Bytes -/

theorem Mem.byte_put (m : Mem) (loc a : Nat) (b : Byte) (loc' a' : Nat) (h : loc < 3) (h' : loc' < 3) :
    (m.put loc a b).byte loc' a' = if loc' = loc ∧ a' = a then b else m.byte loc' a' := by
  obtain rfl | rfl | rfl : loc = 0 ∨ loc = 1 ∨ loc = 2 := by omega
  all_goals
    obtain rfl | rfl | rfl : loc' = 0 ∨ loc' = 1 ∨ loc' = 2 := by omega
    all_goals simp [Mem.put, Mem.byte, Sparse.get_set]

@[simp] theorem Mem.byte_setPoison (m : Mem) (loc g : Nat) (b : Bool) (loc' a : Nat) :
    (m.setPoison loc g b).byte loc' a = m.byte loc' a := by
  unfold Mem.setPoison
  repeat' split
  all_goals rfl

@[simp] theorem Mem.byte_touchLine (m : Mem) (a pol : Nat) (d : Bool) (loc b : Nat) : (m.touchLine a pol d).byte loc b = m.byte loc b := by
  unfold Mem.touchLine
  dsimp only
  split <;> rfl

@[simp] theorem Mem.byte_fillPeer (m : Mem) (a loc b : Nat) : (m.fillPeer a).byte loc b = m.byte loc b := rfl

@[simp] theorem Mem.byte_unpin (m : Mem) (id : Nat) (sl : Option Nat) (loc b : Nat) : (m.unpin id sl).byte loc b = m.byte loc b := rfl

@[simp] theorem Mem.byte_writeBack (m : Mem) (h : Home) (loc b : Nat) : (m.writeBack h).byte loc b = m.byte loc b := by
  unfold Mem.writeBack
  split <;> rfl

@[simp] theorem Mem.byte_evict (m : Mem) (h : Home) (loc b : Nat) : (m.evict h).byte loc b = m.byte loc b := by
  unfold Mem.evict
  split <;> rfl

@[simp] theorem Mem.byte_peerDrop (m : Mem) (h : Home) (loc b : Nat) : (m.peerDrop h).byte loc b = m.byte loc b := by
  unfold Mem.peerDrop
  split <;> rfl

@[simp] theorem State.mem_dropPeerReads_byte (s : State) (loc b : Nat) : s.dropPeerReads.mem.byte loc b = s.mem.byte loc b := rfl

theorem Mem.foldl_byte {β : Type} (l : List β) (f : Mem → β → Mem) (hf : ∀ m x loc a, (f m x).byte loc a = m.byte loc a) (m : Mem) (loc a : Nat) :
    (l.foldl f m).byte loc a = m.byte loc a := by
  induction l generalizing m with
  | nil => rfl
  | cons x r ih => exact (ih _).trans (hf m x loc a)

/-- Bytes written one after the other. -/
theorem Mem.byte_putAll (m : Mem) (loc a : Nat) (bs : List Byte) (loc' b : Nat) (h : loc < 3) (h' : loc' < 3) :
    (m.putAll loc a bs).byte loc' b = if loc' = loc ∧ a ≤ b then bs.getD (b - a) (m.byte loc' b) else m.byte loc' b := by
  induction bs generalizing m a with
  | nil => simp [Mem.putAll]
  | cons x r ih =>
    rw [Mem.putAll, ih, Mem.byte_put _ _ _ _ _ _ h h']
    by_cases hl : loc' = loc
    · subst hl
      rcases Nat.lt_trichotomy b a with hb | hb | hb
      · simp [show ¬ a + 1 ≤ b by omega, show ¬ a ≤ b by omega, show ¬ b = a by omega]
      · subst hb; simp
      · have e : b - a = (b - (a + 1)) + 1 := by omega
        simp [show a + 1 ≤ b by omega, show a ≤ b by omega, show ¬ b = a by omega, e]
    · simp [hl]

/-! ## The canonical form -/

/-- The canonical form of the memories of a device. -/
def Mem.ok (m : Mem) : Prop := Memory.wf m.hbm = true ∧ Memory.wf m.host = true ∧ Memory.wf m.peer = true

theorem State.memOk_iff (s : State) : s.memOk ↔ s.mem.ok := Iff.rfl

theorem Mem.ok_reset : Mem.reset.ok := ⟨rfl, rfl, rfl⟩

theorem Mem.ok_put {m : Mem} (loc a : Nat) (b : Byte) (h : m.ok) : (m.put loc a b).ok := by
  unfold Mem.put
  split
  · exact ⟨Sparse.wf_set _ _ h.1, h.2.1, h.2.2⟩
  · split
    · exact ⟨h.1, h.2.1, Sparse.wf_set _ _ h.2.2⟩
    · exact ⟨h.1, Sparse.wf_set _ _ h.2.1, h.2.2⟩

theorem Mem.ok_putAll {m : Mem} (loc a : Nat) (bs : List Byte) (h : m.ok) : (m.putAll loc a bs).ok := by
  induction bs generalizing m a with
  | nil => exact h
  | cons x r ih => exact ih _ (Mem.ok_put _ _ _ h)

theorem Mem.ok_setPoison {m : Mem} (loc g : Nat) (b : Bool) (h : m.ok) : (m.setPoison loc g b).ok := by
  unfold Mem.setPoison
  repeat' split
  all_goals exact h

theorem Mem.ok_foldl {β : Type} (l : List β) (f : Mem → β → Mem) (hf : ∀ m x, m.ok → (f m x).ok) {m : Mem} (h : m.ok) : (l.foldl f m).ok := by
  induction l generalizing m with
  | nil => exact h
  | cons x r ih => exact ih (hf m x h)

theorem Mem.ok_write {m : Mem} (loc a : Nat) (bs : List Byte) (h : m.ok) : (m.write loc a bs).ok := by
  have e := Mem.ok_foldl (wholeUnits a bs.length) (fun m g => m.setPoison loc g false) (fun m g h => Mem.ok_setPoison _ _ _ h)
    (Mem.ok_putAll loc a bs h)
  unfold Mem.write
  split <;> exact e

theorem Mem.ok_touchLine {m : Mem} (a pol : Nat) (d : Bool) (h : m.ok) : (m.touchLine a pol d).ok := by
  unfold Mem.touchLine
  dsimp only
  split <;> exact h

theorem Mem.ok_fillPeer {m : Mem} (a : Nat) (h : m.ok) : (m.fillPeer a).ok := h

theorem Mem.ok_unpin {m : Mem} (id : Nat) (sl : Option Nat) (h : m.ok) : (m.unpin id sl).ok := h

theorem Mem.ok_writeBack {m : Mem} (x : Home) (h : m.ok) : (m.writeBack x).ok := by
  unfold Mem.writeBack
  split <;> exact h

theorem Mem.ok_evict {m : Mem} (x : Home) (h : m.ok) : (m.evict x).ok := by
  unfold Mem.evict
  split <;> exact h

theorem Mem.ok_peerDrop {m : Mem} (x : Home) (h : m.ok) : (m.peerDrop x).ok := by
  unfold Mem.peerDrop
  split <;> exact h

theorem Mem.ok_zeroRange {m : Mem} (a n : Nat) (h : m.ok) : (m.zeroRange a n).ok := ⟨Sparse.wf_filter _ h.1, h.2.1, h.2.2⟩

theorem Mem.ok_writeBut {m : Mem} (hid : Nat → Bool) (loc a : Nat) (bs : List Byte) (h : m.ok) : (m.writeBut hid loc a bs).ok := by
  have e := Mem.ok_foldl ((wholeUnits a bs.length).filter fun g => !(List.range 16).any fun i => hid (16 * g + i))
    (fun m g => m.setPoison loc g false) (fun m g h => Mem.ok_setPoison _ _ _ h)
    (Mem.ok_foldl ((List.range bs.length).zip bs) (fun m p => if hid (a + p.1) then m else m.put loc (a + p.1) p.2)
      (fun m p h => by split; exacts [h, Mem.ok_put _ _ _ h]) h)
  unfold Mem.writeBut
  dsimp only
  split <;> exact e

theorem Mem.ok_scramble {m : Mem} (ctr : Nat) (pages : List Nat) (h : m.ok) : (m.scramble ctr pages).ok :=
  ⟨Sparse.wf_foldl _ _ (fun _ _ hm => Sparse.wf_foldl _ _ (fun _ _ => Sparse.wf_set _ _) hm) h.1, h.2.1, h.2.2⟩

theorem State.ok_memAfterReset {s : State} (b : Bool) (h : s.mem.ok) : (s.memAfterReset b).ok := by
  cases b
  · exact Mem.ok_scramble s.freeCtr _ h
  · exact ⟨rfl, h.2⟩

/-! ## Agents' writes -/

/-- A fold of changes of the device that keep its memories canonical. -/
theorem State.ok_foldl {β : Type} (l : List β) (f : State → β → State) (hf : ∀ s x, s.mem.ok → (f s x).mem.ok) {s : State} (h : s.mem.ok) :
    (l.foldl f s).mem.ok := by
  induction l generalizing s with
  | nil => exact h
  | cons x r ih => exact ih (hf s x h)

theorem State.ok_gcmLine {s : State} (line : Nat) (h : s.mem.ok) : (s.gcmLine line).mem.ok := by
  unfold State.gcmLine
  dsimp only
  split <;> exact h

theorem State.ok_gcmWrote {s : State} (loc a len : Nat) (h : s.mem.ok) : (s.gcmWrote loc a len).mem.ok := by
  unfold State.gcmWrote
  split
  · exact State.ok_foldl _ _ (fun _ _ ht => State.ok_gcmLine _ ht) h
  · exact h

theorem State.ok_writeMem {s : State} (loc a : Nat) (bs : List Byte) (h : s.mem.ok) : (s.writeMem loc a bs).mem.ok := by
  unfold State.writeMem
  split
  · exact State.ok_gcmWrote _ _ _ (Mem.ok_writeBut _ _ _ _ h)
  · exact State.ok_gcmWrote _ _ _ (Mem.ok_write _ _ _ h)

theorem State.ok_writeHid {s : State} (hid : Nat → Bool) (a : Nat) (bs : List Byte) (h : s.mem.ok) : (s.writeHid hid a bs).mem.ok := by
  unfold State.writeHid
  exact State.ok_gcmWrote _ _ _ (Mem.ok_writeBut _ _ _ _ h)

theorem State.ok_storeGlobal {s : State} (loc a : Nat) (bs : List Byte) (h : s.mem.ok) : (s.storeGlobal loc a bs).mem.ok := by
  unfold State.storeGlobal
  split
  · exact State.ok_writeHid _ _ _ h
  · exact State.ok_writeMem _ _ _ h

theorem State.ok_writeHbm64 {s : State} (a : Nat) (v : DWord) (h : s.mem.ok) : (s.writeHbm64 a v).mem.ok := State.ok_writeMem _ _ _ h

theorem State.ok_post {s : State} (dom : Nat) (a b c d : DWord) (h : s.mem.ok) : (s.post dom a b c d).mem.ok := by
  unfold State.post
  dsimp only
  split
  · exact State.ok_writeMem _ _ _ h
  · exact h

theorem State.ok_mirrorPut {s : State} (id : Nat) (makers : List (Nat × BitVec 8)) (x : Home) (bs : List Byte) (h : s.mem.ok) :
    (s.mirrorPut id makers x bs).mem.ok := by simpa using h

theorem State.ok_storePage {s : State} (ctx : Nat) (leaf : DWord) (pa : Nat) (bs : List Byte) (h : s.mem.ok) :
    (s.storePage ctx leaf pa bs).mem.ok := by
  unfold State.storePage
  split
  · dsimp only
    split
    · exact State.ok_mirrorPut _ _ _ _ (State.ok_storeGlobal _ _ _ h)
    · exact State.ok_storeGlobal _ _ _ h
  · exact h

/-! What charges, counts and checks a core changes no memory. -/

theorem State.foldl_mem {β : Type} (l : List β) (f : State → β → State) (h : ∀ s x, (f s x).mem = s.mem) (s : State) :
    (l.foldl f s).mem = s.mem := State.foldl_keeps (·.mem) l f h s

@[simp] theorem State.addCharge_mem (s : State) (r : Nat) (l : List Nat) : (s.addCharge r l).mem = s.mem := by
  unfold State.addCharge
  refine State.foldl_mem _ _ ?_ s
  intro _ _
  rfl

@[simp] theorem State.coreCharge_mem (s : State) (c : Nat) : (s.coreCharge c).mem = s.mem := by
  unfold State.coreCharge
  dsimp only
  split
  · rfl
  · split
    · rfl
    · simp

@[simp] theorem State.countServed_mem (s : State) (t : Nat) (w : Waiter) : (s.countServed t w).mem = s.mem := by
  unfold State.countServed
  dsimp only
  split <;> rfl

theorem State.ok_countSymbol {s : State} (slab group bank : Nat) (h : s.mem.ok) : (s.countSymbol slab group bank).mem.ok := by
  unfold State.countSymbol
  dsimp only
  split
  · exact h
  · exact State.ok_post _ _ _ _ _ h

theorem State.ok_meetWord (s0 : State) (c : Nat) {s : State} (p : Nat × Nat × Nat) (h : s.mem.ok) : (s0.meetWord c s p).mem.ok := by
  unfold State.meetWord
  dsimp only
  repeat' split
  all_goals first | exact h | exact State.ok_countSymbol _ _ _ h

theorem State.ok_meetScr {s : State} (c ofs len : Nat) (h : s.mem.ok) : (s.meetScr c ofs len).mem.ok := by
  unfold State.meetScr
  dsimp only
  split
  · exact h
  · exact State.ok_foldl _ _ (fun _ p ht => State.ok_meetWord s c p ht) h

theorem State.ok_signal {s : State} (l st : Nat) (h : s.mem.ok) : (s.signal l st).mem.ok := by
  unfold State.signal
  dsimp only
  split
  · exact h
  · exact State.ok_storePage _ _ _ _ h

theorem State.ok_retire {s : State} (c b : Nat) (h : s.mem.ok) : (s.retire c b).mem.ok := by
  unfold State.retire
  dsimp only
  have e := (State.coreCharge_mem s c).symm ▸ h
  split
  · split
    · exact State.ok_signal _ _ e
    · exact e
  · exact h

theorem State.ok_leaveBlock {s : State} (c w : Nat) (h : s.mem.ok) : (s.leaveBlock c w).mem.ok := State.ok_retire _ _ h

theorem State.ok_takeOut {s : State} (c w : Nat) (h : s.mem.ok) : (s.takeOut c w).mem.ok := State.ok_leaveBlock _ _ h

theorem State.ok_postMc {s : State} (c w b : Nat) (r : McRec) (pc o : DWord) (h : s.mem.ok) : (s.postMc c w b r pc o).mem.ok :=
  State.ok_post _ _ _ _ _ h

theorem State.ok_warpExited {s : State} (c w : Nat) (h : s.mem.ok) : (s.warpExited c w).mem.ok := State.ok_leaveBlock _ _ h

theorem State.ok_advance {s : State} (c w : Nat) (ms : List Nat) (next : List (Nat × DWord)) (b : Bool) (h : s.mem.ok) :
    (s.advance c w ms next b).mem.ok := by
  unfold State.advance
  dsimp only
  split
  · exact State.ok_warpExited _ _ h
  · exact h

theorem State.ok_serve {s : State} (t : Nat) (w : Waiter) (h : s.mem.ok) : (s.serve t w).mem.ok := by
  have e : ((if w.full then s.meetScr t w.ofs w.len else s).countServed t w).mem.ok := by
    rw [State.countServed_mem]
    split
    · exact State.ok_meetScr _ _ _ h
    · exact h
  unfold State.serve
  dsimp only
  generalize (if w.full then s.meetScr t w.ofs w.len else s).countServed t w = u at e ⊢
  split
  · exact State.ok_takeOut _ _ (State.ok_postMc _ _ _ _ _ _ e)
  · split <;> exact e

theorem State.ok_slicesServed {s : State} (w : Waiter) (h : s.mem.ok) : (s.slicesServed w).mem.ok := by
  unfold State.slicesServed
  dsimp only
  split
  · exact h
  · exact State.ok_advance _ _ _ _ _ h

theorem State.ok_serveAll (n : Nat) {s : State} (h : s.mem.ok) : (State.serveAll n s).mem.ok := by
  induction n generalizing s with
  | zero => exact h
  | succ n ih =>
    unfold State.serveAll
    dsimp only
    split
    · exact h
    · exact ih (State.ok_slicesServed _ (State.ok_serve _ _ h))

theorem State.ok_wakeTags {s : State} (h : s.mem.ok) : s.wakeTags.mem.ok := State.ok_serveAll _ h

theorem State.ok_killWarp {s : State} (c w : Nat) (h : s.mem.ok) : (s.killWarp c w).mem.ok :=
  State.ok_wakeTags (State.ok_takeOut _ _ h)

theorem State.ok_machineCheck {s : State} (c w : Nat) (r : McRec) (pc o : DWord) (h : s.mem.ok) : (s.machineCheck c w r pc o).mem.ok :=
  State.ok_killWarp _ _ (State.ok_postMc _ _ _ _ _ _ h)

/-- The completion of an instruction keeps the memories canonical where its meaning did. -/
theorem State.ok_finishGang {s : State} (x : Issue) (p : Word) (a : Act) (h : s.mem.ok) (ha : ∀ t, (a = .miss t ∨ a = .done t ∨ (∃ n, a = .go t n) ∨ ∃ r, a = .check t r) → t.mem.ok) :
    (s.finishGang x p a).mem.ok := by
  cases a with
  | wait => exact h
  | miss t => exact ha t (.inl rfl)
  | fault l c f =>
    simp only [State.finishGang]
    split
    · exact h
    · exact h
  | check t r => exact State.ok_machineCheck _ _ _ _ _ (ha t (.inr (.inr (.inr ⟨r, rfl⟩))))
  | done t =>
    have e := ha t (.inr (.inl rfl))
    refine State.ok_advance _ _ _ _ _ ?_
    split
    · exact e
    · exact e
  | go t n =>
    have e := ha t (.inr (.inr (.inl ⟨n, rfl⟩)))
    refine State.ok_advance _ _ _ _ _ ?_
    split
    · exact e
    · exact e

theorem State.ok_finishSeq {s : State} (x : Issue) (a : Act) (h : s.mem.ok) (ha : ∀ t, (a = .miss t ∨ a = .done t ∨ ∃ n, a = .go t n) → t.mem.ok) :
    (s.finishSeq x a).mem.ok := by
  cases a with
  | wait => exact h
  | miss t => exact ha t (.inl rfl)
  | fault l c f => exact h
  | check r => exact h
  | done t => exact ha t (.inr (.inl rfl))
  | go t n =>
    cases n with
    | nil => exact ha t (.inr (.inr ⟨_, rfl⟩))
    | cons p r => exact ha t (.inr (.inr ⟨_, rfl⟩))

end Sys2Proof.Machine
end

