-- ==== Sys2Proof/Laws/PerInstr.lean ====
section
/-!
SUPPORT. The round trip of encoding and decoding, one lemma for each constructor of Instr.
-/

namespace Sys2Proof.Laws.RoundTrip

open Sys2Proof

/-- Decoding what encodes an instruction gives it back: its two words in every stream in which it is legal, its Xdisp word, its command
record. -/
def Statement (i : Instr) : Prop :=
  (∀ st, legal st i = true → decode st (encode i).1 (encode i).2 = .ok i)
    ∧ (∀ w, encodeXdisp i = some w → decodeXdisp w = some (.ok i))
    ∧ (∀ d, encodeRecord i = some d → recordOk i = true → ∃ slot, decodeRecord slot d = .ok i)

theorem legal_fields {st : Stream} {i : Instr} (h : legal st i = true) : fieldsOk i = true := by
  simp only [legal, Bool.and_eq_true] at h
  exact h.1.2

/-- A word of a stream. -/
theorem of_word (i : Instr) (hx : encodeXdisp i = none) (hr : encodeRecord i = none)
    (h : fieldsOk i = true → decodeRaw (encodeWord i) (encodeExt i) = .ok i) : Statement i := by
  refine ⟨fun st hl => ?_, fun w hw => ?_, fun d hd => ?_⟩
  · unfold encode decode
    rw [h (legal_fields hl)]
    exact if_pos hl
  · rw [hx] at hw; exact absurd hw (by simp)
  · rw [hr] at hd; exact absurd hd (by simp)

/-- A row that is no word of a stream and has no encoding of its own. -/
theorem of_event (i : Instr) (hx : encodeXdisp i = none) (hr : encodeRecord i = none) (h : ∀ st, legal st i = false) : Statement i := by
  refine ⟨fun st hl => ?_, fun w hw => ?_, fun d hd => ?_⟩
  · rw [h st] at hl; exact absurd hl (by simp)
  · rw [hx] at hw; exact absurd hw (by simp)
  · rw [hr] at hd; exact absurd hd (by simp)

theorem of_xdisp (i : Instr) (hr : encodeRecord i = none) (h : ∀ st, legal st i = false)
    (hw : ∀ w, encodeXdisp i = some w → decodeXdisp w = some (.ok i)) : Statement i := by
  refine ⟨fun st hl => ?_, hw, fun d hd => ?_⟩
  · rw [h st] at hl; exact absurd hl (by simp)
  · rw [hr] at hd; exact absurd hd (by simp)

theorem of_record (i : Instr) (hx : encodeXdisp i = none) (h : ∀ st, legal st i = false)
    (hd : ∀ d, encodeRecord i = some d → recordOk i = true → ∃ slot, decodeRecord slot d = .ok i) : Statement i := by
  refine ⟨fun st hl => ?_, fun w hw => ?_, hd⟩
  · rw [h st] at hl; exact absurd hl (by simp)
  · rw [hx] at hw; exact absurd hw (by simp)

theorem immOk_ext {f : FmtB} (h : immOk f = true) : f.x = 0 → f.imm32 = 0 := by
  intro hx
  simp only [immOk, Bool.or_eq_true, Bool.and_eq_true, beq_iff_eq] at h
  rcases h with h | h
  · exact h.1.2
  · rw [hx] at h; exact absurd h.1 (by decide)

theorem ialuiOk_ext {f : FmtB} {l : List Nat} {a b : Bool} (h : ialuiOk f l a b = true) : f.x = 0 → f.imm32 = 0 := by
  simp only [ialuiOk, Bool.and_eq_true] at h
  exact immOk_ext h.1.2

theorem faluiOk_ext {f : FmtB} (h : faluiOk f = true) : f.x = 0 → f.imm32 = 0 := by
  simp only [faluiOk, Bool.and_eq_true] at h
  exact immOk_ext h.2

theorem mExtOk_ext {f : FmtM} {b : Bool} (h : mExtOk f b = true) : f.extOk := by
  intro hx
  simp only [mExtOk, Bool.and_eq_true, Bool.or_eq_true, beq_iff_eq] at h
  obtain ⟨⟨⟨⟨⟨⟨⟨h1, -⟩, -⟩, -⟩, h5⟩, h6⟩, h7⟩, h8⟩ := h
  rcases h1 with h1 | h1
  · rw [hx] at h1; exact absurd h1 (by decide)
  · exact ⟨h1.1, h1.2, h5, h6, h7, h8⟩

theorem mRow_ext {f : FmtM} {a b c : List Nat} {d e : Bool} (h : mRow f a b c d e = true) : f.extOk := by
  simp only [mRow, Bool.and_eq_true] at h
  exact mExtOk_ext h.1.2

theorem atomOk_ext {f : FmtM} {l : List Nat} (h : atomOk f l = true) : f.extOk := by
  intro hx
  simp only [atomOk, Bool.and_eq_true, beq_iff_eq] at h
  obtain ⟨⟨⟨⟨⟨⟨⟨⟨h1, -⟩, -⟩, -⟩, -⟩, -⟩, -⟩, -⟩, -⟩ := h
  rw [hx] at h1; exact absurd h1 (by decide)

theorem cmbOk_ext {f : FmtM} (h : cmbOk f = true) : f.extOk := by
  intro hx
  simp only [cmbOk, Bool.and_eq_true, beq_iff_eq] at h
  obtain ⟨⟨⟨⟨⟨⟨h1, -⟩, -⟩, -⟩, -⟩, -⟩, -⟩ := h
  rw [hx] at h1; exact absurd h1 (by decide)


theorem rec_launch (slot : Nat) (d0 a : DWord) (hn : (field d0 56 8).toNat = 1) (hl : field d0 0 56 = 0) :
    decodeRecord slot [d0, a, 0, 0, 0, 0, 0, 0, 0] = .ok (.recLaunch slot a) := by
  simp [decodeRecord, hn, hl]

theorem rec_launchn (slot : Nat) (d0 a b c : DWord) (hn : (field d0 56 8).toNat = 2) (hl : field d0 0 56 = 0) :
    decodeRecord slot [d0, a, b, c, 0, 0, 0, 0, 0] = .ok (.recLaunchn slot a b c) := by
  simp [decodeRecord, hn, hl]

theorem rec_waitsig (slot : Nat) (d0 a b : DWord) (hn : (field d0 56 8).toNat = 3) (hl : field d0 0 56 = 0) :
    decodeRecord slot [d0, a, b, 0, 0, 0, 0, 0, 0] = .ok (.recWaitsig slot a b) := by
  simp [decodeRecord, hn, hl]

theorem rec_setsig (slot : Nat) (d0 a b : DWord) (hn : (field d0 56 8).toNat = 4) (hl : field d0 0 56 = 0) :
    decodeRecord slot [d0, a, b, 0, 0, 0, 0, 0, 0] = .ok (.recSetsig slot a b) := by
  simp [decodeRecord, hn, hl]

theorem rec_exec (slot : Nat) (d0 a b : DWord) (hn : (field d0 56 8).toNat = 6) (hl : field d0 0 56 = 0) :
    decodeRecord slot [d0, a, b, 0, 0, 0, 0, 0, 0] = .ok (.recExec slot a b) := by
  simp [decodeRecord, hn, hl]

theorem rec_skip (slot : Nat) (d0 a b : DWord) (c : BitVec 4) (n : BitVec 16) (hn : (field d0 56 8).toNat = 5)
    (h1 : field d0 36 20 = 0) (h2 : field d0 16 16 = 0) (hc : field d0 32 4 = c) (hm : field d0 0 16 = n)
    (hr : 1 ≤ c.toNat ∧ c.toNat ≤ 3) :
    decodeRecord slot [d0, a, b, 0, 0, 0, 0, 0] = .ok (.recSkipif slot c n a b) := by
  have h3 : ¬ (c.toNat = 0 ∨ 3 < c.toNat) := by omega
  simp only [decodeRecord, List.getD_cons_zero, hn, h1, h2, hc, hm, if_neg h3]
  simp

theorem skip_head (c : BitVec 4) (n : BitVec 16) :
    (field (0x05#8 ++ 0#20 ++ c ++ 0#16 ++ n) 56 8).toNat = 5 ∧ field (0x05#8 ++ 0#20 ++ c ++ 0#16 ++ n) 36 20 = 0
      ∧ field (0x05#8 ++ 0#20 ++ c ++ 0#16 ++ n) 16 16 = 0 ∧ field (0x05#8 ++ 0#20 ++ c ++ 0#16 ++ n) 32 4 = c
      ∧ field (0x05#8 ++ 0#20 ++ c ++ 0#16 ++ n) 0 16 = n := by
  refine ⟨congrArg BitVec.toNat (show field (0x05#8 ++ 0#20 ++ c ++ 0#16 ++ n) 56 8 = 5#8 from ?_), ?_, ?_, ?_, ?_⟩
  all_goals
    (repeat refine (field_append_hi _ _ _ _ (by decide)).trans ?_) <;>
      (first | exact field_self _ | (refine (field_append_lo _ _ _ _ (by decide)).trans ?_; exact field_self _))

theorem iadd (f) : Statement (.iadd f) := by
  refine of_word _ rfl rfl fun h => ?_
  show decodeRaw (packA 0x01#7 0x0#5 f) _ = _
  rw [raw_01]
  unfold decode01
  rw [sub_packA, unpack_packA]
  rfl

theorem isub (f) : Statement (.isub f) := by
  refine of_word _ rfl rfl fun h => ?_
  show decodeRaw (packA 0x01#7 0x1#5 f) _ = _
  rw [raw_01]
  unfold decode01
  rw [sub_packA, unpack_packA]
  rfl

theorem imul (f) : Statement (.imul f) := by
  refine of_word _ rfl rfl fun h => ?_
  show decodeRaw (packA 0x01#7 0x2#5 f) _ = _
  rw [raw_01]
  unfold decode01
  rw [sub_packA, unpack_packA]
  rfl

theorem imulh (f) : Statement (.imulh f) := by
  refine of_word _ rfl rfl fun h => ?_
  show decodeRaw (packA 0x01#7 0x3#5 f) _ = _
  rw [raw_01]
  unfold decode01
  rw [sub_packA, unpack_packA]
  rfl

theorem imad (f) : Statement (.imad f) := by
  refine of_word _ rfl rfl fun h => ?_
  show decodeRaw (packA 0x01#7 0x4#5 f) _ = _
  rw [raw_01]
  unfold decode01
  rw [sub_packA, unpack_packA]
  rfl

theorem imin (f) : Statement (.imin f) := by
  refine of_word _ rfl rfl fun h => ?_
  show decodeRaw (packA 0x01#7 0x5#5 f) _ = _
  rw [raw_01]
  unfold decode01
  rw [sub_packA, unpack_packA]
  rfl

theorem imax (f) : Statement (.imax f) := by
  refine of_word _ rfl rfl fun h => ?_
  show decodeRaw (packA 0x01#7 0x6#5 f) _ = _
  rw [raw_01]
  unfold decode01
  rw [sub_packA, unpack_packA]
  rfl

theorem idif (f) : Statement (.idif f) := by
  refine of_word _ rfl rfl fun h => ?_
  show decodeRaw (packA 0x01#7 0x7#5 f) _ = _
  rw [raw_01]
  unfold decode01
  rw [sub_packA, unpack_packA]
  rfl

theorem and (f) : Statement (.and f) := by
  refine of_word _ rfl rfl fun h => ?_
  show decodeRaw (packA 0x01#7 0x8#5 f) _ = _
  rw [raw_01]
  unfold decode01
  rw [sub_packA, unpack_packA]
  rfl

theorem or (f) : Statement (.or f) := by
  refine of_word _ rfl rfl fun h => ?_
  show decodeRaw (packA 0x01#7 0x9#5 f) _ = _
  rw [raw_01]
  unfold decode01
  rw [sub_packA, unpack_packA]
  rfl

theorem xor (f) : Statement (.xor f) := by
  refine of_word _ rfl rfl fun h => ?_
  show decodeRaw (packA 0x01#7 0xA#5 f) _ = _
  rw [raw_01]
  unfold decode01
  rw [sub_packA, unpack_packA]
  rfl

theorem andn (f) : Statement (.andn f) := by
  refine of_word _ rfl rfl fun h => ?_
  show decodeRaw (packA 0x01#7 0xB#5 f) _ = _
  rw [raw_01]
  unfold decode01
  rw [sub_packA, unpack_packA]
  rfl

theorem shl (f) : Statement (.shl f) := by
  refine of_word _ rfl rfl fun h => ?_
  show decodeRaw (packA 0x01#7 0xC#5 f) _ = _
  rw [raw_01]
  unfold decode01
  rw [sub_packA, unpack_packA]
  rfl

theorem shr (f) : Statement (.shr f) := by
  refine of_word _ rfl rfl fun h => ?_
  show decodeRaw (packA 0x01#7 0xD#5 f) _ = _
  rw [raw_01]
  unfold decode01
  rw [sub_packA, unpack_packA]
  rfl

theorem shra (f) : Statement (.shra f) := by
  refine of_word _ rfl rfl fun h => ?_
  show decodeRaw (packA 0x01#7 0xE#5 f) _ = _
  rw [raw_01]
  unfold decode01
  rw [sub_packA, unpack_packA]
  rfl

theorem rotl (f) : Statement (.rotl f) := by
  refine of_word _ rfl rfl fun h => ?_
  show decodeRaw (packA 0x01#7 0xF#5 f) _ = _
  rw [raw_01]
  unfold decode01
  rw [sub_packA, unpack_packA]
  rfl

theorem popc (f) : Statement (.popc f) := by
  refine of_word _ rfl rfl fun h => ?_
  show decodeRaw (packA 0x01#7 0x10#5 f) _ = _
  rw [raw_01]
  unfold decode01
  rw [sub_packA, unpack_packA]
  rfl

theorem clz (f) : Statement (.clz f) := by
  refine of_word _ rfl rfl fun h => ?_
  show decodeRaw (packA 0x01#7 0x11#5 f) _ = _
  rw [raw_01]
  unfold decode01
  rw [sub_packA, unpack_packA]
  rfl

theorem brev (f) : Statement (.brev f) := by
  refine of_word _ rfl rfl fun h => ?_
  show decodeRaw (packA 0x01#7 0x12#5 f) _ = _
  rw [raw_01]
  unfold decode01
  rw [sub_packA, unpack_packA]
  rfl

theorem prmt (f) : Statement (.prmt f) := by
  refine of_word _ rfl rfl fun h => ?_
  show decodeRaw (packA 0x01#7 0x13#5 f) _ = _
  rw [raw_01]
  unfold decode01
  rw [sub_packA, unpack_packA]
  rfl

theorem sel (f) : Statement (.sel f) := by
  refine of_word _ rfl rfl fun h => ?_
  show decodeRaw (packA 0x01#7 0x14#5 f) _ = _
  rw [raw_01]
  unfold decode01
  rw [sub_packA, unpack_packA]
  rfl

theorem lea (f) : Statement (.lea f) := by
  refine of_word _ rfl rfl fun h => ?_
  show decodeRaw (packA 0x01#7 0x15#5 f) _ = _
  rw [raw_01]
  unfold decode01
  rw [sub_packA, unpack_packA]
  rfl

theorem bfe (f) : Statement (.bfe f) := by
  refine of_word _ rfl rfl fun h => ?_
  show decodeRaw (packA 0x01#7 0x16#5 f) _ = _
  rw [raw_01]
  unfold decode01
  rw [sub_packA, unpack_packA]
  rfl

theorem bfi (f) : Statement (.bfi f) := by
  refine of_word _ rfl rfl fun h => ?_
  show decodeRaw (packA 0x01#7 0x17#5 f) _ = _
  rw [raw_01]
  unfold decode01
  rw [sub_packA, unpack_packA]
  rfl

theorem iaddImm (f) : Statement (.iaddImm f) := by
  refine of_word _ rfl rfl fun h => ?_
  have hx := ialuiOk_ext (show ialuiOk f tInt true false = true from h)
  show decodeRaw (packB 0x02#7 0x0#5 f) (packBExt f) = _
  rw [raw_02]
  unfold decode02
  rw [sub_packB, unpack_packB _ _ f hx]
  rfl

theorem isubImm (f) : Statement (.isubImm f) := by
  refine of_word _ rfl rfl fun h => ?_
  have hx := ialuiOk_ext (show ialuiOk f tInt true false = true from h)
  show decodeRaw (packB 0x02#7 0x1#5 f) (packBExt f) = _
  rw [raw_02]
  unfold decode02
  rw [sub_packB, unpack_packB _ _ f hx]
  rfl

theorem imulImm (f) : Statement (.imulImm f) := by
  refine of_word _ rfl rfl fun h => ?_
  have hx := ialuiOk_ext (show ialuiOk f tMul true false = true from h)
  show decodeRaw (packB 0x02#7 0x2#5 f) (packBExt f) = _
  rw [raw_02]
  unfold decode02
  rw [sub_packB, unpack_packB _ _ f hx]
  rfl

theorem imulhImm (f) : Statement (.imulhImm f) := by
  refine of_word _ rfl rfl fun h => ?_
  have hx := ialuiOk_ext (show ialuiOk f tI4 false false = true from h)
  show decodeRaw (packB 0x02#7 0x3#5 f) (packBExt f) = _
  rw [raw_02]
  unfold decode02
  rw [sub_packB, unpack_packB _ _ f hx]
  rfl

theorem iminImm (f) : Statement (.iminImm f) := by
  refine of_word _ rfl rfl fun h => ?_
  have hx := ialuiOk_ext (show ialuiOk f tInt false false = true from h)
  show decodeRaw (packB 0x02#7 0x5#5 f) (packBExt f) = _
  rw [raw_02]
  unfold decode02
  rw [sub_packB, unpack_packB _ _ f hx]
  rfl

theorem imaxImm (f) : Statement (.imaxImm f) := by
  refine of_word _ rfl rfl fun h => ?_
  have hx := ialuiOk_ext (show ialuiOk f tInt false false = true from h)
  show decodeRaw (packB 0x02#7 0x6#5 f) (packBExt f) = _
  rw [raw_02]
  unfold decode02
  rw [sub_packB, unpack_packB _ _ f hx]
  rfl

theorem idifImm (f) : Statement (.idifImm f) := by
  refine of_word _ rfl rfl fun h => ?_
  have hx := ialuiOk_ext (show ialuiOk f tInt true false = true from h)
  show decodeRaw (packB 0x02#7 0x7#5 f) (packBExt f) = _
  rw [raw_02]
  unfold decode02
  rw [sub_packB, unpack_packB _ _ f hx]
  rfl

theorem andImm (f) : Statement (.andImm f) := by
  refine of_word _ rfl rfl fun h => ?_
  have hx := ialuiOk_ext (show ialuiOk f tBit false false = true from h)
  show decodeRaw (packB 0x02#7 0x8#5 f) (packBExt f) = _
  rw [raw_02]
  unfold decode02
  rw [sub_packB, unpack_packB _ _ f hx]
  rfl

theorem orImm (f) : Statement (.orImm f) := by
  refine of_word _ rfl rfl fun h => ?_
  have hx := ialuiOk_ext (show ialuiOk f tBit false false = true from h)
  show decodeRaw (packB 0x02#7 0x9#5 f) (packBExt f) = _
  rw [raw_02]
  unfold decode02
  rw [sub_packB, unpack_packB _ _ f hx]
  rfl

theorem xorImm (f) : Statement (.xorImm f) := by
  refine of_word _ rfl rfl fun h => ?_
  have hx := ialuiOk_ext (show ialuiOk f tBit false false = true from h)
  show decodeRaw (packB 0x02#7 0xA#5 f) (packBExt f) = _
  rw [raw_02]
  unfold decode02
  rw [sub_packB, unpack_packB _ _ f hx]
  rfl

theorem andnImm (f) : Statement (.andnImm f) := by
  refine of_word _ rfl rfl fun h => ?_
  have hx := ialuiOk_ext (show ialuiOk f tBit false false = true from h)
  show decodeRaw (packB 0x02#7 0xB#5 f) (packBExt f) = _
  rw [raw_02]
  unfold decode02
  rw [sub_packB, unpack_packB _ _ f hx]
  rfl

theorem shlImm (f) : Statement (.shlImm f) := by
  refine of_word _ rfl rfl fun h => ?_
  have hx := ialuiOk_ext (show ialuiOk f tBit false true = true from h)
  show decodeRaw (packB 0x02#7 0xC#5 f) (packBExt f) = _
  rw [raw_02]
  unfold decode02
  rw [sub_packB, unpack_packB _ _ f hx]
  rfl

theorem shrImm (f) : Statement (.shrImm f) := by
  refine of_word _ rfl rfl fun h => ?_
  have hx := ialuiOk_ext (show ialuiOk f tBit false true = true from h)
  show decodeRaw (packB 0x02#7 0xD#5 f) (packBExt f) = _
  rw [raw_02]
  unfold decode02
  rw [sub_packB, unpack_packB _ _ f hx]
  rfl

theorem shraImm (f) : Statement (.shraImm f) := by
  refine of_word _ rfl rfl fun h => ?_
  have hx := ialuiOk_ext (show ialuiOk f [1, 11] false true = true from h)
  show decodeRaw (packB 0x02#7 0xE#5 f) (packBExt f) = _
  rw [raw_02]
  unfold decode02
  rw [sub_packB, unpack_packB _ _ f hx]
  rfl

theorem rotlImm (f) : Statement (.rotlImm f) := by
  refine of_word _ rfl rfl fun h => ?_
  have hx := ialuiOk_ext (show ialuiOk f tBit false true = true from h)
  show decodeRaw (packB 0x02#7 0xF#5 f) (packBExt f) = _
  rw [raw_02]
  unfold decode02
  rw [sub_packB, unpack_packB _ _ f hx]
  rfl

theorem bfeImm (f) : Statement (.bfeImm f) := by
  refine of_word _ rfl rfl fun h => ?_
  have hx := ialuiOk_ext (show ialuiOk f tI4 false false = true from h)
  show decodeRaw (packB 0x02#7 0x16#5 f) (packBExt f) = _
  rw [raw_02]
  unfold decode02
  rw [sub_packB, unpack_packB _ _ f hx]
  rfl

theorem icmp (cc) (f) : Statement (.icmp cc f) := by
  refine of_word _ rfl rfl fun h => ?_
  show decodeRaw (packA 0x03#7 cc f) _ = _
  rw [raw_03]
  unfold decode03
  have h : (cc.toNat < 6 && icmpOk cc f.ty && predOk f.d && isGz f.c && f.nc == 0 && f.ac == 0 && f.clp == 0
      && f.sc == 0 && modOk f.ty true f.na f.aa && modOk f.ty true f.nb f.ab) = true := h
  simp only [Bool.and_eq_true] at h
  have hc : cc.toNat < 6 := by have := h.1.1.1.1.1.1.1.1.1; simpa using this
  rw [sub_packA, unpack_packA, if_pos hc]

theorem icmpi (cc) (f) : Statement (.icmpi cc f) := by
  refine of_word _ rfl rfl fun h => ?_
  have h : (cc.toNat < 6 && icmpOk cc f.ty && predOk f.d && f.clp == 0 && f.sc == 0 && modOk f.ty true f.na f.aa
      && immOk f) = true := h
  simp only [Bool.and_eq_true, beq_iff_eq] at h
  have hx := immOk_ext h.2
  show decodeRaw (packB 0x04#7 cc f) (packBExt f) = _
  rw [raw_04]
  unfold decode04
  have hc : cc.toNat < 6 := by have := h.1.1.1.1.1.1; simpa using this
  rw [sub_packB, unpack_packB _ _ f hx, if_pos hc]

theorem mov (f) : Statement (.mov f) := by
  refine of_word _ rfl rfl fun h => ?_
  have h : (f.imm16 == 0 && f.x == 0 && f.imm32 == 0 && f.ty.toNat ≤ 12 && clpScOk f.ty f.clp f.sc
      && modOk f.ty true f.na f.aa) = true := h
  simp only [Bool.and_eq_true, beq_iff_eq] at h
  have hx : f.x = 0 → f.imm32 = 0 := fun _ => h.1.1.1.2
  show decodeRaw (packB 0x05#7 0x0#5 f) (packBExt f) = _
  rw [raw_05]
  unfold decode05
  rw [sub_packB, unpack_packB _ _ f hx]
  rfl

theorem movi (f) : Statement (.movi f) := by
  refine of_word _ rfl rfl fun h => ?_
  have h : (f.ty.toNat ≤ 12 && isGz f.a && f.na == 0 && f.aa == 0 && f.clp == 0 && f.sc == 0 && immOk f) = true := h
  simp only [Bool.and_eq_true, beq_iff_eq] at h
  have hx := immOk_ext h.2
  show decodeRaw (packB 0x05#7 0x1#5 f) (packBExt f) = _
  rw [raw_05]
  unfold decode05
  rw [sub_packB, unpack_packB _ _ f hx]
  rfl

theorem pmovGet (f) : Statement (.pmovGet f) := by
  refine of_word _ rfl rfl fun h => ?_
  have h : (f.ty == 0 && f.na == 0 && f.aa == 0 && f.clp == 0 && f.sc == 0 && f.x == 0 && f.imm32 == 0 && isGz f.a
      && !bitAt f.imm16 15 && field f.imm16 0 8 == 0) = true := h
  simp only [Bool.and_eq_true, beq_iff_eq] at h
  have hx : f.x = 0 → f.imm32 = 0 := fun _ => h.1.1.1.2
  show decodeRaw (packB 0x05#7 0x2#5 f) (packBExt f) = _
  rw [raw_05]
  unfold decode05
  have hb : f.imm16.getLsbD 0 = false := by
    have := congrArg (fun v => v.getLsbD 0) h.2
    simpa [field] using this
  rw [sub_packB, unpack_packB _ _ f hx]
  show (if f.imm16.getLsbD 0 = false then _ else _) = _
  rw [hb]; rfl

theorem pmovSet (f) : Statement (.pmovSet f) := by
  refine of_word _ rfl rfl fun h => ?_
  have h : (f.ty == 0 && f.na == 0 && f.aa == 0 && f.clp == 0 && f.sc == 0 && f.x == 0 && f.imm32 == 0 && isGz f.d
      && !bitAt f.imm16 15 && field f.imm16 0 8 == 1) = true := h
  simp only [Bool.and_eq_true, beq_iff_eq] at h
  have hx : f.x = 0 → f.imm32 = 0 := fun _ => h.1.1.1.2
  show decodeRaw (packB 0x05#7 0x2#5 f) (packBExt f) = _
  rw [raw_05]
  unfold decode05
  have hb : f.imm16.getLsbD 0 = true := by
    have := congrArg (fun v => v.getLsbD 0) h.2
    simpa [field] using this
  rw [sub_packB, unpack_packB _ _ f hx]
  show (if f.imm16.getLsbD 0 = false then _ else _) = _
  rw [hb]; rfl

theorem fadd (f) : Statement (.fadd f) := by
  refine of_word _ rfl rfl fun h => ?_
  show decodeRaw (packA 0x08#7 0x0#5 f) _ = _
  rw [raw_08]
  unfold decode08
  rw [sub_packA, unpack_packA]
  rfl

theorem fsub (f) : Statement (.fsub f) := by
  refine of_word _ rfl rfl fun h => ?_
  show decodeRaw (packA 0x08#7 0x1#5 f) _ = _
  rw [raw_08]
  unfold decode08
  rw [sub_packA, unpack_packA]
  rfl

theorem fmul (f) : Statement (.fmul f) := by
  refine of_word _ rfl rfl fun h => ?_
  show decodeRaw (packA 0x08#7 0x2#5 f) _ = _
  rw [raw_08]
  unfold decode08
  rw [sub_packA, unpack_packA]
  rfl

theorem ffma (f) : Statement (.ffma f) := by
  refine of_word _ rfl rfl fun h => ?_
  show decodeRaw (packA 0x08#7 0x3#5 f) _ = _
  rw [raw_08]
  unfold decode08
  rw [sub_packA, unpack_packA]
  rfl

theorem fmin (f) : Statement (.fmin f) := by
  refine of_word _ rfl rfl fun h => ?_
  show decodeRaw (packA 0x08#7 0x4#5 f) _ = _
  rw [raw_08]
  unfold decode08
  rw [sub_packA, unpack_packA]
  rfl

theorem fmax (f) : Statement (.fmax f) := by
  refine of_word _ rfl rfl fun h => ?_
  show decodeRaw (packA 0x08#7 0x5#5 f) _ = _
  rw [raw_08]
  unfold decode08
  rw [sub_packA, unpack_packA]
  rfl

theorem faddImm (f) : Statement (.faddImm f) := by
  refine of_word _ rfl rfl fun h => ?_
  have hx := faluiOk_ext (show faluiOk f = true from h)
  show decodeRaw (packB 0x09#7 0x0#5 f) (packBExt f) = _
  rw [raw_09]
  unfold decode09
  rw [sub_packB, unpack_packB _ _ f hx]
  rfl

theorem fsubImm (f) : Statement (.fsubImm f) := by
  refine of_word _ rfl rfl fun h => ?_
  have hx := faluiOk_ext (show faluiOk f = true from h)
  show decodeRaw (packB 0x09#7 0x1#5 f) (packBExt f) = _
  rw [raw_09]
  unfold decode09
  rw [sub_packB, unpack_packB _ _ f hx]
  rfl

theorem fmulImm (f) : Statement (.fmulImm f) := by
  refine of_word _ rfl rfl fun h => ?_
  have hx := faluiOk_ext (show faluiOk f = true from h)
  show decodeRaw (packB 0x09#7 0x2#5 f) (packBExt f) = _
  rw [raw_09]
  unfold decode09
  rw [sub_packB, unpack_packB _ _ f hx]
  rfl

theorem ffmaImm (f) : Statement (.ffmaImm f) := by
  refine of_word _ rfl rfl fun h => ?_
  have hx := faluiOk_ext (show faluiOk f = true from h)
  show decodeRaw (packB 0x09#7 0x3#5 f) (packBExt f) = _
  rw [raw_09]
  unfold decode09
  rw [sub_packB, unpack_packB _ _ f hx]
  rfl

theorem fminImm (f) : Statement (.fminImm f) := by
  refine of_word _ rfl rfl fun h => ?_
  have hx := faluiOk_ext (show faluiOk f = true from h)
  show decodeRaw (packB 0x09#7 0x4#5 f) (packBExt f) = _
  rw [raw_09]
  unfold decode09
  rw [sub_packB, unpack_packB _ _ f hx]
  rfl

theorem fmaxImm (f) : Statement (.fmaxImm f) := by
  refine of_word _ rfl rfl fun h => ?_
  have hx := faluiOk_ext (show faluiOk f = true from h)
  show decodeRaw (packB 0x09#7 0x5#5 f) (packBExt f) = _
  rw [raw_09]
  unfold decode09
  rw [sub_packB, unpack_packB _ _ f hx]
  rfl

theorem fcmp (cc) (f) : Statement (.fcmp cc f) := by
  refine of_word _ rfl rfl fun h => ?_
  show decodeRaw (packA 0x0A#7 cc f) _ = _
  rw [raw_0A]
  unfold decode0A
  have h : (cc.toNat < 8 && f.ty == 3 && predOk f.d && modeOk f.c && f.nc == 0 && f.ac == 0 && f.clp == 0 && f.sc == 0) = true := h
  simp only [Bool.and_eq_true] at h
  have hc : cc.toNat < 8 := by have := h.1.1.1.1.1.1.1; simpa using this
  rw [sub_packA, unpack_packA, if_pos hc]

theorem frcp (f) : Statement (.frcp f) := by
  refine of_word _ rfl rfl fun h => ?_
  show decodeRaw (packA 0x0B#7 0x0#5 f) _ = _
  rw [raw_0B]
  unfold decode0B
  rw [sub_packA, unpack_packA]
  rfl

theorem frsq (f) : Statement (.frsq f) := by
  refine of_word _ rfl rfl fun h => ?_
  show decodeRaw (packA 0x0B#7 0x1#5 f) _ = _
  rw [raw_0B]
  unfold decode0B
  rw [sub_packA, unpack_packA]
  rfl

theorem fsqrt (f) : Statement (.fsqrt f) := by
  refine of_word _ rfl rfl fun h => ?_
  show decodeRaw (packA 0x0B#7 0x2#5 f) _ = _
  rw [raw_0B]
  unfold decode0B
  rw [sub_packA, unpack_packA]
  rfl

theorem fexp2 (f) : Statement (.fexp2 f) := by
  refine of_word _ rfl rfl fun h => ?_
  show decodeRaw (packA 0x0B#7 0x3#5 f) _ = _
  rw [raw_0B]
  unfold decode0B
  rw [sub_packA, unpack_packA]
  rfl

theorem flog2 (f) : Statement (.flog2 f) := by
  refine of_word _ rfl rfl fun h => ?_
  show decodeRaw (packA 0x0B#7 0x4#5 f) _ = _
  rw [raw_0B]
  unfold decode0B
  rw [sub_packA, unpack_packA]
  rfl

theorem fsin (f) : Statement (.fsin f) := by
  refine of_word _ rfl rfl fun h => ?_
  show decodeRaw (packA 0x0B#7 0x5#5 f) _ = _
  rw [raw_0B]
  unfold decode0B
  rw [sub_packA, unpack_packA]
  rfl

theorem fcos (f) : Statement (.fcos f) := by
  refine of_word _ rfl rfl fun h => ?_
  show decodeRaw (packA 0x0B#7 0x6#5 f) _ = _
  rw [raw_0B]
  unfold decode0B
  rw [sub_packA, unpack_packA]
  rfl

theorem ftanh (f) : Statement (.ftanh f) := by
  refine of_word _ rfl rfl fun h => ?_
  show decodeRaw (packA 0x0B#7 0x7#5 f) _ = _
  rw [raw_0B]
  unfold decode0B
  rw [sub_packA, unpack_packA]
  rfl

theorem cvt (f) : Statement (.cvt f) := by
  refine of_word _ rfl rfl fun h => ?_
  show decodeRaw (packA 0x0C#7 0x0#5 f) _ = _
  rw [raw_0C]
  unfold decode0C
  rw [sub_packA, unpack_packA]
  rfl

theorem frnd (f) : Statement (.frnd f) := by
  refine of_word _ rfl rfl fun h => ?_
  show decodeRaw (packA 0x0D#7 0x0#5 f) _ = _
  rw [raw_0D]
  unfold decode0D
  rw [sub_packA, unpack_packA]
  rfl

theorem shfli (f) : Statement (.shfli f) := by
  refine of_word _ rfl rfl fun h => ?_
  show decodeRaw (packA 0x10#7 0x0#5 f) _ = _
  rw [raw_10]
  unfold decode10
  rw [sub_packA, unpack_packA]
  rfl

theorem shflu (f) : Statement (.shflu f) := by
  refine of_word _ rfl rfl fun h => ?_
  show decodeRaw (packA 0x10#7 0x1#5 f) _ = _
  rw [raw_10]
  unfold decode10
  rw [sub_packA, unpack_packA]
  rfl

theorem shfld (f) : Statement (.shfld f) := by
  refine of_word _ rfl rfl fun h => ?_
  show decodeRaw (packA 0x10#7 0x2#5 f) _ = _
  rw [raw_10]
  unfold decode10
  rw [sub_packA, unpack_packA]
  rfl

theorem shflx (f) : Statement (.shflx f) := by
  refine of_word _ rfl rfl fun h => ?_
  show decodeRaw (packA 0x10#7 0x3#5 f) _ = _
  rw [raw_10]
  unfold decode10
  rw [sub_packA, unpack_packA]
  rfl

theorem vall (f) : Statement (.vall f) := by
  refine of_word _ rfl rfl fun h => ?_
  show decodeRaw (packA 0x10#7 0x4#5 f) _ = _
  rw [raw_10]
  unfold decode10
  rw [sub_packA, unpack_packA]
  rfl

theorem vany (f) : Statement (.vany f) := by
  refine of_word _ rfl rfl fun h => ?_
  show decodeRaw (packA 0x10#7 0x5#5 f) _ = _
  rw [raw_10]
  unfold decode10
  rw [sub_packA, unpack_packA]
  rfl

theorem vbal (f) : Statement (.vbal f) := by
  refine of_word _ rfl rfl fun h => ?_
  show decodeRaw (packA 0x10#7 0x6#5 f) _ = _
  rw [raw_10]
  unfold decode10
  rw [sub_packA, unpack_packA]
  rfl

theorem matchany (f) : Statement (.matchany f) := by
  refine of_word _ rfl rfl fun h => ?_
  show decodeRaw (packA 0x10#7 0x7#5 f) _ = _
  rw [raw_10]
  unfold decode10
  rw [sub_packA, unpack_packA]
  rfl

theorem matchall (f) : Statement (.matchall f) := by
  refine of_word _ rfl rfl fun h => ?_
  show decodeRaw (packA 0x10#7 0x8#5 f) _ = _
  rw [raw_10]
  unfold decode10
  rw [sub_packA, unpack_packA]
  rfl

theorem redux (f) : Statement (.redux f) := by
  refine of_word _ rfl rfl fun h => ?_
  show decodeRaw (packA 0x10#7 0x9#5 f) _ = _
  rw [raw_10]
  unfold decode10
  rw [sub_packA, unpack_packA]
  rfl

theorem dec (f) : Statement (.dec f) := by
  refine of_word _ rfl rfl fun h => ?_
  show decodeRaw (packF 0x18#7 0x0#5 f) _ = _
  rw [raw_18]
  unfold decode18
  rw [sub_packF, unpack_packF]
  have h : (fmtOk f false true true && f.nb == 0) = true := h
  simp only [Bool.and_eq_true, beq_iff_eq] at h
  have hb := h.2
  show (if f.nb = 0 then _ else _) = _
  rw [hb]; rfl

theorem decBlk (f) : Statement (.decBlk f) := by
  refine of_word _ rfl rfl fun h => ?_
  show decodeRaw (packF 0x18#7 0x0#5 f) _ = _
  rw [raw_18]
  unfold decode18
  rw [sub_packF, unpack_packF]
  have h : (fmtOk f false true true && f.nb == 1) = true := h
  simp only [Bool.and_eq_true, beq_iff_eq] at h
  have hb := h.2
  show (if f.nb = 0 then _ else _) = _
  rw [hb]; rfl

theorem enc (f) : Statement (.enc f) := by
  refine of_word _ rfl rfl fun h => ?_
  show decodeRaw (packF 0x18#7 0x1#5 f) _ = _
  rw [raw_18]
  unfold decode18
  rw [sub_packF, unpack_packF]
  have h : (fmtOk f true false true && f.nb == 0) = true := h
  simp only [Bool.and_eq_true, beq_iff_eq] at h
  have hb := h.2
  show (if f.nb = 0 then _ else _) = _
  rw [hb]; rfl

theorem encBlk (f) : Statement (.encBlk f) := by
  refine of_word _ rfl rfl fun h => ?_
  show decodeRaw (packF 0x18#7 0x1#5 f) _ = _
  rw [raw_18]
  unfold decode18
  rw [sub_packF, unpack_packF]
  have h : (fmtOk f true false true && f.nb == 1 && kReg 4 f.b) = true := h
  simp only [Bool.and_eq_true, beq_iff_eq] at h
  have hb := h.1.2
  show (if f.nb = 0 then _ else _) = _
  rw [hb]; rfl

theorem req (f) : Statement (.req f) := by
  refine of_word _ rfl rfl fun h => ?_
  show decodeRaw (packF 0x18#7 0x2#5 f) _ = _
  rw [raw_18]
  unfold decode18
  rw [sub_packF, unpack_packF]
  have h : (fmtOk f true true true && f.nb == 0) = true := h
  simp only [Bool.and_eq_true, beq_iff_eq] at h
  have hb := h.2
  show (if f.nb = 0 then _ else _) = _
  rw [hb]; rfl

theorem reqBlk (f) : Statement (.reqBlk f) := by
  refine of_word _ rfl rfl fun h => ?_
  show decodeRaw (packF 0x18#7 0x2#5 f) _ = _
  rw [raw_18]
  unfold decode18
  rw [sub_packF, unpack_packF]
  have h : (fmtOk f true true true && f.nb == 1) = true := h
  simp only [Bool.and_eq_true, beq_iff_eq] at h
  have hb := h.2
  show (if f.nb = 0 then _ else _) = _
  rw [hb]; rfl

theorem sclq (f) : Statement (.sclq f) := by
  refine of_word _ rfl rfl fun h => ?_
  show decodeRaw (packF 0x18#7 0x3#5 f) _ = _
  rw [raw_18]
  unfold decode18
  rw [sub_packF, unpack_packF]
  rfl

theorem fmtq (f) : Statement (.fmtq f) := by
  refine of_word _ rfl rfl fun h => ?_
  show decodeRaw (packF 0x18#7 0x4#5 f) _ = _
  rw [raw_18]
  unfold decode18
  rw [sub_packF, unpack_packF]
  rfl

theorem slotbind (f) : Statement (.slotbind f) := by
  refine of_word _ rfl rfl fun h => ?_
  show decodeRaw (packS 0x19#7 0x0#4 f) _ = _
  rw [raw_19]
  unfold decode19
  rw [sub_packS, unpack_packS]
  rfl

theorem slotfence (f) : Statement (.slotfence f) := by
  refine of_word _ rfl rfl fun h => ?_
  show decodeRaw (packS 0x19#7 0x1#4 f) _ = _
  rw [raw_19]
  unfold decode19
  rw [sub_packS, unpack_packS]
  rfl

theorem slotrel (f) : Statement (.slotrel f) := by
  refine of_word _ rfl rfl fun h => ?_
  show decodeRaw (packS 0x19#7 0x2#4 f) _ = _
  rw [raw_19]
  unfold decode19
  rw [sub_packS, unpack_packS]
  rfl

theorem slotReconfigureStart (core) (fs) : Statement (.slotReconfigureStart core fs) := by
  exact of_event _ rfl rfl fun st => by cases st <;> rfl

theorem slotReconfigureEnd (core) (fs) (readbackOk) : Statement (.slotReconfigureEnd core fs readbackOk) := by
  exact of_event _ rfl rfl fun st => by cases st <;> rfl

theorem ld (f) : Statement (.ld f) := by
  refine of_word _ rfl rfl fun h => ?_
  have h : (mRow f [0, 1, 2, 3, 4, 5] [0, 1] [0, 1] true true) = true := h
  have hx := mRow_ext h
  show decodeRaw (packM 0x20#7 0x0#5 f) (packMExt f) = _
  rw [raw_20]
  unfold decode20
  rw [sub_packM, unpack_packM _ _ f hx]
  rfl

theorem ldf (f) : Statement (.ldf f) := by
  refine of_word _ rfl rfl fun h => ?_
  have h : (mRow f [2, 3] [1] [0, 1] true false) = true := h
  have hx := mRow_ext h
  show decodeRaw (packM 0x20#7 0x1#5 f) (packMExt f) = _
  rw [raw_20]
  unfold decode20
  rw [sub_packM, unpack_packM _ _ f hx]
  rfl

theorem ldfk (f) : Statement (.ldfk f) := by
  refine of_word _ rfl rfl fun h => ?_
  have h : (mRow f [2, 3] [1] [0, 1] true false) = true := h
  have hx := mRow_ext h
  show decodeRaw (packM 0x20#7 0x2#5 f) (packMExt f) = _
  rw [raw_20]
  unfold decode20
  rw [sub_packM, unpack_packM _ _ f hx]
  rfl

theorem lda16 (f) : Statement (.lda16 f) := by
  refine of_word _ rfl rfl fun h => ?_
  have h : (mRow f [4] [0] [0, 1] true true && !isGz f.ab) = true := h
  simp only [Bool.and_eq_true, beq_iff_eq] at h
  have hx := mRow_ext h.1
  show decodeRaw (packM 0x20#7 0x3#5 f) (packMExt f) = _
  rw [raw_20]
  unfold decode20
  rw [sub_packM, unpack_packM _ _ f hx]
  rfl

theorem st (f) : Statement (.st f) := by
  refine of_word _ rfl rfl fun h => ?_
  have h : (mRow f [0, 1, 2, 3, 4, 5] [0, 1] [0, 2] true true) = true := h
  have hx := mRow_ext h
  show decodeRaw (packM 0x21#7 0x0#5 f) (packMExt f) = _
  rw [raw_21]
  unfold decode21
  rw [sub_packM, unpack_packM _ _ f hx]
  simp only [mRow, Bool.and_eq_true] at h
  have hs := h.1.1.1.1.2
  have hs : f.sp ≠ 2 := by intro e; rw [e] at hs; exact absurd hs (by decide)
  exact if_pos hs

theorem ste (f) : Statement (.ste f) := by
  refine of_word _ rfl rfl fun h => ?_
  have h : (mRow f [2, 3] [1] [0, 2] true false) = true := h
  have hx := mRow_ext h
  show decodeRaw (packM 0x21#7 0x1#5 f) (packMExt f) = _
  rw [raw_21]
  unfold decode21
  rw [sub_packM, unpack_packM _ _ f hx]
  rfl

theorem stf (f) : Statement (.stf f) := by
  refine of_word _ rfl rfl fun h => ?_
  have h : (mRow f [2, 3] [1] [0, 2] true false) = true := h
  have hx := mRow_ext h
  show decodeRaw (packM 0x21#7 0x2#5 f) (packMExt f) = _
  rw [raw_21]
  unfold decode21
  rw [sub_packM, unpack_packM _ _ f hx]
  rfl

theorem tagclr (f) : Statement (.tagclr f) := by
  refine of_word _ rfl rfl fun h => ?_
  have h : (mRow f [2, 3] [1] [0, 2] true false && isGz f.v) = true := h
  simp only [Bool.and_eq_true, beq_iff_eq] at h
  have hx := mRow_ext h.1
  show decodeRaw (packM 0x21#7 0x3#5 f) (packMExt f) = _
  rw [raw_21]
  unfold decode21
  rw [sub_packM, unpack_packM _ _ f hx]
  rfl

theorem xstart (f) : Statement (.xstart f) := by
  refine of_word _ rfl rfl fun h => ?_
  have h : (mRow f [3] [2] [0, 2] true true) = true := h
  have hx := mRow_ext h
  show decodeRaw (packM 0x21#7 0x0#5 f) (packMExt f) = _
  rw [raw_21]
  unfold decode21
  rw [sub_packM, unpack_packM _ _ f hx]
  simp only [mRow, Bool.and_eq_true] at h
  have hs := h.1.1.1.1.2
  have hs : ¬ f.sp ≠ 2 := by intro e; apply e; apply BitVec.eq_of_toNat_eq; simpa using hs
  exact if_neg hs

theorem copyAccept (core) : Statement (.copyAccept core) := by
  exact of_event _ rfl rfl fun st => by cases st <;> rfl

theorem copyChunk (core) (job) : Statement (.copyChunk core job) := by
  exact of_event _ rfl rfl fun st => by cases st <;> rfl

theorem copyArrival (core) (job) : Statement (.copyArrival core job) := by
  exact of_event _ rfl rfl fun st => by cases st <;> rfl

theorem lda16Arrival (core) (id) : Statement (.lda16Arrival core id) := by
  exact of_event _ rfl rfl fun st => by cases st <;> rfl

theorem pref (f) : Statement (.pref f) := by
  refine of_word _ rfl rfl fun h => ?_
  have h : (mRow f [0] [0] [0] false true && isGz f.v) = true := h
  simp only [Bool.and_eq_true, beq_iff_eq] at h
  have hx := mRow_ext h.1
  show decodeRaw (packM 0x22#7 0x0#5 f) (packMExt f) = _
  rw [raw_22]
  unfold decode22
  rw [sub_packM, unpack_packM _ _ f hx]
  rfl

theorem ipref (f) : Statement (.ipref f) := by
  refine of_word _ rfl rfl fun h => ?_
  have h : (mRow f [0] [0] [0] false false && isGz f.v) = true := h
  simp only [Bool.and_eq_true, beq_iff_eq] at h
  have hx := mRow_ext h.1
  show decodeRaw (packM 0x22#7 0x1#5 f) (packMExt f) = _
  rw [raw_22]
  unfold decode22
  rw [sub_packM, unpack_packM _ _ f hx]
  rfl

theorem cctlWb (f) : Statement (.cctlWb f) := by
  refine of_word _ rfl rfl fun h => ?_
  have h : (mRow f [0] [0] [0] false false && isGz f.v) = true := h
  simp only [Bool.and_eq_true, beq_iff_eq] at h
  have hx := mRow_ext h.1
  show decodeRaw (packM 0x22#7 0x2#5 f) (packMExt f) = _
  rw [raw_22]
  unfold decode22
  rw [sub_packM, unpack_packM _ _ f hx]
  simp only [mRow, Bool.and_eq_true] at h
  have hs := h.1.1.1.1.1.1
  have hs : f.sz = 0 := by apply BitVec.eq_of_toNat_eq; simpa using hs
  show (if f.sz = 0 then _ else if f.sz = 1 then _ else if f.sz = 2 then _ else _) = _
  rw [hs]; rfl

theorem cctlEvict (f) : Statement (.cctlEvict f) := by
  refine of_word _ rfl rfl fun h => ?_
  have h : (mRow f [1] [0] [0] false false && isGz f.v) = true := h
  simp only [Bool.and_eq_true, beq_iff_eq] at h
  have hx := mRow_ext h.1
  show decodeRaw (packM 0x22#7 0x2#5 f) (packMExt f) = _
  rw [raw_22]
  unfold decode22
  rw [sub_packM, unpack_packM _ _ f hx]
  simp only [mRow, Bool.and_eq_true] at h
  have hs := h.1.1.1.1.1.1
  have hs : f.sz = 1 := by apply BitVec.eq_of_toNat_eq; simpa using hs
  show (if f.sz = 0 then _ else if f.sz = 1 then _ else if f.sz = 2 then _ else _) = _
  rw [hs]; rfl

theorem cctlPdrop (f) : Statement (.cctlPdrop f) := by
  refine of_word _ rfl rfl fun h => ?_
  have h : (mRow f [2] [0] [0] false false && isGz f.v) = true := h
  simp only [Bool.and_eq_true, beq_iff_eq] at h
  have hx := mRow_ext h.1
  show decodeRaw (packM 0x22#7 0x2#5 f) (packMExt f) = _
  rw [raw_22]
  unfold decode22
  rw [sub_packM, unpack_packM _ _ f hx]
  simp only [mRow, Bool.and_eq_true] at h
  have hs := h.1.1.1.1.1.1
  have hs : f.sz = 2 := by apply BitVec.eq_of_toNat_eq; simpa using hs
  show (if f.sz = 0 then _ else if f.sz = 1 then _ else if f.sz = 2 then _ else _) = _
  rw [hs]; rfl

theorem fence (f) : Statement (.fence f) := by
  refine of_word _ rfl rfl fun h => ?_
  have h : (mRow f [0] [0] [1, 2, 3] true false && isGz f.v && isGz f.ab && f.ofs == 0) = true := h
  simp only [Bool.and_eq_true, beq_iff_eq] at h
  have hx := mRow_ext h.1.1.1
  show decodeRaw (packM 0x23#7 0x0#5 f) (packMExt f) = _
  rw [raw_23]
  unfold decode23
  rw [sub_packM, unpack_packM _ _ f hx]
  rfl

theorem fencemir (f) : Statement (.fencemir f) := by
  refine of_word _ rfl rfl fun h => ?_
  have h : (mRow f [0] [0] [0] false false && isGz f.v && isGz f.ab && f.ofs == 0) = true := h
  simp only [Bool.and_eq_true, beq_iff_eq] at h
  have hx := mRow_ext h.1.1.1
  show decodeRaw (packM 0x23#7 0x1#5 f) (packMExt f) = _
  rw [raw_23]
  unfold decode23
  rw [sub_packM, unpack_packM _ _ f hx]
  rfl

theorem isync (f) : Statement (.isync f) := by
  refine of_word _ rfl rfl fun h => ?_
  have h : (mRow f [0] [0] [0] false false && isGz f.v && isGz f.ab && f.ofs == 0) = true := h
  simp only [Bool.and_eq_true, beq_iff_eq] at h
  have hx := mRow_ext h.1.1.1
  show decodeRaw (packM 0x23#7 0x2#5 f) (packMExt f) = _
  rw [raw_23]
  unfold decode23
  rw [sub_packM, unpack_packM _ _ f hx]
  rfl

theorem xtset (f) : Statement (.xtset f) := by
  refine of_word _ rfl rfl fun h => ?_
  show decodeRaw (packY 0x32#7 0x0#4 f) _ = _
  rw [raw_32]
  unfold decode32
  rw [sub_packY, unpack_packY]
  rfl

theorem xquery (f) : Statement (.xquery f) := by
  refine of_word _ rfl rfl fun h => ?_
  show decodeRaw (packY 0x32#7 0x1#4 f) _ = _
  rw [raw_32]
  unfold decode32
  rw [sub_packY, unpack_packY]
  rfl

theorem ringinit (f) : Statement (.ringinit f) := by
  refine of_word _ rfl rfl fun h => ?_
  show decodeRaw (packY 0x31#7 0x0#4 f) _ = _
  rw [raw_31]
  unfold decode31
  rw [sub_packY, unpack_packY]
  rfl

theorem awaitf (f) : Statement (.awaitf f) := by
  refine of_word _ rfl rfl fun h => ?_
  show decodeRaw (packY 0x31#7 0x1#4 f) _ = _
  rw [raw_31]
  unfold decode31
  rw [sub_packY, unpack_packY]
  rfl

theorem rels (f) : Statement (.rels f) := by
  refine of_word _ rfl rfl fun h => ?_
  show decodeRaw (packY 0x31#7 0x2#4 f) _ = _
  rw [raw_31]
  unfold decode31
  rw [sub_packY, unpack_packY]
  have h : (f.nb == 0 && f.flg == 0) = true := h
  simp only [Bool.and_eq_true, beq_iff_eq] at h
  have hb := h.2
  show (if f.flg.getLsbD 0 = false then _ else _) = _
  rw [hb]; rfl

theorem relsKeep (f) : Statement (.relsKeep f) := by
  refine of_word _ rfl rfl fun h => ?_
  show decodeRaw (packY 0x31#7 0x2#4 f) _ = _
  rw [raw_31]
  unfold decode31
  rw [sub_packY, unpack_packY]
  have h : (f.nb == 0 && f.flg == 1 && isGz f.d) = true := h
  simp only [Bool.and_eq_true, beq_iff_eq] at h
  have hb := h.1.2
  show (if f.flg.getLsbD 0 = false then _ else _) = _
  rw [hb]; rfl

theorem yieldc (f) : Statement (.yieldc f) := by
  refine of_word _ rfl rfl fun h => ?_
  show decodeRaw (packY 0x31#7 0x3#4 f) _ = _
  rw [raw_31]
  unfold decode31
  rw [sub_packY, unpack_packY]
  rfl

theorem dset (f) : Statement (.dset f) := by
  refine of_word _ rfl rfl fun h => ?_
  show decodeRaw (packS 0x3B#7 0x0#4 f) _ = _
  rw [raw_3B]
  unfold decode3B
  rw [sub_packS, unpack_packS]
  have h : (f.imm16 == 0 && isGz f.d && f.sel.toNat < 16) = true := h
  simp only [Bool.and_eq_true, beq_iff_eq] at h
  show (if f.sel.getLsbD 7 = false then _ else _) = _
  have hs : f.sel.toNat < 16 := by simpa using h.2
  have hb : f.sel.getLsbD 7 = false := by
    rw [BitVec.getLsbD, Nat.testBit_lt_two_pow (Nat.lt_of_lt_of_le hs (by decide))]
  rw [hb]; rfl

theorem dsetW (f) : Statement (.dsetW f) := by
  refine of_word _ rfl rfl fun h => ?_
  show decodeRaw (packS 0x3B#7 0x0#4 f) _ = _
  rw [raw_3B]
  unfold decode3B
  rw [sub_packS, unpack_packS]
  have h : (f.imm16 == 0 && isGz f.d && f.sel.toNat < 256 && bitAt f.sel 7 && !bitAt f.sel 4) = true := h
  simp only [Bool.and_eq_true, beq_iff_eq] at h
  show (if f.sel.getLsbD 7 = false then _ else _) = _
  have hb : f.sel.getLsbD 7 = true := h.1.2
  rw [hb]; rfl

theorem lease (f) : Statement (.lease f) := by
  refine of_word _ rfl rfl fun h => ?_
  show decodeRaw (packS 0x50#7 0x7#4 f) _ = _
  rw [raw_50]
  unfold decode50
  rw [sub_packS, unpack_packS]
  rfl

theorem unlease (f) : Statement (.unlease f) := by
  refine of_word _ rfl rfl fun h => ?_
  show decodeRaw (packS 0x50#7 0x8#4 f) _ = _
  rw [raw_50]
  unfold decode50
  rw [sub_packS, unpack_packS]
  rfl

theorem leaseExpiry (slice) (lease) : Statement (.leaseExpiry slice lease) := by
  exact of_event _ rfl rfl fun st => by cases st <;> rfl

theorem atomAdd (f) : Statement (.atomAdd f) := by
  refine of_word _ rfl rfl fun h => ?_
  have h : (atomOk f [1, 2, 11, 3, 4]) = true := h
  have hx := atomOk_ext h
  show decodeRaw (packM 0x28#7 0x0#5 f) (packMExt f) = _
  rw [raw_28]
  unfold decode28
  rw [sub_packM, unpack_packM _ _ f hx]
  rfl

theorem atomMin (f) : Statement (.atomMin f) := by
  refine of_word _ rfl rfl fun h => ?_
  have h : (atomOk f [1, 2, 11, 12, 3]) = true := h
  have hx := atomOk_ext h
  show decodeRaw (packM 0x28#7 0x1#5 f) (packMExt f) = _
  rw [raw_28]
  unfold decode28
  rw [sub_packM, unpack_packM _ _ f hx]
  rfl

theorem atomMax (f) : Statement (.atomMax f) := by
  refine of_word _ rfl rfl fun h => ?_
  have h : (atomOk f [1, 2, 11, 12, 3]) = true := h
  have hx := atomOk_ext h
  show decodeRaw (packM 0x28#7 0x2#5 f) (packMExt f) = _
  rw [raw_28]
  unfold decode28
  rw [sub_packM, unpack_packM _ _ f hx]
  rfl

theorem atomAnd (f) : Statement (.atomAnd f) := by
  refine of_word _ rfl rfl fun h => ?_
  have h : (atomOk f [0, 10]) = true := h
  have hx := atomOk_ext h
  show decodeRaw (packM 0x28#7 0x3#5 f) (packMExt f) = _
  rw [raw_28]
  unfold decode28
  rw [sub_packM, unpack_packM _ _ f hx]
  rfl

theorem atomOr (f) : Statement (.atomOr f) := by
  refine of_word _ rfl rfl fun h => ?_
  have h : (atomOk f [0, 10]) = true := h
  have hx := atomOk_ext h
  show decodeRaw (packM 0x28#7 0x4#5 f) (packMExt f) = _
  rw [raw_28]
  unfold decode28
  rw [sub_packM, unpack_packM _ _ f hx]
  rfl

theorem atomXor (f) : Statement (.atomXor f) := by
  refine of_word _ rfl rfl fun h => ?_
  have h : (atomOk f [0, 10]) = true := h
  have hx := atomOk_ext h
  show decodeRaw (packM 0x28#7 0x5#5 f) (packMExt f) = _
  rw [raw_28]
  unfold decode28
  rw [sub_packM, unpack_packM _ _ f hx]
  rfl

theorem atomExch (f) : Statement (.atomExch f) := by
  refine of_word _ rfl rfl fun h => ?_
  have h : (atomOk f [0, 10]) = true := h
  have hx := atomOk_ext h
  show decodeRaw (packM 0x28#7 0x6#5 f) (packMExt f) = _
  rw [raw_28]
  unfold decode28
  rw [sub_packM, unpack_packM _ _ f hx]
  rfl

theorem atomCas (f) : Statement (.atomCas f) := by
  refine of_word _ rfl rfl fun h => ?_
  have h : (atomOk f [0, 10] && casOk f) = true := h
  simp only [Bool.and_eq_true, beq_iff_eq] at h
  have hx := atomOk_ext h.1
  show decodeRaw (packM 0x28#7 0x7#5 f) (packMExt f) = _
  rw [raw_28]
  unfold decode28
  rw [sub_packM, unpack_packM _ _ f hx]
  rfl

theorem routerRequestArrival (entry) (arriving) : Statement (.routerRequestArrival entry arriving) := by
  exact of_event _ rfl rfl fun st => by cases st <;> rfl

theorem atomHomePerform (req) : Statement (.atomHomePerform req) := by
  exact of_event _ rfl rfl fun st => by cases st <;> rfl

theorem loadWriteback (req) : Statement (.loadWriteback req) := by
  exact of_event _ rfl rfl fun st => by cases st <;> rfl

theorem cmb (f) : Statement (.cmb f) := by
  refine of_word _ rfl rfl fun h => ?_
  have h : (cmbOk f) = true := h
  have hx := cmbOk_ext h
  show decodeRaw (packM 0x29#7 0x0#5 f) (packMExt f) = _
  rw [raw_29]
  unfold decode29
  rw [sub_packM, unpack_packM _ _ f hx]
  rfl

theorem cmbRequestArrival (req) : Statement (.cmbRequestArrival req) := by
  exact of_event _ rfl rfl fun st => by cases st <;> rfl

theorem combinerWaveStart (slice) : Statement (.combinerWaveStart slice) := by
  exact of_event _ rfl rfl fun st => by cases st <;> rfl

theorem combinerWaveEnd (slice) (residue) : Statement (.combinerWaveEnd slice residue) := by
  exact of_event _ rfl rfl fun st => by cases st <;> rfl

theorem cobjInit (f) : Statement (.cobjInit f) := by
  refine of_word _ rfl rfl fun h => ?_
  show decodeRaw (packS 0x2A#7 0x0#4 f) _ = _
  rw [raw_2A]
  unfold decode2A
  rw [sub_packS, unpack_packS]
  rfl

theorem cobjArm (f) : Statement (.cobjArm f) := by
  refine of_word _ rfl rfl fun h => ?_
  show decodeRaw (packS 0x2A#7 0x1#4 f) _ = _
  rw [raw_2A]
  unfold decode2A
  rw [sub_packS, unpack_packS]
  rfl

theorem cobjQuery (f) : Statement (.cobjQuery f) := by
  refine of_word _ rfl rfl fun h => ?_
  show decodeRaw (packS 0x2A#7 0x2#4 f) _ = _
  rw [raw_2A]
  unfold decode2A
  rw [sub_packS, unpack_packS]
  rfl

theorem barinit (f) : Statement (.barinit f) := by
  refine of_word _ rfl rfl fun h => ?_
  show decodeRaw (packY 0x30#7 0x0#4 f) _ = _
  rw [raw_30]
  unfold decode30
  rw [sub_packY, unpack_packY]
  have h : (predOk f.d && isGz f.b && f.imm12 != 0 && f.nb == 0 && f.flg == 0) = true := h
  simp only [Bool.and_eq_true, beq_iff_eq] at h
  have hb := h.2
  show (if f.flg.getLsbD 0 = false then _ else _) = _
  rw [hb]; rfl

theorem barinitNb (f) : Statement (.barinitNb f) := by
  refine of_word _ rfl rfl fun h => ?_
  show decodeRaw (packY 0x30#7 0x0#4 f) _ = _
  rw [raw_30]
  unfold decode30
  rw [sub_packY, unpack_packY]
  have h : (isGz f.d && isGz f.a && isGz f.b && f.imm12 != 0 && f.flg == 1) = true := h
  simp only [Bool.and_eq_true, beq_iff_eq] at h
  have hb := h.2
  show (if f.flg.getLsbD 0 = false then _ else _) = _
  rw [hb]; rfl

theorem bararv (f) : Statement (.bararv f) := by
  refine of_word _ rfl rfl fun h => ?_
  show decodeRaw (packY 0x30#7 0x1#4 f) _ = _
  rw [raw_30]
  unfold decode30
  rw [sub_packY, unpack_packY]
  rfl

theorem barwait (f) : Statement (.barwait f) := by
  refine of_word _ rfl rfl fun h => ?_
  show decodeRaw (packY 0x30#7 0x2#4 f) _ = _
  rw [raw_30]
  unfold decode30
  rw [sub_packY, unpack_packY]
  rfl

theorem barsync (f) : Statement (.barsync f) := by
  refine of_word _ rfl rfl fun h => ?_
  show decodeRaw (packY 0x30#7 0x3#4 f) _ = _
  rw [raw_30]
  unfold decode30
  rw [sub_packY, unpack_packY]
  rfl

theorem nbarv (f) : Statement (.nbarv f) := by
  refine of_word _ rfl rfl fun h => ?_
  show decodeRaw (packY 0x30#7 0x4#4 f) _ = _
  rw [raw_30]
  unfold decode30
  rw [sub_packY, unpack_packY]
  rfl

theorem nbwait (f) : Statement (.nbwait f) := by
  refine of_word _ rfl rfl fun h => ?_
  show decodeRaw (packY 0x30#7 0x5#4 f) _ = _
  rw [raw_30]
  unfold decode30
  rw [sub_packY, unpack_packY]
  rfl

theorem nbsync (f) : Statement (.nbsync f) := by
  refine of_word _ rfl rfl fun h => ?_
  show decodeRaw (packY 0x30#7 0x6#4 f) _ = _
  rw [raw_30]
  unfold decode30
  rw [sub_packY, unpack_packY]
  rfl

theorem bra (f) : Statement (.bra f) := by
  refine of_word _ rfl rfl fun h => ?_
  show decodeRaw (packC 0x40#7 0x0#4 f) _ = _
  rw [raw_40]
  unfold decode40
  rw [sub_packC, unpack_packC]
  rfl

theorem brx (f) : Statement (.brx f) := by
  refine of_word _ rfl rfl fun h => ?_
  show decodeRaw (packC 0x40#7 0x1#4 f) _ = _
  rw [raw_40]
  unfold decode40
  rw [sub_packC, unpack_packC]
  rfl

theorem call (f) : Statement (.call f) := by
  refine of_word _ rfl rfl fun h => ?_
  show decodeRaw (packC 0x40#7 0x2#4 f) _ = _
  rw [raw_40]
  unfold decode40
  rw [sub_packC, unpack_packC]
  rfl

theorem ret (f) : Statement (.ret f) := by
  refine of_word _ rfl rfl fun h => ?_
  show decodeRaw (packC 0x40#7 0x3#4 f) _ = _
  rw [raw_40]
  unfold decode40
  rw [sub_packC, unpack_packC]
  rfl

theorem exit (f) : Statement (.exit f) := by
  refine of_word _ rfl rfl fun h => ?_
  show decodeRaw (packC 0x40#7 0x4#4 f) _ = _
  rw [raw_40]
  unfold decode40
  rw [sub_packC, unpack_packC]
  rfl

theorem regang (f) : Statement (.regang f) := by
  refine of_word _ rfl rfl fun h => ?_
  show decodeRaw (packC 0x40#7 0x5#4 f) _ = _
  rw [raw_40]
  unfold decode40
  rw [sub_packC, unpack_packC]
  rfl

theorem brkpt (f) : Statement (.brkpt f) := by
  refine of_word _ rfl rfl fun h => ?_
  show decodeRaw (packC 0x40#7 0x6#4 f) _ = _
  rw [raw_40]
  unfold decode40
  rw [sub_packC, unpack_packC]
  rfl

theorem nop (f) : Statement (.nop f) := by
  refine of_word _ rfl rfl fun h => ?_
  show decodeRaw (packC 0x40#7 0x7#4 f) _ = _
  rw [raw_40]
  unfold decode40
  rw [sub_packC, unpack_packC]
  rfl

theorem fork (f) : Statement (.fork f) := by
  refine of_word _ rfl rfl fun h => ?_
  show decodeRaw (packS 0x48#7 0x0#4 f) _ = _
  rw [raw_48]
  unfold decode48
  rw [sub_packS, unpack_packS]
  rfl

theorem rdv (f) : Statement (.rdv f) := by
  refine of_word _ rfl rfl fun h => ?_
  show decodeRaw (packS 0x48#7 0x1#4 f) _ = _
  rw [raw_48]
  unfold decode48
  rw [sub_packS, unpack_packS]
  rfl

theorem seqend (f) : Statement (.seqend f) := by
  refine of_word _ rfl rfl fun h => ?_
  show decodeRaw (packS 0x48#7 0x2#4 f) _ = _
  rw [raw_48]
  unfold decode48
  rw [sub_packS, unpack_packS]
  rfl

theorem sow (f) : Statement (.sow f) := by
  refine of_word _ rfl rfl fun h => ?_
  show decodeRaw (packS 0x50#7 0x0#4 f) _ = _
  rw [raw_50]
  unfold decode50
  rw [sub_packS, unpack_packS]
  rfl

theorem waitp (f) : Statement (.waitp f) := by
  refine of_word _ rfl rfl fun h => ?_
  show decodeRaw (packS 0x50#7 0x1#4 f) _ = _
  rw [raw_50]
  unfold decode50
  rw [sub_packS, unpack_packS]
  rfl

theorem trigger (f) : Statement (.trigger f) := by
  refine of_word _ rfl rfl fun h => ?_
  show decodeRaw (packS 0x50#7 0x2#4 f) _ = _
  rw [raw_50]
  unfold decode50
  rw [sub_packS, unpack_packS]
  rfl

theorem csrr (f) : Statement (.csrr f) := by
  refine of_word _ rfl rfl fun h => ?_
  show decodeRaw (packS 0x50#7 0x3#4 f) _ = _
  rw [raw_50]
  unfold decode50
  rw [sub_packS, unpack_packS]
  rfl

theorem csrw (f) : Statement (.csrw f) := by
  refine of_word _ rfl rfl fun h => ?_
  show decodeRaw (packS 0x50#7 0x4#4 f) _ = _
  rw [raw_50]
  unfold decode50
  rw [sub_packS, unpack_packS]
  rfl

theorem svc (f) : Statement (.svc f) := by
  refine of_word _ rfl rfl fun h => ?_
  show decodeRaw (packS 0x50#7 0x5#4 f) _ = _
  rw [raw_50]
  unfold decode50
  rw [sub_packS, unpack_packS]
  rfl

theorem trap (f) : Statement (.trap f) := by
  refine of_word _ rfl rfl fun h => ?_
  show decodeRaw (packS 0x50#7 0x6#4 f) _ = _
  rw [raw_50]
  unfold decode50
  rw [sub_packS, unpack_packS]
  rfl

theorem mma (f) : Statement (.mma f) := by
  refine of_word _ rfl rfl fun h => ?_
  show decodeRaw (packMX 0x38#7 0x0#4 f) _ = _
  rw [raw_38]
  unfold decode38
  rw [sub_packMX, unpack_packMX]
  rfl

theorem acz (f) : Statement (.acz f) := by
  refine of_word _ rfl rfl fun h => ?_
  show decodeRaw (packMX 0x38#7 0x1#4 f) _ = _
  rw [raw_38]
  unfold decode38
  rw [sub_packMX, unpack_packMX]
  rfl

theorem acdrn (f) : Statement (.acdrn f) := by
  refine of_word _ rfl rfl fun h => ?_
  show decodeRaw (packMX 0x38#7 0x2#4 f) _ = _
  rw [raw_38]
  unfold decode38
  rw [sub_packMX, unpack_packMX]
  rfl

theorem acclose (f) : Statement (.acclose f) := by
  refine of_word _ rfl rfl fun h => ?_
  show decodeRaw (packMX 0x38#7 0x3#4 f) _ = _
  rw [raw_38]
  unfold decode38
  rw [sub_packMX, unpack_packMX]
  rfl

theorem jobDispatch (core) (drain) : Statement (.jobDispatch core drain) := by
  exact of_event _ rfl rfl fun st => by cases st <;> rfl

theorem mmaOutputBlock (core) (residue) : Statement (.mmaOutputBlock core residue) := by
  exact of_event _ rfl rfl fun st => by cases st <;> rfl

theorem matrixJobComplete (core) (job) : Statement (.matrixJobComplete core job) := by
  exact of_event _ rfl rfl fun st => by cases st <;> rfl

theorem acdrnLine (core) : Statement (.acdrnLine core) := by
  exact of_event _ rfl rfl fun st => by cases st <;> rfl

theorem tileClose (core) (job) : Statement (.tileClose core job) := by
  exact of_event _ rfl rfl fun st => by cases st <;> rfl

theorem acal (f) : Statement (.acal f) := by
  refine of_word _ rfl rfl fun h => ?_
  show decodeRaw (packS 0x39#7 0x0#4 f) _ = _
  rw [raw_39]
  unfold decode39
  rw [sub_packS, unpack_packS]
  rfl

theorem acfree (f) : Statement (.acfree f) := by
  refine of_word _ rfl rfl fun h => ?_
  show decodeRaw (packS 0x39#7 0x1#4 f) _ = _
  rw [raw_39]
  unfold decode39
  rw [sub_packS, unpack_packS]
  rfl

theorem acstat (f) : Statement (.acstat f) := by
  refine of_word _ rfl rfl fun h => ?_
  show decodeRaw (packS 0x39#7 0x2#4 f) _ = _
  rw [raw_39]
  unfold decode39
  rw [sub_packS, unpack_packS]
  have h : (f.imm16 == 0 && f.sel.toNat < 16 && isGz f.a) = true := h
  simp only [Bool.and_eq_true, beq_iff_eq] at h
  show (if f.sel.getLsbD 4 = false then _ else _) = _
  have hs : f.sel.toNat < 16 := by simpa using h.1.2
  have hb : f.sel.getLsbD 4 = false := by
    rw [BitVec.getLsbD, Nat.testBit_lt_two_pow (Nat.lt_of_lt_of_le hs (by decide))]
  rw [hb]; rfl

theorem acstatBlk (f) : Statement (.acstatBlk f) := by
  refine of_word _ rfl rfl fun h => ?_
  show decodeRaw (packS 0x39#7 0x2#4 f) _ = _
  rw [raw_39]
  unfold decode39
  rw [sub_packS, unpack_packS]
  have h : (f.imm16 == 0 && f.sel.toNat < 64 && bitAt f.sel 4 && isGz f.a) = true := h
  simp only [Bool.and_eq_true, beq_iff_eq] at h
  show (if f.sel.getLsbD 4 = false then _ else _) = _
  have hb : f.sel.getLsbD 4 = true := h.1.2
  rw [hb]; rfl

theorem acband (f) : Statement (.acband f) := by
  refine of_word _ rfl rfl fun h => ?_
  show decodeRaw (packS 0x39#7 0x3#4 f) _ = _
  rw [raw_39]
  unfold decode39
  rw [sub_packS, unpack_packS]
  have h : (f.imm16 == 0 && f.sel.toNat < 16 && isGz f.d) = true := h
  simp only [Bool.and_eq_true, beq_iff_eq] at h
  show (if f.sel.getLsbD 4 = false then _ else _) = _
  have hs : f.sel.toNat < 16 := by simpa using h.1.2
  have hb : f.sel.getLsbD 4 = false := by
    rw [BitVec.getLsbD, Nat.testBit_lt_two_pow (Nat.lt_of_lt_of_le hs (by decide))]
  rw [hb]; rfl

theorem acbandRel (f) : Statement (.acbandRel f) := by
  refine of_word _ rfl rfl fun h => ?_
  show decodeRaw (packS 0x39#7 0x3#4 f) _ = _
  rw [raw_39]
  unfold decode39
  rw [sub_packS, unpack_packS]
  have h : (f.imm16 == 0 && f.sel.toNat < 32 && bitAt f.sel 4 && isGz f.d && isGz f.a) = true := h
  simp only [Bool.and_eq_true, beq_iff_eq] at h
  show (if f.sel.getLsbD 4 = false then _ else _) = _
  have hb : f.sel.getLsbD 4 = true := h.1.1.2
  rw [hb]; rfl

theorem acrd (f) : Statement (.acrd f) := by
  refine of_word _ rfl rfl fun h => ?_
  show decodeRaw (packA 0x3A#7 0x0#5 f) _ = _
  rw [raw_3A]
  unfold decode3A
  rw [sub_packA, unpack_packA]
  rfl

theorem acrdclr (f) : Statement (.acrdclr f) := by
  refine of_word _ rfl rfl fun h => ?_
  show decodeRaw (packA 0x3A#7 0x1#5 f) _ = _
  rw [raw_3A]
  unfold decode3A
  rw [sub_packA, unpack_packA]
  rfl

theorem rfetch (rd) : Statement (.rfetch rd) := by
  refine of_xdisp _ rfl (fun st => by cases st <;> rfl) fun w hw => ?_
  obtain rfl := Option.some.inj hw
  have h0 : field (0#20 ++ rd ++ 0x0B#7 : Word) 0 7 = 0x0B#7 := by
    (repeat refine (field_append_hi _ _ _ _ (by decide)).trans ?_) <;>
      (first | exact field_self _ | rfl | (refine (field_append_lo _ _ _ _ (by decide)).trans ?_; first | exact field_self _ | rfl))
  have h1 : field (0#20 ++ rd ++ 0x0B#7 : Word) 12 3 = 0#3 := by
    (repeat refine (field_append_hi _ _ _ _ (by decide)).trans ?_) <;>
      (first | exact field_self _ | rfl | (refine (field_append_lo _ _ _ _ (by decide)).trans ?_; first | exact field_self _ | rfl))
  have h2 : field (0#20 ++ rd ++ 0x0B#7 : Word) 25 7 = 0#7 := by
    (repeat refine (field_append_hi _ _ _ _ (by decide)).trans ?_) <;>
      (first | exact field_self _ | rfl | (refine (field_append_lo _ _ _ _ (by decide)).trans ?_; first | exact field_self _ | rfl))
  have h3 : field (0#20 ++ rd ++ 0x0B#7 : Word) 7 5 = rd := by
    (repeat refine (field_append_hi _ _ _ _ (by decide)).trans ?_) <;>
      (first | exact field_self _ | rfl | (refine (field_append_lo _ _ _ _ (by decide)).trans ?_; first | exact field_self _ | rfl))
  have h4 : field (0#20 ++ rd ++ 0x0B#7 : Word) 15 5 = 0#5 := by
    (repeat refine (field_append_hi _ _ _ _ (by decide)).trans ?_) <;>
      (first | exact field_self _ | rfl | (refine (field_append_lo _ _ _ _ (by decide)).trans ?_; first | exact field_self _ | rfl))
  have h5 : field (0#20 ++ rd ++ 0x0B#7 : Word) 20 5 = 0#5 := by
    (repeat refine (field_append_hi _ _ _ _ (by decide)).trans ?_) <;>
      (first | exact field_self _ | rfl | (refine (field_append_lo _ _ _ _ (by decide)).trans ?_; first | exact field_self _ | rfl))
  unfold decodeXdisp
  rw [h0, h1, h2, h3, h4, h5]
  rfl

theorem bfx (rd) (rs1) (rs2) : Statement (.bfx rd rs1 rs2) := by
  refine of_xdisp _ rfl (fun st => by cases st <;> rfl) fun w hw => ?_
  obtain rfl := Option.some.inj hw
  have h0 : field (0#7 ++ rs2 ++ rs1 ++ 1#3 ++ rd ++ 0x0B#7 : Word) 0 7 = 0x0B#7 := by
    (repeat refine (field_append_hi _ _ _ _ (by decide)).trans ?_) <;>
      (first | exact field_self _ | rfl | (refine (field_append_lo _ _ _ _ (by decide)).trans ?_; first | exact field_self _ | rfl))
  have h1 : field (0#7 ++ rs2 ++ rs1 ++ 1#3 ++ rd ++ 0x0B#7 : Word) 12 3 = 1#3 := by
    (repeat refine (field_append_hi _ _ _ _ (by decide)).trans ?_) <;>
      (first | exact field_self _ | rfl | (refine (field_append_lo _ _ _ _ (by decide)).trans ?_; first | exact field_self _ | rfl))
  have h2 : field (0#7 ++ rs2 ++ rs1 ++ 1#3 ++ rd ++ 0x0B#7 : Word) 25 7 = 0#7 := by
    (repeat refine (field_append_hi _ _ _ _ (by decide)).trans ?_) <;>
      (first | exact field_self _ | rfl | (refine (field_append_lo _ _ _ _ (by decide)).trans ?_; first | exact field_self _ | rfl))
  have h3 : field (0#7 ++ rs2 ++ rs1 ++ 1#3 ++ rd ++ 0x0B#7 : Word) 7 5 = rd := by
    (repeat refine (field_append_hi _ _ _ _ (by decide)).trans ?_) <;>
      (first | exact field_self _ | rfl | (refine (field_append_lo _ _ _ _ (by decide)).trans ?_; first | exact field_self _ | rfl))
  have h4 : field (0#7 ++ rs2 ++ rs1 ++ 1#3 ++ rd ++ 0x0B#7 : Word) 15 5 = rs1 := by
    (repeat refine (field_append_hi _ _ _ _ (by decide)).trans ?_) <;>
      (first | exact field_self _ | rfl | (refine (field_append_lo _ _ _ _ (by decide)).trans ?_; first | exact field_self _ | rfl))
  have h5 : field (0#7 ++ rs2 ++ rs1 ++ 1#3 ++ rd ++ 0x0B#7 : Word) 20 5 = rs2 := by
    (repeat refine (field_append_hi _ _ _ _ (by decide)).trans ?_) <;>
      (first | exact field_self _ | rfl | (refine (field_append_lo _ _ _ _ (by decide)).trans ?_; first | exact field_self _ | rfl))
  unfold decodeXdisp
  rw [h0, h1, h2, h3, h4, h5]
  rfl

theorem swait (rd) (rs1) : Statement (.swait rd rs1) := by
  refine of_xdisp _ rfl (fun st => by cases st <;> rfl) fun w hw => ?_
  obtain rfl := Option.some.inj hw
  have h0 : field (0#12 ++ rs1 ++ 0#3 ++ rd ++ 0x2B#7 : Word) 0 7 = 0x2B#7 := by
    (repeat refine (field_append_hi _ _ _ _ (by decide)).trans ?_) <;>
      (first | exact field_self _ | rfl | (refine (field_append_lo _ _ _ _ (by decide)).trans ?_; first | exact field_self _ | rfl))
  have h1 : field (0#12 ++ rs1 ++ 0#3 ++ rd ++ 0x2B#7 : Word) 12 3 = 0#3 := by
    (repeat refine (field_append_hi _ _ _ _ (by decide)).trans ?_) <;>
      (first | exact field_self _ | rfl | (refine (field_append_lo _ _ _ _ (by decide)).trans ?_; first | exact field_self _ | rfl))
  have h2 : field (0#12 ++ rs1 ++ 0#3 ++ rd ++ 0x2B#7 : Word) 25 7 = 0#7 := by
    (repeat refine (field_append_hi _ _ _ _ (by decide)).trans ?_) <;>
      (first | exact field_self _ | rfl | (refine (field_append_lo _ _ _ _ (by decide)).trans ?_; first | exact field_self _ | rfl))
  have h3 : field (0#12 ++ rs1 ++ 0#3 ++ rd ++ 0x2B#7 : Word) 7 5 = rd := by
    (repeat refine (field_append_hi _ _ _ _ (by decide)).trans ?_) <;>
      (first | exact field_self _ | rfl | (refine (field_append_lo _ _ _ _ (by decide)).trans ?_; first | exact field_self _ | rfl))
  have h4 : field (0#12 ++ rs1 ++ 0#3 ++ rd ++ 0x2B#7 : Word) 15 5 = rs1 := by
    (repeat refine (field_append_hi _ _ _ _ (by decide)).trans ?_) <;>
      (first | exact field_self _ | rfl | (refine (field_append_lo _ _ _ _ (by decide)).trans ?_; first | exact field_self _ | rfl))
  have h5 : field (0#12 ++ rs1 ++ 0#3 ++ rd ++ 0x2B#7 : Word) 20 5 = 0#5 := by
    (repeat refine (field_append_hi _ _ _ _ (by decide)).trans ?_) <;>
      (first | exact field_self _ | rfl | (refine (field_append_lo _ _ _ _ (by decide)).trans ?_; first | exact field_self _ | rfl))
  unfold decodeXdisp
  rw [h0, h1, h2, h3, h4, h5]
  rfl

theorem disp (rd) (rs1) (rs2) : Statement (.disp rd rs1 rs2) := by
  refine of_xdisp _ rfl (fun st => by cases st <;> rfl) fun w hw => ?_
  obtain rfl := Option.some.inj hw
  have h0 : field (0#7 ++ rs2 ++ rs1 ++ 1#3 ++ rd ++ 0x2B#7 : Word) 0 7 = 0x2B#7 := by
    (repeat refine (field_append_hi _ _ _ _ (by decide)).trans ?_) <;>
      (first | exact field_self _ | rfl | (refine (field_append_lo _ _ _ _ (by decide)).trans ?_; first | exact field_self _ | rfl))
  have h1 : field (0#7 ++ rs2 ++ rs1 ++ 1#3 ++ rd ++ 0x2B#7 : Word) 12 3 = 1#3 := by
    (repeat refine (field_append_hi _ _ _ _ (by decide)).trans ?_) <;>
      (first | exact field_self _ | rfl | (refine (field_append_lo _ _ _ _ (by decide)).trans ?_; first | exact field_self _ | rfl))
  have h2 : field (0#7 ++ rs2 ++ rs1 ++ 1#3 ++ rd ++ 0x2B#7 : Word) 25 7 = 0#7 := by
    (repeat refine (field_append_hi _ _ _ _ (by decide)).trans ?_) <;>
      (first | exact field_self _ | rfl | (refine (field_append_lo _ _ _ _ (by decide)).trans ?_; first | exact field_self _ | rfl))
  have h3 : field (0#7 ++ rs2 ++ rs1 ++ 1#3 ++ rd ++ 0x2B#7 : Word) 7 5 = rd := by
    (repeat refine (field_append_hi _ _ _ _ (by decide)).trans ?_) <;>
      (first | exact field_self _ | rfl | (refine (field_append_lo _ _ _ _ (by decide)).trans ?_; first | exact field_self _ | rfl))
  have h4 : field (0#7 ++ rs2 ++ rs1 ++ 1#3 ++ rd ++ 0x2B#7 : Word) 15 5 = rs1 := by
    (repeat refine (field_append_hi _ _ _ _ (by decide)).trans ?_) <;>
      (first | exact field_self _ | rfl | (refine (field_append_lo _ _ _ _ (by decide)).trans ?_; first | exact field_self _ | rfl))
  have h5 : field (0#7 ++ rs2 ++ rs1 ++ 1#3 ++ rd ++ 0x2B#7 : Word) 20 5 = rs2 := by
    (repeat refine (field_append_hi _ _ _ _ (by decide)).trans ?_) <;>
      (first | exact field_self _ | rfl | (refine (field_append_lo _ _ _ _ (by decide)).trans ?_; first | exact field_self _ | rfl))
  unfold decodeXdisp
  rw [h0, h1, h2, h3, h4, h5]
  rfl

theorem recLaunch (slot) (desc) : Statement (.recLaunch slot desc) := by
  refine of_record _ rfl (fun st => by cases st <;> rfl) fun d hd ho => ⟨slot, ?_⟩
  obtain rfl := Option.some.inj hd
  exact rec_launch _ _ _ (by decide) (by decide)

theorem recLaunchn (slot) (desc) (naddr) (stride) : Statement (.recLaunchn slot desc naddr stride) := by
  refine of_record _ rfl (fun st => by cases st <;> rfl) fun d hd ho => ⟨slot, ?_⟩
  obtain rfl := Option.some.inj hd
  exact rec_launchn _ _ _ _ _ (by decide) (by decide)

theorem recWaitsig (slot) (addr) (v) : Statement (.recWaitsig slot addr v) := by
  refine of_record _ rfl (fun st => by cases st <;> rfl) fun d hd ho => ⟨slot, ?_⟩
  obtain rfl := Option.some.inj hd
  exact rec_waitsig _ _ _ _ (by decide) (by decide)

theorem recSetsig (slot) (addr) (v) : Statement (.recSetsig slot addr v) := by
  refine of_record _ rfl (fun st => by cases st <;> rfl) fun d hd ho => ⟨slot, ?_⟩
  obtain rfl := Option.some.inj hd
  exact rec_setsig _ _ _ _ (by decide) (by decide)

theorem recSkipif (slot) (cond) (n) (addr) (v) : Statement (.recSkipif slot cond n addr v) := by
  refine of_record _ rfl (fun st => by cases st <;> rfl) fun d hd ho => ⟨slot, ?_⟩
  obtain rfl := Option.some.inj hd
  exact rec_skip _ _ _ _ _ _ (skip_head _ _).1 (skip_head _ _).2.1 (skip_head _ _).2.2.1 (skip_head _ _).2.2.2.1 (skip_head _ _).2.2.2.2 (by simpa [recordOk] using ho)

theorem recExec (slot) (buf) (naddr) : Statement (.recExec slot buf naddr) := by
  refine of_record _ rfl (fun st => by cases st <;> rfl) fun d hd ho => ⟨slot, ?_⟩
  obtain rfl := Option.some.inj hd
  exact rec_exec _ _ _ _ (by decide) (by decide)

theorem launchPlacement (launch) : Statement (.launchPlacement launch) := by
  exact of_event _ rfl rfl fun st => by cases st <;> rfl

theorem blockPlacement (core) : Statement (.blockPlacement core) := by
  exact of_event _ rfl rfl fun st => by cases st <;> rfl

theorem qslotMap (slot) (core) (v) : Statement (.qslotMap slot core v) := by
  exact of_event _ rfl rfl fun st => by cases st <;> rfl

theorem qslotUnmap (slot) (core) (v) : Statement (.qslotUnmap slot core v) := by
  exact of_event _ rfl rfl fun st => by cases st <;> rfl

theorem kick (v) : Statement (.kick v) := by
  exact of_event _ rfl rfl fun st => by cases st <;> rfl

theorem xlinvCtlWrite (v) : Statement (.xlinvCtlWrite v) := by
  exact of_event _ rfl rfl fun st => by cases st <;> rfl

theorem invalidationComplete : Statement .invalidationComplete := by
  exact of_event _ rfl rfl fun st => by cases st <;> rfl

theorem walkerStart (slice) : Statement (.walkerStart slice) := by
  exact of_event _ rfl rfl fun st => by cases st <;> rfl

theorem walkComplete (walk) : Statement (.walkComplete walk) := by
  exact of_event _ rfl rfl fun st => by cases st <;> rfl

theorem homeAccessPerform (req) : Statement (.homeAccessPerform req) := by
  exact of_event _ rfl rfl fun st => by cases st <;> rfl

theorem hostAccess (op) : Statement (.hostAccess op) := by
  exact of_event _ rfl rfl fun st => by cases st <;> rfl

theorem poolScrubRow (core) (use) (bank) (row) : Statement (.poolScrubRow core use bank row) := by
  exact of_event _ rfl rfl fun st => by cases st <;> rfl

theorem poolFaultMapWrite (slab) (group) (v) : Statement (.poolFaultMapWrite slab group v) := by
  exact of_event _ rfl rfl fun st => by cases st <;> rfl

theorem preemptRequest (ctx) (forLaunch) : Statement (.preemptRequest ctx forLaunch) := by
  exact of_event _ rfl rfl fun st => by cases st <;> rfl

theorem budgetReached (rcb) (kind) : Statement (.budgetReached rcb kind) := by
  exact of_event _ rfl rfl fun st => by cases st <;> rfl

theorem agentStop (ctx) (who) : Statement (.agentStop ctx who) := by
  exact of_event _ rfl rfl fun st => by cases st <;> rfl

theorem saveComplete (ctx) : Statement (.saveComplete ctx) := by
  exact of_event _ rfl rfl fun st => by cases st <;> rfl

theorem evqiWrite (dom) (v) : Statement (.evqiWrite dom v) := by
  exact of_event _ rfl rfl fun st => by cases st <;> rfl

theorem ctxSave (v) : Statement (.ctxSave v) := by
  exact of_event _ rfl rfl fun st => by cases st <;> rfl

theorem ctxRestore (v) (imageError) : Statement (.ctxRestore v imageError) := by
  exact of_event _ rfl rfl fun st => by cases st <;> rfl

theorem ctxTerminate (v) : Statement (.ctxTerminate v) := by
  exact of_event _ rfl rfl fun st => by cases st <;> rfl

theorem flr (v) : Statement (.flr v) := by
  exact of_event _ rfl rfl fun st => by cases st <;> rfl

theorem fullReset (fuseOk) : Statement (.fullReset fuseOk) := by
  exact of_event _ rfl rfl fun st => by cases st <;> rfl

theorem mgmtbaseWrite (v) : Statement (.mgmtbaseWrite v) := by
  exact of_event _ rfl rfl fun st => by cases st <;> rfl

theorem fwload (mb) (base) : Statement (.fwload mb base) := by
  exact of_event _ rfl rfl fun st => by cases st <;> rfl

theorem attest (mb) (nonce) : Statement (.attest mb nonce) := by
  exact of_event _ rfl rfl fun st => by cases st <;> rfl

theorem attestCerts (mb) : Statement (.attestCerts mb) := by
  exact of_event _ rfl rfl fun st => by cases st <;> rfl

theorem confset (mb) (mode) : Statement (.confset mb mode) := by
  exact of_event _ rfl rfl fun st => by cases st <;> rfl

theorem dbgen (mb) : Statement (.dbgen mb) := by
  exact of_event _ rfl rfl fun st => by cases st <;> rfl

theorem rootact (mb) (args) : Statement (.rootact mb args) := by
  exact of_event _ rfl rfl fun st => by cases st <;> rfl

theorem rootset (mb) (args) : Statement (.rootset mb args) := by
  exact of_event _ rfl rfl fun st => by cases st <;> rfl

theorem rootdel (mb) (root) : Statement (.rootdel mb root) := by
  exact of_event _ rfl rfl fun st => by cases st <;> rfl

theorem usagereq (mb) (rcb) : Statement (.usagereq mb rcb) := by
  exact of_event _ rfl rfl fun st => by cases st <;> rfl

theorem usageRecordWrite (root) : Statement (.usageRecordWrite root) := by
  exact of_event _ rfl rfl fun st => by cases st <;> rfl

theorem keynewGenerate (mb) : Statement (.keynewGenerate mb) := by
  exact of_event _ rfl rfl fun st => by cases st <;> rfl

theorem keynewImport (mb) : Statement (.keynewImport mb) := by
  exact of_event _ rfl rfl fun st => by cases st <;> rfl

theorem keyerase (mb) : Statement (.keyerase mb) := by
  exact of_event _ rfl rfl fun st => by cases st <;> rfl

theorem tagset (mb) : Statement (.tagset mb) := by
  exact of_event _ rfl rfl fun st => by cases st <;> rfl

theorem savesetCreate (mb) : Statement (.savesetCreate mb) := by
  exact of_event _ rfl rfl fun st => by cases st <;> rfl

theorem savesetRelease (mb) : Statement (.savesetRelease mb) := by
  exact of_event _ rfl rfl fun st => by cases st <;> rfl

theorem imgreg (mb) : Statement (.imgreg mb) := by
  exact of_event _ rfl rfl fun st => by cases st <;> rfl

theorem mondbUnknownCommand (mb) (code) : Statement (.mondbUnknownCommand mb code) := by
  exact of_event _ rfl rfl fun st => by cases st <;> rfl

theorem fwmqpop (v) : Statement (.fwmqpop v) := by
  exact of_event _ rfl rfl fun st => by cases st <;> rfl

theorem fwpostdb (v) : Statement (.fwpostdb v) := by
  exact of_event _ rfl rfl fun st => by cases st <;> rfl

theorem mircfgWrite (v) : Statement (.mircfgWrite v) := by
  exact of_event _ rfl rfl fun st => by cases st <;> rfl

theorem mirrorWriteReceive (src) (ofs) (bytes) : Statement (.mirrorWriteReceive src ofs bytes) := by
  exact of_event _ rfl rfl fun st => by cases st <;> rfl

theorem fabricFlitReceive (port) (checkOk) (msg) : Statement (.fabricFlitReceive port checkOk msg) := by
  exact of_event _ rfl rfl fun st => by cases st <;> rfl

theorem ethernetFrameReceive (port) (frame) : Statement (.ethernetFrameReceive port frame) := by
  exact of_event _ rfl rfl fun st => by cases st <;> rfl

theorem laneLoss (link) : Statement (.laneLoss link) := by
  exact of_event _ rfl rfl fun st => by cases st <;> rfl

theorem powerCapInterval (avg) : Statement (.powerCapInterval avg) := by
  exact of_event _ rfl rfl fun st => by cases st <;> rfl

theorem registerWrite (who) (ofs) (width) (v) : Statement (.registerWrite who ofs width v) := by
  exact of_event _ rfl rfl fun st => by cases st <;> rfl

theorem regionActivation (rcb) (ctx) : Statement (.regionActivation rcb ctx) := by
  exact of_event _ rfl rfl fun st => by cases st <;> rfl

theorem regionRetirement (rcb) : Statement (.regionRetirement rcb) := by
  exact of_event _ rfl rfl fun st => by cases st <;> rfl

theorem fallbackCounterClear (rcb) : Statement (.fallbackCounterClear rcb) := by
  exact of_event _ rfl rfl fun st => by cases st <;> rfl

theorem instructionFetch (who) : Statement (.instructionFetch who) := by
  exact of_event _ rfl rfl fun st => by cases st <;> rfl

theorem icacheFillArrival (core) (fill) : Statement (.icacheFillArrival core fill) := by
  exact of_event _ rfl rfl fun st => by cases st <;> rfl

theorem linkTrained (link) : Statement (.linkTrained link) := by
  exact of_event _ rfl rfl fun st => by cases st <;> rfl

theorem peerSilenceDetected (device) : Statement (.peerSilenceDetected device) := by
  exact of_event _ rfl rfl fun st => by cases st <;> rfl

end Sys2Proof.Laws.RoundTrip
end

