-- ==== Sys2Proof/Laws/Registers.lean ====
section
/-!
SUPPORT. Registers: what is read after a write of one register of one lane, and after a write of a destination in every acting lane.
-/

namespace Sys2Proof.Machine

theorem RF.readG_writeG (r : RF) (n l : Nat) (v : Word) (m k : Nat) (hl : l < 32) (hk : k < 32) :
    (r.writeG n l v).readG m k = if m = n ∧ k = l then v else r.readG m k := by
  unfold RF.writeG RF.readG
  rw [Sparse.get_set]
  by_cases h : m = n ∧ k = l
  · simp [h]
  · rw [if_neg (by omega), if_neg h]

@[simp] theorem RF.readK_writeG (r : RF) (n l : Nat) (v : Word) (m : Nat) : (r.writeG n l v).readK m = r.readK m := rfl
@[simp] theorem RF.readP_writeG (r : RF) (n l : Nat) (v : Word) (p k : Nat) : (r.writeG n l v).readP p k = r.readP p k := rfl

theorem RF.readK_writeK (r : RF) (n : Nat) (v : Word) (m : Nat) : (r.writeK n v).readK m = if m = n then v else r.readK m :=
  Sparse.get_set _ _ _ _ _

@[simp] theorem RF.readG_writeK (r : RF) (n : Nat) (v : Word) (m k : Nat) : (r.writeK n v).readG m k = r.readG m k := rfl
@[simp] theorem RF.readP_writeK (r : RF) (n : Nat) (v : Word) (p k : Nat) : (r.writeK n v).readP p k = r.readP p k := rfl

@[simp] theorem RF.readP_pt (r : RF) (l : Nat) : r.readP 7 l = true := rfl

theorem RF.readP_writeP_low (r : RF) (p l : Nat) (b : Bool) (q k : Nat) (hp : p ≠ 7) (hl : l < 32) (hk : k < 32) :
    (r.writeP p l b).readP q k = if q = p ∧ k = l then b else r.readP q k := by
  unfold RF.writeP RF.readP
  rw [if_neg hp]
  by_cases hq : q = 7
  · subst hq
    rw [if_pos rfl, if_pos rfl, if_neg (by omega)]
  · rw [if_neg hq, if_neg hq, Sparse.get_set]
    by_cases h : q = p ∧ k = l
    · simp [h]
    · rw [if_neg (by omega), if_neg h]

@[simp] theorem RF.readG_writeP (r : RF) (p l : Nat) (b : Bool) (m k : Nat) : (r.writeP p l b).readG m k = r.readG m k := by
  unfold RF.writeP
  split <;> rfl

@[simp] theorem RF.readK_writeP (r : RF) (p l : Nat) (b : Bool) (m : Nat) : (r.writeP p l b).readK m = r.readK m := by
  unfold RF.writeP
  split <;> rfl

/-! ## A destination in every acting lane (R94, R95) -/

/-- A fold of writes, one for each lane, in which each writes its own place: what place `k` holds afterwards. -/
theorem RF.foldl_own {β : Type} (read : RF → Nat → β) (step : RF → Nat → RF) (v : Nat → β) (ls : List Nat)
    (hstep : ∀ r l, l ∈ ls → ∀ k, k < 32 → read (step r l) k = if k = l then v l else read r k) (r : RF) (k : Nat) (hk : k < 32) :
    read (ls.foldl step r) k = if k ∈ ls then v k else read r k := by
  induction ls generalizing r with
  | nil => simp
  | cons l t ih =>
    rw [List.foldl_cons, ih (fun r m hm => hstep r m (List.mem_cons_of_mem _ hm)), hstep r l List.mem_cons_self k hk]
    by_cases h1 : k ∈ t
    · simp [h1]
    · by_cases h2 : k = l
      · subst h2; simp [h1]
      · simp [h1, h2]

/-- A fold of changes each of which leaves a value. -/
theorem RF.foldl_keep {β : Type} (read : RF → β) (step : RF → Nat → RF) (ls : List Nat) (h : ∀ r l, l ∈ ls → read (step r l) = read r) (r : RF) :
    read (ls.foldl step r) = read r := by
  induction ls generalizing r with
  | nil => rfl
  | cons l t ih => exact (ih (fun r m hm => h r m (List.mem_cons_of_mem _ hm)) _).trans (h r l List.mem_cons_self)

/-- A predicate written in every acting lane. -/
theorem RF.readP_writePreds (r : RF) (p : Nat) (ls : List Nat) (v : Nat → Bool) (hls : ∀ l ∈ ls, l < 32) (hp : p ≠ 7) (k : Nat) (hk : k < 32) :
    (r.writePreds p ls v).readP p k = if k ∈ ls then v k else r.readP p k :=
  RF.foldl_own (fun r k => r.readP p k) _ v ls (fun r l hl k hk => by simp [RF.readP_writeP_low _ _ _ _ _ _ hp (hls l hl) hk]) r k hk

/-- A single g register written in every acting lane. -/
theorem RF.readG_writeLanes (r : RF) (c : BitVec 8) (ls : List Nat) (v : Nat → DWord) (hls : ∀ l ∈ ls, l < 32) (hc : isG c = true)
    (k : Nat) (hk : k < 32) :
    (r.writeLanes 1 c ls v).readG c.toNat k = if k ∈ ls then (v k).setWidth 32 else r.readG c.toNat k := by
  have hlt : c.toNat < 0xC0 := of_decide_eq_true hc
  have hz : isGz c = false := beq_eq_false_iff_ne.mpr fun e => by simp [e] at hlt
  have hkc : isK c = false := by simp [isK]; omega
  unfold RF.writeLanes
  rw [if_neg (by simp [hkc])]
  refine RF.foldl_own (fun r k => r.readG c.toNat k) _ (fun l => (v l).setWidth 32) ls (fun r l hl k hk => ?_) r k hk
  simp [RF.writeD, RF.write1, hz, hc, RF.readG_writeG _ _ _ _ _ _ (hls l hl) hk]

end Sys2Proof.Machine
end

