-- ==== Sys2Proof/Tests/Slice0.lean ====
section
/-!
SUPPORT. Tests of one step each, with a witness for every statement that has hypotheses: a state and operands that meet them.
-/

namespace Sys2Proof.Tests

set_option Elab.async false

open Sys2Proof Sys2Proof.Machine

/-! ## Small states -/

/-- Plain fields of each format: guard pt, every register gz. -/
def fA (ty : BitVec 4) : FmtA := ⟨7, 0xFF, 0xFF, 0xFF, 0xFF, 0, 0, 0, 0, 0, 0, 0, 0, ty⟩
def fB (ty : BitVec 4) : FmtB := ⟨0, 7, 0xFF, 0xFF, 0, 0, 0, 0, 0, ty, 0⟩
def fF : FmtF := ⟨7, 0xFF, 0xFF, 0xFF, 0, 0, 0, 0, 0, 0, 0, 0, 0⟩
def fM : FmtM := ⟨0, 7, 0xFF, 0xFF, 0, 2, 0, 0, 0, 0, 0, 0, 0, 0, 0⟩
def fC : FmtC := ⟨7, 0, 0, 0⟩
def fY : FmtY := ⟨7, 0xFF, 0xFF, 0xFF, 0, 0, 0⟩
def fS : FmtS := ⟨7, 0xFF, 0xFF, 0, 0⟩
def fMX : FmtMX := ⟨7, 0, 0, 0, 0, 0, 0, 0, 0, 0, 0, 0, 0, 0, 0⟩

/-- Core 0 with a block of one warp, of a context of a live region, of a running launch, partitioned with 8 scratchpad units and 8 accumulator units. -/
def core0 (rf : RF) : Core :=
  { Core.reset with
    use := some 1, pword := 0x00080800
    warps := [(0, { Warp.absent with live := true, uid := 1, nregs := 192, rf := rf, slices := (List.range 8).map fun j => (j, { Slice.init with pc := 64 }) })]
    blocks := [(0, { Block.absent with live := true, ctx := 1, launch := 1, nwarps := 1, warps := [0] })] }

def base (k : Core) : State :=
  { State.reset with
    io := { IO.reset with bootstat := 1 }, cores := [(0, k)], nextId := 10
    regions := [(1, { Region.none with live := true, root := 1, ctx := 1, asn := 1, budget := [100, 100, 100, 100], charge := [0, 0, 0, 0], pw := 1, ph := 1 })]
    ctxs := [(1, { Ctx.none with st := .running, rcb := 1, pw := 1, ph := 1 })]
    launches := [(1, { Launch.none with ctx := 1, rcb := 1, phase := 1, counter := 2 })] }

/-- The gang of that warp is current. -/
def gang (rf : RF) : State := { base (core0 rf) with cur := .gang 0 0 0 }

/-- A sequencer of that block is current. -/
def seqr (cp : Bool) (rf : RF) : State :=
  { base ((core0 RF.zero).setSeq 0 cp { Seq.idle with st := .running, rf := rf }) with cur := .seq 0 0 cp }

/-- k registers from 0 up. -/
def kRegs (l : List Word) : RF := ⟨[], ((List.range l.length).zip l).filter fun p => p.2 != 0, []⟩

/-- Whether an outcome is a next state of which `p` holds. -/
def after (o : Host.Outcome State Fault Refusal) (p : State → Bool) : Bool :=
  match o with
  | .next t => p t
  | .fault _ => false
  | .refused _ => false

/-! ## Encoding -/

/-- Words of every family, written bit by bit from the encodings (R273, R277 to R284; R223, R227). -/
theorem test_decode_words :
    decode .lane 0x0170102030403041#64 0 = .ok (.imad ⟨7, 1, 2, 3, 4, 0, 0, 0, 0, 0, 0, 3, 0, 1⟩)
    ∧ decode .lane 0x317C7C2FF0010020#64 0 = .ok (.rels ⟨7, 0xC7, 0xC2, 0xFF, 1, 0, 0⟩) := ⟨rfl, rfl⟩

theorem witness_RoundTrip :
    legal .lane (.iadd (fA 1)) = true ∧ (encodeXdisp (.rfetch 1)).isSome = true
    ∧ (encodeRecord (.recSkipif 0 1 0 0 0)).isSome = true ∧ recordOk (.recSkipif 0 1 0 0 0) = true := by decide

theorem witness_WordOfDecoded :
    decode .lane 0x85709FF000000100#64 0x400000#64 = .ok (.movi ⟨1, 7, 9, 0xFF, 0, 0, 0, 0, 0, 0, 0x400000⟩)
    ∧ bitAt 0x85709FF000000100#64 63 = true ∧ bitAt 0x0170102030403041#64 63 = false := ⟨rfl, rfl, rfl⟩

theorem witness_WordsRefused :
    (field 0x0670000000000000#64 56 7).toNat ∉ [0x01, 0x02, 0x03, 0x04, 0x05, 0x08, 0x09, 0x0A, 0x0B, 0x0C, 0x0D, 0x10, 0x18, 0x19,
      0x20, 0x21, 0x22, 0x23, 0x28, 0x29, 0x2A, 0x30, 0x31, 0x32, 0x38, 0x39, 0x3A, 0x3B, 0x40, 0x48, 0x50]
    ∧ (∃ i, decode .mx (encode (.seqend fS)).1 0 = .ok i)
    ∧ field 0x8170102030403041#64 63 1 = 1 ∧ (field 0x8170102030403041#64 56 7).toNat = 0x01
    ∧ field 0x2870A04000101040#64 63 1 = 0 ∧ (field 0x2870A04000101040#64 56 7).toNat = 0x28 :=
  ⟨by decide, ⟨_, rfl⟩, by decide, by decide, by decide, by decide⟩

/-! ## A step -/

/-- That gang parked at FORK (R209), whose word its slices kept. -/
def parkedS : State :=
  let s := State.reset.withFetchWord 64 0x487FFFF000000000
  s.modCore 0 fun k => k.modWarp 0 fun w => w.modSlice 0 fun y => { y with st := .parked, park := .fork, ir := (0x487FFFF000000000, 0), gang := 1 }

theorem witness_StepRunsDecoded :
    (let s := State.reset.withFetchWord 64 0x0170102030403041
     let n := s.turned [] 0 0 0
     s.io.bootstat ≠ 0xFF ∧ s.agenda = [.run (.gang 0 0 0)] ∧ ({ s with agenda := [] } : State).elderIssues 0 0 0 = false ∧ n.gangRuns 0 0 0 = true
       ∧ ((n.warp 0 0).slice 0).st = .running ∧ (n.core 0).fetch (n.asnOf 0 (n.warp 0 0).block) ((n.warp 0 0).slice 0).pc = .words 0x0170102030403041 0
       ∧ (n.core 0).wordsPoisoned (n.asnOf 0 (n.warp 0 0).block) ((n.warp 0 0).slice 0).pc (bitAt 0x0170102030403041#64 63) = false)
    ∧ (let s := parkedS
       let n := s.turned [] 0 0 0
       s.io.bootstat ≠ 0xFF ∧ s.agenda = [.run (.gang 0 0 0)] ∧ ({ s with agenda := [] } : State).elderIssues 0 0 0 = false ∧ n.gangRuns 0 0 0 = true
         ∧ ((n.warp 0 0).slice 0).st = .parked ∧ ((n.warp 0 0).slice 0).ir = (0x487FFFF000000000, 0) ∧ (decode .lane 0x487FFFF000000000 0).toOption.isSome = true)
    ∧ (let s := State.reset.withFetchWord 64 0x487FFFF000000002
       s.agenda = [.run (.seq 0 0 false)] ∧ s.seqRuns 0 0 false = true
         ∧ (s.core 0).fetch (s.asnOf 0 0) ((s.core 0).seq 0 false).pc = .words 0x487FFFF000000002 0)
    ∧ (let s := State.reset.withFetchWord 32 0x0000000B
       s.agenda = [.run (.sched 0)] ∧ (s.schedCore 0).inReset = false
         ∧ BitVec.ofNat 32 (s.seenSched.readNat 0 (s.schedCore 0).pc.toNat 4) = 0x0000000B)
    ∧ (decode .lane 0x0170102030403041 0).toOption.isSome = true ∧ (decode .mx 0x487FFFF000000002 0).toOption.isSome = true
    ∧ ((decodeXdisp 0x0000000B).map fun r => r.toOption.isSome) = some true := by decide +kernel

theorem witness_StepFaults :
    (let s := State.reset.withFetchWord 64 0x0170102030403041
     let n := s.turned [] 0 0 0
     ({ s with agenda := [] } : State).elderIssues 0 0 0 = false ∧ n.gangRuns 0 0 0 = true ∧ ((n.warp 0 0).slice 0).st = .running
       ∧ n.awaits (n.warp 0 0).uid ((n.warp 0 0).gangOf 0) = false
       ∧ (let t := { s with cores := (s.modCore 0 fun k => { k.modWarp 0 fun w => w.modSlice 0 fun x => { x with pc := 4, gang := 1 } with
            icache := [⟨0, 0, [0, 0x7F00000000000000], 0⟩] }).cores }
          t.gangRuns 0 0 0 = true ∧ ({ t with agenda := [] } : State).elderIssues 0 0 0 = false ∧ ((t.warp 0 0).slice 0).st = .running
            ∧ t.awaits (t.warp 0 0).uid ((t.warp 0 0).gangOf 0) = false ∧ ((t.warp 0 0).slice 0).pc.toNat % 8 ≠ 0)
       ∧ (let t := s.modCore 0 fun k => { k with icache := k.icache.map fun l => { l with data := List.replicate 16 0x7F00000000000000 } }
          let n := t.turned [] 0 0 0
          let asn := n.asnOf 0 (n.warp 0 0).block
          n.gangRuns 0 0 0 = true ∧ ({ t with agenda := [] } : State).elderIssues 0 0 0 = false ∧ (n.core 0).fetch asn ((n.warp 0 0).slice 0).pc = .words 0x7F00000000000000 0
            ∧ (n.core 0).wordsPoisoned asn ((n.warp 0 0).slice 0).pc (bitAt 0x7F00000000000000#64 63) = false)
       ∧ (let t := s.modCore 0 fun k => { k with icache := k.icache.map fun l => { l with pois := 0xFF } }
          let n := t.turned [] 0 0 0
          let asn := n.asnOf 0 (n.warp 0 0).block
          n.gangRuns 0 0 0 = true ∧ n.awaits (n.warp 0 0).uid ((n.warp 0 0).gangOf 0) = false
            ∧ (n.core 0).fetch asn ((n.warp 0 0).slice 0).pc = .words 0x0170102030403041 0
            ∧ (n.core 0).wordsPoisoned asn ((n.warp 0 0).slice 0).pc (bitAt 0x0170102030403041#64 63) = true))
    ∧ (let s := State.reset.withFetchWord 64 0x7F00000000000000
       s.agenda = [.run (.seq 0 0 true)] ∧ s.seqRuns 0 0 true = true
         ∧ (s.core 0).fetch (s.asnOf 0 0) ((s.core 0).seq 0 true).pc = .words 0x7F00000000000000 0)
    ∧ (decode .lane 0x7F00000000000000 0).toOption = none ∧ (decode .cp 0x7F00000000000000 0).toOption = none
    ∧ ((decodeXdisp 0x0000700B).map fun r => r.toOption.isSome) = some false
    ∧ (State.reset.modIo fun io => { io with bootstat := 0xFF }).io.bootstat = 0xFF ∧ State.reset.agenda = [] := by decide +kernel

/-! ## Memories and registers -/

theorem witness_MemoryCanonical : State.reset.memOk ∧ (∃ t, step State.reset = .next t) := ⟨⟨rfl, rfl, rfl⟩, ⟨_, rfl⟩⟩

theorem witness_RegisterReadWrite : isG 0#8 = true ∧ isK 0xC0#8 = true ∧ codeOk 2 0xBE#8 = true ∧ isGz 0xBE#8 = false ∧ codeOk 4 0xBC#8 = true
    ∧ codeOk 2 0xC2#8 = true ∧ codeOk 4 0xC4#8 = true := by decide

theorem witness_MemoryReadWrite :
    (core0 RF.zero).bars = [] ∧ 16 + [1#8, 2#8].length ≤ (core0 RF.zero).scrSize ∧ 20 < (core0 RF.zero).scrSize := by decide

/-- A write of two bytes of a scratchpad, and one of global memory, read back, with the bytes beside them (R31, R84). -/
theorem test_write_reads_back :
    let k := (core0 RF.zero).writeScr 15 [1, 2]
    let m := Mem.reset.write 0 15 [1, 2]
    (k.scrByte 14, k.scrByte 15, k.scrByte 16, k.scrByte 17) = (0, 1, 2, 0) ∧ (m.byte 0 14, m.byte 0 15, m.byte 0 16, m.byte 0 17, m.byte 1 15) = (0, 1, 2, 0, 0) := by
  decide

/-! ## The vector ALU groups -/

theorem witness_AluCompletes :
    (gang RF.zero).gangReady 0 0 0 (.iadd { fA 1 with d := 1 }) = true ∧ (aluOf (.iadd { fA 1 with d := 1 })).isSome = true
    ∧ (seqr false RF.zero).seqReady 0 0 false (.iadd { fA 1 with d := 0xC1 }) = true
    ∧ (seqr true RF.zero).seqReady 0 0 true (.iadd { fA 1 with d := 0xC1 }) = true := by decide +kernel

/-- The warp of `gang` with the row of g4 in slice 2 poisoned. -/
def badRow (cur : Agent) : State :=
  { (gang RF.zero) with cur := cur }.modWarp 0 0 fun w => { w with rp := [(34, true)] }

theorem witness_AluCompletes_poison :
    let i : Instr := .iadd { fA 1 with d := 1, a := 4 }
    let s := badRow (.gang 0 0 0)
    s.gangRuns 0 0 0 = true ∧ s.sound = true ∧ legal .lane i = true ∧ countOk (s.warp 0 0).nregs i = true ∧ (s.warp 0 0).pending ((s.warp 0 0).gangOf 0) i = false
    ∧ (s.warp 0 0).poisonRead i (s.gangIssue 0 0 0 i).acting = [34] := by decide +kernel

/-- R79, R80: a warp that reads the poisoned row is killed; one that writes all four lanes of it goes on, and the poison is gone. -/
theorem test_register_poison :
    (after (exec (.iadd { fA 1 with d := 1, a := 4 }) (badRow (.gang 0 0 0))) fun t => !(t.warp 0 0).live) = true
    ∧ (after (exec (.iadd { fA 1 with d := 4, a := 0xFF, b := 0xFF }) (badRow (.gang 0 0 0))) fun t => (t.warp 0 0).live && (t.warp 0 0).rp == []) = true := by
  decide +kernel

/-- The pool's code (R74 to R76), worked by hand: the last data symbol 1 has the check symbols α + 1 and α; one wrong symbol is placed and
corrected, two that are equal cannot be, and a failed bank's symbol is rebuilt from the other 17. -/
theorem test_code :
    (let d : List Byte := List.replicate 15 0 ++ [1]
     checkSymbols d = (3, 2) ∧ decodeWord none (codeword d) = .clean ∧ decodeWord none ((codeword d).set 4 0x55) = .fix 4 0x55
       ∧ decodeWord none (((codeword d).set 4 0x55).set 9 0x55) = .bad
       ∧ decodeWord (some 15) ((codeword d).set 15 0x80) = .fix 15 0x81 ∧ decodeWord (some 15) ((codeword d).set 4 0x55) = .bad) := by decide +kernel

theorem witness_AluFrame :
    legal .lane (.iadd { fA 1 with d := 1 }) = true ∧ (aluOf (.iadd { fA 1 with d := 1 })).isSome = true
    ∧ (((gang RF.zero).gangDone 0 0 0 (.iadd { fA 1 with d := 1 }) (gang RF.zero)).warp 0 0).live = true := by decide +kernel

theorem witness_IntegerResults :
    (let f := fA 1
     codeOk (nreg f.ty) 1 = true ∧ f.ty.toNat ≤ 12 ∧ isInt f.ty = true ∧ isInt 12 = true ∧ nreg 12 = 2)
    ∧ codeOk (nreg 10) 2 = true := by decide

theorem witness_BitCompareMoveResults :
    codeOk (nreg 0) 1 = true ∧ codeOk (nreg 10) 2 = true ∧ codeOk (nreg (fB 11).ty) 2 = true ∧ codeOk 2 (0xC2 : BitVec 8) = true ∧ (5 : BitVec 5).toNat < 6 ∧ (7 : BitVec 5).toNat < 8
    ∧ fp32.decode 0x7FC00000 = .nan ∧ (∃ m e, fp32.decode 0x3F800000 = .fin false m e) ∧ fp32.decode 0xFF800000 = .inf true
    ∧ isInt 3 = false ∧ isInt 1 = true :=
  ⟨by decide, by decide, by decide, by decide, by decide, by decide, by decide, ⟨_, _, rfl⟩, by decide, by decide, by decide⟩

theorem witness_ShuffleResults :
    legal .lane (.shflx { fA 10 with d := 2, a := 4, b := 6, c := 5 }) = true ∧ (aluOf (.shflx (fA 0))).isSome = true ∧ isG 2#8 = true ∧ isK 0xC2#8 = true
    ∧ isGz 0xFF#8 = true ∧ codeOk (nreg 10) 0xC2 = true ∧ [0, 31].Nodup := by decide

theorem witness_LaneResults :
    codeOk 1 1 = true ∧ isG 1#8 = true ∧ (6 : BitVec 8).toNat % 8 < 7 ∧ [0, 5, 31].Pairwise (· < ·) ∧ codeOk (nreg 11) 2 = true
    ∧ (0x21 : BitVec 8).toNat / 16 % 4 < 3 := by decide

/-- Whether a value is finite. -/
def finite : FpVal → Bool
  | .fin _ _ _ => true
  | .inf _ | .nan => false

theorem witness_FloatResults : (∀ mode ∈ [1, 2, 3, 4, 5], ∀ t ∈ [fp32, bf16, fp16], finite (t.decode (t.encode mode (.fin true 5 (-1)))) = true)
    ∧ finInt false 1 0 0 < finInt false 3 1 0 ∧ finInt true 1 0 0 < finInt false 0 1 0 ∧ FpVal.nan ≠ .inf true ∧ fieldN (0xE5 : BitVec 8) 0 4 ≤ 5
    ∧ (0xBF800000 + 2 ^ 31) % 2 ^ 32 = 0x3F800000 ∧ fp32.decode 0x3F800000 ≠ .nan ∧ isFloat 3 = true ∧ isFloat 4 = true ∧ isFloat 5 = true ∧ codeOk 1 1 = true ∧ cvtSrc { fA 1 with c := 0x35 } = 3
    ∧ (cvtRnd { fA 1 with c := 0x35 }).toNat ≤ 5 ∧ codeOk (nreg 11) 2 = true := by decide

theorem witness_FunctionResults :
    codeOk 1 1 = true ∧ fp32.flush (flushOf 0xFF) 1 = 1 ∧ fp32.decode 0x7FC00000 = .nan ∧ 0 < 0x80000001 % 2 ^ 31 ∧ 0x80000001 % 2 ^ 31 ≤ 2 ^ 21 := by decide

/-! ## Accesses, copies, rings -/

/-- A request of that warp for local HBM, and a state that holds requests. -/
def req0 (kind : ReqKind) : Req :=
  { Req.plain kind ⟨0, 0, 64⟩ 4 with
    id := 1, inst := 1, ctx := 1, uid := 1, slices := 1, va := 64, n := 1, pol := 0, data := 0x11223344, parts := [⟨0, 0, 1, 0, [0], 1, 1, 3, 0, true⟩] }

def withReqs (l : List Req) : State := { base (core0 RF.zero) with fab := { Fab.reset with reqs := l } }

/-- The lanes that passed. -/
def passed : Checked → Option (List LaneAcc)
  | .ok l => some l
  | .stop _ => none

/-- g0 holds 2 in lane 4, which is misaligned there and nowhere else. -/
def rfLane4 : RF := ⟨[(4, 2)], [], []⟩

theorem witness_LoadsStoresComplete :
    (let f := { fM with v := 1, sp := 1 }
     let s := gang RF.zero
     let x := s.gangIssue 0 0 0 (.ld f)
     s.gangReady 0 0 0 (.ld f) = true ∧ s.acts 0 0 0 (.ld f) = true ∧ (passed (s.checkLanes x (memLanes f x.acting) (s.checkLane x f .read))).isSome = true
       ∧ s.gangReady 0 0 0 (.ld { f with gd := 0 }) = true ∧ s.acts 0 0 0 (.ld { f with gd := 0 }) = false
       ∧ s.gangReady 0 0 0 (.tagclr { f with v := 0xFF }) = true ∧ s.gangReady 0 0 0 (.ste f) = true)
    ∧ (let f := { fM with v := 1, ab := 0, sp := 1 }
       let s := gang rfLane4
       let x := s.gangIssue 0 0 0 (.st f)
       s.gangReady 0 0 0 (.st f) = true ∧ 4 ∈ memLanes f x.acting ∧ (memLanes f x.acting).Pairwise (· < ·) ∧ s.checkLane x f .write 4 = .fault cAL 2
         ∧ (∀ m ∈ memLanes f x.acting, m < 4 → s.checkLane x f .write m = .ok ⟨m, 0, ⟨3, 0, 0⟩, 0, 0⟩) ∧ s.awaits 1 [1] = false)
    ∧ (let f := { fM with v := 0xC1, ab := 0xC0, sp := 1 }
       let s := gang (kRegs [2])
       let x := s.gangIssue 0 0 0 (.st f)
       memOnce f = true ∧ s.gangReady 0 0 0 (.st f) = true ∧ memLanes f x.acting = [0] ∧ s.checkLane x f .write 0 = .fault cAL 2
         ∧ s.awaits 1 (actingSlices x.acting x.slices) = false ∧ actingSlices x.acting x.slices = List.range 8) := by
  decide +kernel

/-- A store whose lane 4 is misaligned: that lane's slice alone faults (R297). -/
theorem test_access_fault :
    after (exec (.st { fM with v := 1, ab := 0, sp := 1 }) (gang rfLane4)) (fun t => decide (((List.range 8).map fun j => ((t.warp 0 0).slice j).code) = [0, cAL, 0, 0, 0, 0, 0, 0] ∧ t.fab = Fab.reset)) := by decide +kernel

theorem witness_FullEmptyComplete :
    (let f := { fM with v := 0xC0, sp := 1 }
     let s := gang RF.zero
     let t := { s with cores := [(0, { core0 RF.zero with tags := [(0, true)] })] }
     let a : LaneAcc := ⟨0, 0, ⟨3, 0, 0⟩, 0, 0⟩
     let x := t.gangIssue 0 0 0 (.ldf f)
     t.gangReady 0 0 0 (.ldf f) = true ∧ x.again = false ∧ memLanes f x.acting = [0] ∧ bitAt ((t.warp 0 0).slice 0).served 0 = false
       ∧ (∀ n ∈ x.slices, ((t.warp 0 0).slice n).park ≠ .fullEmpty) ∧ (∀ p ∈ t.cores, p.2.waiters = [])
       ∧ passed (t.checkLanes x [0] (t.checkLane x f .read)) = some [a]
       ∧ (t.orderAfter (t.request x f .load a x.acting 0)).any t.awaited = false ∧ (∀ n ∈ tagWords 0 false, (t.core 0).scrTag n = true)
       ∧ (t.narrowRelease (t.request x f .load a x.acting 0) && t.unleft 1 (maskOf 8 (slicesOf x.acting))) = false
       ∧ (t.core 0).scrPoisonAt 0 4 = none ∧ (t.core 0).bars = [] ∧ 0 + 4 ≤ (t.core 0).scrSize
       ∧ s.gangReady 0 0 0 (.stf f) = true ∧ (∀ n ∈ tagWords 0 false, (s.core 0).scrTag n = false)) := by decide +kernel

/-- LDF takes the word and leaves it empty (R301); STF fills it (R303). -/
theorem test_ldf_stf :
    (let k := { core0 RF.zero with tags := [(0, true)], scr := [(0, 5)] }
     after (exec (.ldf { fM with v := 0xC0, sp := 1 }) { gang RF.zero with cores := [(0, k)] }) (fun t => decide ((t.warp 0 0).rf.readK 0 = 5 ∧ (t.core 0).scrTag 0 = false)))
    ∧ after (exec (.stf { fM with v := 0xC0, sp := 1 }) (gang (kRegs [7]))) (fun t => decide ((t.core 0).scrNat 0 4 = 7 ∧ (t.core 0).scrTag 0 = true)) := by decide +kernel

theorem witness_HomeAccess :
    (let s := withReqs [req0 .store]
     let r := req0 .store
     s.findReq 1 = some r ∧ r.done = false ∧ r.ans = none ∧ s.mayPerform r = true ∧ s.waveHolds r.home r.len = false ∧ s.cutOff r = false ∧ s.unsent r = false
       ∧ ((s.core 0).block 0).warps ≠ [] ∧ s.openMem = true ∧ s.fab.objs = [])
    ∧ (let r := { req0 .store with home := ⟨3, 0, 64⟩ }
       let s := withReqs [r]
       s.findReq 1 = some r ∧ r.ans = none ∧ s.mayPerform r = true ∧ (s.core 0).bars = [] ∧ 64 + (s.storeBytes r).length ≤ (s.core 0).scrSize)
    ∧ (let r := req0 .load
       let s := withReqs [r]
       s.findReq 1 = some r ∧ s.mayPerform r = true ∧ s.cutOff r = false ∧ s.unsent r = false)
    ∧ (let r := { req0 .store with len := 16, mask := 0x80000000000000000000000000000001 }
       r.mask ≠ 0 ∧ r.len = 16 ∧ ({ req0 .store with bit := 60, width := 4 } : Req).bit + 4 ≤ 64)
    ∧ (let r := { req0 .load with done := true, replies := [5] }
       let s := withReqs [r]
       s.findReq 1 = some r ∧ (∀ q ∈ s.fab.reqs, q.done = true ∧ q.pois = false) ∧ (r.parts.find? r.wants).isSome = true) := by decide +kernel

/-- A store and a load performed at their homes, and the load delivered (R180, R99). -/
theorem test_home_access :
    after (exec (.homeAccessPerform 1) (withReqs [req0 .store])) (fun t => decide (t.mem.hbm = [(64, 0x44), (65, 0x33), (66, 0x22), (67, 0x11)]))
    ∧ after (exec (.loadWriteback 1) (withReqs [{ req0 .load with done := true, replies := [5] }])) (fun t => decide ((t.warp 0 0).rf.readG 1 0 = 5 ∧ t.fab.reqs = [])) := by decide +kernel

/-- The attach is up; ports 2 (fabric) and 3 (Ethernet) are up. -/
def ioUp : IO :=
  { IO.reset with bootstat := 1, links := [(2, { Link.reset with up := true, mode := 1 }), (3, { Link.reset with up := true, mode := 2 }), (8, { Link.reset with up := true, spare := 1 })] }
def upS : State := { base (core0 RF.zero) with io := ioUp, sched := [(0, { Sched.reset with inReset := false })] }

/-- Port 2 is the route to a device that it reaches, which is open. -/
theorem witness_routePort (h : Config.portReaches 2 5 = true) : upS.leads 5 2 = true ∧ upS.routePort 5 = some 2 ∧ upS.routes 5 = true := by
  have h1 : upS.leads 5 2 = true := by simp [State.leads, h]; decide
  have h2 : ∀ p, p < 8 → p ≠ 2 → upS.leads 5 p = false := by
    have h3 : ∀ p, p < 8 → p ≠ 2 → ((upS.port p).up && (upS.port p).wid != 2 && (upS.port p).mode == 1) = false := by decide
    intro p a b
    simp [State.leads, h3 p a b]
  refine ⟨h1, ?_, ?_⟩
  · simp [State.routePort, List.range, List.range.loop, h1, h2, show upS.io.lost = [] from rfl]
  · simp only [State.routes, Bool.and_eq_true, List.any_eq_true]
    exact ⟨by decide, 2, by decide, h1⟩

/-- A load that port 2 carried to that device, where the device is within its reach. -/
theorem witness_HomeAccess_peer (h : Config.portReaches 2 5 = true) :
    let r := { req0 .load with home := ⟨1, 0, 5 * 2 ^ 40⟩, sent := some 2 }
    let s := { upS with fab := { Fab.reset with reqs := [r] } }
    s.findReq 1 = some r ∧ r.ans = none ∧ s.mayPerform r = true ∧ s.waveHolds r.home r.len = false ∧ s.cutOff r = false ∧ s.unsent r = false := by
  refine ⟨rfl, rfl, by decide +kernel, by decide +kernel, ?_, by decide +kernel⟩
  have hr : ({ upS with fab := { Fab.reset with reqs := [{ req0 .load with home := ⟨1, 0, 5 * 2 ^ 40⟩, sent := some 2 }] } } : State).routes 5 = true :=
    (witness_routePort h).2.2
  simp only [State.cutOff]
  rw [show (5 * 2 ^ 40) / 2 ^ 40 = 5 from rfl, hr]; rfl

/-- That core with page 0 of the region cached, readable, writable and executable. -/
def coreT (rf : RF) : Core := { core0 rf with tlb := [⟨1, 0, 16, 0x1F⟩] }
def gangT (rf : RF) : State := { base (coreT rf) with cur := .gang 0 0 0 }

theorem witness_CacheAndFencesComplete :
    (let s := gangT RF.zero
     let f := { fM with sz := 0, v := 0xFF }
     let g := { f with sz := 1 }
     s.gangReady 0 0 0 (.pref f) = true ∧ memLanes f (s.gangIssue 0 0 0 (.pref f)).acting = [0]
       ∧ s.hintLane (s.gangIssue 0 0 0 (.pref f)) f .read 0 = .ok 0x1F 0 ∧ eLoc 0x1F = 0
       ∧ s.hintLane (s.gangIssue 0 0 0 (.ipref f)) f .fetch 0 = .ok 0x1F 0
       ∧ max (eCP 0x1F) f.cph.toNat ≠ 2 ∧ s.gangReady 0 0 0 (.ipref f) = true ∧ s.gangReady 0 0 0 (.cctlWb f) = true ∧ s.gangReady 0 0 0 (.cctlEvict g) = true
       ∧ s.gangReady 0 0 0 (.cctlPdrop { f with sz := 2 }) = true
       ∧ s.fab.reqs = [] ∧ s.fab.fences = [] ∧ (∀ p ∈ s.cores, p.2.lda = [])
       ∧ (passed (s.checkLanes (s.gangIssue 0 0 0 (.cctlWb f)) (memLanes f (s.gangIssue 0 0 0 (.cctlWb f)).acting)
            (s.checkLane (s.gangIssue 0 0 0 (.cctlWb f)) { f with sz := 0 } .read))).isSome = true)
    ∧ (let r := { req0 .load with pois := false }
       let s := { gang RF.zero with fab := { Fab.reset with reqs := [r] } }
       let f := { fM with sz := 0, v := 0xFF, ord := 3, sco := 2 }
       s.gangReady 0 0 0 (.fence f) = true ∧ 0 ∈ slicesOf (s.gangIssue 0 0 0 (.fence f)).acting ∧ r.uid = (s.warp 0 0).uid ∧ bitAt r.slices 0 = true
         ∧ r.done = false ∧ r.replies? = true ∧ r.id < s.nextId ∧ s.gangReady 0 0 0 (.fence { f with ord := 2, sco := 1 }) = true)
    ∧ (let s := gang RF.zero
       let f := { fM with sz := 0, v := 0xFF }
       (s.fenced 0 0 0 true true).any s.awaited = false ∧ s.gangReady 0 0 0 (.fence { f with ord := 1, sco := 3 }) = true
         ∧ s.gangReady 0 0 0 (.fencemir f) = true ∧ bitAt s.io.mircfg 62 = false
         ∧ s.mirrorBusy 1 (maskOf 8 (slicesOf (s.gangIssue 0 0 0 (.fencemir f)).acting)) = false
         ∧ s.gangReady 0 0 0 (.isync f) = true ∧ s.acts 0 0 0 (.isync f) = true ∧ s.loadsOpen 1 (slicesOf (s.gangIssue 0 0 0 (.isync f)).acting) = false) := by
  decide +kernel

/-- A card of one dimension of 4 bytes from 0x2000 to 0x3000 of own scratchpad, on the ring at 0x1000 (R51 to R53). -/
def card4 : List DWord := [0x0010000000000671, 0x2000, 0x3000, 0, 4, 0, 0, 0, 0, 0, 0, 0, 0, 0, 0, 0]

/-- That card at index 5, its ring of two slots laid out, source bytes 1 to 4. -/
def coreC (rf : RF) : Core :=
  { (((core0 rf).layRing 0x1000 2 2 1).writeScr 0x2000 [1, 2, 3, 4]) with cardAt := [(5, 1)], units := [(5, card4)], tlb := [⟨1, 0, 16, 0x1F⟩] }
def gangC (rf : RF) : State := { base (coreC rf) with cur := .gang 0 0 0 }

/-- XSTART of card 5 on channel 2 by the pair k4, k5. -/
def fX : FmtM := { fM with sz := 3, sp := 2, ofs := 0x10, v := 0xC4 }
def rfX : RF := kRegs [0, 0, 0, 0, 0xFF05]

def copied : LaneCopy → Option CopyRec
  | .ok r => some r
  | .fault _ _ => none
  | .hold => none
  | .poison _ => none

def ldaOk : LaneLda → Bool
  | .ok _ _ _ _ => true
  | _ => false

/-- The copy that XSTART leaves. -/
def copy4 : CopyRec :=
  { id := 10, inst := 10, ctx := 1, block := 0, warp := some 0, uid := 1, gang := 1, next := 72, ch := 2, tidx := 5, rsl := 0, card := card4, src := 0x10000,
    dst := 0x18000, shift := 0, otgt := false, hdr := 0x1000, slot := 0x1010, after := [], chunks := 0, pos := 0, fin := false, got := [], code := 0, fva := 0 }

/-- That copy from page 0 of the host's memory. -/
def copyH : CopyRec := { copy4 with card := 0x0010000000000471 :: card4.tail, src := 0 }

/-- One LDA16 lane whose 16 bytes are here. -/
def lda0 : LdaRec :=
  { id := 3, inst := 3, block := 0, warp := 0, uid := 1, slices := 1, lane := 0, dst := 0x2000, slot := 0x1010, hdr := 0x1000
    reqs := [], data := 0x04030201, pois := false }

/-- The hypotheses of XTSET and XQUERY are those of witness_CardsComplete. -/
theorem witness_CopiesStart :
    (let s := gangC rfX
     let x := s.gangIssue 0 0 0 (.xstart fX)
     s.gangReady 0 0 0 (.xstart fX) = true ∧ s.acts 0 0 0 (.xstart fX) = true ∧ s.unaccepted x = false ∧ s.installing x = false
       ∧ (∀ p ∈ s.copyLanes x fX s.nextId, (copied p.2).isSome = true) ∧ s.copyLanes x fX s.nextId ≠ [])
    ∧ (let s := { base ((coreC RF.zero).setSeq 0 true { Seq.idle with st := .running, rf := rfX }) with cur := .seq 0 0 true }
       let x := s.seqIssue 0 0 true (.xstart fX)
       s.seqReady 0 0 true (.xstart fX) = true ∧ s.unaccepted x = false ∧ s.installing x = false
         ∧ (∀ p ∈ s.copyLanes x fX s.nextId, (copied p.2).isSome = true))
    ∧ (let s := base { coreC rfX with apq := [copy4] }
       (s.core 0).inFlight < 128 ∧ (s.ctx copy4.ctx).runs [.copyEngine 0] = true ∧ s.issuerRuns 0 copy4 = true
         ∧ copy4.warp = some 0 ∧ (s.warp 0 0).uid = copy4.uid ∧ bitsOf copy4.gang 8 = [0])
    ∧ (let s := base { coreC rfX with apq := [{ copy4 with warp := none }] }
       s.issuerRuns 0 { copy4 with warp := none } = true)
    ∧ (let s := gangC (kRegs [0x4000, 0x01001000])
       let f := { fM with sz := 4, sp := 0, v := 0, ab := 2 }
       let t := { s with cores := [(0, { coreC ⟨[(0, 0x4000), (32, 0x01001000)], [], []⟩ with warps := [(0, { Warp.absent with live := true, uid := 1, nregs := 192, rf := ⟨[(0, 0x4000), (32, 0x01001000)], [], []⟩, slices := [(0, { Slice.init with mask := 1, gang := 1 })] })] })] }
       t.gangReady 0 0 0 (.lda16 f) = true ∧ t.acts 0 0 0 (.lda16 f) = true ∧ (t.core 0).inFlight < 128
         ∧ memLanes f (t.gangIssue 0 0 0 (.lda16 f)).acting = [0]
         ∧ (∀ l ∈ memLanes f (t.gangIssue 0 0 0 (.lda16 f)).acting, ldaOk (t.laneLda (t.gangIssue 0 0 0 (.lda16 f)) f l) = true)) := by decide +kernel

/-- XSTART leaves the copy that its card and its data describe (R305, R407). -/
theorem test_xstart : after (exec (.xstart fX) (gangC rfX)) (fun t => decide ((t.core 0).apq = [{ copy4 with id := 11, gang := 0xFF }])) = true := by decide +kernel

theorem witness_CopiesGoOn :
    (let s := base { coreC rfX with copies := [copy4], window := [.copy 10] }
     let k := s.core 0
     let es := copy4.chunk ((copy4.elem copy4.pos).d / 32768) (cardCount copy4.card - copy4.pos) copy4.pos
     k.copies.find? (fun q => q.id = 10) = some copy4 ∧ copy4.fin = false ∧ copy4.code = 0 ∧ (s.ctx copy4.ctx).runs [.copyEngine 0] = true
       ∧ copy4.after.any s.awaited = false ∧ k.edgesDone (.copy 10) = true ∧ k.channelTurn copy4 = true ∧ es.all copy4.within = true
       ∧ es.findSome? (s.elemFault 0 copy4) = none ∧ es.flatMap (s.elemMisses 0 copy4) = []
       ∧ es.any (s.elemHeld 0 copy4) = false ∧ es ≠ [] ∧ k.bad = [] ∧ s.unread 0 copy4 es = []
       ∧ k.bars = [] ∧ 0x1000 + 16 ≤ 0x1010 ∧ 0x1010 + 16 ≤ k.scrSize)
    ∧ (let r := copyH
       let t := base { coreC rfX with copies := [r], window := [.copy 10], tlb := [⟨1, 0, 16, 0x5F⟩] }
       let s := { t with io := { t.io with dmaB := [(0, 0xC000000000000010)] } }
       let k := s.core 0
       let es := r.chunk ((r.elem r.pos).d / 32768) (cardCount r.card - r.pos) r.pos
       k.copies.find? (fun q => q.id = 10) = some r ∧ (s.ctx r.ctx).runs [.copyEngine 0] = true ∧ k.edgesDone (.copy 10) = true ∧ k.channelTurn r = true
         ∧ es.all r.within = true ∧ es.findSome? (s.elemFault 0 r) = none ∧ es.flatMap (s.elemMisses 0 r) = [] ∧ es.any (s.elemHeld 0 r) = false
         ∧ s.unread 0 r es ≠ [] ∧ s.copyReads 10 = false
         ∧ (let u := { r with got := [(2, 0x04030201, false)] }
            s.unread 0 u es = []))
    ∧ (let r := { copy4 with fin := true }
       let s := base { coreC rfX with copies := [r] }
       s.copyMoves 10 = false ∧ (s.core 0).bad = [] ∧ (s.ctx r.ctx).runs [.copyEngine 0] = true
         ∧ (s.core 0).copies.find? (fun q => q.id = 10) = some r ∧ ((s.core 0).copies.takeWhile (fun q => q.id != r.id)).any (fun q => q.ch == r.ch) = false
         ∧ s.scrHeld 0 r.hdr 16 = false ∧ s.scrHeld 0 r.slot 16 = false ∧ ((s.core 0).block r.block).warps ≠ [])
    ∧ (let s := base { coreC rfX with lda := [lda0] }
       (s.core 0).lda.find? (fun q => q.id = 3) = some lda0 ∧ lda0.reqs = [] ∧ (s.core 0).bad = [] ∧ s.ldaHeld 0 lda0 = false
         ∧ ((s.core 0).block lda0.block).warps ≠ [] ∧ (s.core 0).bars = [] ∧ lda0.dst + 16 ≤ (s.core 0).scrSize ∧ lda0.hdr + 16 ≤ lda0.slot
         ∧ lda0.slot + 16 ≤ (s.core 0).scrSize)
    ∧ (let k := ((core0 RF.zero).layRing 0x1000 2 2 1).modWarp 0 fun w => w.modSlice 3 fun x => { x with st := .parked, park := .yieldc, tok := some 0x1010 }
       k.bars = [] ∧ k.scrNat 0x1010 4 / 65536 = 1 ∧ k.scrNat 0x1010 4 % 65536 = 0 ∧ k.scrNat 0x1014 4 % 2 = 0
         ∧ ((k.warp 0).slice 3).park = .yieldc ∧ ((k.warp 0).slice 3).tok = some (BitVec.ofNat 64 0x1010)) := by decide +kernel

/-- The copy's one chunk moves its four bytes; its arrival fills slot 0 (R61, R64). -/
theorem test_copy :
    after (exec (.copyChunk 0 10) (base { coreC rfX with copies := [copy4], window := [.copy 10] })) (fun t =>
      decide ((t.core 0).scrNat 0x3000 4 = 0x04030201 ∧ (t.core 0).scrNat 0x3004 4 = 0)) = true
    ∧ after (exec (.copyArrival 0 10) (base { coreC rfX with copies := [{ copy4 with fin := true }] })) (fun t =>
        decide ((t.core 0).scrNat 0x1010 8 = 0x100010001 ∧ (t.core 0).scrNat 0x1004 4 = 1 ∧ (t.core 0).copies = [])) = true := by decide +kernel

/-- The arrival of an LDA16's lane: its bytes, ARR and FULL of the slot, WP (R64, R306). -/
theorem test_lda16_arrival :
    after (exec (.lda16Arrival 0 3) (base { coreC rfX with lda := [lda0] })) (fun t =>
      decide ((t.core 0).scrNat 0x2000 16 = 0x04030201 ∧ (t.core 0).scrNat 0x1010 8 = 0x100010001 ∧ (t.core 0).scrNat 0x1004 4 = 1)) = true := by decide +kernel

theorem witness_CardsComplete :
    (let s := { gangC (kRegs [0x4000]) with cores := [(0, (coreC (kRegs [0x4000])).writeScr 0x4000 (card4.flatMap fun (d : DWord) => leBytes 8 d.toNat))] }
     let f := { fY with a := 0xC0, imm12 := 7 }
     s.readyFor (.xtset f) = true ∧ s.busyBefore (s.issueOf (.xtset f)) = false ∧ (s.core 0).ownScr 0x4000 128 = true ∧ 0x4000 + 384 ≤ (s.core 0).scrSize
       ∧ cardUnits (BitVec.ofNat 64 ((s.core 0).scrNat 0x4000 8)) = 1 ∧ (s.core 0).cardImage 0x4000 1 = card4 ∧ cardBad 7 card4 = false
       ∧ indexUsed ((s.core 0).copies ++ (s.core 0).apq) 7 1 = false ∧ s.scrHeld 0 0x4000 128 = false
       ∧ s.poisonIn (s.issueOf (.xtset f)) 0x4000 128 = none)
    ∧ (let s := gangC rfX
       let f := { fY with d := 1, imm12 := 0x45 }
       s.readyFor (.xquery f) = true ∧ ((s.core 0).query 0x45).isSome = true ∧ s.readyFor (.xquery { f with imm12 := 0 }) = true
         ∧ ((s.core 0).query 0x41).isSome = true ∧ Sparse.get 0 (s.core 0).cardAt 1 = 0) := by decide +kernel

theorem witness_RingsComplete :
    (let s := gangC (kRegs [0x1000, 0x00010001])
     let f := { fY with a := 0xC0, b := 0xC1, imm12 := 2 }
     s.readyFor (.ringinit f) = true ∧ (s.ringFault (s.issueOf (.ringinit f)) 0x1000 (ringBytes 2 2)).isNone = true ∧ s.busyBefore (s.issueOf (.ringinit f)) = false
       ∧ s.scrHeld 0 0x1000 (ringBytes 2 2) = false)
    ∧ ((core0 RF.zero).bars = [] ∧ 0x1000 + ringBytes 2 2 ≤ (core0 RF.zero).scrSize)
    ∧ (let s := gangC (kRegs [0x1000])
       let f := { fY with d := 1, a := 0xC0 }
       let x := s.issueOf (.awaitf f)
       s.readyFor (.awaitf f) = true ∧ x.again = false ∧ (match s.nameSlot x 0x1000 0 with
         | .inl n => n == 0x1010
         | .inr _ => false) = true ∧ (s.core 0).slotFull 0x1010 = false
       ∧ (let t := s.modCore 0 fun k => k.arrive 0x1000 0x1010
          (t.core 0).slotFull 0x1010 = true ∧ t.readyFor (.awaitf f) = true)
       ∧ (let t := { s with cores := [(0, (coreC (kRegs [0x1000])).modWarp 0 fun w => { w with slices := (List.range 8).map fun j =>
            (j, { Slice.init with pc := 64, st := .parked, park := .awaitf, tok := some 0x1010, ready := true }) })] }
          t.readyFor (.awaitf f) = true ∧ (t.issueOf (.awaitf f)).slices ≠ [] ∧ t.parkedOn (t.issueOf (.awaitf f)) = some (0x1010, true))
       ∧ s.gangReady 0 0 0 (.yieldc { f with imm12 := 2 }) = true ∧ s.acts 0 0 0 (.yieldc { f with imm12 := 2 }) = true) := by decide +kernel

theorem witness_SlotRearm :
    (let s := gangC (kRegs [0x1000, 32])
     let f := { fY with d := 0xC1, a := 0xC0 }
     let x := s.issueOf (.rels f)
     s.readyFor (.rels f) = true ∧ s.readyFor (.relsKeep { f with d := 0xFF, flg := 1 }) = true ∧ s.busyBefore x = false
       ∧ (match s.nameSlot x 0x1000 0 with
         | .inl n => n == 0x1010
         | .inr _ => false) = true)
    ∧ (let k := (coreC RF.zero).arrive 0x1000 0x1010
       k.bars = [] ∧ 0x1000 + 16 ≤ 0x1010 ∧ 0x1010 + 16 ≤ k.scrSize ∧ k.scrNat 0x1014 4 % 2 = 1 ∧ k.scrNat 0x1010 4 / 65536 ≤ k.scrNat 0x1010 4 % 65536
         ∧ (coreC RF.zero).scrNat 0x1014 4 % 2 = 0) := by decide +kernel

/-- The worked ring of R320: slot 1 waits for 32 after RELS, and RP counts it. -/
theorem test_rels :
    after (exec (.rels { fY with d := 0xC1, a := 0xC0, imm12 := 1 }) (gangC (kRegs [0x1000, 32]))) (fun t =>
      decide ((t.core 0).scrNat 0x1040 8 = 0x200000 ∧ (t.core 0).scrNat 0x1004 4 = 0x10000)) = true := by decide +kernel

theorem witness_DescriptorsComplete :
    (let s := gangC (kRegs [0x4000])
     let f := { fS with a := 0xC0, sel := 3 }
     let x := s.issueOf (.dset f)
     s.readyFor (.dset f) = true ∧ (s.core 0).descUsed x.block 3 = false ∧ s.busyBefore x = false ∧ (s.core 0).ownScr 0x4000 32 = true
       ∧ s.scrHeld 0 0x4000 32 = false ∧ s.poisonIn x 0x4000 32 = none ∧ (s.core 0).scrNat 0x4000 32 = 0 ∧ descFault (s.core 0).scrSize 0 = none
       ∧ (let g := { fS with a := 0xC4, sel := 0x83 }
          s.readyFor (.dsetW g) = true))
    ∧ (let s := gang (kRegs [1, 0x00110000, 9])
       s.readyFor (.lease { fS with d := 1, a := 0xC0 }) = true)
    ∧ (let l : Lease := ⟨7, 1, 1, 1, [(0, 9)]⟩
       let s := { gang (kRegs [1]) with fab := { Fab.reset with leases := [l] } }
       s.readyFor (.unlease { fS with d := 1, a := 0xC0 }) = true ∧ s.fab.leases.find? (fun q => q.id = 7) = some l
         ∧ Sparse.set 0 l.left 0 0 = []) := by decide +kernel

/-! ## Atomic accesses and combining objects -/

/-- The hypotheses of CMB are those of witness_CombineRequests, here and in AtomsPerform. -/
theorem witness_AtomsComplete :
    (let f := { fM with x := 1, v := 1, ty := 1, sp := 1 }
     let s := gangT RF.zero
     let x := s.gangIssue 0 0 0 (.atomAdd f)
     s.gangReady 0 0 0 (.atomAdd f) = true ∧ s.acts 0 0 0 (.atomAdd f) = true
       ∧ ((passed (s.checkLanes x (atomLanes f x.acting) (s.checkAtom x f 0))).map List.length) = some 32
       ∧ isG f.v = true ∧ slicesOf x.acting ≠ [] ∧ s.gangReady 0 0 0 (.atomCas { f with ty := 0, opr := 0xC0 }) = true
       ∧ s.gangReady 0 0 0 (.atomCas { f with ty := 0, opr := 0xFF }) = true
       ∧ s.gangReady 0 0 0 (.atomMax { f with v := 0xFF }) = true) := by decide +kernel

/-- An ATOM.ADD of two lanes. -/
def atom2 : Req :=
  { req0 .atom with ty := 1, parts := [⟨0, 0, 1, 0, [0], 1, 1, 3, 0, true⟩, ⟨1, 0, 1, 0, [0], 1, 1, 4, 0, true⟩] }

theorem witness_AtomsPerform :
    (let s := withReqs [atom2]
     s.findReq 1 = some atom2 ∧ s.mayPerform atom2 = true ∧ s.waveHolds atom2.home atom2.len = false ∧ s.homePoison atom2.home atom2.len = false
       ∧ ((s.core 0).block 0).warps ≠ [] ∧ s.openMem = true ∧ s.unsent atom2 = false ∧ s.cutOff atom2 = false ∧ atom2.ans = none ∧ s.fab.objs = [])
    ∧ isInt 1 = true
    ∧ (let a := { req0 .atom with ty := 1 }
       let b := { req0 .atom with ty := 1, id := 2, inst := 2 }
       let s := withReqs [a, b]
       s.findReq 1 = some a ∧ s.findReq 2 = some b ∧ a.mergeable = true ∧ b.mergeable = true ∧ s.mayPerform a = true ∧ s.mayPerform b = true) := by
  decide +kernel

theorem test_atom :
    after (exec (.atomHomePerform 1) (withReqs [atom2])) (fun t => decide (t.mem.hbm = [(64, 7)]
      ∧ (t.fab.reqs.map Req.replies) = [[0, 3]])) = true := by decide +kernel

/-- A valid, armed object at 64 with one method, and a payload of 64 bytes. -/
def memObj : Mem :=
  Mem.reset.write 0 64 ([0x8000000100000000 + 0x2000000000000000 + 0x0100000000000000, 0, 0x8000, 0x8000].flatMap fun (v : Nat) => leBytes 8 v)
def obj0 : CObj := { CObj.none with armed := true }
def cmb0 : Req := { req0 .cmb with n := 2, len := 8, sprd := 1 }
def objS (o : CObj) (l : List Req) : State := { withReqs l with mem := memObj, fab := { Fab.reset with reqs := l, objs := [(64, o)] } }

theorem witness_CombineRequests :
    (let f := { fM with x := 1, v := 2, opr := 4, ty := 10, sz := 3, ofs := 64, sprd := 1 }
     let s := gangT RF.zero
     let x := s.gangIssue 0 0 0 (.cmb f)
     s.gangReady 0 0 0 (.cmb f) = true ∧ s.acts 0 0 0 (.cmb f) = true
       ∧ ((passed (s.checkLanes x (atomLanes f x.acting) fun n => s.checkHeader x .update n (laneAddr f RF.zero n))).map List.length) = some 32)
    ∧ (let o := { obj0 with trug := [(1, 7)] }
       let r := { cmb0 with home := ⟨0, 0, 64⟩ }
       let s := objS o [r]
       let d := fun (s : State) (n : Nat) => s.mem.dword (r.home.addr + 8 * n)
       let img := fun (d0 d3 : Nat) => { s with mem := Mem.reset.write 0 64 ([d0, 0, 0x8000, d3].flatMap fun (v : Nat) => leBytes 8 v) }
       r.kind = .cmb ∧ r.done = false ∧ (s.obj 64).holds 1 = false ∧ s.mayArrive r = true ∧ s.ctxRuns r = true ∧ (s.tag 0).mode < 2
         ∧ bitAt (d s 0) 63 = true ∧ (s.obj 64).armed = true ∧ bitAt (d s 0) 62 = false ∧ r.meth < fieldN (d s 0) 56 5 ∧ bitAt (d s 3) 15 = true
         ∧ (s.obj 64).trug.length < 32 ∧ (s.obj 64).active = true
         ∧ 32 ≤ (objS { obj0 with trug := List.replicate 32 (1, 7) } [r] |>.obj 64).trug.length
         ∧ bitAt (d (img 0 0) 0) 63 = false ∧ bitAt (d (img (2 ^ 63 + 2 ^ 62) 0) 0) 62 = true
         ∧ fieldN (d (img (2 ^ 63 + 2 ^ 61) 0) 0) 56 5 ≤ r.meth)
    ∧ (let p : Part := ⟨0, 0, 1, 0, [0], 1, 1, 3, 0, true⟩
       let s := objS obj0 [cmb0]
       let t := objS obj0 [{ cmb0 with done := true, replies := [9] }]
       cmb0.parts = [p] ∧ cmb0.wants p = true ∧ ((s.core 0).block 0).warps ≠ [] ∧ cmb0.sprd ≠ 7 ∧ cmb0.sec = 0 ∧ cmb0.n = 2 ∧ cmb0.pois = false
         ∧ ((t.core 0).block 0).warps ≠ []) := by decide +kernel

/-- A CMB that finds no object is answered CNOOBJ (R170, R174), and the answer delivered sets its status predicate on OK alone. -/
theorem test_cmb :
    (((objS CObj.none [cmb0]).cmbArrive cmb0).fab.reqs.map fun r => (r.done, r.op)) = [(true, 4)]
    ∧ (after (exec (.loadWriteback 1) (objS obj0 [{ cmb0 with done := true, op := 0, replies := [0x500000009] }])) fun t =>
        decide ((t.warp 0 0).rf.read2 1 0 = 0x500000009 ∧ (t.warp 0 0).rf.readP 1 0 = true ∧ t.fab.reqs = [])) = true := by decide +kernel

/-- One EXIT. -/
def obj1 : CObj := { obj0 with methods := [(0, [(0x4070000000000004, 0)])] }

theorem witness_Waves :
    (let s := objS { obj1 with trug := [(1, 1)] } [cmb0]
     s.answerHalted = s ∧ s.nextObj (objSlice 64) = some 64 ∧ (s.obj 64).trug ≠ [] ∧ ((s.findReq 1).map Req.meth) = some 0)
    ∧ (let s := objS { obj1 with wave := some (0, [1]) } [cmb0]
       let p : Payload := { mem := s.mem, base := 64 + 64, size := 64 * hdrPlen s.mem 64 }
       (s.obj 64).wave = some (0, [1])
         ∧ (Wave.run p 1 (Sparse.get [] (s.obj 64).methods 0) 0 false (Wave.start 0 [3])).isSome = true
         ∧ Wave.run p 1 [] 0 false (Wave.start 0 [3]) = none)
    ∧ 0 < [(3 : DWord)].length ∧ [(3 : DWord)].length ≤ 32 :=
  ⟨⟨by decide +kernel, by simp [State.nextObj, objS, withReqs, obj1, obj0], by decide +kernel, by decide +kernel⟩, by decide +kernel, by decide, by decide⟩

theorem witness_ObjectsComplete :
    (let f := { fS with d := 0xC8, a := 0xC0 }
     let s := gangT (kRegs [64, 0, 0x4000])
     let x := s.issueOf (.cobjInit f)
     let k := s.core 0
     s.readyFor (.cobjInit f) = true ∧ (s.rfOf x).read2 f.a x.low = 64 ∧ (s.rfOf x).read1 (f.a + 2) x.low = 0x4000 ∧ s.translate 0 x.who (s.regionOf x) 64 .read ≠ .miss
       ∧ s.cachedPage 0 (s.regionOf x) 64 = some (0x1F, 64) ∧ s.leafFault (s.regionOf x) 0x1F 64 .update = none ∧ k.ownScr 0x4000 64 = true
       ∧ s.busyBefore x = false ∧ s.coreTracks 0 = false ∧ (s.obj 64).wave = none ∧ s.poisonIn x 0x4000 64 = none ∧ s.openMem = true ∧ (∀ o ∈ s.fab.objs, o.2.armed = true → o.1 = 64) ∧ eMir (0x1F : DWord) = false
       ∧ s.initStatus 64 (eLoc (0x1F : DWord) != 0 || !bitAt (0x1F : DWord) 2 || !bitAt (0x1F : DWord) 3 || eCrypt (0x1F : DWord) == 2) (k.objImage 0x4000) = 4
       ∧ s.initStatus 64 (eLoc (0x1F : DWord) != 0 || !bitAt (0x1F : DWord) 2 || !bitAt (0x1F : DWord) 3 || eCrypt (0x1F : DWord) == 2) [0x0100000100000000, 0, 0x8000, 0, 0, 0, 0, 0] = 0)
    ∧ (let f := { fS with d := 0xC8, a := 0xC0 }
       let s := gangT (kRegs [64])
       let t := { s with mem := memObj }
       let x := s.issueOf (.cobjArm f)
       s.readyFor (.cobjArm f) = true ∧ t.readyFor (.cobjArm f) = true ∧ s.checkHeader x .update x.low 64 = .ok ⟨0, 64, ⟨0, 0, 64⟩, 0, 0x1F⟩
         ∧ s.busyBefore x = false ∧ s.coreTracks 0 = false ∧ (s.obj 64).wave = none ∧ hdrVld s.mem 64 = false ∧ hdrVld t.mem 64 = true ∧ eCrypt (0x1F : DWord) ≠ 2
         ∧ (t.takeMethods x 64).toOption = none
         ∧ (let u := { t with mem := memObj.write 0 0x8000 (leBytes 8 0x4070000000000004) }
            u.takeMethods x 64 = .ok [(0, [(0x4070000000000004, 0)])]))
    ∧ (let f := { fS with d := 0xC8, a := 0xC0 }
       let s := gangT (kRegs [64])
       let x := s.issueOf (.cobjQuery f)
       s.readyFor (.cobjQuery f) = true ∧ s.checkHeader x .read x.low 64 = .ok ⟨0, 64, ⟨0, 0, 64⟩, 0, 0x1F⟩ ∧ s.fab.reqs = [] ∧ s.fab.fences = [] ∧ (∀ p ∈ s.cores, p.2.lda = [])
         ∧ (s.obj 64).wave = none ∧ eCrypt (0x1F : DWord) ≠ 2
         ∧ s.mem.poisoned 0 64 16 = false ∧ isGz f.d = false) := by decide +kernel

/-! ## Barriers -/

/-- The gang of that warp with its slices changed, and what else of the core. -/
def gangS (g : Nat → Slice → Slice) (rf : RF) : State :=
  { base { core0 rf with warps := [(0, { Warp.absent with live := true, uid := 1, nregs := 192, rf := rf, slices := (List.range 8).map fun j => (j, g j { Slice.init with pc := 64 }) })] }
    with cur := .gang 0 0 0 }

theorem witness_NumberedBarriers :
    (let b := Bar.init 4 false
     b.arr + 1 < b.exp ∧ (Bar.init 1 false).exp ≤ (Bar.init 1 false).arr + 1 ∧ b.all = false ∧ 0 ∉ b.counted ∧ (Bar.init 4 true).all = true
        ∧ (Bar.init 4 true).arr < (Bar.init 4 true).exp - 1
       ∧ (Bar.init 1 true).exp - 1 ≤ (Bar.init 1 true).arr)
    ∧ (let s := gang RF.zero
       let f := { fY with nb := 3, d := 1 }
       let x := s.gangIssue 0 0 0 (.nbsync f)
       let b := (actingSlices x.acting x.slices).foldl (fun b k => b.record 0 k (s.warp 0 0).left) (s.getBar x (.num 3))
       s.gangReady 0 0 0 (.nbsync f) = true ∧ s.acts 0 0 0 (.nbsync f) = true ∧ actingSlices x.acting x.slices = [0, 1, 2, 3, 4, 5, 6, 7]
         ∧ (∀ k ∈ actingSlices x.acting x.slices, ((s.warp 0 0).slice k).arrived = none ∧ (s.getBar x (.num 3)).pending 0 k = false)
         ∧ b.passed 0 = true ∧ (s.getBar x (.num 3)).passed 0 = false ∧ predCode f.d < 7
         ∧ s.gangReady 0 0 0 (.nbarv { f with d := 0xFF }) = true ∧ s.gangReady 0 0 0 (.nbwait f) = true
         ∧ s.gangReady 0 0 0 (.barinitNb { f with d := 0xFF, imm12 := 2, flg := 1 }) = true ∧ s.acts 0 0 0 (.barinitNb { f with d := 0xFF, imm12 := 2, flg := 1 }) = true)
    ∧ (let s := seqr true RF.zero
       let f := { fY with nb := 3, d := 1 }
       let x := s.seqIssue 0 0 true (.nbsync f)
       s.seqReady 0 0 true (.nbsync f) = true ∧ s.seqReady 0 0 true (.nbwait f) = true ∧ (s.getBar x (.num 3)).arrive.passed 0 = true
         ∧ (s.getBar x (.num 3)).passed 0 = false) := by decide +kernel

/-- A core with a barrier object of two warps at 0x2000, of its block, and one of another block at 0x2010. -/
def gangB (rf : RF) (exp : Nat) : State :=
  { base { core0 rf with bars := [⟨0x2000, 0, Bar.init exp false⟩, ⟨0x2010, 1, Bar.init 1 false⟩] } with cur := .gang 0 0 0 }

theorem witness_BarrierObjects :
    (let f := { fY with d := 1, a := 0xC0, b := 0xFF }
     let i : Instr := .barsync f
     let s := gangB (kRegs [0x2000]) 2
     let x := s.gangIssue 0 0 0 i
     let sls := actingSlices x.acting x.slices
     let two := sls.foldl (fun b k => b.record 0 k (s.warp 0 0).left) (s.getBar x (.obj 0x2000))
     s.gangReady 0 0 0 i = true ∧ s.acts 0 0 0 i = true ∧ x.again = false ∧ (∀ k ∈ sls, ((s.warp 0 0).slice k).arrived = none)
       ∧ (s.core 0).ownScr 0x2000 1 = true ∧ (∃ q ∈ (s.core 0).bars, q.ofs = 0x2000 ∧ q.block = (s.warp 0 0).block)
       ∧ (∀ k ∈ sls, (s.getBar x (.obj 0x2000)).pending 0 k = false) ∧ two.passed 0 = false
       ∧ (sls.foldl (fun b k => b.record 0 k 0xFF) ((gangB RF.zero 1).getBar x (.obj 0x2000))).passed 0 = true
       ∧ (let t := gangB (kRegs [0x01000000]) 2
          t.gangReady 0 0 0 i = true ∧ (t.core 0).ownScr ((t.warp 0 0).rf.readK 0) 1 = false)
       ∧ (s.core 0).ownScr 0x2001 1 = true ∧ (∀ q ∈ (s.core 0).bars, q.ofs = 0x2010 → q.block ≠ (s.warp 0 0).block)
       ∧ s.gangReady 0 0 0 (.bararv { f with b := 0xFF }) = true ∧ s.gangReady 0 0 0 (.barwait { f with b := 0xC1 }) = true)
    ∧ (let f := { fY with d := 1, a := 0xC0, imm12 := 4 }
       let s := gangB (kRegs [0x3000]) 2
       let x := s.gangIssue 0 0 0 (.barinit f)
       s.gangReady 0 0 0 (.barinit f) = true ∧ s.acts 0 0 0 (.barinit f) = true ∧ (s.core 0).ownScr 0x3000 1 = true ∧ s.scrStores x 0x3000 16 = false
         ∧ (s.core 0).scrPoisonAt 0x3000 16 = none ∧ (s.core 0).bars.length < 64 ∧ predCode f.d < 7
         ∧ (s.core 0).bars.find? (fun q => q.ofs == 0x2010) = some ⟨0x2010, 1, Bar.init 1 false⟩) := by decide +kernel

/-! ## Control transfer, sequencers, tasks -/

theorem witness_SliceBoundary :
    (let y := Slice.init
     let e : DivEntry := ⟨128, 0xF, 64, 3⟩
     y.stack = [] ∧ y.mask ≠ 0 ∧ e.pend ≠ 0 ∧ e.ppc ≠ e.join ∧ { e with pend := 0 }.pend = 0 ∧ e.m ≠ 0) := by decide

theorem witness_ControlTransfers :
    (let s := gang ⟨[], [], [(0, true)]⟩
     let f := { fC with gd := 0, t20 := 2, j20 := 4 }
     let g := { fC with gd := 0, t20 := 2 }
     let x := s.gangIssue 0 0 0 (.bra f)
     s.gangReady 0 0 0 (.bra f) = true ∧ s.gangReady 0 0 0 (.bra g) = true ∧ x.slices = [0, 1, 2, 3, 4, 5, 6, 7] ∧ x.acting = [0]
       ∧ laneMask x.acting 0 ≠ 0 ∧ laneMask x.acting 0 ≠ ((s.warp 0 0).slice 0).mask ∧ laneMask x.acting 1 = 0 ∧ f.j20 ≠ 0 ∧ g.j20 = 0)
    ∧ (let s := gang (kRegs [256])
       let f := { fC with l := 0xC0 }
       s.gangReady 0 0 0 (.brx f) = true ∧ s.gangReady 0 0 0 (.ret f) = true ∧ s.gangReady 0 0 0 (.call { f with t20 := 2 }) = true
         ∧ (let t := gang ⟨[(1, 8)], [], []⟩
            t.gangReady 0 0 0 (.brx { f with l := 0 }) = true ∧ (t.gangIssue 0 0 0 (.brx { f with l := 0 })).acting = List.range 32
              ∧ (t.warp 0 0).rf.read2 0 1 ≠ (t.warp 0 0).rf.read2 0 0 ∧ (t.warp 0 0).rf.read2 0 4 = (t.warp 0 0).rf.read2 0 5))
    ∧ (let s := seqr false (kRegs [256])
       let f := { fC with l := 0xC0 }
       s.seqReady 0 0 false (.bra { fC with t20 := 2 }) = true ∧ s.seqReady 0 0 false (.brx f) = true ∧ s.seqReady 0 0 false (.ret f) = true
         ∧ s.seqReady 0 0 false (.call { f with t20 := 2 }) = true ∧ s.seqReady 0 0 false (.nop fC) = true)
    ∧ (let s := gang RF.zero
       s.gangReady 0 0 0 (.exit fC) = true ∧ Sparse.get 0 (((s.core 0).block 0).bar 3).recd 0 = 0 ∧ s.gangReady 0 0 0 (.nop fC) = true)
    ∧ (let f := { fC with l := 0xFF }
       let s := gang RF.zero
       let apart := fun (k : Nat) (y : Slice) => { y with gang := (if k < 4 then 0x0F else 0xF0) }
       let t := gangS apart RF.zero
       let u := gangS (fun k y => if k < 4 then apart k y else { apart k y with st := .parked, park := .regang, rgMask := 0xFF }) RF.zero
       let v := gangS (fun k y => if k < 4 then apart k y else { apart k y with st := .parked, park := .regang, rgMask := 0xFE }) RF.zero
       s.gangReady 0 0 0 (.regang f) = true ∧ t.gangReady 0 0 0 (.regang f) = true ∧ u.gangReady 0 0 0 (.regang f) = true ∧ v.gangReady 0 0 0 (.regang f) = true
         ∧ (t.gangIssue 0 0 0 (.regang f)).slices = [0, 1, 2, 3] ∧ (u.gangIssue 0 0 0 (.regang f)).again = false
         ∧ ((v.warp 0 0).slice 4).rgMask ≠ f.l ∧ ((u.warp 0 0).slice 4).rgMask = f.l ∧ ((t.warp 0 0).slice 4).st ≠ .exited
         ∧ (((u.warp 0 0).slice 0).goto (u.gangIssue 0 0 0 (.regang f)).next).st ≠ .exited ∧ bitAt (0xFE : BitVec 8) 0 = false) := by decide +kernel

/-- Slice 0 diverges at a BRA that one of its lanes takes (R213). -/
theorem test_bra :
    after (exec (.bra { fC with gd := 0, t20 := 2, j20 := 4 }) (gang ⟨[], [], [(0, true)]⟩)) (fun t =>
      decide (((t.warp 0 0).slice 0).pc = 80 ∧ ((t.warp 0 0).slice 0).mask = 1 ∧ ((t.warp 0 0).slice 0).stack = [⟨96, 15, 72, 14⟩]
        ∧ ((t.warp 0 0).slice 1).pc = 72 ∧ ((t.warp 0 0).slice 1).stack = [])) = true := by decide +kernel

theorem witness_SequencersComplete :
    (let s := gang RF.zero
     let f := { fS with imm16 := 4 }
     let t := { base ((core0 RF.zero).setSeq 0 false { Seq.idle with st := .running }) with cur := .gang 0 0 0 }
     let u := { s with cores := [(0, { (core0 RF.zero).setSeq 0 false { Seq.idle with st := .running } with
       warps := [(0, { Warp.absent with live := true, uid := 1, nregs := 192, slices := (List.range 8).map fun j => (j, { Slice.init with pc := 64, st := .parked, park := .fork }) })] })] }
     s.gangReady 0 0 0 (.fork f) = true ∧ s.acts 0 0 0 (.fork f) = true ∧ ((s.core 0).seq 0 false).st = .exited
       ∧ t.gangReady 0 0 0 (.fork f) = true ∧ (t.gangIssue 0 0 0 (.fork f)).again = false ∧ ((t.core 0).seq 0 false).st ≠ .exited
       ∧ u.gangReady 0 0 0 (.fork f) = true ∧ (u.gangIssue 0 0 0 (.fork f)).again = true ∧ ((u.core 0).seq 0 false).st ≠ .exited
       ∧ s.gangReady 0 0 0 (.rdv fS) = true ∧ t.gangReady 0 0 0 (.rdv fS) = true ∧ s.acts 0 0 0 (.rdv fS) = true)
    ∧ (let s := seqr true RF.zero
       let lone := { (core0 RF.zero).setSeq 0 true { Seq.idle with st := .running } with warps := [] }
       let t := { base (lone.modBlock 0 fun b => { b with warps := [] }) with cur := .seq 0 0 true }
       s.seqReady 0 0 true (.exit fC) = true ∧ ((s.core 0).block 0).warps ≠ [] ∧ t.seqReady 0 0 true (.exit fC) = true
         ∧ ((t.core 0).block 0).live = true ∧ ((t.core 0).block 0).warps = [] ∧ (((t.core 0).block 0).seq (!true)).st = .exited ∧ t.blockBusy 0 0 = false
         ∧ 1 < (t.launch ((t.core 0).block 0).launch).counter
         ∧ (seqr false RF.zero).seqReady 0 0 false (.seqend fS) = true ∧ ((seqr false RF.zero).core 0).jobs = []) := by decide +kernel

/-- EXIT in the last sequencer of a block without warps retires its task (R207). -/
theorem test_retire :
    (let lone := { (core0 RF.zero).setSeq 0 true { Seq.idle with st := .running } with warps := [] }
     after (exec (.exit fC) { base (lone.modBlock 0 fun b => { b with warps := [] }) with cur := .seq 0 0 true }) (fun t =>
       decide (((t.core 0).block 0).live = false ∧ (t.launch 1).counter = 1 ∧ (t.launch 1).phase = 1))) = true := by decide +kernel

/-- The launch with task queues of two. -/
def launchQ : Launch := { Launch.none with ctx := 1, rcb := 1, phase := 1, counter := 2, d := [0x8000, 0x0008080808040000, 0, 0, 0, 0x200000000] }
def gangQ (g : Nat → Slice → Slice) (l : Launch) : State := { gangS g RF.zero with
    launches := [(1, l), (2, { launchQ with d := [0, 0, 0, 0, 0, 0x0007000000000000] })]
    regions := [(1, { Region.none with live := true, root := 1, ctx := 1, asn := 1, budget := [100, 100, 100, 100], charge := [0, 0, 0, 0], pw := 1, ph := 1, tags := [1, 2] })] }

theorem witness_SystemComplete :
    (let f := { fS with d := 1 }
     let i : Instr := .sow f
     let s := gangQ (fun _ y => y) launchQ
     let t : TaskRec := ⟨1, 0x8000, 0, 0, 5, 3, false⟩
     let u := gangQ (fun k y => { y with st := .parked, park := .sow, held := if k = 0 then some t else none }) launchQ
     s.gangReady 0 0 0 i = true ∧ s.acts 0 0 0 i = true ∧ (s.gangIssue 0 0 0 i).again = false ∧ s.launchOf (s.gangIssue 0 0 0 i) = 1
       ∧ launchQ.nstg = 0 ∧ fieldN f.sel 0 3 = 0 ∧ s.gangReady 0 0 0 (.sow { f with sel := 1 }) = true
       ∧ launchQ.counter + 1 < 2 ^ 32 ∧ s.busyBefore (s.gangIssue 0 0 0 i) = false ∧ s.coreTracks 0 = false
       ∧ (launchQ.queue 0).length < launchQ.qcap 0 ∧ s.heldBefore 1 0 s.nextId = false
       ∧ ((gang RF.zero).launch 1).qcap 0 = 0 ∧ (gang RF.zero).gangReady 0 0 0 i = true
       ∧ u.gangReady 0 0 0 i = true ∧ u.acts 0 0 0 i = true ∧ (u.gangIssue 0 0 0 i).again = true ∧ (u.gangIssue 0 0 0 i).slices.headD 0 = 0
       ∧ ((u.warp 0 0).slice 0).held = some t ∧ u.heldBefore 1 0 t.seq = false)
    ∧ (let s := gang RF.zero
       let l := { launchQ with d := [0x8000, 0x0008080808040400, 0, 0, 0, 0x200000000, 7] }
       let t := gangQ (fun _ y => y) l
       let u := gangQ (fun _ y => { y with st := .parked, park := .waitp }) l
       s.gangReady 0 0 0 (.waitp fS) = true ∧ s.acts 0 0 0 (.waitp fS) = true ∧ s.producersOk (s.launchOf (s.gangIssue 0 0 0 (.waitp fS))) = true
         ∧ t.gangReady 0 0 0 (.waitp fS) = true ∧ t.producersOk 1 = false ∧ u.gangReady 0 0 0 (.waitp fS) = true ∧ u.producersOk 1 = false
         ∧ (u.gangIssue 0 0 0 (.waitp fS)).again = true ∧ (t.gangIssue 0 0 0 (.waitp fS)).again = false
         ∧ s.gangReady 0 0 0 (.trigger fS) = true ∧ s.acts 0 0 0 (.trigger fS) = true ∧ s.busyBefore (s.gangIssue 0 0 0 (.trigger fS)) = false)
    ∧ (let s := gang RF.zero
       s.gangReady 0 0 0 (.csrr { fS with d := 1, sel := 8 }) = true ∧ s.acts 0 0 0 (.csrr { fS with d := 1, sel := 8 }) = true
         ∧ s.gangReady 0 0 0 (.csrw { fS with a := 0xC0, sel := 0x18 }) = true ∧ s.acts 0 0 0 (.csrw { fS with a := 0xC0, sel := 0x18 }) = true
         ∧ s.gangReady 0 0 0 (.svc { fS with d := 0xC2, a := 0xC0, sel := 5 }) = true ∧ s.acts 0 0 0 (.svc { fS with d := 0xC2, a := 0xC0, sel := 5 }) = true
         ∧ s.gangReady 0 0 0 (.brkpt fC) = true ∧ s.gangReady 0 0 0 (.trap fS) = true ∧ s.acts 0 0 0 (.brkpt fC) = true
         ∧ (seqr true RF.zero).seqReady 0 0 true (.brkpt fC) = true) := by decide +kernel

/-- A region table at 0x10000 that maps the first 2^30 bytes to themselves; a QCB at 0x20000 of region 1, its ring at 0x21000; a record, a launch
descriptor, an EXEC buffer and two counts in memory. -/
def memQ : Mem :=
  [(0x10000, 0x11001), (0x11000, 0x12001), (0x12000, 0x1F), (0x20000, 0x21000), (0x20008, 0x0000200200000000), (0x20010, 1), (0x20018, 1),
    (0x21000, 0x0100000000000000), (0x21008, 0x22000), (0x22010, 0x23000), (0x24000, 0x0400000000000000), (0x24008, 0x23000), (0x24010, 9), (0x25000, 2)].foldl
      (fun (m : Mem) (p : Nat × Nat) => m.write 0 p.1 (leBytes 8 p.2)) Mem.reset
def slotQ : QSlot := { QSlot.empty with map := true, qid := 5, qcba := 0x800, prio := 3, rcb := 1 }
def regionQ : Region := { Region.none with live := true, root := 1, ctx := 1, asn := 1, pw := 1, ph := 1, troot := 0x10000, prio := 0x10 }
def schedQ (x : Sparse DWord) : Sched := { Sched.reset with inReset := false, x := x, pc := 0x100, mtvec := 0x80 }
def schS (x : Sparse DWord) : State :=
  { base (core0 RF.zero) with mem := memQ, regions := [(1, regionQ)], sched := [(0, schedQ x)], cur := .sched 0, io := { IO.reset with bootstat := 1, qslots := [(0, slotQ)] } }

/-- That page at the host instead, which its DMA window lets the device reach. -/
def hostIo (s : State) : State :=
  { s with mem := s.mem.write 0 0x12000 (leBytes 8 0x5F), io := { s.io with dmaB := [(0, 0xC000000000010000)] } }

/-- That launch, accepted and not yet placed, on a core that nothing uses. -/
def placeS (l : Launch) : State :=
  { base Core.reset with regions := [(1, { Region.none with live := true, root := 1, ctx := 1, asn := 1, pw := 1, ph := 1 })], launches := [(1, l)] }

theorem witness_Placement :
    (let l := { launchQ with phase := 0 }
     let s := placeS l
     s.launch 1 = l ∧ (s.region l.rcb).ctx = l.ctx ∧ (s.ctx l.ctx).st = .running ∧ s.outranked 1 = false ∧ s.ioUnread (agentOf 1) (s.region l.rcb) l.stageReads = []
       ∧ (s.ioDenied (s.region l.rcb) l.stageReads).readStages 1 l = some [] ∧ { l with stages := [] }.refused 0 = false
       ∧ s.seedCore l = some 0 ∧ ((s.core 0).block 0).live = false ∧ { l with d := [], stages := [] }.refused 0 = true
       ∧ (let t := { s with ctxs := [(1, { Ctx.none with st := .running, rcb := 1 })] }
          t.seedCore l = none ∧ t.outranked 1 = false ∧ (t.ctx 1).st = .running)
       ∧ (let l := { l with d := [0x8000, 0x0008080808044000, 0, 0, 0x40000, 0] }
          let t := placeS l
          t.launch 1 = l ∧ t.outranked 1 = false ∧ t.ioUnread (agentOf 1) (t.region l.rcb) l.stageReads = [] ∧ (t.ioDenied (t.region l.rcb) l.stageReads).readStages 1 l = none)
       ∧ (let l := { l with d := [0x8000, 0x0008080808044000, 0, 0, 0x40000, 0] }
          let t := hostIo { placeS l with mem := memQ, regions := [(1, regionQ)] }
          t.launch 1 = l ∧ (t.region l.rcb).ctx = l.ctx ∧ (t.ctx l.ctx).st = .running ∧ t.outranked 1 = false ∧ t.ioUnread (agentOf 1) (t.region l.rcb) l.stageReads ≠ []))
    ∧ (let t : TaskRec := ⟨1, 0x8000, 0, 0, 5, 3, false⟩
       let s := placeS ({ launchQ with phase := 1 }.setQueue 0 [t])
       (∀ p ∈ s.launches, s.launch p.1 = p.2) ∧ s.candidates 0 = [(1, 0)] ∧ ((s.core 0).block 0).live = false ∧ (placeS launchQ).candidates 0 = []) := by
  decide +kernel

/-! ## Formats, slots, tiles and the matrix path -/

/-- A core whose slots 0, 1 and 2 are bound to the shipped images 1, 3 and 2 (R131), with k registers for both a warp and the matrix stream. -/
def slots012 : Sparse FSlot := [(0, { FSlot.unbound with handle := 1, gen := 1 }), (1, { FSlot.unbound with handle := 3, gen := 1 }), (2, { FSlot.unbound with handle := 2, gen := 1 })]
def gangF (rf : RF) : State := { base { core0 rf with slots := slots012 } with cur := .gang 0 0 0 }

theorem witness_FormatsComplete :
    (let s := gangF (kRegs [0x20000000, 0x081C4300, 0x081C4300, 127])
     let f := { fF with fs := 1, d := 1, a := 2, b := 0xC0 }
     let g := { f with fs := 0, b := 0xC2, d := 3, nb := 1 }
     let t := { s with cores := [(0, { core0 RF.zero with slots := [(1, ⟨3, 1, [⟨2, none⟩], false⟩)] })] }
     let img := (s.slotImg 0 1).getD ⟨0, 0, 0⟩
     s.gangReady 0 0 0 (.dec f) = true ∧ s.gangReady 0 0 0 (.enc f) = true ∧ s.gangReady 0 0 0 (.req f) = true ∧ s.acts 0 0 0 (.dec f) = true
       ∧ s.gangReady 0 0 0 (.reqBlk { g with b := 0xC2 }) = true ∧ s.gangReady 0 0 0 (.decBlk { g with a := 2, b := 0xC1 }) = true
       ∧ t.gangReady 0 0 0 (.dec { f with b := 0xFF }) = true ∧ ((t.core 0).fslot 1).queue ≠ []
       ∧ ((s.core 0).fslot 1).queue = [] ∧ s.slotImg 0 3 = none ∧ s.gangReady 0 0 0 (.dec { f with fs := 3 }) = true ∧ (s.slotImg 0 1).isSome = true
       ∧ img.mode 1 = some 1 ∧ img.mode 9 = none ∧ s.gangReady 0 0 0 (.dec { f with rm := 9 }) = true
       ∧ img.accepts 0x20000000 0 false = true ∧ img.accepts 0x30000000 0 false = false
       ∧ ((s.slotImg 0 0).getD ⟨0, 0, 0⟩).accepts 0x081C4300 0 true = true) := by decide +kernel

/-- ENC, DEC and REQ of BF16 (R112, R347, R348, R351): a tie goes to the even code. -/
theorem test_enc_dec :
    (let s := { gangF ⟨[(64, 0x3F808000), (65, 0x3F818000), (66, 0x3F81)], [], []⟩ with agenda := [] }
     let f := { fF with fs := 1, d := 1, a := 2 }
     after (exec (.enc f) s) (fun t => decide ((t.warp 0 0).rf.readG 1 0 = 0x3F80 ∧ (t.warp 0 0).rf.readG 1 1 = 0x3F82)) = true
     ∧ after (exec (.dec f) s) (fun t => decide ((t.warp 0 0).rf.readG 1 2 = 0x3F810000)) = true
     ∧ after (exec (.req f) s) (fun t => decide ((t.warp 0 0).rf.readG 1 1 = 0x3F820000)) = true) := by decide +kernel

theorem witness_BlockFormatsComplete :
    (let s := gangF (kRegs [0x081C4300, 127, 0, 0])
     let f := { fF with d := 2, a := 1, b := 0xC0 }
     let b := { f with nb := 1 }
     let img := (s.slotImg 0 0).getD ⟨0, 0, 0⟩
     let q := (s.warp 0 0).rf.read4 0xC0 0
     ((s.core 0).fslot 0).queue = [] ∧ (s.slotImg 0 0).isSome = true ∧ s.gangReady 0 0 0 (.fmtq { f with a := 0xFF }) = true ∧ s.acts 0 0 0 (.fmtq { f with a := 0xFF }) = true
       ∧ s.gangReady 0 0 0 (.sclq f) = true ∧ s.gangReady 0 0 0 (.encBlk b) = true ∧ s.acts 0 0 0 (.encBlk b) = true ∧ img.mode 0 = some 1
       ∧ img.accepts 0x081C4300 0 true = true ∧ fieldN q 65 3 = 0 ∧ fieldN q 88 8 = 0 ∧ isG f.d = true
       ∧ (let t := gangF (kRegs [0x081C4300, 127, 0x01000001, 0])
          let r := (t.warp 0 0).rf.read4 0xC0 0
          t.gangReady 0 0 0 (.encBlk b) = true ∧ fieldN r 65 3 = 0 ∧ fieldN r 88 8 = 1 ∧ fieldN r 68 20 * 16 + 16 + 128 ≤ (t.core 0).scrSize ∧ bitAt r 64 = true
            ∧ t.fab.reqs = [] ∧ t.fab.fences = [] ∧ (∀ p ∈ t.cores, p.2.lda = []) ∧ (t.core 0).bars = []))
    ∧ (let b : BlkEnc := ⟨.fp ⟨4, 3, 7, 1⟩, 1, 0x081C4300, 1, scaleVal 127, 1, 0, 0⟩
       (scaleVal 0).isZero = true ∨ b.sc.isZero = false)
    ∧ (let b : BlkEnc := ⟨.fp ⟨4, 3, 7, 2⟩, 1, 0x081E4300, 1, .fin false 1 0, 1, 0, 0⟩
       b.sc.isZero = false ∧ b.t.outside b.digest b.word 1 (overScale (.fin false 1 0) b.sc) = false ∧ b.t.outside b.digest b.word 1 (overScale (.fin false 1 12) b.sc) = true ∧ b.t ≠ .bin
         ∧ (∃ n m e, fp16.decode (fp16.encode 1 (.fin false 1 12)) = .fin n m e) ∧ (match fp16.decode (fp16.encode 1 (.fin false 1 20)) with
           | .fin _ _ _ => false
           | _ => true) = true ∧ b.t.outside b.digest b.word 1 (overScale (.fin false 1 20) b.sc) = true) := by
  refine ⟨by decide +kernel, by decide +kernel, by decide +kernel, by decide +kernel, by decide +kernel, by decide +kernel, ⟨_, _, _, rfl⟩, by decide +kernel, by decide +kernel⟩

theorem witness_SlotsComplete :
    (let s := gangF (kRegs [1, 77])
     let f := { fS with a := 0xC0, sel := 2 }
     let b := { f with a := 0xC1 }
     s.readyFor (.slotbind f) = true ∧ s.readyFor (.slotbind b) = true ∧ s.usable 1 1 = true ∧ s.usable 1 77 = false
       ∧ s.readyFor (.slotrel { fS with sel := 2 }) = true ∧ s.readyFor (.slotfence { fS with sel := 2 }) = true)
    ∧ (let k := { core0 RF.zero with slots := [(2, ⟨2, 1, [⟨5, some 1⟩], false⟩)] }
       let s := base k
       let job : MxJob := ⟨3, 0, 0, 0, 0, { fMX with fa := 2 }, 0, 0, 1, 1, 1, 0, false, 0, 0, none, 0, false, 0, 0, false⟩
       let t := base { k with jobs := [job] }
       ((s.core 0).fslot 2).queue = [⟨5, some 1⟩] ∧ ((s.core 0).fslot 2).reconf = false ∧ (s.ctx (s.ctxOn 0)).runs [.format 0] = true ∧ (s.core 0).jobs = []
         ∧ ((t.core 0).fslot 2).queue = [⟨5, some 1⟩] ∧ (t.ctx (t.ctxOn 0)).runs [.format 0] = true ∧ job.names 2 = true ∧ job.id < 5
         ∧ (let u := base { k with slots := [(2, ⟨2, 1, [⟨5, some 1⟩], true⟩)] }
            ((u.core 0).fslot 2).queue = [⟨5, some 1⟩] ∧ ((u.core 0).fslot 2).reconf = true)) := by decide +kernel

/-- Tile 1 of that block, 4 by 4 in bank 2, open for F32 sums; tile 2 closed, of 1 by 2. -/
def tile1 : Tile := { Tile.free with state := 1, first := 2, nbk := 1, rows := 4, cols := 4 }
def tile2 : Tile := { Tile.free with state := 2, first := 3, nbk := 1, rows := 1, cols := 2, slot := 1, word := 0x20000000 }
def coreM (rf : RF) : Core := { core0 rf with slots := slots012, tiles := [(1, tile1), (2, tile2)] }
def gangM (rf : RF) : State := { base (coreM rf) with cur := .gang 0 0 0 }
def mxS (k : Core) (rf : RF) : State := { base (k.setSeq 0 false { Seq.idle with st := .running, rf := rf }) with cur := .seq 0 0 false }
def job (id sub : Nat) (f : FmtMX) : MxJob := ⟨id, 0, sub, 0, 0, f, 0, 0, 1, 1, 1, 0x20000000, false, 0, 0, none, 0, false, 0, 0, false⟩

theorem witness_TilesComplete :
    (let s := gangM (kRegs [0x00040004, 4])
     let f := { fS with d := 0xC2, a := 0xC0, sel := 3 }
     let t := { mxS { coreM RF.zero with jobs := [job 3 0 { fMX with acc := 3 }] } (kRegs [0x00040004, 4]) with nextId := 10 }
     s.readyFor (.acal f) = true ∧ (s.issueOf (.acal f)).slices ≠ [] ∧ ((s.core 0).tile 0 3).state = 0 ∧ 4 + 1 ≤ (s.core 0).accBanks
       ∧ ((s.core 0).tiles.any fun p => p.2.state != 0 && decide (p.2.first < 4 + 1) && decide (4 < p.2.first + p.2.nbk)) = false
       ∧ t.readyFor (.acal f) = true ∧ (t.core 0).tileUsed 0 3 = true)
    ∧ (let s := gangM (kRegs [0x00040000])
       let band : Band := ⟨0, 4, 0⟩
       let k := { coreM RF.zero with tiles := [(1, { tile1 with bands := [band] })] }
       let t := { base k with cur := .gang 0 0 0 }
       let u := { base { k with jobs := [job 3 0 { fMX with acc := 1 }] } with cur := .gang 0 0 0 }
       s.readyFor (.acfree { fS with sel := 4 }) = true ∧ ((s.core 0).tile 0 4).state = 0 ∧ s.readyFor (.acfree { fS with sel := 1 }) = true
         ∧ t.readyFor (.acfree { fS with sel := 1 }) = true ∧ ((t.core 0).tile 0 1).bands = [band] ∧ band.warp = (t.issueOf (.acfree { fS with sel := 1 })).warp
         ∧ (t.core 0).tileUsed 0 1 = false ∧ u.readyFor (.acfree { fS with sel := 1 }) = true ∧ (u.core 0).tileUsed 0 1 = true
         ∧ s.readyFor (.acstat { fS with d := 0xC2, sel := 1 }) = true ∧ s.readyFor (.acstatBlk { fS with d := 0xC2, sel := 0x30 }) = true
         ∧ s.readyFor (.acband { fS with a := 0xC0, sel := 1 }) = true ∧ s.readyFor (.acbandRel { fS with sel := 0x14 }) = true
         ∧ s.readyFor (.acbandRel { fS with sel := 0x11 }) = true ∧ t.readyFor (.acband { fS with a := 0xC0, sel := 1 }) = true
         ∧ (mxS (coreM RF.zero) (kRegs [4])).readyFor (.acband { fS with a := 0xC0, sel := 1 }) = true) := by decide +kernel

theorem witness_TileReads :
    (let f : FmtA := { fA 3 with d := 1, c := 2 }
     let s := gangM RF.zero
     let k := s.core 0
     let q := k.tile 0 2
     let band : Band := ⟨0, 1, 0⟩
     let t := { base { coreM RF.zero with tiles := [(1, tile1), (2, { tile2 with bands := [band] })] } with cur := .gang 0 0 0 }
     s.gangReady 0 0 0 (.acrd f) = true ∧ s.acts 0 0 0 (.acrd f) = true ∧ s.gangReady 0 0 0 (.acrd { f with c := 4 }) = true ∧ (k.tile 0 4).state = 0
       ∧ s.gangReady 0 0 0 (.acrd { f with c := 1 }) = true ∧ (k.tile 0 1).state = 1 ∧ q.state = 2 ∧ q.i32 = false ∧ Sparse.wf Tile.free k.tiles = true
       ∧ (k.readFrom 0 2 q 0).isSome = true ∧ k.accPois = []
       ∧ t.gangReady 0 0 0 (.acrdclr f) = true ∧ (t.core 0).accPois = [] ∧ ((t.core 0).tile 0 2).bands = [band]
       ∧ isG f.a = false ∧ isG f.b = false) := by decide +kernel

theorem witness_MatrixAccepts :
    (let f := { fMX with acc := 1, da := 3, db := 4, fa := 1, fb := 1, bn := 15, fbk := 0 }
     let s := mxS (coreM RF.zero) (kRegs [1, 1, 1])
     let full := mxS { coreM RF.zero with jobs := [job 3 0 fMX, job 4 0 fMX, job 5 0 fMX, job 6 0 fMX] } RF.zero
     s.seqReady 0 0 false (.mma f) = true ∧ s.seqReady 0 0 false (.mma { f with asrc := 1, da := 5 }) = true ∧ s.seqReady 0 0 false (.mma { f with am := 1 }) = true
       ∧ s.seqReady 0 0 false (.mma { f with asrc := 1, da := 1 }) = true ∧ s.seqReady 0 0 false (.mma { f with acc := 2 }) = true
       ∧ s.seqReady 0 0 false (.mma { f with acc := 9 }) = true ∧ full.seqReady 0 0 false (.mma f) = true
       ∧ ((s.core 0).tile 0 1).state = 1 ∧ ((s.core 0).tile 0 5).state = 0 ∧ ((s.core 0).tile 0 9).state = 0 ∧ ((s.core 0).tile 0 2).state = 2
       ∧ ((s.core 0).tile 0 1).i32 = false ∧ (s.core 0).jobs = [] ∧ ((full.core 0).jobs.filter fun n => n.block == 0).length = 4
       ∧ s.seqReady 0 0 false (.acdrn { fMX with acc := 2, db := 4, fb := 1, bn := 15 }) = true
       ∧ s.seqReady 0 0 false (.acclose { fMX with acc := 1, fa := 1, bn := 15 }) = true
       ∧ s.seqReady 0 0 false (.acz { fMX with acc := 1, bn := 3 }) = true ∧ s.seqReady 0 0 false (.acz { fMX with acc := 9, bn := 15 }) = true) := by decide +kernel

/-- Descriptors of one line of one BF16 element at 0x1000 and 0x2000. -/
def d1 : BitVec 256 := BitVec.ofNat 256 (0x1000 + 0x20000000 * 2 ^ 32 + 8 * 2 ^ 104 + 1 * 2 ^ 144 + 1 * 2 ^ 168)
def d2 : BitVec 256 := BitVec.ofNat 256 (0x2000 + 0x20000000 * 2 ^ 32 + 8 * 2 ^ 104 + 1 * 2 ^ 144 + 1 * 2 ^ 168)
def mma1 : MxJob := { job 10 0 { fMX with acc := 1, fa := 1, fb := 1, bn := 15 } with da := d1, db := d2 }
def drn1 : MxJob := { job 10 2 { fMX with acc := 2, fb := 1, bn := 15 } with db := d2 }
def coreJ (j : MxJob) : Core := { (coreM RF.zero).writeScr 0x1000 [0x40, 0x40] with jobs := [j], window := [.job 10] }
/-- The BF16 values 3 and 2 as operands. -/
def coreJ2 (j : MxJob) : Core := (coreJ j).writeScr 0x2000 [0x00, 0x40]

theorem witness_MatrixWorks :
    (let s := base (coreJ mma1)
     let t := base (coreJ drn1)
     (s.core 0).arr = none ∧ (s.core 0).nextJob 0 (s.core 0).lastArr = some mma1 ∧ s.arrayRuns 0 0 = true ∧ mma1.f.asrc = 0 ∧ s.mmaFault 0 mma1 = none
       ∧ ((base (coreM RF.zero)).core 0).readyJobs 0 = []
       ∧ s.mmaFault 0 { mma1 with db := 0 } ≠ none ∧ (t.core 0).drn = none ∧ (t.core 0).converting = false ∧ (t.core 0).nextJob 2 (t.core 0).lastDrn = some drn1
       ∧ t.drainFault 0 drn1 = none ∧ t.drainFault 0 { drn1 with db := 0 } ≠ none)
    ∧ (let q := { mma1 with started := true }
       let s := base { coreJ q with arr := some 10 }
       (s.core 0).job 10 = some q ∧ (s.mmaEnv 0 q).isSome = true ∧ q.done = false ∧ s.arrayRuns 0 0 = true ∧ q.k ≠ 0
         ∧ s.jobHeld 0 q = false ∧ (s.core 0).bad = [] ∧ q.att = none)
    ∧ (let q := { mma1 with started := true }
       let r := { req0 .store with home := ⟨3, 0, 0x1000⟩, tracked := true }
       let s := { base { coreJ q with arr := some 10 } with fab := { Fab.reset with reqs := [r] } }
       let t := { base { coreJ { drn1 with started := true } with drn := some 10 } with fab := { Fab.reset with reqs := [{ r with home := ⟨3, 0, 0x2000⟩ }] } }
       s.jobHeld 0 q = true ∧ (s.core 0).arr = some 10 ∧ (s.core 0).job 10 = some q ∧ t.jobHeld 0 { drn1 with started := true } = true)
    ∧ (let q := { mma1 with started := true }
       let s := { base { coreJ q with arr := some 10 } with ctxs := [(1, { Ctx.none with st := .halting, rcb := 1, pw := 1, ph := 1 })] }
       (s.core 0).arr = some 10 ∧ (s.core 0).job 10 = some q ∧ (s.mmaEnv 0 q).isSome = true ∧ s.arrayRuns 0 0 = true ∧ s.jobHeld 0 q = false
         ∧ (s.ctx 1).st = .halting ∧ StopAgent.array 0 ∈ s.agents 1 ∧ StopAgent.array 0 ∉ (s.ctx 1).acks ∧ s.fab.objs = [])
    ∧ (let q := { mma1 with started := true, done := true }
       let s := base { coreJ q with arr := some 10 }
       let c := job 10 3 { fMX with acc := 1, fa := 1, bn := 15 }
       (s.core 0).job 10 = some q ∧ s.arrayRuns 0 0 = true ∧ ((base { coreM RF.zero with jobs := [c] }).core 0).job 10 = some c)
    ∧ (let q := { drn1 with started := true }
       let s := base { coreJ q with drn := some 10 }
       (s.core 0).job 10 = some q ∧ (s.slotImg 0 1).isSome = true ∧ q.done = false ∧ s.arrayRuns 0 0 = true ∧ (s.core 0).bars = []
         ∧ s.jobHeld 0 q = false ∧ (s.core 0).bad = []
         ∧ ((s.slotImg 0 1).getD ⟨0, 0, 0⟩).elt (dFmt d2) 0 = .fp bf16 ∧ tile2.i32 = false ∧ dBase d2 + q.next * dPitch d2 + 2 * 1 ≤ (s.core 0).scrSize)
    ∧ 0 < 16 := by decide +kernel

/-- One output block: 3 times 2 into element (0, 0) of tile 1 (R152, R121). -/
theorem test_mma :
    after (exec (.mmaOutputBlock 0 false) (base { coreJ2 { mma1 with started := true } with arr := some 10 })) (fun t =>
      decide ((foldChains false false ((t.core 0).accElem 2048)).1 = 0x40C00000 ∧ ((t.core 0).job 10).map MxJob.done = some true)) = true := by decide +kernel

/-! ## The scheduler cores, command records, translation -/

/-- The launch descriptor and the record in the ring. -/
def descQ : List DWord := [0, 0, 0x23000, 0, 0, 0, 0, 0]
def recQ : List DWord := [0x0100000000000000, 0x22000, 0, 0, 0, 0, 0, 0]

/-- The registers of the tests: a descriptor, a misaligned address, slots 0 and 9, widths. -/
def xQ : Sparse DWord := [(1, 0x22000), (2, 0x22004), (3, 0x300), (4, 0x1040), (5, 15), (6, 4), (7, 9)]

theorem witness_XdispComplete :
    (let s := schS xQ
     let k := s.schedCore 0
     s.cur = .sched 0 ∧ (1 ≤ fieldN (k.read 3) 8 6 ∧ fieldN (k.read 3) 0 6 + fieldN (k.read 3) 8 6 ≤ 64) ∧ fieldN (k.read 6) 8 6 = 0
       ∧ k.read 0 = 0 ∧ k.read 5 = 15 ∧ (∃ m ∈ coreSlots 0, s.slotReady m = true) ∧ bitAt (15 : DWord) 1 = true
       ∧ k.read 6 = 4 ∧ (∀ m ∈ coreSlots 0, (s.qslot m).dbl = false) ∧ 16 ≤ (k.read 3).toNat)
    ∧ (let s := schS xQ
       let k := s.schedCore 0
       (k.read 7).toNat / 4 ≠ 0 ∧ (s.qslot 0).map = true ∧ s.qcbRegion 0 = 1 ∧ s.overBudget 1 = false ∧ s.resetting 1 = false ∧ (k.read 1).toNat % 8 = 0 ∧ (k.read 2).toNat % 8 ≠ 0
         ∧ s.ioUnread 0 (s.region 1) (dwordsAt 0x22000) = [] ∧ s.ioUnread 0 (s.region 1) (dwordsAt 0x22004) = []
         ∧ (hostIo s).ioUnread 0 (s.region 1) (dwordsAt 0x22000) ≠ []
         ∧ s.ioDwords 0 (s.region 1) 0x22000 = some descQ ∧ s.ioLeaf (s.region 1) (fieldN (descQ.getD 2 0) 0 57) .write = some (0x1F, 0x23000) ∧ ¬ Config.hbmBytes ≤ 64 * (s.qslot 0).qcba + 63
         ∧ s.ioLeaf (s.region 1) 0x40000000 .write = none
         ∧ (let t := { s with regions := [] }
            (t.region 1).live = false ∧ t.qcbRegion 0 = 1))
    ∧ (let s := schS xQ
       let t := { s with io := { s.io with qslots := [] } }
       let u := { s with io := { s.io with qslots := [(0, { slotQ with qcba := 2 ^ 46 })] } }
       (∀ n ∈ coreSlots 0, ¬ ((s.qslot n).map = true ∧ Config.hbmBytes ≤ 64 * (s.qslot n).qcba + 63)) ∧ s.slotReady 0 = true
         ∧ (∀ m ∈ coreSlots 0, s.slotReady m = true → m = 0)
         ∧ fieldN (s.qcb 0 0) 0 57 = 0x21000 ∧ s.ioDwords 0 (s.region 1) 0x21000 = some recQ
         ∧ s.ioUnread 0 (s.region 1) (dwordsAt 0x21000) = [] ∧ (hostIo s).ioUnread 0 (s.region 1) (dwordsAt 0x21000) ≠ []
         ∧ (let v := { s with mem := s.mem.write 0 0x20000 (leBytes 8 0x21008) }
            v.slotReady 0 = true ∧ fieldN (v.qcb 0 0) 0 57 % 64 ≠ 0)
         ∧ (∀ n ∈ coreSlots 0, t.slotReady n = false ∧ (t.qslot n).map = false)
         ∧ ((u.qslot 0).map = true ∧ Config.hbmBytes ≤ 64 * (u.qslot 0).qcba + 63)
         ∧ { s with regions := [] }.ioDwords 0 Region.none 0x21000 = none ∧ { s with regions := [] }.ioUnread 0 Region.none (dwordsAt 0x21000) = []) := by decide +kernel

/-- RFETCH takes the record of slot 0 and moves RI (R221, R222). -/
theorem test_rfetch :
    after (exec (.rfetch 1) (schS [])) (fun t => decide ((t.schedCore 0).win = recQ ∧ (t.schedCore 0).read 1 = 0 ∧ t.mem.readNat 0 0x20014 4 = 1
      ∧ (t.schedCore 0).pc = 0x104)) = true := by decide +kernel

/-- BFX takes bits [12:5] (R223); SWAIT of a ready slot answers source 1 (R225). -/
theorem test_bfx :
    after (exec (.bfx 9 1 2) (schS [(1, 0xABCDE), (2, 0x805)])) (fun t => decide ((t.schedCore 0).read 9 = 0xE6)) = true
    ∧ after (exec (.swait 9 1) (schS [(1, 15)])) (fun t => decide ((t.schedCore 0).read 9 = 2)) = true := by decide +kernel

/-- That core with a record that its slot's firmware has not finished. -/
def recS (d : List DWord) (q : QSlot) : State :=
  let s := schS []
  { s with sched := [(0, { schedQ [] with win := d })], io := { s.io with qslots := [(0, { q with recs := [(0, d)] })] } }

theorem witness_RecordsComplete :
    (let s := recS recQ slotQ
     let none' := s.ioUnread 0 (s.region 1)
     let i : Instr := .recLaunch 0 0x22000
     (s.qslot 0).pass = none ∧ s.recordHeld 0 = false ∧ (recS recQ { slotQ with map := false }).recordHeld 0 = true ∧ s.qcbRegion 0 = 1
       ∧ none' (s.recordReads 0 ++ dwordsAt 0x22000) = [] ∧ s.record 0 = some recQ ∧ (s.qslot 0).skip = 0 ∧ decodeRecord 0 recQ = .ok i
       ∧ (hostIo s).recordHeld 0 = false ∧ (hostIo s).ioUnread 0 (s.region 1) ((hostIo s).recordReads 0 ++ dwordsAt 0x22000) ≠ []
       ∧ (let t := schS []
          t.recordHeld 0 = false ∧ t.record 0 = none ∧ t.ioUnread 0 (t.region 1) (t.recordReads 0 ++ dwordsAt 0x22000) = [])
       ∧ (let t := recS recQ { slotQ with pass := some (0, 1), buf := 0x24000 }
          t.recordHeld 0 = false ∧ t.record 0 = some (List.replicate 8 0) ∧ (t.qslot 0).pass ≠ none ∧ t.ioUnread 0 (t.region 1) (t.recordReads 0 ++ dwordsAt 0x22000) = [])
       ∧ (let t := recS recQ { slotQ with pass := some (0, 0), buf := 0x40000000 }
          t.recordHeld 0 = false ∧ t.record 0 = none ∧ (t.qslot 0).pass ≠ none ∧ t.ioUnread 0 (t.region 1) (t.recordReads 0 ++ dwordsAt 0x22000) = [])
       ∧ (let t := recS recQ { slotQ with pass := some (0, 0), buf := 0x24000, skip := 1 }
          t.recordHeld 0 = false ∧ ((t.record 0).any fun d => d.any fun w => w != 0) = true ∧ 0 < (t.qslot 0).skip ∧ t.ioUnread 0 (t.region 1) (t.recordReads 0 ++ dwordsAt 0x22000) = [])
       ∧ (decodeRecord 0 [0x0700000000000000]).toOption = none ∧ (recS [0x0700000000000000] slotQ).record 0 = some [0x0700000000000000]
       ∧ (recS [0x0700000000000000] slotQ).recordHeld 0 = false ∧ (.recLaunch 0 0x22040 : Instr) ≠ i)
    ∧ (let s := recS recQ slotQ
       let r := s.region 1
       let none' := fun (ws : List (Nat × Nat)) => s.ioUnread 0 r (s.recordReads 0 ++ ws)
       none' ((0x25000, 4) :: dwordsAt 0x22000) = [] ∧ none' [(0x25000, 8)] = [] ∧ none' [(0x25001, 8)] = [] ∧ none' [] = []
       ∧ none' ((0x25000, 4) :: dwordsAt 0x24000) = [] ∧ none' ((0x26000, 4) :: dwordsAt 0x24040) = [] ∧ (s.qslot 0).laun = none
       ∧ decodeRecord 0 [0x0200000000000000, 0x22000, 0x25000, 64] = .ok (.recLaunchn 0 0x22000 0x25000 64) ∧ s.ioRead 0 r 0x25000 4 = some 2
       ∧ s.ioRead 0 r 0x26000 4 = some 0 ∧ s.ioRead 0 r 0x25001 4 = none ∧ s.ioRead 0 r 0x25001 8 = none ∧ s.ioRead 0 r 0x25000 8 = some 2
       ∧ s.overBudget 1 = false ∧ ({ s with regions := [(1, { regionQ with preempted := true })] } : State).overBudget 1 = true
       ∧ ((recS recQ { slotQ with laun := some (1, 2) }).qslot 0).laun = some (1, 2)
       ∧ (s.takeLaunch 0 2 0x22000 64 matches .dead) ∧ (s.takeLaunch 0 1 0x22004 64 matches .xaddr)
       ∧ decodeRecord 0 [0x0300000000000000, 0x25000, 2] = .ok (.recWaitsig 0 0x25000 2) ∧ decodeRecord 0 [0x0400000000000000, 0x23000, 9] = .ok (.recSetsig 0 0x23000 9)
       ∧ s.ioLeaf r 0x23000 .write = some (0x1F, 0x23000) ∧ s.ioLeaf r 0x40000000 .write = none ∧ 0x23004 % 8 ≠ 0
       ∧ decodeRecord 0 [0x0500000100000003, 0x25000, 2] = .ok (.recSkipif 0 1 3 0x25000 2)
       ∧ decodeRecord 0 [0x0600000000000000, 0x24000, 0x25000] = .ok (.recExec 0 0x24000 0x25000)
       ∧ (let d : List DWord := [0x0400000000000000, 0x23000, 9, 0, 0, 0, 0, 0]
          s.ioDwords 0 r 0x24000 = some d ∧ d.headD 0 ≠ 0)
       ∧ s.ioDwords 0 r 0x24040 = some (List.replicate 8 0) ∧ s.ioDwords 0 r 0x40000000 = none
       ∧ (s.submit 0 2 0x22000 0 matches .dead) ∧ (s.submit 0 1 0x22004 0 matches .xaddr))
    ∧ (let s := schS []
       let qid := fieldN (0x8002800000000900 : DWord) 47 12
       bitAt (0x8002800000000900 : DWord) 63 = true ∧ qid = 5 ∧ (s.qslot 0).map = true ∧ (s.qslot 0).qid = 5 ∧ bitAt (0x0002800000000900 : DWord) 63 = false
         ∧ fieldN (5 : Word) 12 20 = 0 ∧ fieldN (6 : Word) 12 20 = 0 ∧ fieldN (0x1005 : Word) 12 20 ≠ 0 ∧ 0 < 64 ∧ 64 / 4 ≠ 0) := by
  refine ⟨?_, ?_, ?_⟩ <;> decide +kernel

/-- SETSIG writes its word (R228). -/
theorem test_setsig :
    after (exec (.recSetsig 0 0x23000 9) (recS [0x0400000000000000, 0x23000, 9] slotQ)) (fun t =>
      decide (t.mem.readNat 0 0x23000 8 = 9 ∧ (t.qslot 0).recs = [])) = true := by decide +kernel

def missQ : Miss := { slice := 3, ctx := 1, asn := 1, vpage := 2, who := .gang 0 0 0 }
def walkQ : Walk := ⟨4, 3, 1, 1, 2, [.gang 0 0 0], false⟩
def tranS (f : Fab) : State := { schS [] with fab := f, cur := .none }

theorem witness_TranslationComplete :
    (let s := tranS { Fab.reset with misses := [missQ] }
     let t := tranS { Fab.reset with misses := [missQ], walks := [walkQ] }
     s.fab.misses.find? (fun q => q.slice = 3) = some missQ ∧ s.fab.walks = [] ∧ t.fab.walks.find? (fun y => y.slice == missQ.slice && y.ctx == missQ.ctx && y.vpage == missQ.vpage) = some walkQ
       ∧ ¬ Config.walkersPerStack ≤ (s.fab.walks.filter fun y => y.slice / Config.slicesPerStack = 3 / Config.slicesPerStack).length)
    ∧ (let s := tranS { Fab.reset with walks := [walkQ] }
       s.fab.walks.find? (fun q => q.id = 4) = some walkQ ∧ (s.ctx walkQ.ctx).st ≠ .none ∧ s.seen.walk (s.ctxRegion walkQ.ctx).troot (walkQ.vpage * 65536) = some (0x1F, 30)
         ∧ s.seen.walk (s.ctxRegion walkQ.ctx).troot 0x40000000 = none ∧ agentCore (.gang 0 0 0) = some 0)
    ∧ (let s := tranS { Fab.reset with walks := [walkQ] }
       let t := { s with io := { s.io with xlctl := 0x80000000 } }
       bitAt s.io.xlctl 31 = false ∧ bitAt t.io.xlctl 31 = true ∧ (∀ y ∈ t.fab.walks, y.id ∉ t.io.xlwait)
         ∧ (∃ y ∈ t.fab.walks, y.id ∈ { t.io with xlwait := [4] }.xlwait) ∧ Sparse.wf Core.reset s.cores = true ∧ Sparse.wf [] s.fab.stlb = true)
    ∧ (let s := gangT RF.zero
       let t := gang RF.zero
       let who : Agent := .gang 0 0 0
       s.fetchAt (.gang 0 1 0) = none ∧ s.fetchAt who = some (0, 1, 64) ∧ (s.core 0).fetch (s.ctxRegion 1).asn 64 = .absent 64 ∧ (s.core 0).filling 1 0 = false
         ∧ s.translate 0 (s.missName who) (s.ctxRegion 1) 64 .fetch = .ok 0x1F 64 ∧ t.translate 0 (t.missName who) (t.ctxRegion 1) 64 .fetch = .miss
         ∧ (let u := { base { core0 RF.zero with tlb := [⟨1, 0, 16, 0xF⟩] } with cur := .gang 0 0 0 }
            u.translate 0 (u.missName who) (u.ctxRegion 1) 64 .fetch = .fault cIF)
         ∧ s.awaits (s.warp 0 0).uid ((s.warp 0 0).gangOf 0) = false ∧ cIF ≠ 0)
    ∧ (let f : Fill := ⟨7, 1, 0, 0, 0, false⟩
       let s := base { core0 RF.zero with fills := [f] }
       (s.core 0).fills.find? (fun q => q.id = 7) = some f ∧ s.openMem = true ∧ f.dead = false ∧ s.creditless 7 = false ∧ f.loc ≠ 2
         ∧ ({ f with loc := 1, pa := 5 * 2 ^ 40 } : Fill).loc = 1 ∧ s.routes 5 = false)
    ∧ (let f : Fill := ⟨7, 1, 0, 2, 0, false⟩
       let s := base { core0 RF.zero with fills := [f] }
       f.loc = 2 ∧ s.attachGone = false ∧ s.hostPort = none
         ∧ (let t := { s with io := { s.io with links := [(8, { Link.reset with up := true, cred := 1 })] } }
            t.attachGone = false ∧ t.creditless 7 = false ∧ t.hostPort ≠ none)) := by decide +kernel

theorem test_walk :
    after (exec (.walkComplete 4) (tranS { Fab.reset with walks := [walkQ] })) (fun t =>
      decide ((t.core 0).tlb = [⟨1, 0, 30, 0x1F⟩] ∧ t.fab.walks = [])) = true := by decide +kernel

/-- Whichever way placement answers (it is open), a launch of a region that is not over its budget is accepted or finds it full. -/
theorem witness_submit :
    let s := recS recQ slotQ
    s.submit 0 1 0x22000 0 = s.takeLaunch 0 1 0x22000 0
    ∧ if Config.placementFull s.freeCtr = true then s.takeLaunch 0 1 0x22000 0 = .full else ∃ t, s.takeLaunch 0 1 0x22000 0 = .accepted t := by
  have h0 : (recS recQ slotQ).overBudget 1 = false := by decide +kernel
  have h1 : (!((recS recQ slotQ).region 1).live || (recS recQ slotQ).resetting 1) = false := by decide +kernel
  have h2 : (recS recQ slotQ).ioDwords 0 ((recS recQ slotQ).region 1) 0x22000 = some descQ := by decide +kernel
  have h3 : (recS recQ slotQ).ioLeaf ((recS recQ slotQ).region 1) (fieldN (descQ.getD 2 0) 0 57) .write = some (0x1F, 0x23000) := by decide +kernel
  refine ⟨by simp [State.submit, h0], ?_⟩
  simp only [State.takeLaunch, h1, h2, h3, if_false, if_true, show 0x22000 % 8 = 0 from rfl, Bool.false_eq_true]
  split <;> simp

/-! ## The management space, regions, contexts, the monitor, links -/

theorem witness_ManagementWrites :
    (let s := upS
     (gang RF.zero).attachOpen = false ∧ s.attachOpen = true ∧ s.waveHolds ⟨0, 0, 64⟩ 4 = false ∧ s.openMem = true ∧ s.fab.objs = [] ∧ nreg (BitVec.ofNat 4 1) = 1
       ∧ offAttach (.read 64 4) = false ∧ (gang RF.zero).attachBooted = true ∧ isHostAgent (.sched 0) = false
       ∧ (s.ownWrite .host 0x30000 32 5).isNone = true ∧ (s.ownWrite .host 0x30004 32 5).isNone = true ∧ (s.ownWrite .host 0x50000 64 5).isNone = true
       ∧ (s.ownWrite .host 0x80000 32 5).isNone = true ∧ (s.ownWrite .host 0x80100 64 5).isNone = true ∧ (s.ownWrite .host 0x80108 64 5).isNone = true
       ∧ (s.ownWrite (.sched 0) 0x70108 64 5).isNone = true ∧ (s.ownWrite .host 0x40400 64 5).isNone = true ∧ (s.ownWrite .host 0x90000 64 5).isNone = true
       ∧ (∀ i ∈ List.range 4, s.hostHidden (64 + i) true = false ∧ s.hostHidden (64 + i) false = false ∧ s.isMeta (64 + i) = false) ∧ State.reset.attachBooted = false
       ∧ ((gang RF.zero).schedCore 0).inReset = true ∧ fieldN (0x1000000000000001 : DWord) 60 4 = 1 ∧ (s.schedCore 0).inReset = false ∧ 0 < Config.numSched
       ∧ (s.ownWrite (.sched 0) 0x40400 64 5).isNone = true)
    ∧ (let s := upS
       let t := { s with io := { s.io with fwmq := [[1]], monmq := [[2]] } }
       s.io.monmq = [] ∧ s.io.fwmq.length < 16 ∧ t.io.fwmq ≠ [] ∧ t.io.monmq = [[2]] ∧ 16 ≤ (List.replicate 16 ([] : List Byte)).length
         ∧ bitAt (1 : Word) 0 = true ∧ bitAt (2 : Word) 0 = false)
    ∧ (let k := core0 RF.zero
       let held := fun (use : PoolUse) => Sparse.get false { k with clean := [(bankKey use 0, true)] }.clean (bankKey use 0)
       0 < k.accBanks ∧ 0 < k.scrBanks ∧ 0 < 16 * pwRFU { k with pword := 0x00080801 }.pword ∧ 511 < 512 ∧ held .scr = true ∧ held .acc = true ∧ held .reg = true
         ∧ Sparse.wf Warp.absent k.warps = true ∧ Sparse.get false k.clean (bankKey .scr 0) = false)
    ∧ (let y := ({ upS with io := { ioUp with poolMap := [(groupKey 0 0, some 0)] } } : State).poolWord 0 0
       0 < Config.numCores ∧ bitAt y 31 = false ∧ bitAt (0x80000000 : Word) 31 = true)
    ∧ (400 ≤ upS.io.clock ∧ upS.io.clock ≤ 1600 ∧ upS.io.hbmStep = 0 ∧ min 2800 upS.io.pwrcap < 2801 ∧ 400 < upS.io.clock) := by decide +kernel

/-- A host write, then a host atomic ADD (R43, R47). -/
theorem test_host :
    after (exec (.hostAccess (.write 64 [5, 6])) upS) (fun t => decide (t.mem.readNat 0 64 4 = 0x0605 ∧ t.mem.readNat 0 66 1 = 0)) = true
    ∧ after (exec (.hostAccess (.atomic 64 0 1 3 0)) { upS with mem := Mem.reset.write 0 64 [5] }) (fun t => decide (t.mem.readNat 0 64 4 = 8 ∧ t.io.hostRd = [5, 0, 0, 0])) = true := by
  decide +kernel

/-- An RCB at 0x30000 below region 1, one at 0x30080 that asks for too high a priority, a root's at 0x30100 (R198). -/
def memR : Mem :=
  [(0x30000, 1), (0x30080, 1), (0x30088, 0x0001800000000000), (0x30108, 0x07FF100100000002), (0x30118, 100), (0x30120, 100), (0x30128, 100), (0x30130, 100), (0x30150, 0x10100)].foldl
    (fun (m : Mem) (p : Nat × Nat) => m.write 0 p.1 (leBytes 8 p.2)) Mem.reset
def regS : State := { upS with mem := memR, cores := [] }
def kid : Region := { Region.none with live := true, root := 1, parent := 1, ctx := 2, pw := 1, ph := 1, budget := [50, 50, 50, 50], charge := [0, 0, 0, 0] }
def root0 : Root := { Root.none with held := true, rcb := 1, ring := 0x50000, logn := 1, cblk := 0x60000 }

theorem witness_RegionsComplete :
    (let s := regS
     let p := s.region 1
     let st := fun (rcb : Nat) => s.activateStatus rcb (s.rcbWords rcb) false (s.effective (s.rcbWords rcb) false p) p
     (0x30000 % 128 = 0 ∧ 0x30000 + 128 ≤ Config.hbmBytes ∧ (s.ctx 7).st = .none ∧ (∀ q ∈ s.regions, q.2.live = true → q.2.ctx ≠ 7) ∧ (s.region 0x30000).live = false ∧ s.resetting 1 = false)
       ∧ (7 : Nat) < 65536 ∧ s.held 1 = false ∧ ({ s with regions := [(1, { s.region 1 with preempted := true })] } : State).held 1 = true
       ∧ fieldN ((s.rcbWords 0x30000).getD 0 0) 0 53 = 1 ∧ fieldN ((s.rcbWords 0x30080).getD 0 0) 0 53 = 1 ∧ st 0x30000 = 0 ∧ st 0x30080 = 3)
    ∧ (let s := { regS with regions := [(1, (regS.region 1)), (9, kid)], launches := [] }
       (s.region 9).live = true ∧ (s.region 9).parent ≠ 0 ∧ (∀ q ∈ s.regions, q.2.live = true → q.2.parent ≠ 9) ∧ s.idleCtx (s.region 9).ctx = true ∧ s.usageFull 9 = false ∧ s.usageFull 1 = false
         ∧ (s.region 1).live = true ∧ (s.region 1).parent = 0 ∧ (s.region 1).preempted = false ∧ 0 < 4
         ∧ (let u := s.coreCharges
            ¬ (u.region 9).budgetOf 2 ≤ (u.region 9).chargeOf 2 ∧ ((u.below 9).filter fun q => (u.region q).hbm) = []))
    ∧ (let s := { regS with regions := [(1, (regS.region 1)), (9, { kid with hbm := true, charge := [50, 0, 0, 0] })], launches := [] }
       let u := s.coreCharges
       let r := u.region 9
       r.live = true ∧ 3 < 4 ∧ s.usageFull 9 = false ∧ r.budgetOf 0 ≤ r.chargeOf 0 ∧ r.preempted = false
         ∧ ¬ r.budgetOf 2 ≤ r.chargeOf 2 ∧ ((u.below 9).filter fun q => (u.region q).hbm) = [9] ∧ u.passes 9 9 2 (r.budgetOf 2 - r.chargeOf 2) = false
         ∧ ((u.below 1).filter fun q => (u.region q).hbm) = [9]
         ∧ (let t := { s with regions := [(1, (regS.region 1)), (9, { kid with preempted := true, charge := [50, 0, 0, 0] })] }
            (t.coreCharges.region 9).budgetOf 0 ≤ (t.coreCharges.region 9).chargeOf 0 ∧ (t.coreCharges.region 9).preempted = true))
    ∧ (let s := { regS with mon := { Mon.reset with roots := [(1, { root0 with records := [[1, 2]] })] } }
       let t := { regS with mon := { Mon.reset with roots := [(1, { root0 with records := [[1, 2]], written := 2 })] } }
       (s.root 1).held = true ∧ s.openMem = true ∧ s.mon.late = [] ∧ Sparse.wf Root.none s.mon.roots = true ∧ (s.root 1).full = false ∧ (s.root 1).records = [[1, 2]]
         ∧ (s.root 1).written < (s.mem.dword (s.root 1).cblk).toNat + 2 ^ (s.root 1).logn ∧ (t.mem.dword (t.root 1).cblk).toNat + 2 ^ (t.root 1).logn ≤ (t.root 1).written)
    ∧ (let q := { root0 with held := false, records := [[1, 2]] }
       let s := { regS with mon := { Mon.reset with late := [(1, q)] } }
       s.mon.late = [(1, q)] ∧ (s.root 1).held = false ∧ s.openMem = true ∧ q.written < (s.mem.dword q.cblk).toNat + 2 ^ q.logn)
    ∧ (let q : EvQ := { EvQ.reset with b := 0x8000000000000000 + 4 * 2 ^ 58 }
       q.open? = true ∧ (q.wi - q.ri).toNat ≠ 2 ^ fieldN q.b 58 5)
    ∧ (let x := regS.ctx 1
       let y := { x with st := .halting, queued := [1] }
       x.st = .running ∧ y.st = .halting ∧ 2 ∉ y.queued ∧ (∀ k ∈ y.queued, regS.launchPrio 2 ≤ regS.launchPrio k)) := by
  refine ⟨?_, ?_, ?_, ?_, ?_, ?_, ?_⟩ <;> decide +kernel

/-- An activation below region 1 takes its parent's values (R199, R200). -/
theorem test_activation :
    after (exec (.regionActivation 0x30000 7) regS) (fun t => decide (t.io.fwReply = 0 ∧ (t.region 0x30000).budget.take 4 = [100, 100, 100, 100] ∧ (t.ctx 7).st = .running))
    ∧ after (exec (.regionActivation 0x30080 7) regS) (fun t => decide (t.io.fwReply = 3 ∧ (t.region 0x30080).live = false)) = true := by decide +kernel

def ctxS (x : Ctx) : State := { upS with cores := [], ctxs := [(1, x)] }
def ctxR : Ctx := { Ctx.none with st := .running, rcb := 1, pw := 1, ph := 1 }

theorem witness_ContextsComplete :
    (let s := { upS with ctxs := [(1, { ctxR with st := .halting })] }
     let who : StopAgent := .slice 0 0 3
     (s.ctx 1).st = .halting ∧ who ∈ s.agents 1 ∧ who ∉ (s.ctx 1).acks ∧ s.atBoundary who = true)
    ∧ (let s := ctxS { ctxR with st := .halting }
       let t := { s with fab := { Fab.reset with reqs := [req0 .store] } }
       s.agents 1 = [] ∧ s.answerHalted = s ∧ s.sound = true ∧ s.openMem = true ∧ s.usedCores 1 = [] ∧ s.fab.reqs = [] ∧ t.agents 1 = [] ∧ t.answerHalted = t ∧ (∃ r ∈ t.fab.reqs, r.ctx = 1) ∧ (s.ctx 1).kill = 0
         ∧ s.areaFor (s.imageSize 1) = none ∧ ((ctxS { ctxR with st := .halting, kill := 2 }).ctx 1).kill = 2
         ∧ (ctxS { ctxR with st := .halting, kill := 2 }).agents 1 = []
         ∧ s.mon.areas = [] ∧ (ctxS { ctxR with st := .halting, kill := 1 }).agents 1 = [] ∧ (s.ctx 1).flt = false)
    ∧ (let v : DWord := 0x1000000000000001
       let w : DWord := 0x2000000000000001
       let x : DWord := 0x3000000000000001
       fieldN v 60 4 = 1 ∧ fieldN w 60 4 = 2 ∧ fieldN x 60 4 = 3 ∧ fieldN v 0 16 = 1 ∧ (ctxS ctxR).io.ctxBusy = false ∧ ((ctxS ctxR).ctx 1).st = .running
         ∧ ((ctxS { ctxR with st := .waiting }).ctx 1).st = .waiting ∧ ((ctxS { ctxR with st := .saved }).ctx 1).st = .saved ∧ ((ctxS ctxR).ctx 2).st = .none
         ∧ (ctxS ctxR).restoreRefused ctxR w = true ∧ (ctxS { ctxR with st := .saved }).restoreRefused { ctxR with st := .saved } w = false
         ∧ (let x := { ctxR with st := .saved, area := some 0x80000, size := 256 }
            let t := ctxS x
            let wrong := fun (t : State) => (∃ l ∈ t.mem.failed, 0x80000 ≤ 128 * l ∧ 128 * l < 0x80000 + x.size) ∨ ∃ p ∈ t.mem.pois, 0x80000 < 16 * p.1 + 16 ∧ 16 * p.1 < 0x80000 + x.size
            t.restoreRefused x w = false ∧ ¬ wrong t ∧ wrong { t with mem := { t.mem with failed := [0x1001] } } ∧ ¬ wrong { t with mem := { t.mem with failed := [0x1002] } }
              ∧ wrong { t with mem := { t.mem with pois := [(0x800F, true)] } })
         ∧ fieldN w 58 2 ≠ 3 ∧ Sparse.wf Core.reset [(0, core0 RF.zero)] = true ∧ (0 : Nat) < ctxR.pw * ctxR.ph
         ∧ (∀ b ∈ (core0 RF.zero).liveBlocks, ((core0 RF.zero).block b).warps ≠ [])) := by decide +kernel

/-- A save area of 2^38 bytes holds any image. -/
theorem witness_areaFor :
    let s := { ctxS { ctxR with st := .halting } with mon := { Mon.reset with areas := [⟨0x80000, 2 ^ 38, none⟩] } }
    s.areaFor (s.imageSize 1) = some ⟨0x80000, 2 ^ 38, none⟩ := by
  intro s
  have h : s.imageSize 1 ≤ 2 ^ 38 := by
    have h1 : recBytes (s.stopRecs 1) ≤ 2 ^ 37 ∧ imageBound (s.ctx 1) ≤ 2 ^ 37 := by decide +kernel
    unfold State.imageSize
    have h2 := Nat.mod_lt s.free.toNat (show 0 < imageBound (s.ctx 1) - recBytes (s.stopRecs 1) + 1 by omega)
    simp only
    omega
  simp [State.areaFor, s]
  exact h

theorem witness_MonitorBoots :
    (let s := upS
     let t := { s with mon := { s.mon with stHost := 0x80000000, cmdHost := 0x04 } }
     s.takes .host 0x01 = true ∧ s.takes .fw 0x01 = true ∧ s.takes .host 0x20 = true ∧ s.takes .host 0x04 = true ∧ t.mon.busy .host = true ∧ t.mon.cmd .host ≠ 0x01
       ∧ (gang RF.zero).mailOpen .host = false ∧ (gang RF.zero).mailOpen .fw = false ∧ (gang RF.zero).mon.busy .host = false ∧ (gang RF.zero).attachBooted = true
       ∧ s.mailOpen .fw = true ∧ s.mailOpen .host = true ∧ s.mon.erase = none ∧ s.mon.dword .host 0 ≠ 1
       ∧ (let u := { s with mon := { s.mon with stFw := 0x80000000, cmdFw := 0x21, last := .host } }
          u.mailOpen .host = true ∧ u.mon.serves .host = false ∧ u.mon.busy .host = false)
       ∧ (let u := { s with mon := { s.mon with bufHost := [(0, 1)] } }
          u.mon.dword .host 0 = 1 ∧ u.takes .host 0x02 = true ∧ u.mon.named .host 7 = true ∧ u.mon.named .host 0 = false)
       ∧ (let u := { s with mon := { s.mon with bufHost := [(200, 1)] } }
          u.mon.named .host 7 = false ∧ u.mon.named .host 1 = false ∧ u.mon.named .host 18 = false ∧ u.takes .host 0x01 = true)
       ∧ s.takes .host 0x02 = true ∧ s.takes .host 0x03 = true ∧ s.mon.named .host 1 = true ∧ s.mon.named .host 0 = true
       ∧ (0x77 : Word).toNat ∉ knownCommands ∧ s.mon.busy .host = false ∧ s.mon.fwrange = none ∧ fwBad (s.mem.dword 0x40000) 0x40000 = true
       ∧ (let h : DWord := 0x0001000000001000
          fwBad h 0x40000 = false ∧ fieldN h 56 8 = 0 ∧ Sparse.get 0 s.mon.roll 0 ≤ fieldN h 48 8 ∧ fieldN h 48 8 < Sparse.get 0 [(0, 2)] 0)) := by decide +kernel

def rootA : RootArgs := { rcb := 0x30100, ctx := 9, fn := 1, ed := 1, ml := 2, ring := 0x50000, logn := 1, cblk := 0x60000 }
def rootsS : State := { regS with launches := [], mon := { Mon.reset with roots := [(1, root0)] } }
def setA : RootSetArgs := { root := 1, counter := 1, bcyc := 9, bpool := 9, bhbm := 9, blink := 9, edSig := 0, mlSig := [] }

theorem witness_RootsAndImages :
    (let s := rootsS
     let r := s.effective (s.rcbWords 0x30100) true Region.none
     s.takes .host 0x10 = true ∧ s.takes .host 0x11 = true ∧ s.takes .host 0x12 = true ∧ s.takes .host 0x13 = true ∧ s.takes .fw 0x13 = true ∧ s.takes .fw 0x41 = true
       ∧ s.mon.named .host 18 = true ∧ s.mon.named .host 15 = true ∧ s.mon.named .host 1 = true ∧ s.mon.named .fw 1 = true ∧ s.usageFull (s.root 1).rcb = false ∧ s.usageFull 1 = false
       ∧ (let u := { s with mon := { s.mon with roots := [(1, { root0 with records := List.replicate 64 [] })] } }
          u.usageFull (u.root 1).rcb = true ∧ u.usageFull 1 = true ∧ u.takes .host 0x12 = true ∧ u.takes .host 0x13 = true)
       ∧ (let u := { s with io := { s.io with flrBusy := true, flrFn := 1 } }
          u.takes .host 0x10 = true ∧ u.io.flrFn = rootA.fn) ∧ s.io.flrBusy = false
       ∧ s.rootBad rootA = false ∧ s.rootBad { rootA with logn := 0 } = true
       ∧ s.activateStatus 0x30100 (s.rcbWords 0x30100) true r Region.none = 0 ∧ r.parent = 0 ∧ (s.root 0).held = false ∧ (s.root 0).records = []
       ∧ setA.root < 64 ∧ (s.root 1).held = true ∧ (s.root 5).held = false ∧ (s.root 1).counter.toNat < setA.counter.toNat
       ∧ s.idleCtx (s.region 1).ctx = true ∧ (∀ p ∈ s.regions, ¬ (p.2.live = true ∧ p.2.root = 1 ∧ p.1 ≠ (s.root 1).rcb))
       ∧ (s.region 1).live = true ∧ (s.region 5).live = false)
    ∧ (let full := (List.range 64).map fun n => (n, { Root.none with held := true })
       let s := { rootsS with mon := { Mon.reset with roots := full } }
       s.rootBad rootA = false ∧ s.takes .host 0x10 = true ∧ (∀ n, n < 64 → (s.root n).held = true))
    ∧ (let s := { schS [] with regions := [(1, regionQ)], mon := { Mon.reset with bufFw := [(0, 1), (9, 0x90), (10, 2)] } }
       let t := { s with mem := memQ.write 0 0x29000 (leBytes 8 0x0001100000000001) }
       let r := s.region 1
       s.takes .fw 0x41 = true ∧ s.mon.namedOnly .fw [allBits, allBits] = true ∧ r.live = true ∧ (s.mon.dword .fw 0).toNat = 1 ∧ s.purgeImages = s ∧ s.ioBytes 64 r 0x40000000 8 = none
         ∧ s.resetting 1 = false ∧ s.ioUnread 64 r (s.imageReads 64 r 0x29000) = [] ∧ (hostIo s).ioUnread 64 r ((hostIo s).imageReads 64 r 0x29000) ≠ []
         ∧ (let u := { s with mon := { s.mon with roots := [(1, { root0 with fn := 3 })] }, io := { s.io with flrBusy := true, flrFn := 3 } }
            u.takes .fw 0x41 = true ∧ u.resetting 1 = true)
         ∧ s.ioBytes 64 r 0x29000 8 = some [0, 0, 0, 0, 0, 0, 0, 0] ∧ imgHdrBad 0 = true ∧ t.ioBytes 64 (t.region 1) 0x29000 8 = some (leBytes 8 0x0001100000000001)
         ∧ imgHdrBad 0x0001100000000001 = false ∧ t.purgeImages = t ∧ s.mon.images.length < 240) := by decide +kernel

def fwBuf (l : List Nat) : Sparse Byte := (((List.range (8 * l.length)).zip (l.flatMap (leBytes 8))).filter fun p => p.2 != 0)
def keyS (l : List Nat) (m : Mon) : State :=
  { regS with regions := [(1, { (regS.region 1) with keys := 6 })], mon := { m with bufFw := fwBuf l } }
def active1 : Sparse KeySlot := [(1, ⟨1, false, 1, 5, []⟩)]

theorem witness_KeysAndTags :
    (let s := keyS [1, 0] Mon.reset
     let t := keyS [1, 0x100, 0x70000] Mon.reset
     let full := keyS [1, 0] { Mon.reset with keys := (List.range 128).map fun n => (n, ⟨1, false, 1, 0, []⟩) }
     let own := keyS [1, 0] { Mon.reset with keys := [(1, ⟨1, false, 1, 0, []⟩), (2, ⟨2, false, 1, 0, []⟩)] }
     s.takes .fw 0x20 = true ∧ t.takes .fw 0x20 = true ∧ full.takes .fw 0x20 = true ∧ own.takes .fw 0x20 = true ∧ s.resetting 1 = false
       ∧ (let u := { s with mon := { s.mon with roots := [(1, { root0 with fn := 3 })] }, io := { s.io with flrBusy := true, flrFn := 3 } }
          u.takes .fw 0x20 = true ∧ u.resetting (u.mon.dword .fw 0).toNat = true)
       ∧ (let u := keyS [1, 0x101, 0x70000] { Mon.reset with roots := [(1, { root0 with fn := 3 })] }
          let u := { u with io := { u.io with flrBusy := true, flrFn := 3 } }
          u.takes .fw 0x20 = true ∧ bitAt (u.mon.dword .fw 1) 8 = true ∧ u.resetting (u.mon.dword .fw 0).toNat = true)
       ∧ (keyS [1, 0x101, 0x70000] Mon.reset).takes .fw 0x20 = true ∧ bitAt ((keyS [1, 0x101, 0x70000] Mon.reset).mon.dword .fw 1) 0 = true
       ∧ Config.hbmBytes < ((keyS [1, 0x101, 2 ^ 50] Mon.reset).mon.dword .fw 2).toNat + 1148
       ∧ s.mon.namedOnly .fw [allBits, 0x101] = true ∧ (s.region 1).live = true ∧ (s.mon.dword .fw 0).toNat = 1
       ∧ bitAt (s.mon.dword .fw 1) 8 = false ∧ bitAt (t.mon.dword .fw 1) 8 = true ∧ (keyS [2, 0] Mon.reset).region 2 = Region.none
       ∧ (∀ n, n < 128 → (full.key n).st ≠ 0) ∧ (∀ n, n < 128 → bitAt (own.region 1).keys n = true → (own.key n).st ≠ 0) ∧ (own.key 3).st = 0
       ∧ bitAt (s.region 1).keys 1 = true ∧ (s.key 1).st = 0 ∧ (∀ m, m < 1 → bitAt (s.region 1).keys m = true → (s.key m).st ≠ 0)
       ∧ (t.mon.dword .fw 2).toNat + 1180 ≤ Config.hbmBytes ∧ t.mon.namedOnly .fw [allBits, 0x101, allBits] = true)
    ∧ (let s := keyS [1, 1] { Mon.reset with keys := active1, tags := [(3, ⟨1, 1, false⟩)] }
       let t := keyS [1, 2] { Mon.reset with keys := [(2, ⟨2, false, 1, 0, []⟩)] }
       let u := keyS [1, 4] Mon.reset
       let m := { Mon.reset with keys := active1, tags := [(3, ⟨1, 1, false⟩)], stFw := 0x80000000, cmdFw := 0x21 }
       let b := keyS [1, 1] m
       let e := keyS [1, 1] { m with keys := [(1, ⟨2, false, 1, 0, []⟩)], erase := some 1 }
       s.takes .fw 0x21 = true ∧ t.takes .fw 0x21 = true ∧ u.takes .fw 0x21 = true ∧ s.openMem = true ∧ s.mon.busy .fw = false
         ∧ b.takes .fw 0x21 = true ∧ b.mon.busy .fw = true ∧ (b.key 1).st = 1 ∧ e.mon.erase = some 1 ∧ e.mon.busy .fw = true ∧ e.mon.cmd .fw = 0x21
         ∧ Sparse.wf Tag.clear e.mon.tags = true ∧ e.openMem = true ∧
       Sparse.wf Tag.clear s.mon.tags = true ∧ s.mon.namedOnly .fw [allBits, 0xFF] = true ∧ (s.region 1).live = true ∧ bitAt (s.region 1).keys 1 = true ∧ (s.key 1).st = 1
         ∧ (s.tag 3).mode ≠ 0 ∧ (t.key 2).st = 2 ∧ bitAt (t.region 1).keys 2 = true ∧ (u.key 2).st = 0 ∧ bitAt (u.region 1).keys 4 = false)
    ∧ (let s := keyS [0x10000, 0x20000, 0x101, 1] { Mon.reset with keys := active1 }
       let t := keyS [0x10000, 0x20000, 0x101, 1] { Mon.reset with keys := active1, tags := [(1, ⟨0, 0, true⟩)] }
       s.takes .fw 0x22 = true ∧ s.resetting 1 = false
         ∧ (let u := { s with mon := { s.mon with roots := [(1, { root0 with fn := 3 })] }, io := { s.io with flrBusy := true, flrFn := 3 } }
            u.takes .fw 0x22 = true ∧ u.resetting (u.mon.dword .fw 3).toNat = true)
         ∧ t.takes .fw 0x22 = true ∧ s.openMem = true ∧ s.mon.namedOnly .fw [allBits, allBits, 0x7F03, allBits] = true ∧ (s.mon.dword .fw 0).toNat = 0x10000 ∧ (s.mon.dword .fw 1).toNat = 0x20000
         ∧ fieldN (s.mon.dword .fw 2) 0 2 = 1 ∧ fieldN (s.mon.dword .fw 2) 8 7 = 1 ∧ (s.key 1).st = 1 ∧ bitAt (s.region 1).keys 1 = true ∧ s.mon.tags = []
         ∧ (t.tag 1).sv = true ∧ Sparse.wf Tag.clear t.mon.tags = true)
    ∧ (let s := keyS [0x80000, 0x80000, 0] Mon.reset
       let t := keyS [0x80000, 0x80000, 1] { Mon.reset with areas := [⟨0x80000, 0x80000, none⟩], tags := [(8, ⟨0, 0, true⟩)] }
       let u := keyS [0x80000, 0x80000, 0] { Mon.reset with tags := [(8, ⟨1, 1, false⟩)] }
       let v := keyS [0x80000, 0x80000, 1] { Mon.reset with areas := [⟨0x80000, 0x80000, some 1⟩] }
       s.takes .fw 0x23 = true ∧ t.takes .fw 0x23 = true ∧ u.takes .fw 0x23 = true ∧ v.takes .fw 0x23 = true ∧ s.openMem = true ∧ s.savesetArgs .fw = some (0x80000, 0x80000) ∧ (keyS [1, 0x80000] Mon.reset).savesetArgs .fw = none ∧ (∀ p ∈ s.ctxs, p.2.st ≠ .waiting) ∧ s.mon.tags = []
         ∧ t.savesetArgs .fw = some (0x80000, 0x80000) ∧ t.mon.areas.find? (fun q => q.base = 0x80000 && q.size = 0x80000) = some ⟨0x80000, 0x80000, none⟩
         ∧ (u.tag 8).mode ≠ 0 ∧ v.mon.areas.find? (fun q => q.base = 0x80000 && q.size = 0x80000) = some ⟨0x80000, 0x80000, some 1⟩ ∧ bitAt (v.mon.dword .fw 2) 0 = true) := by
  refine ⟨?_, ?_, ?_, ?_⟩ <;> decide +kernel

theorem witness_Resets :
    (let s := { regS with mon := { Mon.reset with roots := [(1, { root0 with fn := 2 })], keys := active1 } }
     bitAt (0x80000002 : Word) 31 = true ∧ s.io.flrBusy = false ∧ s.attachOpen = true ∧ (gang RF.zero).attachOpen = false
       ∧ (∀ p ∈ s.fnRegions 2, (s.root (s.region p).root).records.length + (s.fnRegions 2).length ≤ 63)
       ∧ (let t := { s with io := { s.io with flrBusy := true, flrFn := 2 } }
          t.io.flrBusy = true ∧ t.io.flrFn = 2 ∧ (3 : Nat) ≠ t.io.flrFn) ∧ Sparse.wf Region.none s.regions = true ∧ (gang RF.zero).attachBooted = true ∧ s.fnRegions 2 = [1] ∧ s.fnRegions 3 = []
       ∧ (s.root (s.key 1).root).held = true ∧ (s.root (s.key 1).root).fn = 2 ∧ s.mon.conf = false ∧ s.mon.confNext = false ∧ Sparse.wf Tag.clear s.mon.tags = true
       ∧ (s.tag 0).mode = 0) := by decide +kernel

/-- A pause frame of IEEE 802.3: its opcode, and every byte of its operands. -/
def pauseF (op : Nat) (b : Byte) : List Byte := List.replicate 12 0 ++ [0x88, 0x08, BitVec.ofNat 8 (op / 256), BitVec.ofNat 8 op] ++ List.replicate 44 b

theorem witness_LinksComplete :
    (let s := upS
     (2 < 12 ∧ (s.port 2).up = true ∧ (s.port 2).wid = 0 ∧ (s.port 8).up = true ∧ 0 < (s.port 8).spare ∧ ({ s.port 2 with wid := 1 } : Link).wid ≠ 0)
       ∧ ((s.port 2).mode ≠ 0 ∧ s.io.bootstat ≠ 0) ∧ s.io.hostq = [] ∧ ({ s with io := { ioUp with hostq := [.read 64 4] } } : State).io.hostq = [.read 64 4] ∧ 5 ∉ s.io.lost ∧ 2 < 8 ∧ (s.port 2).mode = 1 ∧ (s.port 3).mode = 2
       ∧ s.waveHolds ⟨0, 0, 64⟩ 4 = false ∧ s.openMem = true ∧ s.fab.objs = [] ∧ s.mem.poisoned 0 64 4 = false
       ∧ (let r := { req0 .load with home := ⟨1, 0, 5 * 2 ^ 40⟩, sent := some 2 }
          let t := { s with fab := { Fab.reset with reqs := [r] } }
          t.findReq 1 = some r ∧ r.done = false ∧ ({ r with ans := some [7] } : Req).ans = some [7] ∧ r.pois = false ∧ t.findReq 2 = none)
       ∧ (let q : MirRec := ⟨4, [], 0x10000, [1], false, some 0⟩
          let t := { s with fab := { Fab.reset with mirror := [q] } }
          t.fab.mirror.find? (fun y => y.id = 4 && y.sent.isSome && !t.mirrorWaits 4) = some q ∧ t.fab.mirror.find? (fun y => y.id = 5 && y.sent.isSome && !t.mirrorWaits 5) = none)
       ∧ (let half := fun (k : Nat) => ((pauseF 1 0xFF).getD k 0).toNat * 256 + ((pauseF 1 0xFF).getD (k + 1) 0).toNat
          half 12 = 0x8808 ∧ half 14 = 0x0001 ∧ half 16 = 0xFFFF ∧ (pauseF 1 0).length ≤ 9216)
       ∧ (((pauseF 0x101 0xFF).getD 14 0).toNat * 256 + ((pauseF 0x101 0xFF).getD 15 0).toNat = 0x101 ∧ bitAt ((pauseF 0x101 0xFF).getD 17 0) 7 = true)
       ∧ (let w := { s with fab := { Fab.reset with objs := [(0, { CObj.none with wave := some (0, []) })] }, mem := Mem.reset.write 0 4 [4] }
          w.waveHolds ⟨0, 0, 64⟩ 4 = true)
       ∧ ((s.port 2).up = true ∧ (s.port 2).mode = 1) ∧ (gang RF.zero).port 2 = Link.reset
       ∧ s.peerOk 64 4 0 0 true = true ∧ s.peerOk 64 4 1 0 true = false
       ∧ (let t := { s with mon := { Mon.reset with tags := [(0, ⟨2, 0, true⟩)] } }
          t.peerOk 64 4 2 0 false = true ∧ (t.tag 0).sv = true)
       ∧ bitAt (0x8000000000000000 : DWord) 63 = true ∧ ({ s with io := { ioUp with links := [(0, { Link.reset with mode := 2 })] } } : State).ethernet = true ∧ s.ethernet = false
       ∧ (let t := { s with io := { s.io with mirrx := 0x8000000001000000 } }
          bitAt t.io.mirrx 63 = true ∧ 64 + 4 ≤ Config.hbmBytes ∧ 64 + 4 ≤ fieldN t.io.mirrx 0 24 * 65536 + fieldN t.io.mirrx 24 24 * 65536)) := by decide +kernel

theorem witness_ProgramFaults :
    (let s := gang RF.zero
     cPF ≠ 0 ∧ [0, 3].Nodup ∧ ({ Slice.init with st := .faulted } : Slice).st = .faulted ∧ Slice.init.mask ≠ 0 ∧ Slice.init.stack = []
       ∧ (s.warp 0 0).block = 0)
    ∧ (let s := base { core0 RF.zero with blocks := [(0, { Block.absent with live := true, ctx := 1, launch := 1, nwarps := 2, warps := [0, 1] })] }
       (∀ p ∈ s.cores, p.2.waiters = []) ∧ 0 ∈ ((s.core 0).block 0).warps ∧ (∃ v ∈ ((s.core 0).block 0).warps, v ≠ 0)) := by decide +kernel

/-- A retry stays at the instruction; a skip passes its extension word (R242). -/
theorem test_resume :
    let x := { Slice.init with st := .faulted, pc := 64, opw := 0x8000000000000000 }
    ((x.resume 1).pc, (x.resume 2).pc) = (64, 80) := by decide

/-! ## Words of every family, and terms that are not well formed -/

/-- Accesses, copies, rings, descriptors (R280, R283, R284): words of the spec and the instructions that they stand for. -/
theorem test_words_memory :
    -- LD.s32.acq.dev g10, [g4:g5 + 0x40]
    decode .lane 0x2070A040001010C0#64 0 = .ok (.ld ⟨0, 7, 0xA, 4, 0x40, 2, 0, 1, 2, 0, 0, 0, 0, 0, 0⟩)
    -- ST.s64.scr.rel.blk [k3 + 16], g6:g7
    ∧ decode .lane 0x21706C3000041B20#64 0 = .ok (.st ⟨0, 7, 6, 0xC3, 0x10, 3, 1, 2, 1, 0, 0, 0, 0, 0, 0⟩)
    -- LDA16 g20:g21, [g4:g5]
    ∧ decode .lane 0x2071404000002003#64 0 = .ok (.lda16 ⟨0, 7, 0x14, 4, 0, 4, 0, 0, 0, 0, 0, 0, 0, 0, 0⟩)
    -- FENCE.ar.dev
    ∧ decode .lane 0x237FFFF0000001C0#64 0 = .ok (.fence ⟨0, 7, 0xFF, 0xFF, 0, 0, 0, 3, 2, 0, 0, 0, 0, 0, 0⟩)
    -- XTSET 5, [k1]
    ∧ decode .lane 0x327FFC1FF0050000#64 0 = .ok (.xtset ⟨7, 0xFF, 0xC1, 0xFF, 5, 0, 0⟩)
    -- DSET d3, [k2]
    ∧ decode .lane 0x3B7FFC2000000030#64 0 = .ok (.dset ⟨7, 0xFF, 0xC2, 0, 3⟩)
    -- XSTART [gz + 0], k4
    ∧ decode .lane 0x217C4FF000001C00#64 0 = .ok (.xstart ⟨0, 7, 0xC4, 0xFF, 0, 3, 2, 0, 0, 0, 0, 0, 0, 0, 0⟩)
    -- ST.op7 [g8:g9 + 32], g11
    ∧ decode .lane 0xA170B08000082800#64 0x0000000038000000#64 = .ok (.st ⟨1, 7, 0xB, 8, 0x20, 5, 0, 0, 0, 7, 0, 0, 0, 0, 0⟩) := ⟨rfl, rfl, rfl, rfl, rfl, rfl, rfl, rfl⟩

/-- The vector ALU groups and the lane group (R277, R278): words of the spec and the instructions that they stand for. -/
theorem test_words_alu :
    -- BFE.n32 g2, g3, 0x0804
    decode .lane 0x0270203080401602#64 0 = .ok (.bfeImm ⟨0, 7, 2, 3, 0x804, 0, 0, 0, 0, 2, 0⟩)
    -- FADD.f32.ftz g1, g2, g3
    ∧ decode .lane 0x087010203EF00003#64 0 = .ok (.fadd ⟨7, 1, 2, 3, 0xEF, 0, 0, 0, 0, 0, 0, 0, 0, 3⟩)
    -- FMUL.f32 g4, g4, 0.5
    ∧ decode .lane 0x09704043F0000203#64 0 = .ok (.fmulImm ⟨0, 7, 4, 4, 0x3F00, 0, 0, 0, 0, 3, 0⟩)
    -- CVT.rz.i32.f32 g5, g6
    ∧ decode .lane 0x0C70506FF3300001#64 0 = .ok (.cvt ⟨7, 5, 6, 0xFF, 0x33, 0, 0, 0, 0, 0, 0, 0, 0, 1⟩)
    -- FRND.rd.f32 g2, g3
    ∧ decode .lane 0x0D70203FFF500003#64 0 = .ok (.frnd ⟨7, 2, 3, 0xFF, 0xF5, 0, 0, 0, 0, 0, 0, 0, 0, 3⟩)
    -- SHFLX.b32 g4, g4, k1
    ∧ decode .lane 0x1070404C10500030#64 0 = .ok (.shflx ⟨7, 4, 4, 0xC1, 5, 0, 0, 0, 0, 0, 0, 0, 0, 0⟩)
    -- MATCHANY.b32 g10, g11
    ∧ decode .lane 0x1070A0BFFFF00070#64 0 = .ok (.matchany ⟨7, 0xA, 0xB, 0xFF, 0xFF, 0, 0, 0, 0, 0, 0, 0, 0, 0⟩)
    -- REDUX.add.i32 k3, g8
    ∧ decode .lane 0x107C308000500091#64 0 = .ok (.redux ⟨7, 0xC3, 8, 0, 5, 0, 0, 0, 0, 0, 0, 0, 0, 1⟩) := ⟨rfl, rfl, rfl, rfl, rfl, rfl, rfl, rfl⟩

/-- Formats, slots, tiles and the matrix stream (R279, R281): words of the spec and the instructions that they stand for. -/
theorem test_words_formats :
    -- DEC g2, g3, fs2
    decode .lane 0x1870203FF4000000#64 0 = .ok (.dec ⟨7, 2, 3, 0xFF, 2, 0, 0, 0, 0, 0, 0, 0, 0⟩)
    -- ENC.rna g5, g6, k8, fs2
    ∧ decode .lane 0x1870506C84000012#64 0 = .ok (.enc ⟨7, 5, 6, 0xC8, 2, 0, 0, 0, 0, 0, 0, 0, 2⟩)
    -- SCLQ k12, g6, k8, fs2
    ∧ decode .lane 0x187CC06C84000030#64 0 = .ok (.sclq ⟨7, 0xCC, 6, 0xC8, 2, 0, 0, 0, 0, 0, 0, 0, 0⟩)
    -- FMTQ k3, k8, fs0
    ∧ decode .lane 0x187C3FFC80000040#64 0 = .ok (.fmtq ⟨7, 0xC3, 0xFF, 0xC8, 0, 0, 0, 0, 0, 0, 0, 0, 0⟩)
    -- MMA.f32.zc a0, d0, d1, fs1, fs1, q0, q1, q2, b0
    ∧ decode .mx 0x3870012400084200#64 0 = .ok (.mma ⟨7, 0, 0, 1, 1, 1, 0, 0, 1, 2, 0, 0, 1, 0, 0⟩)
    -- ACZ a2
    ∧ decode .mx 0x38720000000000F1#64 0 = .ok (.acz ⟨7, 2, 0, 0, 0, 0, 0, 0, 0, 0, 0, 0, 0, 0, 0xF⟩)
    -- ACDRN a2, d4, fs3, b5
    ∧ decode .mx 0x3872040C00000052#64 0 = .ok (.acdrn ⟨7, 2, 0, 4, 0, 3, 0, 0, 0, 0, 0, 0, 0, 0, 5⟩)
    -- ACCLOSE a2, fs2, q5
    ∧ decode .mx 0x387200400A0000F3#64 0 = .ok (.acclose ⟨7, 2, 0, 0, 2, 0, 0, 5, 0, 0, 0, 0, 0, 0, 0xF⟩)
    -- ACSTAT.blk.clr k12
    ∧ decode .lane 0x397CCFF000000302#64 0 = .ok (.acstatBlk ⟨7, 0xCC, 0xFF, 0, 0x30⟩)
    -- ACRD.f32 g12, g10, g11, a0
    ∧ decode .lane 0x3A70C0A0B0000003#64 0 = .ok (.acrd ⟨7, 0xC, 0xA, 0xB, 0, 0, 0, 0, 0, 0, 0, 0, 0, 3⟩)
    -- SLOTBIND fs2, k7
    ∧ decode .lane 0x197FFC7000000020#64 0 = .ok (.slotbind ⟨7, 0xFF, 0xC7, 0, 2⟩) := ⟨rfl, rfl, rfl, rfl, rfl, rfl, rfl, rfl, rfl, rfl, rfl⟩

/-- Atomics, combining objects, barriers, control, system (R280 to R284): words of the spec and the instructions that they stand for. -/
theorem test_words_control :
    -- ATOM.CAS.b32.ar.sys g2, [g4:g5], g6
    decode .lane 0xA8702040000011E7#64 0x0000000000000060#64 = .ok (.atomCas ⟨1, 7, 2, 4, 0, 2, 0, 3, 3, 0, 0, 0, 0, 6, 0⟩)
    -- CMB.acq.dev g10, [g4:g5], g12, 0, p2
    ∧ decode .lane 0xA970A040000018C0#64 0x00000000000200CA#64 = .ok (.cmb ⟨1, 7, 0xA, 4, 0, 3, 0, 1, 2, 0, 0, 2, 0, 0xC, 0xA⟩)
    -- COBJ.ARM k9, k4
    ∧ decode .lane 0x2A7C9C4000000001#64 0 = .ok (.cobjArm ⟨7, 0xC9, 0xC4, 0, 0⟩)
    -- BARINIT.nb b3, 4
    ∧ decode .lane 0x307FFFFFF0043100#64 0 = .ok (.barinitNb ⟨7, 0xFF, 0xFF, 0xFF, 4, 3, 1⟩)
    -- BARSYNC p2, [k6]
    ∧ decode .lane 0x30702C6FF0000030#64 0 = .ok (.barsync ⟨7, 2, 0xC6, 0xFF, 0, 0, 0⟩)
    -- NBSYNC p1, b3
    ∧ decode .lane 0x30701FFFF0003060#64 0 = .ok (.nbsync ⟨7, 1, 0xFF, 0xFF, 0, 3, 0⟩)
    -- ?p2 BRA skip, done
    ∧ decode .lane 0x4020000003000060#64 0 = .ok (.bra ⟨2, 0, 3, 6⟩)
    -- CALL g20, func
    ∧ decode .lane 0x4071400028000002#64 0 = .ok (.call ⟨7, 0x14, 0x28, 0⟩)
    -- REGANG 0xFF
    ∧ decode .lane 0x407FF00000000005#64 0 = .ok (.regang ⟨7, 0xFF, 0, 0⟩)
    -- FORK.mx mxcode
    ∧ decode .lane 0x487FFFF002800000#64 0 = .ok (.fork ⟨7, 0xFF, 0xFF, 0x28, 0⟩)
    -- SOW k9, 0, k4, child
    ∧ decode .lane 0x507C9C4000C00000#64 0 = .ok (.sow ⟨7, 0xC9, 0xC4, 0xC, 0⟩)
    -- CSRR g10, CYCLE
    ∧ decode .lane 0x5070AFF000000103#64 0 = .ok (.csrr ⟨7, 0xA, 0xFF, 0, 0x10⟩)
    -- SVC k10, k4, 0x0041
    ∧ decode .lane 0x507CAC4000000415#64 0 = .ok (.svc ⟨7, 0xCA, 0xC4, 0, 0x41⟩)
    -- TRAP 0x2A
    ∧ decode .lane 0x507FFFF002A00006#64 0 = .ok (.trap ⟨7, 0xFF, 0xFF, 0x2A, 0⟩) := ⟨rfl, rfl, rfl, rfl, rfl, rfl, rfl, rfl, rfl, rfl, rfl, rfl, rfl, rfl⟩

/-- The scheduler cores' words (R223) and two command records (R228). -/
theorem test_words_sched :
    (decodeXdisp 0x0000050B).map (fun r => r.toOption) = some (some (.rfetch 10)) ∧ (decodeXdisp 0x0073128B).map (fun r => r.toOption) = some (some (.bfx 5 6 7))
    ∧ decodeRecord 3 [0x0500000200000004, 0x1000, 7, 0, 0, 0, 0, 0] = .ok (.recSkipif 3 2 4 0x1000 7)
    ∧ decodeRecord 3 [0x0400000000000000, 0x1000, 7, 0, 0, 0, 0, 0] = .ok (.recSetsig 3 0x1000 7) := ⟨rfl, rfl, rfl, rfl⟩

/-- What follows a good term is refused, by the check named. -/
def refuses (st : Stream) (good : Instr) (bad : List Instr) : Bool := legal st good && bad.all fun i => !legal st i

/-- The checks shared by the vector ALU groups: register codes (codeOk: a pair that is odd, one past g191, k63 in a pair), the guard (guardOk), types, modifiers
(modOk), CLP and SC (clpScOk, ialuOk), immediates (immOk, ialuiOk), the mode byte (modeOk), FALU, FSPEC, compares, CVT, FRND, predicates (predOk). -/
theorem test_illformed_alu :
    refuses .lane (.iadd (fA 11)) [.iadd { fA 11 with d := 3 }, .iadd { fA 11 with a := 0xBF }, .iadd { fA 11 with b := 0xFE }, .iadd { fA 1 with gd := 0xF }, .iadd (fA 0),
      .iadd { fA 2 with na := 1, clp := 1 }, .iadd { fA 1 with c := 4 }, .iadd { fA 1 with sc := 1 }, .iadd { fA 1 with nc := 1 }, .imulh { fA 1 with clp := 3 }, .sel { fA 0 with c := 8 }] = true
    ∧ refuses .lane (.iaddImm { fB 8 with imm16 := 0xFF }) [.iaddImm { fB 8 with imm16 := 0x100 }, .iaddImm { fB 1 with imm32 := 1 }, .iaddImm { fB 1 with x := 1, imm16 := 1 },
      .shlImm { fB 0 with imm16 := 0x100 }, .iminImm { fB 1 with clp := 3 }] = true
    ∧ refuses .lane (.fadd (fA 3)) [.fadd { fA 3 with c := 0xEE }, .fadd { fA 3 with clp := 3 }, .fadd (fA 1), .ffma (fA 0), .frcp { fA 3 with b := 0 }, .frcp (fA 4), .faddImm { fB 3 with clp := 3 }] = true
    ∧ refuses .lane (.icmp 5 { fA 1 with d := 6 }) [.icmp 6 { fA 1 with d := 6 }, .icmp 2 { fA 0 with d := 6 }, .icmp 5 { fA 1 with d := 8 }, .icmpi 5 { fB 1 with d := 9 }, .fcmp 0 { fA 4 with d := 1 }] = true
    ∧ refuses .lane (.cvt { fA 3 with c := 0x10 }) [.cvt { fA 3 with c := 0x16 }, .cvt { fA 3 with c := 0xA0 }, .cvt { fA 3 with c := 0x10, b := 1 }, .frnd { fA 3 with c := 0xD0 }, .frnd { fA 3 with c := 0xF6 }] = true
    ∧ refuses .lane (.mov (fB 3)) [.mov { fB 3 with imm16 := 1 }, .mov (fB 13), .movi { fB 1 with a := 0 }, .pmovGet { fB 0 with imm16 := 0x8000 }, .pmovSet { fB 0 with imm16 := 0 }] = true := by decide

/-- The lane group (laneOk, reduxOk), formats (fmtOk, kReg) and accesses (mRow, mExtOk, abOk). -/
theorem test_illformed_lane_formats_accesses :
    refuses .lane (.shflx { fA 0 with c := 5 }) [.shflx { fA 0 with c := 6 }, .shflx { fA 0 with c := 5, na := 1 }, .matchany { fA 0 with c := 5 }, .vall { fA 0 with a := 8, d := 0, c := 5 }] = true
    ∧ refuses .lane (.redux { fA 1 with b := 0x20, c := 5 }) [.redux { fA 1 with b := 0x30, c := 5 }, .redux { fA 1 with b := 6, c := 5 }, .redux { fA 1 with b := 3, c := 5 }, .redux { fA 1 with b := 1, c := 5, clp := 3 }] = true
    ∧ refuses .lane (.enc fF) [.enc { fF with ab := 1 }, .enc { fF with rm := 6 }, .enc { fF with clp := 1 }, .dec { fF with na := 1 }, .dec { fF with clp := 3 }, .sclq { fF with sc := 1, b := 0xC0 },
      .sclq { fF with b := 0xFF }, .encBlk { fF with nb := 1, b := 0xC2 }] = true
    ∧ refuses .lane (.ld { fM with sp := 1, sz := 5, x := 1, ew := 2 }) [.ld { fM with sz := 5, x := 1, ew := 1 }, .ld { fM with sz := 6 }, .ld { fM with sp := 2 }, .ld { fM with ord := 2 }, .ld { fM with ew := 3 },
      .ld { fM with x := 1, cph := 3 }, .ld { fM with sprd := 1 }, .ld { fM with ab := 0xC0 }, .ld { fM with ab := 3 }, .ld { fM with v := 0xFF, sz := 4, ab := 0xC0 }, .lda16 { fM with sz := 4 },
      .pref { fM with sz := 0, sco := 1, v := 0xFF }, .fence { fM with sz := 0, v := 0xFF, ord := 0 }, .fence { fM with sz := 0, v := 0xFF, ord := 1, ofs := 8 }] = true := by decide

/-- Atomics (atomOk, casOk), CMB (cmbOk), objects, barriers, rings, tiles and the matrix stream (mxZero, accepts), control and system instructions, and
the codes that a sequencer and a wave do not allow (streamCodeOk). -/
theorem test_illformed_rest :
    refuses .lane (.atomCas { fM with x := 1, opr := 0xFB }) [.atomCas { fM with x := 1, opr := 0xFE }, .atomCas { fM with x := 0 }, .atomCas { fM with x := 1, ty := 1 }, .atomAdd { fM with x := 1, ty := 11 },
      .atomAdd { fM with x := 1, ty := 1, sp := 2 }, .cmb { fM with x := 1, sz := 3, ty := 11 }, .cmb { fM with x := 1, sz := 3, ty := 10, sp := 1 }] = true
    ∧ refuses .lane (.cobjArm { fS with a := 0xC2 }) [.cobjArm { fS with a := 2 }, .cobjArm { fS with a := 0xC2, sel := 1 }, .slotrel { fS with sel := 8 }, .acstatBlk { fS with sel := 0x20 }, .acband { fS with sel := 16, a := 0xC0 },
      .dset { fS with sel := 16, a := 0xC0 }, .dsetW { fS with sel := 0x90, a := 0xC0 }, .csrr { fS with sel := 5 }, .csrw { fS with sel := 0x10 }, .sow { fS with sel := 8 }, .sow { fS with sel := 0x8000, a := 0xC2 },
      .fork { fS with sel := 2 }, .fork { fS with a := 0xC0, imm16 := 1 }, .svc { fS with imm16 := 1 }, .trap { fS with sel := 1 }, .lease fS, .seqend fS] = true
    ∧ refuses .lane (.barinit { fY with d := 7, imm12 := 1 }) [.barinit { fY with d := 7 }, .barinit { fY with d := 8, imm12 := 1 }, .barinitNb { fY with imm12 := 1 }, .nbsync { fY with d := 7, imm12 := 1 }, .awaitf { fY with flg := 1 },
      .relsKeep fY, .yieldc fY, .xtset { fY with d := 0 }, .xquery { fY with imm12 := 0x80 }] = true
    ∧ refuses .mx (.mma fMX) [.mma { fMX with qm := 63 }, .mma { fMX with am := 3 }, .mma { fMX with fd := 1 }, .acz { fMX with fbk := 1 }, .acdrn { fMX with qm := 1 }, .acclose { fMX with qm := 63 }, .bra { fC with j20 := 1 },
      .iadd { fA 1 with d := 0 }, .ld fM] = true
    ∧ refuses .lane (.bra fC) [.bra { fC with l := 1 }, .brx { fC with t20 := 1 }, .call { fC with j20 := 1 }, .nop { fC with l := 1 }, .regang { fC with gd := 0 }, .brkpt { fC with t20 := 1 }, .mma fMX] = true
    ∧ refuses .wave (.ld { fM with sp := 1 }) [.ld fM, .ld { fM with v := 32, sp := 1 }, .iadd { fA 1 with d := 0xD0 }, .bra fC, .yieldc { fY with imm12 := 1 }] = true
    ∧ refuses .cp (.xstart { fM with sz := 3, sp := 2, v := 0xC0 }) [.xstart { fM with sz := 3, sp := 2, v := 0 }, .mma fMX, .slotrel fS] = true
    ∧ recordOk (.recSkipif 0 1 0 0 0) = true ∧ recordOk (.recSkipif 0 0 0 0 0) = false ∧ recordOk (.recSkipif 0 4 0 0 0) = false
    ∧ countOk 8 (.iadd { fA 1 with d := 7 }) = true ∧ countOk 8 (.iadd { fA 1 with d := 8 }) = false := by decide

/-! ## Worked examples of the spec -/

/-- What an instruction leaves in k register n, run by the gang on k registers from 0 up. -/
def kOf (i : Instr) (l : List Word) (n : Nat) : Word :=
  match exec i (gang (kRegs l)) with
  | .next t => (t.warp 0 0).rf.readK n
  | .fault _ => 0
  | .refused _ => 0

/-- The examples of PRMT (R330), and BFE's bits 4 to 11. -/
theorem test_prmt_bfe :
    let f := { fA 0 with d := 0xC5, a := 0xC0, b := 0xC1, c := 0xC2 }
    kOf (.prmt f) [0x11223344, 0, 0x00010203] 5 = 0x44332211 ∧ kOf (.prmt f) [0x80, 0, 0x10101000] 5 = 0xFFFFFF80 ∧ kOf (.prmt f) [0, 1, 0x24] 5 &&& 0xFF = 0x80
    ∧ kOf (.bfeImm { fB 2 with d := 0xC5, a := 0xC0, imm16 := 0x0804 }) [0x12345678] 5 = 0x67 := by decide +kernel

/-- Wrapping, saturation and the immediate that is sign-extended (R97, R278, R329). -/
theorem test_integer :
    kOf (.iadd { fA 1 with d := 0xC5, a := 0xC0, b := 0xC1 }) [0x7FFFFFFF, 1] 5 = 0x80000000
    ∧ kOf (.iadd { fA 1 with d := 0xC5, a := 0xC0, b := 0xC1, clp := 3 }) [0x7FFFFFFF, 1] 5 = 0x7FFFFFFF
    ∧ kOf (.iaddImm { fB 1 with d := 0xC5, a := 0xC0, imm16 := 0xFFFF }) [5] 5 = 4
    ∧ kOf (.shrImm { fB 0 with d := 0xC5, a := 0xC0, imm16 := 32 }) [0xFFFFFFFF] 5 = 0 := by decide +kernel

/-- The table of CVT examples (R339): 2.5, -2.5 and 3.0 x 10^9 to i32 under each rounding. -/
theorem test_cvt :
    (let conv := fun (x : Word) => ([0x31, 0x32, 0x33, 0x34, 0x35] : List (BitVec 8)).map fun c => kOf (.cvt { fA 1 with d := 0xC5, a := 0xC0, c := c }) [x] 5
     conv 0x40200000 = [2, 3, 2, 3, 2] ∧ conv 0xC0200000 = [-2, -3, -2, -2, -3] ∧ conv 0x4F32D05E = [0x7FFFFFFF, 0x7FFFFFFF, 0x7FFFFFFF, 0x7FFFFFFF, 0x7FFFFFFF]) := by
  decide +kernel

/-- FLOG2 of 1, and FRCP of 2^-149 (R337). -/
theorem test_fspec :
    kOf (.flog2 { fA 3 with d := 0xC5, a := 0xC0 }) [0x3F800000] 5 = 0 ∧ kOf (.frcp { fA 3 with d := 0xC5, a := 0xC0 }) [1] 5 = 0x7F800000 := by decide +kernel

/-- The descriptions of FMTQ (R353), and the scale code of 0.75 (R115). -/
theorem test_fmtq_scale :
    ((Mon.reset.img 3).getD ⟨0, 0, 0⟩).describe 0x20000000 = 0xF0081010 ∧ ((Mon.reset.img 1).getD ⟨0, 0, 0⟩).describe 0x001E4200 = 0x98032007
    ∧ fp32.encode 1 (underScale (.fin false 4 0) (scaleVal 0x7E800)) = 0x40400000 := by decide +kernel

/-- The diverged gang of spec/18: lanes 0 to 7 but lane 3, with its g8. -/
def rfDiv : RF :=
  ⟨(List.range 8).zip [5, 3, 5, 9, 3, 5, 1, 9] |>.map fun p => (256 + p.1, p.2), [], ([0, 1, 2, 4, 5, 6, 7].map fun l => (32 + l, true))⟩

/-- Its three instructions: classes, exclusive prefix sums, the total (R344, R345). -/
theorem test_lanes :
    (let s := gangS (fun k y => { y with gang := if k < 2 then 3 else 0xFC }) rfDiv
     after (exec (.matchany { fA 0 with gd := 1, d := 10, a := 8 }) s) (fun t => decide (((List.range 8).map fun l => (t.warp 0 0).rf.readG 10 l) = [0x80030000, 0x80020100, 0x00030001, 0, 0x00020101, 0x00030002, 0x80010600, 0x80010700])) = true
     ∧ after (exec (.redux { fA 1 with gd := 1, d := 11, a := 8, b := 0x20, c := 5 }) s) (fun t => decide (((List.range 8).map fun l => (t.warp 0 0).rf.readG 11 l) = [0, 5, 8, 0, 13, 16, 21, 22])) = true
     ∧ after (exec (.redux { fA 1 with gd := 1, d := 0xC3, a := 8, b := 0, c := 5 }) s) (fun t => decide ((t.warp 0 0).rf.readK 3 = 31)) = true) := by decide +kernel

end Sys2Proof.Tests
end

section
/-!
PROOFS. Registers by their codes (R7, R94 to R96): what a code names, what one register, a pair or a quad reads after a write of
one of them, and the statements on constant registers and on registers holding what was written last.
-/

namespace Sys2Proof.Machine

/-! ## What a code names (R7) -/

theorem isGz_iff (c : BitVec 8) : isGz c = true ↔ c.toNat = 0xFF := by
  rw [isGz, beq_iff_eq, BitVec.toNat_eq]; rfl

theorem isGz_eq_false_iff (c : BitVec 8) : isGz c = false ↔ c.toNat < 0xFF := by
  rw [Bool.eq_false_iff, Ne, isGz_iff]; omega

theorem isG_iff (c : BitVec 8) : isG c = true ↔ c.toNat < 0xC0 := decide_eq_true_iff

theorem isK_iff (c : BitVec 8) : isK c = true ↔ 0xC0 ≤ c.toNat ∧ c.toNat ≤ 0xFE := by simp [isK]

theorem isGz_of_isG {c : BitVec 8} (h : isG c = true) : isGz c = false :=
  (isGz_eq_false_iff c).mpr (by have := (isG_iff c).mp h; omega)

theorem isGz_of_isK {c : BitVec 8} (h : isK c = true) : isGz c = false :=
  (isGz_eq_false_iff c).mpr (by have := (isK_iff c).mp h; omega)

theorem isG_of_isK {c : BitVec 8} (h : isK c = true) : isG c = false := by
  rw [Bool.eq_false_iff, Ne, isG_iff]
  have := (isK_iff c).mp h
  omega

/-- A code that is not gz names a g register or a k register. -/
theorem isG_or_isK {c : BitVec 8} (h : isGz c = false) : isG c = true ∨ isK c = true := by
  rw [isG_iff, isK_iff]
  have := (isGz_eq_false_iff c).mp h
  omega

/-- Two k codes with one number are one code. -/
theorem kIdx_inj {c d : BitVec 8} (hc : isK c = true) (hd : isK d = true) (h : kIdx c = kIdx d) : c = d := by
  rw [isK_iff] at hc hd
  unfold kIdx at h
  exact BitVec.eq_of_toNat_eq (by omega)

/-- The registers of a pair or quad end below gz, and below k62 (R96). -/
theorem toNat_add_le_of_codeOk {n : Nat} {c : BitVec 8} (hn : n ≠ 1) (h : codeOk n c = true) (hz : isGz c = false) :
    c.toNat + n ≤ 0xFE := by
  simp only [codeOk, hz, Bool.false_or, Bool.or_eq_true, Bool.and_eq_true, decide_eq_true_eq, beq_iff_eq, hn, false_or, isG_iff, isK_iff] at h
  unfold kIdx at h
  omega

/-! ## One register -/

@[simp] theorem RF.read1_gz (r : RF) (l : Nat) : r.read1 0xFF#8 l = 0 := rfl
@[simp] theorem RF.write1_gz (r : RF) (l : Nat) (v : Word) : r.write1 0xFF#8 l v = r := rfl

theorem RF.read1_of_isG (r : RF) {c : BitVec 8} (l : Nat) (h : isG c = true) : r.read1 c l = r.readG c.toNat l := by
  simp [RF.read1, isGz_of_isG h, h]

theorem RF.read1_of_isK (r : RF) {c : BitVec 8} (l : Nat) (h : isK c = true) : r.read1 c l = r.readK (kIdx c) := by
  simp [RF.read1, isGz_of_isK h, isG_of_isK h]

theorem RF.write1_of_isG (r : RF) {c : BitVec 8} (l : Nat) (v : Word) (h : isG c = true) : r.write1 c l v = r.writeG c.toNat l v := by
  simp [RF.write1, isGz_of_isG h, h]

theorem RF.write1_of_isK (r : RF) {c : BitVec 8} (l : Nat) (v : Word) (h : isK c = true) : r.write1 c l v = r.writeK (kIdx c) v := by
  simp [RF.write1, isGz_of_isK h, isG_of_isK h]

/-- A g register of one lane is no other lane's. -/
theorem RF.read1_write1_of_isG (r : RF) {c : BitVec 8} {l m : Nat} (v : Word) (h : isG c = true) (hl : l < 32) (hm : m < 32) :
    (r.write1 c l v).read1 c m = if m = l then v else r.read1 c m := by
  rw [RF.write1_of_isG _ _ _ h, RF.read1_of_isG _ _ h, RF.read1_of_isG _ _ h, RF.readG_writeG _ _ _ _ _ _ hl hm]
  simp

/-- A k register is every lane's. -/
theorem RF.read1_write1_of_isK (r : RF) {c : BitVec 8} (l m : Nat) (v : Word) (h : isK c = true) : (r.write1 c l v).read1 c m = v := by
  rw [RF.write1_of_isK _ _ _ h, RF.read1_of_isK _ _ h, RF.readK_writeK, if_pos rfl]

theorem RF.read1_write1_same (r : RF) {c : BitVec 8} {l : Nat} (v : Word) (hz : isGz c = false) (hl : l < 32) :
    (r.write1 c l v).read1 c l = v := by
  rcases isG_or_isK hz with h | h
  · rw [RF.read1_write1_of_isG r v h hl hl, if_pos rfl]
  · exact RF.read1_write1_of_isK r l l v h

/-- No register is another. -/
theorem RF.read1_write1_ne (r : RF) {c d : BitVec 8} {l m : Nat} (v : Word) (hcd : c ≠ d) (hl : l < 32) (hm : m < 32) :
    (r.write1 c l v).read1 d m = r.read1 d m := by
  cases hzc : isGz c with
  | true => simp [RF.write1, hzc]
  | false =>
    cases hzd : isGz d with
    | true => simp [RF.read1, hzd]
    | false =>
      rcases isG_or_isK hzc with hc | hc <;> rcases isG_or_isK hzd with hd | hd
      · have hne : d.toNat ≠ c.toNat := fun e => hcd (BitVec.eq_of_toNat_eq e.symm)
        simp [RF.write1_of_isG _ _ _ hc, RF.read1_of_isG _ _ hd, RF.readG_writeG _ _ _ _ _ _ hl hm, hne]
      · simp [RF.write1_of_isG _ _ _ hc, RF.read1_of_isK _ _ hd]
      · simp [RF.write1_of_isK _ _ _ hc, RF.read1_of_isG _ _ hd]
      · have hne : kIdx d ≠ kIdx c := fun e => hcd (kIdx_inj hd hc e).symm
        simp [RF.write1_of_isK _ _ _ hc, RF.read1_of_isK _ _ hd, RF.readK_writeK, hne]

@[simp] theorem RF.readP_write1 (r : RF) (c : BitVec 8) (l : Nat) (v : Word) (p m : Nat) : (r.write1 c l v).readP p m = r.readP p m := by
  unfold RF.write1
  split
  · rfl
  · split
    · exact RF.readP_writeG ..
    · exact RF.readP_writeK ..

/-! ## Pairs and quads (R96) -/

/-- The upper bits of a word above its lower ones are the word. -/
theorem extractLsb'_append_setWidth {w n : Nat} (v : BitVec (w + n)) : v.extractLsb' n w ++ v.setWidth n = v := by
  rw [BitVec.setWidth_eq_extractLsb' (by omega), BitVec.extractLsb'_append_extractLsb']

@[simp] theorem RF.read2_gz (r : RF) (l : Nat) : r.read2 0xFF#8 l = 0 := rfl
@[simp] theorem RF.read4_gz (r : RF) (l : Nat) : r.read4 0xFF#8 l = 0 := rfl
@[simp] theorem RF.write2_gz (r : RF) (l : Nat) (v : DWord) : r.write2 0xFF#8 l v = r := rfl
@[simp] theorem RF.write4_gz (r : RF) (l : Nat) (v : BitVec 128) : r.write4 0xFF#8 l v = r := rfl

theorem RF.read2_of_not_gz (r : RF) {c : BitVec 8} (l : Nat) (hz : isGz c = false) : r.read2 c l = r.read1 (c + 1) l ++ r.read1 c l := by
  simp [RF.read2, hz]

theorem RF.write2_of_not_gz (r : RF) {c : BitVec 8} (l : Nat) (v : DWord) (hz : isGz c = false) :
    r.write2 c l v = (r.write1 c l (v.setWidth 32)).write1 (c + 1) l (v.extractLsb' 32 32) := by
  simp [RF.write2, hz]

section
variable (r : RF) {c : BitVec 8} {l : Nat} (v : DWord) (hz : isGz c = false) (hl : l < 32)
include hz hl

/-- The low word of a pair lies in the register that its code names. -/
theorem RF.read1_write2_low : (r.write2 c l v).read1 c l = v.setWidth 32 := by
  have hne : c + 1 ≠ c := by bv_omega
  rw [RF.write2_of_not_gz r l v hz, RF.read1_write1_ne _ _ hne hl hl, RF.read1_write1_same r _ hz hl]

/-- A pair whose upper register is not gz reads as what was written. -/
theorem RF.read2_write2_same (hz' : isGz (c + 1) = false) : (r.write2 c l v).read2 c l = v := by
  rw [RF.read2_of_not_gz _ _ hz, RF.read1_write2_low r v hz hl, RF.write2_of_not_gz r l v hz, RF.read1_write1_same _ _ hz' hl]
  exact extractLsb'_append_setWidth (w := 32) (n := 32) v

end

/-- A write of a pair changes no register outside it. -/
theorem RF.read1_write2_ne (r : RF) {c d : BitVec 8} {l m : Nat} (v : DWord) (h : c ≠ d) (h' : c + 1 ≠ d) (hl : l < 32) (hm : m < 32) :
    (r.write2 c l v).read1 d m = r.read1 d m := by
  unfold RF.write2
  split
  · rfl
  · rw [RF.read1_write1_ne _ _ h' hl hm, RF.read1_write1_ne _ _ h hl hm]

/-- A write of a pair changes no pair that shares no register with it. -/
theorem RF.read2_write2_ne (r : RF) {c d : BitVec 8} {l m : Nat} (v : DWord) (h : c ≠ d) (hs : c ≠ d + 1) (hp : c + 1 ≠ d)
    (hl : l < 32) (hm : m < 32) : (r.write2 c l v).read2 d m = r.read2 d m := by
  have hsp : c + 1 ≠ d + 1 := by bv_omega
  unfold RF.read2
  rw [RF.read1_write2_ne r v h hp hl hm, RF.read1_write2_ne r v hs hsp hl hm]

/-- A quad below gz reads as what was written. -/
theorem RF.read4_write4_same (r : RF) {c : BitVec 8} {l : Nat} (v : BitVec 128) (hc : c.toNat + 4 ≤ 0xFE) (hl : l < 32) :
    (r.write4 c l v).read4 c l = v := by
  have hz : isGz c = false := (isGz_eq_false_iff _).mpr (by omega)
  have hz1 : isGz (c + 1) = false := (isGz_eq_false_iff _).mpr (by bv_omega)
  have hz2 : isGz (c + 2) = false := (isGz_eq_false_iff _).mpr (by bv_omega)
  have hz3 : isGz (c + 2 + 1) = false := (isGz_eq_false_iff _).mpr (by bv_omega)
  have hlow : (r.write4 c l v).read2 c l = v.setWidth 64 := by
    rw [RF.write4, if_neg (by simp [hz]), RF.read2_write2_ne _ _ (by bv_omega) (by bv_omega) (by bv_omega) hl hl,
      RF.read2_write2_same r _ hz hl hz1]
  have hhigh : (r.write4 c l v).read2 (c + 2) l = v.extractLsb' 64 64 := by
    rw [RF.write4, if_neg (by simp [hz]), RF.read2_write2_same _ _ hz2 hl hz3]
  rw [RF.read4, if_neg (by simp [hz]), hlow, hhigh]
  exact extractLsb'_append_setWidth (w := 64) (n := 64) v

/-! ## Constants of other register files -/

@[simp] theorem RF.writeP_pt (r : RF) (l : Nat) (b : Bool) : r.writeP 7 l b = r := rfl

@[simp] theorem Sched.read_zero (k : Sched) : k.read 0 = 0 := rfl
@[simp] theorem Sched.write_zero (k : Sched) (v : DWord) : k.write 0 v = k := rfl

/-! ## The statements -/

/-- Settles O9: gz, pt and x0 each have a branch of their own in every access. -/
theorem constantRegisters : Obligations.ConstantRegisters := by
  refine ⟨fun r l => ⟨?_, ?_, ?_⟩, fun r l v u q => ⟨?_, ?_, ?_⟩, fun r l => ?_, fun r l b => ?_, fun k v => ⟨?_, ?_⟩⟩
  · exact r.read1_gz l
  · exact r.read2_gz l
  · exact r.read4_gz l
  · exact r.write1_gz l v
  · exact r.write2_gz l u
  · exact r.write4_gz l q
  · exact r.readP_pt l
  · exact r.writeP_pt l b
  · exact k.read_zero
  · exact k.write_zero v

/-- Settles O10: one register by the kind of its code, a pair and a quad from their registers, which R96 keeps below gz. -/
theorem registerReadWrite : Obligations.RegisterReadWrite := by
  refine ⟨?g, ?k, ?other, ?pair, ?quad, ?pred, ?frame⟩
  case g => exact fun r c l m v hc hl hm => r.read1_write1_of_isG v hc hl hm
  case k => exact fun r c l m v hc => r.read1_write1_of_isK l m v hc
  case other => exact fun r c d l m v hcd hl hm => r.read1_write1_ne v hcd hl hm
  case pair =>
    intro r c l v hok hz hl
    have hlt : c.toNat + 2 ≤ 0xFE := toNat_add_le_of_codeOk (by decide) hok hz
    have hz' : isGz (c + 1) = false := (isGz_eq_false_iff _).mpr (by bv_omega)
    exact ⟨r.read2_write2_same v hz hl hz', r.read1_write2_low v hz hl⟩
  case quad => exact fun r c l v hok hz hl => r.read4_write4_same v (toNat_add_le_of_codeOk (by decide) hok hz) hl
  case pred => exact fun r p q l m b hp hl hm => r.readP_writeP_low p l b q m (by omega) hl hm
  case frame => exact fun r c l p m v => r.readP_write1 c l v p m

end Sys2Proof.Machine
end

section
/-!
PROOFS. Every step keeps the memories in their canonical form (R31): for every function of the model that answers a state, either that it
leaves the memories as they are (`_mem`), or that it keeps them canonical (`ok_`); then the same of every instruction and event, of the
agents' turns, and of a step. The side conditions of the `ok_` lemmas are closed with `-implicitDefEqProofs`, under which the simplifier records
the `_mem` equations that hold by definition as rewrites of their own.
-/

namespace Sys2Proof.Machine

/-! ## What an outcome keeps -/

/-- The states that an instruction's meaning ends in have canonical memories. -/
def Act.ok : Act → Prop
  | .wait | .fault _ _ _ => True
  | .miss t | .done t | .go t _ | .check t _ => t.mem.ok

@[simp] theorem Act.ok_wait : Act.wait.ok := trivial
@[simp] theorem Act.ok_fault (l : List Nat) (c : BitVec 8) (f : DWord) : (Act.fault l c f).ok := trivial
@[simp] theorem Act.ok_miss (t : State) : (Act.miss t).ok ↔ t.mem.ok := Iff.rfl
@[simp] theorem Act.ok_done (t : State) : (Act.done t).ok ↔ t.mem.ok := Iff.rfl
@[simp] theorem Act.ok_go (t : State) (n : List (Nat × DWord)) : (Act.go t n).ok ↔ t.mem.ok := Iff.rfl
@[simp] theorem Act.ok_check (t : State) (r : McRec) : (Act.check t r).ok ↔ t.mem.ok := Iff.rfl

/-- An outcome that goes on does so with canonical memories. -/
def okOutcome (o : Host.Outcome State Fault Refusal) : Prop := ∀ t, o = .next t → t.mem.ok

@[simp] theorem okOutcome_next (t : State) : okOutcome (.next t) ↔ t.mem.ok := by simp [okOutcome]
@[simp] theorem okOutcome_fault (f : Fault) : okOutcome (.fault f) := by simp [okOutcome]
@[simp] theorem okOutcome_refused (r : Refusal) : okOutcome (.refused r) := by simp [okOutcome]

section Branches

variable (p : Prop) [Decidable p]

/-! A branch keeps what both of its sides keep. -/

@[simp] theorem State.mem_ite (s t : State) : (if p then s else t).mem = if p then s.mem else t.mem := apply_ite State.mem p s t
@[simp] theorem Mem.ok_ite (m n : Mem) : (if p then m else n).ok ↔ (p → m.ok) ∧ (¬ p → n.ok) := by split <;> simp_all
@[simp] theorem Act.ok_ite (a b : Act) : (if p then a else b).ok ↔ (p → a.ok) ∧ (¬ p → b.ok) := by split <;> simp_all
@[simp] theorem okOutcome_ite (a b : Host.Outcome State Fault Refusal) :
    okOutcome (if p then a else b) ↔ (p → okOutcome a) ∧ (¬ p → okOutcome b) := by split <;> simp_all
@[simp] theorem State.fst_ite {α : Type} (s t : State × α) : (if p then s else t).1 = if p then s.1 else t.1 := apply_ite Prod.fst p s t

end Branches

/-! ## The state (Machine/State.lean) -/

theorem State.ok_reset : State.reset.mem.ok := Mem.ok_reset

/-! ## Shared operations (Machine/Ops.lean) -/

@[simp] theorem State.fresh_mem (s : State) : s.fresh.2.mem = s.mem := rfl

@[simp] theorem State.ok_poisonMem {s : State} (loc g : Nat) (h : s.mem.ok) : (s.poisonMem loc g).mem.ok := by
  unfold State.poisonMem
  split
  · exact h
  · exact Mem.ok_setPoison _ _ _ h

@[simp] theorem State.denySched_mem (s : State) (a len : Nat) : (s.denySched a len).mem = s.mem := by simp [State.denySched]

@[simp] theorem State.ok_dropPeerReads {s : State} (h : s.mem.ok) : s.dropPeerReads.mem.ok := h

@[simp] theorem State.ok_postRegion {s : State} (rcb code : Nat) (i0 i1 : DWord) (i2 : Nat) (i3 : DWord) (h : s.mem.ok) :
    (s.postRegion rcb code i0 i1 i2 i3).mem.ok := by simp [State.postRegion, h, State.ok_post]

@[simp] theorem State.ok_postHealth {s : State} (code : Nat) (i0 i1 : DWord) (i2 : Nat) (h : s.mem.ok) : (s.postHealth code i0 i1 i2).mem.ok := by
  simp [State.postHealth, h, State.ok_post]

@[simp] theorem State.schedTrap_mem (s : State) (c cause : Nat) : (s.schedTrap c cause).mem = s.mem := rfl

@[simp] theorem State.schedDone_mem (s : State) (c : Nat) (rd : BitVec 5) (v : DWord) : (s.schedDone c rd v).mem = s.mem := rfl

@[simp] theorem State.coreCharges_mem (s : State) : s.coreCharges.mem = s.mem := State.foldl_mem _ _ (fun _ _ => by simp) s

@[simp] theorem State.moves_mem (s : State) (rcb loc : Nat) : (s.moves rcb loc).mem = s.mem := by simp [State.moves]

/-! ## The pool (Machine/Pool.lean) -/

@[simp] theorem State.setPoolWord_mem (s : State) (slab group : Nat) (w : Word) : (s.setPoolWord slab group w).mem = s.mem := rfl

@[simp] theorem State.ok_postPool {s : State} (slab group : Nat) (h : s.mem.ok) : (s.postPool slab group).mem.ok := by simp [State.postPool, h]

theorem ok_execPoolFaultMapWrite {s : State} (slab group : Nat) (v : Word) (h : s.mem.ok) : okOutcome (execPoolFaultMapWrite slab group v s) := by
  simp -implicitDefEqProofs [execPoolFaultMapWrite, h]

@[simp] theorem State.ok_meetWords {s : State} (c : Nat) (ws : List (Nat × Nat × Nat)) (h : s.mem.ok) : (s.meetWords c ws).mem.ok :=
  State.ok_foldl _ _ (fun _ p ht => State.ok_meetWord s c p ht) h

@[simp] theorem State.ok_meetAcc {s : State} (c : Nat) (es : List Nat) (h : s.mem.ok) : (s.meetAcc c es).mem.ok := by simp [State.meetAcc, h]

@[simp] theorem State.ok_meetRegs {s : State} (c w : Nat) (rows : List Nat) (h : s.mem.ok) : (s.meetRegs c w rows).mem.ok := by
  simp [State.meetRegs, h]

@[simp] theorem State.ok_meetCore {s : State} (c : Nat) (h : s.mem.ok) : (s.meetCore c).mem.ok := by
  simp +contextual [State.meetCore, State.ok_foldl, h]

@[simp] theorem State.symbolBad_mem (s : State) (e : SymErr) : (s.symbolBad e).mem = s.mem := by
  unfold State.symbolBad
  dsimp only
  repeat' split
  all_goals rfl

theorem ok_execPoolScrubRow {s : State} (core : Nat) (use : PoolUse) (bank row : Nat) (h : s.mem.ok) :
    okOutcome (execPoolScrubRow core use bank row s) := by simp [execPoolScrubRow, h]

/-! ## Translation and links (Machine/Translate.lean) -/

@[simp] theorem State.useCredit_mem (s : State) (p : Nat) : (s.useCredit p).mem = s.mem := rfl

@[simp] theorem State.walkDenied_mem (s : State) (troot va : Nat) : (s.walkDenied troot va).mem = s.mem := by
  unfold State.walkDenied
  split
  · rfl
  · exact State.foldl_mem _ _ (fun _ _ => State.denyRead_mem ..) s

@[simp] theorem State.queueMiss_mem (s : State) (c : Nat) (who : Agent) (ctx : Nat) (asn : BitVec 16) (va : DWord) :
    (s.queueMiss c who ctx asn va).mem = s.mem := by simp [State.queueMiss]

/-! ## Issue (Machine/Issue.lean) -/

@[simp] theorem State.breakMirror_mem (s : State) : s.breakMirror.mem = s.mem := rfl

@[simp] theorem State.ioSend_mem (s : State) (q : Req) : (s.ioSend q).mem = s.mem := rfl

@[simp] theorem State.ok_arriveTag {s : State} (t : Nat) (w : Waiter) (h : s.mem.ok) : (s.arriveTag t w).mem.ok :=
  State.ok_wakeTags (State.ok_meetScr t w.ofs w.len h)

@[simp] theorem State.countReplay_mem (s : State) (c : Nat) (u : Upset) : (s.countReplay c u).mem = s.mem := rfl

theorem State.ok_finishGang_of_ok {s : State} (x : Issue) (p : Word) (a : Act) (h : s.mem.ok) (ha : a.ok) : (s.finishGang x p a).mem.ok := by
  refine State.ok_finishGang x p a h fun t ht => ?_
  rcases ht with rfl | rfl | ⟨n, rfl⟩ | ⟨r, rfl⟩ <;> exact ha

theorem State.ok_finishSeq_of_ok {s : State} (x : Issue) (a : Act) (h : s.mem.ok) (ha : a.ok) : (s.finishSeq x a).mem.ok := by
  refine State.ok_finishSeq x a h fun t ht => ?_
  rcases ht with rfl | rfl | ⟨n, rfl⟩ <;> exact ha

theorem State.ok_issueChecked {s : State} (x : Issue) (i : Instr) {body : Issue → State → Act} (h : s.mem.ok)
    (hb : ∀ x t, t.mem.ok → (body x t).ok) :
    (s.issueChecked x i body).mem.ok := by
  have hf : ∀ {t : State} (a : Act), t.mem.ok → a.ok → (t.finishGang x (s.warp x.core x.warp).pmsel a).mem.ok :=
    fun a ht ha => State.ok_finishGang_of_ok x _ a ht ha
  unfold State.issueChecked
  dsimp only
  split
  · exact hf _ h h
  · split
    · exact hf _ h (hb _ _ h)
    · next u r _ =>
      have ht : (s.countReplay x.core u).mem.ok := by simpa using h
      have hbt := hb x _ ht
      split
      · exact hf _ ht ht
      · split
        · exact h
        · split
          · exact h
          · exact hf _ ht trivial
        · exact hf _ ht hbt

theorem State.ok_issueGang {s : State} (c w j : Nat) (i : Instr) {body : Issue → State → Act} (h : s.mem.ok)
    (hb : ∀ x t, t.mem.ok → (body x t).ok) :
    (s.issueGang c w j i body).mem.ok := by
  unfold State.issueGang
  dsimp only
  split
  · exact h
  · split
    · exact State.ok_finishGang_of_ok _ _ _ h trivial
    · split
      · exact h
      · exact State.ok_issueChecked _ _ (State.ok_meetRegs _ _ _ h) hb

theorem State.ok_issueSeq {s : State} (c b : Nat) (cp : Bool) (i : Instr) {body : Issue → State → Act} (h : s.mem.ok)
    (hb : ∀ x t, t.mem.ok → (body x t).ok) :
    (s.issueSeq c b cp i body).mem.ok := by
  have hacts : ∀ (x : Issue) (l : List Nat) {t : State}, t.mem.ok → (if l.isEmpty then .done t else body x t : Act).ok := by
    intro x l t ht
    simp -implicitDefEqProofs [ht, hb]
  have hfin : ∀ (x : Issue) (a : Act) {t : State}, t.mem.ok → a.ok → (t.finishSeq x a).mem.ok := fun x a _ => State.ok_finishSeq_of_ok x a
  have hfault : ∀ x : Issue, (s.finishSeq x (.fault [] cII 0)).mem.ok := fun x => hfin x _ h (Act.ok_fault ..)
  have ht : ∀ u, (s.countReplay c u).mem.ok := fun u => by simpa using h
  unfold State.issueSeq
  simp only [State.mem_ite, Mem.ok_ite]
  refine ⟨fun _ => h, fun _ => ⟨fun _ => hfault _, fun _ => ?_⟩⟩
  split
  · exact hfin _ _ h (hacts _ _ h)
  · next u _ =>
    simp only [State.mem_ite, Mem.ok_ite]
    refine ⟨fun _ => ?_, fun _ => ?_⟩
    · simpa using State.ok_postMc _ _ _ _ _ _ (ht u)
    · split
      · exact h
      · exact hfin _ _ (ht u) (hacts _ _ (ht u))

theorem State.ok_issue {s : State} (i : Instr) {lane seq : Issue → State → Act} (h : s.mem.ok)
    (hl : ∀ x t, t.mem.ok → (lane x t).ok) (hs : ∀ x t, t.mem.ok → (seq x t).ok) : okOutcome (s.issue i lane seq) := by
  unfold State.issue
  split
  · exact (okOutcome_next _).mpr (State.ok_issueGang _ _ _ _ h hl)
  · exact (okOutcome_next _).mpr (State.ok_issueSeq _ _ _ _ h hs)
  all_goals exact okOutcome_refused _

theorem State.ok_issueLane {s : State} (i : Instr) {body : Issue → State → Act} (h : s.mem.ok) (hb : ∀ x t, t.mem.ok → (body x t).ok) :
    okOutcome (s.issueLane i body) := State.ok_issue i h hb fun _ _ _ => trivial

theorem State.ok_issueStream {s : State} (i : Instr) {body : Issue → State → Act} (h : s.mem.ok) (hb : ∀ x t, t.mem.ok → (body x t).ok) :
    okOutcome (s.issueStream i body) := State.ok_issue i h (fun _ _ _ => trivial) hb

theorem State.ok_issueAlu {s : State} (i : Instr) (f : RF → List Nat → RF) (h : s.mem.ok) : okOutcome (s.issueAlu i f) :=
  State.ok_issue i h (fun _ _ ht => by simpa using ht) (fun _ _ ht => by simpa using ht)

/-! ## Fetch (Machine/Fetch.lean) -/

@[simp] theorem State.startFill_mem (s : State) (c : Nat) (asn : BitVec 16) (va leaf : DWord) (pa : Nat) :
    (s.startFill c asn va leaf pa).mem = s.mem := by simp [State.startFill]

@[simp] theorem State.fetchFault_mem (s : State) (who : Agent) (code : BitVec 8) (fva : DWord) : (s.fetchFault who code fva).mem = s.mem := by
  unfold State.fetchFault
  split <;> simp

@[simp] theorem State.countFill_mem (s : State) (x1 : Agent) : (s.countFill x1).mem = s.mem := by
  unfold State.countFill
  split <;> rfl

theorem ok_execInstructionFetch {s : State} (who : Agent) (h : s.mem.ok) : okOutcome (execInstructionFetch who s) := by
  unfold execInstructionFetch
  rw [okOutcome_next]
  dsimp only
  repeat' split
  all_goals simp [h]

@[simp] theorem State.ok_fetchCheck {s : State} (c w j : Nat) (opw : DWord) (h : s.mem.ok) : (s.fetchCheck c w j opw).mem.ok := by
  simp [State.fetchCheck, h, State.ok_machineCheck]

theorem ok_execIcacheFillArrival {s : State} (core fill : Nat) (h : s.mem.ok) : okOutcome (execIcacheFillArrival core fill s) := by
  have hc : ∀ (t : State) (o : Option Nat), ((o.map t.useCredit).getD t).mem = t.mem := fun t o => by cases o <;> simp
  have hv : ∀ (t : State) (n : Nat) (o : Option Nat), ((o.map fun r => t.moves r n).getD t).mem = t.mem := fun t n o => by cases o <;> simp
  unfold execIcacheFillArrival
  rw [okOutcome_next]
  dsimp only
  split
  · exact h
  · simp [h, hc, hv]

/-! ## Accesses (Machine/Access.lean) -/

@[simp] theorem State.queueAll_mem (s : State) (x : Issue) (chks : List Chk) : (s.queueAll x chks).mem = s.mem := by
  refine State.foldl_mem _ _ (fun t k => ?_) s
  cases k
  · rfl
  · rfl
  · exact State.queueMiss_mem ..

/-- A check of lanes that stops an instruction leaves the memories as they were. -/
theorem State.ok_checkLanes {s : State} {x : Issue} {lanes : List Nat} {chk : Nat → Chk} {a : Act} (h : s.mem.ok)
    (e : s.checkLanes x lanes chk = .stop a) : a.ok := by
  unfold State.checkLanes at e
  split at e
  · cases e
  · split at e <;> cases e
    · exact trivial
    · simpa using h

theorem Issue.ok_whole (x : Issue) (once : Bool) {a : Act} (ha : a.ok) : (x.whole once a).ok := by
  cases a <;> exact ha

@[simp] theorem State.leave_mem (s : State) (ids : List Nat) : (s.leave ids).mem = s.mem := by simp [State.leave]

@[simp] theorem State.leaveFirst_mem (s : State) (r : Req) : (s.leaveFirst r).mem = s.mem := by simp [State.leaveFirst]

@[simp] theorem State.track_mem (s : State) (uid : Nat) (m : BitVec 8) (upTo : Nat) : (s.track uid m upTo).mem = s.mem := by simp [State.track]

@[simp] theorem State.transmit_mem (s : State) (r : Req) : (s.transmit r).mem = s.mem := by
  unfold State.transmit
  dsimp only
  repeat' split
  all_goals rfl

@[simp] theorem State.send_mem (s : State) (rs : List Req) : (s.send rs).mem = s.mem := by
  unfold State.send
  dsimp only
  split
  · refine (State.track_mem _ _ _ _).trans (State.foldl_mem _ _ (fun t r => ?_) s)
    split <;> simp
  · refine State.foldl_mem _ _ (fun t r => ?_) s
    split <;> simp

@[simp] theorem State.trackSlices_mem (s : State) (c w : Nat) (m : BitVec 8) : (s.trackSlices c w m).mem = s.mem := by simp [State.trackSlices]

@[simp] theorem Issue.settled_mem (x : Issue) (s : State) : (Issue.settled x s).mem = s.mem := rfl

/-! ## Loads, stores, cache control, fences (Machine/Memory.lean) -/

theorem ok_execLd {s : State} (f : FmtM) (h : s.mem.ok) : okOutcome (execLd f s) := by
  refine State.ok_issueLane _ h fun x t ht => ?_
  dsimp only
  split
  · exact ht
  · split
    · next e => exact Issue.ok_whole _ _ (State.ok_checkLanes ht e)
    · simpa using ht

@[simp] theorem State.ok_storeLanes {s : State} (x : Issue) (f : FmtM) (op : Nat) (h : s.mem.ok) : (s.storeLanes x f op).ok := by
  unfold State.storeLanes
  dsimp only
  split
  · exact h
  · split
    · next e => exact Issue.ok_whole _ _ (State.ok_checkLanes h e)
    · simpa using h

theorem ok_execSt {s : State} (f : FmtM) (h : s.mem.ok) : okOutcome (execSt f s) := by
  refine State.ok_issueLane _ h fun x t ht => ?_
  simp [ht]

theorem ok_execSte {s : State} (f : FmtM) (h : s.mem.ok) : okOutcome (execSte f s) := by
  refine State.ok_issueLane _ h fun x t ht => ?_
  simp [ht]

theorem ok_execTagclr {s : State} (f : FmtM) (h : s.mem.ok) : okOutcome (execTagclr f s) := by
  refine State.ok_issueLane _ h fun x t ht => ?_
  simp [ht]

@[simp] theorem State.ok_fullEmpty {s : State} (x : Issue) (f : FmtM) (full keep : Bool) (h : s.mem.ok) : (s.fullEmpty x f full keep).ok := by
  unfold State.fullEmpty
  dsimp only
  split
  · exact trivial
  split
  · exact h
  split
  · next e => exact Issue.ok_whole _ _ (State.ok_checkLanes h e)
  rw [Act.ok_ite]
  refine ⟨fun _ => trivial, fun _ => ?_⟩
  have hmeet : ∀ ws : List (Nat × Waiter), (ws.foldl (fun s p => s.meetScr p.1 p.2.ofs p.2.len) s).mem.ok := fun ws =>
    State.ok_foldl ws _ (fun _ _ ht => State.ok_meetScr _ _ _ ht) h
  have harrive : ∀ (ws : List (Nat × Waiter)) {t : State}, t.mem.ok → (ws.foldl (fun s p => s.arriveTag p.1 p.2) t).mem.ok := fun ws _ ht =>
    State.ok_foldl ws _ (fun _ _ ht => State.ok_arriveTag _ _ ht) ht
  split
  · exact hmeet _
  · rw [Act.ok_go]
    split
    all_goals
      simp only [State.modWarp_mem, State.park_mem, Issue.settled_mem]
      refine harrive _ ?_
      split <;> simpa using hmeet _

theorem ok_execLdf {s : State} (f : FmtM) (h : s.mem.ok) : okOutcome (execLdf f s) := by
  refine State.ok_issueLane _ h fun x t ht => ?_
  simp [ht]

theorem ok_execLdfk {s : State} (f : FmtM) (h : s.mem.ok) : okOutcome (execLdfk f s) := by
  refine State.ok_issueLane _ h fun x t ht => ?_
  simp [ht]

theorem ok_execStf {s : State} (f : FmtM) (h : s.mem.ok) : okOutcome (execStf f s) := by
  refine State.ok_issueLane _ h fun x t ht => ?_
  simp [ht]

theorem State.ok_hint {s : State} (x : Issue) (f : FmtM) (w : Want) {act : State → Nat → State} (h : s.mem.ok)
    (ha : ∀ t l, t.mem.ok → (act t l).mem.ok) : (s.hint x f w act).ok := by
  unfold State.hint
  dsimp only
  split
  · rw [Act.ok_done, Issue.settled_mem]
    exact State.ok_foldl _ _ ha h
  · rw [Act.ok_miss, State.foldl_mem _ _ fun _ _ => State.queueMiss_mem ..]
    exact h

@[simp] theorem State.ok_prefetch {s : State} (x : Issue) (f : FmtM) (lane : Nat) (h : s.mem.ok) : (s.prefetch x f lane).mem.ok := by
  unfold State.prefetch
  split
  · simp -implicitDefEqProofs [h, Mem.ok_touchLine, Mem.ok_fillPeer]
  · exact h
  · exact h

theorem ok_execPref {s : State} (f : FmtM) (h : s.mem.ok) : okOutcome (execPref f s) :=
  State.ok_issueLane _ h fun x _ ht => State.ok_hint x f _ ht fun _ l => State.ok_prefetch x f l

@[simp] theorem State.prefetchCode_mem (s : State) (x : Issue) (f : FmtM) (lane : Nat) : (s.prefetchCode x f lane).mem = s.mem := by
  unfold State.prefetchCode
  split <;> simp

theorem ok_execIpref {s : State} (f : FmtM) (h : s.mem.ok) : okOutcome (execIpref f s) :=
  State.ok_issueLane _ h fun x t ht => State.ok_hint x f _ ht fun u l hu => by simpa using hu

theorem State.ok_cacheControl {s : State} (x : Issue) (f : FmtM) (ordered : Bool) {op : Mem → Home → Mem} (h : s.mem.ok)
    (hop : ∀ m a, m.ok → (op m a).ok) : (s.cacheControl x f ordered op).ok := by
  unfold State.cacheControl
  dsimp only
  split
  · next e => exact Issue.ok_whole _ _ (State.ok_checkLanes h e)
  · split
    · exact trivial
    · rw [Act.ok_done, Issue.settled_mem]
      exact Mem.ok_foldl _ _ hop h

theorem ok_execCctlWb {s : State} (f : FmtM) (h : s.mem.ok) : okOutcome (execCctlWb f s) :=
  State.ok_issueLane _ h fun x _ ht => State.ok_cacheControl x f _ ht fun _ => Mem.ok_writeBack

theorem ok_execCctlEvict {s : State} (f : FmtM) (h : s.mem.ok) : okOutcome (execCctlEvict f s) :=
  State.ok_issueLane _ h fun x _ ht => State.ok_cacheControl x f _ ht fun _ => Mem.ok_evict

theorem ok_execCctlPdrop {s : State} (f : FmtM) (h : s.mem.ok) : okOutcome (execCctlPdrop f s) :=
  State.ok_issueLane _ h fun x _ ht => State.ok_cacheControl x f _ ht fun _ => Mem.ok_peerDrop

theorem ok_execFence {s : State} (f : FmtM) (h : s.mem.ok) : okOutcome (execFence f s) := by
  refine State.ok_issueLane _ h fun x t ht => ?_
  simp [ht]

theorem ok_execFencemir {s : State} (f : FmtM) (h : s.mem.ok) : okOutcome (execFencemir f s) := by
  refine State.ok_issueLane _ h fun x t ht => ?_
  simp [ht]

theorem ok_execIsync {s : State} (f : FmtM) (h : s.mem.ok) : okOutcome (execIsync f s) := by
  refine State.ok_issueLane _ h fun x t ht => ?_
  simp [ht]

/-! ## Accesses at their homes (Machine/Home.lean) -/

@[simp] theorem State.dropReq_mem (s : State) (id : Nat) : (s.dropReq id).mem = s.mem := rfl

@[simp] theorem State.ldaRead_mem (s : State) (r : Req) (v : BitVec 128) (pois : Bool) : (s.ldaRead r v pois).mem = s.mem := by
  simp [State.ldaRead]

@[simp] theorem State.copyDone_mem (s : State) (c id : Nat) : (s.copyDone c id).mem = s.mem := by simp [State.copyDone]

@[simp] theorem State.copyTook_mem (s : State) (r : Req) (v : BitVec 128) (pois : Bool) : (s.copyTook r v pois).mem = s.mem := by
  unfold State.copyTook
  split <;> simp

@[simp] theorem State.ok_complete {s : State} (r : Req) (pois : Bool) (replies : List (BitVec 128)) (h : s.mem.ok) :
    (s.complete r pois replies).mem.ok := by simp [State.complete, h, State.ok_retire]

@[simp] theorem State.ok_performed {s : State} (r : Req) (pois : Bool) (replies : List (BitVec 128)) (raw : List Byte) (h : s.mem.ok) :
    (s.performed r pois replies raw).mem.ok := by simp [State.performed, h]

@[simp] theorem State.countConf_mem (s : State) (r : Req) : (s.countConf r).mem = s.mem := by simp [State.countConf]

@[simp] theorem State.ok_homeWrite {s : State} (a : Home) (bs : List Byte) (h : s.mem.ok) : (s.homeWrite a bs).mem.ok := by
  unfold State.homeWrite
  split
  · exact h
  · exact State.ok_storeGlobal _ _ _ h

@[simp] theorem State.ok_homeTouch {s : State} (r : Req) (dirty : Bool) (h : s.mem.ok) : (s.homeTouch r dirty).mem.ok := by
  simp -implicitDefEqProofs [State.homeTouch, h, Mem.ok_touchLine]

@[simp] theorem State.mirrorSend_mem (s : State) (r : Req) (rs : List Req) (bs : List Byte) : (s.mirrorSend r rs bs).mem = s.mem := by
  simp [State.mirrorSend]

@[simp] theorem State.ok_homeMeet {s : State} (a : Home) (len : Nat) (h : s.mem.ok) : (s.homeMeet a len).mem.ok := by
  unfold State.homeMeet
  split
  · exact State.ok_meetScr _ _ _ h
  · exact h

theorem Mem.ok_setPeerRd {m : Mem} (p : Sparse (Option (List Byte))) (h : m.ok) : ({ m with peerRd := p } : Mem).ok := h

@[simp] theorem State.ok_peerFill {s : State} (a : Home) (pol : Nat) (h : s.mem.ok) : (s.peerFill a pol).mem.ok := by
  simp -implicitDefEqProofs [State.peerFill, h, Mem.ok_fillPeer, Mem.ok_setPeerRd]

@[simp] theorem State.ok_performLoad {s : State} (r : Req) (h : s.mem.ok) : (s.performLoad r).mem.ok := by
  have hm := State.ok_homeMeet r.home r.len (State.ok_peerFill r.home r.pol h)
  simp -implicitDefEqProofs [State.performLoad, hm]

@[simp] theorem State.ok_performStore {s : State} (r : Req) (h : s.mem.ok) : (s.performStore r).mem.ok := by
  have hend : ∀ bs (t : State), t.mem.ok → ((((t.mirrorSend r [r] bs).homeTouch r true).countConf r).performed r false [] []).mem.ok :=
    fun bs t ht => by simp -implicitDefEqProofs (maxDischargeDepth := 4) [ht]
  have hw : ∀ bs, (if r.pois then (if r.op = 2 then s else s.homeWrite r.home bs).poisonMem r.home.loc (r.home.addr / 16)
      else if r.op = 2 then s else s.homeWrite r.home bs).mem.ok := fun bs => by
    simp -implicitDefEqProofs [h]
  simp only [State.performStore, State.mem_ite (r.op = 0), Mem.ok_ite]
  refine ⟨fun h0 => hend _ _ ?_, fun h0 => State.ok_wakeTags (hend _ _ ?_)⟩
  all_goals
    rw [State.mem_ite, Mem.ok_ite]
    exact ⟨fun _ => hw _, fun _ => hw _⟩

@[simp] theorem State.ok_lose {s : State} (r : Req) (h : s.mem.ok) : (s.lose r).mem.ok := by simp [State.lose, h]

theorem ok_execHomeAccessPerform {s : State} (req : Nat) (h : s.mem.ok) : okOutcome (execHomeAccessPerform req s) := by
  unfold execHomeAccessPerform
  rw [okOutcome_next]
  dsimp only
  repeat' split
  all_goals simp [h]

@[simp] theorem State.ok_gcmFail {s : State} (line : Nat) (h : s.mem.ok) : (s.gcmFail line).mem.ok := by
  simp only [State.gcmFail, State.mem_ite, Mem.ok_ite]
  exact ⟨fun _ => h, fun _ => Mem.ok_foldl _ _ (fun _ _ hm => Mem.ok_setPoison 0 _ _ hm) h⟩

@[simp] theorem State.checkMirror_mem (s : State) : s.checkMirror.mem = s.mem := by simp [State.checkMirror]

@[simp] theorem State.loseFills_mem (s : State) : s.loseFills.mem = s.mem := by simp [State.loseFills]

@[simp] theorem State.ok_dropUnrouted {s : State} (h : s.mem.ok) : s.dropUnrouted.mem.ok := by
  simp +contextual [State.dropUnrouted, State.ok_foldl, h]

@[simp] theorem State.resendMirror_mem (s : State) (p : Nat) : (s.resendMirror p).mem = s.mem := by
  unfold State.resendMirror
  refine State.foldl_mem _ _ (fun t m => ?_) s
  split <;> simp

@[simp] theorem State.reroute_mem (s : State) (p : Nat) : (s.reroute p).mem = s.mem := by
  simp -implicitDefEqProofs [State.reroute, State.foldl_mem]

@[simp] theorem State.ok_performAtom {s : State} (r : Req) (old : DWord) (h : s.mem.ok) : (s.performAtom r old).mem.ok := by
  unfold State.performAtom
  refine State.ok_foldl _ _ (fun _ _ ht => State.ok_performed _ _ _ _ ht) ?_
  simp -implicitDefEqProofs [h]

theorem ok_execAtomHomePerform {s : State} (req : Nat) (h : s.mem.ok) : okOutcome (execAtomHomePerform req s) := by
  unfold execAtomHomePerform
  rw [okOutcome_next]
  dsimp only
  repeat' split
  all_goals simp [h]

theorem ok_execRouterRequestArrival {s : State} (entry arriving : Nat) (h : s.mem.ok) : okOutcome (execRouterRequestArrival entry arriving s) := by
  unfold execRouterRequestArrival
  split <;> simp [h]

@[simp] theorem State.ok_writeBack {s : State} (req : Nat) (h : s.mem.ok) : (s.writeBack req).mem.ok := by
  unfold State.writeBack
  dsimp only
  repeat' split
  all_goals simp [h, State.ok_machineCheck]

/-! ## Atomics (Machine/Atomic.lean) -/

theorem State.ok_atomIssue {s : State} (i : Instr) (f : FmtM) (op : Nat) (h : s.mem.ok) : okOutcome (s.atomIssue i f op) := by
  refine State.ok_issueLane _ h fun x t ht => ?_
  dsimp only
  split
  · exact ht
  · split
    · next e => exact Issue.ok_whole _ _ (State.ok_checkLanes ht e)
    · simpa using ht

/-! ## The copy engine (Machine/Copy.lean) -/

@[simp] theorem State.setRfOf_mem (s : State) (x : Issue) (r : RF) : (s.setRfOf x r).mem = s.mem := by simp [State.setRfOf]

@[simp] theorem Issue.ok_fault (x : Issue) (code : BitVec 8) (fva : DWord) : (Issue.fault x code fva).ok := trivial

@[simp] theorem State.ok_rowMc {s : State} (x : Issue) (lane row : Nat) (h : s.mem.ok) : (s.rowMc x lane row).ok := by simp [State.rowMc, h]

@[simp] theorem State.ok_startCopies {s : State} (x : Issue) (f : FmtM) (h : s.mem.ok) : (s.startCopies x f).ok := by
  have hm : ((s.copyRings x f).foldl (fun s a => s.meetScr x.core a 16) s).mem.ok :=
    State.ok_foldl _ _ (fun _ _ ht => State.ok_meetScr _ _ _ ht) h
  unfold State.startCopies
  dsimp only
  generalize (s.copyRings x f).foldl (fun s a => s.meetScr x.core a 16) s = u at hm ⊢
  split
  · exact h
  split
  · exact trivial
  split
  · exact Issue.ok_whole _ _ trivial
  · exact hm
  · exact trivial
  · have hq : ∀ (rs : List CopyRec) (t : State), (rs.foldl (fun t r =>
        { t with nextId := t.nextId + 1 }.modCore x.core fun k => { k with apq := k.apq ++ [{ r with id := t.nextId : CopyRec }] }) t).mem = t.mem :=
      fun rs t => by
        refine State.foldl_mem rs _ (fun _ _ => ?_) t
        rfl
    split <;> simpa [hq] using hm

theorem ok_execXstart {s : State} (f : FmtM) (h : s.mem.ok) : okOutcome (execXstart f s) := by
  refine State.ok_issue _ h (fun x t ht => State.ok_startCopies x f ht) fun x t ht => ?_
  have hc := State.ok_startCopies x f ht
  split
  · next e => rwa [e] at hc
  · exact hc

@[simp] theorem State.ok_copyIssued {s : State} (c : Nat) (r : CopyRec) (waiting : List CopyRec) (h : s.mem.ok) :
    (s.copyIssued c r waiting).mem.ok := by
  unfold State.copyIssued
  split <;> simp [h, State.ok_advance]

theorem ok_execCopyAccept {s : State} (core : Nat) (h : s.mem.ok) : okOutcome (execCopyAccept core s) := by
  unfold execCopyAccept
  rw [okOutcome_next]
  dsimp only
  split
  · exact h
  · simp -implicitDefEqProofs [h]

@[simp] theorem State.ok_putBits {s : State} (a : Home) (bit n v : Nat) (h : s.mem.ok) : (s.putBits a bit n v).mem.ok := State.ok_homeWrite _ _ h

@[simp] theorem State.ok_poisonAt {s : State} (a : Home) (h : s.mem.ok) : (s.poisonAt a).mem.ok := by
  unfold State.poisonAt
  split
  · exact h
  · exact State.ok_poisonMem _ _ h

theorem Mem.ok_pinLine {m : Mem} (l : Lease) (line seq : Nat) (h : m.ok) : (m.pinLine l line seq).ok := by
  unfold Mem.pinLine
  dsimp only
  repeat' split
  all_goals exact h

@[simp] theorem State.ok_copyLine {s : State} (r : CopyRec) (leaf : DWord) (pa : Nat) (h : s.mem.ok) : (s.copyLine r leaf pa).mem.ok := by
  unfold State.copyLine
  dsimp only
  split
  · exact Mem.ok_touchLine _ _ _ h
  · exact Mem.ok_pinLine _ _ _ h

@[simp] theorem State.sendCopy_mem (s : State) (q : Req) : (s.sendCopy q).mem = s.mem := by simp [State.sendCopy]

@[simp] theorem State.askPeer_mem (s : State) (c : Nat) (r : CopyRec) : (s.askPeer c r gs).mem = s.mem :=
  State.foldl_mem _ _ (fun _ _ => by simp) s

@[simp] theorem State.copyMirror_mem (s : State) (hm : Home) (len : Nat) (leaf : DWord) : (s.copyMirror hm len leaf).mem = s.mem := by
  simp [State.copyMirror]

@[simp] theorem State.ok_moveElem {s : State} (c : Nat) (r : CopyRec) (out : PeerBits) (e : Elem) (h : s.mem.ok) : (s.moveElem c r out e).1.mem.ok := by
  unfold State.moveElem
  dsimp only
  split
  · next hs bs _ hd bd leaf _ _ =>
    have hr : (s.denyRead hs.loc hs.addr (bitBytes bs (cardW r.card))).mem.ok := by simpa using h
    split
    · exact hr
    · have hput := fun n v => State.ok_putBits hd bd n v hr
      split
      · exact State.ok_copyLine _ _ _ (by split <;> simp -implicitDefEqProofs [hput])
      · dsimp only
        split <;> simp -implicitDefEqProofs [hput]
  · exact h

@[simp] theorem State.ok_moveElems {s : State} (c : Nat) (r : CopyRec) (es : List Elem) (h : s.mem.ok) : (s.moveElems c r es).1.mem.ok := by
  unfold State.moveElems
  generalize hb : ([] : List (Nat × Nat)) = bad
  clear hb
  generalize hp : ([] : PeerBits) = out
  clear hp
  induction es generalizing s out bad with
  | nil => exact h
  | cons e es ih => exact ih (State.ok_moveElem _ _ _ _ h) _ _

@[simp] theorem State.tellPeer_mem (s : State) (c : Nat) (r : CopyRec) (out : PeerBits) : (s.tellPeer c r out).mem = s.mem :=
  State.foldl_mem _ _ (fun _ _ => by simp) s

@[simp] theorem State.ok_clearCovered {s : State} (c : Nat) (r : CopyRec) (es : List Elem) (bad : List (Nat × Nat)) (h : s.mem.ok) :
    (s.clearCovered c r es bad).mem.ok := by
  unfold State.clearCovered
  refine State.ok_foldl _ _ (fun t p ht => ?_) h
  repeat' split
  · exact ht
  · exact ht
  · exact ht
  · exact Mem.ok_setPoison _ _ _ ht

@[simp] theorem State.copyFault_mem (s : State) (c : Nat) (r : CopyRec) (code : BitVec 8) (fva : DWord) : (s.copyFault c r code fva).mem = s.mem :=
  rfl

@[simp] theorem State.ok_meetSources {s : State} (c : Nat) (r : CopyRec) (es : List Elem) (h : s.mem.ok) : (s.meetSources c r es).mem.ok := by
  unfold State.meetSources
  split
  · exact h
  · refine State.ok_foldl _ _ (fun t e ht => ?_) h
    split
    · exact State.ok_homeMeet _ _ ht
    all_goals exact ht

theorem ok_execCopyChunk {s : State} (core job : Nat) (h : s.mem.ok) : okOutcome (execCopyChunk core job s) := by
  have hm : ∀ (r : CopyRec) es, ((if cardSsp r.card && cardDsp r.card then s else s.moves (s.ctx r.ctx).rcb 0).meetSources core r es).mem.ok :=
    fun r es => State.ok_meetSources _ _ _ (by split <;> simpa using h)
  have hc := fun r es es' bad => State.ok_clearCovered core r es' bad (State.ok_moveElems core r es (hm r es))
  unfold execCopyChunk
  rw [okOutcome_next]
  dsimp only
  split
  · exact h
  simp only [State.mem_ite, Mem.ok_ite]
  refine ⟨fun _ => h, fun _ => ⟨fun _ => by simpa using h, fun _ => ?_⟩⟩
  split
  · simpa using h
  · simp only [State.mem_ite, Mem.ok_ite]
    refine ⟨fun _ => ?_, fun _ => ⟨fun _ => h, fun _ => ⟨fun _ => ⟨fun _ => h, fun _ => by simpa using h⟩, fun _ => ?_⟩⟩⟩
    · simpa -implicitDefEqProofs [State.foldl_mem] using h
    · refine ⟨fun _ => ?_, fun _ => ?_⟩ <;> simpa using hc _ _ _ _

@[simp] theorem State.ok_meetArrival {s : State} (c hdr slot : Nat) (h : s.mem.ok) : (s.meetArrival c hdr slot).mem.ok := by
  simp [State.meetArrival, h, State.ok_meetScr]

theorem ok_execCopyArrival {s : State} (core job : Nat) (h : s.mem.ok) : okOutcome (execCopyArrival core job s) := by
  unfold execCopyArrival
  rw [okOutcome_next]
  dsimp only
  split
  · exact h
  split
  · exact h
  · exact State.ok_retire _ _ (State.ok_meetArrival _ _ _ h)

@[simp] theorem State.sendLda_mem (s : State) (x : Issue) (f : FmtM) (inst : Nat) (a : LaneAcc) (dst slot hdr : Nat) :
    (s.sendLda x f inst a dst slot hdr).mem = s.mem := by simp [State.sendLda]

theorem ok_execLda16 {s : State} (f : FmtM) (h : s.mem.ok) : okOutcome (execLda16 f s) := by
  have hm : ∀ {t : State} (x : Issue) (lanes : List Nat), t.mem.ok →
      (lanes.foldl (fun t l => t.meetScr x.core (fieldN (ringWord (t.warp x.core x.warp).rf f.v l) 0 24) 16) t).mem.ok := fun x lanes ht =>
    State.ok_foldl lanes _ (fun _ _ ht => State.ok_meetScr _ _ _ ht) ht
  refine State.ok_issueLane _ h fun x t ht => ?_
  dsimp only
  split
  · exact ht
  split
  · exact Issue.ok_whole _ _ trivial
  · exact hm x _ ht
  · rw [Act.ok_miss, State.foldl_mem]
    · exact hm x _ ht
    · intro u l
      split <;> simp
  · exact trivial
  · rw [Act.ok_ite]
    refine ⟨fun _ => trivial, fun _ => ?_⟩
    rw [Act.ok_done, Issue.settled_mem, State.foldl_mem]
    · simpa using hm x _ ht
    · intro u l
      split <;> simp

theorem ok_execLda16Arrival {s : State} (core id : Nat) (h : s.mem.ok) : okOutcome (execLda16Arrival core id s) := by
  unfold execLda16Arrival
  rw [okOutcome_next]
  dsimp only
  split
  · exact h
  split
  · exact h
  · exact State.ok_retire _ _ (State.ok_meetArrival _ _ _ h)

/-! ## Cards, rings, descriptors, leases (Machine/Rings.lean) -/

@[simp] theorem State.putOnce_mem (s : State) (x : Issue) (n : Nat) (d : BitVec 8) (v : DWord) : (s.putOnce x n d v).mem = s.mem := by
  simp [State.putOnce]

theorem State.ok_issueOnce {s : State} (i : Instr) {body : Issue → State → Act} (h : s.mem.ok) (hb : ∀ x t, t.mem.ok → (body x t).ok) :
    okOutcome (s.issueOnce i body) := by
  have hacts : ∀ x t, t.mem.ok → (if x.acting.isEmpty then .done t else body x t : Act).ok := by
    intro x t ht
    split
    · exact ht
    · exact hb x t ht
  exact State.ok_issue i h hacts hacts

@[simp] theorem State.parkOnSlot_mem (s : State) (x : Issue) (sls : List Nat) (p : Park) (d : BitVec 8) (at_ : Nat) :
    (s.parkOnSlot x sls p d at_).mem = s.mem := by simp [State.parkOnSlot]

@[simp] theorem State.ok_setCard {s : State} (x : Issue) (f : FmtY) (h : s.mem.ok) : (s.setCard x f).ok := by
  have hm := State.ok_meetScr x.core (fieldN ((s.rfOf x).read1 f.a x.low) 0 24) 384 h
  unfold State.setCard
  simp only [Act.ok_ite]
  refine ⟨fun _ => trivial, fun _ => ⟨fun _ => trivial, fun _ => ⟨fun _ => trivial, fun _ => ⟨fun _ => trivial, fun _ => ⟨fun _ => trivial,
    fun _ => ⟨fun _ => trivial, fun _ => ?_⟩⟩⟩⟩⟩⟩
  split
  · exact hm
  · simp only [Act.ok_ite]
    exact ⟨fun _ => trivial, fun _ => ⟨fun _ => hm, fun _ => hm⟩⟩

theorem ok_execXtset {s : State} (f : FmtY) (h : s.mem.ok) : okOutcome (execXtset f s) := by
  refine State.ok_issueOnce _ h fun x t ht => ?_
  simp [ht]

theorem ok_execXquery {s : State} (f : FmtY) (h : s.mem.ok) : okOutcome (execXquery f s) := by
  refine State.ok_issueOnce _ h fun x t ht => ?_
  split <;> simp [ht]

theorem State.ok_ringFault {s : State} {x : Issue} {a : Word} {len : Nat} {act : Act} (e : s.ringFault x a len = some act) : act.ok := by
  unfold State.ringFault at e
  repeat' split at e
  all_goals cases e <;> exact trivial

theorem ok_execRinginit {s : State} (f : FmtY) (h : s.mem.ok) : okOutcome (execRinginit f s) := by
  refine State.ok_issueOnce _ h fun x t ht => ?_
  dsimp only
  split
  · next e => exact State.ok_ringFault e
  · simp -implicitDefEqProofs [ht]

theorem State.ok_nameSlot {s : State} {x : Issue} {a : Word} {n : Nat} {act : Act} (h : s.mem.ok) (e : s.nameSlot x a n = .inr act) : act.ok := by
  unfold State.nameSlot at e
  dsimp only at e
  repeat' split at e
  all_goals cases e
  · next e => exact State.ok_ringFault e
  · exact trivial
  · exact h
  · exact trivial
  · exact trivial
  · exact trivial
  · exact h

@[simp] theorem State.ok_meetRing {s : State} (x : Issue) (a : Word) (n : Nat) (h : s.mem.ok) : (s.meetRing x a n).mem.ok := by
  simp [State.meetRing, h, State.ok_meetScr]

@[simp] theorem State.ok_awaitSlot {s : State} (x : Issue) (f : FmtY) (n : Nat) (sls : List Nat) (p : Park)
    (next rest : List (Nat × DWord)) (h : s.mem.ok) : (s.awaitSlot x f n sls p next rest).ok := by
  have hgo : ∀ {t : State} (at_ : Nat), t.mem.ok → (Act.go (if x.again && !x.slices.isEmpty then
      (t.putOnce x 1 f.d (BitVec.ofNat 64 (at_ + 16))).modWarp x.core x.warp fun w => w.mark f.d 1 sls false
      else t.putOnce x 1 f.d (BitVec.ofNat 64 (at_ + 16))) next).ok := by
    intro t at_ ht
    rw [Act.ok_go]
    split <;> simpa using ht
  have hm := State.ok_meetRing x ((s.rfOf x).read1 f.a x.low) n h
  unfold State.awaitSlot
  dsimp only
  split
  · split
    · exact hgo _ h
    · exact trivial
  · split
    · split
      · simpa using hm
      · exact trivial
    · next e => exact State.ok_nameSlot hm e
    · split
      · exact hgo _ hm
      · simpa using hm

theorem ok_execAwaitf {s : State} (f : FmtY) (h : s.mem.ok) : okOutcome (execAwaitf f s) := by
  refine State.ok_issueOnce _ h fun x t ht => ?_
  simp [ht]

theorem ok_execYieldc {s : State} (f : FmtY) (h : s.mem.ok) : okOutcome (execYieldc f s) := by
  refine State.ok_issueOnce _ h fun x t ht => ?_
  simp [ht]

@[simp] theorem State.ok_release {s : State} (x : Issue) (f : FmtY) (e : Option Nat) (h : s.mem.ok) : (s.release x f e).ok := by
  have hm := fun n => State.ok_meetRing x ((s.rfOf x).read1 f.a x.low) n h
  unfold State.release
  dsimp only
  split
  · next ha => exact State.ok_nameSlot (hm _) ha
  · split
    · exact trivial
    · exact hm _

theorem ok_execRels {s : State} (f : FmtY) (h : s.mem.ok) : okOutcome (execRels f s) := by
  refine State.ok_issueOnce _ h fun x t ht => ?_
  simp [ht]

theorem ok_execRelsKeep {s : State} (f : FmtY) (h : s.mem.ok) : okOutcome (execRelsKeep f s) := by
  refine State.ok_issueOnce _ h fun x t ht => ?_
  simp [ht]

@[simp] theorem State.ok_putDesc {s : State} (x : Issue) (n : Nat) (d : BitVec 256) (h : s.mem.ok) : (s.putDesc x n d).ok := by
  unfold State.putDesc
  split
  · exact trivial
  · exact h

theorem ok_execDset {s : State} (f : FmtS) (h : s.mem.ok) : okOutcome (execDset f s) := by
  refine State.ok_issueOnce _ h fun x t ht => ?_
  dsimp only
  repeat' split
  all_goals simp [ht, State.ok_meetScr]

theorem ok_execDsetW {s : State} (f : FmtS) (h : s.mem.ok) : okOutcome (execDsetW f s) := by
  refine State.ok_issueOnce _ h fun x t ht => ?_
  simp [ht]

@[simp] theorem State.ok_endLease {s : State} (id : Nat) (h : s.mem.ok) : (s.endLease id).mem.ok := h

theorem ok_execLease {s : State} (f : FmtS) (h : s.mem.ok) : okOutcome (execLease f s) := by
  refine State.ok_issueOnce _ h fun x t ht => ?_
  have hw : ∀ l, (t.mem.emptyWays l).ok := fun l => ht
  simp -implicitDefEqProofs [ht, hw]

theorem ok_execUnlease {s : State} (f : FmtS) (h : s.mem.ok) : okOutcome (execUnlease f s) := by
  refine State.ok_issueOnce _ h fun x t ht => ?_
  dsimp only
  split <;> simp [ht]

theorem ok_execLeaseExpiry {s : State} (slice lease : Nat) (h : s.mem.ok) : okOutcome (execLeaseExpiry slice lease s) := by
  unfold execLeaseExpiry
  rw [okOutcome_next]
  split
  · exact h
  · simp -implicitDefEqProofs [h, Mem.ok_unpin]

/-! ## Barriers (Machine/Barrier.lean) -/

@[simp] theorem State.putBar_mem (s : State) (x : Issue) (r : BarRef) (b : Bar) : (s.putBar x r b).mem = s.mem := rfl

theorem State.foldl_fst_mem {α β : Type} (l : List β) (f : State × α → β → State × α) (hf : ∀ p x, (f p x).1.mem = p.1.mem) (p : State × α) :
    (l.foldl f p).1.mem = p.1.mem := by
  induction l generalizing p with
  | nil => rfl
  | cons x r ih => exact (ih _).trans (hf p x)

@[simp] theorem State.barArrive_mem (s : State) (x : Issue) (r : BarRef) (sls : List Nat) : (s.barArrive x r sls).1.mem = s.mem := by
  unfold State.barArrive
  refine State.foldl_fst_mem _ _ (fun p j => ?_) _
  dsimp only
  split <;> simp

@[simp] theorem State.barTake_mem (s : State) (x : Issue) (r : BarRef) (pd j : Nat) (p : Word) : (s.barTake x r pd j p).mem = s.mem := rfl

@[simp] theorem State.barPark_mem (s : State) (x : Issue) (r : BarRef) (l : List (Nat × Option Word)) : (s.barPark x r l).mem = s.mem := by
  simp [State.barPark]

@[simp] theorem State.ok_barGang {s : State} (x : Issue) (r : BarRef) (arrive wait : Bool) (b : Word) (pd : Nat) (dst : BitVec 8)
    (h : s.mem.ok) : (s.barGang x r arrive wait b pd dst).ok := by
  have ha : ∀ sls (b : Word), (if arrive then s.barArrive x r sls else (s, sls.map fun j => (j, b))).1.mem = s.mem := by
    intro sls b
    simp
  have hf : ∀ (l : List (Nat × Word)) (t : State), (l.foldl (fun t q => t.barTake x r pd q.1 q.2) t).mem = t.mem := fun l t => by
    simp -implicitDefEqProofs [State.foldl_mem]
  unfold State.barGang
  simp -implicitDefEqProofs [hf, h]

@[simp] theorem State.ok_barSeq {s : State} (x : Issue) (n : Nat) (arrive wait : Bool) (pd : Nat) (h : s.mem.ok) :
    (s.barSeq x n arrive wait pd).ok := by simp [State.barSeq, h]

theorem State.ok_numbered {s : State} (i : Instr) (f : FmtY) (arrive wait : Bool) (h : s.mem.ok) : okOutcome (s.numbered i f arrive wait) := by
  refine State.ok_issue _ h (fun x t ht => ?_) fun x t ht => ?_
  all_goals simp [ht]

theorem ok_execBarinitNb {s : State} (f : FmtY) (h : s.mem.ok) : okOutcome (execBarinitNb f s) := by
  refine State.ok_issueLane _ h fun x t ht => ?_
  simp [ht]

theorem State.ok_objFault {s : State} {x : Issue} {a : Word} {reg : Bool} {act : Act} (e : s.objFault x a reg = some act) : act.ok := by
  unfold State.objFault at e
  dsimp only at e
  repeat' split at e
  all_goals cases e <;> exact trivial

theorem State.ok_object {s : State} (i : Instr) (f : FmtY) (arrive wait : Bool) (pd : Nat) (dst : BitVec 8) (h : s.mem.ok) :
    okOutcome (s.object i f arrive wait pd dst) := by
  refine State.ok_issueLane _ h fun x t ht => ?_
  dsimp only
  split
  · exact ht
  split
  · exact State.ok_barGang _ _ _ _ _ _ _ ht
  split
  · next e => exact State.ok_objFault e
  · exact State.ok_barGang _ _ _ _ _ _ _ ht

theorem ok_execBarinit {s : State} (f : FmtY) (h : s.mem.ok) : okOutcome (execBarinit f s) := by
  refine State.ok_issueLane _ h fun x t ht => ?_
  have hm := fun ofs => State.ok_meetScr x.core ofs 16 ht
  dsimp only
  split
  · exact ht
  split
  · next e => exact State.ok_objFault e
  · simp -implicitDefEqProofs [hm]

/-! ## Combinable objects (Machine/Combine.lean) -/

theorem State.ok_checkStop_getD {s : State} {x : Issue} {k : Chk} (h : s.mem.ok) : ((s.checkStop x k).getD .wait).ok := by
  cases k
  · exact trivial
  · exact trivial
  · simpa [State.checkStop] using h

@[simp] theorem State.ok_objWrite {s : State} (own : Nat) (mir : Bool) (a : Nat) (bs : List Byte) (h : s.mem.ok) :
    (s.objWrite own mir a bs).mem.ok := by
  have hw := State.ok_writeHid (s.inHeader (some own) 0) a bs h
  simp -implicitDefEqProofs [State.objWrite, hw]

theorem ok_execCmb {s : State} (f : FmtM) (h : s.mem.ok) : okOutcome (execCmb f s) := by
  refine State.ok_issueLane _ h fun x t ht => ?_
  dsimp only
  split
  · exact ht
  · split
    · next e => exact Issue.ok_whole _ _ (State.ok_checkLanes ht e)
    · simpa using ht

@[simp] theorem State.ok_answer {s : State} (r : Req) (st : Nat) (v : DWord) (h : s.mem.ok) : (s.answer r st v).mem.ok := by
  simp [State.answer, h]

@[simp] theorem State.ok_cmbArrive {s : State} (r : Req) (h : s.mem.ok) : (s.cmbArrive r).mem.ok := by
  unfold State.cmbArrive
  split <;> simp [h]

theorem ok_execCmbRequestArrival {s : State} (req : Nat) (h : s.mem.ok) : okOutcome (execCmbRequestArrival req s) := by
  unfold execCmbRequestArrival
  rw [okOutcome_next]
  dsimp only
  split
  · exact h
  split
  · exact State.ok_foldl _ _ (fun _ _ ht => State.ok_cmbArrive _ (by simpa using ht)) h
  · exact h

@[simp] theorem State.ok_answerHalted {s : State} (h : s.mem.ok) : s.answerHalted.mem.ok := by
  unfold State.answerHalted
  refine State.ok_foldl _ _ (fun t o ht => State.ok_foldl _ _ (fun u q hu => ?_) ht) h
  split
  · simp -implicitDefEqProofs [hu]
  · exact hu

theorem ok_execCombinerWaveStart {s : State} (slice : Nat) (h : s.mem.ok) : okOutcome (execCombinerWaveStart slice s) := by
  unfold execCombinerWaveStart
  rw [okOutcome_next]
  dsimp only
  repeat' split
  all_goals simp [h]

@[simp] theorem State.ok_commitWave {s : State} (pa : Nat) (w : Wave) (h : s.mem.ok) : (s.commitWave pa w).mem.ok := by
  unfold State.commitWave
  refine State.ok_foldl _ _ (fun t r ht => ?_) h
  refine Mem.ok_foldl _ _ (fun m i hm => ?_) (State.ok_objWrite _ _ _ _ ht)
  simp -implicitDefEqProofs [hm, Mem.ok_touchLine]

@[simp] theorem State.ok_abortWave {s : State} (pa meth : Nat) (ids : List Nat) (residue : Bool) (h : s.mem.ok) :
    (s.abortWave pa meth ids residue).mem.ok := by
  unfold State.abortWave
  refine State.ok_foldl _ _ (fun _ _ ht => State.ok_answer _ _ _ ht) ?_
  rw [State.modObj_mem]
  refine State.ok_foldl _ _ (fun _ _ ht => State.ok_answer _ _ _ ht) ?_
  simp -implicitDefEqProofs (maxDischargeDepth := 4) [h]

@[simp] theorem State.ok_waveEnd {s : State} (slice : Nat) (residue : Bool) (h : s.mem.ok) : (s.waveEnd slice residue).mem.ok := by
  unfold State.waveEnd
  dsimp only
  split
  · exact h
  split
  · exact h
  split
  · exact State.ok_abortWave _ _ _ _ h
  · exact State.ok_foldl _ _ (fun _ _ ht => State.ok_answer _ _ _ ht) (State.ok_commitWave _ _ h)

theorem ok_execCombinerWaveEnd {s : State} (slice : Nat) (residue : Bool) (h : s.mem.ok) : okOutcome (execCombinerWaveEnd slice residue s) := by
  simp [execCombinerWaveEnd, h]

@[simp] theorem State.ok_initObj {s : State} (leaf : DWord) (pa : Nat) (d : List DWord) (h : s.mem.ok) : (s.initObj leaf pa d).mem.ok := by
  simp [State.initObj, h]

theorem ok_execCobjInit {s : State} (f : FmtS) (h : s.mem.ok) : okOutcome (execCobjInit f s) := by
  refine State.ok_issueOnce _ h fun x t ht => ?_
  dsimp only
  repeat' split
  all_goals simp [ht, State.ok_meetScr]

theorem ok_execCobjArm {s : State} (f : FmtS) (h : s.mem.ok) : okOutcome (execCobjArm f s) := by
  refine State.ok_issueOnce _ h fun x t ht => ?_
  dsimp only
  split
  · rw [Act.ok_ite, Act.ok_ite]
    refine ⟨fun _ => trivial, fun _ => ⟨fun _ => by simpa using ht, fun _ => ?_⟩⟩
    split <;> simp -implicitDefEqProofs [ht]
  · exact State.ok_checkStop_getD ht

theorem ok_execCobjQuery {s : State} (f : FmtS) (h : s.mem.ok) : okOutcome (execCobjQuery f s) := by
  refine State.ok_issueOnce _ h fun x t ht => ?_
  dsimp only
  split
  · simp -implicitDefEqProofs [ht]
  · exact State.ok_checkStop_getD ht

/-! ## Control transfer (Machine/Control.lean) -/

@[simp] theorem State.ok_branch {s : State} (x : Issue) (f : FmtC) (h : s.mem.ok) : (s.branch x f).ok := by simp [State.branch, h]

theorem ok_execBra {s : State} (f : FmtC) (h : s.mem.ok) : okOutcome (execBra f s) := by
  refine State.ok_issue _ h (fun x t ht => ?_) fun x t ht => ?_
  all_goals simp [ht]

@[simp] theorem State.ok_transfer {s : State} (x : Issue) (tgt : Nat → DWord) {eff : State → State} (h : s.mem.ok)
    (hf : ∀ t, t.mem.ok → (eff t).mem.ok) : (s.transfer x tgt eff).ok := by
  unfold State.transfer
  simp -implicitDefEqProofs [hf _ h]

theorem ok_execBrx {s : State} (f : FmtC) (h : s.mem.ok) : okOutcome (execBrx f s) :=
  State.ok_issue _ h (fun x t ht => State.ok_transfer x _ ht fun _ => id) fun _ _ ht => by simpa using ht

@[simp] theorem State.link_mem (s : State) (x : Issue) (f : FmtC) : (s.link x f).mem = s.mem := by simp [State.link]

theorem ok_execCall {s : State} (f : FmtC) (h : s.mem.ok) : okOutcome (execCall f s) :=
  State.ok_issue _ h (fun x t ht => State.ok_transfer x _ ht fun _ hu => by simpa using hu) fun _ _ ht => by simpa using ht

theorem ok_execRet {s : State} (f : FmtC) (h : s.mem.ok) : okOutcome (execRet f s) :=
  State.ok_issue _ h (fun x t ht => State.ok_transfer x _ ht fun _ => id) fun _ _ ht => by simpa using ht

@[simp] theorem State.ok_seqEnd {s : State} (x : Issue) (h : s.mem.ok) : (s.seqEnd x).ok := by
  simp -implicitDefEqProofs [State.seqEnd, h, State.ok_retire]

theorem ok_execSeqend {s : State} (f : FmtS) (h : s.mem.ok) : okOutcome (execSeqend f s) := by
  refine State.ok_issueStream _ h fun x t ht => ?_
  simp [ht]

@[simp] theorem State.ok_exitLanes {s : State} (x : Issue) (h : s.mem.ok) : (s.exitLanes x).ok := by simp [State.exitLanes, h]

theorem ok_execExit {s : State} (f : FmtC) (h : s.mem.ok) : okOutcome (execExit f s) := by
  refine State.ok_issue _ h (fun x t ht => ?_) fun x t ht => ?_
  all_goals simp [ht]

@[simp] theorem State.waitRegang_mem (s : State) (x : Issue) (m : BitVec 8) : (s.waitRegang x m).mem = s.mem := by simp [State.waitRegang]

@[simp] theorem State.ok_regang {s : State} (x : Issue) (m : BitVec 8) (h : s.mem.ok) : (s.regang x m).ok := by
  simp [State.regang, h, State.ok_advance]

theorem ok_execRegang {s : State} (f : FmtC) (h : s.mem.ok) : okOutcome (execRegang f s) := by
  refine State.ok_issue _ h (fun x t ht => ?_) fun x t ht => ?_
  all_goals simp [ht]

theorem ok_execBrkpt {s : State} (f : FmtC) (h : s.mem.ok) : okOutcome (execBrkpt f s) := by
  refine State.ok_issueOnce _ h fun x t ht => ?_
  simp

theorem ok_execNop {s : State} (f : FmtC) (h : s.mem.ok) : okOutcome (execNop f s) := by
  refine State.ok_issue _ h (fun x t ht => ?_) fun x t ht => ?_
  all_goals simp [ht]

theorem ok_execFork {s : State} (f : FmtS) (h : s.mem.ok) : okOutcome (execFork f s) := by
  refine State.ok_issueLane _ h fun x t ht => ?_
  simp [ht]

theorem ok_execRdv {s : State} (f : FmtS) (h : s.mem.ok) : okOutcome (execRdv f s) := by
  refine State.ok_issueLane _ h fun x t ht => ?_
  simp [ht]

/-! ## Scheduler cores and command records (Machine/Sched.lean) -/

@[simp] theorem State.modQslot_mem (s : State) (n : Nat) (f : QSlot → QSlot) : (s.modQslot n f).mem = s.mem := rfl

@[simp] theorem State.ageSlots_mem (s : State) (c chosen : Nat) : (s.ageSlots c chosen).mem = s.mem := by
  simp -implicitDefEqProofs [State.ageSlots, State.foldl_mem]

@[simp] theorem State.ioAsk_mem (s : State) (who ctx : Nat) (p : Home × DWord) : (s.ioAsk who ctx p).mem = s.mem := by simp [State.ioAsk]

@[simp] theorem State.forget_mem (s : State) (who : Nat) : (s.forget who).mem = s.mem := by simp [State.forget]

@[simp] theorem State.ioDenied_mem (s : State) (r : Region) (ws : List (Nat × Nat)) : (s.ioDenied r ws).mem = s.mem := by
  unfold State.ioDenied
  split
  · rfl
  · refine State.foldl_mem _ _ (fun t w => ?_) s
    dsimp only
    split
    · split <;> simp
    · simp

theorem State.ok_withRead {s : State} (who : Nat) (r : Region) (ws : List (Nat × Nat)) {f : State → State} (h : s.mem.ok)
    (hf : ∀ t, t.mem.ok → (f t).mem.ok) : (s.withRead who r ws f).mem.ok := by
  unfold State.withRead
  split
  · simpa using hf _ (by simpa using h)
  · rw [State.foldl_mem _ _ fun _ _ => State.ioAsk_mem ..]
    exact h

theorem State.ok_onSched {s : State} {f : Nat → State} (hf : ∀ c, (f c).mem.ok) : okOutcome (s.onSched f) := by
  unfold State.onSched
  split
  · simpa using hf _
  all_goals exact okOutcome_refused _

@[simp] theorem State.ok_fetchRecord {s : State} (c : Nat) (rd : BitVec 5) (n ri : Nat) (rec : List DWord) (h : s.mem.ok) :
    (s.fetchRecord c rd n ri rec).mem.ok := by simp -implicitDefEqProofs [State.fetchRecord, h, State.ok_writeMem]

theorem ok_execRfetch {s : State} (rd : BitVec 5) (h : s.mem.ok) : okOutcome (execRfetch rd s) := by
  refine State.ok_onSched fun c => ?_
  simp only [State.mem_ite, Mem.ok_ite]
  refine ⟨fun _ => by simpa using h, fun _ => ?_⟩
  split
  · simpa using h
  · simp only [State.mem_ite, Mem.ok_ite]
    refine ⟨fun _ => by simpa using h, fun _ => State.ok_withRead _ _ _ h fun t ht => ?_⟩
    split
    · simpa using ht
    · exact State.ok_fetchRecord _ _ _ _ _ ht

theorem ok_execBfx {s : State} (rd rs1 rs2 : BitVec 5) (h : s.mem.ok) : okOutcome (execBfx rd rs1 rs2 s) := by
  refine State.ok_onSched fun c => ?_
  dsimp only
  split <;> simpa using h

theorem ok_execSwait {s : State} (rd rs1 : BitVec 5) (h : s.mem.ok) : okOutcome (execSwait rd rs1 s) := by
  refine State.ok_onSched fun c => ?_
  simp -implicitDefEqProofs [h]

theorem State.takeLaunch_mem {s t : State} {who rcb va move : Nat} (e : s.takeLaunch who rcb va move = .accepted t) : t.mem = s.mem := by
  unfold State.takeLaunch at e
  dsimp only at e
  repeat' split at e
  all_goals cases e
  all_goals rfl

theorem State.submit_mem {s t : State} {who rcb va move : Nat} (e : s.submit who rcb va move = .accepted t) : t.mem = s.mem := by
  unfold State.submit at e
  split at e
  · cases e
  · exact State.takeLaunch_mem e

theorem ok_execDisp {s : State} (rd rs1 rs2 : BitVec 5) (h : s.mem.ok) : okOutcome (execDisp rd rs1 rs2 s) := by
  refine State.ok_onSched fun c => ?_
  simp only [State.mem_ite, Mem.ok_ite]
  refine ⟨fun _ => by simpa using h, fun _ => ⟨fun _ => by simpa using h, fun _ => State.ok_withRead _ _ _ h fun t ht => ?_⟩⟩
  split
  · simpa using ht
  · simpa using ht
  · simpa using ht
  · next e => simpa [State.submit_mem e] using ht

@[simp] theorem State.ok_stopQueue {s : State} (n : Nat) (h : s.mem.ok) : (s.stopQueue n).mem.ok := by
  simp [State.stopQueue, h, State.ok_writeHbm64]

@[simp] theorem State.execPlace_mem (s : State) (n pass i : Nat) : (s.execPlace n pass i).mem = s.mem := by
  unfold State.execPlace
  dsimp only
  split <;> simp

@[simp] theorem State.consumed_mem (s : State) (n : Nat) : (s.consumed n).mem = s.mem := by
  unfold State.consumed
  split <;> simp

theorem State.ok_runRecord {s : State} (n : Nat) (i : Instr) (d : List DWord) {eff : State → State} (h : s.mem.ok)
    (he : (eff s).mem.ok) : (s.runRecord n i d eff).mem.ok := by
  unfold State.runRecord
  simp only [State.mem_ite, Mem.ok_ite]
  refine ⟨fun _ => by simpa using h, fun _ => ⟨fun _ => by simpa using h, fun _ => ?_⟩⟩
  split
  · exact State.ok_stopQueue n h
  · simp -implicitDefEqProofs [h, he]

theorem State.ok_onRecord {s : State} (n : Nat) (i : Instr) (reads : List (Nat × Nat)) {eff : State → State} (h : s.mem.ok)
    (he : ∀ t, t.mem.ok → (eff t).mem.ok) : okOutcome (s.onRecord n i reads eff) := by
  unfold State.onRecord
  rw [okOutcome_next, State.mem_ite, Mem.ok_ite]
  refine ⟨fun _ => h, fun _ => State.ok_withRead _ _ _ h fun t ht => ?_⟩
  split
  · exact State.ok_runRecord _ _ _ ht (he _ ht)
  · simp -implicitDefEqProofs [ht]

theorem ok_execRecLaunch {s : State} (slot : Nat) (desc : DWord) (h : s.mem.ok) : okOutcome (execRecLaunch slot desc s) := by
  refine State.ok_onRecord _ _ _ h fun t ht => ?_
  split
  · simpa using ht
  · exact ht
  · simpa using ht
  · next e => simpa [State.submit_mem e] using ht

@[simp] theorem State.launchMany_mem (s : State) (slot rcb va stride n fuel i : Nat) :
    (s.launchMany slot rcb va stride n fuel i).mem = s.mem := by
  induction fuel generalizing s i with
  | zero => simp [State.launchMany]
  | succ fuel ih =>
    unfold State.launchMany
    split
    · next e => rw [ih, State.bump_mem, State.takeLaunch_mem e]
    all_goals simp

theorem ok_execRecLaunchn {s : State} (slot : Nat) (desc naddr stride : DWord) (h : s.mem.ok) :
    okOutcome (execRecLaunchn slot desc naddr stride s) := by
  refine State.ok_onRecord _ _ _ h fun t ht => ?_
  dsimp only
  split
  · simpa using ht
  · split <;> simp -implicitDefEqProofs [ht]

theorem ok_execRecWaitsig {s : State} (slot : Nat) (addr v : DWord) (h : s.mem.ok) : okOutcome (execRecWaitsig slot addr v s) := by
  refine State.ok_onRecord _ _ _ h fun t ht => ?_
  split
  · simpa using ht
  · simp -implicitDefEqProofs [ht, State.ok_dropPeerReads]

theorem ok_execRecSetsig {s : State} (slot : Nat) (addr v : DWord) (h : s.mem.ok) : okOutcome (execRecSetsig slot addr v s) := by
  refine State.ok_onRecord _ _ _ h fun t ht => ?_
  split
  · simpa using ht
  · simp -implicitDefEqProofs [ht, State.ok_storePage]

theorem ok_execRecSkipif {s : State} (slot : Nat) (cond : BitVec 4) (n : BitVec 16) (addr v : DWord) (h : s.mem.ok) :
    okOutcome (execRecSkipif slot cond n addr v s) := by
  refine State.ok_onRecord _ _ _ h fun t ht => ?_
  dsimp only
  split
  · simpa using ht
  · simp -implicitDefEqProofs [ht]

theorem ok_execRecExec {s : State} (slot : Nat) (buf naddr : DWord) (h : s.mem.ok) : okOutcome (execRecExec slot buf naddr s) := by
  refine State.ok_onRecord _ _ _ h fun t ht => ?_
  rw [State.mem_ite, Mem.ok_ite]
  refine ⟨fun _ => State.ok_stopQueue _ ht, fun _ => ?_⟩
  split <;> simpa using ht

@[simp] theorem State.unmapSlot_mem (s : State) (n : Nat) : (s.unmapSlot n).mem = s.mem := by simp [State.unmapSlot]

theorem ok_execQslotMap {s : State} (slot core : Nat) (v : DWord) (h : s.mem.ok) : okOutcome (execQslotMap slot core v s) := by
  simp [execQslotMap, h]

theorem ok_execQslotUnmap {s : State} (slot core : Nat) (v : DWord) (h : s.mem.ok) : okOutcome (execQslotUnmap slot core v s) := by
  simp [execQslotUnmap, h]

theorem ok_execKick {s : State} (v : Word) (h : s.mem.ok) : okOutcome (execKick v s) := by
  unfold execKick
  rw [okOutcome_next]
  dsimp only
  repeat' split
  all_goals simp [h]

/-! ## Tasks and placement (Machine/Task.lean) -/

@[simp] theorem State.placeBlock_mem (s : State) (c lid : Nat) (l : Launch) (t : TaskRec) : (s.placeBlock c lid l t).mem = s.mem := rfl

@[simp] theorem State.startCtx_mem (s : State) (rcb : Nat) : (s.startCtx rcb).mem = s.mem := by simp [State.startCtx]

@[simp] theorem State.ok_placeSeed {s : State} (launch : Nat) (h : s.mem.ok) : (s.placeSeed launch).mem.ok := by
  unfold State.placeSeed
  dsimp only
  repeat' split
  all_goals simp [h, State.ok_signal]

theorem ok_execLaunchPlacement {s : State} (launch : Nat) (h : s.mem.ok) : okOutcome (execLaunchPlacement launch s) := by
  unfold execLaunchPlacement
  have hl : ∀ (p : Prop) [Decidable p], (if p then s.startCtx (s.launch launch).rcb else s).mem.ok := fun p _ => by simp -implicitDefEqProofs [h]
  simp only [okOutcome_next, State.mem_ite, Mem.ok_ite]
  refine ⟨fun _ => by simpa using h, fun _ => ⟨fun _ => by simpa using h, fun _ => ?_⟩⟩
  exact State.ok_withRead _ _ _ (hl _) fun t ht => State.ok_placeSeed _ ht

theorem ok_execBlockPlacement {s : State} (core : Nat) (h : s.mem.ok) : okOutcome (execBlockPlacement core s) := by
  unfold execBlockPlacement
  rw [okOutcome_next]
  dsimp only
  repeat' split
  all_goals simp [h]

theorem State.enqueue_mem {s u : State} {t : TaskRec} (e : s.enqueue t = some u) : u.mem = s.mem := by
  unfold State.enqueue at e
  dsimp only at e
  split at e <;> cases e
  rfl

@[simp] theorem State.setHeld_mem (s : State) (x : Issue) (j : Nat) (t : Option TaskRec) : (s.setHeld x j t).mem = s.mem := rfl

@[simp] theorem State.ok_sow {s : State} (x : Issue) (f : FmtS) (h : s.mem.ok) : (s.sow x f).ok := by
  unfold State.sow
  rw [Act.ok_ite, Act.ok_ite]
  refine ⟨fun _ => trivial, fun _ => ⟨fun _ => trivial, fun _ => ?_⟩⟩
  dsimp only
  split
  · next e => simpa [State.enqueue_mem e] using h
  · simpa using h

theorem ok_execSow {s : State} (f : FmtS) (h : s.mem.ok) : okOutcome (execSow f s) := by
  refine State.ok_issueOnce _ h fun x t ht => ?_
  split
  · split
    · next e => simpa [State.enqueue_mem e] using ht
    · exact trivial
  · exact State.ok_sow x f ht

theorem ok_execWaitp {s : State} (f : FmtS) (h : s.mem.ok) : okOutcome (execWaitp f s) := by
  refine State.ok_issueOnce _ h fun x t ht => ?_
  simp [ht]

theorem ok_execTrigger {s : State} (f : FmtS) (h : s.mem.ok) : okOutcome (execTrigger f s) := by
  refine State.ok_issueOnce _ h fun x t ht => ?_
  simp [ht]

theorem ok_execCsrr {s : State} (f : FmtS) (h : s.mem.ok) : okOutcome (execCsrr f s) := by
  refine State.ok_issueOnce _ h fun x t ht => ?_
  simp [ht]

theorem ok_execCsrw {s : State} (f : FmtS) (h : s.mem.ok) : okOutcome (execCsrw f s) := by
  refine State.ok_issueOnce _ h fun x t ht => ?_
  simp [ht]

theorem ok_execSvc {s : State} (f : FmtS) (h : s.mem.ok) : okOutcome (execSvc f s) := by
  refine State.ok_issueOnce _ h fun x t ht => ?_
  simp [ht]

theorem ok_execTrap {s : State} (f : FmtS) (h : s.mem.ok) : okOutcome (execTrap f s) := by
  refine State.ok_issueOnce _ h fun x t ht => ?_
  simp

/-! ## Format slots (Machine/Slots.lean) -/

theorem State.ok_fmtIssue {s : State} (i : Instr) (f : FmtF) (blk : Bool) {body : Img → Nat → Issue → State → Act} (h : s.mem.ok)
    (hb : ∀ img n x t, t.mem.ok → (body img n x t).ok) : okOutcome (s.fmtIssue i f blk body) := by
  refine State.ok_issueLane i h fun x t ht => ?_
  dsimp only
  rw [Act.ok_ite, Act.ok_ite]
  refine ⟨fun _ => ht, fun _ => ⟨fun _ => trivial, fun _ => ?_⟩⟩
  split
  · exact trivial
  · split
    · exact trivial
    · rw [Act.ok_ite]
      exact ⟨fun _ => hb _ _ x t ht, fun _ => trivial⟩

theorem State.ok_fmtLanes {s : State} (i : Instr) (f : FmtF) (blk : Bool) (g : Img → Word → Nat → RF → Nat → Nat) (h : s.mem.ok) :
    okOutcome (s.fmtLanes i f blk g) := State.ok_fmtIssue i f blk h fun _ _ _ _ ht => by simpa using ht

theorem ok_execDec {s : State} (f : FmtF) (h : s.mem.ok) : okOutcome (execDec f s) := by
  unfold execDec
  exact State.ok_fmtLanes _ _ _ _ h

theorem ok_execDecBlk {s : State} (f : FmtF) (h : s.mem.ok) : okOutcome (execDecBlk f s) := by
  unfold execDecBlk
  exact State.ok_fmtLanes _ _ _ _ h

theorem ok_execEnc {s : State} (f : FmtF) (h : s.mem.ok) : okOutcome (execEnc f s) := by
  unfold execEnc
  exact State.ok_fmtLanes _ _ _ _ h

theorem ok_execReq {s : State} (f : FmtF) (h : s.mem.ok) : okOutcome (execReq f s) := by
  unfold execReq
  exact State.ok_fmtLanes _ _ _ _ h

theorem ok_execReqBlk {s : State} (f : FmtF) (h : s.mem.ok) : okOutcome (execReqBlk f s) := by
  unfold execReqBlk
  exact State.ok_fmtLanes _ _ _ _ h

theorem ok_execSclq {s : State} (f : FmtF) (h : s.mem.ok) : okOutcome (execSclq f s) := by
  refine State.ok_fmtIssue _ _ _ h fun img n x t ht => ?_
  simp [ht]

theorem ok_execFmtq {s : State} (f : FmtF) (h : s.mem.ok) : okOutcome (execFmtq f s) := by
  refine State.ok_issueLane _ h fun x t ht => ?_
  dsimp only
  repeat' split
  all_goals simp [ht]

theorem ok_execEncBlk {s : State} (f : FmtF) (h : s.mem.ok) : okOutcome (execEncBlk f s) := by
  refine State.ok_fmtIssue _ _ _ h fun img n x t ht => ?_
  dsimp only
  repeat' split
  all_goals simp [ht, State.ok_meetScr]

@[simp] theorem State.acceptSlot_mem (s : State) (c fs : Nat) (b : Option Word) : (s.acceptSlot c fs b).mem = s.mem := rfl

theorem ok_execSlotbind {s : State} (f : FmtS) (h : s.mem.ok) : okOutcome (execSlotbind f s) := by
  refine State.ok_issueOnce _ h fun x t ht => ?_
  simp [ht]

theorem ok_execSlotrel {s : State} (f : FmtS) (h : s.mem.ok) : okOutcome (execSlotrel f s) := by
  refine State.ok_issueOnce _ h fun x t ht => ?_
  simp [ht]

theorem ok_execSlotfence {s : State} (f : FmtS) (h : s.mem.ok) : okOutcome (execSlotfence f s) := by
  refine State.ok_issueOnce _ h fun x t ht => ?_
  simp [ht]

theorem ok_execSlotReconfigureStart {s : State} (core fs : Nat) (h : s.mem.ok) : okOutcome (execSlotReconfigureStart core fs s) := by
  unfold execSlotReconfigureStart
  rw [okOutcome_next]
  dsimp only
  split <;> simp [h]

theorem ok_execSlotReconfigureEnd {s : State} (core fs : Nat) (readbackOk : Bool) (h : s.mem.ok) :
    okOutcome (execSlotReconfigureEnd core fs readbackOk s) := by
  unfold execSlotReconfigureEnd
  rw [okOutcome_next]
  dsimp only
  split
  · exact h
  · split
    · exact h
    · simp -implicitDefEqProofs [h]

/-! ## Tiles (Machine/Tile.lean) -/

theorem ok_execAcal {s : State} (f : FmtS) (h : s.mem.ok) : okOutcome (execAcal f s) := by
  refine State.ok_issueOnce _ h fun x t ht => ?_
  simp [ht]

theorem ok_execAcfree {s : State} (f : FmtS) (h : s.mem.ok) : okOutcome (execAcfree f s) := by
  refine State.ok_issueOnce _ h fun x t ht => ?_
  simp [ht]

theorem ok_execAcstat {s : State} (f : FmtS) (h : s.mem.ok) : okOutcome (execAcstat f s) := by
  refine State.ok_issueOnce _ h fun x t ht => ?_
  simp [ht]

theorem ok_execAcstatBlk {s : State} (f : FmtS) (h : s.mem.ok) : okOutcome (execAcstatBlk f s) := by
  refine State.ok_issueOnce _ h fun x t ht => ?_
  simp [ht]

theorem State.ok_bandIssue {s : State} (i : Instr) (f : FmtS) {body : Issue → State → Tile → Act} (h : s.mem.ok)
    (hb : ∀ x t q, t.mem.ok → (body x t q).ok) : okOutcome (s.bandIssue i f body) := by
  refine State.ok_issueOnce i h fun x t ht => ?_
  dsimp only
  split
  · exact trivial
  · split
    · exact trivial
    · exact hb x t _ ht

theorem ok_execAcband {s : State} (f : FmtS) (h : s.mem.ok) : okOutcome (execAcband f s) := by
  refine State.ok_bandIssue _ _ h fun x t q ht => ?_
  simp [ht]

theorem ok_execAcbandRel {s : State} (f : FmtS) (h : s.mem.ok) : okOutcome (execAcbandRel f s) := by
  refine State.ok_bandIssue _ _ h fun x t q ht => ?_
  simp [ht]

theorem State.ok_tileRead {s : State} (i : Instr) (f : FmtA) (clr : Bool) (h : s.mem.ok) : okOutcome (s.tileRead i f clr) := by
  refine State.ok_issueLane _ h fun x t ht => ?_
  dsimp only
  repeat' split
  all_goals simp [ht]

theorem ok_execAcrd {s : State} (f : FmtA) (h : s.mem.ok) : okOutcome (execAcrd f s) := by
  unfold execAcrd
  exact State.ok_tileRead _ _ _ h

theorem ok_execAcrdclr {s : State} (f : FmtA) (h : s.mem.ok) : okOutcome (execAcrdclr f s) := by
  unfold execAcrdclr
  exact State.ok_tileRead _ _ _ h

/-! ## The matrix path (Machine/Matrix.lean) -/

@[simp] theorem State.arriveBn_mem (s : State) (c b : Nat) (bn : BitVec 4) : (s.arriveBn c b bn).mem = s.mem := by simp [State.arriveBn]

@[simp] theorem State.acceptJob_mem (s : State) (x : Issue) (sub : Nat) (f : FmtMX) : (s.acceptJob x sub f).mem = s.mem := rfl

theorem ok_execMma {s : State} (f : FmtMX) (h : s.mem.ok) : okOutcome (execMma f s) := by
  refine State.ok_issueStream _ h fun x t ht => ?_
  simp [ht]

theorem ok_execAcz {s : State} (f : FmtMX) (h : s.mem.ok) : okOutcome (execAcz f s) := by
  refine State.ok_issueStream _ h fun x t ht => ?_
  simp [ht]

theorem ok_execAcdrn {s : State} (f : FmtMX) (h : s.mem.ok) : okOutcome (execAcdrn f s) := by
  refine State.ok_issueStream _ h fun x t ht => ?_
  simp [ht]

theorem ok_execAcclose {s : State} (f : FmtMX) (h : s.mem.ok) : okOutcome (execAcclose f s) := by
  refine State.ok_issueStream _ h fun x t ht => ?_
  simp [ht]

@[simp] theorem State.ok_finishJob {s : State} (c : Nat) (j : MxJob) (h : s.mem.ok) : (s.finishJob c j).mem.ok := by
  simp [State.finishJob, h, State.ok_retire]

theorem ok_execTileClose {s : State} (core job : Nat) (h : s.mem.ok) : okOutcome (execTileClose core job s) := by
  unfold execTileClose
  rw [okOutcome_next]
  dsimp only
  split
  · exact h
  · simp -implicitDefEqProofs [h]

theorem ok_execJobDispatch {s : State} (core : Nat) (drain : Bool) (h : s.mem.ok) : okOutcome (execJobDispatch core drain s) := by
  unfold execJobDispatch
  rw [okOutcome_next]
  dsimp only
  repeat' split
  all_goals simp [h]

theorem ok_execMatrixJobComplete {s : State} (core job : Nat) (h : s.mem.ok) : okOutcome (execMatrixJobComplete core job s) := by
  unfold execMatrixJobComplete
  rw [okOutcome_next]
  split
  · exact h
  · simp -implicitDefEqProofs [h]

@[simp] theorem State.ok_countFallback {s : State} (c b : Nat) (h : s.mem.ok) : (s.countFallback c b).mem.ok := by
  simp -implicitDefEqProofs [State.countFallback, h]

@[simp] theorem State.ok_arrayMc {s : State} (c : Nat) (j : MxJob) (h : s.mem.ok) : (s.arrayMc c j).mem.ok := by
  simp [State.arrayMc, h, State.ok_postMc]

@[simp] theorem State.ok_arrayCheck {s : State} (c : Nat) (j : MxJob) (twice : Bool) (h : s.mem.ok) : (s.arrayCheck c j twice).mem.ok := by
  unfold State.arrayCheck
  split <;> simp -implicitDefEqProofs [h]

@[simp] theorem State.ok_meetLine {s : State} (c : Nat) (d : BitVec 256) (t : Elt) (l n : Nat) (h : s.mem.ok) : (s.meetLine c d t l n).mem.ok := by
  simp [State.meetLine, h, State.ok_meetScr]

@[simp] theorem State.ok_meetRow {s : State} (c : Nat) (j : MxJob) (e : MmaEnv) (wide : Bool) (i : Nat) (h : s.mem.ok) :
    (s.meetRow c j e wide i).mem.ok := by simp [State.meetRow, h, State.ok_meetScr]

@[simp] theorem State.ok_meetAttempt {s : State} (c : Nat) (j : MxJob) (e : MmaEnv) (wide : Bool) (is js : List Nat) (h : s.mem.ok) :
    (s.meetAttempt c j e wide is js).mem.ok := by
  have hr := State.ok_foldl is _ (fun t i ht => State.ok_meetRow c j e wide i ht) h
  have hl := State.ok_foldl js _ (fun t i ht => State.ok_meetLine c j.db e.tb i j.k ht) hr
  unfold State.meetAttempt
  simp -implicitDefEqProofs [hl, State.ok_meetScr]

@[simp] theorem State.ok_meetBlock {s : State} (c : Nat) (j : MxJob) (e : MmaEnv) (h : s.mem.ok) : (s.meetBlock c j e).mem.ok := by
  have hs : (if j.f.asrc == 0 && dOcap j.da != 0 then s.meetScr c (dObuf j.da) 16 else s).mem.ok := by
    simp -implicitDefEqProofs [h, State.ok_meetScr]
  have ha := fun w => State.ok_meetAttempt c j e w ((s.core c).curRows j) ((s.core c).curCols j) hs
  have hb := fun w => State.ok_meetAttempt c j e true ((s.core c).curRows j) ((s.core c).curCols j) (ha w)
  simp only [State.meetBlock, State.mem_ite, Mem.ok_ite]
  exact ⟨fun _ => h, fun _ => ⟨fun _ => hb _, fun _ => ha _⟩⟩

@[simp] theorem State.countMatrix_mem (s : State) (c : Nat) (j : MxJob) (a : Attempt) : (s.countMatrix c j a).mem = s.mem := by
  unfold State.countMatrix
  split <;> simp

theorem ok_execMmaOutputBlock {s : State} (core : Nat) (residue : Bool) (h : s.mem.ok) : okOutcome (execMmaOutputBlock core residue s) := by
  unfold execMmaOutputBlock
  rw [okOutcome_next]
  dsimp only
  split
  · exact h
  · next j e _ =>
    have hb := State.ok_meetBlock core j e h
    simp -implicitDefEqProofs [hb]

@[simp] theorem State.ok_cutBlock {s : State} (core : Nat) (h : s.mem.ok) : (s.cutBlock core).mem.ok := by
  unfold State.cutBlock
  dsimp only
  split
  · exact h
  · next j e _ =>
    have hb := State.ok_meetBlock core j e h
    simp -implicitDefEqProofs [hb]

@[simp] theorem State.ok_meetDrain {s : State} (c : Nat) (j : MxJob) (e : Elt) (h : s.mem.ok) : (s.meetDrain c j e).mem.ok := by
  simp [State.meetDrain, h, State.ok_meetScr]

theorem ok_execAcdrnLine {s : State} (core : Nat) (h : s.mem.ok) : okOutcome (execAcdrnLine core s) := by
  unfold execAcdrnLine
  rw [okOutcome_next]
  dsimp only
  repeat' split
  all_goals simp [h]

/-! ## Regions (Machine/Region.lean) -/

@[simp] theorem State.preempt_mem (s : State) (n : Nat) (l : Option Nat) : (s.preempt n l).mem = s.mem := rfl

theorem ok_execPreemptRequest {s : State} (ctx : Nat) (forLaunch : Option Nat) (h : s.mem.ok) : okOutcome (execPreemptRequest ctx forLaunch s) := by
  simp [execPreemptRequest, h]

@[simp] theorem State.preemptAll_mem (s : State) (l : List Nat) : (s.preemptAll l).mem = s.mem := State.foldl_mem _ _ (fun _ _ => by simp) s

@[simp] theorem State.chargeMoved_mem (s : State) (rcb : Nat) : (s.chargeMoved rcb).mem = s.mem := by simp [State.chargeMoved]

@[simp] theorem State.chargeUp_mem (s : State) (rcb : Nat) : (s.chargeUp rcb).mem = s.mem := by
  simp -implicitDefEqProofs [State.chargeUp, State.foldl_mem]

@[simp] theorem State.postFw_mem (s : State) (ty v : Nat) : (s.postFw ty v).mem = s.mem := by simp [State.postFw]

@[simp] theorem State.ok_drainRecords {s : State} (q : Root) (fuel : Nat) (h : s.mem.ok) :
    (s.drainRecords q fuel).1.mem.ok := by
  induction fuel generalizing s q with
  | zero => exact h
  | succ fuel ih =>
    unfold State.drainRecords
    split
    · exact h
    · split
      · exact ih _ (State.ok_writeMem _ _ _ h)
      · exact h

@[simp] theorem State.checkHeld_mem (s : State) (n : Nat) : (s.checkHeld n).mem = s.mem := by simp [State.checkHeld]

@[simp] theorem State.ok_drainRoot {s : State} (n : Nat) (h : s.mem.ok) : (s.drainRoot n).mem.ok := by simp [State.drainRoot, h]

@[simp] theorem State.ok_drainLate {s : State} (n : Nat) (h : s.mem.ok) : (s.drainLate n).mem.ok := by
  unfold State.drainLate
  exact State.ok_foldl _ _ (fun _ _ ht => by simp [ht]) h

@[simp] theorem State.ok_emitUsage {s : State} (rcb rsn : Nat) (h : s.mem.ok) : (s.emitUsage rcb rsn).mem.ok := by simp [State.emitUsage, h]

theorem ok_execUsageRecordWrite {s : State} (root : Nat) (h : s.mem.ok) : okOutcome (execUsageRecordWrite root s) := by
  simp [execUsageRecordWrite, h]

@[simp] theorem State.ok_budgetHit {s : State} (rcb kind : Nat) (h : s.mem.ok) : (s.budgetHit rcb kind).mem.ok := by simp [State.budgetHit, h]

theorem ok_execBudgetReached {s : State} (rcb kind : Nat) (h : s.mem.ok) : okOutcome (execBudgetReached rcb kind s) := by
  unfold execBudgetReached
  rw [okOutcome_next]
  dsimp only
  repeat' split
  all_goals simp [h]

@[simp] theorem State.orphanImages_mem (s : State) (rcb : Nat) : (s.orphanImages rcb).mem = s.mem := rfl

@[simp] theorem State.makeLive_mem (s : State) (rcb ctx : Nat) (r : Region) : (s.makeLive rcb ctx r).mem = s.mem := by simp [State.makeLive]

theorem ok_execRegionActivation {s : State} (rcb ctx : Nat) (h : s.mem.ok) : okOutcome (execRegionActivation rcb ctx s) := by
  simp [execRegionActivation, h]

@[simp] theorem State.purgeImages_mem (s : State) : s.purgeImages.mem = s.mem := rfl

@[simp] theorem State.ok_retireRegion {s : State} (rcb rsn : Nat) (h : s.mem.ok) : (s.retireRegion rcb rsn).mem.ok := by
  simp +contextual [State.retireRegion, State.ok_foldl, h]

theorem ok_execRegionRetirement {s : State} (rcb : Nat) (h : s.mem.ok) : okOutcome (execRegionRetirement rcb s) := by
  simp [execRegionRetirement, h]

theorem ok_execFallbackCounterClear {s : State} (rcb : Nat) (h : s.mem.ok) : okOutcome (execFallbackCounterClear rcb s) := by
  simp [execFallbackCounterClear, h]

/-! ## Save and restore (Machine/Save.lean) -/

@[simp] theorem State.ok_stopAgent {s : State} (x1 : StopAgent) (h : s.mem.ok) : (s.stopAgent x1).mem.ok := by
  unfold State.stopAgent
  split <;> simp [h]

theorem ok_execAgentStop {s : State} (ctx : Nat) (who : StopAgent) (h : s.mem.ok) : okOutcome (execAgentStop ctx who s) := by
  simp -implicitDefEqProofs [execAgentStop, h]

@[simp] theorem State.ctxEnd_mem (s : State) (st : Nat) : (s.ctxEnd st).mem = s.mem := rfl

@[simp] theorem State.freeCores_mem (s : State) (n : Nat) : (s.freeCores n).mem = s.mem := by
  simp -implicitDefEqProofs [State.freeCores, State.foldl_mem]

@[simp] theorem State.dropImage_mem (s : State) (n : Nat) : (s.dropImage n).mem = s.mem := rfl

@[simp] theorem State.holdImage_mem (s : State) (n base : Nat) : (s.holdImage n base).mem = s.mem := rfl

@[simp] theorem State.ok_endCtx {s : State} (n stat : Nat) (h : s.mem.ok) : (s.endCtx n stat).mem.ok := by
  simp +contextual [State.endCtx, State.ok_foldl, h, State.ok_signal]

@[simp] theorem State.reportSave_mem (s : State) (x : Ctx) : (s.reportSave x).mem = s.mem := rfl

@[simp] theorem State.ok_writeImage {s : State} (n : Nat) (a : SaveArea) (h : s.mem.ok) : (s.writeImage n a).mem.ok := by
  have hm := State.ok_foldl (s.usedCores n) _ (fun t c ht => State.ok_meetCore c ht) h
  have hw := fun (a size) bs => State.ok_writeMem (s := { ((s.usedCores n).foldl State.meetCore s) with
    mem := ((s.usedCores n).foldl State.meetCore s).mem.cleanArea a size }) 0 a bs hm
  unfold State.writeImage
  simp -implicitDefEqProofs [hw]

@[simp] theorem State.ok_collect {s : State} (n : Nat) (h : s.mem.ok) : (s.collect n).mem.ok := by
  unfold State.collect
  dsimp only
  split
  · exact State.ok_writeImage _ _ h
  · simp -implicitDefEqProofs (maxDischargeDepth := 4) [h]

@[simp] theorem State.ok_collectWaiting {s : State} (h : s.mem.ok) : s.collectWaiting.mem.ok := by
  unfold State.collectWaiting
  exact State.ok_foldl _ _ (fun _ _ ht => by simp [ht]) h

theorem ok_execSaveComplete {s : State} (ctx : Nat) (h : s.mem.ok) : okOutcome (execSaveComplete ctx s) := by simp [execSaveComplete, h]

theorem ok_execCtxSave {s : State} (v : DWord) (h : s.mem.ok) : okOutcome (execCtxSave v s) := by
  unfold execCtxSave
  rw [okOutcome_next]
  dsimp only
  repeat' split
  all_goals simp [h]

theorem ok_execCtxTerminate {s : State} (v : DWord) (h : s.mem.ok) : okOutcome (execCtxTerminate v s) := by
  unfold execCtxTerminate
  rw [okOutcome_next]
  dsimp only
  repeat' split
  all_goals simp [h]

@[simp] theorem State.ok_restore {s : State} (n px py res : Nat) (h : s.mem.ok) : (s.restore n px py res).mem.ok := by
  unfold State.restore
  refine State.ok_foldl _ _ (fun _ _ ht => State.ok_retire _ _ ht) (State.ok_foldl _ _ (fun _ _ ht => State.ok_killWarp _ _ ht) (State.ok_dropPeerReads ?_))
  simp -implicitDefEqProofs [State.foldl_mem, h]

@[simp] theorem State.ok_loseCtx {s : State} (n : Nat) (tag : Bool) (h : s.mem.ok) : (s.loseCtx n tag).mem.ok := by
  simp -implicitDefEqProofs (maxDischargeDepth := 4) [State.loseCtx, h]

theorem ok_execCtxRestore {s : State} (v : DWord) (imageError : Option Bool) (h : s.mem.ok) : okOutcome (execCtxRestore v imageError s) := by
  unfold execCtxRestore
  rw [okOutcome_next]
  dsimp only
  repeat' split
  all_goals simp [h]

/-! ## The monitor (Machine/Monitor.lean) -/

@[simp] theorem State.result_mem (s : State) (mb : Mailbox) (bs : List Byte) : (s.result mb bs).mem = s.mem := by simp [State.result]

@[simp] theorem State.whenTrained_mem (s : State) (op : HostOp) : (s.whenTrained op).mem = s.mem := by simp [State.whenTrained]

@[simp] theorem State.doorbellLater_mem (s : State) (mb : Mailbox) (code : Word) : (s.doorbellLater mb code).mem = s.mem := by
  unfold State.doorbellLater
  split <;> simp

@[simp] theorem State.served_mem (s : State) (mb : Mailbox) (st : Nat) : (s.served mb st).mem = s.mem := by simp [State.served]

theorem State.ok_command {s : State} (mb : Mailbox) (code : Word) (host fw : Bool) {f : State → State × Nat} (h : s.mem.ok)
    (hf : ∀ t, t.mem.ok → (f t).1.mem.ok) : okOutcome (s.command mb code host fw f) := by
  unfold State.command
  simp only [okOutcome_next, State.mem_ite, Mem.ok_ite]
  refine ⟨fun _ => h, fun _ => ⟨fun _ => by simpa using h, fun _ => ⟨fun _ => ⟨fun _ => h, fun _ => by simpa using h⟩, fun _ => ?_⟩⟩⟩
  exact ⟨fun _ => by simpa using h, fun _ => by simpa using hf _ h⟩

theorem ok_execMondbUnknownCommand {s : State} (mb : Mailbox) (code : Word) (h : s.mem.ok) : okOutcome (execMondbUnknownCommand mb code s) := by
  simp [execMondbUnknownCommand, h]

@[simp] theorem State.doorbell_mem (s : State) (mb : Mailbox) (code : Word) : (s.doorbell mb code).mem = s.mem := by simp [State.doorbell]

@[simp] theorem State.extend_mem (s : State) (n : Nat) (d : BitVec 384) : (s.extend n d).mem = s.mem := rfl

@[simp] theorem State.ok_retrain {s : State} (cls : Nat) (h : s.mem.ok) : (s.retrain cls).mem.ok := by
  simp +contextual [State.retrain, State.foldl_mem, h]

@[simp] theorem State.installFirmware_mem (s : State) (base size : Nat) : (s.installFirmware base size).mem = s.mem := by
  simp -implicitDefEqProofs [State.installFirmware, State.foldl_mem]

@[simp] theorem State.ok_loadImage {s : State} (base : Nat) (h : s.mem.ok) : (s.loadImage base).1.mem.ok := by
  unfold State.loadImage
  simp -implicitDefEqProofs [h]

theorem ok_execFwload {s : State} (mb : Mailbox) (base : Nat) (h : s.mem.ok) : okOutcome (execFwload mb base s) := by
  refine State.ok_command _ _ _ _ h fun t ht => ?_
  simp -implicitDefEqProofs [ht]

@[simp] theorem State.longResult_mem (s : State) (mb : Mailbox) (bs : List Byte) : (s.longResult mb bs).mem = s.mem := by simp [State.longResult]

theorem ok_execAttest {s : State} (mb : Mailbox) (nonce : BitVec 384) (h : s.mem.ok) : okOutcome (execAttest mb nonce s) := by
  unfold execAttest
  rw [okOutcome_ite]
  refine ⟨fun _ => by simpa using h, fun _ => State.ok_command _ _ _ _ h fun t ht => ?_⟩
  simp [ht]

theorem ok_execAttestCerts {s : State} (mb : Mailbox) (h : s.mem.ok) : okOutcome (execAttestCerts mb s) := by
  unfold execAttestCerts
  rw [okOutcome_ite]
  refine ⟨fun _ => by simpa using h, fun _ => State.ok_command _ _ _ _ h fun t ht => ?_⟩
  simp [ht]

theorem ok_execConfset {s : State} (mb : Mailbox) (mode : Nat) (h : s.mem.ok) : okOutcome (execConfset mb mode s) := by
  refine State.ok_command _ _ _ _ h fun t ht => ?_
  simp -implicitDefEqProofs [ht]

theorem ok_execDbgen {s : State} (mb : Mailbox) (h : s.mem.ok) : okOutcome (execDbgen mb s) := by
  refine State.ok_command _ _ _ _ h fun t ht => ?_
  simp -implicitDefEqProofs [ht]

theorem ok_execRootact {s : State} (mb : Mailbox) (args : RootArgs) (h : s.mem.ok) : okOutcome (execRootact mb args s) := by
  refine State.ok_command _ _ _ _ h fun t ht => ?_
  simp only [State.fst_ite, State.mem_ite, Mem.ok_ite]
  refine ⟨fun _ => ht, fun _ => ⟨fun _ => ht, fun _ => ?_⟩⟩
  split <;> simpa using ht

theorem ok_execRootset {s : State} (mb : Mailbox) (args : RootSetArgs) (h : s.mem.ok) : okOutcome (execRootset mb args s) := by
  refine State.ok_command _ _ _ _ h fun t ht => ?_
  simp -implicitDefEqProofs [ht]

theorem ok_execRootdel {s : State} (mb : Mailbox) (root : Nat) (h : s.mem.ok) : okOutcome (execRootdel mb root s) := by
  refine State.ok_command _ _ _ _ h fun t ht => ?_
  simp -implicitDefEqProofs [ht]

theorem ok_execUsagereq {s : State} (mb : Mailbox) (rcb : Nat) (h : s.mem.ok) : okOutcome (execUsagereq mb rcb s) := by
  refine State.ok_command _ _ _ _ h fun t ht => ?_
  simp -implicitDefEqProofs [ht]

@[simp] theorem State.ok_zeroRange {s : State} (a n : Nat) (h : s.mem.ok) : (s.zeroRange a n).mem.ok := by
  have hz := Mem.ok_zeroRange a n h
  simp only [State.zeroRange, State.mem_ite, Mem.ok_ite]
  exact ⟨fun _ => Mem.ok_foldl _ _ (fun _ _ hm => Mem.ok_put _ _ _ hm) hz, fun _ => hz⟩

@[simp] theorem State.ok_retag {s : State} (page : Nat) (t : Tag) (h : s.mem.ok) : (s.retag page t).mem.ok := by simp [State.retag, h]

@[simp] theorem State.keynew_mem (s : State) (mb : Mailbox) (imp : Bool) (key : State → Bool → Option (BitVec 512)) :
    (s.keynew mb imp key).1.mem = s.mem := by
  unfold State.keynew
  simp only [State.fst_ite, State.mem_ite]
  repeat' split
  all_goals simp

theorem ok_execKeynewGenerate {s : State} (mb : Mailbox) (h : s.mem.ok) : okOutcome (execKeynewGenerate mb s) := by
  unfold execKeynewGenerate
  rw [okOutcome_ite]
  refine ⟨fun _ => by simpa using h, fun _ => State.ok_command _ _ _ _ h fun t ht => ?_⟩
  simpa using ht

theorem ok_execKeynewImport {s : State} (mb : Mailbox) (h : s.mem.ok) : okOutcome (execKeynewImport mb s) := by
  unfold execKeynewImport
  rw [okOutcome_ite]
  refine ⟨fun _ => by simpa using h, fun _ => State.ok_command _ _ _ _ h fun t ht => ?_⟩
  simp [ht]

@[simp] theorem State.beginErase_mem (s : State) (n : Nat) : (s.beginErase n).mem = s.mem := rfl

@[simp] theorem State.ok_endErase {s : State} (n : Nat) (h : s.mem.ok) : (s.endErase n).mem.ok := by
  simp +contextual [State.endErase, State.ok_foldl, h]

@[simp] theorem State.ok_eraseKey {s : State} (n : Nat) (h : s.mem.ok) : (s.eraseKey n).mem.ok := State.ok_endErase n (by simpa using h)

theorem ok_execKeyerase {s : State} (mb : Mailbox) (h : s.mem.ok) : okOutcome (execKeyerase mb s) := by
  unfold execKeyerase
  split
  · rw [okOutcome_ite]
    exact ⟨fun _ => by simp -implicitDefEqProofs [h], fun _ => State.ok_command _ _ _ _ h fun _ ht => ht⟩
  · refine State.ok_command _ _ _ _ h fun t ht => ?_
    simp -implicitDefEqProofs [ht]

@[simp] theorem State.ok_retagRange {s : State} (a size mode slot : Nat) (sv : Bool) (h : s.mem.ok) : (s.retagRange a size mode slot sv).mem.ok := by
  unfold State.retagRange
  exact State.ok_foldl _ _ (fun _ _ ht => by simp [ht]) h

theorem ok_execTagset {s : State} (mb : Mailbox) (h : s.mem.ok) : okOutcome (execTagset mb s) := by
  refine State.ok_command _ _ _ _ h fun t ht => ?_
  simp -implicitDefEqProofs [ht]

theorem ok_execSavesetCreate {s : State} (mb : Mailbox) (h : s.mem.ok) : okOutcome (execSavesetCreate mb s) := by
  unfold execSavesetCreate
  rw [okOutcome_ite]
  refine ⟨fun _ => by simpa using h, fun _ => State.ok_command _ _ _ _ h fun t ht => ?_⟩
  split
  · exact ht
  · simp -implicitDefEqProofs (maxDischargeDepth := 4) [ht]

theorem ok_execSavesetRelease {s : State} (mb : Mailbox) (h : s.mem.ok) : okOutcome (execSavesetRelease mb s) := by
  unfold execSavesetRelease
  rw [okOutcome_ite]
  refine ⟨fun _ => by simpa using h, fun _ => State.ok_command _ _ _ _ h fun t ht => ?_⟩
  split
  · exact ht
  · split
    · exact ht
    · simp -implicitDefEqProofs (maxDischargeDepth := 4) [ht]

@[simp] theorem State.register_mem (s : State) (who rcb va : Nat) : (s.register who rcb va).1.mem = s.mem := by
  unfold State.register
  dsimp only
  repeat' split
  all_goals simp

@[simp] theorem State.imgreg_mem (s : State) (mb : Mailbox) : (s.imgreg mb).1.mem = s.mem := by
  simp [State.imgreg]

theorem ok_execImgreg {s : State} (mb : Mailbox) (h : s.mem.ok) : okOutcome (execImgreg mb s) := by
  unfold execImgreg
  dsimp only
  rw [okOutcome_ite]
  refine ⟨fun _ => ?_, fun _ => State.ok_command _ _ _ _ h fun t ht => by simpa using ht⟩
  simpa [State.foldl_mem] using h

@[simp] theorem State.serve1_mem (s : State) (r : Req) (arg : DWord) : (s.serve1 r arg).1.mem = s.mem := by simp [State.serve1]

@[simp] theorem State.ok_serveCall {s : State} (r : Req) (h : s.mem.ok) : (s.serveCall r).mem.ok := by
  unfold State.serveCall
  split
  · exact h
  · refine State.ok_withRead _ _ _ h fun t ht => ?_
    dsimp only
    refine State.ok_complete _ _ _ ?_
    convert ht using 1
    exact State.serve1_mem t r _

theorem ok_execLoadWriteback {s : State} (req : Nat) (h : s.mem.ok) : okOutcome (execLoadWriteback req s) := by
  unfold execLoadWriteback
  split <;> simp [h]

/-! ## Links and mirroring (Machine/Links.lean) -/

theorem ok_execLaneLoss {s : State} (link : Nat) (h : s.mem.ok) : okOutcome (execLaneLoss link s) := by simp [execLaneLoss, h]

theorem ok_execPeerSilenceDetected {s : State} (device : Nat) (h : s.mem.ok) : okOutcome (execPeerSilenceDetected device s) := by
  simp [execPeerSilenceDetected, h]

@[simp] theorem State.ok_poisonRange {s : State} (pa len : Nat) (h : s.mem.ok) : (s.poisonRange pa len).mem.ok := by
  unfold State.poisonRange
  exact State.ok_foldl _ _ (fun _ _ ht => by simp [ht]) h

@[simp] theorem State.ok_takeReply {s : State} (id : Nat) (bytes : List Byte) (poison ca : Bool) (h : s.mem.ok) :
    (s.takeReply id bytes poison ca).mem.ok := by
  unfold State.takeReply
  split <;> simp [h]

@[simp] theorem State.ok_takeMirrorAck {s : State} (id : Nat) (refused : Bool) (h : s.mem.ok) : (s.takeMirrorAck id refused).mem.ok := by
  unfold State.takeMirrorAck
  split
  · exact h
  · have hw := fun a bs => Mem.ok_write 1 a bs h
    simp only [State.mem_ite, Mem.ok_ite]
    exact ⟨fun _ => by simpa using h, fun _ => ⟨fun _ => Mem.ok_foldl _ _ (fun _ _ hm => Mem.ok_setPoison _ _ _ hm) (hw _ _), fun _ => hw _ _⟩⟩

@[simp] theorem State.ok_mirrorStore {s : State} (src tag ofs : Nat) (bytes : List Byte) (poison : Bool) (h : s.mem.ok) :
    (s.mirrorStore src tag ofs bytes poison).mem.ok := by simp [State.mirrorStore, h, State.ok_storeGlobal]

@[simp] theorem State.ok_deliver {s : State} (port : Nat) (x2 : FabricMsg) (h : s.mem.ok) : (s.deliver port x2).mem.ok := by
  unfold State.deliver
  split <;> simp [h, State.ok_storeGlobal]

theorem ok_execFabricFlitReceive {s : State} (port : Nat) (checkOk : Bool) (msg : FabricMsg) (h : s.mem.ok) :
    okOutcome (execFabricFlitReceive port checkOk msg s) := by simp [execFabricFlitReceive, h]

theorem ok_execEthernetFrameReceive {s : State} (port : Nat) (frame : List Byte) (h : s.mem.ok) :
    okOutcome (execEthernetFrameReceive port frame s) := by
  unfold execEthernetFrameReceive
  rw [okOutcome_next]
  dsimp only
  repeat' split
  all_goals simp [h]

@[simp] theorem State.sendBytes_mem (s : State) (port dev : Nat) (bytes : List Byte) : (s.sendBytes port dev bytes).mem = s.mem := by
  simp [State.sendBytes]

@[simp] theorem State.pauseOver_mem (s : State) (port : Nat) (prios : BitVec 8) : (s.pauseOver port prios).mem = s.mem := rfl

@[simp] theorem State.takeBytes_mem (s : State) (port : Nat) : (s.takeBytes port).mem = s.mem := rfl

@[simp] theorem State.takeCredit_mem (s : State) (port n : Nat) : (s.takeCredit port n).mem = s.mem := by simp [State.takeCredit]

@[simp] theorem State.mirrorPage_mem (s : State) (pa n : Nat) : (s.mirrorPage pa n).mem = s.mem := State.foldl_mem _ _ (fun _ _ => by simp) s

theorem ok_execMircfgWrite {s : State} (v : DWord) (h : s.mem.ok) : okOutcome (execMircfgWrite v s) := by
  simp [execMircfgWrite, State.foldl_mem, h]

theorem ok_execMirrorWriteReceive {s : State} (src ofs : Nat) (bytes : List Byte) (h : s.mem.ok) :
    okOutcome (execMirrorWriteReceive src ofs bytes s) := by simp [execMirrorWriteReceive, h]

/-! ## Walks (Machine/Walk.lean) -/

theorem ok_execWalkerStart {s : State} (slice : Nat) (h : s.mem.ok) : okOutcome (execWalkerStart slice s) := by
  unfold execWalkerStart
  rw [okOutcome_next]
  dsimp only
  repeat' split
  all_goals simp [h]

theorem ok_execWalkComplete {s : State} (walk : Nat) (h : s.mem.ok) : okOutcome (execWalkComplete walk s) := by
  unfold execWalkComplete
  rw [okOutcome_next]
  dsimp only
  split
  · exact h
  split
  · exact h
  split
  · rw [State.foldl_mem _ _ fun _ _ => State.modCore_mem ..]
    simpa using h
  · rw [State.foldl_mem]
    · simpa using h
    · intro t a
      split <;> rfl

theorem ok_execXlinvCtlWrite {s : State} (v : Word) (h : s.mem.ok) : okOutcome (execXlinvCtlWrite v s) := by simp [execXlinvCtlWrite, h]

theorem ok_execInvalidationComplete {s : State} (h : s.mem.ok) : okOutcome (execInvalidationComplete s) := by simp [execInvalidationComplete, h]

/-! ## The management space, host accesses, resets (Machine/Mgmt.lean) -/

@[simp] theorem State.writeEvqB_mem (s : State) (dom : Nat) (v : DWord) : (s.writeEvqB dom v).mem = s.mem := rfl

@[simp] theorem State.mgmtWrite_mem (s : State) (who : MgmtAgent) (ofs width : Nat) (v : DWord) : (s.mgmtWrite who ofs width v).mem = s.mem := by
  simp [State.mgmtWrite]

theorem ok_execEvqiWrite {s : State} (dom : Nat) (v : DWord) (h : s.mem.ok) : okOutcome (execEvqiWrite dom v s) := by simp [execEvqiWrite, h]

@[simp] theorem State.setMgmtBase_mem (s : State) (v : DWord) : (s.setMgmtBase v).mem = s.mem := rfl

theorem ok_execMgmtbaseWrite {s : State} (v : DWord) (h : s.mem.ok) : okOutcome (execMgmtbaseWrite v s) := by simp [execMgmtbaseWrite, h]

theorem ok_execFwmqpop {s : State} (v : Word) (h : s.mem.ok) : okOutcome (execFwmqpop v s) := by
  unfold execFwmqpop
  rw [okOutcome_next]
  split
  · exact h
  · split
    · exact h
    · simpa using h

@[simp] theorem State.hostPost_mem (s : State) (v : Word) : (s.hostPost v).mem = s.mem := by simp [State.hostPost]

theorem ok_execFwpostdb {s : State} (v : Word) (h : s.mem.ok) : okOutcome (execFwpostdb v s) := by simp [execFwpostdb, h]

theorem ok_execPowerCapInterval {s : State} (avg : Nat) (h : s.mem.ok) : okOutcome (execPowerCapInterval avg s) := by
  simp [execPowerCapInterval, h]

@[simp] theorem State.dropTranslations_mem (s : State) (rs : List Nat) : (s.dropTranslations rs).mem = s.mem := rfl

@[simp] theorem State.ok_finishWaves {s : State} (ctxs : List Nat) (h : s.mem.ok) : (s.finishWaves ctxs).mem.ok := by
  unfold State.finishWaves
  refine State.ok_foldl _ _ (fun t slice ht => ?_) h
  split
  · exact ht
  · split
    · simp -implicitDefEqProofs [ht]
    · exact ht

@[simp] theorem State.dropRequests_mem (s : State) (ctxs : List Nat) : (s.dropRequests ctxs).mem = s.mem := rfl

@[simp] theorem State.stopCtx_mem (s : State) (n : Nat) : (s.stopCtx n).mem = s.mem := by
  simp -implicitDefEqProofs [State.stopCtx, State.foldl_mem]

@[simp] theorem State.ok_scrubLines {s : State} (rs : List Nat) (h : s.mem.ok) : (s.scrubLines rs).mem.ok := by
  simp only [State.scrubLines, State.mem_ite, Mem.ok_ite]
  exact ⟨fun _ => h, fun _ => h⟩

@[simp] theorem State.ok_retireFn {s : State} (rs : List Nat) (h : s.mem.ok) : (s.retireFn rs).mem.ok := by
  unfold State.retireFn
  exact State.ok_foldl _ _ (fun _ _ ht => by simp [ht]) h

@[simp] theorem State.ok_retireOwn {s : State} (rs : List Nat) (h : s.mem.ok) : (s.retireOwn rs).mem.ok := by
  unfold State.retireOwn
  exact State.ok_foldl _ _ (fun t r ht => State.ok_foldl _ _ (fun u l hu => State.ok_endLease _ hu) (State.ok_emitUsage _ _ ht)) h

@[simp] theorem State.ok_flrStart {s : State} (fn : Nat) (h : s.mem.ok) : (s.flrStart fn).mem.ok := by
  have hw := State.ok_finishWaves ((s.fnRegions fn).map fun r => (s.region r).ctx) (s := s.dropTranslations (s.fnRegions fn)) (by simpa using h)
  simp -implicitDefEqProofs [State.flrStart, State.foldl_mem, hw]

@[simp] theorem State.ok_flrEnd {s : State} (h : s.mem.ok) : s.flrEnd.mem.ok := by
  have he := State.ok_foldl (s.fnKeys s.io.flrFn) State.endErase (fun t n ht => State.ok_endErase n ht) h
  have hr := State.ok_retireFn (s.fnRegions s.io.flrFn) (State.ok_scrubLines (s.fnRegions s.io.flrFn) he)
  unfold State.flrEnd
  simp -implicitDefEqProofs [hr]

theorem ok_execFlr {s : State} (v : Word) (h : s.mem.ok) : okOutcome (execFlr v s) := by simp [execFlr, h]

@[simp] theorem State.ok_after {s : State} {o : Host.Outcome State Fault Refusal} (h : s.mem.ok) (ho : okOutcome o) : (s.after o).mem.ok := by
  cases o
  · exact ho _ rfl
  · exact h
  · exact h

@[simp] theorem State.ok_ctxCmd {s : State} (v : DWord) (h : s.mem.ok) : (s.ctxCmd v).mem.ok := by
  have ha : ∀ {o}, okOutcome o → (s.after o).mem.ok := State.ok_after h
  simp only [State.ctxCmd, State.mem_ite, Mem.ok_ite]
  exact ⟨fun _ => ha (ok_execCtxSave _ h), fun _ => ⟨fun _ => ha (ok_execCtxRestore _ _ h),
    fun _ => ⟨fun _ => ha (ok_execCtxTerminate _ h), fun _ => h⟩⟩⟩

theorem State.ok_sharedWrite {s t : State} {win o width : Nat} {v : DWord} (h : s.mem.ok) (e : s.sharedWrite win o width v = some t) : t.mem.ok := by
  unfold State.sharedWrite at e
  repeat' split at e
  all_goals cases e
  · exact State.ok_after h (ok_execPoolFaultMapWrite _ _ _ h)
  · exact State.ok_after h (ok_execXlinvCtlWrite _ h)
  · exact State.ok_after h (ok_execKick _ h)
  · exact State.ok_after h (ok_execEvqiWrite _ _ h)

theorem State.ok_ownWrite {s t : State} {who : MgmtAgent} {ofs width : Nat} {v : DWord} (h : s.mem.ok)
    (e : s.ownWrite who ofs width v = some t) : t.mem.ok := by
  have ha : ∀ {o}, okOutcome o → (s.after o).mem.ok := State.ok_after h
  unfold State.ownWrite at e
  dsimp only at e
  split at e
  · split at e
    · cases e; simp -implicitDefEqProofs [h]
    split at e
    · cases e; simpa using h
    split at e
    · cases e; simpa using h
    · exact State.ok_sharedWrite h e
  · split at e
    · cases e; simp -implicitDefEqProofs [h, ha, ok_execQslotMap, ok_execQslotUnmap]
    split at e
    · cases e; exact State.ok_ctxCmd _ h
    split at e
    · cases e; exact ha (ok_execMircfgWrite _ h)
    split at e
    · cases e; simpa using h
    split at e
    · cases e; exact ha (ok_execFwmqpop _ h)
    · exact State.ok_sharedWrite h e

@[simp] theorem State.ok_mgmtStore {s : State} (who : MgmtAgent) (ofs width : Nat) (v : DWord) (h : s.mem.ok) :
    (s.mgmtStore who ofs width v).mem.ok := by
  unfold State.mgmtStore
  rw [State.mem_ite, Mem.ok_ite]
  refine ⟨fun _ => h, fun _ => ?_⟩
  cases e : s.ownWrite who ofs width v with
  | none => simpa using h
  | some t => exact State.ok_ownWrite h e

theorem ok_execRegisterWrite {s : State} (who : MgmtAgent) (ofs width : Nat) (v : DWord) (h : s.mem.ok) :
    okOutcome (execRegisterWrite who ofs width v s) := by
  unfold execRegisterWrite
  split <;> simp [h]

@[simp] theorem State.hostRead_mem (s : State) (pa len : Nat) : (s.hostRead pa len).mem = s.mem := by simp [State.hostRead]

@[simp] theorem State.ok_hostWrite {s : State} (pa : Nat) (bs : List Byte) (h : s.mem.ok) : (s.hostWrite pa bs).mem.ok :=
  Mem.ok_touchLine _ _ _ (State.ok_writeHid _ _ _ h)

@[simp] theorem State.hostGets_mem (s : State) (bs : List Byte) : (s.hostGets bs).mem = s.mem := rfl

@[simp] theorem State.ok_hostDo {s : State} (op : HostOp) (h : s.mem.ok) : (s.hostDo op).mem.ok := by
  have hr : ∀ a bs {t : State}, t.mem = s.mem → (t.hostWrite a bs).mem.ok := fun a bs _ ht => State.ok_hostWrite a bs (ht.symm ▸ h)
  have hg : ∀ bs, (s.hostGets bs).mem.ok := fun bs => by simpa using h
  cases op with
  | read pa len => exact Mem.ok_touchLine _ _ _ h
  | write pa bytes => exact State.ok_hostWrite _ _ h
  | atomic pa op ty opr cmp => exact hr _ _ (by simp)
  | splitRead pa ty => simpa [State.hostDo] using h
  | splitWrite pa op ty opr cmp => exact State.ok_hostWrite _ _ h
  | readReg ofs width => exact hg _
  | mmioRead addr width =>
    rw [State.hostDo]
    split
    · exact hg _
    · exact h
  | mmioWrite addr width v =>
    rw [State.hostDo]
    split
    · exact State.ok_mgmtStore _ _ _ _ h
    · exact h
  | baseWrite v => simpa [State.hostDo] using h
  | writeReg ofs width v => exact State.ok_mgmtStore _ _ _ _ h
  | sideband => exact hg _
  | own pa bytes => exact Mem.ok_write _ _ _ h
  | ownAtomic pa op ty opr cmp => exact Mem.ok_write _ _ _ h

theorem ok_execHostAccess {s : State} (op : HostOp) (h : s.mem.ok) : okOutcome (execHostAccess op s) := by simp [execHostAccess, h]

@[simp] theorem State.ok_retryHost {s : State} (h : s.mem.ok) : s.retryHost.mem.ok := by
  unfold State.retryHost
  exact State.ok_foldl _ _ (fun _ _ ht => by simp [ht]) h

theorem ok_execLinkTrained {s : State} (link : Nat) (h : s.mem.ok) : okOutcome (execLinkTrained link s) := by
  simp -implicitDefEqProofs [execLinkTrained, h]

theorem State.ok_schedHost {s : State} {f : State → State} (h : s.mem.ok) (hf : ∀ t, t.mem.ok → (f t).mem.ok) : (s.schedHost f).mem.ok := by
  unfold State.schedHost
  split
  · exact h
  · exact hf _ (by simpa using h)

@[simp] theorem State.schedLoad_mem (s : State) (c loc addr width : Nat) (rd : BitVec 5) : (s.schedLoad c loc addr width rd).mem = s.mem := by
  have hs : ∀ f : State → State, (∀ t, (f t).mem = t.mem) → (s.schedHost f).mem = s.mem := fun f hf => by
    unfold State.schedHost
    split
    · rfl
    · rw [hf, State.useCredit_mem]
  have hr : (s.schedHost fun t => t.schedDone c rd (bytesVal (t.mem.read 2 addr (width / 8)))).mem = s.mem := hs _ fun t => State.schedDone_mem ..
  simp [State.schedLoad, hr]

@[simp] theorem State.ok_schedStore {s : State} (c loc addr width : Nat) (v : DWord) (h : s.mem.ok) : (s.schedStore c loc addr width v).mem.ok := by
  have hs : ∀ bs (rd : BitVec 5) (x : DWord), (s.schedHost fun t => ({ t with mem := t.mem.write 2 addr bs } : State).schedDone c rd x).mem.ok :=
    fun bs rd x => State.ok_schedHost h fun t ht => by simpa using Mem.ok_write 2 addr bs ht
  have hb := fun bs => State.ok_storeGlobal 0 addr bs h
  simp -implicitDefEqProofs [State.schedStore, h, hs, hb]

@[simp] theorem State.measure_mem (s : State) (conf : Bool) : (s.measure conf).mem = s.mem := rfl

theorem ok_execFullReset {s : State} (fuseOk : Bool) (h : s.mem.ok) : okOutcome (execFullReset fuseOk s) := by
  unfold execFullReset
  rw [okOutcome_next]
  simp -implicitDefEqProofs [h, State.ok_memAfterReset]

/-! ## Turns (Machine/Turn.lean) -/

@[simp] theorem State.ready_mem (s : State) (a : Agent) (c : Nat) (asn : BitVec 16) (pc w e : DWord) : (s.ready a c asn pc w e).mem = s.mem := by
  unfold State.ready
  split <;> rfl

theorem State.ok_orHeld {s : State} (r : State) {o : Host.Outcome State Fault Refusal} (h : s.mem.ok) (ho : okOutcome o) :
    okOutcome (s.orHeld r o) := by
  cases o
  · rw [State.orHeld, okOutcome_next, State.mem_ite, Mem.ok_ite]
    exact ⟨fun _ => h, fun _ => ho _ rfl⟩
  · exact okOutcome_fault _
  · exact okOutcome_refused _

@[simp] theorem State.illegalWord_mem (s : State) (a : Agent) (w : DWord) : (s.illegalWord a w).mem = s.mem := by
  unfold State.illegalWord
  split <;> simp

@[simp] theorem State.ok_poisonedWord {s : State} (a : Agent) (w : DWord) (h : s.mem.ok) : (s.poisonedWord a w).mem.ok := by
  unfold State.poisonedWord
  split <;> simp [h]

@[simp] theorem State.notChosen_mem (s : State) (rest : List Agent) : (s.notChosen rest).mem = s.mem := State.foldl_mem _ _ (fun _ _ => by simp) s

/-! ## Instructions, turns, steps -/

/-- Every instruction and every event leaves the memories canonical. -/
theorem ok_exec (i : Instr) {s : State} (h : s.mem.ok) : okOutcome (exec i s) := by
  cases i with
  | iadd f | isub f | imul f | imulh f | imad f | imin f | imax f | idif f | and f | or f | xor f | andn f | shl f | shr f | shra f
  | rotl f | popc f | clz f | brev f | prmt f | sel f | lea f | bfe f | bfi f | iaddImm f | isubImm f | imulImm f | imulhImm f
  | iminImm f | imaxImm f | idifImm f | andImm f | orImm f | xorImm f | andnImm f | shlImm f | shrImm f | shraImm f | rotlImm f
  | bfeImm f | icmp cc f | icmpi cc f | mov f | movi f | pmovGet f | pmovSet f | fadd f | fsub f | fmul f | ffma f | fmin f | fmax f
  | faddImm f | fsubImm f | fmulImm f | ffmaImm f | fminImm f | fmaxImm f | fcmp cc f | frcp f | frsq f | fsqrt f | fexp2 f | flog2 f
  | fsin f | fcos f | ftanh f | cvt f | frnd f | shfli f | shflu f | shfld f | shflx f | vall f | vany f | vbal f | matchany f
  | matchall f | redux f => exact State.ok_issueAlu _ _ h
  | atomAdd f | atomMin f | atomMax f | atomAnd f | atomOr f | atomXor f | atomExch f | atomCas f => exact State.ok_atomIssue _ _ _ h
  | bararv f | barwait f | barsync f => exact State.ok_object _ _ _ _ _ _ h
  | nbarv f | nbwait f | nbsync f => exact State.ok_numbered _ _ _ _ h
  | dec f => exact ok_execDec _ h
  | decBlk f => exact ok_execDecBlk _ h
  | enc f => exact ok_execEnc _ h
  | encBlk f => exact ok_execEncBlk _ h
  | req f => exact ok_execReq _ h
  | reqBlk f => exact ok_execReqBlk _ h
  | sclq f => exact ok_execSclq _ h
  | fmtq f => exact ok_execFmtq _ h
  | slotbind f => exact ok_execSlotbind _ h
  | slotfence f => exact ok_execSlotfence _ h
  | slotrel f => exact ok_execSlotrel _ h
  | slotReconfigureStart core fs => exact ok_execSlotReconfigureStart _ _ h
  | slotReconfigureEnd core fs readbackOk => exact ok_execSlotReconfigureEnd _ _ _ h
  | ld f => exact ok_execLd _ h
  | ldf f => exact ok_execLdf _ h
  | ldfk f => exact ok_execLdfk _ h
  | lda16 f => exact ok_execLda16 _ h
  | st f => exact ok_execSt _ h
  | ste f => exact ok_execSte _ h
  | stf f => exact ok_execStf _ h
  | tagclr f => exact ok_execTagclr _ h
  | xstart f => exact ok_execXstart _ h
  | copyAccept core => exact ok_execCopyAccept _ h
  | copyChunk core job => exact ok_execCopyChunk _ _ h
  | copyArrival core job => exact ok_execCopyArrival _ _ h
  | lda16Arrival core id => exact ok_execLda16Arrival _ _ h
  | pref f => exact ok_execPref _ h
  | ipref f => exact ok_execIpref _ h
  | cctlWb f => exact ok_execCctlWb _ h
  | cctlEvict f => exact ok_execCctlEvict _ h
  | cctlPdrop f => exact ok_execCctlPdrop _ h
  | fence f => exact ok_execFence _ h
  | fencemir f => exact ok_execFencemir _ h
  | isync f => exact ok_execIsync _ h
  | xtset f => exact ok_execXtset _ h
  | xquery f => exact ok_execXquery _ h
  | ringinit f => exact ok_execRinginit _ h
  | awaitf f => exact ok_execAwaitf _ h
  | rels f => exact ok_execRels _ h
  | relsKeep f => exact ok_execRelsKeep _ h
  | yieldc f => exact ok_execYieldc _ h
  | dset f => exact ok_execDset _ h
  | dsetW f => exact ok_execDsetW _ h
  | lease f => exact ok_execLease _ h
  | unlease f => exact ok_execUnlease _ h
  | leaseExpiry slice lease => exact ok_execLeaseExpiry _ _ h
  | routerRequestArrival entry arriving => exact ok_execRouterRequestArrival _ _ h
  | atomHomePerform req => exact ok_execAtomHomePerform _ h
  | loadWriteback req => exact ok_execLoadWriteback _ h
  | cmb f => exact ok_execCmb _ h
  | cmbRequestArrival req => exact ok_execCmbRequestArrival _ h
  | combinerWaveStart slice => exact ok_execCombinerWaveStart _ h
  | combinerWaveEnd slice residue => exact ok_execCombinerWaveEnd _ _ h
  | cobjInit f => exact ok_execCobjInit _ h
  | cobjArm f => exact ok_execCobjArm _ h
  | cobjQuery f => exact ok_execCobjQuery _ h
  | barinit f => exact ok_execBarinit _ h
  | barinitNb f => exact ok_execBarinitNb _ h
  | bra f => exact ok_execBra _ h
  | brx f => exact ok_execBrx _ h
  | call f => exact ok_execCall _ h
  | ret f => exact ok_execRet _ h
  | exit f => exact ok_execExit _ h
  | regang f => exact ok_execRegang _ h
  | brkpt f => exact ok_execBrkpt _ h
  | nop f => exact ok_execNop _ h
  | fork f => exact ok_execFork _ h
  | rdv f => exact ok_execRdv _ h
  | seqend f => exact ok_execSeqend _ h
  | sow f => exact ok_execSow _ h
  | waitp f => exact ok_execWaitp _ h
  | trigger f => exact ok_execTrigger _ h
  | csrr f => exact ok_execCsrr _ h
  | csrw f => exact ok_execCsrw _ h
  | svc f => exact ok_execSvc _ h
  | trap f => exact ok_execTrap _ h
  | mma f => exact ok_execMma _ h
  | acz f => exact ok_execAcz _ h
  | acdrn f => exact ok_execAcdrn _ h
  | acclose f => exact ok_execAcclose _ h
  | jobDispatch core drain => exact ok_execJobDispatch _ _ h
  | mmaOutputBlock core residue => exact ok_execMmaOutputBlock _ _ h
  | matrixJobComplete core job => exact ok_execMatrixJobComplete _ _ h
  | acdrnLine core => exact ok_execAcdrnLine _ h
  | tileClose core job => exact ok_execTileClose _ _ h
  | acal f => exact ok_execAcal _ h
  | acfree f => exact ok_execAcfree _ h
  | acstat f => exact ok_execAcstat _ h
  | acstatBlk f => exact ok_execAcstatBlk _ h
  | acband f => exact ok_execAcband _ h
  | acbandRel f => exact ok_execAcbandRel _ h
  | acrd f => exact ok_execAcrd _ h
  | acrdclr f => exact ok_execAcrdclr _ h
  | rfetch rd => exact ok_execRfetch _ h
  | bfx rd rs1 rs2 => exact ok_execBfx _ _ _ h
  | swait rd rs1 => exact ok_execSwait _ _ h
  | disp rd rs1 rs2 => exact ok_execDisp _ _ _ h
  | recLaunch slot desc => exact ok_execRecLaunch _ _ h
  | recLaunchn slot desc naddr stride => exact ok_execRecLaunchn _ _ _ _ h
  | recWaitsig slot addr v => exact ok_execRecWaitsig _ _ _ h
  | recSetsig slot addr v => exact ok_execRecSetsig _ _ _ h
  | recSkipif slot cond n addr v => exact ok_execRecSkipif _ _ _ _ _ h
  | recExec slot buf naddr => exact ok_execRecExec _ _ _ h
  | launchPlacement launch => exact ok_execLaunchPlacement _ h
  | blockPlacement core => exact ok_execBlockPlacement _ h
  | qslotMap slot core v => exact ok_execQslotMap _ _ _ h
  | qslotUnmap slot core v => exact ok_execQslotUnmap _ _ _ h
  | kick v => exact ok_execKick _ h
  | xlinvCtlWrite v => exact ok_execXlinvCtlWrite _ h
  | invalidationComplete => exact ok_execInvalidationComplete h
  | walkerStart slice => exact ok_execWalkerStart _ h
  | walkComplete walk => exact ok_execWalkComplete _ h
  | homeAccessPerform req => exact ok_execHomeAccessPerform _ h
  | hostAccess op => exact ok_execHostAccess _ h
  | poolScrubRow core use bank row => exact ok_execPoolScrubRow _ _ _ _ h
  | poolFaultMapWrite slab group v => exact ok_execPoolFaultMapWrite _ _ _ h
  | preemptRequest ctx forLaunch => exact ok_execPreemptRequest _ _ h
  | budgetReached rcb kind => exact ok_execBudgetReached _ _ h
  | agentStop ctx who => exact ok_execAgentStop _ _ h
  | saveComplete ctx => exact ok_execSaveComplete _ h
  | evqiWrite dom v => exact ok_execEvqiWrite _ _ h
  | ctxSave v => exact ok_execCtxSave _ h
  | ctxRestore v imageError => exact ok_execCtxRestore _ _ h
  | ctxTerminate v => exact ok_execCtxTerminate _ h
  | flr v => exact ok_execFlr _ h
  | fullReset fuseOk => exact ok_execFullReset _ h
  | mgmtbaseWrite v => exact ok_execMgmtbaseWrite _ h
  | fwload mb base => exact ok_execFwload _ _ h
  | attest mb nonce => exact ok_execAttest _ _ h
  | attestCerts mb => exact ok_execAttestCerts _ h
  | confset mb mode => exact ok_execConfset _ _ h
  | dbgen mb => exact ok_execDbgen _ h
  | rootact mb args => exact ok_execRootact _ _ h
  | rootset mb args => exact ok_execRootset _ _ h
  | rootdel mb root => exact ok_execRootdel _ _ h
  | usagereq mb rcb => exact ok_execUsagereq _ _ h
  | usageRecordWrite root => exact ok_execUsageRecordWrite _ h
  | keynewGenerate mb => exact ok_execKeynewGenerate _ h
  | keynewImport mb => exact ok_execKeynewImport _ h
  | keyerase mb => exact ok_execKeyerase _ h
  | tagset mb => exact ok_execTagset _ h
  | savesetCreate mb => exact ok_execSavesetCreate _ h
  | savesetRelease mb => exact ok_execSavesetRelease _ h
  | imgreg mb => exact ok_execImgreg _ h
  | mondbUnknownCommand mb code => exact ok_execMondbUnknownCommand _ _ h
  | fwmqpop v => exact ok_execFwmqpop _ h
  | fwpostdb v => exact ok_execFwpostdb _ h
  | mircfgWrite v => exact ok_execMircfgWrite _ h
  | mirrorWriteReceive src ofs bytes => exact ok_execMirrorWriteReceive _ _ _ h
  | fabricFlitReceive port checkOk msg => exact ok_execFabricFlitReceive _ _ _ h
  | ethernetFrameReceive port frame => exact ok_execEthernetFrameReceive _ _ h
  | laneLoss link => exact ok_execLaneLoss _ h
  | powerCapInterval avg => exact ok_execPowerCapInterval _ h
  | registerWrite who ofs width v => exact ok_execRegisterWrite _ _ _ _ h
  | regionActivation rcb ctx => exact ok_execRegionActivation _ _ h
  | regionRetirement rcb => exact ok_execRegionRetirement _ h
  | fallbackCounterClear rcb => exact ok_execFallbackCounterClear _ h
  | instructionFetch who => exact ok_execInstructionFetch _ h
  | icacheFillArrival core fill => exact ok_execIcacheFillArrival _ _ h
  | linkTrained link => exact ok_execLinkTrained _ h
  | peerSilenceDetected device => exact ok_execPeerSilenceDetected _ h

section Turns

variable {s : State} (a : Agent) (h : s.mem.ok)
include h

theorem State.ok_parkedTurn : okOutcome (s.parkedTurn a) := by
  unfold State.parkedTurn
  split
  · exact (okOutcome_next _).mpr h
  · split
    · exact (okOutcome_next _).mpr h
    · exact State.ok_orHeld _ h (ok_exec _ h)

theorem State.ok_turn : okOutcome (s.turn a) := by
  unfold State.turn
  split
  · exact State.ok_parkedTurn a h
  · dsimp only
    split
    · exact ok_execInstructionFetch a h
    · exact ok_execInstructionFetch a h
    · rw [okOutcome_ite]
      refine ⟨fun _ => (okOutcome_next _).mpr (State.ok_poisonedWord _ _ h), fun _ => ?_⟩
      split
      · simpa using h
      · exact State.ok_orHeld _ h (ok_exec _ (by simpa using h))

theorem State.ok_quarterTurn (c q : Nat) : okOutcome (s.quarterTurn c q) := by
  unfold State.quarterTurn
  dsimp only
  split
  · exact State.ok_turn _ (by simpa using h)
  · split
    · exact State.ok_turn _ h
    · exact (okOutcome_next _).mpr h

theorem State.ok_schedTurn (c : Nat) : okOutcome (s.schedTurn c) := by
  simp only [State.schedTurn, okOutcome_ite]
  refine ⟨fun _ => (okOutcome_next _).mpr h, fun _ => ?_⟩
  split
  · exact okOutcome_refused _
  · simpa using h
  · exact ok_exec _ h

theorem State.ok_run : okOutcome (s.run a) := by
  cases a with
  | gang c w j =>
    rw [State.run, okOutcome_ite]
    exact ⟨fun _ => State.ok_quarterTurn h _ _, fun _ => State.ok_turn _ (by simpa using h)⟩
  | seq c b cp => exact State.ok_turn _ h
  | quarter c q => exact State.ok_quarterTurn h c q
  | sched c => exact State.ok_schedTurn h c
  | engine c => exact (okOutcome_next _).mpr h
  | none => exact (okOutcome_next _).mpr h

end Turns

theorem Mem.ok_peerStore {m : Mem} (a : Nat) (bs : List Byte) (poison : Bool) (h : m.ok) : (m.peerStore a bs poison).ok := by
  have hw : (m.write 1 a bs).ok := Mem.ok_write 1 a bs h
  simp only [Mem.peerStore, Mem.ok_ite]
  exact ⟨fun _ => Mem.ok_foldl _ _ (fun _ _ hm => Mem.ok_setPoison 1 _ _ hm) hw, fun _ => hw⟩

/-- Whatever the move, a step leaves the memories canonical. -/
theorem ok_step {s : State} (h : s.mem.ok) : okOutcome (step s) := by
  rw [step, okOutcome_ite]
  refine ⟨fun _ => okOutcome_fault _, fun _ => ?_⟩
  split
  · exact ok_exec _ h
  · exact State.ok_run _ h
  · simpa using h
  · simpa using h
  · exact (okOutcome_next _).mpr (State.ok_gcmFail _ h)
  · exact (okOutcome_next _).mpr h
  · exact (okOutcome_next _).mpr (Mem.ok_peerStore _ _ _ h)
  · simpa using h
  · simpa using h
  · simpa using h
  · simpa using h
  · simpa using h
  · exact (okOutcome_next _).mpr (State.ok_schedStore _ _ _ _ _ h)
  · exact State.ok_run _ h

/-! ## The statements -/

/-- Settles O7: the reset state lists nothing. -/
theorem resetMemory : Obligations.ResetMemory := ⟨Mem.ok_reset, rfl, rfl, rfl⟩

/-- Settles O8: every function of the model keeps the canonical form, a step among them. -/
theorem memoryCanonical : Obligations.MemoryCanonical := fun _ t h e => ok_step h t e

end Sys2Proof.Machine
end

section
/-!
PROOFS. Read after write: of the three memories (R31), and of a core's scratchpad, whose rows read as zero until they are touched (R84).
-/

namespace Sys2Proof.Machine

/-! ## Global memory (R31) -/

theorem Mem.byte_write (m : Mem) (loc a : Nat) (bs : List Byte) (loc' b : Nat) (h : loc < 3) (h' : loc' < 3) :
    (m.write loc a bs).byte loc' b = if loc' = loc ∧ a ≤ b ∧ b < a + bs.length then bs.getD (b - a) 0 else m.byte loc' b := by
  have hw : (m.write loc a bs).byte loc' b = (m.putAll loc a bs).byte loc' b := by
    unfold Mem.write
    split
    all_goals exact Mem.foldl_byte _ _ (fun m g loc' b => Mem.byte_setPoison m loc g false loc' b) _ loc' b
  rw [hw, Mem.byte_putAll _ _ _ _ _ _ h h']
  by_cases hl : b - a < bs.length
  · simp only [show (b < a + bs.length) = True by simp; omega, and_true, List.getD_eq_getElem _ _ hl]
  · rw [List.getD_eq_default _ _ (by omega), ite_self, if_neg (by omega)]

/-! ## Rows of the scratchpad (R83, R84) -/

theorem Core.mend_scr (k : Core) (pl : Nat × Nat × Nat) (l : List Nat) : (k.mend pl l).scr = k.scr := rfl
@[simp] theorem Core.mend_scrFresh (k : Core) (pl : Nat × Nat × Nat) (l : List Nat) (r : Nat) : (k.mend pl l).scrFresh r = k.scrFresh r := rfl

/-- A row of the scratchpad has a key of its own among the touched rows. -/
theorem Core.scrRowKey_inj {k : Core} {r r' : Nat} (hr : r < k.scrBanks * 512) (hr' : r' < k.scrBanks * 512)
    (h : rowKey .scr (k.scrBank r) (k.scrRow r) = rowKey .scr (k.scrBank r') (k.scrRow r')) : r = r' := by
  have hq : r / k.scrBanks < 512 := Nat.div_lt_of_lt_mul hr
  have hq' : r' / k.scrBanks < 512 := Nat.div_lt_of_lt_mul hr'
  simp only [rowKey, bankKey, Core.scrBank, Core.scrRow] at h
  rw [← Nat.div_add_mod r k.scrBanks, ← Nat.div_add_mod r' k.scrBanks]
  generalize r / k.scrBanks = q, r % k.scrBanks = m, r' / k.scrBanks = q', r' % k.scrBanks = m' at *
  rw [show q = q' by omega, show m = m' by omega]

/-- The rows of the bytes below the scratchpad's size. -/
theorem Core.scrRow_lt {k : Core} {b : Nat} (h : b < k.scrSize) : b / 16 < k.scrBanks * 512 := by
  simp only [Core.scrSize, Core.scrBanks] at h ⊢
  omega

@[simp] theorem Core.touchScr_bars (k : Core) (r : Nat) : (k.touchScr r).bars = k.bars := by
  unfold Core.touchScr
  split <;> rfl

@[simp] theorem Core.touchScr_pword (k : Core) (r : Nat) : (k.touchScr r).pword = k.pword := by
  unfold Core.touchScr
  split <;> rfl

@[simp] theorem Core.touchScr_clean (k : Core) (r : Nat) : (k.touchScr r).clean = k.clean := by
  unfold Core.touchScr
  split <;> rfl

theorem Core.touchScr_touched (k : Core) (r : Nat) :
    (k.touchScr r).touched = Sparse.set false k.touched (rowKey .scr (k.scrBank r) (k.scrRow r)) true := by
  unfold Core.touchScr
  split <;> rfl

/-- A row touched is not fresh; another is as it was. -/
theorem Core.touchScr_scrFresh {k : Core} {r r' : Nat} (hr : r < k.scrBanks * 512) (hr' : r' < k.scrBanks * 512) :
    (k.touchScr r).scrFresh r' = if r' = r then false else k.scrFresh r' := by
  have hs : (k.touchScr r).scrFresh r' = (Sparse.get false k.clean (bankKey .scr (k.scrBank r'))
      && !Sparse.get false (Sparse.set false k.touched (rowKey .scr (k.scrBank r) (k.scrRow r)) true) (rowKey .scr (k.scrBank r') (k.scrRow r'))) := by
    simp only [Core.scrFresh, Core.freshRow, Core.touchScr_clean, Core.touchScr_touched, Core.scrBank, Core.scrRow, Core.scrBanks,
      Core.touchScr_pword]
  rw [hs]
  by_cases h : r' = r
  · simp [h]
  · rw [Sparse.get_set_ne _ _ _ fun e => h (Core.scrRowKey_inj hr' hr e), if_neg h]
    rfl

/-- Zeros written one after the other. -/
theorem Sparse.get_foldl_zero (m : Sparse Byte) (a n o : Nat) :
    Sparse.get 0 ((List.range n).foldl (fun m i => Sparse.set 0 m (a + i) 0) m) o = if a ≤ o ∧ o < a + n then 0 else Sparse.get 0 m o := by
  induction n with
  | zero => simp
  | succ n ih =>
    rw [List.range_succ, List.foldl_append, List.foldl_cons, List.foldl_nil, Sparse.get_set, ih]
    by_cases ho : o = a + n
    · simp [ho]
    · simp only [if_neg ho, show (o < a + (n + 1)) ↔ (o < a + n) by omega]

theorem Core.touchScr_scr (k : Core) (r o : Nat) :
    Sparse.get 0 (k.touchScr r).scr o = if k.scrFresh r = true ∧ o / 16 = r then 0 else Sparse.get 0 k.scr o := by
  unfold Core.touchScr
  by_cases h : k.scrFresh r = true
  · simp only [h, if_true, Core.mend_scr, Sparse.get_foldl_zero, true_and, show (16 * r ≤ o ∧ o < 16 * r + 16) ↔ o / 16 = r by omega]
  · simp [h]

/-! ## Bytes of the scratchpad -/

theorem Core.scrByte_of_noBars {k : Core} (h : k.bars = []) (o : Nat) : k.scrByte o = if k.scrFresh (o / 16) then 0 else Sparse.get 0 k.scr o := by
  simp [Core.scrByte, Core.barAt, h]

/-- A row's first touch changes no byte (R84). -/
theorem Core.scrByte_touchScr {k : Core} (h : k.bars = []) {r o : Nat} (hr : r < k.scrBanks * 512) (ho : o < k.scrSize) :
    (k.touchScr r).scrByte o = k.scrByte o := by
  rw [Core.scrByte_of_noBars (by simp [h]), Core.scrByte_of_noBars h, Core.touchScr_scrFresh hr (Core.scrRow_lt ho), Core.touchScr_scr]
  by_cases e : o / 16 = r <;> simp [e]

theorem Core.putScr_eq {k : Core} (h : k.bars = []) (a : Nat) (b : Byte) : k.putScr a b =
    { k.touchScr (a / 16) with scr := Sparse.set 0 (k.touchScr (a / 16)).scr a b }.mend (k.scrPlace (a / 16)) [a % 16] := by
  simp [Core.putScr, Core.barAt, h]

theorem Core.putScr_bars {k : Core} (h : k.bars = []) (a : Nat) (b : Byte) : (k.putScr a b).bars = [] := by
  rw [Core.putScr_eq h]
  exact (k.touchScr_bars _).trans h

theorem Core.putScr_scrSize {k : Core} (h : k.bars = []) (a : Nat) (b : Byte) : (k.putScr a b).scrSize = k.scrSize := by
  have e : (k.putScr a b).pword = k.pword := by
    rw [Core.putScr_eq h]
    exact k.touchScr_pword _
  rw [Core.scrSize, e, Core.scrSize]

theorem Core.scrByte_putScr {k : Core} (h : k.bars = []) {a o : Nat} (b : Byte) (ha : a < k.scrSize) (ho : o < k.scrSize) :
    (k.putScr a b).scrByte o = if o = a then b else k.scrByte o := by
  have hf : (k.putScr a b).scrFresh (o / 16) = if o / 16 = a / 16 then false else k.scrFresh (o / 16) := by
    rw [Core.putScr_eq h, ← Core.touchScr_scrFresh (Core.scrRow_lt ha) (Core.scrRow_lt ho)]
    rfl
  have hs : Sparse.get 0 (k.putScr a b).scr o = if o = a then b else Sparse.get 0 (k.touchScr (a / 16)).scr o := by
    rw [Core.putScr_eq h, Core.mend_scr, Sparse.get_set]
  rw [Core.scrByte_of_noBars (Core.putScr_bars h a b), hf, hs]
  by_cases e : o = a
  · simp [e]
  · have ht := Core.scrByte_touchScr h (Core.scrRow_lt ha) ho
    rw [Core.scrByte_of_noBars (by simp [h]), Core.touchScr_scrFresh (Core.scrRow_lt ha) (Core.scrRow_lt ho)] at ht
    rw [if_neg e, if_neg e, ht]

theorem scrByte_putScrAll {k : Core} (h : k.bars = []) {a o : Nat} (bs : List Byte) (ha : a + bs.length ≤ k.scrSize) (ho : o < k.scrSize) :
    (putScrAll k a bs).bars = [] ∧ (putScrAll k a bs).scrByte o = if a ≤ o ∧ o < a + bs.length then bs.getD (o - a) 0 else k.scrByte o := by
  induction bs generalizing k a with
  | nil => exact ⟨h, by simp [putScrAll]⟩
  | cons b bs ih =>
    rw [List.length_cons] at ha ⊢
    have hz := Core.putScr_scrSize h a b
    obtain ⟨hb, hv⟩ := ih (Core.putScr_bars h a b) (a := a + 1) (by omega) (by omega)
    refine ⟨hb, ?_⟩
    rw [putScrAll, hv, Core.scrByte_putScr h b (by omega) ho]
    rcases Nat.lt_trichotomy o a with e | e | e
    · simp [show ¬ a ≤ o by omega, show ¬ a + 1 ≤ o by omega, show ¬ o = a by omega]
    · simp [e]
    · rw [show o - a = (o - (a + 1)) + 1 by omega, List.getD_cons_succ, if_neg (show ¬ o = a by omega)]
      simp only [show a + 1 ≤ o ↔ a ≤ o by omega, show o < a + 1 + bs.length ↔ o < a + (bs.length + 1) by omega]

/-- Settles O11: bytes are written one after the other, and clearing poison changes none. -/
theorem memoryReadWrite : Obligations.MemoryReadWrite := by
  refine ⟨fun m loc a bs loc' b h h' => m.byte_write loc a bs loc' b h h', fun k a bs b h ha hb => ?_⟩
  obtain ⟨hbars, hv⟩ := scrByte_putScrAll h bs ha hb
  rw [← hv, Core.scrByte_of_noBars hbars]
  exact Core.scrByte_of_noBars (k := k.writeScr a bs) hbars b

end Sys2Proof.Machine
end

section
/-!
PROOFS. Keys, tags and save areas: what a command of the monitor ends in, what a change of one page's tag does, and of a list of pages,
and from these the commands KEYNEW, KEYERASE, TAGSET and SAVESET.
-/

namespace Sys2Proof.Machine

/-! ## Entries of a sparse map -/

/-- A key below the bound of a canonical list is not listed. -/
theorem Sparse.get_of_wfFrom {α : Type} [DecidableEq α] {d : α} {m : Sparse α} {lo k : Nat} (h : Sparse.wfFrom d lo m = true)
    (hk : k < lo) : Sparse.get d m k = d := by
  induction m generalizing lo with
  | nil => rfl
  | cons p r ih =>
    obtain ⟨a, v⟩ := p
    simp only [Sparse.wfFrom, Bool.and_eq_true, decide_eq_true_eq] at h
    simp only [Sparse.get, if_neg (show ¬ a = k by omega)]
    exact ih h.2 (by omega)

theorem Sparse.mem_iff_of_wfFrom {α : Type} [DecidableEq α] {d : α} {m : Sparse α} {lo : Nat} (h : Sparse.wfFrom d lo m = true) (k : Nat)
    (v : α) : (k, v) ∈ m ↔ v ≠ d ∧ Sparse.get d m k = v := by
  induction m generalizing lo with
  | nil => simp [eq_comm]
  | cons p r ih =>
    obtain ⟨a, x⟩ := p
    simp only [Sparse.wfFrom, Bool.and_eq_true, decide_eq_true_eq] at h
    have hr := Sparse.get_of_wfFrom h.2 (show a < a + 1 by omega)
    by_cases ha : a = k
    · subst ha
      have hx := h.1.2
      simp only [List.mem_cons, Prod.mk.injEq, true_and, ih h.2, hr, Sparse.get, if_true]
      grind
    · simp only [List.mem_cons, Prod.mk.injEq, Ne.symm ha, false_and, false_or, ih h.2, Sparse.get, if_neg ha]

/-- A canonical map lists exactly the values that differ from the common one. -/
theorem Sparse.mem_iff {α : Type} [DecidableEq α] {d : α} {m : Sparse α} (h : Sparse.wf d m = true) (k : Nat) (v : α) :
    (k, v) ∈ m ↔ v ≠ d ∧ Sparse.get d m k = v := Sparse.mem_iff_of_wfFrom h k v

/-- Leaving out the keys that `f` refuses makes them read as the common value. -/
theorem Sparse.get_filter {α : Type} (d : α) (m : Sparse α) (f : Nat → Bool) (k : Nat) :
    Sparse.get d (m.filter fun p => f p.1) k = if f k then Sparse.get d m k else d := by
  induction m with
  | nil => simp
  | cons p r ih =>
    obtain ⟨a, v⟩ := p
    by_cases ha : a = k
    · subst ha
      cases hf : f a <;> simp [hf, Sparse.get, ih]
    · cases hf : f a <;> simp [hf, Sparse.get, ha, ih]

/-! ## The end of a command -/

@[simp] theorem State.served_status (s : State) (mb : Mailbox) (st : Nat) : (s.served mb st).mon.status mb = BitVec.ofNat 32 st := by
  cases mb <;> simp only [State.served] <;> split <;> rfl

@[simp] theorem State.served_dword (s : State) (mb : Mailbox) (st : Nat) (i : Nat) : (s.served mb st).mon.dword mb i = s.mon.dword mb i := by
  cases mb <;> simp only [State.served] <;> split <;> rfl

@[simp] theorem State.served_key (s : State) (mb : Mailbox) (st n : Nat) : (s.served mb st).key n = s.key n := by
  cases mb <;> simp only [State.served] <;> split <;> rfl

@[simp] theorem State.served_tags (s : State) (mb : Mailbox) (st : Nat) : (s.served mb st).mon.tags = s.mon.tags := by
  cases mb <;> simp only [State.served] <;> split <;> rfl

@[simp] theorem State.served_tag (s : State) (mb : Mailbox) (st p : Nat) : (s.served mb st).tag p = s.tag p := by
  simp [State.tag]

@[simp] theorem State.served_areas (s : State) (mb : Mailbox) (st : Nat) : (s.served mb st).mon.areas = s.mon.areas := by
  cases mb <;> simp only [State.served] <;> split <;> rfl

@[simp] theorem State.served_erase (s : State) (mb : Mailbox) (st : Nat) : (s.served mb st).mon.erase = s.mon.erase := by
  cases mb <;> simp only [State.served] <;> split <;> rfl

@[simp] theorem State.served_cores (s : State) (mb : Mailbox) (st : Nat) : (s.served mb st).cores = s.cores := by
  cases mb <;> simp only [State.served] <;> split <;> rfl

/-- A command that the monitor takes up, of a caller whom the table names, has its effect and its status. -/
theorem State.command_fw {s : State} {code : Word} (h : s.takes .fw code = true) (host : Bool) (f : State → State × Nat) :
    s.command .fw code host true f = .next ((f s).1.served .fw (f s).2) := by
  simp only [State.takes, Bool.and_eq_true] at h
  obtain ⟨hb, hs⟩ := h
  cases hbusy : s.mon.busy .fw
  · simp only [hbusy, Bool.false_eq_true, if_false] at hb
    simp [State.command, hbusy, hb, hs]
  · simp only [hbusy, if_true, beq_iff_eq] at hb
    simp [State.command, hbusy, hb, hs]

/-- While an erasure runs on no command is taken up. -/
theorem State.takes_erase {s : State} {mb : Mailbox} {code : Word} (h : s.takes mb code = true) : s.mon.erase = none := by
  simp only [State.takes, Mon.serves, Bool.and_eq_true] at h
  exact Option.isNone_iff_eq_none.1 h.2.1

/-! ## Zeros over a range, and a page's tag -/

theorem Mem.byte_zeroRange (m : Mem) (a n loc b : Nat) :
    (m.zeroRange a n).byte loc b = if loc = 0 ∧ a ≤ b ∧ b < a + n then 0 else m.byte loc b := by
  have hf := Sparse.get_filter (0 : Byte) m.hbm (fun k => !(decide (a ≤ k) && decide (k < a + n))) b
  by_cases h0 : loc = 0
  · subst h0
    simp only [Mem.byte, Mem.zeroRange, if_true, hf]
    by_cases hb : a ≤ b ∧ b < a + n
    · simp [hb.1, hb.2]
    · have : (decide (a ≤ b) && decide (b < a + n)) = false := by simpa using hb
      simp [this, hb]
  · simp [Mem.byte, Mem.zeroRange, h0]

/-- Where no memory is closed to the monitor, zeros over a range change the memory alone. -/
theorem State.zeroRange_of_openMem {s : State} (h : s.openMem = true) (a n : Nat) :
    s.zeroRange a n = { s with mem := s.mem.zeroRange a n } := by
  simp only [State.openMem, Bool.and_eq_true, Option.isNone_iff_eq_none, List.isEmpty_iff] at h
  simp [State.zeroRange, h.1, h.2]

/-- A page's tag changed where no memory is closed to the monitor. -/
theorem State.retag_of_openMem {s : State} (h : s.openMem = true) (p : Nat) (t : Tag) :
    s.retag p t = if s.tag p = t then s
      else ({ s with mem := s.mem.zeroRange (65536 * p) 65536 } : State).setTag p t := by
  rw [State.retag, State.zeroRange_of_openMem h]

theorem State.tag_setTag (s : State) (p : Nat) (t : Tag) (q : Nat) : (s.setTag p t).tag q = if q = p then t else s.tag q :=
  Sparse.get_set _ _ _ _ _

theorem State.key_setKey (s : State) (n : Nat) (k : KeySlot) (m : Nat) : (s.setKey n k).key m = if m = n then k else s.key m :=
  Sparse.get_set _ _ _ _ _

@[simp] theorem State.setKey_tag (s : State) (n : Nat) (k : KeySlot) (p : Nat) : (s.setKey n k).tag p = s.tag p := rfl

@[simp] theorem State.setKey_tags (s : State) (n : Nat) (k : KeySlot) : (s.setKey n k).mon.tags = s.mon.tags := rfl

@[simp] theorem State.setKey_erase (s : State) (n : Nat) (k : KeySlot) : (s.setKey n k).mon.erase = s.mon.erase := rfl

@[simp] theorem State.postFw_mon (s : State) (ty v : Nat) : (s.postFw ty v).mon = s.mon := by
  simp only [State.postFw]; split <;> rfl

@[simp] theorem State.postFw_tag (s : State) (ty v p : Nat) : (s.postFw ty v).tag p = s.tag p := by simp [State.tag]

@[simp] theorem State.postFw_key (s : State) (ty v n : Nat) : (s.postFw ty v).key n = s.key n := by simp [State.key]

theorem State.tag_retag {s : State} (h : s.openMem = true) (p : Nat) (t : Tag) (q : Nat) :
    (s.retag p t).tag q = if q = p then t else s.tag q := by
  rw [State.retag_of_openMem h]
  split
  · next e => by_cases hq : q = p <;> simp [hq, e]
  · exact State.tag_setTag _ p t q

theorem State.retag_openMem {s : State} (h : s.openMem = true) (p : Nat) (t : Tag) : (s.retag p t).openMem = true := by
  rw [State.retag_of_openMem h]
  split <;> exact h

/-- The page whose tag changes reads as zero, and no other byte changes. -/
theorem State.byte_retag {s : State} (h : s.openMem = true) (p : Nat) (t : Tag) (loc b : Nat) :
    (s.retag p t).mem.byte loc b = if loc = 0 ∧ b / 65536 = p ∧ t ≠ s.tag p then 0 else s.mem.byte loc b := by
  rw [State.retag_of_openMem h]
  split
  · next e => simp [e]
  · next e =>
    have hb : (65536 * p ≤ b ∧ b < 65536 * p + 65536) ↔ b / 65536 = p := by omega
    change (s.mem.zeroRange (65536 * p) 65536).byte loc b = _
    simp [Mem.byte_zeroRange, hb, Ne.symm e]

/-- What a change of tags leaves alone. -/
def sameKeys (s t : State) : Prop := t.mon.keys = s.mon.keys ∧ t.mon.areas = s.mon.areas ∧ t.mon.erase = s.mon.erase ∧ t.ctxs = s.ctxs

theorem sameKeys_retag {s : State} (h : s.openMem = true) (p : Nat) (t : Tag) : sameKeys s (s.retag p t) := by
  rw [State.retag_of_openMem h]
  split <;> exact ⟨rfl, rfl, rfl, rfl⟩

/-! ## The tags of a list of pages -/

/-- The pages of a list each take the tag that `f` gives them. -/
def State.retagPages (s : State) (l : List Nat) (f : Nat → Tag) : State := l.foldl (fun t p => t.retag p (f p)) s

theorem State.retagPages_cons (s : State) (p : Nat) (l : List Nat) (f : Nat → Tag) :
    s.retagPages (p :: l) f = (s.retag p (f p)).retagPages l f := rfl

theorem sameKeys_retagPages {s : State} (h : s.openMem = true) (l : List Nat) (f : Nat → Tag) : sameKeys s (s.retagPages l f) := by
  induction l generalizing s with
  | nil => exact ⟨rfl, rfl, rfl, rfl⟩
  | cons p l ih =>
    obtain ⟨hk, ha, he, hc⟩ := ih (State.retag_openMem h p (f p))
    obtain ⟨hk', ha', he', hc'⟩ := sameKeys_retag h p (f p)
    exact ⟨hk.trans hk', ha.trans ha', he.trans he', hc.trans hc'⟩

theorem State.tag_retagPages {s : State} (h : s.openMem = true) (l : List Nat) (f : Nat → Tag) (q : Nat) :
    (s.retagPages l f).tag q = if q ∈ l then f q else s.tag q := by
  induction l generalizing s with
  | nil => rfl
  | cons p l ih =>
    rw [State.retagPages_cons, ih (State.retag_openMem h p (f p)), State.tag_retag h]
    by_cases hq : q = p
    · subst hq; simp
    · simp [hq]

theorem State.byte_retagPages {s : State} (h : s.openMem = true) (l : List Nat) (f : Nat → Tag) (loc b : Nat) :
    (s.retagPages l f).mem.byte loc b =
      if loc = 0 ∧ b / 65536 ∈ l ∧ f (b / 65536) ≠ s.tag (b / 65536) then 0 else s.mem.byte loc b := by
  induction l generalizing s with
  | nil => simp [State.retagPages]
  | cons p l ih =>
    rw [State.retagPages_cons, ih (State.retag_openMem h p (f p)), State.tag_retag h, State.byte_retag h]
    by_cases hq : b / 65536 = p
    · simp [hq]
    · simp [hq]

/-- Whether some listed tag of a canonical list has a property that the clear tag lacks. -/
theorem any_tags_iff {m : Sparse Tag} (h : Sparse.wf Tag.clear m = true) (f : Nat → Tag → Bool) (hf : ∀ p, f p Tag.clear = false) :
    (m.any fun q => f q.1 q.2) = true ↔ ∃ p, f p (Sparse.get Tag.clear m p) = true := by
  rw [List.any_eq_true]
  constructor
  · rintro ⟨⟨p, t⟩, hm, ht⟩
    exact ⟨p, by rw [((Sparse.mem_iff h p t).1 hm).2]; exact ht⟩
  · rintro ⟨p, hp⟩
    refine ⟨(p, Sparse.get Tag.clear m p), (Sparse.mem_iff h _ _).2 ⟨fun e => ?_, rfl⟩, hp⟩
    rw [e, hf] at hp
    cases hp

/-- The pages of a range. -/
theorem mem_rangePages (a n p : Nat) : p ∈ (List.range n).map (a + ·) ↔ a ≤ p ∧ p < a + n := by
  simp only [List.mem_map, List.mem_range]
  exact ⟨fun ⟨i, hi, e⟩ => by omega, fun ⟨h1, h2⟩ => ⟨p - a, by omega, by omega⟩⟩

theorem State.retagRange_eq (s : State) (a size mode slot : Nat) (sv : Bool) :
    s.retagRange a size mode slot sv = s.retagPages ((List.range (size / 65536)).map (a / 65536 + ·))
      (fun p => rangeTag mode slot (size / 65536) (p - a / 65536) sv) := by
  simp only [State.retagRange, State.retagPages, List.foldl_map, Nat.add_sub_cancel_left]

/-! ## KEYNEW -/


/-- The low byte of a buffer's first dword is the first byte of a result. -/
theorem fieldN_dword_result (s : State) (b : Byte) : fieldN ((s.result .fw [b]).mon.dword .fw 0) 0 8 = b.toNat := by
  have hbuf : (s.result .fw [b]).mon.buf .fw = Sparse.set 0 (s.mon.buf .fw) 0 b := rfl
  have hr : List.range 8 = 0 :: (List.range 7).map (· + 1) := by decide
  have h0 := b.isLt
  simp only [Mon.dword, hbuf, hr, List.map_cons, leNat, Nat.mul_zero, Nat.add_zero, Sparse.get_set_self, fieldN, BitVec.toNat_ofNat]
  generalize leNat _ = x
  omega

/-- The bits that KEYNEW's buffer may name. -/
def keynewBits (imp : Bool) : List DWord := if imp then [allBits, 0x101, allBits] else [allBits, 0x101]

/-- `n` is the lowest empty slot of a region's set. -/
def State.nextSlot (s : State) (r : Region) (n : Nat) : Prop :=
  n < 128 ∧ bitAt r.keys n = true ∧ (s.key n).st = 0 ∧ ∀ m, m < n → bitAt r.keys m = true → (s.key m).st ≠ 0

section Keynew

variable {s : State} {mb : Mailbox} {imp : Bool} (key : State → Bool → Option (BitVec 512))

theorem State.keynew_resetting (hr : s.resetting (s.mon.dword mb 0).toNat = true) : s.keynew mb imp key = (s, mDENIED) := by
  simp [State.keynew, hr]

theorem State.keynew_unnamed (hr : s.resetting (s.mon.dword mb 0).toNat = false)
    (hn : ¬ (s.mon.namedOnly mb (keynewBits imp) = true ∧ (s.region (s.mon.dword mb 0).toNat).live = true)) :
    s.keynew mb imp key = (s, mBADARG) := by
  have hb : (!s.mon.namedOnly mb (keynewBits imp) || !(s.region (s.mon.dword mb 0).toNat).live) = true := by
    rwa [← Bool.not_and, Bool.not_eq_true', ← Bool.not_eq_true, Bool.and_eq_true]
  rw [keynewBits] at hb
  simp only [State.keynew, hr, hb, Bool.false_eq_true, if_false, if_true]

variable (hr : s.resetting (s.mon.dword mb 0).toNat = false)
  (hn : s.mon.namedOnly mb (keynewBits imp) = true ∧ (s.region (s.mon.dword mb 0).toNat).live = true)
include hr hn

theorem State.keynew_full (hall : ∀ n, n < 128 → (s.key n).st ≠ 0) : s.keynew mb imp key = (s, mEXHAUSTED) := by
  obtain ⟨hn, hl⟩ := hn
  rw [keynewBits] at hn
  have ha : ((List.range 128).all fun n => (s.key n).st != 0) = true := by simpa using hall
  simp only [State.keynew, hr, hn, hl, ha, Bool.false_eq_true, if_false, if_true, Bool.not_true, Bool.or_self]

/-- Some slot is empty, so that the set is full is not that all are. -/
theorem State.keynew_some (hex : ∃ n, n < 128 ∧ (s.key n).st = 0) :
    s.keynew mb imp key =
      (((List.range 128).find? fun n => bitAt (s.region (s.mon.dword mb 0).toNat).keys n && (s.key n).st == 0).elim (s, mNOTINSET) fun n =>
        (key s (bitAt (s.mon.dword mb 1) 0)).elim (s, mSIGFAIL) fun k =>
          ((s.bump.setKey n ⟨1, bitAt (s.mon.dword mb 1) 0, (s.region (s.mon.dword mb 0).toNat).root, k, []⟩).result mb
            [BitVec.ofNat 8 n], mOK)) := by
  obtain ⟨hn, hl⟩ := hn
  obtain ⟨n, hn128, hst⟩ := hex
  rw [keynewBits] at hn
  have ha : ((List.range 128).all fun n => (s.key n).st != 0) = false :=
    List.all_eq_false.2 ⟨n, List.mem_range.2 hn128, by simp [hst]⟩
  simp only [State.keynew, hr, hn, hl, ha, Bool.false_eq_true, if_false, Bool.not_true, Bool.or_self]
  cases (List.range 128).find? _ with
  | none => rfl
  | some n =>
    cases hk : key s (bitAt (s.mon.dword mb 1) 0) with
    | none => rfl
    | some k => rfl

theorem State.keynew_outOfSet (hex : ∃ n, n < 128 ∧ (s.key n).st = 0)
    (hset : ∀ n, n < 128 → bitAt (s.region (s.mon.dword mb 0).toNat).keys n = true → (s.key n).st ≠ 0) :
    s.keynew mb imp key = (s, mNOTINSET) := by
  have hfind : ((List.range 128).find? fun n => bitAt (s.region (s.mon.dword mb 0).toNat).keys n && (s.key n).st == 0) = none := by
    simpa [List.find?_eq_none] using hset
  rw [State.keynew_some key hr hn hex, hfind]
  rfl

theorem State.keynew_slot {n : Nat} (h : s.nextSlot (s.region (s.mon.dword mb 0).toNat) n) :
    s.keynew mb imp key =
      (key s (bitAt (s.mon.dword mb 1) 0)).elim (s, mSIGFAIL) fun k =>
        ((s.bump.setKey n ⟨1, bitAt (s.mon.dword mb 1) 0, (s.region (s.mon.dword mb 0).toNat).root, k, []⟩).result mb
          [BitVec.ofNat 8 n], mOK) := by
  obtain ⟨hn128, hb, hst, hmin⟩ := h
  have hfind : ((List.range 128).find? fun n => bitAt (s.region (s.mon.dword mb 0).toNat).keys n && (s.key n).st == 0) = some n := by
    rw [List.find?_range_eq_some]
    exact ⟨by simp [hb, hst], List.mem_range.2 hn128, fun m hm => by simpa [imp_iff_not_or] using hmin m hm⟩
  rw [State.keynew_some key hr hn ⟨n, hn128, hst⟩, hfind]
  rfl

end Keynew

/-- The state in which KEYNEW leaves its slot, and what it leaves alone. -/
theorem State.keynew_effect (s : State) (n : Nat) (hn : n < 128) (k : KeySlot) :
    ∃ t, t = ((s.bump.setKey n k).result .fw [BitVec.ofNat 8 n]).served .fw mOK ∧
      t.mon.status .fw = 0 ∧ t.key n = k ∧ fieldN (t.mon.dword .fw 0) 0 8 = n ∧ (∀ m, m ≠ n → t.key m = s.key m)
      ∧ t.mem = s.mem ∧ t.cores = s.cores := by
  have hkey : ∀ m, (((s.bump.setKey n k).result .fw [BitVec.ofNat 8 n]).served .fw mOK).key m = if m = n then k else s.key m := by
    intro m
    rw [State.served_key]
    exact State.key_setKey s.bump n k m
  refine ⟨_, rfl, State.served_status _ _ _, ?_, ?_, fun m hm => ?_, by simp, by simp [State.result]⟩
  · simp [hkey]
  · rw [State.served_dword, fieldN_dword_result, BitVec.toNat_ofNat]
    omega
  · simp [hkey, hm]

theorem exec_keynewGenerate {s : State} (h : s.takes .fw 0x20 = true) (h8 : bitAt (s.mon.dword .fw 1) 8 = false) :
    exec (.keynewGenerate .fw) s =
      .next ((s.keynew .fw false fun s _ => some (Config.freeKey s.freeCtr)).1.served .fw
        (s.keynew .fw false fun s _ => some (Config.freeKey s.freeCtr)).2) := by
  change execKeynewGenerate .fw s = _
  rw [execKeynewGenerate, h8, if_neg (by decide), State.command_fw h]

/-- The bytes of an import block. -/
def importBytes (gcm : Bool) : Nat := if gcm then 1148 else 1180

theorem exec_keynewImport {s : State} (h : s.takes .fw 0x20 = true) (h8 : bitAt (s.mon.dword .fw 1) 8 = true)
    (hb : s.resetting (s.mon.dword .fw 0).toNat = true
      ∨ (s.mon.dword .fw 2).toNat + importBytes (bitAt (s.mon.dword .fw 1) 0) ≤ Config.hbmBytes) :
    exec (.keynewImport .fw) s =
      .next ((s.keynew .fw true fun t gcm => Config.unwrap (t.importBlock (s.mon.dword .fw 2).toNat gcm)).1.served .fw
        (s.keynew .fw true fun t gcm => Config.unwrap (t.importBlock (s.mon.dword .fw 2).toNat gcm)).2) := by
  change execKeynewImport .fw s = _
  rw [importBytes] at hb
  rw [execKeynewImport, h8, if_neg (by decide), State.command_fw h, if_neg (by simpa [imp_iff_not_or] using hb)]

theorem exec_keynewImport_beyond {s : State} (h : s.takes .fw 0x20 = true) (h8 : bitAt (s.mon.dword .fw 1) 8 = true)
    (hr : s.resetting (s.mon.dword .fw 0).toNat = false)
    (hb : Config.hbmBytes < (s.mon.dword .fw 2).toNat + importBytes (bitAt (s.mon.dword .fw 1) 0)) :
    exec (.keynewImport .fw) s = .next (s.served .fw 1) := by
  change execKeynewImport .fw s = _
  rw [importBytes] at hb
  rw [execKeynewImport, h8, if_neg (by decide), State.command_fw h, if_pos (by simpa [hr] using hb)]
  rfl

/-! ## KEYERASE -/

/-- A page whose tag names a key slot; save areas name none. -/
def State.namesKey (s : State) (n p : Nat) : Prop := (s.tag p).mode ≠ 0 ∧ (s.tag p).slot = n ∧ (s.tag p).sv = false

/-- The pages that the erasure of a slot clears. -/
def State.keyPages (s : State) (n : Nat) : List Nat := (s.mon.tags.filter fun q => q.2.mode != 0 && q.2.slot = n && !q.2.sv).map Prod.fst

theorem State.mem_keyPages {s : State} (hw : Sparse.wf Tag.clear s.mon.tags = true) (n p : Nat) : p ∈ s.keyPages n ↔ s.namesKey n p := by
  constructor
  · intro hp
    obtain ⟨⟨q, t⟩, hq, rfl⟩ := List.mem_map.1 hp
    obtain ⟨hm, hf⟩ := List.mem_filter.1 hq
    rw [State.namesKey, State.tag, ((Sparse.mem_iff hw q t).1 hm).2]
    simpa [and_assoc] using hf
  · rintro ⟨h0, h1, h2⟩
    refine List.mem_map.2 ⟨(p, s.tag p), List.mem_filter.2 ⟨(Sparse.mem_iff hw _ _).2 ⟨fun e => h0 ?_, rfl⟩, ?_⟩, rfl⟩
    · rw [e]; rfl
    · simp [h0, h1, h2]

theorem State.endErase_eq (s : State) (n : Nat) :
    s.endErase n = (s.retagPages (s.keyPages n) fun _ => Tag.clear).setKey n KeySlot.empty := rfl

section EndErase

variable {s : State} (hw : Sparse.wf Tag.clear s.mon.tags = true) (ho : s.openMem = true) (n : Nat)
include hw ho

theorem State.tag_endErase (p : Nat) : (s.namesKey n p → (s.endErase n).tag p = Tag.clear)
    ∧ (¬ s.namesKey n p → (s.endErase n).tag p = s.tag p) := by
  rw [State.endErase_eq, State.setKey_tag, State.tag_retagPages ho, ← State.mem_keyPages hw]
  exact ⟨fun h => if_pos h, fun h => if_neg h⟩

/-- The pages that name the slot read as zeros, and no other byte changes. -/
theorem State.byte_endErase (loc b : Nat) : (loc = 0 → s.namesKey n (b / 65536) → (s.endErase n).mem.byte loc b = 0)
    ∧ (loc ≠ 0 ∨ ¬ s.namesKey n (b / 65536) → (s.endErase n).mem.byte loc b = s.mem.byte loc b) := by
  rw [State.endErase_eq, State.setKey_mem, State.byte_retagPages ho, ← State.mem_keyPages hw]
  constructor
  · intro h0 hn
    have hc : Tag.clear ≠ s.tag (b / 65536) := fun e => ((State.mem_keyPages hw n _).1 hn).1 (by rw [← e]; rfl)
    exact if_pos ⟨h0, hn, hc⟩
  · intro h
    exact if_neg fun h' => h.elim (fun h0 => h0 h'.1) (fun hn => hn h'.2.1)

omit hw in
theorem State.endErase_erase : (s.endErase n).mon.erase = s.mon.erase := by
  obtain ⟨_, _, he, _⟩ := sameKeys_retagPages ho (s.keyPages n) fun _ => Tag.clear
  rw [State.endErase_eq, State.setKey_erase, he]

end EndErase

theorem State.key_endErase (s : State) (n : Nat) : (s.endErase n).key n = KeySlot.empty := by
  rw [State.endErase_eq, State.key_setKey, if_pos rfl]

/-- The erasure's end, as its command reports it: of a state `u` that differs from `s` in the slot and the erasure that runs alone. -/
theorem State.erased {s u : State} (hw : Sparse.wf Tag.clear s.mon.tags = true) (ho : s.openMem = true) (n : Nat)
    (ht : u.mon.tags = s.mon.tags) (hf : u.openMem = s.openMem) (hm : u.mem = s.mem) (he : u.mon.erase = none) :
    ∃ t, t = ((u.endErase n).postFw 0x01 n).served .fw mOK ∧ t.mon.status .fw = 0 ∧ t.mon.erase = none ∧ t.key n = KeySlot.empty
      ∧ (∀ p, s.namesKey n p → t.tag p = Tag.clear) ∧ (∀ p, ¬ s.namesKey n p → t.tag p = s.tag p)
      ∧ (∀ b, s.namesKey n (b / 65536) → t.mem.byte 0 b = 0)
      ∧ ∀ loc b, loc < 3 → loc ≠ 0 ∨ ¬ s.namesKey n (b / 65536) → t.mem.byte loc b = s.mem.byte loc b := by
  have hwu : Sparse.wf Tag.clear u.mon.tags = true := ht ▸ hw
  have hou : u.openMem = true := hf ▸ ho
  have htag : ∀ p, u.tag p = s.tag p := fun p => by rw [State.tag, ht]; rfl
  have hnames : ∀ p, u.namesKey n p ↔ s.namesKey n p := fun p => by rw [State.namesKey, htag]; rfl
  refine ⟨_, rfl, by simp [mOK], ?_, ?_, fun p hp => ?_, fun p hp => ?_, fun b hb => ?_, fun loc b _ hb => ?_⟩
  · rw [State.served_erase, State.postFw_mon, State.endErase_erase hou, he]
  · rw [State.served_key, State.postFw_key, State.key_endErase]
  · rw [State.served_tag, State.postFw_tag, (State.tag_endErase hwu hou n p).1 ((hnames p).2 hp)]
  · rw [State.served_tag, State.postFw_tag, (State.tag_endErase hwu hou n p).2 (mt (hnames p).1 hp), htag]
  · rw [State.served_mem, State.postFw_mem, (State.byte_endErase hwu hou n 0 b).1 rfl ((hnames _).2 hb)]
  · rw [State.served_mem, State.postFw_mem, (State.byte_endErase hwu hou n loc b).2 (hb.imp_right (mt (hnames _).1)), hm]

/-- An erasure that runs on ends in its second event. -/
theorem exec_keyerase_second {s : State} {n : Nat} (he : s.mon.erase = some n) (hb : s.mon.busy .fw = true) (hc : s.mon.cmd .fw = 0x21) :
    exec (.keyerase .fw) s =
      .next (((({ s with mon := { s.mon with erase := none } } : State).endErase n).postFw 0x01 n).served .fw mOK) := by
  change execKeyerase .fw s = _
  simp [execKeyerase, he, hb, hc]

/-- What KEYERASE does with a slot when the monitor takes it up. -/
def State.keyerase (s : State) (n : Nat) : State × Nat :=
  if s.mon.namedOnly .fw [allBits, 0xFF] = false ∨ (s.region (s.mon.dword .fw 0).toNat).live = false ∨ 128 ≤ n
      ∨ bitAt (s.region (s.mon.dword .fw 0).toNat).keys n = false then (s, mBADARG)
  else if (s.key n).st = 2 then (s, mINUSE)
  else if (s.key n).st = 0 then (s, mOK)
  else if s.mon.busy .fw = true then ({ s.beginErase n with mon := { (s.beginErase n).mon with erase := some n } }, mBUSY)
  else ((s.eraseKey n).postFw 0x01 n, mOK)

theorem exec_keyerase {s : State} (h : s.takes .fw 0x21 = true) :
    exec (.keyerase .fw) s =
      .next ((s.keyerase (fieldN (s.mon.dword .fw 1) 0 8)).1.served .fw (s.keyerase (fieldN (s.mon.dword .fw 1) 0 8)).2) := by
  change execKeyerase .fw s = _
  simp only [execKeyerase, State.takes_erase h, State.command_fw h, State.keyerase, Bool.or_eq_true, Bool.not_eq_true', decide_eq_true_eq,
    or_assoc]

theorem State.key_beginErase (s : State) (n : Nat) : (s.beginErase n).key n = { KeySlot.empty with st := 2, root := (s.key n).root } := by
  rw [State.beginErase, State.key_setKey, if_pos rfl]

/-- KEYERASE of a slot that holds a key, rung before: the slot is erasing and the command stays busy. -/
theorem exec_keyerase_begins {s : State} (h : s.takes .fw 0x21 = true) (n : Nat) (hn : fieldN (s.mon.dword .fw 1) 0 8 = n)
    (hb : s.keyerase n = ({ s.beginErase n with mon := { (s.beginErase n).mon with erase := some n } }, mBUSY)) :
    ∃ t : State, exec (.keyerase .fw) s = .next t ∧ t.mon.busy .fw = true ∧ t.mon.erase = some n
      ∧ t.key n = { KeySlot.empty with st := 2, root := (s.key n).root } ∧ t.mon.tags = s.mon.tags ∧ t.mem = s.mem ∧ t.cores = s.cores := by
  rw [exec_keyerase h, hn, hb]
  refine ⟨_, rfl, ?_, by simp, ?_, by simp [State.beginErase], by simp [State.beginErase], by simp [State.beginErase]⟩
  · simp [Mon.busy, mBUSY, bitAt]
  · rw [State.served_key]
    exact s.key_beginErase n

/-- KEYERASE of a slot that holds a key, not rung before: the erasure is over at once. -/
theorem exec_keyerase_ends {s : State} (h : s.takes .fw 0x21 = true) (hw : Sparse.wf Tag.clear s.mon.tags = true) (ho : s.openMem = true)
    (n : Nat) (hn : fieldN (s.mon.dword .fw 1) 0 8 = n) (hb : s.keyerase n = ((s.eraseKey n).postFw 0x01 n, mOK)) :
    ∃ t : State, exec (.keyerase .fw) s = .next t ∧ t.mon.status .fw = 0 ∧ t.key n = KeySlot.empty
      ∧ (∀ p, s.namesKey n p → t.tag p = Tag.clear) ∧ (∀ p, ¬ s.namesKey n p → t.tag p = s.tag p)
      ∧ (∀ b, s.namesKey n (b / 65536) → t.mem.byte 0 b = 0)
      ∧ ∀ loc b, loc < 3 → loc ≠ 0 ∨ ¬ s.namesKey n (b / 65536) → t.mem.byte loc b = s.mem.byte loc b := by
  obtain ⟨t, ht, hstatus, -, hrest⟩ :=
    State.erased (u := s.beginErase n) hw ho n (State.setKey_tags _ _ _) rfl (State.setKey_mem _ _ _)
      ((State.setKey_erase _ _ _).trans (State.takes_erase h))
  exact ⟨t, by rw [exec_keyerase h, hn, hb, ht, State.eraseKey], hstatus, hrest⟩

/-! ## The tags of a range -/

section Range

variable {s : State} (ho : s.openMem = true) {a size : Nat} (ha : a % 65536 = 0) (mode slot : Nat) (sv : Bool)
include ho ha

theorem State.tag_retagRange (p : Nat) : (s.retagRange a size mode slot sv).tag p =
    if a / 65536 ≤ p ∧ p < (a + size) / 65536 then rangeTag mode slot (size / 65536) (p - a / 65536) sv else s.tag p := by
  have hs : (a + size) / 65536 = a / 65536 + size / 65536 := by omega
  rw [State.retagRange_eq, State.tag_retagPages ho]
  simp only [mem_rangePages, hs]

theorem State.byte_retagRange (loc b : Nat) : (s.retagRange a size mode slot sv).mem.byte loc b =
    if loc = 0 ∧ (a / 65536 ≤ b / 65536 ∧ b / 65536 < (a + size) / 65536)
        ∧ rangeTag mode slot (size / 65536) (b / 65536 - a / 65536) sv ≠ s.tag (b / 65536) then 0
    else s.mem.byte loc b := by
  have hs : (a + size) / 65536 = a / 65536 + size / 65536 := by omega
  rw [State.retagRange_eq, State.byte_retagPages ho]
  simp only [mem_rangePages, hs]

omit ha in
theorem sameKeys_retagRange : sameKeys s (s.retagRange a size mode slot sv) := by
  rw [State.retagRange_eq]
  exact sameKeys_retagPages ho _ _

end Range

/-! ## TAGSET -/

/-- The operands of TAGSET (R258). -/
def State.tagBase (s : State) : Nat := (s.mon.dword .fw 0).toNat
def State.tagSize (s : State) : Nat := (s.mon.dword .fw 1).toNat
def State.tagMode (s : State) : Nat := fieldN (s.mon.dword .fw 2) 0 2
def State.tagSlot (s : State) : Nat := fieldN (s.mon.dword .fw 2) 8 7
def State.tagRegion (s : State) : Region := s.region (s.mon.dword .fw 3).toNat

/-- Whether they are good (R258, R39). -/
def State.tagsetGood (s : State) : Prop :=
  s.mon.namedOnly .fw [allBits, allBits, 0x7F03, allBits] = true ∧ s.tagRegion.live = true ∧ s.tagBase % 65536 = 0 ∧ s.tagSize ≠ 0
    ∧ s.tagSize % 65536 = 0 ∧ s.tagBase + s.tagSize ≤ Config.hbmBytes ∧ s.tagMode ≠ 3
    ∧ (s.tagMode ≠ 0 → (s.key s.tagSlot).st = 1 ∧ bitAt s.tagRegion.keys s.tagSlot = true)
    ∧ (s.tagMode = 2 → s.tagBase % 524288 = 0 ∧ s.tagSize % 524288 = 0)

/-- The same as TAGSET computes it, of bad ones. -/
def State.tagsetBad (s : State) : Bool :=
  !s.mon.namedOnly .fw [allBits, allBits, 0x7F03, allBits] || !s.tagRegion.live || s.tagBase % 65536 ≠ 0 || s.tagSize = 0
    || s.tagSize % 65536 ≠ 0 || Config.hbmBytes < s.tagBase + s.tagSize || s.tagMode = 3
    || (s.tagMode ≠ 0 && ((s.key s.tagSlot).st ≠ 1 || !bitAt s.tagRegion.keys s.tagSlot))
    || (s.tagMode = 2 && (s.tagBase % 524288 ≠ 0 || s.tagSize % 524288 ≠ 0))

theorem State.tagsetBad_eq_false_iff (s : State) : s.tagsetBad = false ↔ s.tagsetGood := by
  simp [State.tagsetBad, State.tagsetGood, and_assoc, imp_iff_not_or]

/-- What TAGSET does when the monitor takes it up. -/
def State.tagset (s : State) : State × Nat :=
  if s.resetting (s.mon.dword .fw 3).toNat then (s, mDENIED)
  else if s.tagsetBad then (s, mBADARG)
  else if s.mon.tags.any fun p => p.2.sv && s.tagBase / 65536 ≤ p.1 && p.1 < (s.tagBase + s.tagSize) / 65536 then (s, mINUSE)
  else (s.retagRange s.tagBase s.tagSize s.tagMode (if s.tagMode = 0 then 0 else s.tagSlot) false, mOK)

theorem exec_tagset {s : State} (h : s.takes .fw 0x22 = true) : exec (.tagset .fw) s = .next (s.tagset.1.served .fw s.tagset.2) := by
  change execTagset .fw s = _
  rw [execTagset, State.command_fw h]
  rfl

/-- Whether a page of a range belongs to a save area, by the listed tags. -/
theorem any_saved_iff {s : State} (hw : Sparse.wf Tag.clear s.mon.tags = true) (lo hi : Nat) :
    (s.mon.tags.any fun p => p.2.sv && lo ≤ p.1 && p.1 < hi) = true ↔ ∃ p, (lo ≤ p ∧ p < hi) ∧ (s.tag p).sv = true := by
  rw [any_tags_iff hw (fun p t => t.sv && lo ≤ p && p < hi) (fun p => rfl)]
  simp only [Bool.and_eq_true, decide_eq_true_eq, State.tag]
  exact exists_congr fun p => by tauto

/-- TAGSET of a range that holds no page of a save area: its pages have their tags, and those whose tag changes read as zeros. -/
theorem exec_tagset_sets {s : State} (h : s.takes .fw 0x22 = true) (hw : Sparse.wf Tag.clear s.mon.tags = true)
    (hr : s.resetting (s.mon.dword .fw 3).toNat = false) (hg : s.tagsetGood)
    (hsv : ∀ p, s.tagBase / 65536 ≤ p ∧ p < (s.tagBase + s.tagSize) / 65536 → (s.tag p).sv = false) :
    ∃ t : State, exec (.tagset .fw) s = .next t ∧ t.mon.status .fw = 0
      ∧ (∀ p, t.tag p = (s.retagRange s.tagBase s.tagSize s.tagMode (if s.tagMode = 0 then 0 else s.tagSlot) false).tag p)
      ∧ ∀ loc b, t.mem.byte loc b =
        (s.retagRange s.tagBase s.tagSize s.tagMode (if s.tagMode = 0 then 0 else s.tagSlot) false).mem.byte loc b := by
  have hany : ¬ ∃ p, (s.tagBase / 65536 ≤ p ∧ p < (s.tagBase + s.tagSize) / 65536) ∧ (s.tag p).sv = true :=
    fun ⟨p, hp, ht⟩ => by rw [hsv p hp] at ht; cases ht
  rw [exec_tagset h, State.tagset, if_neg (by simpa using hr), if_neg (by simpa using s.tagsetBad_eq_false_iff.2 hg),
    if_neg (mt (any_saved_iff hw _ _).1 hany)]
  exact ⟨_, rfl, by simp [mOK], fun p => by rw [State.served_tag], fun loc b => by rw [State.served_mem]⟩

/-! ## SAVESET -/

theorem State.savesetArgs_some {s : State} {mb : Mailbox} {a size : Nat} (h : s.savesetArgs mb = some (a, size)) :
    a % 524288 = 0 ∧ size % 524288 = 0 := by
  simp only [State.savesetArgs] at h
  split at h
  · cases h
  · next hb =>
    obtain ⟨rfl, rfl⟩ : _ = a ∧ _ = size := by simpa using h
    simp only [Bool.or_eq_true, decide_eq_true_eq, not_or, not_not] at hb
    exact ⟨hb.1.1.1.2, hb.1.1.2⟩

/-- Whether a page of a range is protected or belongs to a save area, by the listed tags. -/
theorem any_taken_iff {s : State} (hw : Sparse.wf Tag.clear s.mon.tags = true) (lo hi : Nat) :
    (s.mon.tags.any fun p => lo ≤ p.1 && p.1 < hi && (p.2.mode != 0 || p.2.sv)) = true ↔
      ∃ p, (lo ≤ p ∧ p < hi) ∧ ((s.tag p).mode ≠ 0 ∨ (s.tag p).sv = true) := by
  rw [any_tags_iff hw (fun p t => lo ≤ p && p < hi && (t.mode != 0 || t.sv)) (fun p => by simp [Tag.clear])]
  simp [State.tag]

/-- Where no context waits, the collector has nothing to try again. -/
theorem State.collectWaiting_of_none {s : State} (h : ∀ p ∈ s.ctxs, p.2.st ≠ .waiting) : s.collectWaiting = s := by
  have hf : (s.ctxs.filter fun p => p.2.st == .waiting) = [] := by simpa [List.filter_eq_nil_iff] using h
  rw [State.collectWaiting, hf]
  rfl

/-- A range written with zeros and its tags set, with no other byte changed. -/
def State.clearRange (s : State) (a size mode : Nat) (sv : Bool) : State := (s.zeroRange a size).retagRange a size mode 0 sv

section ClearRange

variable {s : State} (ho : s.openMem = true) {a size : Nat} (ha : a % 524288 = 0) (mode : Nat) (sv : Bool)
include ho

theorem State.zeroRange_openMem : (s.zeroRange a size).openMem = true := by
  rw [State.zeroRange_of_openMem ho]
  exact ho

theorem sameKeys_clearRange : sameKeys s (s.clearRange a size mode sv) := by
  obtain ⟨hk, hr, he, hc⟩ := sameKeys_retagRange (State.zeroRange_openMem ho (a := a) (size := size)) (a := a) (size := size) mode 0 sv
  rw [State.zeroRange_of_openMem ho] at hk hr he hc
  rw [State.clearRange, State.zeroRange_of_openMem ho]
  exact ⟨hk, hr, he, hc⟩

include ha

theorem State.tag_clearRange {p : Nat} (hp : a / 65536 ≤ p ∧ p < (a + size) / 65536) :
    (s.clearRange a size mode sv).tag p = rangeTag mode 0 (size / 65536) (p - a / 65536) sv := by
  rw [State.clearRange, State.tag_retagRange (State.zeroRange_openMem ho) (by omega), if_pos hp]

theorem State.byte_clearRange (hs : size % 524288 = 0) (loc b : Nat) :
    (s.clearRange a size mode sv).mem.byte loc b = if loc = 0 ∧ a ≤ b ∧ b < a + size then 0 else s.mem.byte loc b := by
  have hb : (a / 65536 ≤ b / 65536 ∧ b / 65536 < (a + size) / 65536) ↔ (a ≤ b ∧ b < a + size) := by omega
  rw [State.clearRange, State.byte_retagRange (State.zeroRange_openMem ho) (by omega), State.zeroRange_of_openMem ho]
  simp only [Mem.byte_zeroRange, hb]
  by_cases h : loc = 0 ∧ a ≤ b ∧ b < a + size
  · rw [if_pos h]
    split <;> rfl
  · rw [if_neg h, if_neg fun h' => h ⟨h'.1, h'.2.1⟩]

end ClearRange

/-- What SAVESET does, creating and releasing, when the monitor takes it up. -/
def State.savesetCreate (s : State) (a size : Nat) : State × Nat :=
  if s.mon.tags.any fun p => a / 65536 ≤ p.1 && p.1 < (a + size) / 65536 && (p.2.mode != 0 || p.2.sv) then (s, mINUSE)
  else (({ s.clearRange a size 2 true with mon := { (s.clearRange a size 2 true).mon with
    areas := (s.clearRange a size 2 true).mon.areas ++ [⟨a, size, none⟩] } } : State).collectWaiting, mOK)

def State.savesetRelease (s : State) (a size : Nat) : State × Nat :=
  (s.mon.areas.find? fun q => q.base = a && q.size = size).elim (s, mBADARG) fun q =>
    if q.ctx.isSome then (s, mINUSE)
    else (({ s.clearRange a size 0 false with mon := { (s.clearRange a size 0 false).mon with
      areas := (s.clearRange a size 0 false).mon.areas.filter fun q => q.base != a } } : State).collectWaiting, mOK)

section Saveset

variable {s : State} (h : s.takes .fw 0x23 = true)
include h

theorem exec_savesetCreate (hb : bitAt (s.mon.dword .fw 2) 0 = false) :
    exec (.savesetCreate .fw) s = .next (((s.savesetArgs .fw).elim (s, mBADARG) fun x => s.savesetCreate x.1 x.2).1.served .fw
      ((s.savesetArgs .fw).elim (s, mBADARG) fun x => s.savesetCreate x.1 x.2).2) := by
  change execSavesetCreate .fw s = _
  rw [execSavesetCreate, hb, if_neg (by decide), State.command_fw h]
  cases s.savesetArgs .fw <;> rfl

theorem exec_savesetRelease (hb : bitAt (s.mon.dword .fw 2) 0 = true) :
    exec (.savesetRelease .fw) s = .next (((s.savesetArgs .fw).elim (s, mBADARG) fun x => s.savesetRelease x.1 x.2).1.served .fw
      ((s.savesetArgs .fw).elim (s, mBADARG) fun x => s.savesetRelease x.1 x.2).2) := by
  change execSavesetRelease .fw s = _
  rw [execSavesetRelease, hb, if_neg (by decide), State.command_fw h]
  cases s.savesetArgs .fw with
  | none => rfl
  | some x =>
    simp only [Option.elim_some, State.savesetRelease]
    cases s.mon.areas.find? _ <;> rfl

end Saveset

/-- The state of a save area's command: the range is zeros, its pages have their tags, and nothing else of the memory changes. -/
theorem State.saveset_effect {s : State} (ho : s.openMem = true) (hc : ∀ p ∈ s.ctxs, p.2.st ≠ .waiting) {a size : Nat}
    (ha : a % 524288 = 0) (hs : size % 524288 = 0) (mode : Nat) (sv : Bool) (areas : List SaveArea) :
    ∃ t, t = (({ s.clearRange a size mode sv with mon := { (s.clearRange a size mode sv).mon with areas := areas } } : State).collectWaiting).served
        .fw mOK ∧ t.mon.status .fw = 0 ∧ t.mon.areas = areas
      ∧ (∀ p, a / 65536 ≤ p ∧ p < (a + size) / 65536 → t.tag p = rangeTag mode 0 (size / 65536) (p - a / 65536) sv)
      ∧ ∀ loc b, t.mem.byte loc b = if loc = 0 ∧ a ≤ b ∧ b < a + size then 0 else s.mem.byte loc b := by
  obtain ⟨_, _, _, hctx⟩ := sameKeys_clearRange ho (a := a) (size := size) mode sv
  rw [State.collectWaiting_of_none (by simpa [hctx] using hc)]
  refine ⟨_, rfl, by simp [mOK], by simp, fun p hp => ?_, fun loc b => ?_⟩
  · rw [State.served_tag]
    exact State.tag_clearRange ho ha mode sv hp
  · rw [State.served_mem]
    exact State.byte_clearRange ho ha mode sv hs loc b

/-- SAVESET creates an area over pages that are neither protected nor saved. -/
theorem exec_savesetCreate_ok {s : State} (h : s.takes .fw 0x23 = true) (hw : Sparse.wf Tag.clear s.mon.tags = true) (ho : s.openMem = true)
    (hctx : ∀ p ∈ s.ctxs, p.2.st ≠ .waiting) (hb : bitAt (s.mon.dword .fw 2) 0 = false) {a size : Nat}
    (hargs : s.savesetArgs .fw = some (a, size))
    (hp : ∀ p, a / 65536 ≤ p ∧ p < (a + size) / 65536 → (s.tag p).mode = 0 ∧ (s.tag p).sv = false) :
    ∃ t : State, exec (.savesetCreate .fw) s = .next t ∧ t.mon.status .fw = 0 ∧ t.mon.areas = s.mon.areas ++ [⟨a, size, none⟩]
      ∧ (∀ p, a / 65536 ≤ p ∧ p < (a + size) / 65536 → (t.tag p).sv = true)
      ∧ ∀ loc b, loc < 3 → t.mem.byte loc b = if loc = 0 ∧ a ≤ b ∧ b < a + size then 0 else s.mem.byte loc b := by
  have hany : ¬ ∃ p, (a / 65536 ≤ p ∧ p < (a + size) / 65536) ∧ ((s.tag p).mode ≠ 0 ∨ (s.tag p).sv = true) := by
    rintro ⟨p, hin, hm⟩
    simp [hp p hin] at hm
  obtain ⟨ha, hs⟩ := State.savesetArgs_some hargs
  obtain ⟨-, hareas, -, -⟩ := sameKeys_clearRange ho (a := a) (size := size) 2 true
  obtain ⟨t, ht, hstatus, hta, htag, hmem⟩ := State.saveset_effect ho hctx ha hs 2 true (s.mon.areas ++ [⟨a, size, none⟩])
  refine ⟨t, ?_, hstatus, hta, fun p hin => by rw [htag p hin]; rfl, fun loc b _ => hmem loc b⟩
  rw [exec_savesetCreate h hb, hargs, Option.elim_some, State.savesetCreate, if_neg (mt (any_taken_iff hw _ _).1 hany), hareas, ht]

/-- SAVESET releases an area that no context holds. -/
theorem exec_savesetRelease_ok {s : State} (h : s.takes .fw 0x23 = true) (ho : s.openMem = true)
    (hctx : ∀ p ∈ s.ctxs, p.2.st ≠ .waiting) (hb : bitAt (s.mon.dword .fw 2) 0 = true) {a size : Nat}
    (hargs : s.savesetArgs .fw = some (a, size)) {q : SaveArea}
    (hq : s.mon.areas.find? (fun q => q.base = a && q.size = size) = some q) (hx : q.ctx = none) :
    ∃ t : State, exec (.savesetRelease .fw) s = .next t ∧ t.mon.status .fw = 0 ∧ t.mon.areas = s.mon.areas.filter (fun q => q.base != a)
      ∧ (∀ p, a / 65536 ≤ p ∧ p < (a + size) / 65536 → t.tag p = Tag.clear)
      ∧ ∀ loc b, loc < 3 → t.mem.byte loc b = if loc = 0 ∧ a ≤ b ∧ b < a + size then 0 else s.mem.byte loc b := by
  obtain ⟨ha, hs⟩ := State.savesetArgs_some hargs
  obtain ⟨-, hareas, -, -⟩ := sameKeys_clearRange ho (a := a) (size := size) 0 false
  obtain ⟨t, ht, hstatus, hta, htag, hmem⟩ := State.saveset_effect ho hctx ha hs 0 false (s.mon.areas.filter fun q => q.base != a)
  refine ⟨t, ?_, hstatus, hta, fun p hin => by rw [htag p hin]; rfl, fun loc b _ => hmem loc b⟩
  rw [exec_savesetRelease h hb, hargs, Option.elim_some, State.savesetRelease, hq, Option.elim_some, hx, if_neg (by decide), hareas, ht]

/-- Settles O57: a command that the monitor takes up has its effect and its status, and zeros are written over just the pages whose tags change. -/
theorem keysAndTags : Obligations.KeysAndTags := by
  refine ⟨fun s h => ?keynew, fun s h hw ho => ?keyerase, fun s n he hb hc hw ho => ?second, fun s h hw ho => ?tagset,
    fun s h hw ho hctx => ?saveset⟩
  case keynew =>
    intro r gcm named resets bytes
    refine ⟨fun h8 => if_pos h8, fun h8 => if_pos (by rw [h8]; rfl), fun h8 hr => ?_, fun h8 hr => ⟨fun hn => ?_, fun hn hall => ?_,
      fun hn hex hset => ?_, fun hn n hn128 hb hst hmin => ?_⟩, fun h8 hr => ?_, fun h8 hr hb => ?_, fun h8 hr hb hn hl n hn128 hk hst hmin => ?_⟩
    · rw [exec_keynewGenerate h h8, State.keynew_resetting _ hr]; rfl
    · rw [exec_keynewGenerate h h8, State.keynew_unnamed (imp := false) _ hr hn]; rfl
    · rw [exec_keynewGenerate h h8, State.keynew_full (imp := false) _ hr hn hall]; rfl
    · rw [exec_keynewGenerate h h8, State.keynew_outOfSet (imp := false) _ hr hn hex hset]; rfl
    · rw [exec_keynewGenerate h h8, State.keynew_slot (imp := false) _ hr hn ⟨hn128, hb, hst, hmin⟩]
      obtain ⟨t, ht, hrest⟩ := s.keynew_effect n hn128 ⟨1, gcm, r.root, Config.freeKey s.freeCtr, []⟩
      exact ⟨t, _, by rw [ht]; rfl, hrest⟩
    · rw [exec_keynewImport h h8 (.inl hr), State.keynew_resetting _ hr]; rfl
    · exact exec_keynewImport_beyond h h8 hr hb
    · rw [exec_keynewImport h h8 (.inr hb), State.keynew_slot (imp := true) _ hr ⟨hn, hl⟩ ⟨hn128, hk, hst, hmin⟩]
      refine ⟨fun hu => by rw [hu]; rfl, fun k hu => ?_⟩
      obtain ⟨t, ht, hstatus, hkey, hd, -, hmem⟩ := s.keynew_effect n hn128 ⟨1, gcm, r.root, k, []⟩
      exact ⟨t, by rw [ht, hu]; rfl, hstatus, hkey, hd, hmem⟩
  case keyerase =>
    intro r n bad names
    refine ⟨fun hb => ?_, fun hb h2 => ?_, fun hb h0 => ?_, fun hb h0 h2 hbusy => ?_, fun hb h0 h2 hbusy => ?_⟩
    · rw [exec_keyerase h, State.keyerase, if_pos hb]; rfl
    · rw [exec_keyerase h, State.keyerase, if_neg hb, if_pos h2]; rfl
    · rw [exec_keyerase h, State.keyerase, if_neg hb, if_neg (by rw [h0]; decide), if_pos h0]; rfl
    · exact exec_keyerase_begins h n rfl (by rw [State.keyerase, if_neg hb, if_neg h2, if_neg h0, if_pos hbusy])
    · exact exec_keyerase_ends h hw ho n rfl (by rw [State.keyerase, if_neg hb, if_neg h2, if_neg h0, if_neg (by simp [hbusy])])
  case second =>
    obtain ⟨t, ht, hrest⟩ := State.erased (u := { s with mon := { s.mon with erase := none } }) hw ho n rfl rfl rfl rfl
    exact ⟨t, by rw [exec_keyerase_second he hb hc, ht], hrest⟩
  case tagset =>
    intro a size mode slot r good inside new resets
    have hgood : s.tagsetBad = false ↔ good := s.tagsetBad_eq_false_iff
    refine ⟨fun hr => ?_, fun hr hg => ?_, fun hr hg hsv => ?_, fun hr hg hsv => ?_⟩
    · rw [exec_tagset h, State.tagset, if_pos hr]; rfl
    · rw [exec_tagset h, State.tagset, if_neg (by simpa using hr), if_pos (by simpa using mt hgood.1 hg)]; rfl
    · have hany := (any_saved_iff hw (s.tagBase / 65536) ((s.tagBase + s.tagSize) / 65536)).2 hsv
      rw [exec_tagset h, State.tagset, if_neg (by simpa using hr), if_neg (by simpa using hgood.2 hg), if_pos hany]; rfl
    · obtain ⟨t, ht, hstatus, htag, hmem⟩ := exec_tagset_sets h hw hr hg hsv
      obtain ⟨-, -, ha, -⟩ := hg
      exact ⟨t, ht, hstatus, fun p => (htag p).trans (State.tag_retagRange ho ha _ _ _ p),
        fun loc b _ => (hmem loc b).trans (State.byte_retagRange ho ha _ _ _ loc b)⟩
  case saveset =>
    intro inside release
    refine ⟨fun hr => if_pos hr, fun hr => if_pos (by rw [Bool.eq_false_of_not_eq_true hr]; rfl), fun hargs => ?_,
      fun a size hargs => ⟨fun hr hp => ?_, fun hr hp => ?_, fun hr hq => ?_, fun hr q hq => ⟨fun hx => ?_, fun hx => ?_⟩⟩⟩
    · cases hb : bitAt (s.mon.dword .fw 2) 0
      · rw [if_neg (by decide), exec_savesetCreate h hb, hargs]; rfl
      · rw [if_pos rfl, exec_savesetRelease h hb, hargs]; rfl
    · rw [exec_savesetCreate h (Bool.eq_false_of_not_eq_true hr), hargs, Option.elim_some, State.savesetCreate, if_pos ((any_taken_iff hw _ _).2 hp)]; rfl
    · exact exec_savesetCreate_ok h hw ho hctx (Bool.eq_false_of_not_eq_true hr) hargs hp
    · have hfind : s.mon.areas.find? (fun q => q.base = a && q.size = size) = none := by
        simpa [List.find?_eq_none, imp_iff_not_or] using hq
      rw [exec_savesetRelease h hr, hargs, Option.elim_some, State.savesetRelease, hfind]; rfl
    · rw [exec_savesetRelease h hr, hargs, Option.elim_some, State.savesetRelease, hq, Option.elim_some,
        if_pos (Option.isSome_iff_ne_none.2 hx)]; rfl
    · exact exec_savesetRelease_ok h ho hctx hr hargs hq hx

end Sys2Proof.Machine
end

section
/-!
PROOFS. The pool's scrubber beyond the scratchpad's size: the clause of the management statement that fails, and the core on which it does.
-/

namespace Sys2Proof.Machine

/-- A core of one scratchpad unit (16 banks, 131072 bytes) whose banks 0 and 1 are clean, with no row touched, and whose store lists a byte at the
first offset beyond its size. That offset is of bank 0, row 512, which shares its key among the touched rows with row 0 of bank 1. -/
def overfullCore : Core := { Core.reset with pword := 0x100, clean := [(0, true), (1, true)], scr := [(131072, 5)] }

/-- The device with that core. -/
def overfull : State := State.reset.setCore 0 overfullCore

/-- The row of the offset counts as untouched, so that the byte reads as zero. -/
theorem overfullCore_byte : overfullCore.scrByte 131072 = 0 := by decide

/-- The scrubber's zero row in bank 1 marks that key. -/
theorem overfullCore_byte_scrubRow : (overfullCore.scrubRow .scr 1 0).scrByte 131072 = 5 := by decide

/-- The scrubber writes its row; the bank has untouched rows still and stays clean. -/
theorem exec_poolScrubRow_overfull :
    exec (.poolScrubRow 0 .scr 1 0) overfull = .next (overfull.modCore 0 fun _ => overfullCore.scrubRow .scr 1 0) := by
  have hk : overfull.core 0 = overfullCore := State.core_setCore_self _ _ _
  have hin : (overfullCore.banksOf .scr ≤ 1 || 512 ≤ 0 || !Sparse.get false overfullCore.clean (bankKey .scr 1)) = false := by decide
  have hrow : overfullCore.touchedRow .scr 1 0 = false := by decide
  have hbank : (overfullCore.scrubRow .scr 1 0).bankTouched .scr 1 = false :=
    List.all_eq_false.2 ⟨1, List.mem_range.2 (by decide), by decide⟩
  change execPoolScrubRow 0 .scr 1 0 overfull = _
  simp only [execPoolScrubRow, State.modCore, hk, hin, hrow, hbank, Bool.false_eq_true, if_false]

/-- Refutes O52: its clause of the scrubber speaks of every offset `o`, without the bound of the scratchpad's size (R83). At the offset 131072 of
`overfull` the byte reads as 0, and as 5 once row 0 of bank 1 is scrubbed. -/
theorem not_managementWrites : ¬ Obligations.ManagementWrites := by
  unfold Obligations.ManagementWrites
  rintro ⟨-, hscrub, -⟩
  obtain ⟨t, ht, -, -, -, -, hbyte, -⟩ := hscrub overfull 0 .scr 1 0
  rw [exec_poolScrubRow_overfull] at ht
  obtain rfl := Host.Outcome.next.inj ht
  have hafter := hbyte 131072
  rw [State.core_modCore_self, overfullCore_byte_scrubRow, overfull, State.core_setCore_self, overfullCore_byte] at hafter
  exact absurd hafter (by decide)

end Sys2Proof.Machine
end

section
/-!
PROOFS. Translation and instruction fetch: what the counting of traffic and of denials leaves alone, what a walk's end puts into the TLBs, and the
walks, invalidations, fetches and fills from these.
-/

namespace Sys2Proof.Machine

/-! ## What the counting of traffic and of denials leaves alone -/

/-- A byte moved marks a region at most, and not its translation root. -/
theorem State.moves_cases (s : State) (rcb loc : Nat) :
    s.moves rcb loc = s ∨ ∃ f : Region → Region, (∀ x, (f x).troot = x.troot) ∧ s.moves rcb loc = s.modRegion rcb f := by
  simp only [State.moves]
  split
  · split
    · exact .inl rfl
    · refine .inr ⟨_, ?_, rfl⟩
      exact fun _ => rfl
  · split
    · split
      · exact .inl rfl
      · refine .inr ⟨_, ?_, rfl⟩
        exact fun _ => rfl
    · exact .inl rfl

theorem State.moves_eq (s : State) (rcb loc : Nat) : ∃ rs, s.moves rcb loc = { s with regions := rs } := by
  obtain e | ⟨f, -, e⟩ := s.moves_cases rcb loc
  · exact ⟨s.regions, e⟩
  · exact ⟨_, e⟩

@[simp] theorem State.moves_mon (s : State) (rcb loc : Nat) : (s.moves rcb loc).mon = s.mon := by
  obtain ⟨rs, e⟩ := s.moves_eq rcb loc; rw [e]

@[simp] theorem State.moves_ctx (s : State) (rcb loc n : Nat) : (s.moves rcb loc).ctx n = s.ctx n := by
  obtain ⟨rs, e⟩ := s.moves_eq rcb loc; rw [e]; rfl

@[simp] theorem State.moves_troot (s : State) (rcb loc r : Nat) : ((s.moves rcb loc).region r).troot = (s.region r).troot := by
  obtain e | ⟨f, hf, e⟩ := s.moves_cases rcb loc
  · rw [e]
  · rw [e, State.region_modRegion]
    split
    · next h => rw [hf, h]
    · rfl

/-- A denial counted changes the monitor's count alone. -/
theorem State.denyRead_eq (s : State) (loc a len : Nat) : ∃ n, s.denyRead loc a len = { s with mon := { s.mon with deny := n } } := by
  unfold State.denyRead
  split
  · exact ⟨_, rfl⟩
  · exact ⟨s.mon.deny, rfl⟩

theorem State.walkDenied_eq (s : State) (troot va : Nat) : ∃ n, s.walkDenied troot va = { s with mon := { s.mon with deny := n } } := by
  have hfold : ∀ (l : List Nat) (t : State), ∃ n, l.foldl (fun t a => t.denyRead 0 a 8) t = { t with mon := { t.mon with deny := n } } := by
    intro l
    induction l with
    | nil => exact fun t => ⟨t.mon.deny, rfl⟩
    | cons a l ih =>
      intro t
      obtain ⟨n, e⟩ := t.denyRead_eq 0 a 8
      obtain ⟨m, e'⟩ := ih (t.denyRead 0 a 8)
      exact ⟨m, by rw [List.foldl_cons, e', e]⟩
  unfold State.walkDenied
  split
  · exact ⟨s.mon.deny, rfl⟩
  · exact hfold _ s

/-! ## Changes of the cores of a list -/

/-- The cores of a list each changed once, by their number. -/
theorem State.core_foldl_modCore (f : Core → Core) (l : List Nat) (hl : l.Nodup) (s : State) (d : Nat) :
    (l.foldl (fun s c => s.modCore c f) s).core d = if d ∈ l then f (s.core d) else s.core d := by
  induction l generalizing s with
  | nil => rfl
  | cons c l ih =>
    obtain ⟨hc, hl⟩ := List.nodup_cons.1 hl
    rw [List.foldl_cons, ih hl, State.core_modCore]
    by_cases h : d = c
    · subst h; simp [hc]
    · simp [h]

/-! ## Walks (R34, R35, R36) -/

section WalkerStart

variable {s : State} {slice : Nat} {m : Miss} (hm : s.fab.misses.find? (fun q => q.slice = slice) = some m)
include hm

section Joins

variable {y : Walk} (hy : s.fab.walks.find? (fun y => y.same m) = some y)
include hy

/-- A walk that an invalidation has overtaken is no longer joined. -/
theorem exec_walkerStart_overtaken (hd : y.dead = true) : exec (.walkerStart slice) s = .next s := by
  change execWalkerStart slice s = _
  simp only [execWalkerStart, hm, hy, hd, if_true]

theorem exec_walkerStart_joins (hd : y.dead = false) :
    exec (.walkerStart slice) s = .next { s with fab := { s.fab with
      misses := s.fab.misses.erase m
      walks := s.fab.walks.map fun q => if q.id = y.id then { q with whos := q.whos ++ [m.who] } else q } } := by
  change execWalkerStart slice s = _
  simp only [execWalkerStart, hm, hy, hd, Bool.false_eq_true, if_false]

end Joins

variable (hy : s.fab.walks.find? (fun y => y.same m) = none)
include hy

/-- No walker of the stack is free. -/
theorem exec_walkerStart_full (h : Config.walkersPerStack ≤ s.fab.stackWalks (slice / Config.slicesPerStack)) :
    exec (.walkerStart slice) s = .next s := by
  change execWalkerStart slice s = _
  simp only [execWalkerStart, hm, hy, if_pos h]

theorem exec_walkerStart_starts (h : ¬ Config.walkersPerStack ≤ s.fab.stackWalks (slice / Config.slicesPerStack)) :
    exec (.walkerStart slice) s = .next { s with nextId := s.nextId + 1, fab := { s.fab with
      misses := s.fab.misses.erase m
      walks := s.fab.walks ++ [⟨s.nextId, slice, m.ctx, m.asn, m.vpage, [m.who], false⟩] } } := by
  change execWalkerStart slice s = _
  simp only [execWalkerStart, hm, hy, if_neg h]

end WalkerStart

/-- The leaf that a walk finds, or nothing. -/
def State.walkFinds (s : State) (y : Walk) : Option (DWord × Nat) := s.seen.walk (s.ctxRegion y.ctx).troot (y.vpage * 65536)

/-- The entry that a leaf makes. -/
def Walk.entry (y : Walk) (leaf : DWord) (log : Nat) : TlbEnt := ⟨y.asn, y.vpage * 65536 / 2 ^ log, log, leaf⟩

/-- The walk taken out of those in progress. -/
def State.endWalk (s : State) (y : Walk) : State := { s with fab := { s.fab with walks := s.fab.walks.filter fun q => q.id != y.id } }

/-- The same, with its denials and its traffic counted. -/
def State.chargeWalk (s : State) (y : Walk) : State :=
  ((s.endWalk y).walkDenied (s.ctxRegion y.ctx).troot (y.vpage * 65536)).moves (s.ctx y.ctx).rcb 0

theorem State.chargeWalk_eq (s : State) (y : Walk) :
    ∃ n rs, s.chargeWalk y = { s.endWalk y with mon := { s.mon with deny := n }, regions := rs } := by
  obtain ⟨n, e⟩ := (s.endWalk y).walkDenied_eq (s.ctxRegion y.ctx).troot (y.vpage * 65536)
  obtain ⟨rs, e'⟩ := ((s.endWalk y).walkDenied (s.ctxRegion y.ctx).troot (y.vpage * 65536)).moves_eq (s.ctx y.ctx).rcb 0
  exact ⟨n, rs, by rw [State.chargeWalk, e', e]; rfl⟩

theorem State.chargeWalk_finds (s : State) (y : Walk) : (s.chargeWalk y).walkFinds y = s.walkFinds y := by
  obtain ⟨n, e⟩ := (s.endWalk y).walkDenied_eq (s.ctxRegion y.ctx).troot (y.vpage * 65536)
  have ht : ((s.chargeWalk y).ctxRegion y.ctx).troot = (s.ctxRegion y.ctx).troot := by
    rw [State.chargeWalk, State.ctxRegion, State.moves_ctx, State.moves_troot, e]
    rfl
  have hs : (s.chargeWalk y).seen = s.seen := by
    rw [State.chargeWalk, State.seen, State.moves_mem, State.moves_mon, e]
    rfl
  rw [State.walkFinds, ht, hs]
  rfl

/-- A leaf cached in the slice's TLB and in those of the cores that wait. -/
def State.installLeaf (s : State) (y : Walk) (e : TlbEnt) : State :=
  (y.whos.filterMap agentCore).dedup.foldl (fun s c => s.modCore c fun k => { k with tlb := placeTlb 2048 k.tlb e })
    { s with fab := { s.fab with stlb := Sparse.modify [] s.fab.stlb y.slice fun t => placeTlb 16384 t e } }

/-- A failure reported to an agent that waits. -/
def State.reportMiss (s : State) (y : Walk) (a : Agent) : State :=
  match agentCore a with
  | some c => s.modCore c fun k => { k with wfault := k.wfault ++ [{ who := a, asn := y.asn, vpage := y.vpage }] }
  | none => s

theorem exec_walkComplete {s : State} {y : Walk} (h : s.fab.walks.find? (fun q => q.id = y.id) = some y) :
    exec (.walkComplete y.id) s = .next (if y.dead || (s.ctx y.ctx).st == .none then s.endWalk y else
      (s.walkFinds y).elim (y.whos.foldl (fun s a => s.reportMiss y a) (s.chargeWalk y)) fun x =>
        (s.chargeWalk y).installLeaf y (y.entry x.1 x.2)) := by
  change execWalkComplete y.id s = _
  have hw := s.chargeWalk_finds y
  simp only [execWalkComplete, h]
  congr 1
  by_cases hd : (y.dead || (s.ctx y.ctx).st == .none) = true
  · rw [if_pos hd]
    exact if_pos hd
  · rw [if_neg hd]
    refine (if_neg hd).trans ?_
    split
    · next leaf log heq => rw [← hw, show (s.chargeWalk y).walkFinds y = some (leaf, log) from heq]; rfl
    · next heq => rw [← hw, show (s.chargeWalk y).walkFinds y = none from heq]; rfl

/-- Where the warps and the blocks are kept, the registers are. -/
theorem sameRegs_of_cores {s t : State} (h : ∀ c, (t.core c).warps = (s.core c).warps ∧ (t.core c).blocks = (s.core c).blocks) :
    sameRegs s t := by
  refine ⟨fun c w => ?_, fun c b cp => ?_⟩
  · rw [State.warp, Core.warp, (h c).1]; rfl
  · rw [Core.seq, Core.block, (h c).2]; rfl

/-- What an end of a walk leaves alone, where the TLBs and the reports of its cores alone change. -/
def keepsCore (k k' : Core) : Prop := k'.warps = k.warps ∧ k'.blocks = k.blocks ∧ k'.scr = k.scr ∧ k'.tags = k.tags

theorem sameRegs_of_keepsCore {s t : State} (h : ∀ c, keepsCore (s.core c) (t.core c)) : sameRegs s t ∧ sameScratch s t := by
  refine ⟨sameRegs_of_cores fun c => ?_, fun c => ?_⟩
  · obtain ⟨hw, hb, -, -⟩ := h c
    exact ⟨hw, hb⟩
  · obtain ⟨-, -, hs, ht⟩ := h c
    exact ⟨hs, ht⟩

@[simp] theorem head?_placeTlb (cap : Nat) (l : List TlbEnt) (e : TlbEnt) : (placeTlb (cap + 1) l e).head? = some e := rfl

/-! ### A leaf is cached -/

theorem State.core_installLeaf (s : State) (y : Walk) (e : TlbEnt) (c : Nat) :
    (s.installLeaf y e).core c =
      if ∃ a ∈ y.whos, agentCore a = some c then { s.core c with tlb := placeTlb 2048 (s.core c).tlb e } else s.core c := by
  have hm : c ∈ (y.whos.filterMap agentCore).dedup ↔ ∃ a ∈ y.whos, agentCore a = some c := by
    rw [List.mem_dedup, List.mem_filterMap]
  rw [State.installLeaf, State.core_foldl_modCore _ _ (List.nodup_dedup _)]
  simp only [hm]
  rfl

theorem State.installLeaf_fab (s : State) (y : Walk) (e : TlbEnt) : (s.installLeaf y e).fab =
    { s.fab with stlb := Sparse.modify [] s.fab.stlb y.slice fun t => placeTlb 16384 t e } := by
  rw [State.installLeaf, State.foldl_keeps (·.fab) _ _ (fun _ _ => State.modCore_fab _ _ _)]

theorem State.installLeaf_mem (s : State) (y : Walk) (e : TlbEnt) : (s.installLeaf y e).mem = s.mem := by
  rw [State.installLeaf, State.foldl_keeps (·.mem) _ _ (fun _ _ => State.modCore_mem _ _ _)]

theorem keepsCore_installLeaf (s : State) (y : Walk) (e : TlbEnt) (c : Nat) : keepsCore (s.core c) ((s.installLeaf y e).core c) := by
  rw [State.core_installLeaf]
  split <;> exact ⟨rfl, rfl, rfl, rfl⟩

/-! ### A failure is reported -/

/-- The reports of those of a walk's agents that are of a core. -/
def Walk.reports (y : Walk) (l : List Agent) (c : Nat) : List WalkFault :=
  (l.filter fun a => agentCore a = some c).map fun a => ⟨a, y.asn, y.vpage⟩

theorem State.core_reportMiss (s : State) (y : Walk) (a : Agent) (c : Nat) :
    (s.reportMiss y a).core c = { s.core c with wfault := (s.core c).wfault ++ y.reports [a] c } := by
  unfold State.reportMiss Walk.reports
  cases ha : agentCore a with
  | none => simp [ha]
  | some d =>
    simp only [State.core_modCore]
    by_cases hd : c = d
    · subst hd; simp [ha]
    · simp [ha, hd, Ne.symm hd]

theorem State.core_foldl_reportMiss (s : State) (y : Walk) (l : List Agent) (c : Nat) :
    (l.foldl (fun s a => s.reportMiss y a) s).core c = { s.core c with wfault := (s.core c).wfault ++ y.reports l c } := by
  induction l generalizing s with
  | nil => simp [Walk.reports]
  | cons a l ih =>
    have hr : y.reports (a :: l) c = y.reports [a] c ++ y.reports l c := by
      rw [Walk.reports, Walk.reports, Walk.reports, ← List.map_append, ← List.filter_append, List.singleton_append]
    rw [List.foldl_cons, ih, State.core_reportMiss, hr, List.append_assoc]

@[simp] theorem State.reportMiss_fab (s : State) (y : Walk) (a : Agent) : (s.reportMiss y a).fab = s.fab := by
  unfold State.reportMiss; split <;> rfl

@[simp] theorem State.reportMiss_mem (s : State) (y : Walk) (a : Agent) : (s.reportMiss y a).mem = s.mem := by
  unfold State.reportMiss; split <;> rfl

theorem Walk.mem_reports {y : Walk} {l : List Agent} {a : Agent} {c : Nat} (ha : a ∈ l) (hc : agentCore a = some c) :
    ⟨a, y.asn, y.vpage⟩ ∈ y.reports l c :=
  List.mem_map.2 ⟨a, List.mem_filter.2 ⟨ha, by simp [hc]⟩, rfl⟩

/-! ## Invalidations (R37) -/

theorem exec_xlinvCtlWrite_busy {s : State} (v : Word) (h : bitAt s.io.xlctl 31 = true) : exec (.xlinvCtlWrite v) s = .next s := by
  change execXlinvCtlWrite v s = _
  rw [execXlinvCtlWrite, if_pos h]

theorem fieldN_eq_toNat_field {w : Nat} (x : BitVec w) (lo len : Nat) : fieldN x lo len = (field x lo len).toNat := by
  rw [fieldN, field, BitVec.extractLsb'_toNat, Nat.shiftRight_eq_div_pow]

/-- A field whose bits a mask keeps and a further constant leaves clear. -/
theorem field_and_or {w : Nat} (x m n : BitVec w) (lo len : Nat) (hm : field m lo len = BitVec.allOnes len) (hn : field n lo len = 0#len) :
    field ((x &&& m) ||| n) lo len = field x lo len := by
  unfold field at *
  rw [BitVec.extractLsb'_or, BitVec.extractLsb'_and, hm, hn, BitVec.and_allOnes, BitVec.or_zero]

/-- The fields of the register that a write of XLINV's control leaves, and that it is busy. -/
theorem xlctl_written (v : Word) : let w := (v &&& 0x0F80FFFF) ||| 0x80000000
    bitAt w 31 = true ∧ field w 0 16 = field v 0 16 ∧ bitAt w 23 = bitAt v 23 ∧ fieldN w 24 4 = fieldN v 24 4 := by
  refine ⟨by simp [bitAt], field_and_or _ _ _ _ _ (by decide) (by decide), by simp [bitAt], ?_⟩
  rw [fieldN_eq_toNat_field, fieldN_eq_toNat_field, field_and_or _ _ _ _ _ (by decide) (by decide)]

theorem exec_xlinvCtlWrite_free {s : State} (v : Word) (h : bitAt s.io.xlctl 31 = false) :
    ∃ t : State, exec (.xlinvCtlWrite v) s = .next t ∧ t.io.xlctl = (v &&& 0x0F80FFFF) ||| 0x80000000
      ∧ t.io.xlLo = s.io.valo ∧ t.io.xlHi = s.io.vahi ∧ t.io.xlwait = s.fab.walks.map Walk.id
      ∧ (∀ y ∈ t.fab.walks, y.dead = true) ∧ t.cores = s.cores ∧ t.mem = s.mem := by
  have he : exec (.xlinvCtlWrite v) s = execXlinvCtlWrite v s := rfl
  rw [he, execXlinvCtlWrite, if_neg (by simp [h])]
  exact ⟨_, rfl, rfl, rfl, rfl, rfl, by simp, rfl, rfl⟩

/-- What of a TLB an invalidation keeps. -/
def IO.keeps (io : IO) (t : List TlbEnt) : List TlbEnt := t.filter fun e => !io.invalidates e

theorem exec_invalidationComplete_waits {s : State}
    (h : bitAt s.io.xlctl 31 = false ∨ ∃ y ∈ s.fab.walks, y.id ∈ s.io.xlwait) : exec .invalidationComplete s = .next s := by
  change execInvalidationComplete s = _
  rw [execInvalidationComplete, if_pos (by simpa using h)]

theorem exec_invalidationComplete_ends {s : State} (hb : bitAt s.io.xlctl 31 = true) (hw : ∀ y ∈ s.fab.walks, y.id ∉ s.io.xlwait) :
    ∃ t : State, exec .invalidationComplete s = .next t ∧ bitAt t.io.xlctl 31 = false ∧ t.mem = s.mem
      ∧ (∀ c, (t.core c).tlb = s.io.keeps (s.core c).tlb) ∧ ∀ n, Sparse.get [] t.fab.stlb n = s.io.keeps (Sparse.get [] s.fab.stlb n) := by
  have he : exec .invalidationComplete s = execInvalidationComplete s := rfl
  rw [he, execInvalidationComplete, if_neg (by simpa [hb] using hw)]
  refine ⟨_, rfl, by simp [bitAt], rfl, fun c => ?_, fun n => ?_⟩
  · rw [State.core, Sparse.get_mapVals _ _ _ _ rfl]; rfl
  · rw [Sparse.get_mapVals _ _ _ _ rfl]; rfl

/-! ## Fetches (R397, R399) -/

section Fetch

variable {s : State} {who : Agent} {c n : Nat} {pc : DWord} (h : s.fetchAt who = some (c, n, pc))
include h

theorem exec_instructionFetch_words {y e : DWord} (hf : (s.core c).fetch (s.ctxRegion n).asn pc = .words y e) :
    exec (.instructionFetch who) s = .next s := by
  change execInstructionFetch who s = _
  simp only [execInstructionFetch, h, hf]

theorem exec_instructionFetch_bad (hpc : pc.toNat % 8 ≠ 0) : exec (.instructionFetch who) s = .next (s.fetchFault who cIF pc) := by
  have hf : (s.core c).fetch (s.ctxRegion n).asn pc = .bad pc := by rw [Core.fetch, if_pos hpc]
  change execInstructionFetch who s = _
  simp only [execInstructionFetch, h, hf]

variable {va : DWord} (hf : (s.core c).fetch (s.ctxRegion n).asn pc = .absent va)
include hf

theorem exec_instructionFetch_filling (hfill : (s.core c).filling (s.ctxRegion n).asn (va.toNat / 128) = true) :
    exec (.instructionFetch who) s = .next s := by
  change execInstructionFetch who s = _
  simp only [execInstructionFetch, h, hf, hfill, if_true]

variable (hfill : (s.core c).filling (s.ctxRegion n).asn (va.toNat / 128) = false)
include hfill

theorem exec_instructionFetch_ok {leaf : DWord} {pa : Nat} (ht : s.translate c (s.missName who) (s.ctxRegion n) va .fetch = .ok leaf pa) :
    exec (.instructionFetch who) s = .next ((s.startFill c (s.ctxRegion n).asn va leaf pa).countFill who) := by
  change execInstructionFetch who s = _
  simp only [execInstructionFetch, h, hf, hfill, ht, Bool.false_eq_true, if_false]

theorem exec_instructionFetch_fault {code : BitVec 8} (ht : s.translate c (s.missName who) (s.ctxRegion n) va .fetch = .fault code) :
    exec (.instructionFetch who) s = .next (s.fetchFault who code va) := by
  change execInstructionFetch who s = _
  simp only [execInstructionFetch, h, hf, hfill, ht, Bool.false_eq_true, if_false]

theorem exec_instructionFetch_miss (ht : s.translate c (s.missName who) (s.ctxRegion n) va .fetch = .miss) :
    exec (.instructionFetch who) s = .next (s.queueMiss c (s.missName who) n (s.ctxRegion n).asn va) := by
  change execInstructionFetch who s = _
  simp only [execInstructionFetch, h, hf, hfill, ht, Bool.false_eq_true, if_false]

end Fetch

/-- A fill started is one more fill of its core. -/
theorem State.core_startFill (s : State) (c : Nat) (asn : BitVec 16) (va leaf : DWord) (pa d : Nat) :
    (s.startFill c asn va leaf pa).core d = if d = c then { s.core c with
      fills := (s.core c).fills ++ [⟨s.nextId, asn, va.toNat / 128, eLoc leaf, pa / 128 * 128, false⟩] } else s.core d := by
  have hs : ∀ m e, (({ s with nextId := s.nextId + 1 } : State).sendTo m e).core d = s.core d ∧
      (({ s with nextId := s.nextId + 1 } : State).sendTo m e).core c = s.core c := fun m e => by simp [State.core]
  simp only [State.startFill, State.fresh, State.core_modCore]
  split
  · split
    · rw [(hs _ _).2]
    · rfl
  · split
    · rw [(hs _ _).1]
    · rfl

/-- A fill counted under event 4 changes a count of the warp alone. -/
theorem State.countFill_keeps (s : State) (who : Agent) (d : Nat) : ((s.countFill who).core d).fills = (s.core d).fills
    ∧ ((s.countFill who).core d).icache = (s.core d).icache ∧ sameRegs s (s.countFill who) := by
  cases who with
  | gang c w j =>
    have hc : ∀ f : Warp → Warp, ((s.modWarp c w f).core d).fills = (s.core d).fills ∧ ((s.modWarp c w f).core d).icache = (s.core d).icache := by
      intro f
      rw [State.modWarp, State.core_modCore]
      split
      · next e => rw [e]; exact ⟨rfl, rfl⟩
      · exact ⟨rfl, rfl⟩
    refine ⟨(hc _).1, (hc _).2, fun d v => ?_, fun d b cp => ?_⟩
    · rw [State.countFill, State.warp_modWarp]
      split
      · next e => rw [e.1, e.2]; split <;> rfl
      · rfl
    · rw [State.countFill, Core.seq, State.block_modWarp]; rfl
  | _ => exact ⟨rfl, rfl, fun _ _ => rfl, fun _ _ _ => rfl⟩

/-! ## A fetch that fails (R399) -/

theorem Slice.fault_fault (x : Slice) (code : BitVec 8) (fva opw : DWord) : (x.fault code fva opw).fault code fva opw = x.fault code fva opw := rfl

theorem Warp.slice_foldl_fault (code : BitVec 8) (fva opw : DWord) (l : List Nat) (x : Warp) (k : Nat) :
    (l.foldl (fun x j => x.modSlice j fun y => y.fault code fva opw) x).slice k =
      if k ∈ l then (x.slice k).fault code fva opw else x.slice k := by
  induction l generalizing x with
  | nil => rfl
  | cons j l ih =>
    rw [List.foldl_cons, ih, Warp.slice_modSlice]
    by_cases hk : k = j
    · subst hk; simp [Slice.fault_fault]
    · simp [hk]

/-- A gang's slices each fault. -/
theorem State.slice_raise (s : State) (c w : Nat) (sls : List Nat) (code : BitVec 8) (fva opw : DWord) (k : Nat) :
    ((s.raise c w sls code fva opw).warp c w).slice k =
      if k ∈ sls then ((s.warp c w).slice k).fault code fva opw else ((s.warp c w).slice k) := by
  rw [State.raise]
  change ((State.modWarp _ _ _ _).warp c w).slice k = _
  rw [State.warp_modWarp, if_pos ⟨rfl, rfl⟩, Warp.slice_foldl_fault]

/-- A context halted runs no more. -/
theorem Ctx.halt_st (x : Ctx) (code : BitVec 8) : (x.halt code).st ≠ .running := by
  simp only [Ctx.halt]
  split
  · decide
  · assumption

theorem State.ctx_raise (s : State) (c w : Nat) (sls : List Nat) (code : BitVec 8) (fva opw : DWord) :
    ((s.raise c w sls code fva opw).ctx ((s.core c).block (s.warp c w).block).ctx).st ≠ .running := by
  rw [State.raise, State.ctx_modCtx, if_pos rfl]
  exact Ctx.halt_st _ code

theorem State.fetchFault_gang {s : State} {c w j : Nat} (ha : s.awaits (s.warp c w).uid ((s.warp c w).gangOf j) = false) (code : BitVec 8)
    (va : DWord) : s.fetchFault (.gang c w j) code va =
      (s.raise c w ((s.warp c w).gangOf j) code va 0).modCore c fun k => k.clearWalkFaults (s.missName (.gang c w j)) := by
  simp only [State.fetchFault, ha, Bool.false_eq_true, if_false]

theorem State.warp_clearWalkFaults (s : State) (c w : Nat) (who : Agent) :
    (s.modCore c fun k => k.clearWalkFaults who).warp c w = s.warp c w := by
  rw [State.warp, State.core_modCore_self]
  rfl

/-! ## The arrival of a fill (R397, R42, R269) -/

theorem bitAt_setBit_true {w : Nat} (m : BitVec w) (i n : Nat) (hn : n < w) : bitAt (setBit m i true) n = (bitAt m n || decide (i = n)) := by
  simp only [bitAt, setBit, if_true, BitVec.getLsbD_or, BitVec.getLsbD_ofNat, Nat.testBit_two_pow, hn, decide_true, Bool.true_and]

/-- The bits of a mask are those of its list. -/
theorem bitAt_maskOf {w : Nat} (l : List Nat) {n : Nat} (hn : n < w) : bitAt (maskOf w l) n = decide (n ∈ l) := by
  have hfold : ∀ m : BitVec w, bitAt (l.foldl (fun m i => setBit m i true) m) n = (bitAt m n || decide (n ∈ l)) := by
    induction l with
    | nil => simp
    | cons i l ih =>
      intro m
      rw [List.foldl_cons, ih, bitAt_setBit_true m i n hn]
      simp [Bool.or_assoc, eq_comm]
  rw [maskOf, hfold]
  simp [bitAt]

/-- The line placed last is the one that its address finds. -/
theorem find?_placeLine (l : List ILine) {x : ILine} {asn : BitVec 16} {n : Nat} (ha : x.asn = asn) (hn : x.line = n) :
    (placeLine l x).find? (fun y => y.asn = asn && y.line = n) = some x := by
  rw [placeLine, List.find?_cons_of_pos]
  simp [ha, hn]

/-- A credit taken of the attach leaves its modules' widths as they are. -/
theorem State.attachGone_useCredit (s : State) (p : Nat) : (s.useCredit p).attachGone = s.attachGone := by
  have hw : ∀ n, ((s.useCredit p).port n).wid = (s.port n).wid := by
    intro n
    rw [State.useCredit, State.port_modLink]
    split
    · next e => rw [e]
    · rfl
  simp only [State.attachGone, hw]

/-- The state after the credit, the denials and the traffic of a fill that arrives. -/
def State.chargeFill (s : State) (c : Nat) (f : Fill) : State :=
  let t := if f.loc = 2 then (s.hostPort.map s.useCredit).getD s else s
  let t := t.denyRead f.loc f.pa 128
  ((t.core c).use.map fun r => t.moves r f.loc).getD t

theorem State.denyRead_of_openMem {s : State} (h : s.openMem = true) (loc a len : Nat) : s.denyRead loc a len = s := by
  rw [State.denyRead, State.closed, h]
  rfl

/-- The same where no memory is closed: links alone and regions. -/
theorem State.chargeFill_eq {s : State} (ho : s.openMem = true) (c : Nat) (f : Fill) :
    ∃ rs, s.chargeFill c f = { (if f.loc = 2 then (s.hostPort.map s.useCredit).getD s else s) with regions := rs } := by
  have hopen : (if f.loc = 2 then (s.hostPort.map s.useCredit).getD s else s).openMem = true := by
    split
    · cases s.hostPort with
      | none => exact ho
      | some p => exact ho
    · exact ho
  rw [State.chargeFill, State.denyRead_of_openMem hopen]
  generalize (if f.loc = 2 then (s.hostPort.map s.useCredit).getD s else s) = t
  cases (t.core c).use with
  | none => exact ⟨t.regions, rfl⟩
  | some r => exact t.moves_eq r f.loc

theorem State.chargeFill_cores {s : State} (ho : s.openMem = true) (c : Nat) (f : Fill) :
    (s.chargeFill c f).cores = s.cores ∧ (s.chargeFill c f).mem = s.mem ∧ (s.chargeFill c f).mon = s.mon := by
  obtain ⟨rs, e⟩ := State.chargeFill_eq ho c f
  rw [e]
  split
  · cases s.hostPort with
    | none => exact ⟨rfl, rfl, rfl⟩
    | some p => exact ⟨rfl, rfl, rfl⟩
  · exact ⟨rfl, rfl, rfl⟩

/-- A link's credit decides no way of a fill. -/
theorem State.fillLost_chargeFill {s : State} (ho : s.openMem = true) (c : Nat) (f : Fill) : (s.chargeFill c f).fillLost f = s.fillLost f := by
  obtain ⟨rs, e⟩ := State.chargeFill_eq ho c f
  rw [e]
  by_cases h2 : f.loc = 2
  · rw [if_pos h2]
    cases s.hostPort with
    | none => rfl
    | some p =>
      have ha : ∀ t : State, t.fillLost f = t.attachGone := fun t => by simp [State.fillLost, h2]
      rw [ha, ha, ← s.attachGone_useCredit p]
      rfl
  · rw [if_neg h2]; rfl

/-- What a fill brings, where no memory is closed: the bytes and the poison of its home, or poison alone. -/
theorem State.fillLine_spec {s : State} (ho : s.openMem = true) (f : Fill) : (s.fillLine f).asn = f.asn ∧ (s.fillLine f).line = f.line
    ∧ (s.fillLost f = true → ∀ n, n < 8 → bitAt (s.fillLine f).pois n = true)
    ∧ (s.fillLost f = false → (s.fillLine f).data = ((List.range 16).map fun i => BitVec.ofNat 64 (s.mem.readNat f.loc (f.pa + 8 * i) 8))
        ∧ ∀ n, n < 8 → bitAt (s.fillLine f).pois n = s.mem.poisoned f.loc (f.pa + 16 * n) 16) := by
  cases hl : s.fillLost f
  · have hr : ∀ a, s.readGlobal f.loc a 8 = s.mem.readNat f.loc a 8 := fun a => by rw [State.readGlobal, if_pos ho]
    simp only [State.fillLine, hl, Bool.false_eq_true, if_false, hr, true_and, false_implies]
    intro _ n hn
    rw [bitAt_maskOf _ hn]
    simp [hn]
  · simp only [State.fillLine, hl, if_true, true_and]
    refine ⟨fun _ n hn => ?_, fun h => by cases h⟩
    have : ∀ n, n < 8 → bitAt (0xFF : BitVec 8) n = true := by decide
    exact this n hn

section Arrival

variable {s : State} {c : Nat} {f : Fill} (hf : (s.core c).fills.find? (fun q => q.id = f.id) = some f)
include hf

theorem exec_icacheFillArrival_waits (hc : (!f.dead && !s.fillLost f && (s.creditless f.id || (f.loc == 2 && s.hostPort.isNone))) = true) :
    exec (.icacheFillArrival c f.id) s = .next s := by
  change execIcacheFillArrival c f.id s = _
  simp only [execIcacheFillArrival, hf, hc, if_true]

/-- The fill taken out of those in flight. -/
def State.endFill (s : State) (c : Nat) (f : Fill) : State := s.modCore c fun k => { k with fills := k.fills.filter fun x => x.id != f.id }

theorem exec_icacheFillArrival_arrives
    (hc : (!f.dead && !s.fillLost f && (s.creditless f.id || (f.loc == 2 && s.hostPort.isNone))) = false) :
    exec (.icacheFillArrival c f.id) s = .next (if f.dead then s.endFill c f else
      ((s.endFill c f).chargeFill c f).modCore c fun k => { k with icache := placeLine k.icache (((s.endFill c f).chargeFill c f).fillLine f) }) := by
  change execIcacheFillArrival c f.id s = _
  simp only [execIcacheFillArrival, hf, hc, Bool.false_eq_true, if_false]
  rfl

end Arrival

/-- A fill that no ISYNC has overtaken, and that no link keeps waiting, brings its line. -/
theorem exec_icacheFillArrival_line {s : State} {c : Nat} {f : Fill} (hf : (s.core c).fills.find? (fun q => q.id = f.id) = some f)
    (hc : (!f.dead && !s.fillLost f && (s.creditless f.id || (f.loc == 2 && s.hostPort.isNone))) = false) (ho : s.openMem = true)
    (hd : f.dead = false) :
    ∃ t : State, exec (.icacheFillArrival c f.id) s = .next t ∧ (t.core c).fills = (s.core c).fills.filter (fun q => q.id != f.id)
      ∧ t.mem = s.mem ∧ (t.core c).iline f.asn f.line = some (s.fillLine f) := by
  have hoe : (s.endFill c f).openMem = true := ho
  obtain ⟨hcores, hmem, hmon⟩ := State.chargeFill_cores hoe c f
  have hline : ((s.endFill c f).chargeFill c f).fillLine f = s.fillLine f := by
    have hr : ∀ a, ((s.endFill c f).chargeFill c f).readGlobal f.loc a 8 = s.readGlobal f.loc a 8 := fun a => by
      simp only [State.readGlobal, State.openMem, State.inFirmware, hmem, hmon]
      rfl
    simp only [State.fillLine, State.fillLost_chargeFill hoe, hr, hmem]
    rfl
  have hcore : ((s.endFill c f).chargeFill c f).core c = { s.core c with fills := (s.core c).fills.filter fun x => x.id != f.id } := by
    rw [State.core, hcores]
    exact State.core_modCore_self _ _ _
  rw [exec_icacheFillArrival_arrives hf hc, hline, if_neg (by simp [hd])]
  refine ⟨_, rfl, ?_, hmem, ?_⟩
  · rw [State.core_modCore_self, hcore]
  · rw [State.core_modCore_self, Core.iline]
    obtain ⟨hasn, hl, -⟩ := State.fillLine_spec ho f
    exact find?_placeLine _ hasn hl

/-- A walk that an invalidation has overtaken, or whose context is gone, ends and nothing more. -/
theorem exec_walkComplete_dropped {s : State} {y : Walk} (hy : s.fab.walks.find? (fun q => q.id = y.id) = some y)
    (hd : y.dead = true ∨ (s.ctx y.ctx).st = .none) : exec (.walkComplete y.id) s = .next (s.endWalk y) := by
  rw [exec_walkComplete hy, if_pos (by simpa using hd)]

theorem exec_walkComplete_leaf {s : State} {y : Walk} (hy : s.fab.walks.find? (fun q => q.id = y.id) = some y)
    (hd : y.dead = false) (hst : (s.ctx y.ctx).st ≠ .none) {leaf : DWord} {log : Nat} (hf : s.walkFinds y = some (leaf, log)) :
    exec (.walkComplete y.id) s = .next ((s.chargeWalk y).installLeaf y (y.entry leaf log)) := by
  rw [exec_walkComplete hy, if_neg (by simpa [hd] using hst), hf, Option.elim_some]

theorem exec_walkComplete_none {s : State} {y : Walk} (hy : s.fab.walks.find? (fun q => q.id = y.id) = some y)
    (hd : y.dead = false) (hst : (s.ctx y.ctx).st ≠ .none) (hf : s.walkFinds y = none) :
    exec (.walkComplete y.id) s = .next (y.whos.foldl (fun s a => s.reportMiss y a) (s.chargeWalk y)) := by
  rw [exec_walkComplete hy, if_neg (by simpa [hd] using hst), hf, Option.elim_none]

@[simp] theorem State.chargeWalk_core (s : State) (y : Walk) (c : Nat) : (s.chargeWalk y).core c = s.core c := by
  obtain ⟨n, rs, e⟩ := s.chargeWalk_eq y
  rw [e]; rfl

@[simp] theorem State.chargeWalk_fab (s : State) (y : Walk) : (s.chargeWalk y).fab = (s.endWalk y).fab := by
  obtain ⟨n, rs, e⟩ := s.chargeWalk_eq y
  rw [e]

@[simp] theorem State.chargeWalk_mem (s : State) (y : Walk) : (s.chargeWalk y).mem = s.mem := by
  obtain ⟨n, rs, e⟩ := s.chargeWalk_eq y
  rw [e]; rfl

/-- A walk that finds a leaf. -/
theorem exec_walkComplete_caches {s : State} {y : Walk} (hy : s.fab.walks.find? (fun q => q.id = y.id) = some y)
    (hd : y.dead = false) (hst : (s.ctx y.ctx).st ≠ .none) {leaf : DWord} {log : Nat} (hf : s.walkFinds y = some (leaf, log)) :
    ∃ t : State, exec (.walkComplete y.id) s = .next t ∧ t.fab.walks = s.fab.walks.filter (fun q => q.id != y.id) ∧ t.mem = s.mem
      ∧ (∀ c, keepsCore (s.core c) (t.core c)) ∧ (Sparse.get [] t.fab.stlb y.slice).head? = some (y.entry leaf log)
      ∧ (∀ a ∈ y.whos, ∀ c, agentCore a = some c → (t.core c).tlb.head? = some (y.entry leaf log))
      ∧ (∀ c, (∀ a ∈ y.whos, agentCore a ≠ some c) → t.core c = s.core c) ∧ ∀ c, (t.core c).wfault = (s.core c).wfault := by
  refine ⟨_, exec_walkComplete_leaf hy hd hst hf, ?_, ?_, fun c => ?_, ?_, fun a ha c hc => ?_, fun c hc => ?_, fun c => ?_⟩
  · rw [State.installLeaf_fab, State.chargeWalk_fab]; rfl
  · rw [State.installLeaf_mem, State.chargeWalk_mem]
  · have hk := keepsCore_installLeaf (s.chargeWalk y) y (y.entry leaf log) c
    rwa [State.chargeWalk_core] at hk
  · rw [State.installLeaf_fab, Sparse.get_modify, if_pos rfl, head?_placeTlb]
  · rw [State.core_installLeaf, if_pos ⟨a, ha, hc⟩, head?_placeTlb]
  · rw [State.core_installLeaf, if_neg (fun ⟨a, ha, h⟩ => hc a ha h), State.chargeWalk_core]
  · rw [State.core_installLeaf, ← s.chargeWalk_core y c]
    split <;> rfl

/-- A walk that finds none. -/
theorem exec_walkComplete_reports {s : State} {y : Walk} (hy : s.fab.walks.find? (fun q => q.id = y.id) = some y)
    (hd : y.dead = false) (hst : (s.ctx y.ctx).st ≠ .none) (hf : s.walkFinds y = none) :
    ∃ t : State, exec (.walkComplete y.id) s = .next t ∧ t.fab.walks = s.fab.walks.filter (fun q => q.id != y.id) ∧ t.mem = s.mem
      ∧ (∀ c, keepsCore (s.core c) (t.core c)) ∧ t.fab.stlb = s.fab.stlb ∧ (∀ c, (t.core c).tlb = (s.core c).tlb)
      ∧ ∀ a ∈ y.whos, ∀ c, agentCore a = some c →
        (t.core c).wfault.any (fun f => f.who = a ∧ f.asn = y.asn ∧ f.vpage = y.vpage) = true := by
  have hcore := fun c => State.core_foldl_reportMiss (s.chargeWalk y) y y.whos c
  have hfab : (y.whos.foldl (fun s a => s.reportMiss y a) (s.chargeWalk y)).fab = (s.chargeWalk y).fab :=
    State.foldl_keeps (·.fab) _ (fun s a => s.reportMiss y a) (fun t a => t.reportMiss_fab y a) _
  have hmem : (y.whos.foldl (fun s a => s.reportMiss y a) (s.chargeWalk y)).mem = (s.chargeWalk y).mem :=
    State.foldl_keeps (·.mem) _ (fun s a => s.reportMiss y a) (fun t a => t.reportMiss_mem y a) _
  refine ⟨_, exec_walkComplete_none hy hd hst hf, ?_, ?_, fun c => ?_, ?_, fun c => ?_, fun a ha c hc => ?_⟩
  · rw [hfab, State.chargeWalk_fab]; rfl
  · rw [hmem, State.chargeWalk_mem]
  · rw [hcore, State.chargeWalk_core]; exact ⟨rfl, rfl, rfl, rfl⟩
  · rw [hfab, State.chargeWalk_fab]; rfl
  · rw [hcore, State.chargeWalk_core]
  · rw [hcore]
    exact List.any_eq_true.2 ⟨_, List.mem_append_right _ (Walk.mem_reports ha hc), by simp⟩

/-- The start of a fill, as its fetch reports it. -/
theorem exec_instructionFetch_fills {s : State} {who : Agent} {c n : Nat} {pc va leaf : DWord} {pa : Nat} (h : s.fetchAt who = some (c, n, pc))
    (hf : (s.core c).fetch (s.ctxRegion n).asn pc = .absent va) (hfill : (s.core c).filling (s.ctxRegion n).asn (va.toNat / 128) = false)
    (ht : s.translate c (s.missName who) (s.ctxRegion n) va .fetch = .ok leaf pa) :
    ∃ t : State, exec (.instructionFetch who) s = .next t
      ∧ (t.core c).fills = (s.core c).fills ++ [⟨s.nextId, (s.ctxRegion n).asn, va.toNat / 128, eLoc leaf, pa / 128 * 128, false⟩]
      ∧ (t.core c).icache = (s.core c).icache ∧ t.mem = s.mem ∧ sameRegs s t := by
  have hcore := s.core_startFill c (s.ctxRegion n).asn va leaf pa
  have hregs : sameRegs s (s.startFill c (s.ctxRegion n).asn va leaf pa) := sameRegs_of_cores fun d => by
    rw [hcore]
    split
    · next e => rw [e]; exact ⟨rfl, rfl⟩
    · exact ⟨rfl, rfl⟩
  obtain ⟨hfills, hicache, hw, hq⟩ := (s.startFill c (s.ctxRegion n).asn va leaf pa).countFill_keeps who c
  refine ⟨_, exec_instructionFetch_ok h hf hfill ht, ?_, ?_, by simp, fun d v => (hw d v).trans (hregs.1 d v),
    fun d b cp => (hq d b cp).trans (hregs.2 d b cp)⟩
  · rw [hfills, hcore, if_pos rfl]
  · rw [hicache, hcore, if_pos rfl]

/-- A gang whose fetch fails faults in each of its slices. -/
theorem fetchFault_gang_spec {s : State} {c w j : Nat} (ha : s.awaits (s.warp c w).uid ((s.warp c w).gangOf j) = false) (code : BitVec 8)
    (va : DWord) :
    (∀ k ∈ (s.warp c w).gangOf j, ((s.fetchFault (.gang c w j) code va).warp c w).slice k = ((s.warp c w).slice k).fault code va 0)
      ∧ ((s.fetchFault (.gang c w j) code va).ctx ((s.core c).block (s.warp c w).block).ctx).st ≠ .running := by
  rw [State.fetchFault_gang ha]
  refine ⟨fun k hk => ?_, ?_⟩
  · rw [State.warp_clearWalkFaults, State.slice_raise, if_pos hk]
  · exact s.ctx_raise c w _ code va 0

/-- Settles O51: each event is taken by its cases, with what it leaves alone. -/
theorem translationComplete : Obligations.TranslationComplete := by
  refine ⟨fun s slice m hm => ⟨fun y hy => ⟨exec_walkerStart_overtaken hm hy, fun hd => ⟨_, exec_walkerStart_joins hm hy hd, rfl, rfl, rfl, rfl⟩⟩,
    fun hy => ?start⟩, fun s y hy => ?walk, fun s v => ⟨exec_xlinvCtlWrite_busy v, fun h => ?xlinv⟩,
    fun s => ⟨exec_invalidationComplete_waits, fun hb hw => ?ends⟩, fun s who => ⟨fun h => ?idle, fun c n pc h => ?fetch⟩,
    fun s c w j code va _ => ?fault, fun s c f hf => ?fill⟩
  case start =>
    split
    · next hfull => exact exec_walkerStart_full hm hy hfull
    · next hfree => exact ⟨_, exec_walkerStart_starts hm hy hfree, rfl, rfl, rfl, rfl⟩
  case walk =>
    by_cases hd : y.dead = true ∨ (s.ctx y.ctx).st = .none
    · refine ⟨_, exec_walkComplete_dropped hy hd, rfl, rfl, ⟨fun _ _ => rfl, fun _ _ _ => rfl⟩, fun _ => ⟨rfl, rfl⟩, fun _ => ⟨rfl, rfl⟩,
        fun hl hst => ?_⟩
      exact absurd hd (by simp [hl, hst])
    · obtain ⟨hl, hst⟩ : y.dead = false ∧ (s.ctx y.ctx).st ≠ .none := by simpa using hd
      cases hf : s.walkFinds y with
      | none =>
        obtain ⟨t, ht, hwalks, hmem, hkeep, hrest⟩ := exec_walkComplete_reports hy hl hst hf
        obtain ⟨hregs, hscr⟩ := sameRegs_of_keepsCore hkeep
        refine ⟨t, ht, hwalks, hmem, hregs, hscr, fun h => absurd h hd, fun _ _ => ⟨fun leaf log h => ?_, fun _ => hrest⟩⟩
        cases hf.symm.trans h
      | some x =>
        obtain ⟨t, ht, hwalks, hmem, hkeep, hrest⟩ := exec_walkComplete_caches hy hl hst hf
        obtain ⟨hregs, hscr⟩ := sameRegs_of_keepsCore hkeep
        refine ⟨t, ht, hwalks, hmem, hregs, hscr, fun h => absurd h hd, fun _ _ => ⟨fun leaf log h => ?_, fun h => ?_⟩⟩
        · obtain rfl := Option.some.inj (hf.symm.trans h)
          exact hrest
        · cases hf.symm.trans h
  case xlinv =>
    obtain ⟨t, ht, hx, hlo, hhi, hwait, hdead, hcores, hmem⟩ := exec_xlinvCtlWrite_free v h
    obtain ⟨hbusy, hasn, hall, hlog⟩ := xlctl_written v
    rw [← hx] at hbusy hasn hall hlog
    exact ⟨t, ht, hbusy, hasn, hlo, hhi, hall, hlog, hwait, hdead, hcores, hmem⟩
  case ends =>
    obtain ⟨t, ht, hbusy, hmem, htlb, hstlb⟩ := exec_invalidationComplete_ends hb hw
    exact ⟨t, ht, hbusy, hmem, fun _ => htlb, fun _ => hstlb⟩
  case idle =>
    change execInstructionFetch who s = _
    simp only [execInstructionFetch, h]
  case fetch =>
    exact ⟨fun y e hf => exec_instructionFetch_words h hf, exec_instructionFetch_bad h, fun va hf =>
      ⟨exec_instructionFetch_filling h hf, fun hfill => ⟨fun leaf pa ht => exec_instructionFetch_fills h hf hfill ht,
        fun code ht => exec_instructionFetch_fault h hf hfill ht, exec_instructionFetch_miss h hf hfill⟩⟩⟩
  case fault =>
    intro ms ha t
    obtain ⟨hslice, hctx⟩ := fetchFault_gang_spec ha code va
    exact ⟨fun k hk => by rw [hslice k hk]; exact ⟨rfl, rfl, rfl, rfl, rfl⟩, hctx⟩
  case fill =>
    intro lost crosses
    have hlost : s.fillLost f = true ↔ lost := by simp [State.fillLost, lost]
    have hwait : (!f.dead && !s.fillLost f && (s.creditless f.id || (f.loc == 2 && s.hostPort.isNone))) = true ↔ f.dead = false ∧ crosses := by
      simp [crosses, ← hlost, and_assoc]
    refine ⟨fun hd hx => exec_icacheFillArrival_waits hf (hwait.2 ⟨hd, hx⟩), fun hx ho => ?_⟩
    have hgo : (!f.dead && !s.fillLost f && (s.creditless f.id || (f.loc == 2 && s.hostPort.isNone))) = false := by
      rw [← Bool.not_eq_true, hwait]
      rintro ⟨hd, hc⟩
      exact hx.elim (by simp [hd]) fun h => h hc
    cases hd : f.dead
    · obtain ⟨t, ht, hfills, hmem, hline⟩ := exec_icacheFillArrival_line hf hgo ho hd
      obtain ⟨hasn, hl, hpois, hdata⟩ := State.fillLine_spec ho f
      exact ⟨t, ht, hfills, hmem, fun h => (by cases h), fun _ => ⟨_, hline, hasn, hl, fun h => hpois (hlost.2 h),
        fun h => hdata (by simpa using mt hlost.1 h)⟩⟩
    · have he := exec_icacheFillArrival_arrives hf hgo
      rw [hd, if_pos rfl] at he
      refine ⟨_, he, ?_, rfl, fun _ => ?_, fun h => by cases h⟩
      · rw [State.endFill, State.core_modCore_self]
      · rw [State.endFill, State.core_modCore_self]

end Sys2Proof.Machine
end

section
/-!
PROOFS. Numbers and poison of the scratchpad: what a write of a core's scratchpad leaves alone, what is read of the bytes it writes and of the
others, and which rows are poisoned afterwards.
-/

namespace Sys2Proof.Machine

/-! ## Little-endian numbers (R4) -/

@[simp] theorem length_leBytes (n v : Nat) : (leBytes n v).length = n := by
  induction n generalizing v with
  | zero => rfl
  | succ n ih => rw [leBytes, List.length_cons, ih]

theorem leNat_leBytes (n v : Nat) : leNat (leBytes n v) = v % 256 ^ n := by
  induction n generalizing v with
  | zero => simp [leBytes, leNat, Nat.mod_one]
  | succ n ih =>
    have h256 : 2 ^ 8 = 256 := rfl
    rw [leBytes, leNat, ih, BitVec.toNat_ofNat, h256, pow_succ', Nat.mod_mul]

theorem getD_leBytes {n i : Nat} (v : Nat) (h : i < n) : (leBytes n v).getD i 0 = BitVec.ofNat 8 (v / 256 ^ i) := by
  induction n generalizing v i with
  | zero => omega
  | succ n ih =>
    cases i with
    | zero => simp [leBytes]
    | succ i => rw [leBytes, List.getD_cons_succ, ih _ (by omega), Nat.div_div_eq_div_mul, Nat.pow_succ, Nat.mul_comm (256 ^ i)]

theorem leNat_lt (l : List Byte) : leNat l < 256 ^ l.length := by
  induction l with
  | nil => simp [leNat]
  | cons b l ih =>
    have hb := b.isLt
    rw [leNat, List.length_cons, Nat.pow_succ]
    omega

theorem Core.scrNat_lt (k : Core) (a n : Nat) : k.scrNat a n < 256 ^ n := by
  have h := leNat_lt (k.readScr a n)
  rwa [Core.readScr, List.length_map, List.length_range] at h

/-! ## What a write of the scratchpad leaves alone -/

/-- Two cores differ at most in the scratchpad: its bytes, tags and poison, its touched rows, and the marks of what is wrong in their symbols. -/
def scratchOnly (k k' : Core) : Prop := ∃ m t p c b, k' = { k with scr := m, tags := t, scrPois := p, touched := c, bad := b }

theorem scratchOnly.refl (k : Core) : scratchOnly k k := ⟨k.scr, k.tags, k.scrPois, k.touched, k.bad, rfl⟩

theorem scratchOnly.trans {k k' k'' : Core} (h : scratchOnly k k') (h' : scratchOnly k' k'') : scratchOnly k k'' := by
  obtain ⟨m, t, p, c, b, rfl⟩ := h
  obtain ⟨m', t', p', c', b', rfl⟩ := h'
  exact ⟨m', t', p', c', b', rfl⟩

theorem scratchOnly_touchScr (k : Core) (r : Nat) : scratchOnly k (k.touchScr r) := by
  unfold Core.touchScr
  split <;> exact ⟨_, _, _, _, _, rfl⟩

theorem scratchOnly_putScr (k : Core) (a : Nat) (b : Byte) : scratchOnly k (k.putScr a b) := by
  unfold Core.putScr
  split
  · exact .refl k
  · exact (scratchOnly_touchScr k (a / 16)).trans ⟨_, _, _, _, _, rfl⟩

theorem scratchOnly_putScrAll (k : Core) (a : Nat) (bs : List Byte) : scratchOnly k (putScrAll k a bs) := by
  induction bs generalizing k a with
  | nil => exact .refl k
  | cons b bs ih => exact (scratchOnly_putScr k a b).trans (ih _ _)

theorem scratchOnly_writeScr (k : Core) (a : Nat) (bs : List Byte) : scratchOnly k (k.writeScr a bs) :=
  (scratchOnly_putScrAll k a bs).trans ⟨_, _, _, _, _, rfl⟩

theorem scratchOnly_poisonScr (k : Core) (r : Nat) : scratchOnly k (k.poisonScr r) := by
  unfold Core.poisonScr
  split
  · exact .refl k
  · exact (scratchOnly_touchScr k r).trans ⟨_, _, _, _, _, rfl⟩

section ScratchOnly

variable {k k' : Core} (h : scratchOnly k k')
include h

theorem scratchOnly.bars : k'.bars = k.bars := by obtain ⟨_, _, _, _, _, rfl⟩ := h; rfl
theorem scratchOnly.scrSize : k'.scrSize = k.scrSize := by obtain ⟨_, _, _, _, _, rfl⟩ := h; rfl
theorem scratchOnly.warps : k'.warps = k.warps := by obtain ⟨_, _, _, _, _, rfl⟩ := h; rfl
theorem scratchOnly.blocks : k'.blocks = k.blocks := by obtain ⟨_, _, _, _, _, rfl⟩ := h; rfl
theorem scratchOnly.warp (w : Nat) : k'.warp w = k.warp w := by obtain ⟨_, _, _, _, _, rfl⟩ := h; rfl
theorem scratchOnly.block (b : Nat) : k'.block b = k.block b := by obtain ⟨_, _, _, _, _, rfl⟩ := h; rfl
theorem scratchOnly.copies : k'.copies = k.copies := by obtain ⟨_, _, _, _, _, rfl⟩ := h; rfl
theorem scratchOnly.lda : k'.lda = k.lda := by obtain ⟨_, _, _, _, _, rfl⟩ := h; rfl

end ScratchOnly

@[simp] theorem Core.writeScr_bars (k : Core) (a : Nat) (bs : List Byte) : (k.writeScr a bs).bars = k.bars := (scratchOnly_writeScr k a bs).bars
@[simp] theorem Core.writeScr_scrSize (k : Core) (a : Nat) (bs : List Byte) : (k.writeScr a bs).scrSize = k.scrSize :=
  (scratchOnly_writeScr k a bs).scrSize

/-! ## What is read after a write -/

theorem Core.scrByte_writeScr {k : Core} (h : k.bars = []) {a o : Nat} {bs : List Byte} (ha : a + bs.length ≤ k.scrSize) (ho : o < k.scrSize) :
    (k.writeScr a bs).scrByte o = if a ≤ o ∧ o < a + bs.length then bs.getD (o - a) 0 else k.scrByte o := by
  obtain ⟨hbars, hbyte⟩ := scrByte_putScrAll h bs ha ho
  rw [← hbyte, Core.scrByte_of_noBars hbars, Core.scrByte_of_noBars (k := k.writeScr a bs) hbars]
  rfl

/-- A number read is that of its bytes. -/
theorem Core.scrNat_congr {k k' : Core} {a n : Nat} (h : ∀ i, i < n → k'.scrByte (a + i) = k.scrByte (a + i)) : k'.scrNat a n = k.scrNat a n := by
  rw [Core.scrNat, Core.scrNat, Core.readScr, Core.readScr, List.map_congr_left fun i hi => h i (List.mem_range.1 hi)]

/-- A number that stands among the bytes written. -/
theorem Core.scrNat_writeScr_part {k : Core} (h : k.bars = []) {a b n v : Nat} {bs pre post : List Byte} (hbs : bs = pre ++ leBytes n v ++ post)
    (hb : b = a + pre.length) (ha : a + bs.length ≤ k.scrSize) : (k.writeScr a bs).scrNat b n = v % 256 ^ n := by
  subst hb
  have hlen : bs.length = pre.length + n + post.length := by simp [hbs, Nat.add_assoc]
  have hr : (k.writeScr a bs).readScr (a + pre.length) n = leBytes n v := by
    refine List.ext_getElem (by simp [Core.readScr]) fun i hi hi' => ?_
    have hin : i < n := by simpa using hi'
    simp only [Core.readScr, List.getElem_map, List.getElem_range]
    rw [Core.scrByte_writeScr h ha (by omega), if_pos (by omega),
      show a + pre.length + i - a = pre.length + i by omega, hbs, List.append_assoc, List.getD_append_right _ _ _ _ (by omega),
      Nat.add_sub_cancel_left, List.getD_append _ _ _ _ hi', List.getD_eq_getElem]
  rw [Core.scrNat, hr, leNat_leBytes]

/-- The number written. -/
theorem Core.scrNat_writeScr_same {k : Core} (h : k.bars = []) {a n v : Nat} (ha : a + n ≤ k.scrSize) :
    (k.writeScr a (leBytes n v)).scrNat a n = v % 256 ^ n :=
  Core.scrNat_writeScr_part (pre := []) (post := []) h (by simp) rfl (by simpa using ha)

/-- A number outside the bytes written. -/
theorem Core.scrNat_writeScr_other {k : Core} (h : k.bars = []) {a b n : Nat} {bs : List Byte} (ha : a + bs.length ≤ k.scrSize)
    (hb : b + n ≤ k.scrSize) (hd : b + n ≤ a ∨ a + bs.length ≤ b) : (k.writeScr a bs).scrNat b n = k.scrNat b n :=
  Core.scrNat_congr fun i hi => by rw [Core.scrByte_writeScr h ha (by omega), if_neg (by omega)]

/-! ## The poison of rows (R79, R84) -/

theorem Core.scrPois_touchScr (k : Core) (r r' : Nat) :
    Sparse.get false (k.touchScr r).scrPois r' = if k.scrFresh r = true ∧ r' = r then false else Sparse.get false k.scrPois r' := by
  unfold Core.touchScr
  split
  · next h =>
    simp only [h, true_and]
    exact Sparse.get_set false k.scrPois r r' false
  · next h => rw [if_neg (by simp [h])]

/-- A row's first touch poisons none, and clears none. -/
theorem Core.scrPoison_touchScr {k : Core} {r r' : Nat} (hr : r < k.scrBanks * 512) (hr' : r' < k.scrBanks * 512) :
    (k.touchScr r).scrPoison r' = k.scrPoison r' := by
  rw [Core.scrPoison, Core.touchScr_scrFresh hr hr', Core.scrPois_touchScr, Core.scrPoison]
  by_cases h : r' = r
  · subst h
    cases k.scrFresh r' <;> simp
  · simp [h]

theorem Core.scrPoison_putScrAll {k : Core} (h : k.bars = []) {a r : Nat} (bs : List Byte) (ha : a + bs.length ≤ k.scrSize)
    (hr : r < k.scrBanks * 512) : (putScrAll k a bs).scrPoison r = k.scrPoison r := by
  induction bs generalizing k a with
  | nil => rfl
  | cons b bs ih =>
    rw [List.length_cons] at ha
    have hz := Core.putScr_scrSize h a b
    have hput : (k.putScr a b).scrPoison r = (k.touchScr (a / 16)).scrPoison r := by rw [Core.putScr_eq h]; rfl
    have hbanks : (k.putScr a b).scrBanks = k.scrBanks := by
      simp only [Core.scrSize, Core.scrBanks] at hz ⊢
      omega
    rw [putScrAll, ih (Core.putScr_bars h a b) (by omega) (by rwa [hbanks]), hput, Core.scrPoison_touchScr (Core.scrRow_lt (by omega)) hr]

/-- A write of less than a row changes the poison of none (R79). -/
theorem Core.scrPoison_writeScr {k : Core} (h : k.bars = []) {a r : Nat} {bs : List Byte} (ha : a + bs.length ≤ k.scrSize)
    (hr : r < k.scrBanks * 512) (hlen : bs.length < 16) : (k.writeScr a bs).scrPoison r = k.scrPoison r := by
  have hw : wholeUnits a bs.length = [] := by
    refine List.filterMap_eq_nil_iff.2 fun i _ => if_neg ?_
    simp only [Bool.and_eq_true, decide_eq_true_eq]
    omega
  rw [← Core.scrPoison_putScrAll h bs ha hr, Core.writeScr, hw]
  rfl

theorem Core.poisonScr_eq {k : Core} (h : k.bars = []) (r : Nat) :
    k.poisonScr r = { k.touchScr r with scrPois := Sparse.set false (k.touchScr r).scrPois r true } := by
  simp [Core.poisonScr, Core.barAt, h]

theorem Core.scrPoison_poisonScr {k : Core} (h : k.bars = []) {r : Nat} (hr : r < k.scrBanks * 512) : (k.poisonScr r).scrPoison r = true := by
  have hf : (k.poisonScr r).scrFresh r = (k.touchScr r).scrFresh r := by rw [Core.poisonScr_eq h]; rfl
  rw [Core.scrPoison, hf, Core.touchScr_scrFresh hr hr, if_pos rfl, Core.poisonScr_eq h, Sparse.get_set_self]
  rfl

theorem Core.scrByte_poisonScr {k : Core} (h : k.bars = []) {r o : Nat} (hr : r < k.scrBanks * 512) (ho : o < k.scrSize) :
    (k.poisonScr r).scrByte o = k.scrByte o := by
  rw [← Core.scrByte_touchScr h hr ho, Core.poisonScr_eq h]
  rfl

end Sys2Proof.Machine
end

section
/-!
PROOFS. An instruction that acts once for its gang, or for a sequencer (R313): whoever issues it, it is its meaning, completed.
-/

namespace Sys2Proof.Machine

/-- The state in which an instruction, issued by whoever is current, ends with an act. -/
def State.endWith (s : State) (i : Instr) (a : Act) : State :=
  match s.cur with
  | .seq c b cp => s.finishSeq (s.seqIssue c b cp i) a
  | .gang c w j => s.finishGang (s.gangIssue c w j i) (s.warp c w).pmsel a
  | .quarter _ _ | .sched _ | .engine _ | .none => s

theorem State.endWith_done (s t : State) (i : Instr) : s.endWith i (.done t) = s.doneWith i t := rfl
theorem State.endWith_go (s t : State) (i : Instr) (next : List (Nat × DWord)) : s.endWith i (.go t next) = s.goesWith i t next := rfl

section Once

variable {s : State} {i : Instr} (h : s.readyFor i = true)
include h

theorem State.readyFor_sound : s.sound = true := by
  cases hc : s.cur with
  | seq c b cp =>
    simp only [State.readyFor, hc] at h
    obtain ⟨-, -, -, -, hs, -⟩ := (s.seqReady_iff c b cp i).1 h
    exact hs
  | gang c w j =>
    simp only [State.readyFor, hc] at h
    obtain ⟨-, -, -, -, -, -, -, hs⟩ := (s.gangReady_iff c w j i).1 (Bool.and_eq_true_iff.1 h).1
    exact hs
  | _ => simp [State.readyFor, hc] at h

/-- The instruction acts in some lane, so that its meaning is taken. -/
theorem State.issueOnce_ready (body : Issue → State → Act) : s.issueOnce i body = .next (s.endWith i (body (s.issueOf i) s)) := by
  cases hc : s.cur with
  | seq c b cp =>
    simp only [State.readyFor, hc] at h
    simp only [State.issueOf, State.endWith, hc]
    rw [State.issueOnce, s.issue_seq c b cp i _ _ h, s.seqIssue_acting c b cp i h]
    rfl
  | gang c w j =>
    simp only [State.readyFor, hc, Bool.and_eq_true] at h
    obtain ⟨hready, hacts⟩ := h
    simp only [State.issueOf, State.endWith, hc]
    rw [State.issueOnce, s.issue_gang c w j i _ _ hready, if_neg (by simpa [State.acts] using hacts)]
  | _ => simp [State.readyFor, hc] at h

theorem State.issueOnce_done {t : State} {body : Issue → State → Act} (hb : body (s.issueOf i) s = .done t) :
    s.issueOnce i body = .next (s.doneWith i t) := by rw [State.issueOnce_ready h, hb, State.endWith_done]

theorem State.issueOnce_go {t : State} {next : List (Nat × DWord)} {body : Issue → State → Act} (hb : body (s.issueOf i) s = .go t next) :
    s.issueOnce i body = .next (s.goesWith i t next) := by rw [State.issueOnce_ready h, hb, State.endWith_go]

end Once

/-- A gang that is ready and acts. -/
theorem State.readyFor_gang {s : State} {c w j : Nat} {i : Instr} (h : s.gangReady c w j i = true) (ha : s.acts c w j i = true) :
    s.readyFor i = true ∧ s.issueOf i = s.gangIssue c w j i ∧ ∀ t next, s.goesWith i t next = s.gangGoes c w j i t next := by
  obtain ⟨hc, -⟩ := (s.gangReady_iff c w j i).1 h
  simp only [State.readyFor, State.issueOf, State.goesWith, hc, h, ha, Bool.and_self, implies_true, and_self]

/-- In a sound state the reads of a ring find nothing wrong (R75). -/
theorem State.meetRing_sound {s : State} (h : s.sound = true) (x : Issue) (a : Word) (n : Nat) : s.meetRing x a n = s := by
  simp only [State.meetRing, State.meetScr_sound h]

end Sys2Proof.Machine
end

section
/-!
PROOFS. Ring slots (R63 to R66): who a filled slot wakes, what a slot's status reads as once it is set, and from these an arrival and a rearming.
-/

namespace Sys2Proof.Machine

/-! ## Those parked on a slot (R65) -/

@[simp] theorem Core.scrByte_wakeSlot (k : Core) (at_ b : Nat) : (k.wakeSlot at_).scrByte b = k.scrByte b := rfl
@[simp] theorem Core.scrNat_wakeSlot (k : Core) (at_ a n : Nat) : (k.wakeSlot at_).scrNat a n = k.scrNat a n := rfl
@[simp] theorem Core.scrPoison_wakeSlot (k : Core) (at_ r : Nat) : (k.wakeSlot at_).scrPoison r = k.scrPoison r := rfl
@[simp] theorem Core.bars_wakeSlot (k : Core) (at_ : Nat) : (k.wakeSlot at_).bars = k.bars := rfl
@[simp] theorem Core.scrSize_wakeSlot (k : Core) (at_ : Nat) : (k.wakeSlot at_).scrSize = k.scrSize := rfl

/-- A slice parked on a slot becomes ready. -/
theorem Core.ready_wakeSlot {k : Core} {at_ w j : Nat} (hp : ((k.warp w).slice j).park = .awaitf ∨ ((k.warp w).slice j).park = .yieldc)
    (ht : ((k.warp w).slice j).tok = some (BitVec.ofNat 64 at_)) : (((k.wakeSlot at_).warp w).slice j).ready = true := by
  simp only [Core.warp, Warp.slice] at hp ht
  simp only [Core.warp, Core.wakeSlot, Warp.slice]
  rw [Sparse.get_mapVals _ _ _ _ rfl, Sparse.get_mapVals _ _ _ _ rfl]
  simp [hp, ht]

/-- A change of a core that leaves its registers and the warps of its blocks. -/
structure keepsIssuers (k k' : Core) : Prop where
  rf : ∀ w, (k'.warp w).rf = (k.warp w).rf
  warps : ∀ b, (k'.block b).warps = (k.block b).warps
  seqRf : ∀ b cp, (k'.seq b cp).rf = (k.seq b cp).rf

theorem keepsIssuers.trans {k k' k'' : Core} (h : keepsIssuers k k') (h' : keepsIssuers k' k'') : keepsIssuers k k'' :=
  ⟨fun w => (h'.rf w).trans (h.rf w), fun b => (h'.warps b).trans (h.warps b), fun b cp => (h'.seqRf b cp).trans (h.seqRf b cp)⟩

theorem keepsIssuers_of_scratchOnly {k k' : Core} (h : scratchOnly k k') : keepsIssuers k k' :=
  ⟨fun w => by rw [h.warp], fun b => by rw [h.block], fun b cp => by rw [Core.seq, h.block, Core.seq]⟩

theorem keepsIssuers_wakeSlot (k : Core) (at_ : Nat) : keepsIssuers k (k.wakeSlot at_) := by
  refine ⟨fun w => ?_, fun b => ?_, fun b cp => ?_⟩
  · simp only [Core.warp, Core.wakeSlot]
    rw [Sparse.get_mapVals _ _ _ _ rfl]
  · simp only [Core.block, Core.wakeSlot]
    rw [Sparse.get_mapVals _ _ _ _ rfl]
  · simp only [Core.seq, Core.block, Core.wakeSlot]
    rw [Sparse.get_mapVals _ _ _ _ rfl]
    cases cp
    all_goals
      simp only [Block.seq, if_true, Bool.false_eq_true, if_false]
      split <;> rfl

/-! ## The status of a slot -/

/-- A slot's status written: ARR and EXP, and FULL. -/
def Core.putStatus (k : Core) (at_ e a : Nat) : Core :=
  (k.writeScr at_ (leBytes 4 (e * 65536 + a))).writeScr (at_ + 4) (leBytes 4 (if e ≤ a then 1 else 0))

theorem Core.scratchOnly_putStatus (k : Core) (at_ e a : Nat) : scratchOnly k (k.putStatus at_ e a) :=
  (scratchOnly_writeScr _ _ _).trans (scratchOnly_writeScr _ _ _)

/-- WP, the low half of a header's pointers, one further. -/
def nextWp (h : Nat) : Nat := h / 65536 * 65536 + (h + 1) % 65536

/-- The halves of the pointers of a header: WP one further, wrapping, and RP as it was. -/
theorem nextWp_halves (h : Nat) : nextWp h % 65536 = (h + 1) % 65536 ∧ nextWp h / 65536 = h / 65536 := by
  simp only [nextWp]
  omega

/-- A slot that fills counts in WP, and wakes those parked on it. -/
theorem Core.setSlot_eq (k : Core) (hdr at_ e a : Nat) (was : Bool) : k.setSlot hdr at_ e a was =
    if e ≤ a ∧ was = false then
      ((k.putStatus at_ e a).writeScr (hdr + 4) (leBytes 4 (nextWp ((k.putStatus at_ e a).scrNat (hdr + 4) 4)))).wakeSlot at_
    else k.putStatus at_ e a := by
  simp only [Core.setSlot, Core.putStatus, nextWp, decide_eq_true_eq, Bool.and_eq_true, Bool.not_eq_true']

theorem keepsIssuers_setSlot (k : Core) (hdr at_ e a : Nat) (was : Bool) : keepsIssuers k (k.setSlot hdr at_ e a was) := by
  have hput := k.scratchOnly_putStatus at_ e a
  rw [Core.setSlot_eq]
  split
  · exact (keepsIssuers_of_scratchOnly (hput.trans (scratchOnly_writeScr _ _ _))).trans (keepsIssuers_wakeSlot _ _)
  · exact keepsIssuers_of_scratchOnly hput

section Slot

variable {k : Core} (hbars : k.bars = []) {hdr at_ : Nat} (hat : hdr + 16 ≤ at_) (hsize : at_ + 16 ≤ k.scrSize)

section
include hbars hsize

theorem Core.scrByte_putStatus (e a : Nat) {b : Nat} (hb : b < k.scrSize) (hd : b < at_ ∨ at_ + 8 ≤ b) :
    (k.putStatus at_ e a).scrByte b = k.scrByte b := by
  rw [Core.putStatus, Core.scrByte_writeScr (by simpa) (by simp; omega) (by simpa), if_neg (by simp; omega),
    Core.scrByte_writeScr hbars (by simp; omega) hb, if_neg (by simp; omega)]

theorem Core.scrNat_putStatus {e a : Nat} (he : e < 65536) (ha : a < 65536) : (k.putStatus at_ e a).scrNat at_ 4 = e * 65536 + a := by
  rw [Core.putStatus, Core.scrNat_writeScr_other (by simpa) (by simp; omega) (by simp; omega) (by omega),
    Core.scrNat_writeScr_same hbars (by omega), Nat.mod_eq_of_lt (by omega)]

theorem Core.scrNat_putStatus_full (e a : Nat) : (k.putStatus at_ e a).scrNat (at_ + 4) 4 = if e ≤ a then 1 else 0 := by
  rw [Core.putStatus, Core.scrNat_writeScr_same (by simpa) (by simp; omega), Nat.mod_eq_of_lt (by split <;> omega)]

end

include hbars hat hsize

theorem Core.scrNat_putStatus_header (e a : Nat) : (k.putStatus at_ e a).scrNat (hdr + 4) 4 = k.scrNat (hdr + 4) 4 :=
  Core.scrNat_congr fun _ _ => Core.scrByte_putStatus hbars hsize e a (by omega) (by omega)

/-- The status of a slot as it reads once it is set, the pointers of its header, and every other byte. -/
theorem Core.setSlot_spec {e a : Nat} (he : e < 65536) (ha : a < 65536) (was : Bool) : let k' := k.setSlot hdr at_ e a was
    k'.scrNat at_ 4 = e * 65536 + a ∧ k'.scrNat (at_ + 4) 4 = (if e ≤ a then 1 else 0)
    ∧ k'.scrNat (hdr + 4) 4 = (if e ≤ a ∧ was = false then nextWp (k.scrNat (hdr + 4) 4) else k.scrNat (hdr + 4) 4)
    ∧ ∀ b, b < k.scrSize → (b < hdr + 4 ∨ (hdr + 8 ≤ b ∧ b < at_) ∨ at_ + 8 ≤ b) → k'.scrByte b = k.scrByte b := by
  have hput := k.scratchOnly_putStatus at_ e a
  have hb : (k.putStatus at_ e a).bars = [] := hput.bars.trans hbars
  have hz := hput.scrSize
  have hstatus := Core.scrNat_putStatus hbars hsize he ha
  have hfull := Core.scrNat_putStatus_full hbars hsize e a
  have hhead := Core.scrNat_putStatus_header hbars hat hsize e a
  have hbyte := fun b => Core.scrByte_putStatus hbars hsize e a (b := b)
  have hlen : ∀ v, (leBytes 4 v).length = 4 := length_leBytes 4
  rw [Core.setSlot_eq]
  generalize k.putStatus at_ e a = p at *
  split
  · next hw =>
    have hother : ∀ v a n, a + n ≤ k.scrSize → hdr + 8 ≤ a → (p.writeScr (hdr + 4) (leBytes 4 v)).scrNat a n = p.scrNat a n :=
      fun v a n h h' => Core.scrNat_writeScr_other hb (by rw [hlen, hz]; omega) (by omega) (by rw [hlen]; omega)
    refine ⟨?_, ?_, ?_, fun b hlt hd => ?_⟩
    · rw [Core.scrNat_wakeSlot, hother _ _ _ (by omega) (by omega), hstatus]
    · rw [Core.scrNat_wakeSlot, hother _ _ _ (by omega) (by omega), hfull]
    · have hlt := k.scrNat_lt (hdr + 4) 4
      rw [Core.scrNat_wakeSlot, Core.scrNat_writeScr_same hb (by omega), hhead, Nat.mod_eq_of_lt (by simp only [nextWp]; omega)]
    · rw [Core.scrByte_wakeSlot, Core.scrByte_writeScr hb (by rw [hlen]; omega) (by omega), if_neg (by rw [hlen]; omega), hbyte b hlt (by omega)]
  · exact ⟨hstatus, hfull, hhead, fun b hlt hd => hbyte b hlt (by omega)⟩

end Slot

/-- Setting a slot's status changes the poison of no row. -/
theorem Core.scrPoison_setSlot {k : Core} (h : k.bars = []) {hdr at_ : Nat} (hat : hdr + 16 ≤ at_) (hsize : at_ + 16 ≤ k.scrSize) (e a : Nat)
    (was : Bool) {r : Nat} (hr : r < k.scrBanks * 512) : (k.setSlot hdr at_ e a was).scrPoison r = k.scrPoison r := by
  have hlen : ∀ v, (leBytes 4 v).length = 4 := length_leBytes 4
  have hbanks : ∀ k' : Core, k'.scrSize = k.scrSize → k'.scrBanks = k.scrBanks := fun k' hz => by
    simp only [Core.scrSize, Core.scrBanks] at hz ⊢
    omega
  have hput := k.scratchOnly_putStatus at_ e a
  have hpois : (k.putStatus at_ e a).scrPoison r = k.scrPoison r := by
    rw [Core.putStatus, Core.scrPoison_writeScr (by simpa) (by rw [hlen, Core.writeScr_scrSize]; omega)
      (by rwa [hbanks _ (k.writeScr_scrSize _ _)]) (by rw [hlen]; omega), Core.scrPoison_writeScr h (by rw [hlen]; omega) hr (by rw [hlen]; omega)]
  rw [Core.setSlot_eq]
  split
  · rw [Core.scrPoison_wakeSlot, ← hpois]
    exact Core.scrPoison_writeScr (hput.bars.trans h) (by rw [hlen, hput.scrSize]; omega) (by rwa [hbanks _ hput.scrSize]) (by rw [hlen]; omega)
  · exact hpois

/-- A slot that fills makes whoever is parked on it ready (R65). -/
theorem Core.ready_setSlot {k : Core} {hdr at_ e a w j : Nat} (hf : e ≤ a)
    (hp : ((k.warp w).slice j).park = .awaitf ∨ ((k.warp w).slice j).park = .yieldc) (ht : ((k.warp w).slice j).tok = some (BitVec.ofNat 64 at_)) :
    (((k.setSlot hdr at_ e a false).warp w).slice j).ready = true := by
  have hw : ∀ bs, ((k.putStatus at_ e a).writeScr (hdr + 4) bs).warp w = k.warp w := fun bs =>
    ((k.scratchOnly_putStatus at_ e a).trans (scratchOnly_writeScr _ _ bs)).warp w
  rw [Core.setSlot_eq, if_pos ⟨hf, rfl⟩]
  exact Core.ready_wakeSlot (by rwa [hw]) (by rwa [hw])

end Sys2Proof.Machine
end

section
/-!
PROOFS. RELS and its form that keeps EXP (R66, R318): the instruction rearms its slot, and what the slot and its header read as afterwards.
-/

namespace Sys2Proof.Machine

theorem Core.slotFull_eq (k : Core) (at_ : Nat) : k.slotFull at_ = decide (k.scrNat (at_ + 4) 4 % 2 = 1) := rfl

/-- ARR after RELS: a full slot keeps the arrivals beyond its EXP. -/
def Core.rearmedArr (k : Core) (at_ : Nat) : Nat :=
  if k.slotFull at_ then (k.scrNat at_ 4 % 65536 + 65536 - k.scrNat at_ 4 / 65536) % 65536 else k.scrNat at_ 4 % 65536

theorem Core.rearmedArr_lt (k : Core) (at_ : Nat) : k.rearmedArr at_ < 65536 := by
  unfold Core.rearmedArr
  split <;> omega

section Rearm

variable {k : Core} (hbars : k.bars = []) {hdr at_ : Nat} (hat : hdr + 16 ≤ at_) (hsize : at_ + 16 ≤ k.scrSize)
include hbars hat hsize

/-- The numbers that a rearmed slot and its header read as, and every other byte. -/
theorem Core.rearm_spec {e : Option Nat} (he : ∀ n, e = some n → n < 65536) : let k' := k.rearm hdr at_ e
    let e' := e.getD (k.scrNat at_ 4 / 65536)
    let h' := (k.scrNat (hdr + 4) 4 + 65536) % 2 ^ 32
    k'.scrNat at_ 4 = e' * 65536 + k.rearmedArr at_ ∧ k'.scrNat (at_ + 4) 4 = (if e' ≤ k.rearmedArr at_ then 1 else 0)
    ∧ k'.scrNat (hdr + 4) 4 = (if e' ≤ k.rearmedArr at_ then nextWp h' else h')
    ∧ ∀ b, b < k.scrSize → (b < hdr + 4 ∨ (hdr + 8 ≤ b ∧ b < at_) ∨ at_ + 8 ≤ b) → k'.scrByte b = k.scrByte b := by
  have hword := k.scrNat_lt at_ 4
  have he' : e.getD (k.scrNat at_ 4 / 65536) < 65536 := by
    cases e with
    | none => simp only [Option.getD_none]; omega
    | some n => exact he n rfl
  have hlen : ∀ v, (leBytes 4 v).length = 4 := length_leBytes 4
  have hp := scratchOnly_writeScr k (hdr + 4) (leBytes 4 ((k.scrNat (hdr + 4) 4 + 65536) % 2 ^ 32))
  have hhead : (k.writeScr (hdr + 4) (leBytes 4 ((k.scrNat (hdr + 4) 4 + 65536) % 2 ^ 32))).scrNat (hdr + 4) 4
      = (k.scrNat (hdr + 4) 4 + 65536) % 2 ^ 32 := by
    rw [Core.scrNat_writeScr_same hbars (by omega), Nat.mod_eq_of_lt (by omega)]
  obtain ⟨h1, h2, h3, h4⟩ := Core.setSlot_spec (hp.bars.trans hbars) hat (hsize.trans_eq hp.scrSize.symm) he' (k.rearmedArr_lt at_) false
  refine ⟨h1, h2, ?_, fun b hb hd => ?_⟩
  · simp only [hhead, and_true] at h3
    exact h3
  · refine (h4 b (hb.trans_eq hp.scrSize.symm) hd).trans ?_
    rw [Core.scrByte_writeScr hbars (by rw [hlen]; omega) hb, if_neg (by rw [hlen]; omega)]

end Rearm

/-- A RELS of either form, once its issuer's accesses are performed. -/
theorem State.release_of_inl {s : State} {x : Issue} {f : FmtY} {at_ : Nat} (hs : s.sound = true)
    (hn : s.nameSlot x ((s.rfOf x).read1 f.a x.low) ((s.rfOf x).read1 f.b x.low + f.imm12.setWidth 32).toNat = .inl at_)
    (hb : s.busyBefore x = false) (e : Option Nat) :
    s.release x f e = .done (s.modCore x.core fun k => k.rearm (fieldN ((s.rfOf x).read1 f.a x.low) 0 24) at_ e) := by
  simp only [State.release, State.meetRing_sound hs, hn, hb, Bool.false_eq_true, if_false]

/-- Settles O28: the instruction is its rearming, and a rearmed slot's halves are read off the words written. -/
theorem slotRearm : Obligations.SlotRearm := by
  refine ⟨fun s f i at_ hi => ?instruction, fun k hdr at_ e hbars hat hsize he => ?slot⟩
  case instruction =>
    intro x a hr hn hb
    have hrel := State.release_of_inl (State.readyFor_sound hr) hn hb
    obtain rfl | rfl := hi
    · rw [if_pos rfl]
      exact State.issueOnce_done hr (hrel _)
    · rw [if_neg (by simp)]
      exact State.issueOnce_done hr (hrel _)
  case slot =>
    intro EXP ARR FULL RP WP k'
    obtain ⟨hword, hfull, hhead, hbyte⟩ := Core.rearm_spec hbars hat hsize he
    have hlt := k.scrNat_lt at_ 4
    have hlt' := k.scrNat_lt (hdr + 4) 4
    have harr := k.rearmedArr_lt at_
    have hE : EXP k' = e.getD (EXP k) := by simp only [EXP, k', hword]; omega
    have hA : ARR k' = k.rearmedArr at_ := by simp only [ARR, k', hword]; omega
    have hF : FULL k' = if EXP k' ≤ ARR k' then 1 else 0 := by
      simp only [FULL, hE, hA]
      rw [hfull]
      split <;> rfl
    have hP : RP k' = (RP k + 1) % 65536 ∧ WP k' = (WP k + FULL k') % 65536 := by
      rw [hF, hE, hA]
      simp only [RP, WP, EXP, k', hhead]
      split
      · simp only [nextWp]; omega
      · omega
    refine ⟨fun h1 hle => ?_, fun h0 => ?_, hE, hP.1, hF, hP.2, hbyte⟩
    · rw [hA, Core.rearmedArr, Core.slotFull_eq, if_pos (by simpa using h1)]
      simp only [EXP, ARR] at hle ⊢
      omega
    · rw [hA, Core.rearmedArr, Core.slotFull_eq, if_neg (by simp only [FULL] at h0; simp [h0])]

end Sys2Proof.Machine
end

section
/-!
PROOFS. Rings as instructions use them (R63, R316, R317, R319): what RINGINIT lays out, and when AWAITF and YIELDC go on or park.
-/

namespace Sys2Proof.Machine

/-! ## The layout (R316) -/

/-- The 16 bytes of a slot's status as RINGINIT lays them. -/
def freshStatus (e : Nat) : List Byte := leBytes 4 (e * 65536) ++ leBytes 4 (if e = 0 then 1 else 0) ++ leBytes 8 0

@[simp] theorem length_freshStatus (e : Nat) : (freshStatus e).length = 16 := by simp [freshStatus]

/-- One slot laid: full, and its waiters woken, when it expects nothing. -/
def Core.laySlot (k : Core) (at_ e : Nat) : Core :=
  if e = 0 then (k.writeScr at_ (freshStatus e)).wakeSlot at_ else k.writeScr at_ (freshStatus e)

/-- The header of a ring laid. -/
def Core.layHeader (k : Core) (ring slots sz e : Nat) : Core :=
  k.writeScr ring (leBytes 4 (sz * 256 + (slots - 1)) ++ leBytes 4 (if e = 0 then slots else 0) ++ leBytes 8 0)

theorem Core.layRing_eq (k : Core) (ring slots sz e : Nat) :
    k.layRing ring slots sz e = (List.range slots).foldl (fun k n => k.laySlot (ringSlot ring sz n) e) (k.layHeader ring slots sz e) := by
  simp only [Core.layRing, Core.laySlot, Core.layHeader, freshStatus, beq_iff_eq]

/-- A slot laid reads as its status, and numbers beside it as they were. -/
theorem Core.laySlot_spec {k : Core} (hbars : k.bars = []) {at_ : Nat} (e : Nat) (hsize : at_ + 16 ≤ k.scrSize) :
    (k.laySlot at_ e).bars = [] ∧ (k.laySlot at_ e).scrSize = k.scrSize
    ∧ (k.laySlot at_ e).scrNat at_ 4 = e * 65536 % 2 ^ 32 ∧ (k.laySlot at_ e).scrNat (at_ + 4) 4 = (if e = 0 then 1 else 0)
    ∧ ∀ a n, a + n ≤ k.scrSize → (a + n ≤ at_ ∨ at_ + 16 ≤ a) → (k.laySlot at_ e).scrNat a n = k.scrNat a n := by
  have hw : (k.writeScr at_ (freshStatus e)).bars = [] ∧ (k.writeScr at_ (freshStatus e)).scrSize = k.scrSize
      ∧ (k.writeScr at_ (freshStatus e)).scrNat at_ 4 = e * 65536 % 2 ^ 32
      ∧ (k.writeScr at_ (freshStatus e)).scrNat (at_ + 4) 4 = (if e = 0 then 1 else 0)
      ∧ ∀ a n, a + n ≤ k.scrSize → (a + n ≤ at_ ∨ at_ + 16 ≤ a) → (k.writeScr at_ (freshStatus e)).scrNat a n = k.scrNat a n := by
    refine ⟨by simpa, by simp, ?_, ?_, fun a n ha hd => ?_⟩
    · exact Core.scrNat_writeScr_part (n := 4) (v := e * 65536) (pre := []) (post := leBytes 4 (if e = 0 then 1 else 0) ++ leBytes 8 0) hbars
        (by simp [freshStatus]) rfl (by simpa)
    · exact (Core.scrNat_writeScr_part (n := 4) (v := if e = 0 then 1 else 0) (pre := leBytes 4 (e * 65536)) (post := leBytes 8 0) hbars rfl
        (by simp) (by simpa)).trans (Nat.mod_eq_of_lt (by split <;> omega))
    · exact Core.scrNat_writeScr_other hbars (by simpa) ha (by simpa)
  by_cases h0 : e = 0
  · simp only [Core.laySlot, if_pos h0, Core.bars_wakeSlot, Core.scrSize_wakeSlot, Core.scrNat_wakeSlot]
    rwa [if_pos h0] at hw
  · rwa [Core.laySlot, if_neg h0]

/-- Slots of a ring lie one behind the other, behind its header. -/
theorem ringSlot_lt {m n : Nat} (ring sz : Nat) (h : m < n) : ringSlot ring sz m + 16 ≤ ringSlot ring sz n := by
  have := Nat.mul_le_mul_right (16 + 16 * sz) (show m + 1 ≤ n from h)
  rw [Nat.add_mul] at this
  simp only [ringSlot]
  omega

theorem ringSlot_header (ring sz n : Nat) : ring + 16 ≤ ringSlot ring sz n := by
  simp only [ringSlot]
  omega

/-- The slots of a ring lie within its extent. -/
theorem ringSlot_extent {n slots : Nat} (ring sz : Nat) (h : n < slots) : ringSlot ring sz n + 16 ≤ ring + ringBytes slots sz := by
  have := Nat.mul_le_mul_right (16 + 16 * sz) (show n + 1 ≤ slots from h)
  rw [Nat.add_mul] at this
  simp only [ringSlot, ringBytes]
  omega

/-- The first `m` slots laid, one after the other: each reads as its status, and numbers of the header as they were. -/
theorem Core.laySlots_spec {k : Core} (hbars : k.bars = []) {ring sz e : Nat} (m : Nat)
    (hsize : ∀ n, n < m → ringSlot ring sz n + 16 ≤ k.scrSize) :
    let k' := (List.range m).foldl (fun k n => k.laySlot (ringSlot ring sz n) e) k
    k'.bars = [] ∧ k'.scrSize = k.scrSize
    ∧ (∀ n, n < m → k'.scrNat (ringSlot ring sz n) 4 = e * 65536 % 2 ^ 32 ∧ k'.scrNat (ringSlot ring sz n + 4) 4 = (if e = 0 then 1 else 0))
    ∧ ∀ a n, a + n ≤ k.scrSize → a + n ≤ ring + 16 → k'.scrNat a n = k.scrNat a n := by
  induction m with
  | zero => exact ⟨hbars, rfl, fun n hn => absurd hn (Nat.not_lt_zero n), fun _ _ _ _ => rfl⟩
  | succ m ih =>
    obtain ⟨hb, hz, hslots, hhead⟩ := ih fun n hn => hsize n (by omega)
    simp only [List.range_succ, List.foldl_append, List.foldl_cons, List.foldl_nil]
    generalize (List.range m).foldl (fun k n => k.laySlot (ringSlot ring sz n) e) k = p at hb hz hslots hhead ⊢
    have hm := hsize m (by omega)
    obtain ⟨hb', hz', hword, hfull, hother⟩ := Core.laySlot_spec hb e (at_ := ringSlot ring sz m) (by omega)
    refine ⟨hb', hz'.trans hz, fun n hn => ?_, fun a n ha hd => ?_⟩
    · obtain hlt | rfl := Nat.lt_succ_iff_lt_or_eq.1 hn
      · have hbefore := ringSlot_lt ring sz hlt
        rw [hother _ _ (by omega) (by omega), hother _ _ (by omega) (by omega)]
        exact hslots n hlt
      · exact ⟨hword, hfull⟩
    · have hbehind := ringSlot_header ring sz m
      rw [hother _ _ (by omega) (by omega), hhead a n ha hd]

/-- The numbers of a ring laid out. -/
theorem Core.layRing_spec {k : Core} (hbars : k.bars = []) {ring slots sz e : Nat} (hpos : 0 < slots) (hslots : slots ≤ 256) (hsz : sz < 4096)
    (he : e < 65536) (hsize : ring + ringBytes slots sz ≤ k.scrSize) : let k' := k.layRing ring slots sz e
    k'.scrNat ring 4 = sz * 256 + (slots - 1) ∧ k'.scrNat (ring + 4) 4 = (if e = 0 then slots else 0)
    ∧ ∀ n, n < slots → k'.scrNat (ringSlot ring sz n) 4 = e * 65536 ∧ k'.scrNat (ringSlot ring sz n + 4) 4 = if e = 0 then 1 else 0 := by
  have hext := ringSlot_extent ring sz hpos
  have hfirst := ringSlot_header ring sz 0
  have hlen : (leBytes 4 (sz * 256 + (slots - 1)) ++ leBytes 4 (if e = 0 then slots else 0) ++ leBytes 8 0).length = 16 := by simp
  have hz : (k.layHeader ring slots sz e).scrSize = k.scrSize := k.writeScr_scrSize _ _
  have hwords : (k.layHeader ring slots sz e).scrNat ring 4 = sz * 256 + (slots - 1)
      ∧ (k.layHeader ring slots sz e).scrNat (ring + 4) 4 = if e = 0 then slots else 0 := by
    constructor
    · refine (Core.scrNat_writeScr_part (v := sz * 256 + (slots - 1)) (pre := [])
        (post := leBytes 4 (if e = 0 then slots else 0) ++ leBytes 8 0) hbars (by simp) rfl (by omega)).trans (Nat.mod_eq_of_lt (by omega))
    · refine (Core.scrNat_writeScr_part (v := if e = 0 then slots else 0) (pre := leBytes 4 (sz * 256 + (slots - 1))) (post := leBytes 8 0) hbars rfl
        (by simp) (by omega)).trans (Nat.mod_eq_of_lt (by split <;> omega))
  obtain ⟨-, -, hlaid, hhead⟩ := Core.laySlots_spec (k := k.layHeader ring slots sz e) (ring := ring) (sz := sz) (e := e)
    ((k.writeScr_bars _ _).trans hbars) slots fun n hn => by
      have := ringSlot_extent ring sz hn
      omega
  rw [Core.layRing_eq]
  refine ⟨?_, ?_, fun n hn => ?_⟩
  · rw [hhead _ _ (by omega) (by omega), hwords.1]
  · rw [hhead _ _ (by omega) (by omega), hwords.2]
  · obtain ⟨hword, hfull⟩ := hlaid n hn
    exact ⟨by rw [hword, Nat.mod_eq_of_lt (by omega)], hfull⟩

/-! ## The wait for a slot (R317, R319) -/

section Await

variable {s : State} {x : Issue} {f : FmtY} {n at_ : Nat} {sls : List Nat} {p : Park} {next rest : List (Nat × DWord)}

/-- An issuer that does not re-enter a park: it goes on where the slot is full, and parks where it is not. -/
theorem State.awaitSlot_first (hs : s.sound = true) (ha : x.again = false) (hn : s.nameSlot x ((s.rfOf x).read1 f.a x.low) n = .inl at_) :
    s.awaitSlot x f n sls p next rest = if (s.core x.core).slotFull at_ = true then .go (s.putOnce x 1 f.d (BitVec.ofNat 64 (at_ + 16))) next
      else .go (s.parkOnSlot x sls p f.d at_) rest := by
  have hp : s.parkedOn x = none := by rw [State.parkedOn, ha]; rfl
  simp only [State.awaitSlot, hp, State.meetRing_sound hs, hn, ha, Bool.false_and, Bool.false_eq_true, if_false]

/-- Slices whose slot has filled since they parked go on, and D is pending no more (R65). -/
theorem State.awaitSlot_filled (hx : x.slices ≠ []) (hp : s.parkedOn x = some (at_, true)) : s.awaitSlot x f n sls p next rest =
    .go ((s.putOnce x 1 f.d (BitVec.ofNat 64 (at_ + 16))).modWarp x.core x.warp fun w => w.mark f.d 1 sls false) next := by
  have ha : x.again = true := by
    cases h : x.again with
    | true => rfl
    | false => rw [State.parkedOn, h] at hp; cases hp
  simp only [State.awaitSlot, hp, ha, List.isEmpty_eq_false_iff.2 hx, Bool.true_or, Bool.not_false, Bool.and_self, if_true]

end Await

/-- Settles O27: RINGINIT is the layout, whose words are read off one by one; AWAITF and YIELDC are the wait for their slot. -/
theorem ringsComplete : Obligations.RingsComplete := by
  refine ⟨fun s f => ?ringinit, fun k ring slots sz e hbars hpos hslots hsz he hsize => ?layout, fun s f at_ full => ?awaitf,
    fun s c w j f at_ full => ?yieldc, fun s f at_ => ?filled⟩
  case ringinit =>
    intro x a b hr hf hb hh
    refine State.issueOnce_done hr ?_
    simp only [x, a, b] at hf hb hh ⊢
    simp only [hf, hb, hh, Bool.or_self, Bool.false_eq_true, if_false]
  case layout =>
    intro k'
    obtain ⟨hword, hcount, hlaid⟩ := Core.layRing_spec hbars hpos hslots hsz he hsize
    refine ⟨?_, ?_, hcount, fun n hn => ?_⟩
    · rw [Core.ringSlots, hword]; omega
    · rw [Core.ringSz, hword]; omega
    · obtain ⟨hstatus, hfull⟩ := hlaid n hn
      refine ⟨hstatus, ?_⟩
      rw [Core.slotFull, hfull]
      by_cases h0 : e = 0 <;> simp [h0]
  case awaitf =>
    intro x hr ha hn hfull
    have hwait := fun next rest =>
      State.awaitSlot_first (sls := actingSlices x.acting x.slices) (p := .awaitf) (next := next) (rest := rest) (State.readyFor_sound hr) ha hn
    cases full
    · exact State.issueOnce_go hr ((hwait _ _).trans (if_neg (by simp [hfull])))
    · rw [if_pos rfl]
      refine State.issueOnce_go hr ((hwait _ _).trans ((if_pos hfull).trans ?_))
      simp only [List.isEmpty_iff, x]
  case yieldc =>
    intro x hr hacts ha hn hfull
    obtain ⟨hready, hissue, hgoes⟩ := State.readyFor_gang hr hacts
    have hwait := fun next rest =>
      State.awaitSlot_first (sls := x.slices) (p := .yieldc) (next := next) (rest := rest) (State.readyFor_sound hready) ha hn
    simp only [← hgoes]
    cases full
    · refine State.issueOnce_go hready ?_
      rw [hissue]
      exact (hwait _ _).trans (if_neg (by simp [x, State.gangIssue_core, hfull]))
    · rw [if_pos rfl]
      refine State.issueOnce_go hready ?_
      rw [hissue]
      exact (hwait _ _).trans (if_pos hfull)
  case filled =>
    intro x hr hx hp
    refine State.issueOnce_go hr ((State.awaitSlot_filled hx hp).trans ?_)
    rw [if_neg (by simpa using hx)]

end Sys2Proof.Machine
end

section
/-!
PROOFS. XQUERY of a card: the clause of the card statement that fails, and the core on which it does.
-/

namespace Sys2Proof.Machine

/-- A core whose copy stream of block 0 runs, with a card of four units listed at index 0 and no copy in flight. A card has at most three
units (R54, R55), so that no run of the device lists one. -/
def fourUnitCore : Core := { Core.reset with
  blocks := [(0, { Block.absent with cp := { Seq.idle with st := .running } })], cardAt := [(0, 4)] }

/-- The device with that core, whose copy stream is current, its context running. -/
def fourUnits : State := { State.reset with
  cur := .seq 0 0 true, cores := [(0, fourUnitCore)], ctxs := [(0, { Ctx.none with st := .running })] }

/-- XQUERY of index 0 under the guard pt. -/
def queryFirst : FmtY := ⟨7, 0xFF, 0xFF, 0xFF, 0x40, 0, 0⟩

theorem fourUnits_ready : fourUnits.readyFor (.xquery queryFirst) = true := by decide

/-- The count of units, from bit 28 on, carries into bit 30. -/
theorem fourUnitCore_query : fourUnitCore.query 0x40 = some 0xC0000000 := by decide

/-- Refutes O26: its clause of a card's selector gives the meaning of bit 30 for every count of units listed at the index, also for one above
three. On `fourUnits` bit 30 is set, and no copy is in flight. -/
theorem not_cardsComplete : ¬ Obligations.CardsComplete := by
  unfold Obligations.CardsComplete
  rintro ⟨-, hquery, -⟩
  obtain ⟨-, -, -, hcard⟩ := hquery fourUnits queryFirst 0xC0000000 fourUnits_ready fourUnitCore_query
  obtain ⟨hused, -⟩ := hcard (by decide)
  obtain ⟨r, hr, -⟩ := hused.1 (by decide)
  exact absurd hr List.not_mem_nil

end Sys2Proof.Machine
end

section
/-!
PROOFS. The elements of a chunk moved (R56, R58, R61, R72): the bits that a masked write of the scratchpad changes, and what moving elements and
clearing the poison of what they cover leaves alone.
-/

namespace Sys2Proof.Machine

/-! ## Bits of numbers -/

/-- The bits of a little-endian number are those of its bytes. -/
theorem testBit_leNat (l : List Byte) (i : Nat) : (leNat l).testBit i = bitAt (l.getD (i / 8) 0) (i % 8) := by
  induction l generalizing i with
  | nil => simp [leNat, bitAt]
  | cons b l ih =>
    rw [leNat, Nat.add_comm, show 256 * leNat l = 2 ^ 8 * leNat l from rfl, Nat.testBit_two_pow_mul_add _ b.isLt]
    split
    · next h => rw [Nat.div_eq_of_lt h, Nat.mod_eq_of_lt h]; rfl
    · next h => rw [ih, show i / 8 = (i - 8) / 8 + 1 by omega, List.getD_cons_succ, show i % 8 = (i - 8) % 8 by omega]

theorem bitAt_ofNat_div (v i t : Nat) (ht : t < 8) : bitAt (BitVec.ofNat 8 (v / 256 ^ i)) t = v.testBit (8 * i + t) := by
  rw [bitAt, BitVec.getLsbD_ofNat, show 256 ^ i = 2 ^ (8 * i) by rw [Nat.pow_mul], Nat.testBit_div_two_pow]
  simp [ht, Nat.add_comm]

/-- `n` bits of a number from `bit` on replaced. -/
def spliceBits (old bit n v : Nat) : Nat := old - old / 2 ^ bit % 2 ^ n * 2 ^ bit + v % 2 ^ n * 2 ^ bit

/-- The number as its bits above, the bits replaced, and its bits below. -/
theorem spliceBits_eq (old bit n v : Nat) : spliceBits old bit n v = 2 ^ bit * (2 ^ n * (old / 2 ^ bit / 2 ^ n) + v % 2 ^ n) + old % 2 ^ bit := by
  have h1 := Nat.div_add_mod old (2 ^ bit)
  have h2 := Nat.div_add_mod (old / 2 ^ bit) (2 ^ n)
  have h3 : old = 2 ^ bit * (2 ^ n * (old / 2 ^ bit / 2 ^ n)) + 2 ^ bit * (old / 2 ^ bit % 2 ^ n) + old % 2 ^ bit := by rw [← Nat.mul_add, h2, h1]
  rw [spliceBits, Nat.mul_comm _ (2 ^ bit), Nat.mul_comm _ (2 ^ bit), Nat.mul_add]
  omega

theorem testBit_spliceBits (old bit n v i : Nat) :
    (spliceBits old bit n v).testBit i = if bit ≤ i ∧ i < bit + n then v.testBit (i - bit) else old.testBit i := by
  have hlow := Nat.mod_lt old (Nat.two_pow_pos bit)
  have hmid := Nat.mod_lt v (Nat.two_pow_pos n)
  rw [spliceBits_eq, Nat.testBit_two_pow_mul_add _ hlow]
  by_cases h : i < bit
  · rw [if_pos h, if_neg (by omega), Nat.testBit_mod_two_pow, decide_eq_true h, Bool.true_and]
  · rw [if_neg h, Nat.testBit_two_pow_mul_add _ hmid]
    by_cases hn : i - bit < n
    · rw [if_pos hn, if_pos (by omega), Nat.testBit_mod_two_pow, decide_eq_true hn, Bool.true_and]
    · rw [if_neg hn, if_neg (by omega), Nat.testBit_div_two_pow, Nat.testBit_div_two_pow]
      congr 1
      omega

/-- Bits of the scratchpad written with a mask: they alone change (R58). -/
theorem Core.bitAt_writeScr_spliceBits {k : Core} (hbars : k.bars = []) {a bit n v b : Nat} (hsize : a + bitBytes bit n ≤ k.scrSize)
    (hb : b < 8 * k.scrSize) :
    bitAt ((k.writeScr a (leBytes (bitBytes bit n) (spliceBits (k.scrNat a (bitBytes bit n)) bit n v))).scrByte (b / 8)) (b % 8) =
      if 8 * a + bit ≤ b ∧ b < 8 * a + bit + n then v.testBit (b - (8 * a + bit)) else bitAt (k.scrByte (b / 8)) (b % 8) := by
  have hbits : bit + n ≤ 8 * bitBytes bit n := by simp only [bitBytes]; omega
  rw [Core.scrByte_writeScr hbars (by simpa) (by omega), length_leBytes]
  by_cases hin : a ≤ b / 8 ∧ b / 8 < a + bitBytes bit n
  · have hold : (k.scrNat a (bitBytes bit n)).testBit (b - 8 * a) = bitAt (k.scrByte (b / 8)) (b % 8) := by
      rw [Core.scrNat, testBit_leNat, Core.readScr, List.getD_eq_getElem _ _ (by simp; omega), List.getElem_map, List.getElem_range,
        show a + (b - 8 * a) / 8 = b / 8 by omega, show (b - 8 * a) % 8 = b % 8 by omega]
    rw [if_pos hin, getD_leBytes _ (by omega), bitAt_ofNat_div _ _ _ (by omega), show 8 * (b / 8 - a) + b % 8 = b - 8 * a by omega,
      testBit_spliceBits, hold, show b - 8 * a - bit = b - (8 * a + bit) by omega]
    simp only [show (bit ≤ b - 8 * a ∧ b - 8 * a < bit + n) ↔ (8 * a + bit ≤ b ∧ b < 8 * a + bit + n) by omega]
  · rw [if_neg hin, if_neg (by omega)]

theorem State.core_putBits {s : State} {h : Home} (hl : h.loc = 3) (bit n v : Nat) : (s.putBits h bit n v).core h.core =
    (s.core h.core).writeScr h.addr (leBytes (bitBytes bit n) (spliceBits ((s.core h.core).scrNat h.addr (bitBytes bit n)) bit n v)) := by
  simp only [State.putBits, State.homeWrite, State.homeNat, hl, if_true, State.core_modCore_self, spliceBits]

/-! ## What moving elements leaves alone -/

/-- No request has been sent or performed, and of the cores the scratchpads alone have changed. -/
def onlyScratch (s t : State) : Prop := t.fab.reqs = s.fab.reqs ∧ ∀ c, scratchOnly (s.core c) (t.core c)

theorem onlyScratch.refl (s : State) : onlyScratch s s := ⟨rfl, fun _ => .refl _⟩

theorem onlyScratch.trans {s t u : State} (h : onlyScratch s t) (h' : onlyScratch t u) : onlyScratch s u :=
  ⟨h'.1.trans h.1, fun c => (h.2 c).trans (h'.2 c)⟩

theorem onlyScratch_of_cores {s t : State} (hf : t.fab.reqs = s.fab.reqs) (hc : t.cores = s.cores) : onlyScratch s t :=
  ⟨hf, fun c => by rw [show t.core c = s.core c by simp only [State.core, hc]]; exact .refl _⟩

theorem onlyScratch_modCore (s : State) (c : Nat) {f : Core → Core} (hf : ∀ k, scratchOnly k (f k)) : onlyScratch s (s.modCore c f) := by
  refine ⟨rfl, fun d => ?_⟩
  rw [State.core_modCore]
  split
  · next h => rw [h]; exact hf _
  · exact .refl _

theorem onlyScratch_foldl {β : Type} (l : List β) (f : State → β → State) (h : ∀ s x, onlyScratch s (f s x)) (s : State) :
    onlyScratch s (l.foldl f s) := by
  induction l generalizing s with
  | nil => exact .refl s
  | cons x l ih => exact (h s x).trans (ih _)

theorem onlyScratch_storeGlobal (s : State) (loc a : Nat) (bs : List Byte) : onlyScratch s (s.storeGlobal loc a bs) := by
  refine onlyScratch_of_cores ?_ ?_
  all_goals
    simp only [State.storeGlobal, State.writeHid]
    split
    · simp only [State.gcmWrote_fab, State.gcmWrote_cores]
      split <;> rfl
    · simp

theorem onlyScratch_putBits (s : State) (h : Home) (bit n v : Nat) : onlyScratch s (s.putBits h bit n v) := by
  simp only [State.putBits, State.homeWrite]
  split
  · exact onlyScratch_modCore s _ fun k => scratchOnly_writeScr k _ _
  · exact onlyScratch_storeGlobal s _ _ _

theorem onlyScratch_poisonAt (s : State) (h : Home) : onlyScratch s (s.poisonAt h) := by
  unfold State.poisonAt
  split
  · exact onlyScratch_modCore s _ fun k => scratchOnly_poisonScr k _
  · exact onlyScratch_of_cores (by simp) (by simp)

theorem State.mirrorPut_reqs (s : State) (id : Nat) (makers : List (Nat × BitVec 8)) (h : Home) (bs : List Byte) :
    (s.mirrorPut id makers h bs).fab.reqs = s.fab.reqs := by
  unfold State.mirrorPut
  dsimp only
  split
  · split <;> rfl
  · rfl

theorem onlyScratch_copyMirror (s : State) (h : Home) (len : Nat) (leaf : DWord) : onlyScratch s (s.copyMirror h len leaf) := by
  unfold State.copyMirror
  split
  · exact onlyScratch_of_cores (State.mirrorPut_reqs _ _ _ _ _) (State.mirrorPut_cores _ _ _ _ _)
  · exact .refl s

theorem onlyScratch_copyLine (s : State) (r : CopyRec) (leaf : DWord) (pa : Nat) : onlyScratch s (s.copyLine r leaf pa) := by
  simp only [State.copyLine]
  split
  · exact onlyScratch_of_cores rfl rfl
  · exact onlyScratch_of_cores rfl rfl

theorem onlyScratch_moveElem (s : State) (c : Nat) (r : CopyRec) (out : PeerBits) (e : Elem) : onlyScratch s (s.moveElem c r out e).1 := by
  simp only [State.moveElem]
  split
  · next hs bs _ hd bd leaf _ _ =>
    have hread : onlyScratch s (s.denyRead hs.loc hs.addr (bitBytes bs (cardW r.card))) := onlyScratch_of_cores (by simp) (by simp)
    split
    · exact hread
    · generalize s.denyRead hs.loc hs.addr (bitBytes bs (cardW r.card)) = t at hread ⊢
      generalize hp : t.putBits hd bd _ _ = p
      have hput : onlyScratch s p := hread.trans (hp ▸ onlyScratch_putBits t hd bd _ _)
      have hpois : onlyScratch s (if (s.source r hs bs).2 then p.poisonAt hd else p) := by
        split
        · exact hput.trans (onlyScratch_poisonAt _ _)
        · exact hput
      have hmirror := hpois.trans (onlyScratch_copyMirror _ hd (bitBytes bd (if e.pad = true then cardW r.card + padBits (cardW r.card) else cardW r.card)) leaf)
      split
      · exact hmirror.trans (onlyScratch_copyLine _ _ _ _)
      · exact hmirror
  · exact .refl s

theorem onlyScratch_moveElems (s : State) (c : Nat) (r : CopyRec) (es : List Elem) : onlyScratch s (s.moveElems c r es).1 := by
  have hfold : ∀ a : State × PeerBits × List (Nat × Nat), onlyScratch a.1 (es.foldl (fun a e =>
      let m := a.1.moveElem c r a.2.1 e
      (m.1, m.2, (a.1.elemPoison c r e).toList ++ a.2.2)) a).1 := by
    induction es with
    | nil => exact fun a => .refl a.1
    | cons e es ih => exact fun a => (onlyScratch_moveElem _ _ _ _ _).trans (ih _)
  exact hfold (s, [], [])

/-- What clearing poison changes of a core is its scratchpad's poison alone. -/
theorem State.clearCovered_keeps (s : State) (c : Nat) (r : CopyRec) (es : List Elem) (bad : List (Nat × Nat)) :
    onlyScratch s (s.clearCovered c r es bad) ∧ ((s.clearCovered c r es bad).core c).scr = (s.core c).scr := by
  unfold State.clearCovered
  dsimp only
  refine ⟨onlyScratch_foldl _ _ (fun t p => ?_) s, State.foldl_keeps (fun t => (t.core c).scr) _ _ (fun t p => ?_) s⟩
  · repeat' split
    · exact .refl t
    · exact onlyScratch_modCore t _ fun k => ⟨_, _, _, _, _, rfl⟩
    · exact .refl t
    · exact onlyScratch_of_cores rfl rfl
  · repeat' split
    · rfl
    · rw [State.core_modCore_self]
    · rfl
    · rfl

theorem onlyScratch_moves (s : State) (rcb loc : Nat) : onlyScratch s (s.moves rcb loc) := by
  obtain ⟨rs, e⟩ := s.moves_eq rcb loc
  rw [e]
  exact onlyScratch_of_cores rfl rfl

end Sys2Proof.Machine
end

section
/-!
PROOFS. A chunk of a copy (R56, R61, R72): the writes that go over a link, and the state in which its event leaves the device.
-/

namespace Sys2Proof.Machine

/-! ## The writes sent -/

/-- What a request asks of its home. -/
def Req.payload (q : Req) : ReqKind × Home × BitVec 128 × BitVec 128 := (q.kind, q.home, q.data, q.mask)

/-- A request that goes out on its port asks what it asked. -/
theorem Fab.payloads_sentOn (f : Fab) (id p : Nat) : (f.sentOn id p).reqs.map Req.payload = f.reqs.map Req.payload := by
  simp only [Fab.sentOn, List.map_map]
  refine List.map_congr_left fun q _ => ?_
  simp only [Function.comp_apply]
  split <;> rfl

theorem State.transmit_keeps (s : State) (q : Req) :
    (s.transmit q).cores = s.cores ∧ (s.transmit q).fab.reqs.map Req.payload = s.fab.reqs.map Req.payload := by
  unfold State.transmit
  split
  · exact ⟨rfl, rfl⟩
  split
  · cases s.hostPort with
    | none => exact ⟨rfl, rfl⟩
    | some p => exact ⟨rfl, s.fab.payloads_sentOn q.id p⟩
  · cases s.routePort (q.home.addr / 2 ^ 40) with
    | none => exact ⟨rfl, rfl⟩
    | some p => exact ⟨rfl, s.fab.payloads_sentOn q.id p⟩

/-- A request of a copy is the last one on its way. -/
theorem State.sendCopy_keeps (s : State) (q : Req) :
    (s.sendCopy q).cores = s.cores ∧ (s.sendCopy q).fab.reqs.map Req.payload = s.fab.reqs.map Req.payload ++ [q.payload] := by
  unfold State.sendCopy
  dsimp only
  split
  · obtain ⟨hc, hr⟩ := State.transmit_keeps _ _
    refine ⟨hc, hr.trans ?_⟩
    rw [List.map_append]; rfl
  · exact ⟨rfl, by rw [List.map_append]; rfl⟩

/-- What the write of a remote granule asks: all of it, or the bits of its mask (R58). -/
def PeerBits.ask (p : (Nat × Nat) × DWord × BitVec 128 × BitVec 128 × Bool) : ReqKind × Home × BitVec 128 × BitVec 128 :=
  (.store, ⟨p.1.1, 0, 16 * p.1.2⟩, p.2.2.2.1, if p.2.2.1 = BitVec.allOnes 128 then 0 else p.2.2.1)

theorem State.tellPeer_keeps (s : State) (c : Nat) (r : CopyRec) (out : PeerBits) :
    (s.tellPeer c r out).cores = s.cores ∧ (s.tellPeer c r out).fab.reqs.map Req.payload = s.fab.reqs.map Req.payload ++ out.map PeerBits.ask := by
  unfold State.tellPeer
  induction out generalizing s with
  | nil => exact ⟨rfl, by simp⟩
  | cons p out ih =>
    obtain ⟨hc, hr⟩ := s.sendCopy_keeps (r.request c .store p.1 p.2.1 p.2.2.2.1 p.2.2.1 p.2.2.2.2)
    obtain ⟨hc', hr'⟩ := ih (s.sendCopy (r.request c .store p.1 p.2.1 p.2.2.2.1 p.2.2.1 p.2.2.2.2))
    refine ⟨hc'.trans hc, hr'.trans ?_⟩
    rw [hr, List.append_assoc]
    rfl

/-! ## The end of a chunk -/

/-- A copy that has completed leaves the job window, and nothing else. -/
theorem State.copyDone_keeps (s : State) (c id : Nat) : (s.copyDone c id).mem = s.mem ∧ (s.copyDone c id).fab = s.fab
    ∧ ∀ d, ∃ win, (s.copyDone c id).core d = { s.core d with window := win } := by
  unfold State.copyDone
  split
  · refine ⟨rfl, rfl, fun d => ?_⟩
    rw [State.core_modCore]
    split
    · next h => rw [h]; exact ⟨_, rfl⟩
    · exact ⟨_, rfl⟩
  · exact ⟨rfl, rfl, fun d => ⟨_, rfl⟩⟩

/-- The state in which the elements of a chunk are moved: the bytes of an access of local memory count (R201). -/
def State.chunkStart (s : State) (r : CopyRec) : State := if cardSsp r.card && cardDsp r.card then s else s.moves (s.ctx r.ctx).rcb 0

theorem onlyScratch_chunkStart (s : State) (r : CopyRec) : onlyScratch s (s.chunkStart r) := by
  unfold State.chunkStart
  split
  · exact .refl s
  · exact onlyScratch_moves _ _ _

/-- The copy after its chunk. -/
def CopyRec.chunked (r : CopyRec) (es : List Elem) (q : CopyRec) : CopyRec :=
  { q with chunks := q.chunks + 1, pos := q.pos + es.length, fin := decide (cardCount r.card ≤ r.pos + es.length), got := [] }

/-- The state in which a chunk ends whose elements, moved, have left the device in `u` with the bits `out` to be written over a link. -/
def State.endChunk (u : State) (c job : Nat) (r : CopyRec) (es : List Elem) (out : PeerBits) : State :=
  let t := ((u.modCore c fun k => k.clearWalkFaults (.engine c)).tellPeer c r out).modCore c fun k => k.modCopy job (r.chunked es)
  if decide (cardCount r.card ≤ r.pos + es.length) then t.copyDone c job else t

/-- The end of a chunk counts it, leaves the job window where the copy has completed, and sends its remote writes. -/
theorem State.endChunk_keeps (u : State) (c job : Nat) (r : CopyRec) (es : List Elem) (out : PeerBits) :
    (u.endChunk c job r es out).mem = u.mem
    ∧ (u.endChunk c job r es out).fab.reqs.map Req.payload = u.fab.reqs.map Req.payload ++ out.map PeerBits.ask
    ∧ (∃ wf win, (u.endChunk c job r es out).core c = { (u.core c).modCopy job (r.chunked es) with wfault := wf, window := win })
    ∧ ∀ d, ((u.endChunk c job r es out).core d).warps = (u.core d).warps ∧ ((u.endChunk c job r es out).core d).blocks = (u.core d).blocks := by
  obtain ⟨hcores, hreqs⟩ := (u.modCore c fun k => k.clearWalkFaults (.engine c)).tellPeer_keeps c r out
  have hmem := (u.modCore c fun k => k.clearWalkFaults (.engine c)).tellPeer_mem c r out
  unfold State.endChunk
  generalize (u.modCore c fun k => k.clearWalkFaults (.engine c)).tellPeer c r out = v at hcores hreqs hmem ⊢
  have hcore : ∀ d, v.core d = (u.modCore c fun k => k.clearWalkFaults (.engine c)).core d := fun d => by simp only [State.core, hcores]
  have hown : (v.modCore c fun k => k.modCopy job (r.chunked es)).core c =
      { (u.core c).modCopy job (r.chunked es) with wfault := (u.core c).wfault.filter fun f => f.who ≠ .engine c } := by
    rw [State.core_modCore_self, hcore, State.core_modCore_self]; rfl
  have hrest : ∀ d, ((v.modCore c fun k => k.modCopy job (r.chunked es)).core d).warps = (u.core d).warps
      ∧ ((v.modCore c fun k => k.modCopy job (r.chunked es)).core d).blocks = (u.core d).blocks := fun d => by
    rw [State.core_modCore, hcore, hcore, State.core_modCore, State.core_modCore, if_pos rfl]
    split
    · next h => rw [h]; exact ⟨rfl, rfl⟩
    · exact ⟨rfl, rfl⟩
  dsimp only
  split
  · obtain ⟨hm, hf, hd⟩ := (v.modCore c fun k => k.modCopy job (r.chunked es)).copyDone_keeps c job
    refine ⟨hm.trans hmem, by rw [hf]; exact hreqs, ?_, fun d => ?_⟩
    · obtain ⟨win, e⟩ := hd c
      rw [e, hown]
      exact ⟨_, _, rfl⟩
    · obtain ⟨win, e⟩ := hd d
      rw [e]
      exact hrest d
  · exact ⟨hmem, hreqs, ⟨_, _, hown⟩, hrest⟩

/-- A copy changed where it stands is found changed. -/
theorem find?_modCopy {l : List CopyRec} {id : Nat} {r : CopyRec} (f : CopyRec → CopyRec) (hid : ∀ q, (f q).id = q.id)
    (h : l.find? (fun q => q.id = id) = some r) : (l.map fun q => if q.id = id then f q else q).find? (fun q => q.id = id) = some (f r) := by
  have hr : r.id = id := by simpa using List.find?_some h
  have hp : ((fun q : CopyRec => decide (q.id = id)) ∘ fun q => if q.id = id then f q else q) = fun q => decide (q.id = id) := by
    funext q
    simp only [Function.comp_apply]
    split
    · next e => rw [hid, e]
    · rfl
  rw [List.find?_map, hp, h, Option.map_some, if_pos hr]

section Chunk

variable {s : State} {c job : Nat} {r : CopyRec} (hr : (s.core c).copies.find? (fun q => q.id = job) = some r) (hfin : r.fin = false)
  (hcode : r.code = 0) (hrun : (s.ctx r.ctx).runs [.copyEngine c] = true) (hafter : r.after.any s.awaited = false)
  (hedges : (s.core c).edgesDone (.copy job) = true) (hturn : (s.core c).channelTurn r = true) {es : List Elem}
  (hes : r.chunk ((r.elem r.pos).d / 32768) (cardCount r.card - r.pos) r.pos = es) (hwithin : es.all r.within = true)
  (hfault : es.findSome? (s.elemFault c r) = none) (hmiss : es.flatMap (s.elemMisses c r) = []) (hheld : es.any (s.elemHeld c r) = false)
include hr hfin hcode hrun hafter hedges hturn hes hwithin hfault hmiss hheld

/-- A chunk with remote sources sends their reads first. -/
theorem exec_copyChunk_asks (hu : s.unread c r es ≠ []) (hreads : s.copyReads job = false) :
    exec (.copyChunk c job) s = .next (s.askPeer c r (s.unread c r es)) := by
  change execCopyChunk c job s = _
  simp only [execCopyChunk, hr, hfin, hcode, hrun, hafter, hedges, hturn, hes, hwithin, hfault, hmiss, hheld, hreads,
    List.isEmpty_eq_false_iff.2 hu, List.dedup_nil, List.isEmpty_nil, ne_eq, not_true_eq_false, decide_false, Bool.not_true, Bool.not_false,
    Bool.or_self, Bool.false_eq_true, if_false, if_true]

/-- A chunk whose sources are here, in a core whose codewords are right, is moved. -/
theorem exec_copyChunk_moves (hbad : (s.core c).bad = []) (hu : s.unread c r es = []) : let m := (s.chunkStart r).moveElems c r es
    exec (.copyChunk c job) s = .next ((m.1.clearCovered c r es m.2.2).endChunk c job r es m.2.1) := by
  have hmeet : (s.chunkStart r).meetSources c r es = s.chunkStart r := by
    have hb : ((s.chunkStart r).core c).bad = [] := by
      unfold State.chunkStart
      split
      · exact hbad
      · obtain ⟨rs, e⟩ := s.moves_eq (s.ctx r.ctx).rcb 0
        rw [e]; exact hbad
    rw [State.meetSources, if_pos (List.isEmpty_iff.2 hb)]
  change execCopyChunk c job s = _
  simp only [execCopyChunk, hr, hfin, hcode, hrun, hafter, hedges, hturn, hes, hwithin, hfault, hmiss, hheld, hu,
    List.dedup_nil, List.isEmpty_nil, ne_eq, not_true_eq_false, decide_false, Bool.not_true, Bool.or_self, Bool.false_eq_true, if_false]
  rw [← hmeet]
  rfl

/-- The chunk moved, counted and its remote writes sent: in the memory and the scratchpad the elements alone are written. -/
theorem exec_copyChunk_moved (hbad : (s.core c).bad = []) (hu : s.unread c r es = []) : let m := (s.chunkStart r).moveElems c r es
    ∃ t : State, exec (.copyChunk c job) s = .next t ∧ t.mem = (m.1.clearCovered c r es m.2.2).mem ∧ (t.core c).scr = (m.1.core c).scr
      ∧ (t.core c).scrPois = ((m.1.clearCovered c r es m.2.2).core c).scrPois
      ∧ (t.core c).copies.find? (fun q => q.id = job) = some (r.chunked es r)
      ∧ (t.fab.reqs.drop s.fab.reqs.length).map Req.payload = m.2.1.map PeerBits.ask ∧ sameRegs s t := by
  have hexec := exec_copyChunk_moves hr hfin hcode hrun hafter hedges hturn hes hwithin hfault hmiss hheld hbad hu
  have hmoved := (onlyScratch_chunkStart s r).trans (onlyScratch_moveElems (s.chunkStart r) c r es)
  dsimp only at hexec ⊢
  generalize (s.chunkStart r).moveElems c r es = m at hexec hmoved ⊢
  obtain ⟨hclear, hscr⟩ := m.1.clearCovered_keeps c r es m.2.2
  obtain ⟨hreqs, hcores⟩ := hmoved.trans hclear
  obtain ⟨hmem, hsent, ⟨wf, win, hcore⟩, hregs⟩ := (m.1.clearCovered c r es m.2.2).endChunk_keeps c job r es m.2.1
  refine ⟨_, hexec, hmem, ?_, ?_, ?_, ?_, sameRegs_of_cores fun d => ?_⟩
  · rw [hcore]; exact hscr
  · rw [hcore]; rfl
  · rw [hcore]
    simp only [Core.modCopy, (hcores c).copies]
    exact find?_modCopy (r.chunked es) (fun _ => rfl) hr
  · rw [List.map_drop, hsent, hreqs]
    exact List.drop_left' (List.length_map _)
  · obtain ⟨hw, hb⟩ := hregs d
    exact ⟨hw.trans (hcores d).warps, hb.trans (hcores d).blocks⟩

end Chunk

end Sys2Proof.Machine
end

section
/-!
PROOFS. Arrivals on ring slots (R64, R65, R69): what a slot reads as after one, the arrival of a copy and of an LDA16 lane; and a copy as it goes on.
-/

namespace Sys2Proof.Machine

/-! ## An arrival (R64) -/

section Arrive

variable {k : Core} (hbars : k.bars = []) {hdr at_ : Nat} (hat : hdr + 16 ≤ at_) (hsize : at_ + 16 ≤ k.scrSize)
include hbars hat hsize

/-- A slot after an arrival: ARR one more, FULL formed anew, WP counted where the slot fills; and every other byte. -/
theorem Core.arrive_spec : let k' := k.arrive hdr at_
    let e := k.scrNat at_ 4 / 65536
    let arr := min 65535 (k.scrNat at_ 4 % 65536 + 1)
    let h := k.scrNat (hdr + 4) 4
    k'.scrNat at_ 4 = e * 65536 + arr ∧ k'.scrNat (at_ + 4) 4 = (if e ≤ arr then 1 else 0)
    ∧ k'.scrNat (hdr + 4) 4 = (if e ≤ arr ∧ (k.scrNat (at_ + 4) 4 % 2 == 1) = false then nextWp h else h)
    ∧ ∀ b, b < k.scrSize → (b < hdr + 4 ∨ (hdr + 8 ≤ b ∧ b < at_) ∨ at_ + 8 ≤ b) → k'.scrByte b = k.scrByte b := by
  have hlt := k.scrNat_lt at_ 4
  exact Core.setSlot_spec hbars hat hsize (by omega) (by omega) _

end Arrive

theorem keepsIssuers_arrive (k : Core) (hdr at_ : Nat) : keepsIssuers k (k.arrive hdr at_) := keepsIssuers_setSlot _ _ _ _ _ _

/-! ## Arrivals as events -/

/-- Where the codewords of a core are right, the reads of an arrival find nothing wrong (R75). -/
theorem State.meetArrival_of_bad {s : State} {c : Nat} (h : (s.core c).bad = []) (hdr slot : Nat) : s.meetArrival c hdr slot = s := by
  have hm : ∀ a n, s.meetScr c a n = s := fun a n => by rw [State.meetScr, if_pos (List.isEmpty_iff.2 h)]
  rw [State.meetArrival, hm, hm]

/-- A block with warps does not retire. -/
theorem State.retire_of_warps {s : State} {c b : Nat} (h : ((s.core c).block b).warps ≠ []) : s.retire c b = s := by
  simp [State.retire, h]

theorem exec_copyArrival_counts {s : State} {c job : Nat} {r : CopyRec} (hr : (s.core c).copies.find? (fun q => q.id = job) = some r)
    (hfin : r.fin = true) (hmoves : s.copyMoves job = false) (hbad : (s.core c).bad = []) (hrun : (s.ctx r.ctx).runs [.copyEngine c] = true)
    (hturn : ((s.core c).copies.takeWhile fun q => q.id != r.id).any (fun q => q.ch == r.ch) = false) (hh : s.scrHeld c r.hdr 16 = false)
    (hs : s.scrHeld c r.slot 16 = false) (hw : ((s.core c).block r.block).warps ≠ []) :
    exec (.copyArrival c job) s = .next (s.setCore c
      { (s.core c).arrive r.hdr r.slot with copies := (s.core c).copies.filter fun q => q.id != job }) := by
  have hk := keepsIssuers_arrive (s.core c) r.hdr r.slot
  have hret : (s.setCore c { (s.core c).arrive r.hdr r.slot with copies := (s.core c).copies.filter fun q => q.id != job }).retire c r.block = _ :=
    State.retire_of_warps (by rw [State.core_setCore_self]; exact (hk.warps r.block).symm ▸ hw)
  change execCopyArrival c job s = _
  simp only [execCopyArrival, hr, hfin, hmoves, hrun, hturn, hh, hs, Bool.not_true, Bool.or_self, Bool.false_eq_true, if_false,
    State.meetArrival_of_bad hbad, State.modCore]
  rw [hret]

/-- A lane's 16 bytes written to the scratchpad, poison with them. -/
def Core.putLda (k : Core) (r : LdaRec) : Core :=
  if r.pois then (k.writeScr r.dst (leBytes 16 r.data.toNat)).poisonScr (r.dst / 16) else k.writeScr r.dst (leBytes 16 r.data.toNat)

theorem scratchOnly_putLda (k : Core) (r : LdaRec) : scratchOnly k (k.putLda r) := by
  unfold Core.putLda
  split
  · exact (scratchOnly_writeScr k _ _).trans (scratchOnly_poisonScr _ _)
  · exact scratchOnly_writeScr k _ _

/-- The core after the arrival of an LDA16 lane. -/
def Core.ldaArrived (k : Core) (id : Nat) (r : LdaRec) : Core :=
  { (k.putLda r).arrive r.hdr r.slot with lda := k.lda.filter fun q => q.id != id }

theorem keepsIssuers_ldaArrived (k : Core) (id : Nat) (r : LdaRec) : keepsIssuers k (k.ldaArrived id r) := by
  obtain ⟨hrf, hwarps, hseq⟩ := (keepsIssuers_of_scratchOnly (scratchOnly_putLda k r)).trans (keepsIssuers_arrive _ r.hdr r.slot)
  exact ⟨hrf, hwarps, hseq⟩

theorem exec_lda16Arrival_writes {s : State} {c id : Nat} {r : LdaRec} (hr : (s.core c).lda.find? (fun q => q.id = id) = some r)
    (hreqs : r.reqs = []) (hheld : s.ldaHeld c r = false) (hw : ((s.core c).block r.block).warps ≠ []) (hbad : (s.core c).bad = []) :
    exec (.lda16Arrival c id) s = .next (s.setCore c ((s.core c).ldaArrived id r)) := by
  have hput := scratchOnly_putLda (s.core c) r
  have hret : (s.setCore c ((s.core c).ldaArrived id r)).retire c r.block = _ :=
    State.retire_of_warps (by rwa [State.core_setCore_self, (keepsIssuers_ldaArrived (s.core c) id r).warps])
  rw [← hret]
  change execLda16Arrival c id s = _
  simp only [execLda16Arrival, hr, hreqs, hheld, List.isEmpty_nil, Bool.not_true, Bool.or_self, Bool.false_eq_true, if_false,
    State.meetArrival_of_bad hbad, State.modCore]
  have hput' : (if r.pois = true then ((s.core c).writeScr r.dst (leBytes 16 r.data.toNat)).poisonScr (r.dst / 16)
      else (s.core c).writeScr r.dst (leBytes 16 r.data.toNat)) = (s.core c).putLda r := rfl
  rw [hput', hput.lda]
  rfl

/-! ## The bytes and the poison that an LDA16 lane leaves (R69, R72) -/

section Lda

variable {k : Core} (hbars : k.bars = []) {r : LdaRec} (hdst : r.dst + 16 ≤ k.scrSize)
include hbars hdst

theorem Core.scrByte_putLda {b : Nat} (hb : b < k.scrSize) : (k.putLda r).scrByte b =
    if r.dst ≤ b ∧ b < r.dst + 16 then BitVec.ofNat 8 (r.data.toNat / 256 ^ (b - r.dst)) else k.scrByte b := by
  have hz := k.writeScr_scrSize r.dst (leBytes 16 r.data.toNat)
  have hbyte : (k.putLda r).scrByte b = (k.writeScr r.dst (leBytes 16 r.data.toNat)).scrByte b := by
    unfold Core.putLda
    split
    · exact Core.scrByte_poisonScr (by simpa) (Core.scrRow_lt (by omega)) (by omega)
    · rfl
  rw [hbyte, Core.scrByte_writeScr hbars (by simpa) hb, length_leBytes]
  split
  · next h => exact getD_leBytes _ (by omega)
  · rfl

theorem Core.scrPoison_putLda (hp : r.pois = true) : (k.putLda r).scrPoison (r.dst / 16) = true := by
  have hz := k.writeScr_scrSize r.dst (leBytes 16 r.data.toNat)
  rw [Core.putLda, if_pos hp]
  exact Core.scrPoison_poisonScr (by simpa) (Core.scrRow_lt (by omega))

end Lda

/-- A poisoned row is met by an access that begins in it. -/
theorem Core.scrPoisonAt_isSome {k : Core} {a len : Nat} (hlen : 0 < len) (h : k.scrPoison (a / 16) = true) : (k.scrPoisonAt a len).isSome = true := by
  rw [Core.scrPoisonAt, List.find?_isSome]
  refine ⟨a / 16, ?_, h⟩
  rw [units16, if_neg (by omega)]
  exact List.mem_map.2 ⟨0, List.mem_range.2 (by omega), rfl⟩

/-- A core whose registers an event keeps, the others untouched. -/
theorem sameRegs_setCore {s : State} {c : Nat} {k : Core} (h : keepsIssuers (s.core c) k) : sameRegs s (s.setCore c k) := by
  refine ⟨fun d w => ?_, fun d b cp => ?_⟩
  · rw [State.warp, State.core_setCore]
    split
    · next e => rw [e, h.rf]; rfl
    · rfl
  · rw [State.core_setCore]
    split
    · next e => rw [e, h.seqRf]
    · rfl

/-- Settles O25: each event is its own state, and what is said of that state is what moving, sending and counting leave and write. -/
theorem copiesGoOn : Obligations.CopiesGoOn := by
  refine ⟨fun k hdr at_ hbars hat hsize => ?arrival, fun s c job r => ?chunk, fun s h bit n v b hl hbars hbit hsize hb => ?bits,
    fun s c job r hr hfin hmoves hbad hrun hturn hh hs hw => exec_copyArrival_counts hr hfin hmoves hbad hrun hturn hh hs hw,
    fun s c id r hr hreqs hheld hw hbad hbars hdst hhdr hslot => ?lda⟩
  case arrival =>
    intro e arr full k'
    obtain ⟨hword, hfull, hhead, hbyte⟩ := Core.arrive_spec hbars hat hsize
    have hhalves := nextWp_halves (k.scrNat (hdr + 4) 4)
    refine ⟨hword, hfull, ?_, ?_, fun hf hnot w j hp ht => ?_, hbyte⟩
    · simp only [k', hhead, apply_ite (· % 65536), hhalves]
      rfl
    · simp only [k', hhead, apply_ite (· / 65536), hhalves, ite_self]
    · have hk : k' = k.setSlot hdr at_ e arr false := congrArg (k.setSlot hdr at_ e arr) hnot
      rw [hk]
      exact Core.ready_setSlot hf hp ht
  case chunk =>
    intro es hr hfin hcode hrun hafter hedges hturn hwithin hfault hmiss hheld hbad
    exact ⟨fun hu hreads => exec_copyChunk_asks hr hfin hcode hrun hafter hedges hturn rfl hwithin hfault hmiss hheld hu hreads,
      fun hu => exec_copyChunk_moved hr hfin hcode hrun hafter hedges hturn rfl hwithin hfault hmiss hheld hbad hu⟩
  case bits =>
    rw [State.core_putBits hl]
    exact Core.bitAt_writeScr_spliceBits hbars hsize hb
  case lda =>
    intro k1 k
    have hput := scratchOnly_putLda (s.core c) r
    have hpb : ((s.core c).putLda r).bars = [] := hput.bars.trans hbars
    have hpz : ((s.core c).putLda r).scrSize = (s.core c).scrSize := hput.scrSize
    obtain ⟨hword, -, -, hbyte⟩ := Core.arrive_spec hpb hhdr (by rwa [hpz])
    refine ⟨_, exec_lda16Arrival_writes hr hreqs hheld hw hbad, ?_, fun b hb hd => ?_, ?_, fun hp => ?_, fun _ _ => rfl, ?_⟩
    · rfl
    · rw [State.core_setCore_self]
      exact (hbyte b (by rwa [hpz]) hd).trans (Core.scrByte_putLda hbars hdst hb)
    · rw [State.core_setCore_self]
      exact hword
    · rw [State.core_setCore_self]
      refine Core.scrPoisonAt_isSome (by omega) ?_
      refine (Core.scrPoison_setSlot hpb hhdr (by rwa [hpz]) _ _ _ ?_).trans (Core.scrPoison_putLda hbars hdst hp)
      exact Core.scrRow_lt (by omega)
    · exact sameRegs_setCore (keepsIssuers_ldaArrived (s.core c) id r)

end Sys2Proof.Machine
end

section
/-!
PROOFS. Slices that go on (R212, R383): none of them is parked afterwards, whether its warp goes on or is gone.
-/

namespace Sys2Proof.Machine

/-! ## Slices and warps that go on -/

theorem Slice.settle_st (n : Nat) {x : Slice} (h : x.st ≠ .parked) : (Slice.settle n x).st ≠ .parked := by
  induction n generalizing x with
  | zero => exact h
  | succ n ih =>
    unfold Slice.settle
    split
    · split
      · nofun
      · exact h
    · split
      · split
        · exact ih h
        · exact ih h
      · exact h

theorem Slice.goto_st (x : Slice) (pc : DWord) : (x.goto pc).st ≠ .parked := Slice.settle_st 24 (by nofun)

/-- What each change of a warp keeps, a fold of them keeps. -/
theorem Warp.foldl_keeps {α β : Type} (p : Warp → α) (l : List β) (f : Warp → β → Warp) (h : ∀ v b, p (f v b) = p v) (w : Warp) :
    p (l.foldl f w) = p w := by
  induction l generalizing w with
  | nil => rfl
  | cons b l ih => exact (ih _).trans (h w b)

theorem Warp.st_part (w : Warp) (ms : List Nat) (now : DWord) (first : Bool) (n : Nat) : ((w.part ms now first).slice n).st = (w.slice n).st := by
  rw [Warp.part]
  refine Warp.foldl_keeps (fun v => (v.slice n).st) ms _ (fun v i => ?_) w
  simp only [Warp.slice_modSlice]
  split
  · next e => rw [e]
  · rfl

/-- A slice that is not parked is not parked once others, or itself, have gone on. -/
theorem Warp.st_foldl_goto (l : List (Nat × DWord)) {w : Warp} {n : Nat} (h : (w.slice n).st ≠ .parked) :
    ((l.foldl (fun v p => v.modSlice p.1 fun x => x.goto p.2) w).slice n).st ≠ .parked := by
  induction l generalizing w with
  | nil => exact h
  | cons p l ih =>
    refine ih ?_
    rw [Warp.slice_modSlice]
    split
    · exact Slice.goto_st _ _
    · exact h

theorem Warp.st_advance (w : Warp) (ms : List Nat) {next : List (Nat × DWord)} (now : DWord) (first : Bool) {n : Nat} (h : n ∈ next.map Prod.fst) :
    ((w.advance ms next now first).slice n).st ≠ .parked := by
  rw [Warp.advance, Warp.st_part]
  induction next generalizing w with
  | nil => exact absurd h List.not_mem_nil
  | cons p l ih =>
    rw [List.foldl_cons]
    rcases List.mem_cons.1 h with e | e
    · refine Warp.st_foldl_goto l ?_
      rw [Warp.slice_modSlice, if_pos e]
      exact Slice.goto_st _ _
    · exact ih _ e

/-! ## Warps that are gone (R207, R383) -/

theorem State.cores_storePage (s : State) (ctx : Nat) (leaf : DWord) (pa : Nat) (bs : List Byte) : (s.storePage ctx leaf pa bs).cores = s.cores := by
  have hstore : (s.storeGlobal 0 pa bs).cores = s.cores := by
    unfold State.storeGlobal State.writeHid
    split
    · simp only [State.gcmWrote_cores]
      split <;> rfl
    · exact State.writeMem_cores s 0 pa bs
  unfold State.storePage
  split
  · dsimp only
    split
    · rw [State.mirrorPut_cores]; exact hstore
    · exact hstore
  · rfl

theorem State.cores_signal (s : State) (l st : Nat) : (s.signal l st).cores = s.cores := by
  unfold State.signal
  dsimp only
  split
  · rfl
  · exact State.cores_storePage _ _ _ _ _

theorem Core.warp_foldl_writeScr {β : Type} (l : List β) (a : β → Nat) (bs : β → List Byte) (k : Core) (w : Nat) :
    (l.foldl (fun k o => k.writeScr (a o) (bs o)) k).warp w = k.warp w := by
  induction l generalizing k with
  | nil => rfl
  | cons o l ih => exact (ih _).trans ((scratchOnly_writeScr k _ _).warp w)

theorem Core.warp_endBlock (k : Core) (b w : Nat) : (k.endBlock b).warp w = k.warp w := by
  have hs := Core.warp_foldl_writeScr (k.bars.filter fun o => o.block = b) BarObj.ofs (fun o => leBytes 16 o.bar.words)
    { k with bars := k.bars.filter fun o => o.block != b } w
  unfold Core.endBlock
  dsimp only
  split
  · exact hs
  · exact hs

theorem State.warp_coreCharge (s : State) (c d w : Nat) : (s.coreCharge c).warp d w = s.warp d w := by
  have hcharge : ∀ r l, (s.addCharge r l).cores = s.cores := by
    intro r l
    exact State.foldl_keeps (·.cores) _ _ (fun t q => State.modRegion_cores t q _) s
  unfold State.coreCharge
  dsimp only
  split
  · rfl
  · split
    · rfl
    · rw [State.warp, State.core_modCore]
      split
      · next e => rw [e, State.core, hcharge]; rfl
      · rw [State.core, hcharge]; rfl

theorem State.warp_retire (s : State) (c b d w : Nat) : (s.retire c b).warp d w = s.warp d w := by
  have hend : ∀ n f, (((s.coreCharge c).modCore c fun k => k.endBlock b).modLaunch n f).warp d w = s.warp d w := by
    intro n f
    rw [← State.warp_coreCharge s c, State.warp, State.core, State.modLaunch_cores, ← State.core, State.core_modCore]
    split
    · next e => rw [e, Core.warp_endBlock]; rfl
    · rfl
  unfold State.retire
  dsimp only
  split
  · split
    · rw [State.warp, State.core, State.cores_signal]; exact hend _ _
    · exact hend _ _
  · rfl

theorem State.warp_warpExited (s : State) (c w : Nat) : (s.warpExited c w).warp c w = Warp.absent := by
  rw [State.warpExited, State.leaveBlock, State.warp_retire, State.modBlock, State.warp, State.core_modCore_self, Core.warp_modBlock, State.core,
    State.endWarp]
  simp only [State.dropWaiters]
  rw [Sparse.get_mapVals _ _ _ _ rfl]
  change Core.warp (State.core (State.modCore _ c _) c) w = _
  rw [State.core_modCore_self, Core.warp_setWarp, if_pos rfl]

/-! ## An instruction that completes -/

theorem State.st_advance (s : State) (c w : Nat) (ms : List Nat) {next : List (Nat × DWord)} (first : Bool) {n : Nat} (h : n ∈ next.map Prod.fst) :
    (((s.advance c w ms next first).warp c w).slice n).st ≠ .parked := by
  unfold State.advance
  dsimp only
  split
  · rw [State.warp_warpExited]
    nofun
  · rw [State.warp_modWarp, if_pos ⟨rfl, rfl⟩]
    exact Warp.st_advance _ _ _ _ h

theorem State.st_gangGoes (s t : State) (c w j : Nat) (i : Instr) {next : List (Nat × DWord)} {n : Nat} (h : n ∈ next.map Prod.fst) :
    (((s.gangGoes c w j i t next).warp c w).slice n).st ≠ .parked := State.st_advance _ _ _ _ _ h

end Sys2Proof.Machine
end

section
/-!
PROOFS. Where nothing waits at a bank (R86, R87): what a search of the listed cores finds once one access waits, and that waking it serves it and no
other.
-/

namespace Sys2Proof.Machine

/-! ## Where nothing waits -/

/-- Nothing waits at a bank of any listed core. -/
def State.noneWait (s : State) : Prop := ∀ p ∈ s.cores, p.2.waiters = []

/-- In the canonical form the listed cores are those that a lookup finds. -/
theorem State.noneWait_of_wf {s : State} (hwf : Sparse.wf Core.reset s.cores = true) (h : ∀ d, (s.core d).waiters = []) : s.noneWait := by
  rintro ⟨d, k⟩ hp
  obtain ⟨-, rfl⟩ := (Sparse.mem_iff hwf d k).1 hp
  exact h d

theorem Sparse.mem_of_mem_insert {α : Type} {m : Sparse α} {n : Nat} {x : α} {p : Nat × α} (h : p ∈ Sparse.insert m n x) : p = (n, x) ∨ p ∈ m := by
  induction m with
  | nil => exact .inl (List.mem_singleton.1 h)
  | cons q r ih =>
    obtain ⟨a, v⟩ := q
    unfold Sparse.insert at h
    split at h
    · exact List.mem_cons.1 h
    · split at h
      · exact (List.mem_cons.1 h).imp_right (List.mem_cons_of_mem _)
      · rcases List.mem_cons.1 h with e | e
        · exact .inr (e ▸ List.mem_cons_self)
        · exact (ih e).imp_right (List.mem_cons_of_mem _)

theorem Sparse.mem_of_mem_erase {α : Type} {m : Sparse α} {n : Nat} {p : Nat × α} (h : p ∈ Sparse.erase m n) : p ∈ m := by
  induction m with
  | nil => exact h
  | cons q r ih =>
    obtain ⟨a, v⟩ := q
    unfold Sparse.erase at h
    split at h
    · exact List.mem_cons_of_mem _ (ih h)
    · rcases List.mem_cons.1 h with e | e
      · exact e ▸ List.mem_cons_self
      · exact List.mem_cons_of_mem _ (ih e)

theorem Sparse.mem_of_mem_set {α : Type} [DecidableEq α] {d : α} {m : Sparse α} {n : Nat} {x : α} {p : Nat × α} (h : p ∈ Sparse.set d m n x) :
    p = (n, x) ∨ p ∈ m := by
  unfold Sparse.set at h
  split at h
  · exact .inr (Sparse.mem_of_mem_erase h)
  · exact Sparse.mem_of_mem_insert h

/-- Of two insertions at a key the second stands. -/
theorem Sparse.insert_insert {α : Type} (m : Sparse α) (n : Nat) (x y : α) : Sparse.insert (Sparse.insert m n x) n y = Sparse.insert m n y := by
  induction m with
  | nil => simp [Sparse.insert]
  | cons q r ih =>
    obtain ⟨a, v⟩ := q
    rcases Nat.lt_trichotomy n a with h | h | h
    · simp [Sparse.insert, h]
    · subst h; simp [Sparse.insert]
    · simp [Sparse.insert, ih, show ¬ n < a by omega, show ¬ n = a by omega]

theorem Sparse.erase_insert {α : Type} (m : Sparse α) (n : Nat) (x : α) : Sparse.erase (Sparse.insert m n x) n = Sparse.erase m n := by
  induction m with
  | nil => simp [Sparse.insert, Sparse.erase]
  | cons q r ih =>
    obtain ⟨a, v⟩ := q
    rcases Nat.lt_trichotomy n a with h | h | h
    · simp [Sparse.insert, Sparse.erase, h]
    · subst h; simp [Sparse.insert, Sparse.erase]
    · simp [Sparse.insert, Sparse.erase, ih, show ¬ n < a by omega, show ¬ n = a by omega, show ¬ a = n by omega]

/-- Of two writes of a key the second stands, where the first is not the common value. -/
theorem Sparse.set_set {α : Type} [DecidableEq α] {d : α} (m : Sparse α) (n : Nat) {x : α} (y : α) (hx : x ≠ d) :
    Sparse.set d (Sparse.set d m n x) n y = Sparse.set d m n y := by
  unfold Sparse.set
  rw [if_neg hx, Sparse.insert_insert, Sparse.erase_insert]

/-- A search of a map that finds nothing finds, once a key is inserted, what it finds there. -/
theorem Sparse.findSome?_insert {α β : Type} {m : Sparse α} {f : Nat × α → Option β} (h : ∀ p ∈ m, f p = none) (n : Nat) (x : α) :
    (Sparse.insert m n x).findSome? f = f (n, x) := by
  have hm : m.findSome? f = none := List.findSome?_eq_none_iff.2 h
  induction m with
  | nil => cases e : f (n, x) <;> simp [Sparse.insert, List.findSome?, e]
  | cons q r ih =>
    obtain ⟨a, v⟩ := q
    have hr : r.findSome? f = none := List.findSome?_eq_none_iff.2 fun p hp => h p (List.mem_cons_of_mem _ hp)
    have ha := h (a, v) List.mem_cons_self
    unfold Sparse.insert
    split
    · cases e : f (n, x) <;> simp [List.findSome?, e, ha, hr]
    · split
      · cases e : f (n, x) <;> simp [List.findSome?, e, hr]
      · rw [List.findSome?, ha]
        exact ih (fun p hp => h p (List.mem_cons_of_mem _ hp)) hr

theorem Sparse.mem_insert_self {α : Type} (m : Sparse α) (n : Nat) (x : α) : (n, x) ∈ Sparse.insert m n x := by
  induction m with
  | nil => exact List.mem_singleton.2 rfl
  | cons q r ih =>
    unfold Sparse.insert
    split
    · exact List.mem_cons_self
    · split
      · exact List.mem_cons_self
      · exact List.mem_cons_of_mem _ ih

section NoneWait

variable {s : State} (h : s.noneWait)
include h

theorem State.noneWait.core (d : Nat) : (s.core d).waiters = [] := by
  rcases Sparse.get_mem Core.reset s.cores d with e | e
  · rw [State.core, e]; rfl
  · exact h _ e

theorem State.noneWait.setCore {d : Nat} {k : Core} (hk : k.waiters = []) : (s.setCore d k).noneWait := by
  intro p hp
  rcases Sparse.mem_of_mem_set hp with rfl | hp
  · exact hk
  · exact h p hp

theorem State.noneWait.modCore {d : Nat} {f : Core → Core} (hf : ∀ k, (f k).waiters = k.waiters) : (s.modCore d f).noneWait :=
  h.setCore ((hf _).trans (h.core d))

theorem State.noneWait.waitsAtBank (c w j : Nat) : s.waitsAtBank c w j = false := by
  rw [State.waitsAtBank, List.any_eq_false]
  intro p hp
  rw [h p hp]
  nofun

theorem State.noneWait.serveAll (n : Nat) : State.serveAll n s = s := by
  cases n with
  | zero => rfl
  | succ n =>
    have hnone : (s.cores.findSome? fun p => (nextServed p.2 [] p.2.waiters).map fun w => (p.1, w)) = none := by
      refine List.findSome?_eq_none_iff.2 fun p hp => ?_
      rw [h p hp]
      rfl
    rw [State.serveAll, hnone]

/-- The only access that waits is served where its condition holds. -/
theorem State.wakeTags_one (d : Nat) {k : Core} {y : Waiter} (hk : k.waiters = [y]) (hy : k.tagsAre y = true)
    (hafter : (((s.setCore d { k with waiters := [] }).serve d y).slicesServed y).noneWait) :
    (s.setCore d k).wakeTags = ((s.setCore d { k with waiters := [] }).serve d y).slicesServed y := by
  have hreset : k ≠ Core.reset := by
    rintro rfl
    cases hk
  have hcores : (s.setCore d k).cores = Sparse.insert s.cores d k := if_neg hreset
  have hfind : ((s.setCore d k).cores.findSome? fun p => (nextServed p.2 [] p.2.waiters).map fun w => (p.1, w)) = some (d, y) := by
    rw [hcores, Sparse.findSome?_insert (fun p hp => by rw [h p hp]; rfl), hk]
    simp [nextServed, Core.decides, hy]
  have hback : (s.setCore d k).modCore d (fun k => { k with waiters := k.waiters.erase y }) = s.setCore d { k with waiters := [] } := by
    simp only [State.modCore, State.core_setCore_self, hk, List.erase_cons_head]
    simp only [State.setCore, Sparse.set_set s.cores d _ hreset]
  obtain ⟨n, hn⟩ : ∃ n, ((s.setCore d k).cores.map fun p => p.2.waiters.length).sum = n + 1 := by
    refine Nat.exists_eq_succ_of_ne_zero fun e => ?_
    have := List.sum_eq_zero_iff.1 e _ (List.mem_map_of_mem (hcores ▸ Sparse.mem_insert_self s.cores d k))
    simp [hk] at this
  rw [State.wakeTags, hn, State.serveAll, hfind]
  dsimp only
  rw [hback]
  exact hafter.serveAll n

end NoneWait

end Sys2Proof.Machine
end

section
/-!
PROOFS. Tags of the scratchpad (R84, R86), and what a served access does to data and tags (R301, R303).
-/

namespace Sys2Proof.Machine

/-! ## Tags (R84, R86) -/

theorem scratchOnly_setTag (k : Core) (n : Nat) (b : Bool) : scratchOnly k (k.setTag n b) :=
  (scratchOnly_touchScr k (n / 4)).trans ⟨_, _, _, _, _, rfl⟩

theorem Core.touchScr_tags (k : Core) (r m : Nat) :
    Sparse.get false (k.touchScr r).tags m = if k.scrFresh r = true ∧ m / 4 = r then false else Sparse.get false k.tags m := by
  unfold Core.touchScr
  by_cases h : k.scrFresh r = true
  · have hrow : m / 4 = r ↔ m = 4 * r + 3 ∨ m = 4 * r + 2 ∨ m = 4 * r + 1 ∨ m = 4 * r := by omega
    have htags : ∀ t : Sparse Bool, Sparse.get false ((List.range 4).foldl (fun t i => Sparse.set false t (4 * r + i) false) t) m =
        if m / 4 = r then false else Sparse.get false t m := by
      intro t
      simp only [List.range, List.range.loop, List.foldl_cons, List.foldl_nil, Sparse.get_set, Nat.add_zero, hrow]
      grind
    simp only [h, if_true, true_and]
    exact htags k.tags
  · simp [h]

/-- A row's first touch changes no tag. -/
theorem Core.scrTag_touchScr {k : Core} {r m : Nat} (hr : r < k.scrBanks * 512) (hm : m / 4 < k.scrBanks * 512) :
    (k.touchScr r).scrTag m = k.scrTag m := by
  rw [Core.scrTag, Core.touchScr_scrFresh hr hm, Core.touchScr_tags, Core.scrTag]
  by_cases h : m / 4 = r
  · subst h
    cases k.scrFresh (m / 4) <;> simp
  · simp [h]

theorem Core.scrTag_setTag {k : Core} {n m : Nat} (b : Bool) (hn : n / 4 < k.scrBanks * 512) (hm : m / 4 < k.scrBanks * 512) :
    (k.setTag n b).scrTag m = if m = n then b else k.scrTag m := by
  have hfresh : (k.setTag n b).scrFresh (m / 4) = (k.touchScr (n / 4)).scrFresh (m / 4) := rfl
  by_cases h : m = n
  · subst h
    rw [if_pos rfl, Core.scrTag, hfresh, Core.touchScr_scrFresh hn hn, if_pos rfl, Core.setTag, Sparse.get_set_self]
    rfl
  · rw [if_neg h, Core.scrTag, hfresh, Core.setTag, Sparse.get_set_ne _ _ _ h]
    exact Core.scrTag_touchScr hn hm

theorem Core.scrByte_setTag {k : Core} (h : k.bars = []) {n o : Nat} (b : Bool) (hn : n / 4 < k.scrBanks * 512) (ho : o < k.scrSize) :
    (k.setTag n b).scrByte o = k.scrByte o := Core.scrByte_touchScr h hn ho

/-- Tags of words set one after the other. -/
theorem Core.setTags_spec {k : Core} (h : k.bars = []) (l : List Nat) (b : Bool) (hl : ∀ n ∈ l, 4 * n < k.scrSize) :
    (∀ m, 4 * m < k.scrSize → (l.foldl (fun k n => k.setTag n b) k).scrTag m = if m ∈ l then b else k.scrTag m)
    ∧ ∀ o, o < k.scrSize → (l.foldl (fun k n => k.setTag n b) k).scrByte o = k.scrByte o := by
  have hrow : ∀ m, 4 * m < k.scrSize → m / 4 < k.scrBanks * 512 := by
    intro m hm
    have := Core.scrRow_lt hm
    rwa [show 4 * m / 16 = m / 4 by omega] at this
  induction l generalizing k with
  | nil => exact ⟨fun m _ => by simp, fun o _ => rfl⟩
  | cons n l ih =>
    have hn := hl n List.mem_cons_self
    have hs := scratchOnly_setTag k n b
    have hz := hs.scrSize
    have hbanks : (k.setTag n b).scrBanks = k.scrBanks := by
      simp only [Core.scrSize, Core.scrBanks] at hz ⊢
      omega
    obtain ⟨htag, hbyte⟩ := ih (hs.bars.trans h) (fun m hm => by rw [hz]; exact hl m (List.mem_cons_of_mem _ hm))
      (fun m hm => by rw [hbanks]; exact hrow m (by rwa [hz] at hm))
    refine ⟨fun m hm => ?_, fun o ho => ?_⟩
    · rw [List.foldl_cons, htag m (by rwa [hz]), Core.scrTag_setTag b (hrow n hn) (hrow m hm)]
      by_cases e : m = n <;> simp [e]
    · rw [List.foldl_cons, hbyte o (by rwa [hz]), Core.scrByte_setTag h b (hrow n hn) ho]

/-! ## One access served (R86, R301, R303) -/

theorem Waiter.lt_of_mem_words {y : Waiter} {n : Nat} (h : n ∈ y.words) : 4 * n < y.ofs + y.len := by
  unfold Waiter.words tagWords at h
  unfold Waiter.len
  cases htwo : y.two
  · simp [htwo] at h ⊢; omega
  · simp [htwo] at h ⊢; omega

/-- What a served access does to a scratchpad: its write, and the tags. -/
def Core.serveScr (k : Core) (y : Waiter) : Core :=
  let k := if y.full then k else k.writeScr y.ofs (leBytes y.len y.data.toNat)
  if y.keep then k else y.words.foldl (fun k n => k.setTag n !y.full) k

theorem Core.serveScr_spec {k : Core} {y : Waiter} (h : k.bars = []) (hsize : y.ofs + y.len ≤ k.scrSize) (hkeep : y.keep = true → y.full = true) :
    (∀ n ∈ y.words, (k.serveScr y).scrTag n = if y.keep then k.scrTag n else !y.full)
    ∧ ∀ b, b < k.scrSize → (k.serveScr y).scrByte b =
        if y.full = false ∧ y.ofs ≤ b ∧ b < y.ofs + y.len then BitVec.ofNat 8 (y.data.toNat / 256 ^ (b - y.ofs)) else k.scrByte b := by
  have hset : ∀ k' : Core, scratchOnly k k' →
      (∀ n ∈ y.words, (y.words.foldl (fun k n => k.setTag n !y.full) k').scrTag n = !y.full)
      ∧ ∀ b, b < k.scrSize → (y.words.foldl (fun k n => k.setTag n !y.full) k').scrByte b = k'.scrByte b := by
    intro k' hk'
    have hw : ∀ n ∈ y.words, 4 * n < k'.scrSize := fun n hn => by
      have := Waiter.lt_of_mem_words hn
      rw [hk'.scrSize]; omega
    obtain ⟨htag, hbyte⟩ := Core.setTags_spec (hk'.bars.trans h) y.words (!y.full) hw
    exact ⟨fun n hn => by rw [htag n (hw n hn), if_pos hn], fun b hb => hbyte b (by rwa [hk'.scrSize])⟩
  unfold Core.serveScr
  cases hfull : y.full
  case true =>
    obtain ⟨htag, hbyte⟩ := hset k (.refl k)
    rw [hfull] at htag hbyte
    cases y.keep
    · exact ⟨by simpa using htag, fun b hb => by simpa using hbyte b hb⟩
    · exact ⟨by simp, by simp⟩
  case false =>
    obtain ⟨htag, hbyte⟩ := hset _ (scratchOnly_writeScr k y.ofs (leBytes y.len y.data.toNat))
    rw [hfull] at htag hbyte
    have hk : y.keep = false := by
      rw [Bool.eq_false_iff]
      intro hk
      simp [hkeep hk] at hfull
    refine ⟨by simpa [hk] using htag, fun b hb => ?_⟩
    have hwrite := Core.scrByte_writeScr h (a := y.ofs) (bs := leBytes y.len y.data.toNat) (by simpa using hsize) hb
    simp only [hk, Bool.false_eq_true, if_false, true_and]
    refine (hbyte b hb).trans (hwrite.trans ?_)
    rw [length_leBytes]
    split
    · exact getD_leBytes _ (by omega)
    · rfl

theorem scratchOnly.waiters {k k' : Core} (h : scratchOnly k k') : k'.waiters = k.waiters := by obtain ⟨_, _, _, _, _, rfl⟩ := h; rfl

theorem scratchOnly_foldl_setTag (l : List Nat) (b : Bool) (k : Core) : scratchOnly k (l.foldl (fun k n => k.setTag n b) k) := by
  induction l generalizing k with
  | nil => exact .refl k
  | cons n l ih => exact (scratchOnly_setTag k n b).trans (ih _)

theorem scratchOnly_serveScr (k : Core) (y : Waiter) : scratchOnly k (k.serveScr y) := by
  have hw : scratchOnly k (if y.full then k else k.writeScr y.ofs (leBytes y.len y.data.toNat)) := by
    split
    · exact .refl k
    · exact scratchOnly_writeScr k _ _
  unfold Core.serveScr
  dsimp only
  split
  · exact hw
  · exact hw.trans (scratchOnly_foldl_setTag _ _ _)

end Sys2Proof.Machine
end

section
/-!
PROOFS. One access that arrives at its bank and is served at once (R86, R87): what it delivers, and what it leaves alone.
-/

namespace Sys2Proof.Machine

/-! ## What changes no scratchpad -/

/-- Two cores differ at most in their warps, their waiting accesses and their reports of failed walks. -/
def besideScr (k k' : Core) : Prop := ∃ ws q f, k' = { k with warps := ws, waiters := q, wfault := f }

section BesideScr

variable {k k' : Core} (h : besideScr k k')
include h

theorem besideScr.trans {k'' : Core} (h' : besideScr k' k'') : besideScr k k'' := by
  obtain ⟨_, _, _, rfl⟩ := h
  obtain ⟨ws, q, f, rfl⟩ := h'
  exact ⟨ws, q, f, rfl⟩

theorem besideScr.scrByte (b : Nat) : k'.scrByte b = k.scrByte b := by obtain ⟨_, _, _, rfl⟩ := h; rfl
theorem besideScr.scrTag (n : Nat) : k'.scrTag n = k.scrTag n := by obtain ⟨_, _, _, rfl⟩ := h; rfl
theorem besideScr.scrNat (a n : Nat) : k'.scrNat a n = k.scrNat a n := by obtain ⟨_, _, _, rfl⟩ := h; rfl
theorem besideScr.scrPoisonAt (a n : Nat) : k'.scrPoisonAt a n = k.scrPoisonAt a n := by obtain ⟨_, _, _, rfl⟩ := h; rfl
theorem besideScr.scrSize : k'.scrSize = k.scrSize := by obtain ⟨_, _, _, rfl⟩ := h; rfl
theorem besideScr.bars : k'.bars = k.bars := by obtain ⟨_, _, _, rfl⟩ := h; rfl
theorem besideScr.bad : k'.bad = k.bad := by obtain ⟨_, _, _, rfl⟩ := h; rfl

end BesideScr

theorem besideScr_modWarp (s : State) (c w : Nat) (f : Warp → Warp) (d : Nat) : besideScr (s.core d) ((s.modWarp c w f).core d) := by
  rw [State.modWarp, State.core_modCore]
  split
  · next e => rw [e]; exact ⟨_, _, _, rfl⟩
  · exact ⟨_, _, _, rfl⟩

/-- Two states hold the same data and tags in every scratchpad, the same registers, and the same bytes in every memory, and each slice parks for the
same. -/
structure keepsScr (s t : State) : Prop where
  core : ∀ d, besideScr (s.core d) (t.core d)
  rf : ∀ d v, (t.warp d v).rf = (s.warp d v).rf
  park : ∀ d v n, ((t.warp d v).slice n).park = ((s.warp d v).slice n).park
  byte : ∀ loc b, t.mem.byte loc b = s.mem.byte loc b

theorem keepsScr.trans {s t u : State} (h : keepsScr s t) (h' : keepsScr t u) : keepsScr s u where
  core d := (h.core d).trans (h'.core d)
  rf d v := (h'.rf d v).trans (h.rf d v)
  park d v n := (h'.park d v n).trans (h.park d v n)
  byte loc b := (h'.byte loc b).trans (h.byte loc b)

theorem keepsScr_of_cores {s t : State} (hc : t.cores = s.cores) (hm : ∀ loc b, t.mem.byte loc b = s.mem.byte loc b) : keepsScr s t where
  core d := ⟨_, _, _, by rw [State.core, hc, ← State.core]⟩
  rf d v := by rw [State.warp, State.core, hc]; rfl
  park d v n := by rw [State.warp, State.core, hc]; rfl
  byte := hm

theorem keepsScr_modWarp (s : State) (c w : Nat) {f : Warp → Warp} (hrf : (f (s.warp c w)).rf = (s.warp c w).rf)
    (hpark : ∀ n, ((f (s.warp c w)).slice n).park = ((s.warp c w).slice n).park) : keepsScr s (s.modWarp c w f) where
  core := besideScr_modWarp s c w f
  rf d v := by
    rw [State.warp_modWarp]
    split
    · next e => rw [hrf, e.1, e.2]
    · rfl
  park d v n := by
    rw [State.warp_modWarp]
    split
    · next e => rw [hpark, e.1, e.2]
    · rfl
  byte _ _ := rfl

theorem keepsScr_setCore (s : State) (c : Nat) (q : List Waiter) (f : List WalkFault) :
    keepsScr s (s.setCore c { s.core c with waiters := q, wfault := f }) where
  core d := by
    rw [State.core_setCore]
    split
    · next e => rw [e]; exact ⟨_, _, _, rfl⟩
    · exact ⟨_, _, _, rfl⟩
  rf d v := by
    rw [State.warp, State.core_setCore]
    split
    · next e => rw [e]; rfl
    · rfl
  park d v n := by
    rw [State.warp, State.core_setCore]
    split
    · next e => rw [e]; rfl
    · rfl
  byte _ _ := rfl

/-! ## Serving -/

/-- An access of a warp has been served at core `d` and at once: nothing waits afterwards. -/
structure servedAt (s t : State) (d : Nat) (y : Waiter) : Prop where
  noneWait : t.noneWait
  rf : (t.warp y.core y.warp).rf =
    if y.full then (s.warp y.core y.warp).rf.writeD (y.len / 4) y.v y.lane (BitVec.ofNat 64 ((s.core d).scrNat y.ofs y.len))
    else (s.warp y.core y.warp).rf
  park : ∀ c w n, ((t.warp c w).slice n).park = ((s.warp c w).slice n).park
  tag : ∀ n ∈ y.words, (t.core d).scrTag n = if y.keep then (s.core d).scrTag n else !y.full
  scr : ∀ b, b < (s.core d).scrSize → (t.core d).scrByte b =
    if y.full = false ∧ y.ofs ≤ b ∧ b < y.ofs + y.len then BitVec.ofNat 8 (y.data.toNat / 256 ^ (b - y.ofs)) else (s.core d).scrByte b
  byte : ∀ loc b, t.mem.byte loc b = s.mem.byte loc b

theorem servedAt.of_before {s s' t : State} {d : Nat} {y : Waiter} (h : keepsScr s s') (h' : servedAt s' t d y) : servedAt s t d y where
  noneWait := h'.noneWait
  rf := by rw [h'.rf, h.rf, (h.core d).scrNat]
  park c w n := (h'.park c w n).trans (h.park c w n)
  tag n hn := by rw [h'.tag n hn, (h.core d).scrTag]
  scr b hb := by rw [h'.scr b (by rwa [(h.core d).scrSize]), (h.core d).scrByte]
  byte loc b := (h'.byte loc b).trans (h.byte loc b)

theorem servedAt.to_after {s t t' : State} {d : Nat} {y : Waiter} (h : servedAt s t d y) (h' : keepsScr t t') (hn : t'.noneWait) :
    servedAt s t' d y where
  noneWait := hn
  rf := (h'.rf _ _).trans h.rf
  park c w n := (h'.park c w n).trans (h.park c w n)
  tag n hn := ((h'.core d).scrTag n).trans (h.tag n hn)
  scr b hb := ((h'.core d).scrByte b).trans (h.scr b hb)
  byte loc b := (h'.byte loc b).trans (h.byte loc b)

theorem State.meetScr_of_bad {s : State} {c : Nat} (h : (s.core c).bad = []) (ofs len : Nat) : s.meetScr c ofs len = s := by
  rw [State.meetScr, if_pos (List.isEmpty_iff.2 h)]

theorem Warp.rf_mark (v : Warp) (c : BitVec 8) (n : Nat) (sls : List Nat) (b : Bool) : (v.mark c n sls b).rf = v.rf := by
  unfold Warp.mark
  split
  · rfl
  · split <;> rfl

theorem Warp.slices_mark (v : Warp) (c : BitVec 8) (n : Nat) (sls : List Nat) (b : Bool) : (v.mark c n sls b).slices = v.slices := by
  unfold Warp.mark
  split
  · rfl
  · split <;> rfl

theorem Warp.rf_wrote (v : Warp) (l : List (Nat × Nat)) : (v.wrote l).rf = v.rf := by
  refine Warp.foldl_keeps Warp.rf l _ (fun _ _ => ?_) v
  rfl

theorem Warp.slices_wrote (v : Warp) (l : List (Nat × Nat)) : (v.wrote l).slices = v.slices := by
  refine Warp.foldl_keeps Warp.slices l _ (fun _ _ => ?_) v
  rfl


/-- A warp to which a served access delivers the number read, its lane marked as served; `more` says whether an access of its slice still waits. -/
def Warp.delivered (v : Warp) (y : Waiter) (n : Nat) (more : Bool) : Warp :=
  let v := if !y.full then v
    else
      let v := { v with rf := v.rf.writeD (y.len / 4) y.v y.lane (BitVec.ofNat 64 n) }
      let v := v.wrote (regLanes y.v (y.len / 4) [y.lane])
      if more && isG y.v then v else v.mark y.v (y.len / 4) [y.slice] false
  v.modSlice y.slice fun z => { z with served := setBit z.served (y.lane % 4) true }

theorem Warp.rf_delivered (v : Warp) (y : Waiter) (n : Nat) (more : Bool) :
    (v.delivered y n more).rf = if y.full then v.rf.writeD (y.len / 4) y.v y.lane (BitVec.ofNat 64 n) else v.rf := by
  unfold Warp.delivered
  cases y.full
  · rfl
  · simp only [Bool.not_true, Bool.false_eq_true, if_false, if_true, Warp.modSlice_rf]
    split
    · rw [Warp.rf_wrote]
    · rw [Warp.rf_mark, Warp.rf_wrote]

theorem Warp.park_delivered (v : Warp) (y : Waiter) (n : Nat) (more : Bool) (m : Nat) : ((v.delivered y n more).slice m).park = (v.slice m).park := by
  have hserved : ∀ u : Warp,
      ((u.modSlice y.slice fun z => { z with served := setBit z.served (y.lane % 4) true }).slice m).park = (u.slice m).park := by
    intro u
    rw [Warp.slice_modSlice]
    split
    · next e => rw [e]
    · rfl
  unfold Warp.delivered
  rw [hserved, Warp.slice]
  cases y.full
  · rfl
  · simp only [Bool.not_true, Bool.false_eq_true, if_false]
    split
    · rw [Warp.slices_wrote]; rfl
    · rw [Warp.slices_mark, Warp.slices_wrote]; rfl

/-- A served access whose codewords are right and whose rows are not poisoned. -/
theorem State.serve_eq {s : State} {d : Nat} {y : Waiter} (hbad : (s.core d).bad = [])
    (hp : ((s.countServed d y).core d).scrPoisonAt y.ofs y.len = none) :
    s.serve d y =
      let u := (s.countServed d y).modCore d fun k => k.serveScr y
      (if y.sys then u.dropPeerReads else u).modWarp y.core y.warp fun v =>
        v.delivered y (((s.countServed d y).core d).scrNat y.ofs y.len) (u.waitsAtBank y.core y.warp y.slice) := by
  have hmeet : (if y.full then s.meetScr d y.ofs y.len else s) = s := by rw [State.meetScr_of_bad hbad, ite_self]
  unfold State.serve
  rw [hmeet]
  dsimp only
  rw [hp]
  rfl

section Count

variable {s : State} (h : s.noneWait)
include h

theorem State.noneWait.modWarp {c w : Nat} {f : Warp → Warp} : (s.modWarp c w f).noneWait := h.modCore fun _ => rfl

theorem keepsScr_countServed (d : Nat) (y : Waiter) : keepsScr s (s.countServed d y) ∧ (s.countServed d y).noneWait := by
  have hcounts : ∀ (v : Warp) (n : Nat), (v.counts 3 n).rf = v.rf ∧ (v.counts 3 n).slices = v.slices := by
    intro v n
    unfold Warp.counts
    split <;> exact ⟨rfl, rfl⟩
  unfold State.countServed
  dsimp only
  split
  · exact ⟨keepsScr_of_cores rfl fun _ _ => rfl, h⟩
  · constructor
    · refine (keepsScr_setCore s d _ (s.core d).wfault).trans (keepsScr_modWarp _ _ _ (hcounts _ _).1 fun n => ?_)
      rw [Warp.slice, (hcounts _ _).2]; rfl
    · refine State.noneWait.modWarp (h.setCore ?_)
      exact List.map_eq_nil_iff.2 (h.core d)

/-- An access served where nothing waits, its slices not parked for it. -/
theorem State.servedAt_serve {d : Nat} {y : Waiter} (hbad : (s.core d).bad = []) (hp : (s.core d).scrPoisonAt y.ofs y.len = none)
    (hbars : (s.core d).bars = []) (hsize : y.ofs + y.len ≤ (s.core d).scrSize) (hkeep : y.keep = true → y.full = true) :
    servedAt s (s.serve d y) d y := by
  obtain ⟨hcount, hnone⟩ := keepsScr_countServed h d y
  have hk := hcount.core d
  have hscr := scratchOnly_serveScr ((s.countServed d y).core d) y
  obtain ⟨htag, hbyte⟩ := Core.serveScr_spec (hk.bars.trans hbars) (by rwa [hk.scrSize]) hkeep
  rw [State.serve_eq hbad ((hk.scrPoisonAt y.ofs y.len).trans hp)]
  refine servedAt.of_before hcount ?_
  generalize s.countServed d y = u at *
  dsimp only
  generalize State.waitsAtBank _ _ _ _ = more
  have hcores : (if y.sys then (u.modCore d fun k => k.serveScr y).dropPeerReads else u.modCore d fun k => k.serveScr y).cores =
      (u.modCore d fun k => k.serveScr y).cores := by split <;> rfl
  have hmem : ∀ loc b, (if y.sys then (u.modCore d fun k => k.serveScr y).dropPeerReads else u.modCore d fun k => k.serveScr y).mem.byte loc b =
      u.mem.byte loc b := by intro loc b; split <;> rfl
  generalize (if y.sys then (u.modCore d fun k => k.serveScr y).dropPeerReads else u.modCore d fun k => k.serveScr y) = v at hcores hmem
  have hcore : v.core d = (u.core d).serveScr y := by rw [State.core, hcores, ← State.core, State.core_modCore_self]
  have hwarp : ∀ c w, v.warp c w = u.warp c w := by
    intro c w
    rw [State.warp, State.core, hcores, ← State.core, State.core_modCore]
    split
    · next e => rw [hscr.warp, e]; rfl
    · rfl
  have hbeside := besideScr_modWarp v y.core y.warp (fun v => v.delivered y ((u.core d).scrNat y.ofs y.len) more) d
  rw [hcore] at hbeside
  exact
    { noneWait := by
        refine State.noneWait.modWarp (fun p hp => ?_)
        rw [hcores] at hp
        exact hnone.setCore (hscr.waiters.trans (hnone.core d)) p hp
      rf := by rw [State.warp_modWarp, if_pos ⟨rfl, rfl⟩, Warp.rf_delivered, hwarp]
      park := fun c w n => by
        rw [State.warp_modWarp]
        split
        · next e => rw [Warp.park_delivered, hwarp, e.1, e.2]
        · rw [hwarp]
      tag := fun n hn => (hbeside.scrTag n).trans (htag n hn)
      scr := fun b hb => (hbeside.scrByte b).trans (hbyte b hb)
      byte := hmem }

end Count

/-- Where none of its slices is parked for it, a served access moves no slice on. -/
theorem State.slicesServed_of_park {s : State} {y : Waiter}
    (h : ∀ n, n < 8 → bitAt y.slices n = true → ((s.warp y.core y.warp).slice n).park ≠ .fullEmpty) :
    s.slicesServed y = s := by
  have hjs : ((bitsOf y.slices 8).filter fun n => ((s.warp y.core y.warp).slice n).park == .fullEmpty && !s.waitsAtBank y.core y.warp n) = [] := by
    refine List.filter_eq_nil_iff.2 fun n hn => ?_
    rw [bitsOf, List.mem_filter, List.mem_range] at hn
    simp [h n hn.1 hn.2]
  unfold State.slicesServed
  dsimp only
  rw [hjs]
  rfl

/-- An access that arrives where nothing waits and whose condition holds is served at once (R86, R87). -/
theorem State.servedAt_arriveTag {s : State} (h : s.noneWait) {d : Nat} {y : Waiter} (hbad : (s.core d).bad = [])
    (hp : (s.core d).scrPoisonAt y.ofs y.len = none) (hbars : (s.core d).bars = []) (hsize : y.ofs + y.len ≤ (s.core d).scrSize)
    (hkeep : y.keep = true → y.full = true) (htags : ∀ n ∈ y.words, (s.core d).scrTag n = y.full)
    (hpark : ∀ n, n < 8 → bitAt y.slices n = true → ((s.warp y.core y.warp).slice n).park ≠ .fullEmpty) :
    servedAt s (s.arriveTag d y) d y := by
  have hmark : keepsScr s (s.modWarp y.core y.warp fun v => if y.full then v.mark y.v (y.len / 4) [y.slice] true else v) := by
    refine keepsScr_modWarp s _ _ ?_ fun n => ?_
    · split
      · exact Warp.rf_mark _ _ _ _ _
      · rfl
    · split
      · rw [Warp.slice, Warp.slices_mark]; rfl
      · rfl
  have hnone : (s.modWarp y.core y.warp fun v => if y.full then v.mark y.v (y.len / 4) [y.slice] true else v).noneWait := h.modWarp
  rw [State.arriveTag, State.meetScr_of_bad hbad]
  generalize (s.modWarp y.core y.warp fun v => if y.full then v.mark y.v (y.len / 4) [y.slice] true else v) = u at *
  have hback := keepsScr_setCore u d [] (u.core d).wfault
  have hku := hmark.trans hback
  have hkd := hku.core d
  have hserved : servedAt u ((u.setCore d { u.core d with waiters := [] }).serve d y) d y :=
    servedAt.of_before hback (State.servedAt_serve (hnone.setCore rfl) (hkd.bad.trans hbad) ((hkd.scrPoisonAt _ _).trans hp) (hkd.bars.trans hbars)
      (by rwa [hkd.scrSize]) hkeep)
  have hstay : ((u.setCore d { u.core d with waiters := [] }).serve d y).slicesServed y = (u.setCore d { u.core d with waiters := [] }).serve d y :=
    State.slicesServed_of_park fun n hn hb => by
      rw [hserved.park, hmark.park]
      exact hpark n hn hb
  have hwake : (u.modCore d fun k => { k with waiters := k.waiters ++ [y] }).wakeTags = (u.setCore d { u.core d with waiters := [] }).serve d y := by
    have hone := State.wakeTags_one hnone d (k := { u.core d with waiters := [y] }) (y := y) rfl
      (List.all_eq_true.2 fun n hn => beq_iff_eq.2 (((hmark.core d).scrTag n).trans (htags n hn)))
      (by rw [hstay]; exact hserved.noneWait)
    rw [hstay] at hone
    rw [State.modCore, hnone.core d]
    exact hone
  rw [hwake]
  exact servedAt.of_before hmark hserved

end Sys2Proof.Machine
end

section
/-!
PROOFS. LDF, LDFK and STF of one lane (R86, R301, R303), in the states whose list of cores is canonical.
-/

namespace Sys2Proof.Machine

/-! ## A full/empty access of one lane -/

/-- The access of a lane as it arrives at its bank (R87, R301, R303). -/
def State.bankAccess (s : State) (x : Issue) (f : FmtM) (full keep : Bool) (a : LaneAcc) : Waiter :=
  { core := x.core, warp := x.warp, slice := a.lane / 4, slices := memMask f x.acting a.lane, lane := a.lane, ofs := a.home.addr, two := f.sz = 3,
    full := full, keep := keep, sys := full && f.ord = 1 && f.sco = 3, v := f.v, data := (s.warp x.core x.warp).rf.readD (nregSz f.sz) f.v a.lane,
    next := x.next, pc := x.pc, opw := x.opw, conf := s.conflicts [a.home] (accBytes f) }

/-- A k destination receives the data of the lowest acting lane (R95), which the one lane is. -/
theorem headD_of_memLanes {f : FmtM} {acting : List Nat} {lane : Nat} (h : memLanes f acting = [lane]) : acting.headD 0 = lane := by
  cases acting with
  | nil =>
    unfold memLanes at h
    split at h <;> cases h
  | cons l r =>
    unfold memLanes at h
    split at h
    · exact List.head_eq_of_cons_eq h
    · exact List.head_eq_of_cons_eq h

/-- The state in which the access of one lane has been served. -/
def State.accessed (s : State) (x : Issue) (a : LaneAcc) (y : Waiter) (narrow : Bool) : State :=
  (x.settled ((if narrow then s.trackSlices x.core x.warp (maskOf 8 (slicesOf x.acting)) else s).arriveTag a.home.core y)).park x [] .fullEmpty

theorem State.fullEmpty_one {s : State} {x : Issue} {f : FmtM} {full keep : Bool} {a : LaneAcc} (hagain : x.again = false)
    (hlanes : memLanes f x.acting = [a.lane]) (hserved : bitAt ((s.warp x.core x.warp).slice (a.lane / 4)).served (a.lane % 4) = false)
    (hcheck : s.checkLanes x [a.lane] (s.checkLane x f (if full then .read else .write)) = .ok [a])
    (hafter : (s.orderAfter (s.request x f (if full then .load else .store) a x.acting 0)).any s.awaited = false)
    (hrel : (s.narrowRelease (s.request x f (if full then .load else .store) a x.acting 0)
      && s.unleft (s.warp x.core x.warp).uid (maskOf 8 (slicesOf x.acting))) = false)
    (hbad : ∀ d, (s.core d).bad = []) {y : Waiter} (hy : y = s.bankAccess x f full keep a) (hp : (s.core a.home.core).scrPoisonAt y.ofs y.len = none)
    {narrow : Bool} (hn : narrow = s.narrowRelease (s.request x f (if full then .load else .store) a x.acting 0))
    (hnone : (x.settled ((if narrow then s.trackSlices x.core x.warp (maskOf 8 (slicesOf x.acting)) else s).arriveTag a.home.core y)).noneWait) :
    s.fullEmpty x f full keep = .go (s.accessed x a y narrow) (x.slices.map fun n => (n, x.next)) := by
  have hv : (if isK f.v && decide (a.lane ≠ x.acting.headD 0) then 0xFF#8 else f.v) = f.v := by
    rw [headD_of_memLanes hlanes]
    simp
  have htodo : ([a.lane].filter fun l => !bitAt ((s.warp x.core x.warp).slice (l / 4)).served (l % 4)) = [a.lane] := by simp [hserved]
  have hheld : (x.slices.filter fun n => (x.settled ((if narrow then s.trackSlices x.core x.warp (maskOf 8 (slicesOf x.acting)) else s).arriveTag
      a.home.core y)).waitsAtBank x.core x.warp n) = [] := by
    refine List.filter_eq_nil_iff.2 fun n _ => ?_
    rw [hnone.waitsAtBank]
    nofun
  rw [State.bankAccess] at hy
  rw [← hn] at hrel
  unfold State.fullEmpty
  simp only [hagain, Bool.false_and, Bool.false_eq_true, if_false, hlanes, htodo, List.isEmpty_cons, hcheck, List.map_cons, List.map_nil,
    List.any_cons, List.any_nil, Bool.or_false, hafter, ← hn, hrel, Bool.or_self, List.headD_cons, if_true, hv, ← hy, List.foldl_cons, List.foldl_nil,
    State.meetScr_of_bad (hbad _), List.findSome?_cons, List.findSome?_nil, hp, Option.map_none, hheld, List.contains_nil, Bool.not_false,
    List.filter_true]
  rfl

theorem Warp.slice_of_mem_actingLanes {v : Warp} {ms : List Nat} {gd : BitVec 4} {l : Nat} (h : l ∈ v.actingLanes ms gd) : l / 4 ∈ ms := by
  obtain ⟨n, hn, hl⟩ := List.mem_flatMap.1 h
  obtain ⟨q, hq, rfl⟩ := List.mem_map.1 (List.mem_of_mem_filter hl)
  have hq4 := List.mem_range.1 (List.mem_of_mem_filter hq)
  rwa [show (4 * n + q) / 4 = n by omega]

theorem mem_of_memLanes {f : FmtM} {acting : List Nat} {lane : Nat} (h : memLanes f acting = [lane]) : lane ∈ acting := by
  have hl : lane ∈ memLanes f acting := h ▸ List.mem_singleton_self lane
  unfold memLanes at hl
  split at hl
  · exact List.mem_of_mem_take hl
  · exact hl

/-- The slices that an access stands for are of the gang. -/
theorem mem_slices_of_memMask {s : State} {c w j : Nat} {i : Instr} {f : FmtM} {lane n : Nat}
    (h : memLanes f (s.gangIssue c w j i).acting = [lane]) (hn : n < 8) (hb : bitAt (memMask f (s.gangIssue c w j i).acting lane) n = true) :
    n ∈ (s.gangIssue c w j i).slices := by
  rw [memMask, bitAt_maskOf _ hn, decide_eq_true_eq] at hb
  split at hb
  · obtain ⟨l, hl, rfl⟩ := List.mem_map.1 hb
    exact Warp.slice_of_mem_actingLanes hl
  · rw [List.mem_singleton.1 hb]
    exact Warp.slice_of_mem_actingLanes (mem_of_memLanes h)

theorem State.cores_leave (s : State) (ids : List Nat) : (s.leave ids).cores = s.cores := by
  unfold State.leave
  split <;> rfl

theorem State.cores_trackSlices (s : State) (c w : Nat) (m : BitVec 8) : (s.trackSlices c w m).cores = s.cores := State.cores_leave _ _

theorem State.noneWait.settled {s : State} (h : s.noneWait) (x : Issue) : (x.settled s).noneWait := h.modCore fun _ => rfl

theorem keepsScr_settled (x : Issue) (s : State) : keepsScr s (x.settled s) := keepsScr_setCore s x.core (s.core x.core).waiters _

theorem keepsScr_park (s : State) (x : Issue) (p : Park) : keepsScr s (s.park x [] p) := keepsScr_modWarp s _ _ rfl fun _ => rfl

/-- The access of one lane served, its gang going on, is that access served. -/
theorem State.servedAt_accessed {s : State} {x : Issue} {a : LaneAcc} {y : Waiter} (narrow : Bool)
    (h : ∀ s', s'.cores = s.cores → servedAt s' (s'.arriveTag a.home.core y) a.home.core y) :
    servedAt s (s.accessed x a y narrow) a.home.core y
    ∧ (x.settled ((if narrow then s.trackSlices x.core x.warp (maskOf 8 (slicesOf x.acting)) else s).arriveTag a.home.core y)).noneWait := by
  have hcores : (if narrow then s.trackSlices x.core x.warp (maskOf 8 (slicesOf x.acting)) else s).cores = s.cores := by
    split
    · exact State.cores_trackSlices _ _ _ _
    · rfl
  have hmem : (if narrow then s.trackSlices x.core x.warp (maskOf 8 (slicesOf x.acting)) else s).mem = s.mem := by
    split
    · exact State.trackSlices_mem _ _ _ _
    · rfl
  have harrive := servedAt.of_before (keepsScr_of_cores hcores fun _ _ => by rw [hmem]) (h _ hcores)
  have hnone := harrive.noneWait.settled x
  exact ⟨harrive.to_after ((keepsScr_settled x _).trans (keepsScr_park _ x .fullEmpty)) hnone.modWarp, hnone⟩

section OneLane

variable {s : State} {c w j : Nat} {i : Instr} {f : FmtM} {full keep : Bool} {a : LaneAcc}
  (hready : s.gangReady c w j i = true) (hnone : s.noneWait) (hagain : (s.gangIssue c w j i).again = false)
  (hlanes : memLanes f (s.gangIssue c w j i).acting = [a.lane])
  (hserved : bitAt ((s.warp c w).slice (a.lane / 4)).served (a.lane % 4) = false)
  (hpark : ∀ n ∈ (s.gangIssue c w j i).slices, ((s.warp c w).slice n).park ≠ .fullEmpty)
  (hcheck : s.checkLanes (s.gangIssue c w j i) [a.lane] (s.checkLane (s.gangIssue c w j i) f (if full then .read else .write)) = .ok [a])
  (hafter : (s.orderAfter (s.request (s.gangIssue c w j i) f (if full then .load else .store) a (s.gangIssue c w j i).acting 0)).any s.awaited =
    false)
  (hrel : (s.narrowRelease (s.request (s.gangIssue c w j i) f (if full then .load else .store) a (s.gangIssue c w j i).acting 0)
    && s.unleft (s.warp c w).uid (maskOf 8 (slicesOf (s.gangIssue c w j i).acting))) = false)
  (htags : ∀ n ∈ tagWords a.home.addr (f.sz == 3), (s.core a.home.core).scrTag n = full)
  (hp : (s.core a.home.core).scrPoisonAt a.home.addr (if f.sz = 3 then 8 else 4) = none) (hbars : (s.core a.home.core).bars = [])
  (hsize : a.home.addr + (if f.sz = 3 then 8 else 4) ≤ (s.core a.home.core).scrSize) (hkeep : keep = true → full = true)
include hready hnone hagain hlanes hserved hpark hcheck hafter hrel htags hp hbars hsize hkeep

/-- A full/empty access of one lane whose tags are as its condition asks is served at once, and every slice of the gang goes on. -/
theorem State.fullEmpty_goes : ∃ t : State,
    s.issueLane i (fun x t => t.fullEmpty x f full keep) =
      .next (s.gangGoes c w j i t ((s.gangIssue c w j i).slices.map fun n => (n, (s.gangIssue c w j i).next)))
    ∧ servedAt s t a.home.core (s.bankAccess (s.gangIssue c w j i) f full keep a) := by
  obtain ⟨-, -, -, -, -, -, -, hsound⟩ := (s.gangReady_iff c w j i).1 hready
  have hlen : (s.bankAccess (s.gangIssue c w j i) f full keep a).len = if f.sz = 3 then 8 else 4 := by
    simp [Waiter.len, State.bankAccess]
  rw [← hlen] at hp hsize
  have harrive : ∀ s' : State, s'.cores = s.cores → servedAt s' (s'.arriveTag a.home.core (s.bankAccess (s.gangIssue c w j i) f full keep a))
      a.home.core (s.bankAccess (s.gangIssue c w j i) f full keep a) := by
    intro s' hc
    have hcore : ∀ d, s'.core d = s.core d := fun d => by rw [State.core, hc, ← State.core]
    refine State.servedAt_arriveTag (by unfold State.noneWait; rwa [hc]) (by rw [hcore]; exact State.sound_core hsound _) (by rwa [hcore])
      (by rwa [hcore]) (by rwa [hcore]) hkeep (by rw [hcore]; exact htags) fun n hn hb => ?_
    rw [State.warp, hcore]
    exact hpark n (mem_slices_of_memMask hlanes hn hb)
  obtain ⟨hdone, hsettled⟩ := State.servedAt_accessed (x := s.gangIssue c w j i)
    (s.narrowRelease (s.request (s.gangIssue c w j i) f (if full then .load else .store) a (s.gangIssue c w j i).acting 0)) harrive
  refine ⟨_, ?_, hdone⟩
  exact s.issueLane_go _ c w j i _ _ hready
    (State.fullEmpty_one hagain hlanes hserved hcheck hafter hrel (State.sound_core hsound) rfl hp rfl hsettled)

end OneLane

/-- The statement on LDF, LDFK and STF (R86, R301, R303) holds where the list of cores is in the canonical form: there no access waits if a lookup
finds none at any core. The state of `Tests.witness_FullEmptyComplete`, which lists one core, meets the premises. -/
theorem fullEmptyComplete_of_wf (s : State) (hwf : Sparse.wf Core.reset s.cores = true) (c w j lane : Nat) (f : FmtM) (i : Instr) (a : LaneAcc)
    (hi : i ∈ [.ldf f, .ldfk f, .stf f]) :
    let x := s.gangIssue c w j i
    let full := !(i == .stf f)
    let len := if f.sz = 3 then 8 else 4
    let k := s.core a.home.core
    let words := tagWords a.home.addr (f.sz == 3)
    s.gangReady c w j i = true → x.again = false → memLanes f x.acting = [lane] →
    bitAt ((s.warp c w).slice (lane / 4)).served (lane % 4) = false → (∀ n ∈ x.slices, ((s.warp c w).slice n).park ≠ .fullEmpty) →
    s.checkLanes x [lane] (s.checkLane x f (if full then .read else .write)) = .ok [a] →
    (s.orderAfter (s.request x f (if full then .load else .store) a x.acting 0)).any s.awaited = false →
    (s.narrowRelease (s.request x f (if full then .load else .store) a x.acting 0)
      && s.unleft (s.warp c w).uid (maskOf 8 (slicesOf x.acting))) = false →
    (∀ d, (s.core d).waiters = []) → (∀ n ∈ words, k.scrTag n = full) → k.scrPoisonAt a.home.addr len = none → k.bars = [] →
    a.home.addr + len ≤ k.scrSize → a.lane = lane →
    ∃ t : State, exec i s = .next (s.gangGoes c w j i t (x.slices.map fun n => (n, x.next)))
      ∧ (full = true → (t.warp c w).rf = (s.warp c w).rf.writeD (len / 4) f.v lane (BitVec.ofNat 64 (k.scrNat a.home.addr len)))
      ∧ (full = false → (t.warp c w).rf = (s.warp c w).rf)
      ∧ (∀ n ∈ words, (t.core a.home.core).scrTag n = if i = .ldfk f then true else !full)
      ∧ (∀ b, b < k.scrSize → (t.core a.home.core).scrByte b =
          if full = false ∧ a.home.addr ≤ b ∧ b < a.home.addr + len
          then BitVec.ofNat 8 (((s.warp c w).rf.readD (nregSz f.sz) f.v lane).toNat / 256 ^ (b - a.home.addr)) else k.scrByte b)
      ∧ (∀ loc b, t.mem.byte loc b = s.mem.byte loc b) := by
  intro x full len k words hready hagain hlanes hserved hpark hcheck hafter hrel hwait htags hp hbars hsize ha
  subst ha
  have hexec : ∃ keep : Bool, exec i s = s.issueLane i (fun x t => t.fullEmpty x f full keep) ∧ (keep = true ↔ i = .ldfk f) := by
    simp only [List.mem_cons, List.not_mem_nil, or_false] at hi
    rcases hi with rfl | rfl | rfl
    · exact ⟨false, rfl, by simp⟩
    · exact ⟨true, rfl, by simp⟩
    · refine ⟨false, ?_, by simp⟩
      have hfull : full = false := by simp [full]
      rw [hfull]
      rfl
  obtain ⟨keep, hexec, hkeep⟩ := hexec
  have hreads : keep = true → full = true := fun h => by
    have hne : i ≠ .stf f := by rw [hkeep.1 h]; nofun
    simpa [full] using hne
  obtain ⟨t, ht, hdone⟩ := State.fullEmpty_goes hready (State.noneWait_of_wf hwf hwait) hagain hlanes hserved hpark hcheck hafter hrel htags hp hbars
    hsize hreads
  have hlen : (s.bankAccess x f full keep a).len = len := by simp [Waiter.len, State.bankAccess, len]
  refine ⟨t, hexec.trans ht, fun h => ?_, fun h => ?_, fun n hn => ?_, fun b hb => ?_, hdone.byte⟩
  · rw [← hlen]
    exact hdone.rf.trans (if_pos h)
  · exact hdone.rf.trans (if_neg (by rw [show (s.bankAccess x f full keep a).full = full from rfl, h]; nofun))
  · rw [hdone.tag n hn, htags n hn]
    by_cases hk : i = .ldfk f
    · rw [if_pos hk]
      exact (if_pos (hkeep.2 hk)).trans (hreads (hkeep.2 hk))
    · rw [if_neg hk]
      exact if_neg (mt hkeep.1 hk)
  · rw [← hlen]
    exact hdone.scr b hb

end Sys2Proof.Machine
end

section
/-!
PROOFS. Full/empty accesses where the list of cores names a core twice: the statement on accesses served at once fails there, and the device on
which it does.
-/

namespace Sys2Proof.Machine

/-- A core of one scratchpad unit with one live warp, whose slices run. -/
def bankCore : Core := { Core.reset with pword := 0x100, warps := [(0, { Warp.absent with live := true })] }

/-- An access of slice 0 of that warp, which waits for word 0 to be full. -/
def staleWaiter : Waiter :=
  { core := 0, warp := 0, slice := 0, slices := 1, lane := 0, ofs := 0, two := false, full := true, keep := false, sys := false,
    v := 0xFF, data := 0, next := 0, pc := 0, opw := 0, conf := 0 }

/-- A device whose list of cores names core 0 twice, so that it is not in the canonical form, in which keys rise. A lookup reads the first entry,
where nothing waits; in the second one `staleWaiter` waits. -/
def coreTwice : State := { State.reset with
  cur := .gang 0 0 0, cores := [(0, bankCore), (0, { bankCore with waiters := [staleWaiter] })], ctxs := [(0, { Ctx.none with st := .running })] }

/-- STF of one word, of gz to offset 0, under the guard pt. -/
def storeZero : FmtM := ⟨0, 7, 0xFF, 0xFF, 0, 2, 1, 0, 0, 0, 0, 0, 0, 0, 0⟩

theorem coreTwice_core (d : Nat) : coreTwice.core d = if d = 0 then bankCore else Core.reset := by
  cases d <;> rfl

theorem coreTwice_ready : coreTwice.gangReady 0 0 0 (.stf storeZero) = true := by decide

/-- Slice 0 parks: the access in the second entry is its own. -/
theorem exec_stf_coreTwice : ∃ u, exec (.stf storeZero) coreTwice = .next u ∧ ((u.warp 0 0).slice 0).st = .parked :=
  ⟨_, coreTwice.issueLane_gang 0 0 0 _ _ coreTwice_ready, by decide +kernel⟩

/-- Refutes O21: its premise that nothing waits at a bank speaks of the cores as a lookup finds them, while an access waits wherever the list of
cores has it (`State.waitsAtBank`). On `coreTwice` every lookup finds nothing waiting, and slice 0 does not go on, but parks. Where the list of
cores is canonical the statement holds: `fullEmptyComplete_of_wf`. -/
theorem not_fullEmptyComplete : ¬ Obligations.FullEmptyComplete := by
  unfold Obligations.FullEmptyComplete
  intro h
  obtain ⟨u, hu, hparked⟩ := exec_stf_coreTwice
  have hwait : ∀ d, (coreTwice.core d).waiters = [] := by
    intro d
    rw [coreTwice_core]
    split <;> rfl
  obtain ⟨t, ht, -⟩ := h coreTwice 0 0 0 0 storeZero (.stf storeZero) ⟨0, 0, ⟨3, 0, 0⟩, 0, 0⟩ (by simp) coreTwice_ready (by decide) (by decide)
    (by decide) (by decide) rfl (by decide) (by decide) hwait (by decide) (by decide) rfl (by decide) (by decide) rfl
  rw [hu] at ht
  obtain rfl := Host.Outcome.next.inj ht
  exact State.st_gangGoes _ _ _ _ _ _ (by decide) hparked

end Sys2Proof.Machine
end

section
/-!
PROOFS. The frame of the vector ALU instructions (R94, R95, R326): the registers and predicates that an instruction names as its destinations
cover every one that it writes.
-/

namespace Sys2Proof.Machine

/-! ## What a change of the registers stays within -/

/-- `t` differs from `r` at most in the g registers `G`, the k registers `K` and the predicates `P`, by number and lane. -/
structure RF.within (G : Nat → Nat → Prop) (K : Nat → Prop) (P : Nat → Nat → Prop) (r t : RF) : Prop where
  g : ∀ n l, l < 32 → ¬ G n l → t.readG n l = r.readG n l
  k : ∀ n, ¬ K n → t.readK n = r.readK n
  p : ∀ q l, l < 32 → ¬ P q l → t.readP q l = r.readP q l

section Within

variable {G : Nat → Nat → Prop} {K : Nat → Prop} {P : Nat → Nat → Prop}

theorem RF.within_refl (r : RF) : RF.within G K P r r := ⟨fun _ _ _ _ => rfl, fun _ _ => rfl, fun _ _ _ _ => rfl⟩

theorem RF.within.trans {r t u : RF} (h : RF.within G K P r t) (h' : RF.within G K P t u) : RF.within G K P r u where
  g n l hl hn := (h'.g n l hl hn).trans (h.g n l hl hn)
  k n hn := (h'.k n hn).trans (h.k n hn)
  p q l hl hq := (h'.p q l hl hq).trans (h.p q l hl hq)

/-- A fold of changes stays within what each of them stays within. -/
theorem RF.within_foldl {β : Type} (ls : List β) {step : RF → β → RF} (h : ∀ r, ∀ b ∈ ls, RF.within G K P r (step r b)) (r : RF) :
    RF.within G K P r (ls.foldl step r) := by
  induction ls generalizing r with
  | nil => exact RF.within_refl r
  | cons b ls ih => exact (h r b List.mem_cons_self).trans (ih (fun r b hb => h r b (List.mem_cons_of_mem _ hb)) _)

theorem RF.within_write1 (r : RF) {c : BitVec 8} {l : Nat} (v : Word) (hl : l < 32) (hG : isG c = true → G c.toNat l)
    (hK : isK c = true → K (kIdx c)) : RF.within G K P r (r.write1 c l v) := by
  cases hz : isGz c with
  | true => rw [RF.write1, if_pos hz]; exact RF.within_refl r
  | false =>
    rcases isG_or_isK hz with hc | hc
    · rw [RF.write1_of_isG _ _ _ hc]
      refine ⟨fun n m hm hn => ?_, fun _ _ => rfl, fun _ _ _ _ => rfl⟩
      rw [RF.readG_writeG _ _ _ _ _ _ hl hm, if_neg]
      rintro ⟨rfl, rfl⟩
      exact hn (hG hc)
    · rw [RF.write1_of_isK _ _ _ hc]
      refine ⟨fun _ _ _ _ => rfl, fun n hn => ?_, fun _ _ _ _ => rfl⟩
      rw [RF.readK_writeK, if_neg]
      exact fun e => hn (e ▸ hK hc)

theorem RF.within_writeP (r : RF) {p l : Nat} (b : Bool) (hl : l < 32) (hP : P p l) : RF.within G K P r (r.writeP p l b) := by
  refine ⟨fun n m _ _ => r.readG_writeP p l b n m, fun n _ => r.readK_writeP p l b n, fun q m hm hq => ?_⟩
  by_cases hp : p = 7
  · rw [hp, RF.writeP_pt]
  · rw [RF.readP_writeP_low _ _ _ _ _ _ hp hl hm, if_neg]
    rintro ⟨rfl, rfl⟩
    exact hq hP

/-- A register or a pair: its registers are those that its code covers (R96). -/
theorem RF.within_writeD (r : RF) {n : Nat} {c : BitVec 8} {l : Nat} (v : DWord) (hn : n = 1 ∨ n = 2) (hok : codeOk n c = true) (hl : l < 32)
    (hG : isG c = true → ∀ m, c.toNat ≤ m → m < c.toNat + n → G m l) (hK : isK c = true → ∀ m, kIdx c ≤ m → m < kIdx c + n → K m) :
    RF.within G K P r (r.writeD n c l v) := by
  rcases hn with rfl | rfl
  · exact RF.within_write1 r _ hl (fun h => hG h _ (by omega) (by omega)) (fun h => hK h _ (by omega) (by omega))
  · cases hz : isGz c with
    | true => simp only [RF.writeD, RF.write2, hz, if_true]; exact RF.within_refl r
    | false =>
      have hlt : c.toNat + 2 ≤ 0xFE := toNat_add_le_of_codeOk (by decide) hok hz
      have hup : (c + 1).toNat = c.toNat + 1 := by bv_omega
      have hlow := RF.within_write1 (P := P) r (v.setWidth 32) hl (fun h => hG h _ (by omega) (by omega)) (fun h => hK h _ (by omega) (by omega))
      rw [RF.writeD, if_neg (by decide), RF.write2_of_not_gz r l v hz]
      refine hlow.trans (RF.within_write1 _ _ hl (fun h => ?_) (fun h => ?_))
      · rw [isG_iff] at h
        exact hG ((isG_iff c).mpr (by omega)) _ (by omega) (by omega)
      · rcases isG_or_isK hz with hc | hc
        · simp only [codeOk, hz, isK, isG_iff, Bool.false_or, Bool.or_eq_true, Bool.and_eq_true, decide_eq_true_eq, beq_iff_eq] at h hok hc
          omega
        · rw [isK_iff] at hc
          exact hK ((isK_iff c).mpr hc) _ (by unfold kIdx; omega) (by unfold kIdx; omega)

/-- A destination in every acting lane (R94, R95). -/
theorem RF.within_writeLanes (r : RF) {n : Nat} {c : BitVec 8} {ls : List Nat} (v : Nat → DWord) (hn : n = 1 ∨ n = 2) (hok : codeOk n c = true)
    (hls : ∀ l ∈ ls, l < 32) (hG : isG c = true → ∀ m, c.toNat ≤ m → m < c.toNat + n → ∀ l ∈ ls, G m l)
    (hK : isK c = true → ∀ m, kIdx c ≤ m → m < kIdx c + n → K m) : RF.within G K P r (r.writeLanes n c ls v) := by
  have hlane : ∀ r, ∀ l ∈ ls, RF.within G K P r (r.writeD n c l (v l)) := fun r l hl =>
    RF.within_writeD r (v l) hn hok (hls l hl) (fun h m h1 h2 => hG h m h1 h2 l hl) hK
  unfold RF.writeLanes
  split
  · cases ls with
    | nil => exact RF.within_refl r
    | cons l _ => exact hlane r l List.mem_cons_self
  · exact RF.within_foldl ls hlane r

theorem RF.within_writePreds (r : RF) {p : Nat} {ls : List Nat} (v : Nat → Bool) (hls : ∀ l ∈ ls, l < 32) (hP : ∀ l ∈ ls, P p l) :
    RF.within G K P r (r.writePreds p ls v) :=
  RF.within_foldl ls (fun r l hl => RF.within_writeP r (v l) (hls l hl) (hP l hl)) r

/-- The predicates that a mask selects (R332). -/
theorem RF.within_setPreds (r : RF) {mask l : Nat} (v : Word) (hl : l < 32) (hP : ∀ n, n < 7 → mask / 2 ^ n % 2 = 1 → P n l) :
    RF.within G K P r (r.setPreds mask v l) := by
  refine RF.within_foldl _ (fun r n hn => ?_) r
  split
  · next h => exact RF.within_writeP r _ hl (hP n (List.mem_range.mp hn) h)
  · exact RF.within_refl r

end Within

/-! ## What the function of an instruction writes -/

theorem nreg_eq (ty : BitVec 4) : nreg ty = 1 ∨ nreg ty = 2 := by
  unfold nreg
  split
  · exact .inr rfl
  · exact .inl rfl

theorem predCode_eq (c : BitVec 8) : predCode c = c.toNat % 8 := by simp [predCode, fieldN]

/-- A bit of a field is a bit of the word. -/
theorem bitAt_of_fieldN {w : Nat} (x : BitVec w) {lo len n : Nat} (hn : n < len) (h : fieldN x lo len / 2 ^ n % 2 = 1) :
    bitAt x (lo + n) = true := by
  have hbit : (fieldN x lo len).testBit n = true := by rw [Nat.testBit_eq_decide_div_mod_eq, decide_eq_true h]
  simp only [fieldN, Nat.testBit_mod_two_pow, hn, decide_true, Bool.true_and, Nat.testBit_div_two_pow] at hbit
  rw [Nat.add_comm] at hbit
  exact hbit

/-- The function writes one register or pair, in the lanes in which it acts. -/
def writesReg (g : RF → List Nat → RF) (n : Nat) (d : BitVec 8) : Prop := ∃ v : RF → List Nat → Nat → DWord, ∀ r ls, g r ls = r.writeLanes n d ls (v r ls)

/-- The function writes one predicate, in the lanes in which it acts. -/
def writesPred (g : RF → List Nat → RF) (p : Nat) : Prop := ∃ v : RF → List Nat → Nat → Bool, ∀ r ls, g r ls = r.writePreds p ls (v r ls)

/-- A vector ALU instruction writes its destination, a register or a pair; or its destination, a predicate; or it is PMOV_SET, which writes several
predicates (R332). -/
theorem aluOf_writes {i : Instr} {g : RF → List Nat → RF} (h : aluOf i = some g) :
    (∃ n d, (n = 1 ∨ n = 2) ∧ ⟨d, n, .dst, false⟩ ∈ operands i ∧ writesReg g n d)
    ∨ (∃ p, (p, .dst) ∈ predOperands i ∧ writesPred g p)
    ∨ ∃ f, i = .pmovSet f ∧ g = rfPmovSet f := by
  cases i
  case pmovSet f => exact .inr (.inr ⟨f, rfl, (Option.some.inj h).symm⟩)
  case icmp | icmpi | fcmp | vall | vany =>
    cases h
    exact .inr (.inl ⟨_, List.mem_cons_self, _, fun _ _ => by rw [← predCode_eq]; rfl⟩)
  case pmovGet | vbal | matchany | matchall =>
    cases h
    exact .inl ⟨1, _, .inl rfl, List.mem_cons_self, _, fun _ _ => rfl⟩
  case iadd f | isub f | imul f | imin f | imax f | idif f | imulh f | imad f | and f | or f | xor f | andn f | shl f | shr f | shra f | rotl f
      | popc f | clz f | brev f | prmt f | sel f | lea f | bfe f | bfi f | iaddImm f | isubImm f | imulImm f | iminImm f | imaxImm f | idifImm f
      | imulhImm f | andImm f | orImm f | xorImm f | andnImm f | shlImm f | shrImm f | shraImm f | rotlImm f | bfeImm f | mov f | movi f
      | fadd f | fsub f | fmul f | fmin f | fmax f | ffma f | faddImm f | fsubImm f | fmulImm f | fminImm f | fmaxImm f | ffmaImm f
      | frcp f | frsq f | fsqrt f | fexp2 f | flog2 f | fsin f | fcos f | ftanh f | cvt f | frnd f | shfli f | shflu f | shfld f | shflx f | redux f =>
    cases h
    exact .inl ⟨nreg f.ty, _, nreg_eq f.ty, List.mem_cons_self, _, fun _ _ => rfl⟩
  all_goals nomatch h

/-! ## The frame -/

/-- The g registers, k registers and predicates that an instruction names as its destinations, in the lanes in which it acts. -/
def dstG (i : Instr) (ls : List Nat) (n l : Nat) : Prop :=
  l ∈ ls ∧ ∃ o ∈ operands i, o.role = .dst ∧ isG o.code = true ∧ o.code.toNat ≤ n ∧ n < o.code.toNat + o.n
def dstK (i : Instr) (n : Nat) : Prop := ∃ o ∈ operands i, o.role = .dst ∧ isK o.code = true ∧ kIdx o.code ≤ n ∧ n < kIdx o.code + o.n
def dstP (i : Instr) (ls : List Nat) (p l : Nat) : Prop := l ∈ ls ∧ (p, .dst) ∈ predOperands i

theorem codeOk_of_legal {st : Stream} {i : Instr} (h : legal st i = true) {o : Opnd} (ho : o ∈ operands i) : codeOk o.n o.code = true := by
  have hall := List.all_eq_true.mp (Bool.and_eq_true_iff.mp h).2 o ho
  exact (Bool.and_eq_true_iff.mp (Bool.and_eq_true_iff.mp hall).1).1

/-- A legal vector ALU instruction changes its destinations alone. -/
theorem aluOf_within {st : Stream} {i : Instr} {g : RF → List Nat → RF} (h : aluOf i = some g) (hok : legal st i = true) (r : RF) {ls : List Nat}
    (hls : ∀ l ∈ ls, l < 32) : RF.within (dstG i ls) (dstK i) (dstP i ls) r (g r ls) := by
  rcases aluOf_writes h with ⟨n, d, hn, ho, v, hv⟩ | ⟨p, hp, v, hv⟩ | ⟨f, rfl, rfl⟩
  · rw [hv]
    exact RF.within_writeLanes r _ hn (codeOk_of_legal hok ho) hls (fun hc m h1 h2 l hl => ⟨hl, _, ho, rfl, hc, h1, h2⟩)
      (fun hc m h1 h2 => ⟨_, ho, rfl, hc, h1, h2⟩)
  · rw [hv]
    exact RF.within_writePreds r _ hls fun l hl => ⟨hl, hp⟩
  · refine RF.within_foldl ls (fun t l hl => RF.within_setPreds t _ (hls l hl) fun n hn hm => ⟨hl, ?_⟩) r
    have hbit : bitAt f.imm16 (8 + n) = true := bitAt_of_fieldN f.imm16 hn hm
    simp [predOperands, hn, hbit]

theorem RF.writeLanes_nil (r : RF) (n : Nat) (c : BitVec 8) (v : Nat → DWord) : r.writeLanes n c [] v = r := by
  unfold RF.writeLanes
  split <;> rfl

/-- Where it acts in no lane it changes nothing, a k destination included (R95). -/
theorem aluOf_no_lane {i : Instr} {g : RF → List Nat → RF} (h : aluOf i = some g) (r : RF) : g r [] = r := by
  rcases aluOf_writes h with ⟨n, d, -, -, v, hv⟩ | ⟨p, -, v, hv⟩ | ⟨f, -, rfl⟩
  · rw [hv, RF.writeLanes_nil]
  · rw [hv]; rfl
  · rfl

end Sys2Proof.Machine
end

section
/-!
PROOFS. The completion of an instruction of a gang and its frame (R212, R217, R390): what it changes of the warp, what it leaves of the device, and
the statement on the vector ALU's frame.
-/

namespace Sys2Proof.Machine

/-! ## The slices of a gang go on -/

/-- A fold of changes of slices, each of its own. -/
theorem Warp.slice_foldl_modSlice {ms : List Nat} (hms : ms.Nodup) (f : Nat → Slice → Slice) (w : Warp) (k : Nat) :
    (ms.foldl (fun v j => v.modSlice j (f j)) w).slice k = if k ∈ ms then f k (w.slice k) else w.slice k := by
  induction ms generalizing w with
  | nil => rfl
  | cons j ms ih =>
    obtain ⟨hj, hms⟩ := List.nodup_cons.mp hms
    rw [List.foldl_cons, ih hms, Warp.slice_modSlice]
    by_cases hk : k = j
    · subst hk; simp [hj]
    · simp [hk]

theorem Warp.slice_part {ms : List Nat} (hms : ms.Nodup) (w : Warp) (now : DWord) (first : Bool) (k : Nat) :
    ∃ gang issued, (w.part ms now first).slice k = if k ∈ ms then { w.slice k with gang := gang, issued := issued } else w.slice k :=
  ⟨_, _, Warp.slice_foldl_modSlice hms _ w k⟩

/-- Every slice of the list goes on at the address, and only its gang and its age are set besides. -/
theorem Warp.slice_advance {ms : List Nat} (hms : ms.Nodup) (w : Warp) (pc now : DWord) (first : Bool) (k : Nat) :
    ∃ gang issued, (w.advance ms (ms.map fun j => (j, pc)) now first).slice k =
      if k ∈ ms then { (w.slice k).goto pc with gang := gang, issued := issued } else w.slice k := by
  obtain ⟨gang, issued, h⟩ := Warp.slice_part hms ((ms.map fun j => (j, pc)).foldl (fun v p => v.modSlice p.1 fun x => x.goto p.2) w) now first k
  refine ⟨gang, issued, h.trans ?_⟩
  rw [List.foldl_map, Warp.slice_foldl_modSlice hms (fun _ x => x.goto pc)]
  split <;> rfl

theorem Warp.nodup_gangOf (w : Warp) (j : Nat) : (w.gangOf j).Nodup := List.nodup_range.filter _

theorem Warp.foldl_modSlice_eq {β : Type} (l : List β) (key : β → Nat) (f : β → Slice → Slice) (w : Warp) :
    ∃ slices, l.foldl (fun v b => v.modSlice (key b) (f b)) w = { w with slices := slices } := by
  induction l generalizing w with
  | nil => exact ⟨_, rfl⟩
  | cons b l ih => exact ih (w.modSlice (key b) (f b))

theorem Warp.advance_eq (w : Warp) (ms : List Nat) (next : List (Nat × DWord)) (now : DWord) (first : Bool) :
    ∃ slices, w.advance ms next now first = { w with slices := slices } := by
  obtain ⟨_, hgoto⟩ := Warp.foldl_modSlice_eq next Prod.fst (fun p x => x.goto p.2) w
  rw [Warp.advance, hgoto, Warp.part]
  exact Warp.foldl_modSlice_eq ms id _ _

/-! ## Rows and registers written -/

/-- Whether a row is poisoned after rows are written whole. -/
theorem Sparse.get_foldl_rows (pg : Sparse Bool) (rows : List Nat) (m : Sparse Bool) (r : Nat) :
    Sparse.get false (rows.foldl (fun m r => if Sparse.get false pg r then m else Sparse.set false m r false) m) r =
      (Sparse.get false m r && (!rows.contains r || Sparse.get false pg r)) := by
  induction rows generalizing m with
  | nil => simp
  | cons a rows ih =>
    rw [List.foldl_cons, ih]
    by_cases hr : r = a
    · subst hr
      cases hp : Sparse.get false pg r <;> simp
    · split <;> simp [hr, Sparse.get_set_ne _ _ _ hr]

theorem Warp.rp_rowsDone (v : Warp) (rows : List Nat) (r : Nat) :
    Sparse.get false (v.rowsDone rows).rp r = (Sparse.get false v.rp r && (!rows.contains r || Sparse.get false v.pg r)) := by
  unfold Warp.rowsDone
  split
  · next h => rw [List.isEmpty_iff.mp h]; rfl
  · exact Sparse.get_foldl_rows v.pg rows v.rp r

theorem Warp.rowsDone_eq (v : Warp) (rows : List Nat) : ∃ rp, v.rowsDone rows = { v with rp := rp } := by
  unfold Warp.rowsDone
  split
  · exact ⟨_, rfl⟩
  · exact ⟨_, rfl⟩

theorem Warp.wrote_eq (v : Warp) (ws : List (Nat × Nat)) : ∃ tch bad, v.wrote ws = { v with tch := tch, bad := bad } := by
  induction ws generalizing v with
  | nil => exact ⟨_, _, rfl⟩
  | cons q ws ih => exact ih _

/-! ## The warp whose instruction completes -/

/-- The warp after the completion of the instruction issued (R74, R79, R212). -/
def Warp.completed (v : Warp) (x : Issue) (now : DWord) : Warp :=
  ((v.rowsDone x.rows).wroteNow x.writes).advance x.slices (x.slices.map fun j => (j, x.next)) now !x.again

section Completed

variable (v : Warp) (x : Issue) (now : DWord)

/-- Nothing of the warp changes but its slices, the poison of its rows, which of them are touched, and their symbols. -/
theorem Warp.completed_eq : ∃ rp tch bad slices, v.completed x now = { v with rp := rp, tch := tch, bad := bad, slices := slices } := by
  obtain ⟨rp, hrows⟩ := v.rowsDone_eq x.rows
  obtain ⟨tch, bad, hwrote⟩ := Warp.wrote_eq { v with rp := rp } (x.writes.filter fun q => !Sparse.get false v.pg (8 * q.1 + q.2 / 4))
  obtain ⟨slices, hadvance⟩ := Warp.advance_eq { v with rp := rp, tch := tch, bad := bad } x.slices (x.slices.map fun j => (j, x.next)) now !x.again
  refine ⟨rp, tch, bad, slices, ?_⟩
  rw [Warp.completed, hrows, Warp.wroteNow, hwrote, hadvance]

theorem Warp.completed_rp (r : Nat) :
    Sparse.get false (v.completed x now).rp r = (Sparse.get false v.rp r && (!x.rows.contains r || Sparse.get false v.pg r)) := by
  obtain ⟨tch, bad, hwrote⟩ := (v.rowsDone x.rows).wrote_eq (x.writes.filter fun q => !Sparse.get false (v.rowsDone x.rows).pg (8 * q.1 + q.2 / 4))
  obtain ⟨slices, hadvance⟩ := Warp.advance_eq { v.rowsDone x.rows with tch := tch, bad := bad } x.slices (x.slices.map fun j => (j, x.next)) now !x.again
  rw [← v.rp_rowsDone, Warp.completed, Warp.wroteNow, hwrote, hadvance]

theorem Warp.completed_slice (hx : x.slices.Nodup) (k : Nat) :
    ∃ gang issued, (v.completed x now).slice k =
      if k ∈ x.slices then { (v.slice k).goto x.next with gang := gang, issued := issued } else v.slice k := by
  have hslice : ((v.rowsDone x.rows).wroteNow x.writes).slice k = v.slice k := by
    obtain ⟨rp, hrows⟩ := v.rowsDone_eq x.rows
    rw [Warp.slice, Warp.wroteNow, Warp.slices_wrote, hrows]
    rfl
  rw [← hslice]
  exact Warp.slice_advance hx _ x.next now _ k

end Completed

/-! ## The device beside the warp -/

/-- `t` differs from `s` at most in warp `w` of core `c`, in that core's CYCLE, and in how many open values have been taken. -/
structure besideWarp (c w : Nat) (s t : State) : Prop where
  device : ∃ cores n, t = { s with cores := cores, freeCtr := n }
  core : ∀ d, d ≠ c → t.core d = s.core d
  warp : ∀ v, v ≠ w → t.warp c v = s.warp c v
  rest : ({ t.core c with warps := [], cycle := 0 } : Core) = { s.core c with warps := [], cycle := 0 }

theorem besideWarp_refl (c w : Nat) (s : State) : besideWarp c w s s := ⟨⟨_, _, rfl⟩, fun _ _ => rfl, fun _ _ => rfl, rfl⟩

theorem besideWarp.trans {c w : Nat} {s t u : State} (h : besideWarp c w s t) (h' : besideWarp c w t u) : besideWarp c w s u where
  device := by
    obtain ⟨_, _, rfl⟩ := h.device
    obtain ⟨cores, n, rfl⟩ := h'.device
    exact ⟨cores, n, rfl⟩
  core d hd := (h'.core d hd).trans (h.core d hd)
  warp v hv := (h'.warp v hv).trans (h.warp v hv)
  rest := h'.rest.trans h.rest

theorem besideWarp_modCore (s : State) (c w : Nat) {f : Core → Core} (hw : ∀ v, v ≠ w → (f (s.core c)).warp v = (s.core c).warp v)
    (hr : ({ f (s.core c) with warps := [], cycle := 0 } : Core) = { s.core c with warps := [], cycle := 0 }) :
    besideWarp c w s (s.modCore c f) where
  device := ⟨_, _, rfl⟩
  core d hd := by rw [State.core_modCore, if_neg hd]
  warp v hv := by rw [State.warp, State.core_modCore_self]; exact hw v hv
  rest := by rw [State.core_modCore_self]; exact hr

theorem besideWarp_modWarp (s : State) (c w : Nat) (f : Warp → Warp) : besideWarp c w s (s.modWarp c w f) :=
  besideWarp_modCore s c w (fun v hv => by rw [Core.warp_modWarp, if_neg hv]) rfl

theorem besideWarp_bump (s : State) (c w : Nat) : besideWarp c w s s.bump := ⟨⟨_, _, rfl⟩, fun _ _ => rfl, fun _ _ => rfl, rfl⟩

theorem besideWarp_account (s : State) (c w : Nat) (p : Word) : besideWarp c w s (s.account c w p) :=
  (besideWarp_modCore s c w (fun v hv => by rw [Core.warp_modWarp, if_neg hv]; rfl) rfl).trans (besideWarp_bump _ c w)

theorem State.core_bump (s : State) (d : Nat) : s.bump.core d = s.core d := rfl

theorem State.warp_account (s : State) (c w : Nat) (p : Word) :
    ∃ n, (s.account c w p).warp c w = { s.warp c w with instret := (s.warp c w).instret + 1, pmcnt := n } := by
  refine ⟨if p = 1 then (s.warp c w).pmcnt + 1 else (s.warp c w).pmcnt, ?_⟩
  rw [State.account, State.warp, State.core_bump, State.core_modCore_self, Core.warp_modWarp_self]
  rfl

/-! ## The completion -/

/-- The first issue of an instruction counted (R217, R390); slices that re-enter a park have counted it before. -/
def State.counted (t : State) (x : Issue) (pmsel : Word) : State := if x.again then t else t.account x.core x.warp pmsel

theorem besideWarp_counted (t : State) (x : Issue) (p : Word) : besideWarp x.core x.warp t (t.counted x p) := by
  unfold State.counted
  split
  · exact besideWarp_refl _ _ t
  · exact besideWarp_account t _ _ p

/-- The same of the warp, with PMCNT at `n`. -/
def Warp.counted (v : Warp) (x : Issue) (n : DWord) : Warp := { v with instret := v.instret + (if x.again then 0 else 1), pmcnt := n }

theorem State.warp_counted (t : State) (x : Issue) (p : Word) :
    ∃ n, (t.counted x p).warp x.core x.warp = (t.warp x.core x.warp).counted x n := by
  unfold State.counted Warp.counted
  split
  · exact ⟨(t.warp x.core x.warp).pmcnt, by simp only [BitVec.ofNat_eq_ofNat, BitVec.add_zero]⟩
  · exact t.warp_account x.core x.warp p

/-- Slices that go on in a warp that is still resident afterwards. -/
theorem State.advance_of_live {s : State} {c w : Nat} {ms : List Nat} {next : List (Nat × DWord)} {first : Bool}
    (h : ((s.advance c w ms next first).warp c w).live = true) :
    s.advance c w ms next first = s.modWarp c w fun x => x.advance ms next (s.core c).cycle first := by
  unfold State.advance at h ⊢
  dsimp only at h ⊢
  split at h
  · rw [State.warp_warpExited] at h
    exact absurd h (by decide)
  · next hdone => rw [if_neg hdone]

section Live

variable {s t : State} {c w j : Nat} {i : Instr} (h : ((s.gangDone c w j i t).warp c w).live = true)
include h

theorem besideWarp_gangDone : besideWarp c w t (s.gangDone c w j i t) := by
  have hcounted := besideWarp_counted t (s.gangIssue c w j i) (s.warp c w).pmsel
  rw [State.gangDone, State.finishGang, State.advance_of_live h]
  exact hcounted.trans ((besideWarp_modWarp _ c w _).trans (besideWarp_modWarp _ c w _))

theorem State.warp_gangDone :
    ∃ n now, (s.gangDone c w j i t).warp c w = ((t.warp c w).counted (s.gangIssue c w j i) n).completed (s.gangIssue c w j i) now := by
  obtain ⟨n, hcounted⟩ : ∃ n, (t.counted (s.gangIssue c w j i) (s.warp c w).pmsel).warp c w = (t.warp c w).counted (s.gangIssue c w j i) n :=
    t.warp_counted (s.gangIssue c w j i) (s.warp c w).pmsel
  rw [State.gangDone, State.finishGang, State.advance_of_live h, State.warp_modWarp, if_pos ⟨rfl, rfl⟩, State.warp_modWarp, if_pos ⟨rfl, rfl⟩]
  exact ⟨n, _, congrArg (Warp.completed · (s.gangIssue c w j i) _) hcounted⟩

end Live

/-! ## The statement -/

/-- Settles O13: what an instruction writes lies within the destinations that it names, and a completion changes the warp by `Warp.completed` and
nothing beside it. -/
theorem aluFrame : Obligations.AluFrame := by
  refine ⟨fun st i g hg hok r ls hls => ?registers, fun s t c w j i hlive => ?completion⟩
  case registers =>
    have hin := aluOf_within hg hok r hls
    refine ⟨fun n l hl hn => hin.g n l hl ?_, fun n hn => hin.k n ?_, fun p l hl hp => hin.p p l hl ?_, ?_⟩
    · rintro ⟨hmem, o, ho, hrole, hG, hlo, hhi⟩
      rcases hn with h | h
      · exact h hmem
      · have := h o ho hrole hG
        omega
    · rintro ⟨o, ho, hrole, hK, hlo, hhi⟩
      have := hn o ho hrole hK
      omega
    · rintro ⟨hmem, hdst⟩
      rcases hp with h | h
      · exact h hmem
      · exact h _ hdst rfl rfl
    · rintro rfl
      exact aluOf_no_lane hg r
  case completion =>
    have hbeside := besideWarp_gangDone hlive
    obtain ⟨n, now, hwarp⟩ := State.warp_gangDone hlive
    have hslice := Warp.completed_slice ((t.warp c w).counted (s.gangIssue c w j i) n) (s.gangIssue c w j i) now ((s.warp c w).nodup_gangOf j)
    obtain ⟨_, _, _, _, hrest⟩ := Warp.completed_eq ((t.warp c w).counted (s.gangIssue c w j i) n) (s.gangIssue c w j i) now
    refine ⟨?device, hbeside.core, hbeside.warp, hbeside.rest, ?regs, fun r => ?poison, ?instret, fun k hk => ?others, fun k hk => ?slices⟩
    case device =>
      obtain ⟨_, _, h⟩ := hbeside.device
      rw [h]
      exact ⟨rfl, rfl, rfl, rfl, rfl, rfl, rfl, rfl, rfl, rfl⟩
    case regs =>
      rw [hwarp, hrest]
      exact ⟨rfl, rfl, rfl, rfl, rfl, rfl, rfl, rfl⟩
    case poison =>
      rw [hwarp]
      exact Warp.completed_rp _ _ now r
    case instret =>
      rw [hwarp, hrest]
      rfl
    case others =>
      obtain ⟨_, _, h⟩ := hslice k
      rw [hwarp, h, if_neg hk]
      rfl
    case slices =>
      obtain ⟨_, _, h⟩ := hslice k
      rw [hwarp, h, if_pos hk]
      exact ⟨rfl, rfl, rfl, rfl⟩

end Sys2Proof.Machine
end

section
/-!
PROOFS. Rounding a magnitude to units (R118): what each mode answers, by a quotient and its remainder.
-/

namespace Sys2Proof

/-! ## A quotient rounded to an integer -/

/-- Whether the quotient `v / d` is rounded away from zero in a mode of R118. -/
def roundsUp (mode : Nat) (neg odd : Bool) (v d : Nat) : Bool :=
  if v % d = 0 then false
  else if mode = 1 then decide (d < 2 * (v % d)) || (decide (d = 2 * (v % d)) && ((v / d % 2 == 1) != odd))
  else if mode = 2 then decide (d ≤ 2 * (v % d))
  else if mode = 4 then !neg
  else if mode = 5 then neg
  else false

/-- The quotient `v / d` rounded to an integer in a mode of R118. -/
def roundDiv (mode : Nat) (neg odd : Bool) (v d : Nat) : Nat := if roundsUp mode neg odd v d then v / d + 1 else v / d

theorem roundsUp_mul_right (mode : Nat) (neg odd : Bool) (v d : Nat) {k : Nat} (hk : 0 < k) :
    roundsUp mode neg odd (v * k) (d * k) = roundsUp mode neg odd v d := by
  have hz : v % d * k = 0 ↔ v % d = 0 := by simp [hk.ne']
  have hlt : d * k < 2 * (v % d * k) ↔ d < 2 * (v % d) := by rw [← mul_assoc]; exact Nat.mul_lt_mul_right hk
  have heq : d * k = 2 * (v % d * k) ↔ d = 2 * (v % d) := by rw [← mul_assoc]; exact Nat.mul_left_inj hk.ne'
  have hle : d * k ≤ 2 * (v % d * k) ↔ d ≤ 2 * (v % d) := by rw [← mul_assoc]; exact Nat.mul_le_mul_right_iff hk
  simp only [roundsUp, Nat.mul_mod_mul_right, Nat.mul_div_mul_right _ _ hk, hz, hlt, heq, hle]

theorem roundDiv_mul_right (mode : Nat) (neg odd : Bool) (v d : Nat) {k : Nat} (hk : 0 < k) :
    roundDiv mode neg odd (v * k) (d * k) = roundDiv mode neg odd v d := by
  simp only [roundDiv, roundsUp_mul_right mode neg odd v d hk, Nat.mul_div_mul_right _ _ hk]

theorem roundDiv_one (mode : Nat) (neg odd : Bool) (v : Nat) : roundDiv mode neg odd v 1 = v := by
  simp [roundDiv, roundsUp, Nat.mod_one]

theorem two_pow_toNat_sub {a b c : Int} (hab : a ≤ b) (hbc : b ≤ c) : 2 ^ (c - a).toNat = 2 ^ (c - b).toNat * 2 ^ (b - a).toNat := by
  rw [← pow_add]
  congr 1
  omega

/-- At any scale `p` that both exponents reach, a rounded magnitude is a rounded quotient. -/
theorem roundMag_eq_roundDiv (mode : Nat) (neg odd : Bool) (m : Nat) {e q p : Int} (he : p ≤ e) (hq : p ≤ q) :
    roundMag mode neg odd m e q = roundDiv mode neg odd (m * 2 ^ (e - p).toNat) (2 ^ (q - p).toNat) := by
  by_cases h : q ≤ e
  · have hone := roundDiv_mul_right mode neg odd (m * 2 ^ (e - q).toNat) 1 (Nat.two_pow_pos (q - p).toNat)
    rw [roundDiv_one, one_mul, mul_assoc, ← two_pow_toNat_sub hq h] at hone
    rw [roundMag, if_pos h, hone]
  · rw [two_pow_toNat_sub he (by omega : e ≤ q), roundDiv_mul_right _ _ _ _ _ (Nat.two_pow_pos _), roundMag, if_neg h]
    rfl

theorem roundDiv_mul_cases (mode : Nat) (neg odd : Bool) (v d : Nat) :
    roundDiv mode neg odd v d * d = v / d * d ∨ roundDiv mode neg odd v d * d = v / d * d + d := by
  rw [roundDiv]
  split
  · exact .inr (add_one_mul _ _)
  · exact .inl rfl

/-! ## What each mode answers -/

/-- The modes that take a magnitude to the multiple at it or below (R118). -/
def truncates (mode : Nat) (neg : Bool) : Bool := mode == 3 || mode == 4 && neg || mode == 5 && !neg

/-- The modes that take a magnitude to the multiple at it or above (R118). -/
def roundsAway (mode : Nat) (neg : Bool) : Bool := mode == 4 && !neg || mode == 5 && neg

section Modes

variable {mode : Nat} {neg odd : Bool} {v d : Nat}

theorem roundDiv_of_truncates (h : truncates mode neg = true) : roundDiv mode neg odd v d = v / d := by
  have hup : roundsUp mode neg odd v d = false := by
    cases neg <;> simp [truncates] at h <;> rcases h with rfl | rfl <;> simp [roundsUp]
  simp [roundDiv, hup]

theorem roundDiv_of_roundsAway (h : roundsAway mode neg = true) : roundDiv mode neg odd v d = if v % d = 0 then v / d else v / d + 1 := by
  have hup : roundsUp mode neg odd v d = !decide (v % d = 0) := by
    cases neg <;> simp [roundsAway] at h <;> subst h <;> by_cases hr : v % d = 0 <;> simp [roundsUp, hr]
  by_cases hr : v % d = 0 <;> simp [roundDiv, hup, hr]

section Nearest

variable (hd : 0 < d)
include hd

theorem roundsUp_nearestEven : roundsUp 1 neg odd v d = true ↔ d < 2 * (v % d) ∨ d = 2 * (v % d) ∧ (v / d % 2 == 1) ≠ odd := by
  by_cases hr : v % d = 0
  · simp [roundsUp, hr, hd.ne']
  · simp [roundsUp, hr]

theorem roundsUp_nearestAway : roundsUp 2 neg odd v d = true ↔ d ≤ 2 * (v % d) := by
  by_cases hr : v % d = 0
  · simp [roundsUp, hr, hd.ne']
  · simp [roundsUp, hr]

/-- Where a mode rounds to nearest, the result is the multiple of `d` on the side of the greater part of the remainder. -/
theorem roundsUp_nearest (hm : mode = 1 ∨ mode = 2) :
    (roundsUp mode neg odd v d = true → d ≤ 2 * (v % d)) ∧ (roundsUp mode neg odd v d = false → 2 * (v % d) ≤ d) := by
  rcases hm with rfl | rfl
  · rw [← Bool.not_eq_true, roundsUp_nearestEven hd]; omega
  · rw [← Bool.not_eq_true, roundsUp_nearestAway hd]; omega

/-- To nearest, the result is at most half a unit away. -/
theorem roundDiv_near (hm : mode = 1 ∨ mode = 2) :
    2 * (roundDiv mode neg odd v d * d) ≤ 2 * v + d ∧ 2 * v ≤ 2 * (roundDiv mode neg odd v d * d) + d := by
  have hv := Nat.div_add_mod' v d
  have hr := Nat.mod_lt v hd
  obtain ⟨hup, hdown⟩ := roundsUp_nearest (neg := neg) (odd := odd) (v := v) hd hm
  cases h : roundsUp mode neg odd v d with
  | true => have := hup h; rw [roundDiv, if_pos h, add_one_mul (v / d)]; omega
  | false => have := hdown h; rw [roundDiv, if_neg (by simp [h])]; omega

/-- To nearest even, a result half a unit away is even. -/
theorem roundDiv_even
    (h : 2 * (roundDiv 1 neg false v d * d) = 2 * v + d ∨ 2 * v = 2 * (roundDiv 1 neg false v d * d) + d) :
    roundDiv 1 neg false v d % 2 = 0 := by
  have hv := Nat.div_add_mod' v d
  have hr := Nat.mod_lt v hd
  by_cases hup : roundsUp 1 neg false v d = true
  · rw [roundDiv, if_pos hup] at h ⊢
    rw [add_one_mul] at h
    have hodd : (v / d % 2 == 1) = true := by simpa using ((roundsUp_nearestEven hd).mp hup).resolve_left (by omega) |>.2
    have := eq_of_beq hodd
    omega
  · rw [roundDiv, if_neg hup] at h ⊢
    rw [roundsUp_nearestEven hd] at hup
    simp only [ne_eq, not_or, not_and, beq_eq_false_iff_ne, not_not] at hup
    omega

/-- To nearest away, a result half a unit away is the greater. -/
theorem roundDiv_away : 2 * v < 2 * (roundDiv 2 neg odd v d * d) + d := by
  have hv := Nat.div_add_mod' v d
  have hr := Nat.mod_lt v hd
  by_cases hup : roundsUp 2 neg odd v d = true
  · rw [roundDiv, if_pos hup, add_one_mul (v / d)]; omega
  · rw [roundDiv, if_neg hup]
    rw [roundsUp_nearestAway hd] at hup
    omega

end Nearest

end Modes

/-! ## Signed values -/

/-- A magnitude under a sign. -/
def signedInt (n : Bool) (x : Nat) : Int := if n then -x else x

@[simp] theorem signedInt_true (x : Nat) : signedInt true x = -x := rfl
@[simp] theorem signedInt_false (x : Nat) : signedInt false x = x := rfl

theorem finInt_eq_signedInt (n : Bool) (m : Nat) (e q : Int) : finInt n m e q = signedInt n (m * 2 ^ (e - q).toNat) := by
  simp [finInt, signedInt]

theorem roundInt_eq_signedInt (mode : Nat) (n : Bool) (m : Nat) (e : Int) : roundInt mode n m e = signedInt n (roundMag mode n false m e 0) := rfl

/-- `i` is the quotient `x / one` rounded to an integer in a mode of R118, in which 0 stands for 1. -/
structure RoundsToInt (mode : Nat) (i x one : Int) : Prop where
  zero : mode = 3 → i.natAbs * one ≤ x.natAbs ∧ x.natAbs < (i.natAbs + 1) * one ∧ 0 ≤ i * x
  up : mode = 4 → (i - 1) * one < x ∧ x ≤ i * one
  down : mode = 5 → i * one ≤ x ∧ x < (i + 1) * one
  near : mode ≤ 2 → 2 * (i * one - x).natAbs ≤ one
  even : mode ≤ 1 → 2 * (i * one - x).natAbs = one → i % 2 = 0
  away : mode = 2 → 2 * (i * one - x).natAbs = one → x.natAbs < i.natAbs * one

@[simp] theorem natAbs_signedInt (n : Bool) (x : Nat) : (signedInt n x).natAbs = x := by cases n <;> simp [signedInt]

theorem signedInt_mul (n : Bool) (x y : Nat) : signedInt n (x * y) = signedInt n x * y := by cases n <;> simp [signedInt]

theorem signedInt_mul_self_nonneg (n : Bool) (x y : Nat) : 0 ≤ signedInt n x * signedInt n y := by
  cases n <;> simp only [signedInt_true, signedInt_false, neg_mul_neg] <;> positivity

theorem signedInt_emod_two (n : Bool) (x : Nat) : signedInt n x % 2 = 0 ↔ x % 2 = 0 := by
  cases n with
  | true => rw [signedInt_true]; omega
  | false => rw [signedInt_false]; omega

theorem natAbs_signedInt_sub (n : Bool) (x y : Nat) : (signedInt n x - signedInt n y).natAbs = ((x : Int) - y).natAbs := by
  cases n with
  | true => rw [signedInt_true, signedInt_true]; omega
  | false => rfl

/-- Rounding a magnitude under a sign rounds the signed value. -/
theorem roundsToInt_roundDiv (mode : Nat) (n : Bool) (v : Nat) {d : Nat} (hd : 0 < d) :
    RoundsToInt mode (signedInt n (roundDiv (max 1 mode) n false v d)) (signedInt n v) d := by
  have hv := Nat.div_add_mod' v d
  have hr := Nat.mod_lt v hd
  have hdist : ∀ k : Nat, (signedInt n k * d - signedInt n v).natAbs = ((k * d : Nat) - (v : Int)).natAbs := fun k => by
    rw [← signedInt_mul, natAbs_signedInt_sub]
  refine ⟨?zero, ?up, ?down, ?near, ?even, ?away⟩
  case zero =>
    rintro rfl
    rw [roundDiv_of_truncates rfl]
    refine ⟨?_, ?_, signedInt_mul_self_nonneg _ _ _⟩ <;> simp only [natAbs_signedInt] <;> norm_cast
    · omega
    · rw [Nat.add_one_mul]; omega
  case up =>
    rintro rfl
    rw [sub_mul, one_mul, ← signedInt_mul]
    cases n with
    | false =>
      rw [roundDiv_of_roundsAway rfl]
      split <;> simp only [signedInt_false, Nat.add_one_mul] <;> omega
    | true =>
      rw [roundDiv_of_truncates rfl, signedInt_true, signedInt_true]; omega
  case down =>
    rintro rfl
    rw [add_mul, one_mul, ← signedInt_mul]
    cases n with
    | false =>
      rw [roundDiv_of_truncates rfl, signedInt_false, signedInt_false]; omega
    | true =>
      rw [roundDiv_of_roundsAway rfl]
      split <;> simp only [signedInt_true, Nat.add_one_mul] <;> omega
  case near =>
    intro h
    have := roundDiv_near (mode := max 1 mode) (neg := n) (odd := false) (v := v) hd (by omega)
    rw [hdist]; omega
  case even =>
    intro h htie
    have hm : max 1 mode = 1 := by omega
    rw [hdist, hm] at htie
    rw [hm, signedInt_emod_two]
    exact roundDiv_even hd (by omega)
  case away =>
    rintro rfl htie
    have := roundDiv_away (neg := n) (odd := false) (v := v) hd
    rw [hdist, show max 1 2 = 2 from rfl] at htie
    rw [show max 1 2 = 2 from rfl, natAbs_signedInt, natAbs_signedInt]
    omega

end Sys2Proof
end

section
/-!
PROOFS. The values of a binary format with infinities (R106, R111): a code without its sign is a number of units of the last place, which
rises with the code; what a code decodes to and what a value encodes to, in these terms.
-/

namespace Sys2Proof

/-- A format with infinities and NaNs, of one exponent bit and one fraction bit at least (R106). -/
structure FpFmt.Std (t : FpFmt) : Prop where
  spc : t.spc = 0
  exp : 0 < t.e
  frac : 0 < t.f

theorem std_of_mem {t : FpFmt} (h : t ∈ [fp32, bf16, fp16]) : t.Std := by
  simp only [List.mem_cons, List.not_mem_nil, or_false] at h
  rcases h with rfl | rfl | rfl <;> exact ⟨rfl, by decide, by decide⟩

/-! ## Units of the last place -/

/-- The exponent of the least positive value. -/
def FpFmt.ulp (t : FpFmt) : Int := 1 - t.b - t.f

/-- The value of a code without its sign, in units of the least positive value. -/
def FpFmt.units (t : FpFmt) (c : Nat) : Nat := if c / 2 ^ t.f = 0 then c else (2 ^ t.f + c % 2 ^ t.f) * 2 ^ (c / 2 ^ t.f - 1)

/-- The codes of one binade, its upper end included: `k` of its units. -/
theorem FpFmt.units_binade (t : FpFmt) {j k : Nat} (hk : k ≤ 2 ^ (t.f + 1)) (hj : j = 0 ∨ 2 ^ t.f ≤ k) :
    t.units (j * 2 ^ t.f + k) = k * 2 ^ j := by
  have hpos : 0 < 2 ^ t.f := Nat.two_pow_pos _
  have hadd : ∀ i r : Nat, r < 2 ^ t.f → t.units ((i + 1) * 2 ^ t.f + r) = (2 ^ t.f + r) * 2 ^ i := fun i r hr => by
    have hdiv : ((i + 1) * 2 ^ t.f + r) / 2 ^ t.f = i + 1 := by rw [mul_comm, Nat.mul_add_div hpos, Nat.div_eq_of_lt hr, add_zero]
    have hmod : ((i + 1) * 2 ^ t.f + r) % 2 ^ t.f = r := by rw [Nat.mul_add_mod', Nat.mod_eq_of_lt hr]
    rw [units, hdiv, hmod, if_neg (by omega), Nat.add_sub_cancel]
  rw [pow_succ] at hk
  rcases Nat.lt_or_ge k (2 ^ t.f) with hlt | hge
  · obtain rfl := hj.resolve_right (by omega)
    rw [zero_mul, zero_add, pow_zero, mul_one, units, if_pos (Nat.div_eq_of_lt hlt)]
  · obtain ⟨r, rfl⟩ := Nat.exists_eq_add_of_le hge
    rcases Nat.lt_or_ge r (2 ^ t.f) with hr | hr
    · rw [← hadd j r hr, add_one_mul, add_assoc]
    · obtain rfl : r = 2 ^ t.f := by omega
      have := hadd (j + 1) 0 hpos
      rw [show j * 2 ^ t.f + (2 ^ t.f + 2 ^ t.f) = (j + 1 + 1) * 2 ^ t.f + 0 by ring, this]
      ring

theorem FpFmt.exists_binade (t : FpFmt) (c : Nat) : ∃ j k, c = j * 2 ^ t.f + k ∧ k < 2 ^ (t.f + 1) ∧ (j = 0 ∨ 2 ^ t.f ≤ k) := by
  have hdiv := Nat.div_add_mod' c (2 ^ t.f)
  have hmod := Nat.mod_lt c (Nat.two_pow_pos t.f)
  rw [pow_succ]
  rcases Nat.eq_zero_or_pos (c / 2 ^ t.f) with h | h
  · exact ⟨0, c % 2 ^ t.f, by rw [h] at hdiv; omega, by omega, .inl rfl⟩
  · obtain ⟨j, hj⟩ := Nat.exists_eq_add_of_le' h
    refine ⟨j, 2 ^ t.f + c % 2 ^ t.f, ?_, by omega, .inr (by omega)⟩
    rw [hj, Nat.succ_eq_add_one, zero_add, add_one_mul] at hdiv
    omega

theorem FpFmt.units_strictMono (t : FpFmt) : StrictMono t.units := by
  refine strictMono_nat_of_lt_succ fun c => ?_
  obtain ⟨j, k, rfl, hk, hj⟩ := t.exists_binade c
  rw [add_assoc, t.units_binade hk.le hj, t.units_binade hk (hj.imp_right (by omega))]
  exact Nat.mul_lt_mul_of_pos_right (Nat.lt_succ_self k) (Nat.two_pow_pos j)

@[simp] theorem FpFmt.units_zero (t : FpFmt) : t.units 0 = 0 := by simp [units]

/-! ## Codes under a sign -/

theorem FpFmt.infCode_lt (t : FpFmt) : t.infCode < 2 ^ (t.e + t.f) := by
  rw [infCode, pow_add]
  exact Nat.mul_lt_mul_of_pos_right (Nat.sub_lt (Nat.two_pow_pos _) one_pos) (Nat.two_pow_pos _)

/-- The three fields of a code. -/
theorem FpFmt.signed_fields (t : FpFmt) (n : Bool) {c : Nat} (hc : c < 2 ^ (t.e + t.f)) :
    (t.signed n c / 2 ^ (t.e + t.f) % 2 == 1) = n ∧ t.signed n c / 2 ^ t.f % 2 ^ t.e = c / 2 ^ t.f ∧ t.signed n c % 2 ^ t.f = c % 2 ^ t.f := by
  have hS : 2 ^ (t.e + t.f) = 2 ^ t.f * 2 ^ t.e := by rw [pow_add, mul_comm]
  have hE : c / 2 ^ t.f < 2 ^ t.e := Nat.div_lt_of_lt_mul (hS ▸ hc)
  cases n with
  | false => exact ⟨by simp [signed, Nat.div_eq_of_lt hc], by simp [signed, Nat.mod_eq_of_lt hE], by simp [signed]⟩
  | true =>
    simp only [signed, if_true]
    refine ⟨?_, ?_, ?_⟩
    · rw [Nat.add_div_left _ (Nat.two_pow_pos _), Nat.div_eq_of_lt hc]; rfl
    · rw [hS, Nat.mul_add_div (Nat.two_pow_pos _), Nat.add_mod_left, Nat.mod_eq_of_lt hE]
    · rw [hS, Nat.mul_add_mod]

section Std

variable {t : FpFmt} (ht : t.Std)
include ht

theorem FpFmt.Std.two_le_two_pow_exp : 2 ≤ 2 ^ t.e := Nat.le_self_pow ht.exp.ne' 2

theorem FpFmt.Std.infCode_pos : 0 < t.infCode := Nat.mul_pos (Nat.sub_pos_of_lt ht.two_le_two_pow_exp) (Nat.two_pow_pos _)

theorem FpFmt.Std.maxCode_add_one : t.maxCode + 1 = t.infCode := by
  rw [maxCode, if_pos ht.spc]
  exact Nat.sub_add_cancel ht.infCode_pos

/-- What a code of the format stands for, by its sign and its magnitude. -/
theorem FpFmt.Std.decode_signed (n : Bool) {c : Nat} (hc : c < 2 ^ (t.e + t.f)) :
    t.decode (t.signed n c) =
      if c < t.infCode then (if c / 2 ^ t.f = 0 then .fin n c t.ulp else .fin n (2 ^ t.f + c % 2 ^ t.f) (t.ulp + (c / 2 ^ t.f - 1 : Nat)))
      else if c = t.infCode then .inf n else .nan := by
  obtain ⟨hn, he, hm⟩ := t.signed_fields n hc
  have hdiv := Nat.div_add_mod' c (2 ^ t.f)
  have hmod := Nat.mod_lt c (Nat.two_pow_pos t.f)
  have hE : c / 2 ^ t.f < 2 ^ t.e := Nat.div_lt_of_lt_mul (by rw [← pow_add, add_comm]; exact hc)
  have hlt : c < t.infCode ↔ c / 2 ^ t.f < 2 ^ t.e - 1 := (Nat.div_lt_iff_lt_mul (Nat.two_pow_pos _)).symm
  have h2 := ht.two_le_two_pow_exp
  rw [decode, hn, he, hm, ht.spc]
  by_cases hfin : c < t.infCode
  · have hne : c / 2 ^ t.f ≠ 2 ^ t.e - 1 := (hlt.mp hfin).ne
    by_cases h0 : c / 2 ^ t.f = 0
    · have hc0 : c % 2 ^ t.f = c := by simpa [h0] using hdiv
      have hz : ¬ 0 = 2 ^ t.e - 1 := by omega
      simp only [hfin, h0, hc0, hz, ulp, if_true, if_false, false_and]
    · simp only [hfin, hne, h0, ulp, if_true, if_false, false_and, FpVal.fin.injEq, true_and]
      omega
  · have heq : c / 2 ^ t.f = 2 ^ t.e - 1 := by have := mt hlt.mpr hfin; omega
    have hinf : c % 2 ^ t.f = 0 ↔ c = t.infCode := by
      rw [infCode, ← heq]; omega
    simp [hfin, heq, hinf]

/-- A finite value is its code's number of units. -/
theorem FpFmt.Std.finInt_of_decode {n n' : Bool} {c m : Nat} {e p : Int} (hc : c < 2 ^ (t.e + t.f))
    (h : t.decode (t.signed n c) = .fin n' m e) (hp : p ≤ t.ulp) :
    n' = n ∧ c < t.infCode ∧ t.ulp ≤ e ∧ finInt n' m e p = signedInt n (t.units c * 2 ^ (t.ulp - p).toNat) := by
  rw [ht.decode_signed n hc] at h
  by_cases hfin : c < t.infCode
  · by_cases h0 : c / 2 ^ t.f = 0
    · simp only [hfin, h0, if_true, FpVal.fin.injEq] at h
      obtain ⟨rfl, rfl, rfl⟩ := h
      refine ⟨rfl, hfin, le_rfl, ?_⟩
      rw [finInt_eq_signedInt, units, if_pos h0]
    · simp only [hfin, h0, if_true, if_false, FpVal.fin.injEq] at h
      obtain ⟨rfl, rfl, rfl⟩ := h
      refine ⟨rfl, hfin, by omega, ?_⟩
      rw [finInt_eq_signedInt, units, if_neg h0, two_pow_toNat_sub hp (by omega : t.ulp ≤ _), add_sub_cancel_left, Int.toNat_natCast, mul_assoc]
  · by_cases hinf : c = t.infCode <;> simp [hfin, hinf] at h

end Std

theorem FpFmt.exists_signed (t : FpFmt) {c : Nat} (hc : c < 2 ^ t.width) : ∃ n c', c' < 2 ^ (t.e + t.f) ∧ c = t.signed n c' := by
  rw [width, add_assoc, pow_add, pow_one] at hc
  rcases Nat.lt_or_ge c (2 ^ (t.e + t.f)) with h | h
  · exact ⟨false, c, h, rfl⟩
  · exact ⟨true, c - 2 ^ (t.e + t.f), by omega, by simp [signed]; omega⟩

end Sys2Proof
end

section
/-!
PROOFS. Rounding into a format (R118, R119): a result is the format's best value in its mode, and a value of the format is kept.
-/

namespace Sys2Proof

/-! ## The unit of a value's binade -/

/-- The exponent of the unit to which the format rounds `m × 2^e`. -/
def FpFmt.unitExp (t : FpFmt) (m : Nat) (e : Int) : Int := max ((m.log2 : Int) + e - t.f) t.ulp

/-- The binade of `m × 2^e` in the format, 0 for its lowest. -/
def FpFmt.binade (t : FpFmt) (m : Nat) (e : Int) : Nat := (t.unitExp m e - t.ulp).toNat

/-- The code without its sign, before the check for overflow. -/
def FpFmt.roundCode (t : FpFmt) (mode : Nat) (n : Bool) (m : Nat) (e : Int) : Nat :=
  t.binade m e * 2 ^ t.f + roundMag mode n false m e (t.unitExp m e)

section Std

variable {t : FpFmt} (ht : t.Std)
include ht

theorem FpFmt.Std.encode_fin (mode : Nat) (n : Bool) {m : Nat} (e : Int) (hm : m ≠ 0) :
    t.encode mode (.fin n m e) = t.signed n (if t.maxCode < t.roundCode mode n m e then t.overflow mode n else t.roundCode mode n m e) := by
  have hq : max ((m.log2 : Int) + e) (1 - t.b) - t.f = t.unitExp m e := by rw [unitExp, ulp]; omega
  have hb : (t.unitExp m e + t.f + t.b - 1).toNat = t.binade m e := by rw [binade, ulp]; congr 1; omega
  have heven : (t.binade m e * 2 ^ t.f % 2 == 1) = false := by
    obtain ⟨f, hf⟩ := Nat.exists_eq_add_of_lt ht.frac
    simp [hf, pow_succ, ← mul_assoc]
  simp only [encode, if_neg hm, hq, hb, heven]
  rfl

/-- A code has the parity of its magnitude. -/
theorem FpFmt.Std.signed_mod_two (n : Bool) (c : Nat) : t.signed n c % 2 = c % 2 := by
  obtain ⟨f, hf⟩ := Nat.exists_eq_add_of_lt ht.frac
  cases n with
  | false => rfl
  | true => rw [signed, if_pos rfl, hf, ← add_assoc, pow_succ]; omega

theorem FpFmt.Std.roundCode_mod_two (mode : Nat) (n : Bool) (m : Nat) (e : Int) :
    t.roundCode mode n m e % 2 = roundMag mode n false m e (t.unitExp m e) % 2 := by
  obtain ⟨f, hf⟩ := Nat.exists_eq_add_of_lt ht.frac
  rw [roundCode, hf, pow_succ, ← mul_assoc]
  omega

end Std

/-! ## A value at a scale that its exponent and the format's reach -/

section Scale

variable (t : FpFmt) {m : Nat} {e p : Int} (hm : m ≠ 0) (hpe : p ≤ e) (hpu : p ≤ t.ulp)

/-- The magnitude `m × 2^e` in units of `2^p`. -/
def magAt (m : Nat) (e p : Int) : Nat := m * 2 ^ (e - p).toNat

/-- The unit to which the format rounds `m × 2^e`, in units of `2^p`. -/
def FpFmt.unitAt (t : FpFmt) (m : Nat) (e p : Int) : Nat := 2 ^ (t.unitExp m e - p).toNat

/-- The value of a code without its sign, in units of `2^p`. -/
def FpFmt.valueAt (t : FpFmt) (p : Int) (c : Nat) : Nat := t.units c * 2 ^ (t.ulp - p).toNat

theorem FpFmt.valueAt_strictMono (p : Int) : StrictMono (t.valueAt p) :=
  t.units_strictMono.mul_const (Nat.two_pow_pos _)

@[simp] theorem FpFmt.valueAt_zero (p : Int) : t.valueAt p 0 = 0 := by simp [valueAt]

theorem FpFmt.unitAt_pos (m : Nat) (e p : Int) : 0 < t.unitAt m e p := Nat.two_pow_pos _

theorem FpFmt.ulp_le_unitExp (m : Nat) (e : Int) : t.ulp ≤ t.unitExp m e := le_max_right _ _

section

include hpu

theorem FpFmt.unitAt_eq_binade : t.unitAt m e p = 2 ^ t.binade m e * 2 ^ (t.ulp - p).toNat :=
  two_pow_toNat_sub hpu (t.ulp_le_unitExp m e)

include hpe

theorem FpFmt.roundMag_unitExp (mode : Nat) (n : Bool) :
    roundMag mode n false m e (t.unitExp m e) = roundDiv mode n false (magAt m e p) (t.unitAt m e p) :=
  roundMag_eq_roundDiv mode n false m hpe (hpu.trans (t.ulp_le_unitExp m e))

include hm

/-- The quotient by the unit has the significand's bits, all of them above the lowest binade. -/
theorem FpFmt.magAt_div_unitAt :
    magAt m e p / t.unitAt m e p < 2 ^ (t.f + 1) ∧ (t.binade m e = 0 ∨ 2 ^ t.f ≤ magAt m e p / t.unitAt m e p) := by
  have hlow : 2 ^ m.log2 ≤ m := Nat.log2_self_le hm
  have hhigh : m < 2 ^ (m.log2 + 1) := Nat.lt_log2_self
  have hpq := t.ulp_le_unitExp m e
  constructor
  · rw [Nat.div_lt_iff_lt_mul (t.unitAt_pos m e p), unitAt, ← pow_add]
    calc magAt m e p < 2 ^ (m.log2 + 1) * 2 ^ (e - p).toNat := Nat.mul_lt_mul_of_pos_right hhigh (Nat.two_pow_pos _)
      _ = 2 ^ (m.log2 + 1 + (e - p).toNat) := (pow_add ..).symm
      _ ≤ _ := Nat.pow_le_pow_right two_pos (by rw [unitExp] at hpq ⊢; omega)
  · rw [or_iff_not_imp_left]
    intro hb
    rw [Nat.le_div_iff_mul_le (t.unitAt_pos m e p), unitAt, ← pow_add]
    calc 2 ^ (t.f + (t.unitExp m e - p).toNat) ≤ 2 ^ (m.log2 + (e - p).toNat) :=
          Nat.pow_le_pow_right two_pos (by rw [binade] at hb; rw [unitExp] at hb ⊢; omega)
      _ = 2 ^ m.log2 * 2 ^ (e - p).toNat := pow_add ..
      _ ≤ magAt m e p := Nat.mul_le_mul_right _ hlow

/-- A code of the value's binade is worth its units. -/
theorem FpFmt.valueAt_binade {k : Nat} (hlow : magAt m e p / t.unitAt m e p ≤ k) (hhigh : k ≤ magAt m e p / t.unitAt m e p + 1) :
    t.valueAt p (t.binade m e * 2 ^ t.f + k) = k * t.unitAt m e p := by
  obtain ⟨hlt, hb⟩ := t.magAt_div_unitAt hm hpe hpu
  rw [valueAt, t.units_binade (by omega) (by omega), t.unitAt_eq_binade hpu, mul_assoc]

/-- No value of the format lies between a value's two neighbours. -/
theorem FpFmt.valueAt_gap (c : Nat) :
    t.valueAt p c ≤ magAt m e p / t.unitAt m e p * t.unitAt m e p
      ∨ magAt m e p / t.unitAt m e p * t.unitAt m e p + t.unitAt m e p ≤ t.valueAt p c := by
  rw [← Nat.add_one_mul, ← t.valueAt_binade hm hpe hpu le_rfl (by omega), ← t.valueAt_binade hm hpe hpu (by omega) le_rfl,
    (t.valueAt_strictMono p).le_iff_le, (t.valueAt_strictMono p).le_iff_le]
  omega

theorem FpFmt.valueAt_roundCode (mode : Nat) (n : Bool) :
    t.valueAt p (t.roundCode mode n m e) = roundDiv mode n false (magAt m e p) (t.unitAt m e p) * t.unitAt m e p := by
  rw [roundCode, t.roundMag_unitExp hpe hpu]
  refine t.valueAt_binade hm hpe hpu ?_ ?_ <;> rw [roundDiv] <;> split <;> omega

end

end Scale

/-! ## The best value of a set in a mode -/

/-- For the magnitude `x` rounded to `y`: no `w` is better in the mode, and of two that are equally near the one that the mode prefers is
taken; `even` says that the result's code is. -/
structure RoundsBest (mode : Nat) (neg : Bool) (x y w : Nat) (even : Prop) : Prop where
  below : truncates mode neg = true → y ≤ x ∧ (w ≤ x → w ≤ y)
  above : roundsAway mode neg = true → x ≤ y ∧ (x ≤ w → y ≤ w)
  near : mode = 1 ∨ mode = 2 → ((y : Int) - x).natAbs ≤ ((w : Int) - x).natAbs
  even : mode = 1 → ((y : Int) - x).natAbs = ((w : Int) - x).natAbs → y ≠ w → even
  away : mode = 2 → ((y : Int) - x).natAbs = ((w : Int) - x).natAbs → w ≤ y

/-- A multiple of `d` chosen by the mode is the best of the values that do not lie between the two multiples next to `x`. -/
theorem roundsBest_roundDiv (mode : Nat) (neg : Bool) (x w : Nat) {d : Nat} (hd : 0 < d) (hw : w ≤ x / d * d ∨ x / d * d + d ≤ w) :
    RoundsBest mode neg x (roundDiv mode neg false x d * d) w (roundDiv mode neg false x d % 2 = 0) := by
  have hx := Nat.div_add_mod' x d
  have hr := Nat.mod_lt x hd
  refine ⟨?below, ?above, ?near, ?even, ?away⟩
  case below =>
    intro h
    rw [roundDiv_of_truncates h]
    omega
  case above =>
    intro h
    rw [roundDiv_of_roundsAway h]
    split
    · omega
    · rw [add_one_mul]; omega
  case near =>
    intro h
    have hcases := roundDiv_mul_cases mode neg false x d
    have := roundDiv_near (neg := neg) (odd := false) (v := x) hd h
    omega
  case even =>
    rintro rfl htie hne
    have hcases := roundDiv_mul_cases 1 neg false x d
    have := roundDiv_near (mode := 1) (neg := neg) (odd := false) (v := x) hd (.inl rfl)
    exact roundDiv_even hd (by omega)
  case away =>
    rintro rfl htie
    have hcases := roundDiv_mul_cases 2 neg false x d
    have := roundDiv_near (mode := 2) (neg := neg) (odd := false) (v := x) hd (.inr rfl)
    have := roundDiv_away (neg := neg) (odd := false) (v := x) hd
    omega

/-- Where a mode truncates, the greatest value of all is the best below what exceeds it. -/
theorem roundsBest_of_truncates {mode : Nat} {neg : Bool} (h : truncates mode neg = true) {x y w : Nat} (hy : y ≤ x) (hw : w ≤ y) (even : Prop) :
    RoundsBest mode neg x y w even := by
  have hmode : mode ≠ 1 ∧ mode ≠ 2 ∧ roundsAway mode neg = false := by
    cases neg <;> simp [truncates] at h <;> rcases h with rfl | rfl <;> decide
  obtain ⟨h1, h2, haway⟩ := hmode
  exact ⟨fun _ => ⟨hy, fun _ => hw⟩, by simp [haway], by omega, by omega, by omega⟩

theorem roundsBest_zero (mode : Nat) (neg : Bool) (w : Nat) (even : Prop) : RoundsBest mode neg 0 0 w even := by
  refine ⟨?_, ?_, ?_, ?_, ?_⟩ <;> omega

/-- What R118 says of the value `v` rounded to `v1`, against any other value `v2` of the format. -/
structure RoundsInFormat (mode : Nat) (v v1 v2 : Int) (even : Prop) : Prop where
  even : mode = 1 → (v1 - v).natAbs ≤ (v2 - v).natAbs ∧ ((v1 - v).natAbs = (v2 - v).natAbs → v1 ≠ v2 → even)
  away : mode = 2 → (v1 - v).natAbs ≤ (v2 - v).natAbs ∧ ((v1 - v).natAbs = (v2 - v).natAbs → v2.natAbs ≤ v1.natAbs)
  zero : mode = 3 → 0 ≤ v1 * v ∧ v1.natAbs ≤ v.natAbs ∧ ¬(0 ≤ v2 * v ∧ v1.natAbs < v2.natAbs ∧ v2.natAbs ≤ v.natAbs)
  up : mode = 4 → v ≤ v1 ∧ ¬(v ≤ v2 ∧ v2 < v1)
  down : mode = 5 → v1 ≤ v ∧ ¬(v1 < v2 ∧ v2 ≤ v)

/-- The best magnitude under its sign is the best value: zero is a value as well, so that none of the other sign is better. -/
theorem RoundsBest.signed {mode : Nat} {n : Bool} {x y w : Nat} {even : Prop} (h : RoundsBest mode n x y w even)
    (h0 : RoundsBest mode n x y 0 even) (n2 : Bool) :
    RoundsInFormat mode (signedInt n x) (signedInt n y) (signedInt n2 w) even := by
  have hdist : (signedInt n y - signedInt n x).natAbs = ((y : Int) - x).natAbs := natAbs_signedInt_sub n y x
  have hother : n2 = n ∧ (signedInt n2 w - signedInt n x).natAbs = ((w : Int) - x).natAbs
      ∨ n2 = !n ∧ (signedInt n2 w - signedInt n x).natAbs = w + x := by
    rcases Bool.eq_or_eq_not n2 n with rfl | rfl
    · exact .inl ⟨rfl, natAbs_signedInt_sub n2 w x⟩
    · refine .inr ⟨rfl, ?_⟩
      cases n <;> simp only [Bool.not_true, Bool.not_false, signedInt_true, signedInt_false] <;> omega
  refine ⟨?even, ?away, ?zero, ?up, ?down⟩
  case even =>
    intro hm
    have hnear := h.near (.inl hm)
    have hnear0 := h0.near (.inl hm)
    rw [hdist]
    rcases hother with ⟨rfl, hw⟩ | ⟨rfl, hw⟩ <;> rw [hw]
    · exact ⟨hnear, fun htie hne => h.even hm htie fun e => hne (by rw [e])⟩
    · refine ⟨by omega, fun htie hne => h0.even hm (by omega) fun e => hne ?_⟩
      obtain rfl : w = 0 := by omega
      subst e
      cases n <;> rfl
  case away =>
    intro hm
    have hnear := h.near (.inr hm)
    have hnear0 := h0.near (.inr hm)
    have haway := h.away hm
    rw [hdist, natAbs_signedInt, natAbs_signedInt]
    rcases hother with ⟨rfl, hw⟩ | ⟨rfl, hw⟩ <;> rw [hw] <;> omega
  case zero =>
    rintro rfl
    obtain ⟨hle, hbest⟩ := h.below rfl
    rw [natAbs_signedInt, natAbs_signedInt, natAbs_signedInt]
    exact ⟨signedInt_mul_self_nonneg n y x, hle, fun ⟨_, hlt, hwx⟩ => absurd (hbest hwx) (by omega)⟩
  case up =>
    rintro rfl
    cases n with
    | false =>
      have habove := h.above rfl
      have habove0 := h0.above rfl
      cases n2 <;> simp only [signedInt_true, signedInt_false] <;> omega
    | true =>
      have hbelow := h.below rfl
      cases n2 <;> simp only [signedInt_true, signedInt_false] <;> omega
  case down =>
    rintro rfl
    cases n with
    | false =>
      have hbelow := h.below rfl
      cases n2 <;> simp only [signedInt_true, signedInt_false] <;> omega
    | true =>
      have habove := h.above rfl
      have habove0 := h0.above rfl
      cases n2 <;> simp only [signedInt_true, signedInt_false] <;> omega

/-- A finer scale says the same. -/
theorem RoundsInFormat.of_mul {mode : Nat} {v v1 v2 k : Int} {even : Prop} (hk : 0 < k)
    (h : RoundsInFormat mode (v * k) (v1 * k) (v2 * k) even) : RoundsInFormat mode v v1 v2 even := by
  have hk' : 0 < k.natAbs := Int.natAbs_pos.mpr hk.ne'
  have hkk : 0 < k * k := mul_pos hk hk
  obtain ⟨heven, haway, hzero, hup, hdown⟩ := h
  simp only [← sub_mul, Int.natAbs_mul, mul_mul_mul_comm _ k, Nat.mul_le_mul_right_iff hk', Nat.mul_lt_mul_right hk', Nat.mul_left_inj hk'.ne',
    mul_le_mul_iff_left₀ hk, mul_lt_mul_iff_left₀ hk, mul_nonneg_iff_of_pos_right hkk, ne_eq, mul_left_inj' hk.ne'] at heven haway hzero hup hdown
  exact ⟨heven, haway, hzero, hup, hdown⟩

theorem finInt_mul (n : Bool) (m : Nat) {e p q : Int} (hp : p ≤ q) (hq : q ≤ e) :
    finInt n m e p = finInt n m e q * (2 ^ (q - p).toNat : Nat) := by
  rw [finInt_eq_signedInt, finInt_eq_signedInt, two_pow_toNat_sub hp hq, ← mul_assoc, signedInt_mul]

/-! ## Rounding into a format -/

section Std

variable {t : FpFmt} (ht : t.Std)
include ht

theorem FpFmt.Std.overflow_cases (mode : Nat) (n : Bool) :
    truncates mode n = true ∧ t.overflow mode n = t.maxCode ∨ t.overflow mode n = t.infCode := by
  rw [overflow, if_neg (by simp [ht.spc])]
  split
  next h => exact .inl ⟨by simpa [truncates, or_assoc] using h, rfl⟩
  next => exact .inr rfl

/-- A finite result is the best of the format's magnitudes. -/
theorem FpFmt.Std.roundsBest_encode (mode : Nat) {n n1 : Bool} {m m1 : Nat} {e e1 p : Int} (hpe : p ≤ e) (hpu : p ≤ t.ulp)
    (h : t.decode (t.encode mode (.fin n m e)) = .fin n1 m1 e1) :
    ∃ y, finInt n1 m1 e1 p = signedInt n y ∧
      ∀ c, c < t.infCode → RoundsBest mode n (magAt m e p) y (t.valueAt p c) (t.encode mode (.fin n m e) % 2 = 0) := by
  have hmax := ht.maxCode_add_one
  have hp := t.valueAt_strictMono p
  by_cases hm : m = 0
  · subst hm
    rw [encode, if_pos rfl] at h ⊢
    obtain ⟨rfl, -, -, hfin⟩ := ht.finInt_of_decode (Nat.two_pow_pos _) h hpu
    refine ⟨t.valueAt p 0, hfin, fun c _ => ?_⟩
    rw [t.valueAt_zero, magAt, zero_mul]
    exact roundsBest_zero ..
  · rw [ht.encode_fin mode n e hm] at h ⊢
    split at h
    next hover =>
      rcases ht.overflow_cases mode n with ⟨htr, hov⟩ | hov
      · rw [hov] at h ⊢
        obtain ⟨rfl, -, -, hfin⟩ := ht.finInt_of_decode ((by omega : _ ≤ t.infCode).trans_lt t.infCode_lt) h hpu
        refine ⟨_, hfin, fun c hc => roundsBest_of_truncates htr ?_ (hp.monotone (by omega)) _⟩
        calc t.valueAt p t.maxCode ≤ t.valueAt p (t.roundCode mode n1 m e) := hp.monotone hover.le
          _ = magAt m e p / t.unitAt m e p * t.unitAt m e p := by rw [t.valueAt_roundCode hm hpe hpu, roundDiv_of_truncates htr]
          _ ≤ magAt m e p := Nat.div_mul_le_self ..
      · rw [hov, ht.decode_signed n t.infCode_lt] at h
        simp at h
    next hover =>
      rw [if_neg hover]
      obtain ⟨rfl, -, -, hfin⟩ := ht.finInt_of_decode ((by omega : _ ≤ t.infCode).trans_lt t.infCode_lt) h hpu
      refine ⟨_, hfin, fun c _ => ?_⟩
      rw [ht.signed_mod_two, ht.roundCode_mod_two, t.roundMag_unitExp hpe hpu, ← valueAt, t.valueAt_roundCode hm hpe hpu]
      exact roundsBest_roundDiv mode n1 _ _ (t.unitAt_pos m e p) (t.valueAt_gap hm hpe hpu c)

/-- R118: a finite result is the best value of the format, of whatever sign, at any scale that the exponents reach. -/
theorem FpFmt.Std.roundsInFormat_encode (mode : Nat) {n n1 n2 : Bool} {m m1 m2 : Nat} {e e1 e2 q : Int} {c : Nat}
    (h1 : t.decode (t.encode mode (.fin n m e)) = .fin n1 m1 e1) (hc : c < 2 ^ t.width) (h2 : t.decode c = .fin n2 m2 e2)
    (hq : q ≤ e) (hq1 : q ≤ e1) (hq2 : q ≤ e2) :
    RoundsInFormat mode (finInt n m e q) (finInt n1 m1 e1 q) (finInt n2 m2 e2 q) (t.encode mode (.fin n m e) % 2 = 0) := by
  obtain ⟨n', c, hc', rfl⟩ := t.exists_signed hc
  have hp : min q t.ulp ≤ q := min_le_left ..
  have hpu : min q t.ulp ≤ t.ulp := min_le_right ..
  obtain ⟨rfl, hinf, -, hw⟩ := ht.finInt_of_decode hc' h2 hpu
  obtain ⟨y, hy, hbest⟩ := ht.roundsBest_encode mode (hp.trans hq) hpu h1
  have hbest0 := hbest 0 ht.infCode_pos
  rw [t.valueAt_zero] at hbest0
  have hsigned := (hbest c hinf).signed hbest0 n2
  rw [valueAt, ← hy, ← hw, magAt, ← finInt_eq_signedInt, finInt_mul n m hp hq, finInt_mul n1 m1 hp hq1, finInt_mul n2 m2 hp hq2] at hsigned
  exact hsigned.of_mul (by positivity)

/-- A value of the format encodes to its own code. -/
theorem FpFmt.Std.encode_decode {c : Nat} (hc : c < 2 ^ t.width) (hnan : t.decode c ≠ .nan) : t.encode 1 (t.decode c) = c := by
  obtain ⟨n, c, hc', rfl⟩ := t.exists_signed hc
  have hmax := ht.maxCode_add_one
  cases hv : t.decode (t.signed n c) with
  | nan => exact absurd hv hnan
  | inf n' =>
    rw [ht.decode_signed n hc'] at hv
    split at hv
    next => split at hv <;> cases hv
    next =>
      split at hv
      next hinf => cases hv; rw [encode, if_pos ht.spc, hinf]
      next => cases hv
  | fin n' m e =>
    obtain ⟨rfl, hinf, he, hfin⟩ := ht.finInt_of_decode hc' hv le_rfl
    have hmag : magAt m e t.ulp = t.valueAt t.ulp c := by
      have habs := congrArg Int.natAbs hfin
      rwa [finInt_eq_signedInt, natAbs_signedInt, natAbs_signedInt] at habs
    by_cases hm : m = 0
    · have hzero : t.valueAt t.ulp c = t.valueAt t.ulp 0 := by rw [← hmag, hm, magAt, zero_mul, t.valueAt_zero]
      rw [encode, if_pos hm, (t.valueAt_strictMono _).injective hzero]
    · have hdiv := Nat.div_add_mod' (magAt m e t.ulp) (t.unitAt m e t.ulp)
      have hmod := Nat.mod_lt (magAt m e t.ulp) (t.unitAt_pos m e t.ulp)
      have hexact : magAt m e t.ulp % t.unitAt m e t.ulp = 0 := by
        have := t.valueAt_gap hm he le_rfl c
        omega
      have hcode : t.roundCode 1 n' m e = c := by
        apply (t.valueAt_strictMono t.ulp).injective
        rw [t.valueAt_roundCode hm he le_rfl, ← hmag, roundDiv, roundsUp, if_pos hexact]
        simpa [hexact] using hdiv
      rw [ht.encode_fin 1 n' e hm, hcode, if_neg (by omega)]

end Std

end Sys2Proof
end

section
/-!
PROOFS. Values delivered to a destination (R94 to R96), and the elements of a value (R109).
-/

namespace Sys2Proof.Machine

/-! ## Destinations -/

/-- A pair of g registers of one lane is no other lane's. -/
theorem RF.read2_write2_of_isG (r : RF) {c : BitVec 8} {l m : Nat} (v : DWord) (hc : isG c = true) (hc' : isG (c + 1) = true)
    (hl : l < 32) (hm : m < 32) : (r.write2 c l v).read2 c m = if m = l then v else r.read2 c m := by
  have hz := isGz_of_isG hc
  by_cases h : m = l
  · subst h
    rw [if_pos rfl, RF.read2_write2_same r v hz hl (isGz_of_isG hc')]
  · have hne : c + 1 ≠ c := by bv_omega
    rw [if_neg h, RF.read2_of_not_gz _ _ hz, RF.read2_of_not_gz _ _ hz, RF.write2_of_not_gz r l v hz, RF.read1_write1_of_isG _ _ hc' hl hm, if_neg h,
      RF.read1_write1_ne _ _ hne hl hm, RF.read1_write1_ne _ _ hne.symm hl hm, RF.read1_write1_of_isG _ _ hc hl hm, if_neg h]

/-- The upper register of a pair of g registers is one of them. -/
theorem isG_add_one_of_codeOk {c : BitVec 8} (h : codeOk 2 c = true) (hg : isG c = true) : isG (c + 1) = true := by
  have hlt := (isG_iff c).mp hg
  have hk : isK c = false := by rw [Bool.eq_false_iff, Ne, isK_iff]; omega
  simp only [codeOk, isGz_of_isG hg, hg, hk, Bool.false_or, Bool.true_and, Bool.false_and, Bool.or_false, Bool.and_eq_true, decide_eq_true_eq] at h
  rw [isG_iff]
  bv_omega

/-- A register or a pair of g registers reads in each lane as what that lane was written. -/
theorem RF.readD_writeD_of_isG (r : RF) {n : Nat} {d : BitVec 8} {l k : Nat} (v : DWord) (hn : n = 1 ∨ n = 2) (hd : codeOk n d = true)
    (hg : isG d = true) (hl : l < 32) (hk : k < 32) :
    (r.writeD n d l v).readD n d k = if k = l then lowPart n v else r.readD n d k := by
  rcases hn with rfl | rfl
  · simp only [RF.readD, RF.writeD, if_pos, RF.read1_write1_of_isG r _ hg hl hk]
    split <;> rfl
  · exact r.read2_write2_of_isG v hg (isG_add_one_of_codeOk hd hg) hl hk

/-- A register or a pair other than gz reads as what was written. -/
theorem RF.readD_writeD_same (r : RF) {n : Nat} {d : BitVec 8} {l : Nat} (v : DWord) (hn : n = 1 ∨ n = 2) (hd : codeOk n d = true)
    (hz : isGz d = false) (hl : l < 32) : (r.writeD n d l v).readD n d l = lowPart n v := by
  rcases hn with rfl | rfl
  · simp only [RF.readD, RF.writeD, if_pos, RF.read1_write1_same r _ hz hl]
    rfl
  · have hlt : d.toNat + 2 ≤ 0xFE := toNat_add_le_of_codeOk (by decide) hd hz
    exact r.read2_write2_same v hz hl ((isGz_eq_false_iff _).mpr (by bv_omega))

theorem RF.writeD_gz (r : RF) (n l : Nat) (v : DWord) : r.writeD n 0xFF#8 l v = r := by
  unfold RF.writeD
  split <;> rfl

theorem isK_of_isG {c : BitVec 8} (h : isG c = true) : isK c = false :=
  Bool.eq_false_iff.mpr fun hk => by simp [isG_of_isK hk] at h

/-- A write of a destination in the lanes in which an instruction acts delivers the values. -/
theorem delivers_writeLanes {n : Nat} {d : BitVec 8} (hn : n = 1 ∨ n = 2) (hd : codeOk n d = true) (v : RF → Nat → DWord) :
    delivers (fun r ls => r.writeLanes n d ls (v r)) n d v := by
  intro r ls _ hls
  refine ⟨fun hz => ?gz, fun hg l hl => ?g, fun hk l hl => ?k, ?none⟩
  case gz =>
    obtain rfl : d = 0xFF#8 := eq_of_beq hz
    exact RF.foldl_keep id _ ls (fun r l _ => r.writeD_gz n l _) r
  case g =>
    have hown := RF.foldl_own (fun r k => r.readD n d k) (fun t l => t.writeD n d l (v r l)) (fun l => lowPart n (v r l)) ls
      (fun t l hl k hk => t.readD_writeD_of_isG _ hn hd hg (hls l hl) hk) r l (hls l hl)
    rw [if_pos hl] at hown
    simp only [RF.writeLanes, isK_of_isG hg]
    exact hown
  case k =>
    cases ls with
    | nil => cases hl
    | cons m t =>
      obtain rfl : m = l := Option.some.inj hl
      simp only [RF.writeLanes, hk, if_true]
      exact r.readD_writeD_same _ hn hd (isGz_of_isK hk) (hls m List.mem_cons_self)
  case none =>
    rintro rfl
    simp [RF.writeLanes]

/-- The same of a type that takes one register. -/
theorem delivers_writeLanes_one {n : Nat} {d : BitVec 8} (hn : n = 1) (hd : codeOk 1 d = true) (v : RF → Nat → DWord) :
    delivers (fun r ls => r.writeLanes n d ls (v r)) 1 d v := by
  subst hn
  exact delivers_writeLanes (.inl rfl) hd v

/-! ## Elements -/

/-- The number that `pack` forms: `n` digits of `w` bits, digit 0 lowest. -/
def digits (w : Nat) (g : Nat → Nat) (n : Nat) : Nat := (List.range n).foldr (fun i acc => g i % 2 ^ w * 2 ^ (w * i) + acc) 0

theorem foldr_add_init (h : Nat → Nat) (l : List Nat) (a : Nat) : l.foldr (fun i acc => h i + acc) a = l.foldr (fun i acc => h i + acc) 0 + a := by
  induction l with
  | nil => simp
  | cons x l ih => rw [List.foldr_cons, List.foldr_cons, ih, add_assoc]

theorem digits_succ (w : Nat) (g : Nat → Nat) (n : Nat) : digits w g (n + 1) = digits w g n + g n % 2 ^ w * 2 ^ (w * n) := by
  simp only [digits, List.range_succ, List.foldr_append]
  exact foldr_add_init (fun i => g i % 2 ^ w * 2 ^ (w * i)) (List.range n) _

theorem digits_lt (w : Nat) (g : Nat → Nat) (n : Nat) : digits w g n < 2 ^ (w * n) := by
  induction n with
  | zero => simp [digits]
  | succ n ih =>
    have hg : g n % 2 ^ w + 1 ≤ 2 ^ w := Nat.mod_lt _ (Nat.two_pow_pos w)
    calc digits w g (n + 1) < (g n % 2 ^ w + 1) * 2 ^ (w * n) := by rw [digits_succ, add_one_mul]; omega
      _ ≤ 2 ^ w * 2 ^ (w * n) := Nat.mul_le_mul_right _ hg
      _ = 2 ^ (w * (n + 1)) := by rw [← pow_add]; ring

theorem digits_digit (w : Nat) (g : Nat → Nat) {n i : Nat} (hi : i < n) : digits w g n / 2 ^ (w * i) % 2 ^ w = g i % 2 ^ w := by
  induction n with
  | zero => omega
  | succ n ih =>
    rw [digits_succ]
    rcases Nat.lt_succ_iff_lt_or_eq.mp hi with h | rfl
    · obtain ⟨k, rfl⟩ := Nat.exists_eq_add_of_lt h
      have hsplit : g (i + k + 1) % 2 ^ w * 2 ^ (w * (i + k + 1)) = 2 ^ (w * i) * (2 ^ w * (g (i + k + 1) % 2 ^ w * 2 ^ (w * k))) := by
        rw [show w * (i + k + 1) = w * i + (w + w * k) by ring, pow_add, pow_add]; ring
      rw [hsplit, Nat.add_mul_div_left _ _ (Nat.two_pow_pos _), Nat.add_mul_mod_self_left]
      exact ih h
    · rw [Nat.add_mul_div_right _ _ (Nat.two_pow_pos _), Nat.div_eq_of_lt (digits_lt w g i), zero_add, Nat.mod_mod]

theorem elemW_mul_elemN_le (ty : BitVec 4) : elemW ty * elemN ty ≤ 64 := by revert ty; decide

theorem toNat_pack (ty : BitVec 4) (g : Nat → Nat) : (pack ty g).toNat = digits (elemW ty) g (elemN ty) :=
  (BitVec.toNat_ofNat ..).trans (Nat.mod_eq_of_lt ((digits_lt ..).trans_le (Nat.pow_le_pow_right two_pos (elemW_mul_elemN_le ty))))

/-- An element of a value is what it was packed from. -/
theorem elem_pack (ty : BitVec 4) (g : Nat → Nat) {i : Nat} (hi : i < elemN ty) : elem ty (pack ty g) i = g i % 2 ^ elemW ty := by
  rw [elem, toNat_pack, digits_digit _ _ hi]

theorem elem_pack_of_lt (ty : BitVec 4) (g : Nat → Nat) {i : Nat} (hi : i < elemN ty) (h : g i < 2 ^ elemW ty) : elem ty (pack ty g) i = g i := by
  rw [elem_pack ty g hi, Nat.mod_eq_of_lt h]

end Sys2Proof.Machine
end

section
/-!
PROOFS. Codes of a format as elements of a register (R98, R108, R109), and the vector ALU's floating instructions (R333, R334): each element of
the result is the exact result scaled, rounded, flushed and clamped.
-/

namespace Sys2Proof

/-! ## The width of a code -/

theorem FpFmt.signed_lt (t : FpFmt) (n : Bool) {c : Nat} (hc : c < 2 ^ (t.e + t.f)) : t.signed n c < 2 ^ t.width := by
  rw [width, add_assoc, pow_add, pow_one]
  cases n
  · exact hc.trans_le (Nat.le_mul_of_pos_left _ two_pos)
  · simp only [signed, if_true]; omega

theorem FpFmt.flush_le (t : FpFmt) (ftz : Bool) (c : Nat) : t.flush ftz c ≤ c := by
  rw [flush]
  split
  · exact Nat.div_mul_le_self ..
  · exact le_rfl

theorem FpFmt.clamp_cases (t : FpFmt) (clp c : Nat) :
    t.clamp clp c = 0 ∨ t.clamp clp c = t.one ∨ t.clamp clp c = t.signed true t.one ∨ t.clamp clp c = c := by
  simp only [clamp]
  split
  next =>
    split
    next => split <;> simp
    next => exact .inl rfl
  next =>
    split
    next =>
      split
      next => exact .inl rfl
      next => exact .inr (.inl rfl)
      next => split <;> simp
    next => exact .inr (.inr (.inr rfl))

section Std

variable {t : FpFmt} (ht : t.Std)
include ht

theorem FpFmt.Std.overflow_le (mode : Nat) (n : Bool) : t.overflow mode n ≤ t.infCode := by
  have := ht.maxCode_add_one
  rcases ht.overflow_cases mode n with ⟨-, h⟩ | h <;> omega

/-- A finite value rounds to a code of its sign, up to infinity. -/
theorem FpFmt.Std.exists_encode_fin (mode : Nat) (n : Bool) (m : Nat) (e : Int) :
    ∃ c, c ≤ t.infCode ∧ t.encode mode (.fin n m e) = t.signed n c := by
  by_cases hm : m = 0
  · exact ⟨0, Nat.zero_le _, by rw [encode, if_pos hm]⟩
  · refine ⟨_, ?_, ht.encode_fin mode n e hm⟩
    have := ht.maxCode_add_one
    split
    · exact ht.overflow_le mode n
    · omega

theorem FpFmt.Std.nanCode_lt : t.nanCode < 2 ^ (t.e + t.f) := by
  have hhalf : 2 ^ (t.f - 1) < 2 ^ t.f := Nat.pow_lt_pow_right one_lt_two (Nat.sub_lt ht.frac one_pos)
  rw [nanCode, if_pos ht.spc, infCode, pow_add]
  calc (2 ^ t.e - 1) * 2 ^ t.f + 2 ^ (t.f - 1) < (2 ^ t.e - 1 + 1) * 2 ^ t.f := by rw [add_one_mul]; omega
    _ = 2 ^ t.e * 2 ^ t.f := by rw [Nat.sub_add_cancel (Nat.one_le_two_pow)]

theorem FpFmt.Std.encode_lt (mode : Nat) (v : FpVal) : t.encode mode v < 2 ^ t.width := by
  cases v with
  | nan => exact t.signed_lt false ht.nanCode_lt
  | inf n => rw [encode, if_pos ht.spc]; exact t.signed_lt n t.infCode_lt
  | fin n m e =>
    obtain ⟨c, hc, h⟩ := ht.exists_encode_fin mode n m e
    rw [h]
    exact t.signed_lt n (hc.trans_lt t.infCode_lt)

theorem FpFmt.Std.one_le : t.one ≤ t.infCode := by
  obtain ⟨c, hc, h⟩ := ht.exists_encode_fin 1 false 1 0
  rwa [one, h]

theorem FpFmt.Std.clamp_lt (clp : Nat) {c : Nat} (hc : c < 2 ^ t.width) : t.clamp clp c < 2 ^ t.width := by
  have hone := ht.one_le.trans_lt t.infCode_lt
  rcases t.clamp_cases clp c with h | h | h | h <;> rw [h]
  · exact Nat.two_pow_pos _
  · exact t.signed_lt false hone
  · exact t.signed_lt true hone
  · exact hc

/-- What is delivered is a code of the format. -/
theorem FpFmt.Std.clamp_flush_encode_lt (clp : Nat) (ftz : Bool) (mode : Nat) (v : FpVal) :
    t.clamp clp (t.flush ftz (t.encode mode v)) < 2 ^ t.width :=
  ht.clamp_lt clp ((t.flush_le ftz _).trans_lt (ht.encode_lt mode v))

end Std

end Sys2Proof

namespace Sys2Proof.Machine

/-! ## Elements of the floating types -/

section Float

variable {ty : BitVec 4} (hty : ty = 3 ∨ ty = 4 ∨ ty = 5)
include hty

theorem std_fmtOf : (fmtOf ty).Std := by
  rcases hty with rfl | rfl | rfl <;> exact std_of_mem (by decide)

theorem width_fmtOf : (fmtOf ty).width = elemW ty := by rcases hty with rfl | rfl | rfl <;> rfl

theorem nreg_of_float : nreg ty = 1 := by rcases hty with rfl | rfl | rfl <;> rfl

/-- Codes packed into a value read as they are. -/
theorem elem_pack_code (g : Nat → FpVal) (clp mode : Nat) (ftz : Bool) {i : Nat} (hi : i < elemN ty) :
    elem ty (pack ty fun i => (fmtOf ty).clamp clp ((fmtOf ty).flush ftz ((fmtOf ty).encode mode (g i)))) i
      = (fmtOf ty).clamp clp ((fmtOf ty).flush ftz ((fmtOf ty).encode mode (g i))) :=
  elem_pack_of_lt ty _ hi (width_fmtOf hty ▸ (std_fmtOf hty).clamp_flush_encode_lt clp ftz mode (g i))

/-- A write of packed codes delivers them, element by element. -/
theorem delivers_codes {d : BitVec 8} (hd : codeOk 1 d = true) (g : RF → Nat → Nat → FpVal) (clp mode : Nat) (ftz : Bool) :
    ∃ u : RF → Nat → DWord,
      delivers (fun r ls => r.writeLanes (nreg ty) d ls fun l =>
        pack ty fun i => (fmtOf ty).clamp clp ((fmtOf ty).flush ftz ((fmtOf ty).encode mode (g r l i)))) 1 d u
      ∧ ∀ r l e, e < elemN ty → elem ty (u r l) e = (fmtOf ty).clamp clp ((fmtOf ty).flush ftz ((fmtOf ty).encode mode (g r l e))) :=
  ⟨_, delivers_writeLanes_one (nreg_of_float hty) hd _, fun r l _ he => elem_pack_code hty (g r l) clp mode ftz he⟩

end Float

end Sys2Proof.Machine
end

section
/-!
PROOFS. The choice of the smaller or the larger value (R334), and rounding to an integer (R339, R340).
-/

namespace Sys2Proof

/-! ## Order and choice -/

/-- Two finite values are ordered as their integers at any scale that both exponents reach. -/
theorem FpVal.cmp_fin_of_lt {na nb : Bool} {ma mb : Nat} {ea eb q : Int} (ha : q ≤ ea) (hb : q ≤ eb)
    (h : finInt na ma ea q < finInt nb mb eb q) :
    FpVal.cmp (.fin na ma ea) (.fin nb mb eb) = some .lt ∧ FpVal.cmp (.fin nb mb eb) (.fin na ma ea) = some .gt := by
  have hq : q ≤ min ea eb := le_min ha hb
  have hlt : finInt na ma ea (min ea eb) < finInt nb mb eb (min ea eb) := by
    rw [finInt_mul na ma hq (min_le_left ..), finInt_mul nb mb hq (min_le_right ..)] at h
    exact lt_of_mul_lt_mul_right h (Int.natCast_nonneg _)
  constructor
  · simp [cmp, compare_lt_iff_lt.mpr hlt]
  · simp [cmp, min_comm eb ea, compare_gt_iff_gt.mpr hlt]

/-- Of two finite values the smaller and the larger are chosen, whatever their order. -/
theorem FpVal.pick_fin_of_lt {na nb : Bool} {ma mb : Nat} {ea eb q : Int} (ha : q ≤ ea) (hb : q ≤ eb)
    (h : finInt na ma ea q < finInt nb mb eb q) :
    FpVal.pick false (.fin na ma ea) (.fin nb mb eb) = .fin na ma ea ∧ FpVal.pick false (.fin nb mb eb) (.fin na ma ea) = .fin na ma ea
      ∧ FpVal.pick true (.fin na ma ea) (.fin nb mb eb) = .fin nb mb eb ∧ FpVal.pick true (.fin nb mb eb) (.fin na ma ea) = .fin nb mb eb := by
  obtain ⟨hlt, hgt⟩ := FpVal.cmp_fin_of_lt ha hb h
  simp [pick, hlt, hgt]

/-- Minus infinity is the smaller of any two values. -/
theorem FpVal.pick_neg_inf {x : FpVal} (hx : x ≠ .nan) :
    FpVal.pick false (.inf true) x = .inf true ∧ FpVal.pick false x (.inf true) = .inf true
      ∧ FpVal.pick true (.inf true) x = x ∧ FpVal.pick true x (.inf true) = x := by
  cases x with
  | nan => exact absurd rfl hx
  | inf n => cases n <;> exact ⟨rfl, rfl, rfl, rfl⟩
  | fin n m e => exact ⟨rfl, rfl, rfl, rfl⟩

/-- Plus infinity is the larger of any two values. -/
theorem FpVal.pick_pos_inf {x : FpVal} (hx : x ≠ .nan) :
    FpVal.pick true (.inf false) x = .inf false ∧ FpVal.pick true x (.inf false) = .inf false
      ∧ FpVal.pick false (.inf false) x = x ∧ FpVal.pick false x (.inf false) = x := by
  cases x with
  | nan => exact absurd rfl hx
  | inf n => cases n <;> exact ⟨rfl, rfl, rfl, rfl⟩
  | fin n m e => exact ⟨rfl, rfl, rfl, rfl⟩

/-- Of two zeros −0 is the smaller (R334). -/
theorem FpVal.pick_zeros (mx n : Bool) (e : Int) : FpVal.pick mx (.fin n 0 e) (.fin (!n) 0 e) = .fin (!mx) 0 e := by
  cases mx <;> cases n <;> simp [pick, cmp, finInt, neg?]

theorem FpVal.pick_nan_right (mx : Bool) (x : FpVal) : FpVal.pick mx x .nan = x := by cases x <;> rfl
theorem FpVal.add_nan_right (x : FpVal) : x.add .nan = .nan := by cases x <;> rfl
theorem FpVal.mul_nan_right (x : FpVal) : x.mul .nan = .nan := by cases x <;> rfl
theorem FpVal.inf_add_opposite (n : Bool) : (FpVal.inf n).add (.inf !n) = .nan := by cases n <;> rfl

/-- Opposite finite values sum to +0 (R107). -/
theorem FpVal.add_opposite (m : Nat) (e : Int) : (FpVal.fin false m e).add (.fin true m e) = .fin false 0 0 := by
  by_cases h : m = 0 <;> simp [add, h, finInt]

/-! ## Integers -/

/-- A finite value rounded to an integer, at any scale that its exponent and 0 reach. -/
theorem roundsToInt_roundInt (mode : Nat) (n : Bool) (m : Nat) {e p : Int} (he : p ≤ e) (hp : p ≤ 0) :
    RoundsToInt mode (roundInt (max 1 mode) n m e) (finInt n m e p) (2 ^ (-p).toNat) := by
  have h := roundsToInt_roundDiv mode n (m * 2 ^ (e - p).toNat) (Nat.two_pow_pos (0 - p).toNat)
  rw [← roundMag_eq_roundDiv _ n false m he hp, ← roundInt_eq_signedInt, ← finInt_eq_signedInt, zero_sub] at h
  exact_mod_cast h

end Sys2Proof
end

section
/-!
PROOFS. FRND and CVT (R338 to R340): rounding to an integral value, conversions to a floating type and to an integer type.
-/

namespace Sys2Proof.Machine

theorem modeOf_eq_max (c : Nat) : modeOf c = max 1 c := by
  unfold modeOf
  split <;> omega

/-! ## FRND -/

/-- The integral value of a value with fraction bits is the integer to which the mode rounds it. -/
theorem exists_integral_fin (mode : Nat) (n : Bool) (m : Nat) {e : Int} (he : e < 0) :
    ∃ k : Nat, FpVal.integral (max 1 mode) (.fin n m e) = .fin n k 0 ∧ RoundsToInt mode (signedInt n k) (finInt n m e e) (2 ^ (-e).toNat) :=
  ⟨roundMag (max 1 mode) n false m e 0, by rw [FpVal.integral, if_neg (by omega)], roundsToInt_roundInt mode n m le_rfl he.le⟩

/-- FRND delivers the code of the integral value, element by element. -/
theorem delivers_frnd {f : FmtA} (hd : codeOk 1 f.d = true) (hty : f.ty = 3 ∨ f.ty = 4 ∨ f.ty = 5) :
    ∃ u : RF → Nat → DWord, delivers (rfFrnd f) 1 f.d u ∧ ∀ r l e, e < elemN f.ty →
      let x := ((fmtOf f.ty).decode ((fmtOf f.ty).flush (flushOf f.c) (elem f.ty (srcA f r l) e))).scale f.sc.toInt
      elem f.ty (u r l) e = (fmtOf f.ty).clamp f.clp.toNat ((fmtOf f.ty).flush (flushOf f.c)
        ((fmtOf f.ty).encode (max 1 (fieldN f.c 0 4)) (x.integral (max 1 (fieldN f.c 0 4))))) := by
  simp only [← modeOf_eq_max]
  exact delivers_codes hty hd _ _ _ _

/-! ## The value of CVT by its types (R338, R339) -/

section Values

variable (f : FmtA) (a b : DWord)

theorem cvtValue_f32_of_float (hd : f.ty = 3) (hs : isFloat (cvtSrc f) = true) :
    cvtValue f a b = BitVec.ofNat 64 (fp32.deliver 1 (scaleOf f.sc) false f.clp.toNat
      ((fmtOf (cvtSrc f)).decode (elem (cvtSrc f) a (if cvtSrc f = 3 then 0 else f.nb.toNat)))) := by
  simp [cvtValue, hd, hs, show isFloat 3#4 = true from rfl]

theorem cvtValue_f32_of_int (hd : f.ty = 3) (hs : isFloat (cvtSrc f) = false) :
    cvtValue f a b = BitVec.ofNat 64 (fp32.deliver (modeOf (cvtRnd f).toNat) (scaleOf f.sc) false f.clp.toNat
      (intFp (intOf (cvtSrc f) (elem (cvtSrc f) a 0)))) := by
  simp [cvtValue, hd, hs, show isFloat 3#4 = true from rfl]

theorem cvtValue_half_of_f32 (hd : f.ty = 4 ∨ f.ty = 5) (hs : cvtSrc f = 3) :
    cvtValue f a b = pack f.ty fun i => (fmtOf f.ty).deliver (modeOf (cvtRnd f).toNat) (scaleOf f.sc) false f.clp.toNat
      (fp32.decode (elem 3 (if i = 0 then a else b) 0)) := by
  rcases hd with hd | hd <;> simp [cvtValue, hd, hs, isFloat]

theorem cvtValue_half_of_half (hd : f.ty = 4 ∨ f.ty = 5) (hs : cvtSrc f = 4 ∨ cvtSrc f = 5) :
    cvtValue f a b = pack f.ty fun i => (fmtOf f.ty).deliver (modeOf (cvtRnd f).toNat) (scaleOf f.sc) false f.clp.toNat
      ((fmtOf (cvtSrc f)).decode (elem (cvtSrc f) a i)) := by
  rcases hd with hd | hd <;> rcases hs with hs | hs <;> simp [cvtValue, hd, hs, isFloat]

theorem cvtValue_int_of_f32 (hd : isFloat f.ty = false) (hs : cvtSrc f = 3) :
    cvtValue f a b = pack f.ty fun i => wrapInt (elemW f.ty) ((fp32.decode (elem 3 (if i = 0 then a else b) 0)).toIntRange
      (modeOf (cvtRnd f).toNat) (intLo f.ty) (intHi f.ty)) := by
  simp [cvtValue, hd, hs]

end Values

/-! ## CVT to a floating type -/

/-- A code of f32 in a register reads as it is. -/
theorem elem_deliver_f32 (mode : Nat) (sc : Int) (clp : Nat) (v : FpVal) :
    elem 3 (BitVec.ofNat 64 (fp32.deliver mode sc false clp v)) 0 = fp32.clamp clp (fp32.encode mode (v.scale sc)) := by
  have h : fp32.deliver mode sc false clp v < 2 ^ 32 := (std_of_mem (by decide)).clamp_flush_encode_lt clp false mode (v.scale sc)
  change (BitVec.ofNat 64 (fp32.deliver mode sc false clp v)).toNat / 1 % 2 ^ 32 = fp32.deliver mode sc false clp v
  rw [BitVec.toNat_ofNat]
  omega

/-- A code of a floating type in a value of packed elements reads as it is. -/
theorem elem_deliver_pack {ty : BitVec 4} (hty : ty = 4 ∨ ty = 5) (mode : Nat) (sc : Int) (clp : Nat) (g : Nat → FpVal) {i : Nat} (hi : i < 2) :
    elem ty (pack ty fun i => (fmtOf ty).deliver mode sc false clp (g i)) i = (fmtOf ty).clamp clp ((fmtOf ty).encode mode ((g i).scale sc)) :=
  elem_pack_code (.inr hty) (fun i => (g i).scale sc) clp mode false (by rcases hty with rfl | rfl <;> exact hi)

/-- The code of an exact value in CVT's destination type: scaled, rounded once in the mode, clamped. -/
def cvtCode (f : FmtA) (mode : Nat) (v : FpVal) : Nat :=
  (fmtOf f.ty).clamp f.clp.toNat ((fmtOf f.ty).encode mode (v.scale f.sc.toInt))

section ToFloat

variable (f : FmtA) (a b : DWord)

theorem elem_cvtValue_f32_of_half (hd : f.ty = 3) (hs : cvtSrc f = 4 ∨ cvtSrc f = 5) :
    elem f.ty (cvtValue f a b) 0 = cvtCode f 1 ((fmtOf (cvtSrc f)).decode (elem (cvtSrc f) a f.nb.toNat)) := by
  have h3 : cvtSrc f ≠ 3 := by rcases hs with hs | hs <;> rw [hs] <;> decide
  have hfloat : isFloat (cvtSrc f) = true := by rcases hs with hs | hs <;> rw [hs] <;> rfl
  rw [cvtValue_f32_of_float f a b hd hfloat, if_neg h3, cvtCode, hd]
  exact elem_deliver_f32 ..

theorem elem_cvtValue_f32_of_f32 (hd : f.ty = 3) (hs : cvtSrc f = 3) :
    elem f.ty (cvtValue f a b) 0 = cvtCode f 1 (fp32.decode (elem 3 a 0)) := by
  rw [cvtValue_f32_of_float f a b hd (congrArg isFloat hs), if_pos hs, hs, cvtCode, hd]
  exact elem_deliver_f32 ..

theorem elem_cvtValue_f32_of_int (hd : f.ty = 3) (hs : cvtSrc f = 1 ∨ cvtSrc f = 2 ∨ cvtSrc f = 11 ∨ cvtSrc f = 12) :
    elem f.ty (cvtValue f a b) 0 = cvtCode f (max 1 (cvtRnd f).toNat) (intFp (intOf (cvtSrc f) (elem (cvtSrc f) a 0))) := by
  have hint : isFloat (cvtSrc f) = false := by rcases hs with hs | hs | hs | hs <;> rw [hs] <;> rfl
  rw [cvtValue_f32_of_int f a b hd hint, cvtCode, hd, modeOf_eq_max]
  exact elem_deliver_f32 ..

theorem elem_cvtValue_half_of_f32 (hd : f.ty = 4 ∨ f.ty = 5) (hs : cvtSrc f = 3) {i : Nat} (hi : i < 2) :
    elem f.ty (cvtValue f a b) i = cvtCode f (max 1 (cvtRnd f).toNat) (fp32.decode (elem 3 (if i = 0 then a else b) 0)) := by
  rw [cvtValue_half_of_f32 f a b hd hs, modeOf_eq_max]
  exact elem_deliver_pack hd _ _ _ _ hi

theorem elem_cvtValue_half_of_half (hd : f.ty = 4 ∨ f.ty = 5) (hs : cvtSrc f = 4 ∨ cvtSrc f = 5) {i : Nat} (hi : i < 2) :
    elem f.ty (cvtValue f a b) i = cvtCode f (max 1 (cvtRnd f).toNat) ((fmtOf (cvtSrc f)).decode (elem (cvtSrc f) a i)) := by
  rw [cvtValue_half_of_half f a b hd hs, modeOf_eq_max]
  exact elem_deliver_pack hd _ _ _ _ hi

end ToFloat

/-! ## CVT to an integer type -/

theorem intLo_le_zero (ty : BitVec 4) : intLo ty ≤ 0 := by revert ty; decide
theorem zero_le_intHi (ty : BitVec 4) : 0 ≤ intHi ty := by revert ty; decide
theorem elemW_pos (ty : BitVec 4) : 0 < elemW ty := by revert ty; decide

theorem wrapInt_lt (w : Nat) (x : Int) : wrapInt w x < 2 ^ w := by
  have hpos : (0 : Int) < 2 ^ w := by positivity
  rw [wrapInt, Int.toNat_lt (Int.emod_nonneg _ hpos.ne')]
  exact_mod_cast Int.emod_lt_of_pos x hpos

/-- A number in the range of an integer type is what its bits stand for. -/
theorem intOf_wrapInt (ty : BitVec 4) {x : Int} (hlo : intLo ty ≤ x) (hhi : x ≤ intHi ty) : intOf ty (wrapInt (elemW ty) x) = x := by
  obtain ⟨w, hw⟩ := Nat.exists_eq_add_one.mpr (elemW_pos ty)
  have hpos : (0 : Int) < 2 ^ w := by positivity
  have hcast : ((wrapInt (w + 1) x : Nat) : Int) = x % (2 ^ w * 2) := by
    rw [wrapInt, pow_succ]
    exact Int.toNat_of_nonneg (Int.emod_nonneg _ (by positivity))
  have hle : 2 ^ w ≤ wrapInt (w + 1) x ↔ (2 ^ w : Int) ≤ x % (2 ^ w * 2) := by rw [← hcast]; norm_cast
  rw [intLo, hw, Nat.add_sub_cancel] at hlo
  rw [intHi, hw, Nat.add_sub_cancel, pow_succ] at hhi
  rw [intOf, hw, Nat.add_sub_cancel, pow_succ, hcast]
  simp only [Bool.and_eq_true, decide_eq_true_eq, hle]
  cases hsign : isSigned ty with
  | false =>
    simp only [hsign, Bool.false_eq_true, if_false, false_and] at hlo hhi ⊢
    exact Int.emod_eq_of_lt hlo (by omega)
  | true =>
    simp only [hsign, if_true, true_and] at hlo hhi ⊢
    rcases lt_or_ge x 0 with h | h
    · rw [← Int.add_emod_right, Int.emod_eq_of_lt (by omega) (by omega), if_pos (by omega)]
      omega
    · rw [Int.emod_eq_of_lt h (by omega), if_neg (by omega)]

/-- Every value that R339 rounds to lies in the range. -/
theorem toIntRange_mem (mode : Nat) {lo hi : Int} (hlo : lo ≤ 0) (hhi : 0 ≤ hi) (x : FpVal) :
    lo ≤ x.toIntRange mode lo hi ∧ x.toIntRange mode lo hi ≤ hi := by
  cases x with
  | nan => exact ⟨hlo, hhi⟩
  | inf n => cases n <;> simp [FpVal.toIntRange] <;> omega
  | fin n m e => simp only [FpVal.toIntRange]; omega

/-- CVT of an f32 to an integer type gives the value rounded into the type's range (R339). -/
theorem intOf_cvtValue (f : FmtA) (A B : DWord) (hd : f.ty = 1 ∨ f.ty = 2 ∨ f.ty = 11 ∨ f.ty = 12) (hs : cvtSrc f = 3) :
    intOf f.ty (elem f.ty (cvtValue f A B) 0) = (fp32.decode (elem 3 A 0)).toIntRange (max 1 (cvtRnd f).toNat) (intLo f.ty) (intHi f.ty) := by
  have hfloat : isFloat f.ty = false := by rcases hd with h | h | h | h <;> rw [h] <;> rfl
  have hn : 0 < elemN f.ty := by rcases hd with h | h | h | h <;> rw [h] <;> decide
  obtain ⟨hlo, hhi⟩ := toIntRange_mem (max 1 (cvtRnd f).toNat) (intLo_le_zero f.ty) (zero_le_intHi f.ty) (fp32.decode (elem 3 A 0))
  rw [cvtValue_int_of_f32 f A B hfloat hs, elem_pack_of_lt _ _ hn (wrapInt_lt ..), if_pos rfl, modeOf_eq_max, intOf_wrapInt _ hlo hhi]

end Sys2Proof.Machine
end

section
/-!
PROOFS. The symmetries of FSIN, FCOS and FTANH (R336): an operand of the other sign gives the same magnitude, under the other sign for FSIN and
FTANH.
-/

namespace Sys2Proof

/-! ## Codes of the two signs -/

theorem FpFmt.signed_mod (t : FpFmt) (n : Bool) {c : Nat} (hc : c < 2 ^ (t.e + t.f)) : t.signed n c % 2 ^ (t.e + t.f) = c := by
  cases n with
  | false => exact Nat.mod_eq_of_lt hc
  | true => rw [signed, if_pos rfl, Nat.add_mod_left, Nat.mod_eq_of_lt hc]

/-- The code of the other sign decodes to the other sign's value. -/
theorem FpFmt.Std.decode_signed_not {t : FpFmt} (ht : t.Std) (n : Bool) {c : Nat} (hc : c < 2 ^ (t.e + t.f)) :
    t.decode (t.signed (!n) c) = (t.decode (t.signed n c)).flip := by
  rw [ht.decode_signed n hc, ht.decode_signed (!n) hc]
  split
  · split <;> rfl
  · split <;> rfl

/-- The negate modifier changes the sign. -/
theorem FpFmt.modify_signed (t : FpFmt) (neg n : Bool) {c : Nat} (hc : c < 2 ^ (t.e + t.f)) :
    t.modify neg false (t.signed n c) = t.signed (n != neg) c := by
  cases neg <;> cases n <;> simp [modify, signed, Nat.div_eq_of_lt hc, add_comm]

/-- A flush leaves the sign, and what becomes of the magnitude does not depend on it (R108). -/
theorem FpFmt.flush_signed (t : FpFmt) (ftz n : Bool) {c : Nat} (hc : c < 2 ^ (t.e + t.f)) :
    t.flush ftz (t.signed n c) = t.signed n (t.flush ftz c) := by
  obtain ⟨-, he, hm⟩ := t.signed_fields n hc
  obtain ⟨-, he0, -⟩ := t.signed_fields false hc
  have hS := Nat.two_pow_pos (t.e + t.f)
  have hsub : t.subnormal (t.signed n c) = t.subnormal c := by
    rw [subnormal, subnormal, he, hm, show c / 2 ^ t.f % 2 ^ t.e = c / 2 ^ t.f from he0]
  rw [flush, flush, hsub]
  split
  · cases n <;> simp [signed, Nat.div_eq_of_lt hc, Nat.add_div_left _ hS]
  · rfl

theorem fp32_signed_true (c : Nat) : fp32.signed true c = 2 ^ 31 + c := rfl
theorem fp32_signed_false (c : Nat) : fp32.signed false c = c := rfl

/-- A power of two above a number is a bit of its own. -/
theorem two_pow_add_eq_xor {k c : Nat} (hc : c < 2 ^ k) : 2 ^ k + c = c ^^^ 2 ^ k := by
  refine Nat.eq_of_testBit_eq fun i => ?_
  rw [Nat.testBit_xor, Nat.testBit_two_pow]
  rcases Nat.lt_trichotomy i k with hi | rfl | hi
  · simp [Nat.testBit_two_pow_add_gt hi, hi.ne']
  · simp [Nat.testBit_two_pow_add_eq]
  · have hpow : 2 ^ (k + 1) ≤ 2 ^ i := Nat.pow_le_pow_right two_pos hi
    rw [pow_succ] at hpow
    rw [Nat.testBit_lt_two_pow (show 2 ^ k + c < 2 ^ i by omega), Nat.testBit_lt_two_pow (show c < 2 ^ i by omega)]
    simp [hi.ne]

/-- A code of the other sign, as a word. -/
theorem ofNat_signed_not (n : Bool) {c : Nat} (hc : c < 2 ^ 31) :
    BitVec.ofNat 64 (fp32.signed (!n) c) = BitVec.ofNat 64 (fp32.signed n c) ^^^ 0x80000000#64 := by
  have h : BitVec.ofNat 64 (2 ^ 31 + c) = BitVec.ofNat 64 c ^^^ 0x80000000#64 := by
    rw [two_pow_add_eq_xor hc, BitVec.ofNat_xor]
    rfl
  cases n with
  | false => rw [Bool.not_false, fp32_signed_true, fp32_signed_false, h]
  | true => rw [Bool.not_true, fp32_signed_true, fp32_signed_false, h, BitVec.xor_assoc, BitVec.xor_self, BitVec.xor_zero]

/-- Two f32 codes that differ in their sign bit. -/
theorem exists_signed_not {x y : Nat} (hy : y < 2 ^ 32) (h : (y + 2 ^ 31) % 2 ^ 32 = x) :
    ∃ n c, c < 2 ^ 31 ∧ x = fp32.signed n c ∧ y = fp32.signed (!n) c := by
  rcases Nat.lt_or_ge y (2 ^ 31) with hlt | hge
  · refine ⟨true, y, hlt, ?_, ?_⟩
    · rw [fp32_signed_true]; omega
    · rw [Bool.not_true, fp32_signed_false]
  · refine ⟨false, y - 2 ^ 31, by omega, ?_, ?_⟩
    · rw [fp32_signed_false]; omega
    · rw [Bool.not_false, fp32_signed_true]; omega

/-! ## The functions -/

theorem bounded_lt (fn arg : Nat) (b : Int) (r : FpVal) : bounded fn arg b r < 2 ^ 32 := by
  simp only [bounded]
  split
  · exact BitVec.isLt _
  · exact (std_of_mem (by decide)).encode_lt 1 r

/-- A code under the negate modifier and without it: one magnitude under the two signs. -/
theorem exists_modify_not (neg : Bool) {x : Nat} (hx : x < 2 ^ 32) :
    ∃ b c, c < 2 ^ 31 ∧ fp32.modify neg false x = fp32.signed b c ∧ fp32.modify (!neg) false x = fp32.signed (!b) c := by
  obtain ⟨n, c, hc, rfl⟩ := fp32.exists_signed hx
  exact ⟨n != neg, c, hc, fp32.modify_signed neg n hc, by rw [fp32.modify_signed (!neg) n hc, Bool.bne_not]⟩

section Symmetry

variable (n : Bool) {c : Nat} (hc : c < 2 ^ 31) (hnan : fp32.decode (fp32.signed n c) ≠ .nan)
include hc hnan

/-- FCOS does not look at the sign. -/
theorem fspecCode_cos_not : fspecCode 6 (fp32.signed (!n) c) = fspecCode 6 (fp32.signed n c) := by
  have hflip := (std_of_mem (by decide) : fp32.Std).decode_signed_not n hc
  have hmod : fp32.signed (!n) c % 2 ^ 31 = fp32.signed n c % 2 ^ 31 := (fp32.signed_mod (!n) hc).trans (fp32.signed_mod n hc).symm
  cases hv : fp32.decode (fp32.signed n c) with
  | nan => exact absurd hv hnan
  | inf b => simp only [fspecCode, hflip, hv, FpVal.flip]
  | fin b m e => simp only [fspecCode, hflip, hv, FpVal.flip, hmod]

/-- FSIN of a finite value and FTANH of any value have the magnitude of a code, under the operand's sign or the other. -/
theorem fspecCode_odd {fn : Nat} (hfn : fn = 5 ∧ (∀ b, fp32.decode (fp32.signed n c) ≠ .inf b) ∨ fn = 7) :
    ∃ b d, d < 2 ^ 31 ∧ fspecCode fn (fp32.signed n c) = fp32.signed b d ∧ fspecCode fn (fp32.signed (!n) c) = fp32.signed (!b) d := by
  have hstd : fp32.Std := std_of_mem (by decide)
  have hflip := hstd.decode_signed_not n hc
  have hmod : fp32.signed (!n) c % 2 ^ 31 = fp32.signed n c % 2 ^ 31 := (fp32.signed_mod (!n) hc).trans (fp32.signed_mod n hc).symm
  have hone : fp32.one < 2 ^ 31 := hstd.one_le.trans_lt fp32.infCode_lt
  cases hv : fp32.decode (fp32.signed n c) with
  | nan => exact absurd hv hnan
  | inf b =>
    rcases hfn with ⟨-, hinf⟩ | rfl
    · exact absurd hv (hinf b)
    · exact ⟨b, fp32.one, hone, by simp only [fspecCode, hv], by simp only [fspecCode, hflip, hv, FpVal.flip]⟩
  | fin b m e =>
    rcases hfn with ⟨rfl, -⟩ | rfl
    · simp only [fspecCode, hflip, hv, FpVal.flip, hmod]
      split
      · exact ⟨b, 0, by decide, rfl, rfl⟩
      · exact exists_modify_not b (bounded_lt ..)
    · simp only [fspecCode, hflip, hv, FpVal.flip, hmod]
      split
      · exact ⟨b, 0, by decide, rfl, rfl⟩
      · split
        · exact ⟨b, fp32.one, hone, rfl, rfl⟩
        · exact exists_modify_not b (bounded_lt ..)

end Symmetry

end Sys2Proof

namespace Sys2Proof.Machine

/-- A special function without a scale and a clamp delivers its code, flushed. -/
theorem fspecValue_plain {fn : Nat} {f : FmtA} (hsc : f.sc = 0) (hclp : f.clp = 0) (a : DWord) :
    fspecValue fn f a = BitVec.ofNat 64 (fp32.flush (flushOf f.c) (fspecCode fn (fp32.flush (flushOf f.c) (elem 3 a 0)))) := by
  simp [fspecValue, hsc, hclp, FpFmt.clamp]

theorem flush_elem_lt (ftz : Bool) (a : DWord) : fp32.flush ftz (elem 3 a 0) < 2 ^ 32 :=
  (fp32.flush_le ftz _).trans_lt (Nat.mod_lt _ (Nat.two_pow_pos 32))

/-- The symmetries of the functions for operands of opposite signs (R336). -/
theorem fspecValue_symmetry {f : FmtA} (hsc : f.sc = 0) (hclp : f.clp = 0) (a b : DWord) :
    let x := fp32.flush (flushOf f.c) (elem 3 a 0)
    let y := fp32.flush (flushOf f.c) (elem 3 b 0)
    (y + 2 ^ 31) % 2 ^ 32 = x → fp32.decode x ≠ .nan →
      fspecValue 6 f b = fspecValue 6 f a ∧ ((∀ n, fp32.decode x ≠ .inf n) → fspecValue 5 f b = fspecValue 5 f a ^^^ 0x80000000)
      ∧ fspecValue 7 f b = fspecValue 7 f a ^^^ 0x80000000 := by
  intro x y hxy hnan
  obtain ⟨n, c, hc, hx, hy⟩ := exists_signed_not (flush_elem_lt (flushOf f.c) b) hxy
  rw [hx] at hnan
  have hodd : ∀ fn, (fn = 5 ∧ (∀ b, fp32.decode (fp32.signed n c) ≠ .inf b) ∨ fn = 7) →
      fspecValue fn f b = fspecValue fn f a ^^^ 0x80000000 := by
    intro fn hfn
    obtain ⟨s, d, hd, hsx, hsy⟩ := fspecCode_odd n hc hnan hfn
    rw [fspecValue_plain hsc hclp, fspecValue_plain hsc hclp, hy, hsy, show fp32.flush (flushOf f.c) (elem 3 a 0) = _ from hx, hsx,
      fp32.flush_signed _ _ hd, fp32.flush_signed _ _ hd]
    exact ofNat_signed_not s ((fp32.flush_le _ d).trans_lt hd)
  refine ⟨?_, fun hinf => hodd 5 (.inl ⟨rfl, hx ▸ hinf⟩), hodd 7 (.inr rfl)⟩
  rw [fspecValue_plain hsc hclp, fspecValue_plain hsc hclp, hy, fspecCode_cos_not n hc hnan, ← hx]

end Sys2Proof.Machine
end

section
/-!
PROOFS. The statement on floating results.
-/

namespace Sys2Proof.Machine

/-- Settles O18: a rounded value is the best of the format's; the instructions deliver the codes of exact results, element by element; FRND and
CVT round as `RoundsToInt` says; the functions look at the sign in one place. -/
theorem floatResults : Obligations.FloatResults := by
  refine ⟨fun t ht => ⟨?rounding, ?exact, ?nearestEven⟩, ⟨?alu, ?aluImm, ?specials, ?pick⟩, ?frnd, ?cvtFloat, ?symmetry, ?cvtInt⟩
  case rounding =>
    intro mode n m e c n1 n2 m1 m2 e1 e2 q _ _ h1 hc h2 hq hq1 hq2
    obtain ⟨-, haway, hzero, hup, hdown⟩ := (std_of_mem ht).roundsInFormat_encode mode h1 hc h2 hq hq1 hq2
    exact ⟨haway, hzero, hup, hdown⟩
  case exact => exact fun c hc hnan => (std_of_mem ht).encode_decode hc hnan
  case nearestEven =>
    intro n m e c n1 n2 m1 m2 e1 e2 q h1 hc h2 hq hq1 hq2
    exact ((std_of_mem ht).roundsInFormat_encode 1 h1 hc h2 hq hq1 hq2).even rfl
  case alu =>
    -- `fpOp2` and `fpOp3` are the packed codes of `delivers_codes`, each for its own operation.
    intro f hd hty
    refine ⟨?_, ?_, ?_, ?_, ?_, ?_⟩ <;> exact delivers_codes hty hd _ _ 1 _
  case aluImm =>
    intro f hd hty
    have hread : ∀ (r : RF) (l : Nat), r.readD 1 f.d l = r.readD (nreg f.ty) f.d l := fun r l => by rw [nreg_of_float hty]
    simp only [hread]
    refine ⟨?_, ?_, ?_, ?_, ?_, ?_⟩ <;> exact delivers_codes hty hd _ _ 1 false
  case specials =>
    intro x n m e
    refine ⟨rfl, x.add_nan_right, rfl, x.mul_nan_right, FpVal.inf_add_opposite n, rfl, rfl, FpVal.add_opposite m e, rfl, FpVal.pick_nan_right n x,
      FpVal.pick_zeros false true e, FpVal.pick_zeros true true e, FpVal.pick_zeros false false e, FpVal.pick_zeros true false e, fun hx => ?_⟩
    obtain ⟨h1, h2, h3, h4⟩ := FpVal.pick_neg_inf hx
    exact ⟨h1, h2, h3, h4, FpVal.pick_pos_inf hx⟩
  case pick => exact fun na nb ma mb ea eb q ha hb h => FpVal.pick_fin_of_lt ha hb h
  case frnd =>
    intro f hd hty _
    obtain ⟨u, hu, helem⟩ := delivers_frnd hd hty
    refine ⟨u, hu, fun r l e he => ⟨_, helem r l e he, fun h => ?nan, fun n h => ?inf, fun n m ex h hex => ?whole,
      fun n m ex h hex => ?fraction⟩⟩
    case nan => rw [h]; rfl
    case inf => rw [h]; rfl
    case whole => rw [h]; exact if_pos hex
    case fraction =>
      obtain ⟨k, hk, hzero, hup, hdown, hnear, heven, haway⟩ := exists_integral_fin (fieldN f.c 0 4) n m hex
      rw [natAbs_signedInt] at hzero haway
      refine ⟨k, by rw [h]; exact hk, fun hm => ⟨(hzero hm).1, (hzero hm).2.1⟩, hup, hdown, hnear, fun hm htie => ?_, haway⟩
      exact (signedInt_emod_two n k).mp (heven hm htie)
  case cvtFloat =>
    intro f hd hty _
    refine ⟨_, delivers_writeLanes_one (nreg_of_float hty) hd _, fun r l => ⟨?fromHalf, ?fromF32, ?fromInt, ?f32ToHalf, ?halfToHalf⟩⟩
    case fromHalf => exact elem_cvtValue_f32_of_half f _ _
    case fromF32 => exact elem_cvtValue_f32_of_f32 f _ _
    case fromInt => exact elem_cvtValue_f32_of_int f _ _
    case f32ToHalf =>
      exact fun h hs => ⟨elem_cvtValue_half_of_f32 f _ _ h hs two_pos, elem_cvtValue_half_of_f32 f _ _ h hs one_lt_two⟩
    case halfToHalf =>
      intro h
      have hty := h.imp And.left And.left
      have hs := h.symm.imp And.right And.right
      exact ⟨elem_cvtValue_half_of_half f _ _ hty hs two_pos, elem_cvtValue_half_of_half f _ _ hty hs one_lt_two⟩
  case symmetry =>
    intro f hd hty hsc hclp
    have hn : nreg f.ty = 1 := nreg_of_float (.inl hty)
    have hdeliv := fun fn => delivers_writeLanes_one hn hd fun r l => fspecValue fn f (srcA f r l)
    exact ⟨fun fn r l => fspecValue fn f (srcA f r l), hdeliv 5, hdeliv 6, hdeliv 7,
      fun r l r' l' => fspecValue_symmetry hsc hclp (srcA f r l) (srcA f r' l')⟩
  case cvtInt =>
    intro f hd hty hs _
    refine ⟨_, delivers_writeLanes (nreg_eq f.ty) hd _, fun r l => ?_⟩
    have hA : r.src 3 f.a f.na f.aa l = cvtA f r l := by rw [cvtA, hs]
    simp only [hA, intOf_cvtValue f (cvtA f r l) (cvtB f r l) hty hs]
    refine ⟨fun h => by rw [h]; rfl, fun n h => by rw [h]; rfl, fun n m e h => ?_⟩
    obtain ⟨hzero, hup, hdown, hnear, heven, haway⟩ := roundsToInt_roundInt (cvtRnd f).toNat n m (min_le_left e 0) (min_le_right e 0)
    exact ⟨_, by rw [h]; rfl, hzero, hup, hdown, hnear, heven, haway⟩

end Sys2Proof.Machine
end

section
/-!
PROOFS. Format slots (R136 to R139, R354, R355): what a change of one slot leaves alone, and SLOTBIND, SLOTREL, SLOTFENCE and the reconfigurations.
-/

namespace Sys2Proof.Machine

/-! ## One slot of one core changed -/

theorem Core.fslot_modFslot (k : Core) (n : Nat) (f : FSlot → FSlot) (m : Nat) :
    (k.modFslot n f).fslot m = if m = n then f (k.fslot n) else k.fslot m := Sparse.get_modify _ _ _ _ _

@[simp] theorem Core.fslot_modFslot_self (k : Core) (n : Nat) (f : FSlot → FSlot) : (k.modFslot n f).fslot n = f (k.fslot n) := by
  simp [Core.fslot_modFslot]

/-- A change of one slot is none of the registers or of the scratchpad. -/
theorem State.same_modFslot (s : State) (c fs : Nat) (g : FSlot → FSlot) :
    sameRegs s (s.modCore c fun k => k.modFslot fs g) ∧ sameScratch s (s.modCore c fun k => k.modFslot fs g) := by
  refine sameRegs_of_keepsCore fun d => ?_
  rw [State.core_modCore]
  split
  · next hd => subst hd; exact ⟨rfl, rfl, rfl, rfl⟩
  · exact ⟨rfl, rfl, rfl, rfl⟩

/-! ## Operations that join a slot's queue (R136, R137, R139) -/

theorem State.fslot_acceptSlot (s : State) (c fs : Nat) (b : Option Word) :
    ((s.acceptSlot c fs b).core c).fslot fs = { (s.core c).fslot fs with queue := ((s.core c).fslot fs).queue ++ [⟨s.nextId, b⟩] } := by
  rw [State.acceptSlot, State.core_modCore_self, Core.fslot_modFslot_self]
  rfl

theorem State.same_acceptSlot (s : State) (c fs : Nat) (b : Option Word) :
    sameRegs s (s.acceptSlot c fs b) ∧ sameScratch s (s.acceptSlot c fs b) :=
  State.same_modFslot { s with nextId := s.nextId + 1 } c fs _

theorem State.endWith_fault (s : State) (i : Instr) (code : BitVec 8) (fva : DWord) :
    s.endWith i ((s.issueOf i).fault code fva) = s.faultWith i code fva := by
  unfold State.endWith State.issueOf State.faultWith
  cases s.cur <;> rfl

/-- An instruction that waits changes nothing. -/
theorem State.endWith_wait (s : State) (i : Instr) : s.endWith i .wait = s := by
  unfold State.endWith
  cases s.cur <;> rfl

section Ready

variable {s : State} {f : FmtS}

theorem exec_slotbind_refused (h : s.readyFor (.slotbind f) = true) (hu : s.usable (s.ctx (s.ctxOf (s.issueOf (.slotbind f)))).rcb
      ((s.rfOf (s.issueOf (.slotbind f))).read1 f.a (s.issueOf (.slotbind f)).low) = false) :
    exec (.slotbind f) s = .next (s.faultWith (.slotbind f) cSL (BitVec.ofNat 64 (fieldN f.sel 0 3))) := by
  change execSlotbind f s = _
  rw [execSlotbind, State.issueOnce_ready h, ← State.endWith_fault, if_neg (by simp [hu])]

theorem exec_slotbind_accepted (h : s.readyFor (.slotbind f) = true) (hu : s.usable (s.ctx (s.ctxOf (s.issueOf (.slotbind f)))).rcb
      ((s.rfOf (s.issueOf (.slotbind f))).read1 f.a (s.issueOf (.slotbind f)).low) = true) :
    exec (.slotbind f) s = .next (s.doneWith (.slotbind f) (s.acceptSlot (s.issueOf (.slotbind f)).core (fieldN f.sel 0 3)
      (some ((s.rfOf (s.issueOf (.slotbind f))).read1 f.a (s.issueOf (.slotbind f)).low)))) :=
  State.issueOnce_done h (if_pos hu)

theorem exec_slotrel (h : s.readyFor (.slotrel f) = true) :
    exec (.slotrel f) s = .next (s.doneWith (.slotrel f) (s.acceptSlot (s.issueOf (.slotrel f)).core (fieldN f.sel 0 3) none)) :=
  State.issueOnce_done h rfl

/-- SLOTFENCE waits for its slot's queue and for the issuing stream's own jobs on the slot (R138). -/
theorem exec_slotfence (h : s.readyFor (.slotfence f) = true) : let x := s.issueOf (.slotfence f)
    let q := (s.core x.core).fslot (fieldN f.sel 0 3)
    exec (.slotfence f) s = .next
      (if q.queue ≠ [] ∨ (x.slices = [] ∧ ∃ n ∈ (s.core x.core).jobs, n.block = x.block ∧ n.names (fieldN f.sel 0 3) = true) then s
      else s.doneWith (.slotfence f) (s.putOnce x 1 f.d (q.gen.setWidth 64))) := by
  intro x q
  change execSlotfence f s = _
  rw [execSlotfence, State.issueOnce_ready h, ← s.endWith_done]
  have hwaits : (!q.queue.isEmpty || (x.slices.isEmpty && (s.core x.core).jobs.any fun j => j.block == x.block && j.names (fieldN f.sel 0 3))) = true
      ↔ q.queue ≠ [] ∨ (x.slices = [] ∧ ∃ n ∈ (s.core x.core).jobs, n.block = x.block ∧ n.names (fieldN f.sel 0 3) = true) := by simp
  split
  · next hw => rw [if_pos (hwaits.2 hw), State.endWith_wait]
  · next hw => rw [if_neg (mt hwaits.1 hw)]

end Ready

/-! ## Reconfigurations (R136, R137, R139) -/

/-- What taking its first operation makes of a slot: a release and a bind of the image bound are then done. -/
def FSlot.take (q : FSlot) (op : SlotOp) (rest : List SlotOp) : FSlot :=
  match op.bind with
  | none => q.rebind 0
  | some h => if h = q.handle then { q with queue := rest } else { q with reconf := true }

section Reconfigure

variable {s : State} {c fs : Nat} {op : SlotOp} {rest : List SlotOp} (hq : ((s.core c).fslot fs).queue = op :: rest)
include hq

/-- A job accepted before the operation keeps its slot as it is (R136). -/
theorem exec_slotReconfigureStart_waits (hj : ∃ n ∈ (s.core c).jobs, n.names fs = true ∧ n.id < op.id) :
    exec (.slotReconfigureStart c fs) s = .next s := by
  change execSlotReconfigureStart c fs s = _
  have hany : ((s.core c).jobs.any fun j => j.names fs && decide (j.id < op.id)) = true := by simpa using hj
  simp [execSlotReconfigureStart, hq, hany]

theorem exec_slotReconfigureStart_takes (hr : ((s.core c).fslot fs).reconf = false) (hruns : (s.ctx (s.ctxOn c)).runs [.format c] = true)
    (hj : ∀ n ∈ (s.core c).jobs, n.names fs = true → op.id ≤ n.id) :
    exec (.slotReconfigureStart c fs) s = .next (s.modCore c fun k => k.modFslot fs fun q => q.take op rest) := by
  change execSlotReconfigureStart c fs s = _
  have hany : ((s.core c).jobs.any fun j => j.names fs && decide (j.id < op.id)) = false := by simpa using hj
  simp only [execSlotReconfigureStart, hq, hr, hruns, hany]
  rfl

theorem exec_slotReconfigureEnd (hr : ((s.core c).fslot fs).reconf = true) {h : Word} (hb : op.bind = some h) (ok : Bool) :
    exec (.slotReconfigureEnd c fs ok) s = .next (if ok then s.modCore c fun k => k.modFslot fs fun q => q.rebind h
      else (s.modCore c fun k => k.modFslot fs fun q => { q with handle := 0, queue := rest, reconf := false }).postHealth 0x86
        (BitVec.ofNat 64 c) (BitVec.ofNat 64 fs) h.toNat) := by
  change execSlotReconfigureEnd c fs ok s = _
  simp [execSlotReconfigureEnd, hq, hr, hb]

end Reconfigure

/-! ## The statement -/

/-- Settles O44: an operation accepted joins its slot's queue, and each reconfiguration is one change of one slot. -/
theorem slotsComplete : Obligations.SlotsComplete := by
  refine ⟨fun s f => ⟨fun h => ⟨exec_slotbind_refused h, fun hu => ?bind⟩, fun h => ?rel, exec_slotfence⟩, ?start, ?finish⟩
  case bind => exact ⟨_, exec_slotbind_accepted h hu, s.fslot_acceptSlot _ _ _, rfl, s.same_acceptSlot _ _ _⟩
  case rel => exact ⟨_, exec_slotrel h, s.fslot_acceptSlot _ _ _, rfl, s.same_acceptSlot _ _ _⟩
  case start =>
    intro s c fs op rest q hq hr hruns
    refine ⟨exec_slotReconfigureStart_waits hq, fun hj => ⟨_, exec_slotReconfigureStart_takes hq hr hruns hj, rfl, ?_⟩⟩
    obtain ⟨hregs, hscr⟩ := s.same_modFslot c fs fun q => q.take op rest
    refine ⟨hregs, hscr, by rw [State.core_modCore_self]; rfl, ?_⟩
    rw [State.core_modCore_self, Core.fslot_modFslot_self, FSlot.take]
    cases op.bind with
    | none => simp only [FSlot.rebind, hq, List.tail_cons, q]
    | some h => rfl
  case finish =>
    intro s c fs op rest h ok q hq hr hb
    have hend : ∀ g : FSlot → FSlot, let t := s.modCore c fun k => k.modFslot fs g
        t.mem = s.mem ∧ sameRegs s t ∧ sameScratch s t ∧ (∀ n, n ≠ fs → (t.core c).fslot n = (s.core c).fslot n) ∧ (t.core c).fslot fs = g q := by
      intro g
      obtain ⟨hregs, hscr⟩ := s.same_modFslot c fs g
      refine ⟨rfl, hregs, hscr, fun n hn => ?_, ?_⟩
      · rw [State.core_modCore_self, Core.fslot_modFslot, if_neg hn]
      · rw [State.core_modCore_self, Core.fslot_modFslot_self]
    have hexec := exec_slotReconfigureEnd hq hr hb ok
    cases ok with
    | true =>
      refine ⟨_, hexec, ?_⟩
      have hrebind := hend fun q => q.rebind h
      rwa [FSlot.rebind, hq] at hrebind
    | false => exact ⟨_, hexec, hend fun q => { q with handle := 0, queue := rest, reconf := false }⟩

end Sys2Proof.Machine
end

section
/-!
PROOFS. The use of regions (R201, R261, R262): what an observation of charges, a usage record and a retirement leave alone, and the count of a
root's records.
-/

namespace Sys2Proof.Machine

theorem State.root_modRoot (s : State) (n : Nat) (f : Root → Root) (m : Nat) :
    (s.modRoot n f).root m = if m = n then f (s.root n) else s.root m := Sparse.get_modify _ _ _ _ _

/-- What observing use and writing records keeps: the warps and blocks of every core, the root of every region, and how many records each
root has emitted. -/
structure keepsUsers (s t : State) : Prop where
  warps : ∀ c, (t.core c).warps = (s.core c).warps
  blocks : ∀ c, (t.core c).blocks = (s.core c).blocks
  root : ∀ r, (t.region r).root = (s.region r).root
  seq : ∀ n, (t.root n).seq = (s.root n).seq

namespace keepsUsers

theorem refl (s : State) : keepsUsers s s := ⟨fun _ => rfl, fun _ => rfl, fun _ => rfl, fun _ => rfl⟩

theorem trans {s t u : State} (h : keepsUsers s t) (h' : keepsUsers t u) : keepsUsers s u :=
  ⟨fun c => (h'.warps c).trans (h.warps c), fun c => (h'.blocks c).trans (h.blocks c), fun r => (h'.root r).trans (h.root r),
    fun n => (h'.seq n).trans (h.seq n)⟩

theorem foldl {α : Type} (l : List α) (f : State → α → State) (h : ∀ t x, keepsUsers t (f t x)) (s : State) : keepsUsers s (l.foldl f s) := by
  induction l generalizing s with
  | nil => exact refl s
  | cons x l ih => exact (h s x).trans (ih _)

/-- What changes no core, region or root. -/
theorem of_eq {s t : State} (hc : t.cores = s.cores) (hr : t.regions = s.regions) (hm : t.mon.roots = s.mon.roots) : keepsUsers s t :=
  ⟨fun c => by rw [State.core, hc]; rfl, fun c => by rw [State.core, hc]; rfl, fun r => by rw [State.region, hr]; rfl,
    fun n => by rw [State.root, hm]; rfl⟩

theorem modRegion (s : State) (r : Nat) {f : Region → Region} (h : ∀ x, (f x).root = x.root) : keepsUsers s (s.modRegion r f) := by
  refine ⟨fun _ => rfl, fun _ => rfl, fun q => ?_, fun _ => rfl⟩
  rw [State.region_modRegion]
  split
  · next e => rw [h, e]
  · rfl

theorem modRoot (s : State) (n : Nat) {f : Root → Root} (h : (f (s.root n)).seq = (s.root n).seq) : keepsUsers s (s.modRoot n f) := by
  refine ⟨fun _ => rfl, fun _ => rfl, fun _ => rfl, fun m => ?_⟩
  rw [State.root_modRoot]
  split
  · next e => rw [h, e]
  · rfl

theorem modCore (s : State) (c : Nat) {f : Core → Core} (h : ∀ k, (f k).warps = k.warps ∧ (f k).blocks = k.blocks) :
    keepsUsers s (s.modCore c f) := by
  have hcore : ∀ d, ((s.modCore c f).core d).warps = (s.core d).warps ∧ ((s.modCore c f).core d).blocks = (s.core d).blocks := by
    intro d
    rw [State.core_modCore]
    split
    · next e => rw [e]; exact h _
    · exact ⟨rfl, rfl⟩
  exact ⟨fun d => (hcore d).1, fun d => (hcore d).2, fun _ => rfl, fun _ => rfl⟩

end keepsUsers

/-! ## Charges (R201) -/

theorem State.keepsUsers_addCharge (s : State) (rcb : Nat) (l : List Nat) : keepsUsers s (s.addCharge rcb l) := by
  refine keepsUsers.foldl _ _ (fun t r => ?_) s
  exact keepsUsers.modRegion t r fun _ => rfl

theorem State.keepsUsers_coreCharge (s : State) (c : Nat) : keepsUsers s (s.coreCharge c) := by
  unfold State.coreCharge
  dsimp only
  split
  · exact keepsUsers.refl s
  · split
    · exact keepsUsers.refl s
    · exact (s.keepsUsers_addCharge _ _).trans (keepsUsers.modCore _ c fun _ => ⟨rfl, rfl⟩)

theorem State.keepsUsers_chargeMoved (s : State) (rcb : Nat) : keepsUsers s (s.chargeMoved rcb) := by
  unfold State.chargeMoved
  dsimp only
  split
  · exact keepsUsers.refl s
  · have hmarks := keepsUsers.modRegion (s.addCharge rcb [0, 0, s.movedBy rcb 2 (s.region rcb).hbm, s.movedBy rcb 3 (s.region rcb).link, 0]) rcb
      (f := fun r => { r with hbm := false, link := false }) fun _ => rfl
    exact ((s.keepsUsers_addCharge _ _).trans hmarks).trans (keepsUsers.of_eq rfl rfl rfl)

theorem State.keepsUsers_chargeUp (s : State) (rcb : Nat) : keepsUsers s (s.chargeUp rcb) :=
  (keepsUsers.foldl _ _ State.keepsUsers_coreCharge s).trans (keepsUsers.foldl _ _ State.keepsUsers_chargeMoved _)

/-! ## Records written (R262) -/

@[simp] theorem State.writeMem_roots (s : State) (loc a : Nat) (bs : List Byte) : (s.writeMem loc a bs).mon.roots = s.mon.roots := by
  have hline : ∀ (t : State) (l : Nat), (t.gcmLine l).mon.roots = t.mon.roots := by
    intro t l
    simp only [State.gcmLine]
    split
    · rfl
    · cases (t.tag (l / 512)).sv <;> rfl
  have hgcm : ∀ t : State, (t.gcmWrote loc a bs.length).mon.roots = t.mon.roots := by
    intro t
    rw [State.gcmWrote]
    split
    · exact State.foldl_keeps (·.mon.roots) _ _ hline t
    · rfl
  rw [State.writeMem]
  split <;> exact hgcm _

theorem State.keepsUsers_drainRecords (s : State) (q : Root) (fuel : Nat) :
    keepsUsers s (s.drainRecords q fuel).1 ∧ (s.drainRecords q fuel).2.seq = q.seq := by
  induction fuel generalizing s q with
  | zero => exact ⟨keepsUsers.refl s, rfl⟩
  | succ n ih =>
    unfold State.drainRecords
    split
    · exact ⟨keepsUsers.refl s, rfl⟩
    · split
      · obtain ⟨hk, hseq⟩ := ih (s.writeMem 0 (q.ring + 4096 * (q.written % 2 ^ q.logn)) _) { q with records := _, written := q.written + 1 }
        exact ⟨(keepsUsers.of_eq (by simp) (by simp) (by simp)).trans hk, hseq⟩
      · exact ⟨keepsUsers.refl s, rfl⟩

theorem State.keepsUsers_postFw (s : State) (ty v : Nat) : keepsUsers s (s.postFw ty v) := by
  unfold State.postFw
  dsimp only
  split <;> exact keepsUsers.of_eq rfl rfl rfl

theorem State.keepsUsers_preemptAll (s : State) (l : List Nat) : keepsUsers s (s.preemptAll l) := by
  refine keepsUsers.foldl _ _ (fun t r => ?_) s
  exact keepsUsers.of_eq rfl rfl rfl

theorem State.keepsUsers_checkHeld (s : State) (n : Nat) : keepsUsers s (s.checkHeld n) := by
  unfold State.checkHeld
  dsimp only
  split
  · exact (keepsUsers.modRoot s n (f := fun q => { q with full := true }) rfl).trans
      ((State.keepsUsers_preemptAll _ _).trans (State.keepsUsers_postFw _ _ _))
  · split
    · exact (keepsUsers.modRoot s n (f := fun q => { q with full := false }) rfl).trans (State.keepsUsers_postFw _ _ _)
    · exact keepsUsers.refl s

theorem State.keepsUsers_drainRoot (s : State) (n : Nat) : keepsUsers s (s.drainRoot n) := by
  obtain ⟨hk, hseq⟩ := s.keepsUsers_drainRecords (s.root n) (s.root n).records.length
  exact hk.trans ((keepsUsers.modRoot _ n (hseq.trans (hk.seq n).symm)).trans (State.keepsUsers_checkHeld _ n))

/-! ## A record emitted, and a region retired (R261, R262) -/

/-- A record counts one further in its root, and moves no register. -/
theorem State.emitUsage_spec (s : State) (rcb rsn : Nat) : sameRegs s (s.emitUsage rcb rsn)
    ∧ ((s.emitUsage rcb rsn).root (s.region rcb).root).seq = (s.root (s.region rcb).root).seq + 1 := by
  have hup := s.keepsUsers_chargeUp rcb
  have hr := hup.root rcb
  have hseq := hup.seq (s.region rcb).root
  unfold State.emitUsage
  generalize s.chargeUp rcb = u at *
  rw [← hseq, ← hr]
  have hend : ∀ f : Root → Root, (f (u.root (u.region rcb).root)).seq = (u.root (u.region rcb).root).seq + 1 →
      let t := ((u.modRoot (u.region rcb).root f).modRegion rcb fun r => { r with lost := false }).drainRoot (u.region rcb).root
      sameRegs s t ∧ (t.root (u.region rcb).root).seq = (u.root (u.region rcb).root).seq + 1 := by
    intro f hf
    have hk := (keepsUsers.modRegion (u.modRoot (u.region rcb).root f) rcb (f := fun r => { r with lost := false }) fun _ => rfl).trans
      (State.keepsUsers_drainRoot _ (u.region rcb).root)
    exact ⟨sameRegs_of_cores fun c => ⟨(hk.warps c).trans (hup.warps c), (hk.blocks c).trans (hup.blocks c)⟩,
      by rw [hk.seq, State.root_modRoot, if_pos rfl, hf]⟩
  exact hend _ rfl

@[simp] theorem State.purgeImages_cores (s : State) : s.purgeImages.cores = s.cores := rfl
@[simp] theorem State.purgeImages_region (s : State) (r : Nat) : s.purgeImages.region r = s.region r := rfl

/-- A region that retires is no longer live, and moves no register. -/
theorem State.retireRegion_spec (s : State) (rcb rsn : Nat) : sameRegs s (s.retireRegion rcb rsn) ∧ ((s.retireRegion rcb rsn).region rcb).live = false := by
  obtain ⟨hregs, -⟩ := s.emitUsage_spec rcb rsn
  simp only [State.retireRegion]
  generalize s.emitUsage rcb rsn = u at *
  have hleases := State.foldl_keeps (·.cores) (u.fab.leases.filter fun l => l.rcb = rcb) (fun t l => t.endLease l.id) (fun _ _ => rfl) u
  generalize (u.fab.leases.filter fun l => l.rcb = rcb).foldl (fun t l => t.endLease l.id) u = v at *
  refine ⟨?_, ?_⟩
  · unfold sameRegs State.warp State.core
    rw [State.purgeImages_cores, State.modCtx_cores, State.modRegion_cores, hleases]
    exact hregs
  · rw [State.purgeImages_region]
    change ((v.modRegion rcb fun r => { r with live := false }).region rcb).live = false
    rw [State.region_modRegion, if_pos rfl]

end Sys2Proof.Machine
end

section
/-!
PROOFS. Quota roots (R260 to R262): what a command of the host's mailbox ends in, what its result reads as, a region made live, and ROOTACT, ROOTSET,
ROOTDEL and USAGEREQ.
-/

namespace Sys2Proof.Machine

/-! ## The end of a command -/

@[simp] theorem State.served_regions (s : State) (mb : Mailbox) (st : Nat) : (s.served mb st).regions = s.regions := by
  cases mb <;> simp only [State.served] <;> split <;> rfl

@[simp] theorem State.served_ctxs (s : State) (mb : Mailbox) (st : Nat) : (s.served mb st).ctxs = s.ctxs := by
  cases mb <;> simp only [State.served] <;> split <;> rfl

@[simp] theorem State.served_roots (s : State) (mb : Mailbox) (st : Nat) : (s.served mb st).mon.roots = s.mon.roots := by
  cases mb <;> simp only [State.served] <;> split <;> rfl

@[simp] theorem State.served_region (s : State) (mb : Mailbox) (st r : Nat) : (s.served mb st).region r = s.region r := by simp [State.region]
@[simp] theorem State.served_ctx (s : State) (mb : Mailbox) (st n : Nat) : (s.served mb st).ctx n = s.ctx n := by simp [State.ctx]
@[simp] theorem State.served_root (s : State) (mb : Mailbox) (st n : Nat) : (s.served mb st).root n = s.root n := by simp [State.root]

@[simp] theorem sameRegs_served (s t : State) (mb : Mailbox) (st : Nat) : sameRegs s (t.served mb st) ↔ sameRegs s t := by
  simp [sameRegs, State.warp, State.core]

/-- A command of the host that the monitor takes up, of a caller whom the table names, has its effect and its status. -/
theorem State.command_host {s t : State} {st : Nat} {code : Word} (h : s.takes .host code = true) {fw : Bool} {f : State → State × Nat}
    (hf : f s = (t, st)) : s.command .host code true fw f = .next (t.served .host st) := by
  simp only [State.takes, Bool.and_eq_true] at h
  obtain ⟨hb, hs⟩ := h
  cases hbusy : s.mon.busy .host
  · simp only [hbusy, Bool.false_eq_true, if_false] at hb
    simp [State.command, hbusy, hb, hs, hf]
  · simp only [hbusy, if_true, beq_iff_eq] at hb
    simp [State.command, hbusy, hb, hs, hf]

/-- A command that the table gives to both callers. -/
theorem State.command_both {s t : State} {st : Nat} {mb : Mailbox} {code : Word} (h : s.takes mb code = true) {f : State → State × Nat}
    (hf : f s = (t, st)) : s.command mb code true true f = .next (t.served mb st) := by
  cases mb with
  | host => exact State.command_host h hf
  | fw => rw [State.command_fw h, hf]

/-! ## A result in the buffer (R410) -/

theorem putBuf_concat (b : Sparse Byte) (at_ : Nat) (l : List Byte) (x : Byte) :
    putBuf b at_ (l ++ [x]) = Sparse.set 0 (putBuf b at_ l) (at_ + l.length) x := by
  simp [putBuf, List.range_succ, List.zip_append]

/-- What a buffer reads as where bytes have been written. -/
theorem get_putBuf (b : Sparse Byte) (at_ : Nat) (bs : List Byte) {i : Nat} (hi : i < bs.length) :
    Sparse.get 0 (putBuf b at_ bs) (at_ + i) = bs.getD i 0 := by
  induction bs using List.reverseRecOn with
  | nil => simp at hi
  | append_singleton l x ih =>
    rw [putBuf_concat, Sparse.get_set]
    by_cases h : i = l.length
    · simp [h]
    · rw [List.length_append, List.length_singleton] at hi
      rw [if_neg (by omega), ih (by omega), List.getD_append _ _ _ _ (by omega)]

/-- A number of eight bytes that a command returns stands in dword 0. -/
theorem dword_result_leBytes (s : State) (mb : Mailbox) {n : Nat} (hn : n < 2 ^ 64) : ((s.result mb (leBytes 8 n)).mon.dword mb 0).toNat = n := by
  have hbuf : (s.result mb (leBytes 8 n)).mon.buf mb = putBuf (s.mon.buf mb) 0 (leBytes 8 n) := by cases mb <;> rfl
  have hbytes : (List.range 8).map (fun j => Sparse.get 0 (putBuf (s.mon.buf mb) 0 (leBytes 8 n)) (8 * 0 + j)) = leBytes 8 n := by
    refine List.ext_getElem (by simp) fun j h₁ h₂ => ?_
    rw [List.getElem_map, List.getElem_range, Nat.mul_zero, get_putBuf _ _ _ h₂, List.getD_eq_getElem _ _ h₂]
  rw [Mon.dword, hbuf, hbytes, leNat_leBytes, BitVec.toNat_ofNat]
  omega

@[simp] theorem State.result_cores (s : State) (mb : Mailbox) (bs : List Byte) : (s.result mb bs).cores = s.cores := by simp [State.result]
@[simp] theorem State.result_regions (s : State) (mb : Mailbox) (bs : List Byte) : (s.result mb bs).regions = s.regions := by simp [State.result]
@[simp] theorem State.result_ctxs (s : State) (mb : Mailbox) (bs : List Byte) : (s.result mb bs).ctxs = s.ctxs := by simp [State.result]
@[simp] theorem State.result_root (s : State) (mb : Mailbox) (bs : List Byte) (n : Nat) : (s.result mb bs).root n = s.root n := by cases mb <;> rfl
@[simp] theorem State.result_region (s : State) (mb : Mailbox) (bs : List Byte) (r : Nat) : (s.result mb bs).region r = s.region r := by
  simp [State.region]
@[simp] theorem State.result_ctx (s : State) (mb : Mailbox) (bs : List Byte) (n : Nat) : (s.result mb bs).ctx n = s.ctx n := by simp [State.ctx]

/-! ## A region made live (R200, R260) -/

@[simp] theorem State.region_modRegion_self (s : State) (n : Nat) (f : Region → Region) : (s.modRegion n f).region n = f (s.region n) := by
  rw [State.region_modRegion, if_pos rfl]
@[simp] theorem State.orphanImages_region (s : State) (rcb r : Nat) : (s.orphanImages rcb).region r = s.region r := rfl
@[simp] theorem State.modCtx_region (s : State) (n : Nat) (f : Ctx → Ctx) (r : Nat) : (s.modCtx n f).region r = s.region r := rfl

/-- The context that a new region starts with. -/
def Region.startCtx (r : Region) (rcb : Nat) (x : Ctx) : Ctx :=
  { x.gone with st := .running, rcb := rcb, px := r.px, py := r.py, pw := r.pw, ph := r.ph, pgf := r.pgf }

/-- A region without a parent is not held pre-empted, unless itself or for its root's records. -/
theorem State.held_modRegion {s : State} {rcb : Nat} {q : Region} (hp : q.parent = 0) (hq : q.preempted = false) (hf : (s.root q.root).full = false) :
    (s.modRegion rcb fun _ => q).held rcb = false := by
  rw [State.held, State.overBudget, State.heldBy, State.region_modRegion_self, hp, hq]
  exact hf

/-- A region without a parent, made live for a root whose records are not held up: its context runs. -/
theorem State.makeLive_new {s : State} {rcb ctx : Nat} {r : Region} (hnew : (s.region rcb).live = false) (hp : r.parent = 0)
    (hf : (s.root r.root).full = false) : let t := s.makeLive rcb ctx r
    t.region rcb = { r with ctx := ctx, preempted := false } ∧ t.ctx ctx = r.startCtx rcb (s.ctx ctx) ∧ t.cores = s.cores ∧ t.mon.roots = s.mon.roots := by
  have hheld := State.held_modRegion (s := s) (rcb := rcb) (q := { r with ctx := ctx, preempted := false }) hp rfl hf
  have hlive : s.makeLive rcb ctx r =
      ((s.modRegion rcb fun _ => { r with ctx := ctx, preempted := false }).orphanImages rcb).modCtx ctx (r.startCtx rcb) := by
    simp only [State.makeLive, hnew, Bool.and_false, Bool.false_and, Bool.false_eq_true, if_false, hheld]
    rfl
  rw [hlive]
  refine ⟨by simp, ?_, rfl, rfl⟩
  exact (State.ctx_modCtx _ _ _ _).trans (if_pos rfl)

/-! ## ROOTACT (R260) -/

theorem State.freeRoot_eq_none_iff (s : State) : s.freeRoot = none ↔ ∀ n, n < 64 → (s.root n).held = true := by
  simp [State.freeRoot]

/-- A root takes the lowest number that no root holds. -/
theorem State.freeRoot_eq_some {s : State} {n : Nat} (hn : n < 64) (hfree : (s.root n).held = false) (hmin : ∀ m, m < n → (s.root m).held = true) :
    s.freeRoot = some n := by
  rw [State.freeRoot, List.find?_range_eq_some]
  exact ⟨by simp [hfree], List.mem_range.2 hn, fun m hm => by simp [hmin m hm]⟩

/-- The root that a ROOTACT makes. -/
def rootOf (a : RootArgs) : Root :=
  { Root.none with held := true, rcb := a.rcb, fn := a.fn, ed := a.ed, ml := a.ml, ring := a.ring, logn := a.logn, cblk := a.cblk }

/-- The effective values of the region that a ROOTACT names. -/
def State.rootRegion (s : State) (a : RootArgs) : Region := s.effective (s.rcbWords a.rcb) true Region.none

/-- A root of number `n` made, with its region. -/
def State.addRoot (s : State) (a : RootArgs) (n : Nat) : State :=
  (s.modRoot n fun _ => rootOf a).makeLive a.rcb a.ctx { s.rootRegion a with root := n }

/-- A root that is made holds its arguments and its live region, whose context runs. -/
theorem State.addRoot_spec {s : State} {a : RootArgs} (n : Nat) (hnew : (s.region a.rcb).live = false) (hp : (s.rootRegion a).parent = 0) :
    let t := s.addRoot a n
    t.mem = s.mem ∧ t.cores = s.cores ∧ t.root n = rootOf a ∧ (t.region a.rcb).live = true ∧ (t.region a.rcb).root = n
      ∧ (t.region a.rcb).ctx = a.ctx ∧ (t.ctx a.ctx).st = .running ∧ (t.ctx a.ctx).rcb = a.rcb := by
  have hroot : (s.modRoot n fun _ => rootOf a).root n = rootOf a := by rw [State.root_modRoot, if_pos rfl]
  obtain ⟨hregion, hctx, hcores, hroots⟩ := State.makeLive_new (s := s.modRoot n fun _ => rootOf a) (ctx := a.ctx)
    (r := { s.rootRegion a with root := n }) hnew hp (by rw [hroot]; rfl)
  refine ⟨State.makeLive_mem _ _ _ _, hcores, ?_, ?_, ?_, ?_, ?_, ?_⟩
  · rw [← hroot, State.root, State.addRoot, hroots]; rfl
  · rw [State.addRoot, hregion]; rfl
  · rw [State.addRoot, hregion]
  · rw [State.addRoot, hregion]
  · rw [State.addRoot, hctx]; rfl
  · rw [State.addRoot, hctx]; rfl

/-- What makes a ROOTACT a bad one. -/
def State.rootactBad (s : State) (a : RootArgs) : Prop :=
  s.mon.named .host 18 = false ∨ s.rootBad a = true ∨ s.activateStatus a.rcb (s.rcbWords a.rcb) true (s.rootRegion a) Region.none ≠ 0
    ∨ (s.rootRegion a).parent ≠ 0

theorem State.rootact_new {s : State} {a : RootArgs} (hb : ¬ s.rootactBad a) : (s.region a.rcb).live = false ∧ (s.rootRegion a).parent = 0 := by
  simp only [State.rootactBad, not_or, not_not, State.rootBad, Bool.or_eq_true] at hb
  obtain ⟨-, ⟨⟨-, hlive⟩, -⟩, -, hp⟩ := hb
  exact ⟨Bool.eq_false_iff.2 hlive, hp⟩

section Rootact

variable {s : State} {a : RootArgs} (h : s.takes .host 0x10 = true)
include h

theorem exec_rootact_resetting (hr : s.io.flrBusy = true ∧ s.io.flrFn = a.fn) : exec (.rootact .host a) s = .next (s.served .host mDENIED) := by
  change execRootact .host a s = _
  exact State.command_host h (if_pos (by simp [hr]))

variable (hr : ¬ (s.io.flrBusy = true ∧ s.io.flrFn = a.fn))
include hr

theorem exec_rootact_bad (hb : s.rootactBad a) : exec (.rootact .host a) s = .next (s.served .host mBADARG) := by
  change execRootact .host a s = _
  refine State.command_host h ?_
  dsimp only
  rw [if_neg (by simpa using hr), if_pos (by simpa [State.rootactBad, State.rootRegion] using hb)]

variable (hb : ¬ s.rootactBad a)
include hb

theorem exec_rootact_full (hall : ∀ n, n < 64 → (s.root n).held = true) : exec (.rootact .host a) s = .next (s.served .host mINUSE) := by
  change execRootact .host a s = _
  refine State.command_host h ?_
  dsimp only
  rw [if_neg (by simpa using hr), if_neg (by simpa [State.rootactBad, State.rootRegion] using hb), s.freeRoot_eq_none_iff.2 hall]

theorem exec_rootact_free {n : Nat} (hfree : s.freeRoot = some n) :
    exec (.rootact .host a) s = .next (((s.addRoot a n).result .host (leBytes 8 n)).served .host mOK) := by
  change execRootact .host a s = _
  refine State.command_host h ?_
  dsimp only
  rw [if_neg (by simpa using hr), if_neg (by simpa [State.rootactBad, State.rootRegion] using hb), hfree]
  rfl

/-- The root that a ROOTACT makes takes the lowest free number, which the host reads. -/
theorem exec_rootact_makes {n : Nat} (hn : n < 64) (hfree : (s.root n).held = false) (hmin : ∀ m, m < n → (s.root m).held = true) :
    ∃ t : State, exec (.rootact .host a) s = .next t ∧ t.mon.status .host = 0 ∧ (t.mon.dword .host 0).toNat = n ∧ t.mem = s.mem ∧ t.cores = s.cores
      ∧ t.root n = rootOf a ∧ (t.region a.rcb).live = true ∧ (t.region a.rcb).root = n ∧ (t.region a.rcb).ctx = a.ctx
      ∧ (t.ctx a.ctx).st = .running ∧ (t.ctx a.ctx).rcb = a.rcb := by
  obtain ⟨hnew, hparent⟩ := State.rootact_new hb
  refine ⟨_, exec_rootact_free h hr hb (State.freeRoot_eq_some hn hfree hmin), State.served_status _ _ _, ?_, ?_⟩
  · rw [State.served_dword, dword_result_leBytes _ _ (by omega)]
  · simp only [State.served_mem, State.served_cores, State.served_root, State.served_region, State.served_ctx, State.result_mem,
      State.result_cores, State.result_root, State.result_region, State.result_ctx]
    exact State.addRoot_spec n hnew hparent

end Rootact

/-! ## ROOTSET (R260) -/

/-- The budgets that a ROOTSET names. -/
def budgetsOf (a : RootSetArgs) : List Nat := [a.bcyc.toNat, a.bpool.toNat, a.bhbm.toNat, a.blink.toNat]

/-- A root's counter and the budgets of its region changed, with the message to the firmware. -/
def State.setBudgets (s : State) (a : RootSetArgs) : State :=
  ((((s.modRoot a.root fun q => { q with counter := a.counter }).modRegion (s.root a.root).rcb fun r => { r with budget := budgetsOf a }).modRegion
    (s.root a.root).rcb fun r => { r with preempted := r.preempted && !r.withinBudget }).postFw 0x04 a.root)

@[simp] theorem State.postFw_regions (s : State) (ty v : Nat) : (s.postFw ty v).regions = s.regions := by
  simp only [State.postFw]; split <;> rfl
@[simp] theorem State.postFw_cores (s : State) (ty v : Nat) : (s.postFw ty v).cores = s.cores := by simp only [State.postFw]; split <;> rfl
@[simp] theorem State.postFw_ctxs (s : State) (ty v : Nat) : (s.postFw ty v).ctxs = s.ctxs := by simp only [State.postFw]; split <;> rfl
@[simp] theorem State.postFw_region (s : State) (ty v r : Nat) : (s.postFw ty v).region r = s.region r := by simp [State.region]
@[simp] theorem State.postFw_root (s : State) (ty v n : Nat) : (s.postFw ty v).root n = s.root n := by simp [State.root]

@[simp] theorem State.region_modRoot (s : State) (n : Nat) (f : Root → Root) (r : Nat) : (s.modRoot n f).region r = s.region r := rfl

theorem State.setBudgets_spec (s : State) (a : RootSetArgs) : let t := s.setBudgets a
    let q := s.root a.root
    t.root a.root = { q with counter := a.counter } ∧ (t.region q.rcb).budget = budgetsOf a ∧ (t.region q.rcb).charge = (s.region q.rcb).charge
      ∧ t.mem = s.mem ∧ t.cores = s.cores ∧ t.ctxs = s.ctxs := by
  refine ⟨?_, ?_⟩
  · rw [State.setBudgets, State.postFw_root]
    exact (s.root_modRoot _ _ _).trans (if_pos rfl)
  all_goals simp [State.setBudgets]

/-- The owner's signatures over a ROOTSET. -/
def State.rootSigned (s : State) (a : RootSetArgs) : Bool :=
  Config.ed25519Ok (s.root a.root).ed (rootSetBody a) (leBytes 64 a.edSig.toNat) && Config.mldsaOk (s.root a.root).ml (rootSetBody a) a.mlSig

/-- What a ROOTSET answers, in the order of its checks. -/
def State.rootset (s : State) (a : RootSetArgs) : State × Nat :=
  if ¬ (a.root < 64 ∧ (s.root a.root).held = true) then (s, mNOROOT)
  else if s.rootSigned a = false then (s, mSIGFAIL)
  else if a.counter.toNat ≤ (s.root a.root).counter.toNat then (s, mREPLAY)
  else (s.setBudgets a, mOK)

section Rootset

variable {s : State} {a : RootSetArgs} (h : s.takes .host 0x11 = true)
include h

theorem exec_rootset_unnamed (hn : s.mon.named .host 15 = false) : exec (.rootset .host a) s = .next (s.served .host mBADARG) := by
  change execRootset .host a s = _
  exact State.command_host h (if_pos (by simp [hn]))

theorem exec_rootset (hn : s.mon.named .host 15 = true) {t : State} {st : Nat} (ht : s.rootset a = (t, st)) :
    exec (.rootset .host a) s = .next (t.served .host st) := by
  change execRootset .host a s = _
  have hthere : (64 ≤ a.root ∨ (!(s.root a.root).held) = true) ↔ ¬ (a.root < 64 ∧ (s.root a.root).held = true) := by
    rw [not_and_or]; simp
  have hsigned : (!Config.ed25519Ok (s.root a.root).ed (rootSetBody a) (leBytes 64 a.edSig.toNat)
      || !Config.mldsaOk (s.root a.root).ml (rootSetBody a) a.mlSig) = true ↔ s.rootSigned a = false := by
    rw [State.rootSigned, Bool.and_eq_false_iff]; simp
  refine State.command_host h ?_
  exact ((if_neg (by simp [hn])).trans (if_congr hthere rfl (if_congr hsigned rfl rfl))).trans ht

/-- A signed ROOTSET with a higher counter changes the counter and the budgets. -/
theorem exec_rootset_changes (hn : s.mon.named .host 15 = true) (ht : a.root < 64 ∧ (s.root a.root).held = true) (hs : s.rootSigned a = true)
    (hc : (s.root a.root).counter.toNat < a.counter.toNat) : let q := s.root a.root
    ∃ t : State, exec (.rootset .host a) s = .next t ∧ t.mon.status .host = 0 ∧ t.root a.root = { q with counter := a.counter }
      ∧ (t.region q.rcb).budget = budgetsOf a ∧ (t.region q.rcb).charge = (s.region q.rcb).charge ∧ t.mem = s.mem ∧ t.cores = s.cores
      ∧ t.ctxs = s.ctxs := by
  have hset : s.rootset a = (s.setBudgets a, mOK) :=
    (if_neg (not_not_intro ht)).trans ((if_neg (ne_false_of_eq_true hs)).trans (if_neg (Nat.not_le.2 hc)))
  refine ⟨_, exec_rootset h hn hset, State.served_status _ _ _, ?_⟩
  simp only [State.served_mem, State.served_cores, State.served_root, State.served_region, State.served_ctxs]
  exact s.setBudgets_spec a

end Rootset

/-! ## ROOTDEL and USAGEREQ (R260, R262) -/

/-- Whether a root has another live region, or its own context holds work. -/
def State.rootBusy (s : State) (n : Nat) : Bool :=
  s.regions.any (fun p => p.2.live && p.2.root = n && p.1 != (s.root n).rcb) || !s.idleCtx (s.region (s.root n).rcb).ctx

theorem State.rootBusy_iff (s : State) (n : Nat) : s.rootBusy n = true ↔
    (∃ p ∈ s.regions, p.2.live = true ∧ p.2.root = n ∧ p.1 ≠ (s.root n).rcb) ∨ s.idleCtx (s.region (s.root n).rcb).ctx = false := by
  simp [State.rootBusy, and_assoc]

/-- A root deleted: its region retires, and its last records are kept. -/
def State.dropRoot (s : State) (n : Nat) : State :=
  let t := s.retireRegion (s.root n).rcb 5
  let u := if (t.root n).records.isEmpty then t else { t with mon := { t.mon with late := t.mon.late ++ [(n, t.root n)] } }
  u.modRoot n fun q => { q with held := false, records := [] }

/-- A root that is deleted is not held, its region is not live, and no register moves. -/
theorem State.dropRoot_spec (s : State) (n : Nat) :
    ((s.dropRoot n).root n).held = false ∧ ((s.dropRoot n).region (s.root n).rcb).live = false ∧ sameRegs s (s.dropRoot n) := by
  obtain ⟨hregs, hlive⟩ := s.retireRegion_spec (s.root n).rcb 5
  rw [State.dropRoot]
  generalize s.retireRegion (s.root n).rcb 5 = t at *
  refine ⟨by rw [State.root_modRoot, if_pos rfl], ?_, ?_⟩
  · dsimp only
    split <;> exact hlive
  · dsimp only
    split <;> exact hregs

/-- What a ROOTDEL answers, in the order of its checks. -/
def State.rootdel (s : State) (n : Nat) : State × Nat :=
  if 64 ≤ n ∨ (s.root n).held = false then (s, mNOROOT)
  else if s.rootBusy n = true then (s, mINUSE)
  else if s.usageFull (s.root n).rcb = true then (s.setCmd .host 0x12, mBUSY)
  else (s.dropRoot n, mOK)

theorem exec_rootdel_unnamed {s : State} (h : s.takes .host 0x12 = true) (hn : s.mon.named .host 1 = false) (n : Nat) :
    exec (.rootdel .host n) s = .next (s.served .host mBADARG) := by
  change execRootdel .host n s = _
  exact State.command_host h (if_pos (by simp [hn]))

theorem exec_rootdel {s t : State} {n st : Nat} (h : s.takes .host 0x12 = true) (hn : s.mon.named .host 1 = true) (ht : s.rootdel n = (t, st)) :
    exec (.rootdel .host n) s = .next (t.served .host st) := by
  change execRootdel .host n s = _
  refine State.command_host h ?_
  exact ((if_neg (by simp [hn])).trans (if_congr (by simp) rfl rfl)).trans ht

/-- A root that is there and not busy. -/
theorem State.rootdel_idle {s : State} {n : Nat} (hlt : n < 64) (hheld : (s.root n).held = true) (hbusy : s.rootBusy n = false) :
    s.rootdel n = if s.usageFull (s.root n).rcb = true then (s.setCmd .host 0x12, mBUSY) else (s.dropRoot n, mOK) :=
  (if_neg (by simp [hlt, hheld])).trans (if_neg (ne_true_of_eq_false hbusy))

/-- What a USAGEREQ answers, in the order of its checks. -/
def State.usagereq (s : State) (mb : Mailbox) (rcb : Nat) : State × Nat :=
  if s.mon.named mb 1 = false then (s, mBADARG)
  else if (s.region rcb).live = false then (s, mBADARG)
  else if s.usageFull rcb = true then (s.setCmd mb 0x13, mBUSY)
  else (s.emitUsage rcb 1, mOK)

theorem State.usagereq_live {s : State} {mb : Mailbox} {rcb : Nat} (hn : s.mon.named mb 1 = true) (hl : (s.region rcb).live = true) :
    s.usagereq mb rcb = if s.usageFull rcb = true then (s.setCmd mb 0x13, mBUSY) else (s.emitUsage rcb 1, mOK) :=
  (if_neg (ne_false_of_eq_true hn)).trans (if_neg (ne_false_of_eq_true hl))

theorem State.usagereq_bad {s : State} {mb : Mailbox} {rcb : Nat} (h : s.mon.named mb 1 = false ∨ (s.region rcb).live = false) :
    s.usagereq mb rcb = (s, mBADARG) := by
  unfold State.usagereq
  split
  · rfl
  · next hn => exact if_pos (h.resolve_left hn)

theorem exec_usagereq {s t : State} {mb : Mailbox} {rcb st : Nat} (h : s.takes mb 0x13 = true) (ht : s.usagereq mb rcb = (t, st)) :
    exec (.usagereq mb rcb) s = .next (t.served mb st) := by
  change execUsagereq mb rcb s = _
  refine State.command_both h ?_
  exact (if_congr (by simp) rfl (if_congr (by simp) rfl rfl)).trans ht

end Sys2Proof.Machine
end

section
/-!
PROOFS. Format images (R130 to R133): what IMGREG answers, and what the registration of an image of a standard family comes to.
-/

namespace Sys2Proof.Machine

/-! ## IMGREG (R132, R410) -/

/-- What IMGREG names: its two operands alone, and a live region. -/
def State.imgregNames (s : State) : Prop :=
  s.mon.namedOnly .fw [allBits, allBits] = true ∧ (s.region (s.mon.dword .fw 0).toNat).live = true

/-- The granules at a peer or the host that IMGREG has still to read. -/
def State.imgregUnread (s : State) : List (Home × DWord) :=
  s.ioUnread 64 (s.region (s.mon.dword .fw 0).toNat) (s.imageReads 64 (s.region (s.mon.dword .fw 0).toNat) (s.mon.dword .fw 1).toNat)

section Imgreg

variable {s : State} (h : s.takes .fw 0x41 = true)
include h

theorem exec_imgreg_reads (hr : s.resetting (s.mon.dword .fw 0).toNat = false) (hn : s.imgregNames) (hg : s.imgregUnread ≠ []) :
    exec (.imgreg .fw) s = .next (s.imgregUnread.foldl (fun t p => t.ioAsk 64 (s.region (s.mon.dword .fw 0).toNat).ctx p) s) := by
  change execImgreg .fw s = _
  obtain ⟨honly, hlive⟩ := hn
  have hok : s.imgregOk .fw = true := by simp [State.imgregOk, hr, honly, hlive]
  have hempty : s.imgregUnread.isEmpty = false := by simpa using hg
  refine if_pos ?_
  rw [h, hok]
  exact congrArg (!·) hempty

/-- Where nothing is left to be read on a link, IMGREG has its effect and its status. -/
theorem exec_imgreg (hg : s.imgregOk .fw = false ∨ s.imgregUnread = []) :
    exec (.imgreg .fw) s = .next ((s.imgreg .fw).1.served .fw (s.imgreg .fw).2) := by
  change execImgreg .fw s = _
  refine (if_neg ?_).trans (State.command_fw h false _)
  change ¬ (s.takes .fw 0x41 && s.imgregOk .fw && !s.imgregUnread.isEmpty) = true
  rcases hg with hg | hg <;> simp [hg]

theorem exec_imgreg_resetting (hr : s.resetting (s.mon.dword .fw 0).toNat = true) :
    exec (.imgreg .fw) s = .next ((s.forget 64).served .fw mDENIED) := by
  rw [exec_imgreg h (.inl (by simp [State.imgregOk, hr])), State.imgreg]
  dsimp only
  rw [if_pos hr]

variable (hr : s.resetting (s.mon.dword .fw 0).toNat = false)
include hr

theorem exec_imgreg_unnamed (hn : ¬ s.imgregNames) : exec (.imgreg .fw) s = .next ((s.forget 64).served .fw mBADARG) := by
  have hbad : (!s.mon.namedOnly .fw [allBits, allBits] || !(s.region (s.mon.dword .fw 0).toNat).live) = true := by
    rw [State.imgregNames, not_and_or] at hn
    simpa using hn
  have hok : s.imgregOk .fw = false := by
    simp only [Bool.or_eq_true, Bool.not_eq_true'] at hbad
    rcases hbad with hbad | hbad <;> simp [State.imgregOk, hbad]
  rw [exec_imgreg h (.inl hok), State.imgreg]
  dsimp only
  rw [if_neg (by simp [hr]), if_pos hbad]

/-- IMGREG returns the handle and the status of the registration. -/
theorem exec_imgreg_registers (hn : s.imgregNames) (hg : s.imgregUnread = []) {t : State} {hd st : Nat}
    (ht : (s.ioDenied (s.region (s.mon.dword .fw 0).toNat) (s.imageReads 64 (s.region (s.mon.dword .fw 0).toNat) (s.mon.dword .fw 1).toNat)).register
      64 (s.mon.dword .fw 0).toNat (s.mon.dword .fw 1).toNat = (t, hd, st)) :
    exec (.imgreg .fw) s = .next (((t.forget 64).result .fw (leBytes 4 hd ++ leBytes 1 st)).served .fw mOK) := by
  obtain ⟨honly, hlive⟩ := hn
  rw [exec_imgreg h (.inr hg), State.imgreg]
  dsimp only
  rw [if_neg (by simp [hr]), if_neg (by simp [honly, hlive]), ht]

end Imgreg

/-! ## A registration (R132, R133) -/

/-- An image in the store under the next handle, measured. -/
def State.addImage (s : State) (rcb : Nat) (y : DWord) (all : List Byte) : State :=
  { s.extend 10 (Config.sha384 all) with mon := { (s.extend 10 (Config.sha384 all)).mon with
    images := s.mon.images ++ [(s.mon.nextHandle, ⟨y, 0, Config.sha384 all, Config.imageKey all, rcb⟩)], nextHandle := s.mon.nextHandle + 1 } }

/-- An image that its region's signer has signed: one that is there already, one that the full store refuses, or a new one. -/
def State.storeImage (s : State) (rcb : Nat) (y : DWord) (all : List Byte) : State × Nat × Nat :=
  match s.mon.images.find? fun p => p.2.digest = Config.sha384 all && p.2.rcb = rcb with
  | some p => (s, p.1, iOK)
  | none => if 240 ≤ s.mon.images.length then (s, 0, iFULL) else (s.addImage rcb y all, s.mon.nextHandle, iOK)

/-- The two signatures over an image of a standard family with header `y`. -/
def imageSigned (y : DWord) (all : List Byte) : Bool :=
  Config.ed25519Ok (Config.imageKey all) (all.take (8 + fieldN y 0 32)) ((all.drop (8 + fieldN y 0 32)).take 64)
    && Config.mldsaOk (Config.imageKey all) (all.take (8 + fieldN y 0 32)) (all.drop (8 + fieldN y 0 32 + 64))

section Register

variable {s : State} {who rcb va : Nat} (hp : s.purgeImages = s)
include hp

theorem State.register_unreadable (hb : s.ioBytes who (s.region rcb) va 8 = none) : s.register who rcb va = (s, 0, iUNREADABLE) := by
  simp only [State.register, hp, hb]

variable {hb : List Byte} (hread : s.ioBytes who (s.region rcb) va 8 = some hb)
include hread

theorem State.register_malformed (hbad : imgHdrBad (BitVec.ofNat 64 (leNat hb)) = true) : s.register who rcb va = (s, 0, iMALFORMED) := by
  simp only [State.register, hp, hread, hbad, if_true]

/-- A well-formed image of a standard family that can be read is answered by its signatures, then by its signer. -/
theorem State.register_read {y : DWord} (hy : y = BitVec.ofNat 64 (leNat hb)) (hown : bitAt y 63 = false) (hgood : imgHdrBad y = false) {all : List Byte}
    (hall : s.ioBytes who (s.region rcb) va (8 + fieldN y 0 32 + 3373) = some all) : s.register who rcb va =
      if imageSigned y all = false then (s, 0, iSIGFAIL) else if Config.imageKey all ∉ (s.region rcb).imgs then (s, 0, iKEY) else s.storeImage rcb y all := by
  have hnone : s.ioBytes who (s.region rcb) (va + 8) 0 = some [] := rfl
  have hsigned : (!Config.ed25519Ok (Config.imageKey all) (all.take (8 + fieldN y 0 32)) ((all.drop (8 + fieldN y 0 32)).take 64)
      || !Config.mldsaOk (Config.imageKey all) (all.take (8 + fieldN y 0 32)) (all.drop (8 + fieldN y 0 32 + 64))) = true ↔ imageSigned y all = false := by
    rw [imageSigned, Bool.and_eq_false_iff]; simp
  simp only [State.register, hp, hread, ← hy, hgood, hown, hnone, Bool.false_eq_true, if_false, Bool.false_and, Nat.add_zero, hall]
  exact if_congr hsigned rfl (if_congr (by simp) rfl rfl)

end Register

/-- No image of the region in the store has the digest. -/
theorem State.storeImage_new {s : State} {rcb : Nat} {y : DWord} {all : List Byte}
    (hnew : ∀ p ∈ s.mon.images, p.2.digest ≠ Config.sha384 all ∨ p.2.rcb ≠ rcb) : s.storeImage rcb y all =
      if 240 ≤ s.mon.images.length then (s, 0, iFULL) else (s.addImage rcb y all, s.mon.nextHandle, iOK) := by
  have hfind : (s.mon.images.find? fun p => p.2.digest = Config.sha384 all && p.2.rcb = rcb) = none := by
    rw [List.find?_eq_none]
    intro p hp
    have := hnew p hp
    simp only [Bool.and_eq_true, decide_eq_true_eq]
    tauto
  rw [State.storeImage, hfind]

/-! ## The statement -/

/-- Settles O56: each command answers in the order of its checks, and what it makes is what a change of roots, regions or images reads as. -/
theorem rootsAndImages : Obligations.RootsAndImages := by
  refine ⟨?rootact, ?rootset, ?rootdel, ?usagereq, ?imgreg⟩
  case rootact =>
    intro s a h d r resets bad
    exact ⟨exec_rootact_resetting h, exec_rootact_bad h, exec_rootact_full h, fun hr hb n hn hfree hmin => exec_rootact_makes h hr hb hn hfree hmin⟩
  case rootset =>
    intro s a h
    refine ⟨exec_rootset_unnamed h, fun hn => ?_⟩
    intro q there signed
    refine ⟨fun ht => ?absent, fun ht hs => ?unsigned, fun ht hs hc => ?replayed, exec_rootset_changes h hn⟩
    case absent => exact exec_rootset h hn (if_pos ht)
    case unsigned => exact exec_rootset h hn ((if_neg (not_not_intro ht)).trans (if_pos hs))
    case replayed => exact exec_rootset h hn ((if_neg (not_not_intro ht)).trans ((if_neg (ne_false_of_eq_true hs)).trans (if_pos hc)))
  case rootdel =>
    intro s n h
    refine ⟨fun hn => exec_rootdel_unnamed h hn n, fun hn => ?_⟩
    intro q busy
    have hidle : ¬ busy → s.rootBusy n = false := fun hb => Bool.eq_false_iff.2 (mt (s.rootBusy_iff n).1 hb)
    refine ⟨fun hno => ?absent, fun hlt hheld hb => ?inUse, fun hlt hheld hb hfull => ?waits, fun hlt hheld hb hfull => ?removed⟩
    case absent => exact exec_rootdel h hn (if_pos hno)
    case inUse => exact exec_rootdel h hn ((if_neg (by simp [hlt, show (s.root n).held = true from hheld])).trans (if_pos ((s.rootBusy_iff n).2 hb)))
    case waits => exact exec_rootdel h hn ((State.rootdel_idle hlt hheld (hidle hb)).trans (if_pos hfull))
    case removed =>
      refine ⟨_, exec_rootdel h hn ((State.rootdel_idle hlt hheld (hidle hb)).trans (if_neg (ne_true_of_eq_false hfull))), State.served_status _ _ _, ?_⟩
      rw [State.served_root, State.served_region, sameRegs_served]
      exact s.dropRoot_spec n
  case usagereq =>
    intro s mb rcb h
    refine ⟨fun hno => exec_usagereq h (State.usagereq_bad hno), fun hn hl hfull => ?waits, fun hn hl hfull => ?emits⟩
    case waits => exact exec_usagereq h ((State.usagereq_live hn hl).trans (if_pos hfull))
    case emits =>
      refine ⟨_, exec_usagereq h ((State.usagereq_live hn hl).trans (if_neg (ne_true_of_eq_false hfull))), State.served_status _ _ _, ?_⟩
      rw [State.served_root, sameRegs_served]
      exact s.emitUsage_spec rcb 1
  case imgreg =>
    intro s h rcb va r named reads gs
    refine ⟨exec_imgreg_resetting h, exec_imgreg_unnamed h, exec_imgreg_reads h, fun hr hn hg t hd st ht => exec_imgreg_registers h hr hn hg ht,
      State.register_unreadable, fun hp hb => State.register_malformed hp, fun hp hb all hread => ?_⟩
    intro y hown hgood hall body signed
    have hreg := State.register_read hp hread rfl hown hgood hall
    refine ⟨fun hs => hreg.trans (if_pos hs), fun hs hkey => ?_, fun hs hkey hnew => ?_⟩
    · exact hreg.trans ((if_neg (ne_false_of_eq_true hs)).trans (if_pos hkey))
    · have hstore := hreg.trans ((if_neg (ne_false_of_eq_true hs)).trans ((if_neg (not_not_intro hkey)).trans (State.storeImage_new hnew)))
      refine ⟨fun hfull => hstore.trans (if_pos hfull), fun hroom => ?_⟩
      exact ⟨_, hstore.trans (if_neg (Nat.not_le.2 hroom)), rfl, rfl, rfl, rfl⟩

end Sys2Proof.Machine
end

section
/-!
PROOFS. A drain's line of a core without scratchpad: the clause of the matrix path that fails, and the state on which it does.
-/

namespace Sys2Proof.Machine

/-- A drain under way, of one line of one BF16 element to the byte address 65536. -/
def strayDrain : MxJob :=
  { id := 0, block := 0, sub := 2, jpc := 0, opw := 0, f := ⟨0, 0, 0, 0, 0, 0, 0, 0, 0, 0, 0, 0, 0, 0, 15⟩, da := 0,
    db := BitVec.ofNat 256 (65536 + 0x20000000 * 2 ^ 32 + 8 * 2 ^ 104 + 1 * 2 ^ 144 + 1 * 2 ^ 168), m := 0, n := 0, k := 0, word := 0,
    started := true, bi := 0, bj := 0, att := none, next := 0, pois := false, code := 0, fva := 0, done := false }

/-- The core: no bank of scratchpad, bank 0 of the accumulator store handed over and not yet written, with what it held before still in
the array. -/
def strayCore : Core := { Core.reset with
  acc := [(0, 1)], clean := [(bankKey .acc 0, true)], tiles := [(0, { Tile.free with state := 2, nbk := 1, rows := 1, cols := 1 })],
  jobs := [strayDrain], drn := some 0, slots := [(0, { FSlot.unbound with handle := 3 })] }

/-- The device with that core, its context running. -/
def strayState : State := { State.reset with cores := [(0, strayCore)], ctxs := [(0, { Ctx.none with st := .running })] }

/-- The shipped BF16 image, bound to slot 0. -/
def strayImg : Img := ⟨3, 2 ^ 50 + 2 ^ 44 + 1, 0⟩

/-- Element 0 of the core's accumulator store after its down-converter's next line. -/
def elemAfterLine (s : State) : Option DWord :=
  match exec (.acdrnLine 0) s with
  | .next t => some ((t.core 0).accElem 0)
  | _ => none

theorem strayState_slotImg : strayState.slotImg 0 0 = some strayImg := by decide +kernel

theorem strayState_runs : strayState.arrayRuns 0 0 = true := by decide +kernel

theorem strayState_jobHeld : strayState.jobHeld 0 strayDrain = false := by decide +kernel

/-- The element reads zero before the line is written, and what the array held once it is. -/
theorem strayState_accElem : (strayState.core 0).accElem 0 = 0 ∧ elemAfterLine strayState = some 1 := by decide +kernel

/-- Refutes O48: its clause of ACDRN_LINE bounds a line by the scratchpad for the values alone, and says of every line that no element
changes. On `strayState` the line's row of scratchpad bank 4096 is row 0 of accumulator bank 0 by number: the write marks it as touched, and
element 0 reads 1 where it read 0. -/
theorem not_matrixWorks : ¬ Obligations.MatrixWorks := by
  unfold Obligations.MatrixWorks
  rintro ⟨-, -, -, -, -, hline, -⟩
  obtain ⟨t, hexec, -, helem, -⟩ := hline strayState 0 0 strayDrain strayImg rfl (by decide) strayState_slotImg rfl strayState_runs
    strayState_jobHeld rfl
  obtain ⟨hbefore, hafter⟩ := strayState_accElem
  rw [elemAfterLine, hexec] at hafter
  have hone : (t.core 0).accElem 0 = 1 := Option.some.inj hafter
  rw [helem 0, hbefore] at hone
  exact absurd hone (by decide)

end Sys2Proof.Machine
end

section
/-!
PROOFS. Accumulator tiles (R83, R84, R90, R147): what reads back of a tile set, of an element written and of banks handed over.
-/

namespace Sys2Proof.Machine

/-! ## A tile of a core set -/

theorem Core.tile_setTile (k : Core) (b h : Nat) (t : Tile) (b' h' : Nat) :
    (k.setTile b h t).tile b' h' = if 16 * b' + h' = 16 * b + h then t else k.tile b' h' := Sparse.get_set _ _ _ _ _

@[simp] theorem Core.tile_setTile_self (k : Core) (b h : Nat) (t : Tile) : (k.setTile b h t).tile b h = t := by simp [Core.tile_setTile]

@[simp] theorem Core.accElem_setTile (k : Core) (b h : Nat) (t : Tile) (e : Nat) : (k.setTile b h t).accElem e = k.accElem e := rfl
@[simp] theorem Core.accPoison_setTile (k : Core) (b h : Nat) (t : Tile) (e : Nat) : (k.setTile b h t).accPoison e = k.accPoison e := rfl
@[simp] theorem Core.accElem_modBlock (k : Core) (b : Nat) (f : Block → Block) (e : Nat) : (k.modBlock b f).accElem e = k.accElem e := rfl
@[simp] theorem Core.accPoison_modBlock (k : Core) (b : Nat) (f : Block → Block) (e : Nat) : (k.modBlock b f).accPoison e = k.accPoison e := rfl
@[simp] theorem Core.tile_modBlock (k : Core) (b : Nat) (f : Block → Block) (b' h : Nat) : (k.modBlock b f).tile b' h = k.tile b' h := rfl

/-! ## Banks handed over (R84, R147) -/

theorem Sparse.get_foldl_set_true (g : Nat → Nat) (l : List Nat) (m : Sparse Bool) (r : Nat) :
    Sparse.get false (l.foldl (fun m i => Sparse.set false m (g i) true) m) r = (Sparse.get false m r || l.any fun i => g i == r) := by
  induction l generalizing m with
  | nil => simp
  | cons a l ih =>
    rw [List.foldl_cons, ih, Sparse.get_set, List.any_cons]
    by_cases hr : r = g a
    · simp [hr]
    · rw [if_neg hr, beq_eq_false_iff_ne.2 (Ne.symm hr), Bool.false_or]

theorem rowKey_div {row : Nat} (h : row < 512) (use : PoolUse) (bank : Nat) : rowKey use bank row / 512 = bankKey use bank := by
  unfold rowKey
  omega

/-- The rows of the banks handed over are fresh, and the rows of the other banks what they were. -/
theorem Core.freshRow_handOverAcc (k : Core) (first n bank : Nat) {row : Nat} (h : row < 512) :
    (k.handOverAcc first n).freshRow .acc bank row = (decide (first ≤ bank ∧ bank < first + n) || k.freshRow .acc bank row) := by
  have hclean : ((List.range n).any fun i => bankKey .acc (first + i) == bankKey .acc bank) = decide (first ≤ bank ∧ bank < first + n) := by
    rw [Bool.eq_iff_iff, List.any_eq_true, decide_eq_true_iff]
    simp only [List.mem_range, bankKey, beq_iff_eq]
    constructor
    · rintro ⟨i, hi, hb⟩
      omega
    · exact fun hb => ⟨bank - first, by omega, by omega⟩
  have htouched : (decide (bankKey .acc bank < bankKey .acc first) || decide (bankKey .acc (first + n) ≤ bankKey .acc bank))
      = !decide (first ≤ bank ∧ bank < first + n) := by
    rw [Bool.eq_iff_iff]
    simp [bankKey]
  unfold Core.freshRow Core.handOverAcc
  simp only [Sparse.get_foldl_set_true (fun i => bankKey .acc (first + i)), hclean]
  rw [Sparse.get_filter false k.touched (fun a => decide (a / 512 < bankKey .acc first) || decide (bankKey .acc (first + n) ≤ a / 512)),
    rowKey_div h, htouched]
  by_cases hb : first ≤ bank ∧ bank < first + n <;> simp [hb]

/-- An element lies in the banks `first` to `first + n - 1` exactly when its number lies between theirs (R90). -/
theorem bank_mem_iff (first n e : Nat) : (first ≤ e / 1024 ∧ e / 1024 < first + n) ↔ 1024 * first ≤ e ∧ e < 1024 * (first + n) := by omega

theorem Core.accElem_handOverAcc (k : Core) (first n e : Nat) :
    (k.handOverAcc first n).accElem e = if 1024 * first ≤ e ∧ e < 1024 * (first + n) then 0 else k.accElem e := by
  rw [Core.accElem, Core.freshRow_handOverAcc _ _ _ _ (by omega), Core.accElem]
  simp only [bank_mem_iff]
  by_cases h : 1024 * first ≤ e ∧ e < 1024 * (first + n)
  · simp [h]
  · simp only [h, decide_false, Bool.false_or, if_false]
    rfl

theorem Core.accPoison_handOverAcc {k : Core} {first n e : Nat} (h : 1024 * first ≤ e ∧ e < 1024 * (first + n)) :
    (k.handOverAcc first n).accPoison e = false := by
  rw [Core.accPoison, Core.freshRow_handOverAcc _ _ _ _ (by omega)]
  simp [bank_mem_iff, h]

@[simp] theorem Core.handOverAcc_tile (k : Core) (first n b h : Nat) : (k.handOverAcc first n).tile b h = k.tile b h := rfl

/-! ## What stays -/

theorem sameRegs.trans {s t u : State} (h : sameRegs s t) (h' : sameRegs t u) : sameRegs s u :=
  ⟨fun c w => (h'.1 c w).trans (h.1 c w), fun c b cp => (h'.2 c b cp).trans (h.2 c b cp)⟩

theorem sameScratch.trans {s t u : State} (h : sameScratch s t) (h' : sameScratch t u) : sameScratch s u :=
  fun c => ⟨(h' c).1.trans (h c).1, (h' c).2.trans (h c).2⟩

/-- A change of the accumulator store and of the tiles of one core is none of the registers or of the scratchpad. -/
theorem State.same_modCore_acc (s : State) (c : Nat) {g : Core → Core} (h : keepsCore (s.core c) (g (s.core c))) :
    sameRegs s (s.modCore c g) ∧ sameScratch s (s.modCore c g) := by
  refine sameRegs_of_keepsCore fun d => ?_
  rw [State.core_modCore]
  split
  · next hd => subst hd; exact h
  · exact ⟨rfl, rfl, rfl, rfl⟩

end Sys2Proof.Machine
end

section
/-!
PROOFS. Tile management (R147 to R151, R159, R361 to R365): the status of an allocation, the status words by field, and ACAL, ACFREE, ACSTAT and the bands.
-/

namespace Sys2Proof.Machine

/-! ## Status words by field (R148, R159) -/

theorem fieldN_ofNat {v : Nat} (h : v < 2 ^ 64) (lo len : Nat) : fieldN (BitVec.ofNat 64 v) lo len = v / 2 ^ lo % 2 ^ len := by
  rw [fieldN, BitVec.toNat_ofNat, Nat.mod_eq_of_lt h]

theorem bitAt_ofNat {v : Nat} (h : v < 2 ^ 64) (i : Nat) (b : Bool) (hb : v / 2 ^ i % 2 = b.toNat) : bitAt (BitVec.ofNat 64 v) i = b := by
  rw [bitAt, BitVec.getLsbD, BitVec.toNat_ofNat, Nat.mod_eq_of_lt h, Nat.testBit_eq_decide_div_mod_eq, hb]
  cases b <;> rfl

/-- A flag's place in a sum. -/
theorem ite_flag (b : Bool) (n : Nat) : (if b then n else 0) = b.toNat * n := by cases b <;> simp

/-- The status word of a tile that is not free, as a sum of its fields. -/
def Core.tileSum (k : Core) (t : Tile) : Nat :=
  t.state * 2 ^ 62 + t.i32.toNat * 2 ^ 61 + t.satx.toNat * 2 ^ 60 + (k.tilePois t).toNat * 2 ^ 59 + t.satm.toNat * 2 ^ 58 + t.bands.length * 2 ^ 52
    + t.first * 2 ^ 41 + t.nbk * 2 ^ 29 + t.rows * 2 ^ 13 + t.cols

theorem Core.tileWord_sum (k : Core) {t : Tile} (h : t.state ≠ 0) : k.tileWord t = BitVec.ofNat 64 (k.tileSum t) := by
  simp only [Core.tileWord, if_neg h, ite_flag, Core.tileSum]

theorem Core.tileWord_fields (k : Core) {t : Tile} (h0 : t.state ≠ 0) (hstate : t.state < 4) (hbands : t.bands.length < 64) (hfirst : t.first < 2048)
    (hnbk : t.nbk < 4096) (hrows : t.rows < 65536) (hcols : t.cols < 8192) : let v := k.tileWord t
    fieldN v 62 2 = t.state ∧ bitAt v 61 = t.i32 ∧ bitAt v 60 = t.satx ∧ bitAt v 59 = k.tilePois t ∧ bitAt v 58 = t.satm
      ∧ fieldN v 52 6 = t.bands.length ∧ fieldN v 41 11 = t.first ∧ fieldN v 29 12 = t.nbk ∧ fieldN v 13 16 = t.rows ∧ fieldN v 0 13 = t.cols := by
  intro v
  have hi := t.i32.toNat_le
  have hx := t.satx.toNat_le
  have hp := (k.tilePois t).toNat_le
  have hm := t.satm.toNat_le
  have hlt : k.tileSum t < 2 ^ 64 := by
    unfold Core.tileSum
    omega
  simp only [v, k.tileWord_sum h0, fieldN_ofNat hlt]
  refine ⟨?_, bitAt_ofNat hlt _ _ ?_, bitAt_ofNat hlt _ _ ?_, bitAt_ofNat hlt _ _ ?_, bitAt_ofNat hlt _ _ ?_, ?_, ?_, ?_, ?_, ?_⟩ <;>
    unfold Core.tileSum <;> omega

theorem Block.mxWord_fields {b : Block} (h : b.fbn < 65536) :
    bitAt b.mxWord 31 = b.ua ∧ bitAt b.mxWord 30 = b.trb ∧ bitAt b.mxWord 29 = b.fbs ∧ fieldN b.mxWord 0 16 = b.fbn := by
  have hu := b.ua.toNat_le
  have ht := b.trb.toNat_le
  have hf := b.fbs.toNat_le
  have hlt : b.ua.toNat * 2 ^ 31 + b.trb.toNat * 2 ^ 30 + b.fbs.toNat * 2 ^ 29 + b.fbn < 2 ^ 64 := by omega
  simp only [Block.mxWord, ite_flag, fieldN_ofNat hlt]
  exact ⟨bitAt_ofNat hlt _ _ (by omega), bitAt_ofNat hlt _ _ (by omega), bitAt_ofNat hlt _ _ (by omega), by omega⟩

/-! ## ACAL (R147, R362) -/

theorem Core.allocStatus_eq (k : Core) (b h rows cols first bits : Nat) :
    k.allocStatus b h rows cols first (bits != 0) = if (k.tile b h).state ≠ 0 then 3
      else if bits ≠ 0 ∨ rows = 0 ∨ cols = 0 ∨ 4096 < cols ∨ k.accBanks < first + (rows * cols + 1023) / 1024 then 2
      else if (k.tiles.any fun p => p.2.state != 0 && decide (p.2.first < first + (rows * cols + 1023) / 1024)
        && decide (first < p.2.first + p.2.nbk)) = true then 1 else 0 :=
  if_congr Iff.rfl rfl (if_congr (by simp [or_assoc]) rfl rfl)

/-- Tile `h` of a block allocated: its banks handed over, open (R147). -/
def State.allocTile (s : State) (x : Issue) (h : Nat) (i32 : Bool) (first n rows cols : Nat) : State :=
  s.modCore x.core fun k => (k.handOverAcc first n).setTile x.block h
    { Tile.free with state := 1, i32 := i32, first := first, nbk := n, rows := rows, cols := cols }

theorem State.allocTile_spec (s : State) (x : Issue) (h : Nat) (i32 : Bool) (first n rows cols : Nat) :
    let k := s.core x.core
    let t := s.allocTile x h i32 first n rows cols
    (t.core x.core).tile x.block h = ⟨1, i32, false, false, [], first, n, rows, cols, 0, 0⟩
      ∧ (∀ e, 1024 * first ≤ e → e < 1024 * (first + n) → (t.core x.core).accElem e = 0 ∧ (t.core x.core).accPoison e = false)
      ∧ (∀ e, e < 1024 * first ∨ 1024 * (first + n) ≤ e → (t.core x.core).accElem e = k.accElem e)
      ∧ (∀ b g, 16 * b + g ≠ 16 * x.block + h → (t.core x.core).tile b g = k.tile b g) ∧ t.mem = s.mem ∧ sameRegs s t ∧ sameScratch s t := by
  intro k t
  have hcore : t.core x.core = (k.handOverAcc first n).setTile x.block h
      { Tile.free with state := 1, i32 := i32, first := first, nbk := n, rows := rows, cols := cols } := State.core_modCore_self _ _ _
  rw [hcore]
  refine ⟨Core.tile_setTile_self _ _ _ _, fun e hlo hhi => ⟨?_, ?_⟩, fun e he => ?_, fun b g hne => ?_, rfl,
    s.same_modCore_acc x.core ⟨rfl, rfl, rfl, rfl⟩⟩
  · rw [Core.accElem_setTile, Core.accElem_handOverAcc, if_pos ⟨hlo, hhi⟩]
  · rw [Core.accPoison_setTile, Core.accPoison_handOverAcc ⟨hlo, hhi⟩]
  · rw [Core.accElem_setTile, Core.accElem_handOverAcc, if_neg (by omega)]
  · rw [Core.tile_setTile, if_neg hne, Core.handOverAcc_tile]

/-- When a stream waits for its own jobs on a tile (R362, R364). -/
theorem Core.ownJobs_iff (k : Core) (x : Issue) (h : Nat) :
    (x.slices.isEmpty && k.tileUsed x.block h) = true ↔ x.slices = [] ∧ k.tileUsed x.block h = true := by simp

section Ready

variable {s : State} {f : FmtS}

/-- What ACAL does to the tiles, by its status. -/
def State.acal (s : State) (f : FmtS) (st : Nat) : State :=
  let x := s.issueOf (.acal f)
  let a := (s.rfOf x).read2 f.a x.low
  if st ≠ 0 then s
  else s.allocTile x (fieldN f.sel 0 4) (bitAt f.sel 4) (fieldN a 32 11) ((fieldN a 0 16 * fieldN a 16 13 + 1023) / 1024) (fieldN a 0 16) (fieldN a 16 13)

theorem exec_acal (h : s.readyFor (.acal f) = true) : let x := s.issueOf (.acal f)
    let a := (s.rfOf x).read2 f.a x.low
    let st := (s.core x.core).allocStatus x.block (fieldN f.sel 0 4) (fieldN a 0 16) (fieldN a 16 13) (fieldN a 32 11) (fieldN a 29 3 != 0)
    exec (.acal f) s = .next (s.endWith (.acal f) (if x.slices.isEmpty && (s.core x.core).tileUsed x.block (fieldN f.sel 0 4) then .wait
      else .done ((s.acal f st).putOnce x 1 f.d (BitVec.ofNat 64 st)))) :=
  State.issueOnce_ready h _

/-! ## ACFREE, ACSTAT and the bands (R148 to R150, R159, R363 to R365) -/

/-- Whether the issuer of ACFREE holds every band of a tile, as a sequencer need not (R363). -/
theorem holdsBands_iff (x : Issue) (q : Tile) :
    (!x.slices.isEmpty && (q.bands.isEmpty || q.bands.any fun b => b.warp != x.warp)) = true
      ↔ ¬ (x.slices = [] ∨ (q.bands ≠ [] ∧ ∀ b ∈ q.bands, b.warp = x.warp)) := by
  simp only [Bool.and_eq_true, Bool.or_eq_true, Bool.not_eq_true', List.isEmpty_eq_false_iff, List.isEmpty_iff, List.any_eq_true, bne_iff_ne,
    not_or, not_and, not_forall]
  refine and_congr_right fun _ => ⟨fun h hb => ?_, fun h => ?_⟩
  · obtain h | ⟨b, hm, hw⟩ := h
    · exact absurd h hb
    · exact ⟨b, hm, hw⟩
  · by_cases hb : q.bands = []
    · exact .inl hb
    · obtain ⟨b, hm, hw⟩ := h hb
      exact .inr ⟨b, hm, hw⟩

theorem exec_acfree (h : s.readyFor (.acfree f) = true) : let x := s.issueOf (.acfree f)
    let n := fieldN f.sel 0 4
    let q := (s.core x.core).tile x.block n
    exec (.acfree f) s = .next (s.endWith (.acfree f) (if q.state = 0 then x.fault cAU (tileFva 0 n)
      else if !x.slices.isEmpty && (q.bands.isEmpty || q.bands.any fun b => b.warp != x.warp) then x.fault cAB (tileFva 0 n)
      else if (s.core x.core).tileUsed x.block n then .wait
      else .done (s.modCore x.core fun k => k.setTile x.block n Tile.free))) :=
  State.issueOnce_ready h _

theorem exec_acstat (h : s.readyFor (.acstat f) = true) : let x := s.issueOf (.acstat f)
    exec (.acstat f) s = .next (if x.slices = [] ∧ (s.core x.core).tileUsed x.block (fieldN f.sel 0 4) = true then s
      else s.doneWith (.acstat f) (s.putOnce x 2 f.d ((s.core x.core).tileWord ((s.core x.core).tile x.block (fieldN f.sel 0 4))))) := by
  intro x
  change execAcstat f s = _
  have hwaits := (s.core x.core).ownJobs_iff x (fieldN f.sel 0 4)
  rw [execAcstat, State.issueOnce_ready h, ← s.endWith_done]
  split
  · next hw => rw [if_pos (hwaits.2 hw), State.endWith_wait]
  · next hw => rw [if_neg (mt hwaits.1 hw)]

theorem exec_acstatBlk (h : s.readyFor (.acstatBlk f) = true) : let x := s.issueOf (.acstatBlk f)
    exec (.acstatBlk f) s = .next (s.doneWith (.acstatBlk f)
      ((if bitAt f.sel 5 then s.modBlock x.core x.block fun b => { b with ua := false, trb := false, fbs := false } else s).putOnce x 1 f.d
        ((s.core x.core).block x.block).mxWord)) :=
  State.issueOnce_done h rfl

/-- What ACBAND refuses (R150). -/
theorem bandBad_iff (q : Tile) (row0 n : Nat) :
    (n = 0 || q.rows < row0 + n || 8 ≤ q.bands.length || q.bands.any fun b => b.overlaps row0 n) = true
      ↔ n = 0 ∨ q.rows < row0 + n ∨ 8 ≤ q.bands.length ∨ ∃ b ∈ q.bands, b.row0 < row0 + n ∧ row0 < b.row0 + b.nrows := by
  simp [Band.overlaps, or_assoc]

/-- The checks that both band instructions take (R361, R365). -/
theorem State.bandIssue_ready {i : Instr} (h : s.readyFor i = true) (body : Issue → State → Tile → Act) : let x := s.issueOf i
    let n := fieldN f.sel 0 4
    let q := (s.core x.core).tile x.block n
    s.bandIssue i f body = .next (s.endWith i (if q.state = 0 then x.fault cAU (tileFva 0 n)
      else if x.slices.isEmpty then x.fault cAB (tileFva 0 n) else body x s q)) :=
  State.issueOnce_ready h _

/-- ACBAND's band, or its refusal (R150, R365). -/
theorem exec_acband (h : s.readyFor (.acband f) = true) : let x := s.issueOf (.acband f)
    let m := fieldN f.sel 0 4
    let q := (s.core x.core).tile x.block m
    let a := (s.rfOf x).read1 f.a x.low
    let row0 := fieldN a 0 16
    let n := fieldN a 16 16
    exec (.acband f) s = .next (s.endWith (.acband f) (if q.state = 0 then x.fault cAU (tileFva 0 m)
      else if x.slices.isEmpty then x.fault cAB (tileFva 0 m)
      else if n = 0 || q.rows < row0 + n || 8 ≤ q.bands.length || q.bands.any fun b => b.overlaps row0 n then x.fault cAB (tileFva 0 m)
      else .done (s.modCore x.core fun k => k.setTile x.block m { q with bands := q.bands ++ [⟨row0, n, x.warp⟩] }))) := by
  intro x m q a row0 n
  change execAcband f s = _
  rw [execAcband, State.bandIssue_ready h]

theorem exec_acbandRel (h : s.readyFor (.acbandRel f) = true) : let x := s.issueOf (.acbandRel f)
    let m := fieldN f.sel 0 4
    let q := (s.core x.core).tile x.block m
    exec (.acbandRel f) s = .next (s.endWith (.acbandRel f) (if q.state = 0 then x.fault cAU (tileFva 0 m)
      else if x.slices.isEmpty then x.fault cAB (tileFva 0 m)
      else .done (s.modCore x.core fun k => k.setTile x.block m { q with bands := q.bands.filter fun b => b.warp != x.warp }))) := by
  intro x m q
  change execAcbandRel f s = _
  rw [execAcbandRel, State.bandIssue_ready h]

end Ready

/-- Settles O45: an allocation makes the elements of its banks fresh, and every other instruction takes its checks in the order stated. -/
theorem tilesComplete : Obligations.TilesComplete := by
  unfold Obligations.TilesComplete
  refine ⟨?acal, ?acfree, fun s f h => ⟨exec_acstat h, fun h0 => if_pos h0, Core.tileWord_fields _⟩,
    fun s f h => ⟨_, exec_acstatBlk h, rfl, Block.mxWord_fields⟩, ?band⟩
  case acal =>
    intro s f h x k j a rows cols first n st
    have hst : k.allocStatus x.block j rows cols first (fieldN a 29 3 != 0) = st := Core.allocStatus_eq _ _ _ _ _ _ _
    have hexec := exec_acal h
    refine ⟨fun ⟨hs, hu⟩ => hexec.trans ?waits, fun hgo => ⟨s.acal f st, hexec.trans ?done, fun h0 => if_pos h0, fun h0 => ?spec⟩⟩
    case waits => rw [if_pos ((k.ownJobs_iff x j).2 ⟨hs, hu⟩), State.endWith_wait]
    case done => rw [if_neg (mt (k.ownJobs_iff x j).1 fun ⟨hs, hu⟩ => hgo.elim (absurd hs) fun hno => by simp [hu] at hno), hst, State.endWith_done]
    case spec =>
      rw [State.acal, if_neg (not_not.2 h0)]
      exact s.allocTile_spec x j _ first n rows cols
  case acfree =>
    intro s f h x k n q holds
    have hexec := exec_acfree h
    have hholds := holdsBands_iff x q
    refine ⟨fun h0 => hexec.trans ?free, fun h0 hno => hexec.trans ?refused, fun h0 hh hu => hexec.trans ?waits, fun h0 hh hu => hexec.trans ?done⟩
    case free => rw [if_pos h0, State.endWith_fault]
    case refused => rw [if_neg h0, if_pos (hholds.2 hno), State.endWith_fault]
    case waits => rw [if_neg h0, if_neg (mt hholds.1 (not_not.2 hh)), if_pos hu, State.endWith_wait]
    case done => rw [if_neg h0, if_neg (mt hholds.1 (not_not.2 hh)), if_neg (ne_true_of_eq_false hu), State.endWith_done]
  case band =>
    intro s f i hi h x j q a row0 n bad
    simp only [List.mem_cons, List.not_mem_nil, or_false] at hi
    obtain rfl | rfl := hi
    · have hexec := exec_acband h
      have hbad := bandBad_iff q row0 n
      refine ⟨fun h0 => hexec.trans ?_, fun h0 hx => hexec.trans ?_, fun h0 hx _ hb => hexec.trans ?_, fun h0 hx _ hb => hexec.trans ?_, nofun⟩
      · rw [if_pos h0, State.endWith_fault]
      · rw [if_neg h0, if_pos (List.isEmpty_iff.2 hx), State.endWith_fault]
      · rw [if_neg h0, if_neg (mt List.isEmpty_iff.1 hx), if_pos (hbad.2 hb), State.endWith_fault]
      · rw [if_neg h0, if_neg (mt List.isEmpty_iff.1 hx), if_neg (mt hbad.1 hb), State.endWith_done]
    · have hexec := exec_acbandRel h
      refine ⟨fun h0 => hexec.trans ?_, fun h0 hx => hexec.trans ?_, nofun, nofun, fun h0 hx _ => hexec.trans ?_⟩
      · rw [if_pos h0, State.endWith_fault]
      · rw [if_neg h0, if_pos (List.isEmpty_iff.2 hx), State.endWith_fault]
      · rw [if_neg h0, if_neg (mt List.isEmpty_iff.1 hx), State.endWith_done]

end Sys2Proof.Machine
end

section
/-!
PROOFS. The matrix stream (R143, R149, R356 to R360): in which order an instruction waits, faults and is accepted as a job, and what ACZ does.
-/

namespace Sys2Proof.Machine

/-! ## Acceptance (R143, R356) -/

theorem Core.jobsFull_iff (k : Core) (b : Nat) : k.jobsFull b = true ↔ 4 ≤ (k.jobs.filter fun n => n.block == b).length := by
  simp [Core.jobsFull]

/-- What the matrix stream does with an MMA (`sub` 0), an ACDRN (2) or an ACCLOSE (3): it waits, faults, or accepts it as a job. -/
def State.accepts (s : State) (x : Issue) (sub : Nat) (f : FmtMX) : Act :=
  let k := s.core x.core
  let q := k.tile x.block f.acc.toNat
  let a := k.tile x.block f.da.toNat
  if 4 ≤ (k.jobs.filter fun n => n.block == x.block).length
      ∨ (if sub = 2 then k.tileWritten x.block f.acc.toNat = true else k.tileUsed x.block f.acc.toNat = true)
      ∨ ((sub = 0 ∧ f.asrc = 1) ∧ k.tileWritten x.block f.da.toNat = true) then .wait
  else if q.state = 0 then x.fault cAU (tileFva 0 f.acc.toNat)
  else if (sub = 0 ∧ f.asrc = 1) ∧ a.state = 0 then x.fault cAU (tileFva 0 f.da.toNat)
  else if sub ≠ 2 ∧ q.state ≠ 1 then x.fault cAB (tileFva 0 f.acc.toNat)
  else if (sub = 0 ∧ f.asrc = 1) ∧ a.state ≠ 2 then x.fault cAB (tileFva 0 f.da.toNat)
  else if sub = 0 ∧ q.i32 ≠ (f.am != 0) then x.fault cAB (tileFva 0 f.acc.toNat)
  else .done (s.acceptJob x sub f)

/-- The three instructions take the same checks in one order. -/
theorem exec_accepts {s : State} {c b : Nat} {f : FmtMX} {i : Instr} {sub : Nat}
    (hi : (i, sub) ∈ [(Instr.mma f, 0), (.acdrn f, 2), (.acclose f, 3)]) (h : s.seqReady c b false i = true) :
    exec i s = .next (s.finishSeq (s.seqIssue c b false i) (s.accepts (s.seqIssue c b false i) sub f)) := by
  simp only [List.mem_cons, Prod.mk.injEq, List.not_mem_nil, or_false] at hi
  obtain ⟨rfl, rfl⟩ | ⟨rfl, rfl⟩ | ⟨rfl, rfl⟩ := hi
  case inl => exact (s.issue_seq c b false _ _ _ h).trans (by simp [State.accepts, Core.jobsFull_iff, or_assoc])
  case inr.inl => exact (s.issue_seq c b false _ _ _ h).trans (by simp [State.accepts, Core.jobsFull_iff])
  case inr.inr => exact (s.issue_seq c b false _ _ _ h).trans (by simp [State.accepts, Core.jobsFull_iff])

/-- What the state holds of a job that it accepts. -/
theorem State.acceptJob_spec (s : State) (x : Issue) (sub : Nat) (f : FmtMX) : let t := s.acceptJob x sub f
    (t.core x.core).window = (if sub = 3 then (s.core x.core).window else (s.core x.core).window ++ [.job s.nextId])
      ∧ (t.core x.core).tiles = (s.core x.core).tiles ∧ t.mem = s.mem ∧ sameRegs s t ∧ sameScratch s t := by
  refine ⟨?_, ?_, rfl, State.same_modCore_acc { s with nextId := s.nextId + 1 } x.core ⟨rfl, rfl, rfl, rfl⟩⟩
  · rw [State.acceptJob, State.core_modCore_self]
    rfl
  · rw [State.acceptJob, State.core_modCore_self]
    rfl

/-! ## ACZ (R149, R358) -/

/-- Tile `h` of a block opened with its banks handed over, and the arrival that BN asks for. -/
def State.clearTile (s : State) (c b h : Nat) (bn : BitVec 4) : State :=
  let q := (s.core c).tile b h
  (s.modCore c fun k => (k.handOverAcc q.first q.nbk).setTile b h { q with state := 1, satx := false, bands := [] }).arriveBn c b bn

theorem exec_acz {s : State} {c b : Nat} {f : FmtMX} (h : s.seqReady c b false (.acz f) = true) : let x := s.seqIssue c b false (.acz f)
    exec (.acz f) s = .next (s.finishSeq x
      (if (s.core c).jobsFull b || (s.core c).tileUsed b f.acc.toNat then .wait
      else if ((s.core c).tile b f.acc.toNat).state = 0 then x.fault cAU (tileFva 0 f.acc.toNat)
      else .done (s.clearTile c b f.acc.toNat f.bn))) :=
  s.issue_seq c b false _ _ _ h

/-- An arrival changes a barrier of the block, and nothing else of the core. -/
theorem State.core_arriveBn (s : State) (c b : Nat) (bn : BitVec 4) (d : Nat) :
    ∃ nbar, (s.arriveBn c b bn).core d = if d = c ∧ bn ≠ 15 then (s.core c).modBlock b fun y => { y with nbar := nbar } else s.core d := by
  unfold State.arriveBn
  split
  · next h => exact ⟨[], by simp [h]⟩
  · next h => exact ⟨_, by simp only [State.modBlock, State.core_modCore, h, ne_eq, not_false_eq_true, and_true]; rfl⟩

theorem State.seq_arriveBn (s : State) (c b : Nat) (bn : BitVec 4) (d a : Nat) (cp : Bool) :
    ((s.arriveBn c b bn).core d).seq a cp = (s.core d).seq a cp := by
  obtain ⟨nbar, h⟩ := s.core_arriveBn c b bn d
  rw [h]
  split
  · next hd =>
    rw [Core.seq, Core.block_modBlock, hd.1]
    split
    · next ha => subst ha; rfl
    · rfl
  · rfl

/-- What an arrival leaves alone of the core. -/
theorem State.arriveBn_keeps (s : State) (c b : Nat) (bn : BitVec 4) (d : Nat) :
    let k := (s.arriveBn c b bn).core d
    k.tiles = (s.core d).tiles ∧ k.acc = (s.core d).acc ∧ k.accPois = (s.core d).accPois ∧ k.clean = (s.core d).clean
      ∧ k.touched = (s.core d).touched ∧ k.warps = (s.core d).warps ∧ k.scr = (s.core d).scr ∧ k.tags = (s.core d).tags := by
  obtain ⟨nbar, h⟩ := s.core_arriveBn c b bn d
  simp only [h]
  split
  · next hd => rw [hd.1]; exact ⟨rfl, rfl, rfl, rfl, rfl, rfl, rfl, rfl⟩
  · exact ⟨rfl, rfl, rfl, rfl, rfl, rfl, rfl, rfl⟩

theorem State.tile_arriveBn (s : State) (c b : Nat) (bn : BitVec 4) (d a h : Nat) : ((s.arriveBn c b bn).core d).tile a h = (s.core d).tile a h := by
  obtain ⟨htiles, -⟩ := s.arriveBn_keeps c b bn d
  rw [Core.tile, htiles]
  rfl

theorem State.acc_arriveBn (s : State) (c b : Nat) (bn : BitVec 4) (d e : Nat) :
    ((s.arriveBn c b bn).core d).accElem e = (s.core d).accElem e ∧ ((s.arriveBn c b bn).core d).accPoison e = (s.core d).accPoison e := by
  obtain ⟨-, hacc, hpois, hclean, htouched, -⟩ := s.arriveBn_keeps c b bn d
  rw [Core.accElem, Core.accPoison, Core.freshRow, hacc, hpois, hclean, htouched]
  exact ⟨rfl, rfl⟩

theorem State.same_arriveBn (s : State) (c b : Nat) (bn : BitVec 4) : sameRegs s (s.arriveBn c b bn) ∧ sameScratch s (s.arriveBn c b bn) := by
  refine ⟨⟨fun d w => ?_, fun d a cp => ?_⟩, fun d => ?_⟩
  · obtain ⟨-, -, -, -, -, hwarps, -⟩ := s.arriveBn_keeps c b bn d
    rw [State.warp, Core.warp, hwarps]
    rfl
  · rw [State.seq_arriveBn]
  · obtain ⟨-, -, -, -, -, -, hscr, htags⟩ := s.arriveBn_keeps c b bn d
    exact ⟨hscr, htags⟩

/-- An arrival changes the barrier that BN names (R356). -/
theorem State.bar_arriveBn (s : State) (c b : Nat) (bn : BitVec 4) {n : Nat} (hn : n < 15) :
    (((s.arriveBn c b bn).core c).block b).bar n =
      if bn.toNat = n then (((s.core c).block b).bar n).arrive else ((s.core c).block b).bar n := by
  unfold State.arriveBn
  split
  · next h => rw [if_neg (by subst h; exact Nat.ne_of_gt hn)]
  · rw [State.modBlock, State.core_modCore_self, Core.modBlock, Core.block, Core.setBlock, Sparse.get_set_self, Block.bar, Block.setBar,
      Sparse.get_set]
    split
    · next h => rw [h, if_pos rfl]
    · next h => rw [if_neg (Ne.symm h)]; rfl

theorem State.tile_clearTile (s : State) (c b h : Nat) (bn : BitVec 4) :
    ((s.clearTile c b h bn).core c).tile b h = { (s.core c).tile b h with state := 1, satx := false, bands := [] } := by
  rw [State.clearTile, State.tile_arriveBn, State.core_modCore_self, Core.tile_setTile_self]

theorem State.acc_clearTile (s : State) (c b h : Nat) (bn : BitVec 4) {e : Nat} (hlo : 1024 * ((s.core c).tile b h).first ≤ e)
    (hhi : e < 1024 * (((s.core c).tile b h).first + ((s.core c).tile b h).nbk)) :
    ((s.clearTile c b h bn).core c).accElem e = 0 ∧ ((s.clearTile c b h bn).core c).accPoison e = false := by
  obtain ⟨helem, hpois⟩ := State.acc_arriveBn (s.modCore c fun k => (k.handOverAcc ((s.core c).tile b h).first ((s.core c).tile b h).nbk).setTile b h
    { (s.core c).tile b h with state := 1, satx := false, bands := [] }) c b bn c e
  rw [State.clearTile, helem, hpois, State.core_modCore_self, Core.accElem_setTile, Core.accPoison_setTile]
  exact ⟨(Core.accElem_handOverAcc _ _ _ _).trans (if_pos ⟨hlo, hhi⟩), Core.accPoison_handOverAcc ⟨hlo, hhi⟩⟩

theorem State.bar_clearTile (s : State) (c b h : Nat) (bn : BitVec 4) {n : Nat} (hn : n < 15) :
    (((s.clearTile c b h bn).core c).block b).bar n = if bn.toNat = n then (((s.core c).block b).bar n).arrive else ((s.core c).block b).bar n := by
  rw [State.clearTile, State.bar_arriveBn _ _ _ _ hn, State.core_modCore_self]
  rfl

theorem State.clearTile_keeps (s : State) (c b h : Nat) (bn : BitVec 4) :
    (s.clearTile c b h bn).mem = s.mem ∧ sameRegs s (s.clearTile c b h bn) ∧ sameScratch s (s.clearTile c b h bn) := by
  obtain ⟨hregs, hscr⟩ := s.same_modCore_acc c (g := fun k => (k.handOverAcc ((s.core c).tile b h).first ((s.core c).tile b h).nbk).setTile b h
    { (s.core c).tile b h with state := 1, satx := false, bands := [] }) ⟨rfl, rfl, rfl, rfl⟩
  obtain ⟨hregs', hscr'⟩ := State.same_arriveBn _ c b bn
  exact ⟨State.arriveBn_mem _ _ _ _, hregs.trans hregs', hscr.trans hscr'⟩

/-- Settles O47: MMA, ACDRN and ACCLOSE take the checks of one list, and the banks that ACZ hands over read zero. -/
theorem matrixAccepts : Obligations.MatrixAccepts := by
  unfold Obligations.MatrixAccepts
  refine ⟨?jobs, ?acz⟩
  case jobs =>
    intro s c b f i sub hi k rf q a src full held fault h
    have hexec := exec_accepts hi h
    have hact (act : Act) (ha : s.accepts (s.seqIssue c b false i) sub f = act) : exec i s = .next (s.finishSeq (s.seqIssue c b false i) act) :=
      ha ▸ hexec
    have hopen (hn : ¬ held) (h0 : q.state ≠ 0) := fun act => hact act ∘ ((if_neg hn).trans (if_neg h0)).trans
    have hsource (hn : ¬ held) (h0 : q.state ≠ 0) (ha : src → a.state ≠ 0) :=
      fun act => hopen hn h0 act ∘ (if_neg (not_and.2 ha)).trans
    have hstate (hn : ¬ held) (h0 : q.state ≠ 0) (ha : src → a.state ≠ 0) (h1 : sub ≠ 2 → q.state = 1) :=
      fun act => hsource hn h0 ha act ∘ (if_neg fun h => h.2 (h1 h.1)).trans
    have hclosed (hn : ¬ held) (h0 : q.state ≠ 0) (ha : src → a.state = 2) (h1 : sub ≠ 2 → q.state = 1) :=
      fun act => hstate hn h0 (fun hs => by simp [ha hs]) h1 act ∘ (if_neg fun h => h.2 (ha h.1)).trans
    refine ⟨fun hh => hact .wait (if_pos hh), fun hn h0 => hact _ ((if_neg hn).trans (if_pos h0)), fun hn h0 hs ha => hopen hn h0 _ (if_pos ⟨hs, ha⟩),
      fun hn h0 ha h2 h1 => hsource hn h0 ha _ (if_pos ⟨h2, h1⟩), fun hn h1 hs h0 h2 => ?source, fun hn h1 h0 ha ht => ?kind, fun hn h0 h1 ha ht => ?accepted⟩
    case source => exact hstate hn (by simp [h1]) (fun _ => h0) (fun _ => h1) _ (if_pos ⟨hs, h2⟩)
    case kind => exact hclosed hn (by simp [h1]) ha (fun _ => h1) _ (if_pos ⟨h0, ht⟩)
    case accepted =>
      refine ⟨_, hclosed hn h0 ha h1 _ (if_neg fun h => h.2 (ht h.1)), ?_, s.acceptJob_spec (s.seqIssue c b false i) sub f⟩
      exact congrArg Core.jobs (State.core_modCore_self _ _ _)
  case acz =>
    intro s c b f k q held h
    have hexec := exec_acz h
    have hheld : (k.jobsFull b || k.tileUsed b f.acc.toNat) = true ↔ held := by rw [Bool.or_eq_true, Core.jobsFull_iff]
    refine ⟨fun hh => hexec.trans ?waits, fun hn h0 => hexec.trans ?free, fun hn h0 => ⟨s.clearTile c b f.acc.toNat f.bn, hexec.trans ?clears,
      s.tile_clearTile c b _ _, fun e => s.acc_clearTile c b _ _, fun n => s.bar_clearTile c b _ _, s.clearTile_keeps c b _ _⟩⟩
    case waits => rw [if_pos (hheld.2 hh)]; rfl
    case free => rw [if_neg (mt hheld.1 hn), if_pos h0]; rfl
    case clears => rw [if_neg (mt hheld.1 hn), if_neg h0]; rfl

end Sys2Proof.Machine
end

section
/-!
PROOFS. Descriptors (R146, R321, R322) and leases of L2 ways (R45, R46, R323 to R325): the dword replaced, the handle that a lease is given,
and what a lease's end leaves pinned.
-/

namespace Sys2Proof.Machine

/-! ## DSET (R321, R322) -/

theorem State.putDesc_done {s : State} {x : Issue} {d : BitVec 256} (h : descFault (s.core x.core).scrSize d = none) (n : Nat) :
    s.putDesc x n d = .done (s.modBlock x.core x.block fun b => { b with desc := Sparse.set 0 b.desc n d }) := by
  rw [State.putDesc, h]

/-- The dword that DSET.w replaces. -/
theorem ofNat_spliceBits_dword (old d : BitVec 256) (v : DWord) {j : Nat}
    (h : ∀ b, b < 256 → bitAt d b = if b / 64 = j then bitAt v (b % 64) else bitAt old b) :
    BitVec.ofNat 256 (spliceBits old.toNat (64 * j) 64 v.toNat) = d := by
  refine BitVec.eq_of_getLsbD_eq fun b hb => ?_
  have hbit := h b hb
  rw [BitVec.getLsbD_ofNat, decide_eq_true hb, Bool.true_and, testBit_spliceBits]
  refine Eq.trans ?_ hbit.symm
  by_cases hj : b / 64 = j
  · rw [if_pos (by omega), if_pos hj, show b - 64 * j = b % 64 by omega]
    rfl
  · rw [if_neg (by omega), if_neg hj]
    rfl

section Desc

variable {s : State} {f : FmtS}

theorem exec_dset (h : s.readyFor (.dset f) = true) : let x := s.issueOf (.dset f)
    let k := s.core x.core
    let n := fieldN f.sel 0 4
    let a := (s.rfOf x).read1 f.a x.low
    let d : BitVec 256 := BitVec.ofNat 256 (k.scrNat (fieldN a 0 24) 32)
    k.descUsed x.block n = false → s.busyBefore x = false → k.ownScr a 32 = true → fieldN a 0 24 % 16 = 0 →
    s.scrHeld x.core (fieldN a 0 24) 32 = false → s.poisonIn x (fieldN a 0 24) 32 = none → descFault k.scrSize d = none →
    exec (.dset f) s = .next (s.doneWith (.dset f) (s.modBlock x.core x.block fun b => { b with desc := Sparse.set 0 b.desc n d })) := by
  intro x k n a d hused hbusy hown hal hheld hpois hfault
  refine State.issueOnce_done h ?_
  have hwaits : ¬ (k.descUsed x.block n || s.busyBefore x || s.scrHeld x.core (fieldN a 0 24) 32) = true := by simp [hused, hbusy, hheld]
  refine (if_neg hwaits).trans ((if_neg (not_not.2 hal)).trans ((if_neg (show ¬ (!k.ownScr a 32) = true by simp [hown])).trans ?_))
  rw [State.meetScr_sound (State.readyFor_sound h)]
  dsimp only
  split
  · next r hr => exact absurd (hr.symm.trans hpois) nofun
  · exact State.putDesc_done hfault n

theorem exec_dsetW (h : s.readyFor (.dsetW f) = true) : let x := s.issueOf (.dsetW f)
    let k := s.core x.core
    let n := fieldN f.sel 0 4
    let old := Sparse.get 0 (k.block x.block).desc n
    let v := (s.rfOf x).read2 f.a x.low
    k.descUsed x.block n = false → exec (.dsetW f) s = .next (s.endWith (.dsetW f)
      (s.putDesc x n (BitVec.ofNat 256 (spliceBits old.toNat (64 * fieldN f.sel 5 2) 64 v.toNat)))) := by
  intro x k n old v hused
  change execDsetW f s = _
  rw [execDsetW, State.issueOnce_ready h, if_neg (ne_true_of_eq_false hused), spliceBits, Nat.mod_eq_of_lt v.isLt]

end Desc

/-! ## Leases granted (R323, R324) -/

/-- Fewer than 255 handles leave one from 1 to 255. -/
theorem exists_free_handle {l : List Nat} (h : l.length < 255) : ∃ n ∈ (List.range 255).map (· + 1), n ∉ l := by
  by_contra hno
  push Not at hno
  have hsub : ((List.range 255).map (· + 1)).Subperm l := List.subperm_of_subset (List.nodup_range.map fun _ _ => by simp) hno
  have := hsub.length_le
  simp at this
  omega

/-- The first handle of a region that no live lease of it has. -/
def Fab.freeHandle (f : Fab) (rcb : Nat) : Nat :=
  (((List.range 255).map (· + 1)).find? fun h => !(f.leases.filter fun l => l.rcb = rcb).any fun l => l.handle == h).getD 0

theorem Fab.leaseStatus_cases (f : Fab) (rcb : Nat) (slices : List Nat) (top ways life : Nat) :
    (∃ n, n ≠ 0 ∧ f.leaseStatus rcb slices top ways life = (n, 0))
      ∨ (f.leases.filter fun l => l.rcb = rcb).length < 255 ∧ f.leaseStatus rcb slices top ways life = (0, f.freeHandle rcb) := by
  unfold Fab.leaseStatus
  dsimp only
  split
  · exact .inl ⟨4, by decide, rfl⟩
  · split
    · exact .inl ⟨3, by decide, rfl⟩
    · next hroom =>
      split
      · exact .inl ⟨2, by decide, rfl⟩
      · split
        · exact .inl ⟨1, by decide, rfl⟩
        · exact .inr ⟨Nat.not_le.1 hroom, rfl⟩

/-- A lease that is granted is given a handle from 1 to 255 that no live lease of its region has. -/
theorem Fab.freeHandle_spec {f : Fab} {rcb : Nat} (h : (f.leases.filter fun l => l.rcb = rcb).length < 255) :
    1 ≤ f.freeHandle rcb ∧ f.freeHandle rcb ≤ 255 ∧ ∀ l ∈ f.leases, l.rcb = rcb → l.handle ≠ f.freeHandle rcb := by
  obtain ⟨n, hn, hfree⟩ := exists_free_handle (l := (f.leases.filter fun l => l.rcb = rcb).map Lease.handle) (by rwa [List.length_map])
  unfold Fab.freeHandle
  cases hfind : ((List.range 255).map (· + 1)).find? fun h => !(f.leases.filter fun l => l.rcb = rcb).any fun l => l.handle == h with
  | none =>
    refine absurd (List.find?_eq_none.1 hfind n hn) ?_
    simpa using hfree
  | some m =>
    have hm := List.mem_of_find?_eq_some hfind
    have hno := List.find?_some hfind
    simp only [List.mem_map, List.mem_range] at hm
    obtain ⟨i, hi, rfl⟩ := hm
    refine ⟨by simp, by simpa using hi, fun l hl hr hh => ?_⟩
    simp only [Bool.not_eq_true', List.any_eq_false, List.mem_filter, decide_eq_true_eq, beq_iff_eq] at hno
    exact hno l ⟨hl, hr⟩ hh

/-- The lease that a request asks for, with a handle (R323). -/
def leaseOf (id rcb handle ways life : Nat) (slices : List Nat) : Lease :=
  { id := id, rcb := rcb, handle := handle, ways := ways, left := slices.map fun i => (i, life) }

theorem get_left_leaseOf (id rcb handle ways life : Nat) (slices : List Nat) (n : Nat) :
    Sparse.get 0 (leaseOf id rcb handle ways life slices).left n = if n ∈ slices then life else 0 := by
  unfold leaseOf
  induction slices with
  | nil => rfl
  | cons a l ih =>
    rw [List.map_cons, Sparse.get, ih]
    by_cases ha : a = n
    · simp [ha]
    · simp [ha, Ne.symm ha]

/-- A line in the ways that a lease reserves is empty once the lease is granted, unless another lease pins it (R324). -/
theorem Mem.l2_emptyWays {m : Mem} {l : Lease} {line : Nat} (hh : l.holds (Config.homeSlice line) = true)
    (hw : Config.inLeasedWays l.id line = true) (hp : (Sparse.get L2Line.absent m.l2 line).pin = none) :
    Sparse.get L2Line.absent (m.emptyWays l).l2 line = L2Line.absent := by
  rw [Mem.emptyWays, Sparse.get_mapVals _ _ _ _ (by simp), if_pos (by simp [hh, hw, hp])]

/-- The device with a lease granted. -/
def State.grantLease (s : State) (l : Lease) : State :=
  { s with nextId := s.nextId + 1, mem := s.mem.emptyWays l, fab := { s.fab with leases := s.fab.leases ++ [l] } }

/-- LEASE writes its status and handle, and grants the lease when the status is 0. -/
theorem exec_lease {s : State} {f : FmtS} (h : s.readyFor (.lease f) = true) : let x := s.issueOf (.lease f)
    let r := s.rfOf x
    let hi := r.read1 (f.a + 1) x.low
    let life := (r.read1 (f.a + 2) x.low).toNat
    let slices := bitsOf (hi ++ r.read1 f.a x.low) 48
    let rcb := (s.ctx (s.ctxOf x)).rcb
    let st := s.fab.leaseStatus rcb slices (fieldN hi 20 12) (fieldN hi 16 4) life
    exec (.lease f) s = .next (s.doneWith (.lease f) ((if st.1 ≠ 0 then s
      else s.grantLease (leaseOf s.nextId rcb st.2 (fieldN hi 16 4) life slices)).putOnce x 1 f.d (BitVec.ofNat 64 (256 * st.1 + st.2)))) :=
  State.issueOnce_done h rfl

/-! ## The end of a lease (R46, R325) -/

/-- Where a lease has ended, it pins no line. -/
theorem Mem.pin_unpin (m : Mem) (id : Nat) {slice : Option Nat} {line : Nat} (h : slice = none ∨ slice = some (Config.homeSlice line)) :
    (Sparse.get L2Line.absent (m.unpin id slice).l2 line).pin ≠ some id := by
  rw [Mem.unpin, Sparse.get_mapVals _ _ _ _ (by simp [L2Line.absent])]
  split
  · nofun
  · next hno => exact fun hp => hno ⟨hp, h⟩

theorem sameRegs_of_cores_eq {s t : State} (h : t.cores = s.cores) : sameRegs s t :=
  sameRegs_of_cores fun c => by simp only [State.core, h, and_self]

/-- The lease that UNLEASE names, if its region has one. -/
def State.unleased (s : State) (f : FmtS) : Option Lease :=
  let x := s.issueOf (.unlease f)
  let n := fieldN ((s.rfOf x).read1 f.a x.low) 0 8
  s.fab.leases.find? fun l => l.rcb = (s.ctx (s.ctxOf x)).rcb && l.handle = n && n != 0

section Unlease

variable {s : State} {f : FmtS} (h : s.readyFor (.unlease f) = true)
include h

theorem exec_unlease_none (hn : s.unleased f = none) : exec (.unlease f) s = .next (s.doneWith (.unlease f) (s.putOnce (s.issueOf (.unlease f)) 1 f.d 1)) := by
  refine State.issueOnce_done h ?_
  dsimp only
  split
  · rfl
  · next l hl => exact absurd (hn.symm.trans hl) nofun

theorem exec_unlease_some {l : Lease} (hn : s.unleased f = some l) :
    exec (.unlease f) s = .next (s.doneWith (.unlease f) ((s.endLease l.id).putOnce (s.issueOf (.unlease f)) 1 f.d 0)) := by
  refine State.issueOnce_done h ?_
  dsimp only
  split
  · next hl => exact absurd (hn.symm.trans hl) nofun
  · next q hl => rw [Option.some.inj (hn.symm.trans hl)]

end Unlease

/-- The device with a lease's count ended at one slice. -/
def State.endSlice (s : State) (id slice : Nat) (left : Sparse Nat) : State :=
  { s with fab := { s.fab with leases := s.fab.leases.map fun q => if q.id = id then { q with left := left } else q }
           mem := s.mem.unpin id (some slice) }

theorem exec_leaseExpiry {s : State} {id : Nat} {l : Lease} (slice : Nat) (hl : s.fab.leases.find? (fun q => q.id = id) = some l) :
    exec (.leaseExpiry slice id) s = .next (if Sparse.set 0 l.left slice 0 = [] then s.endLease id else s.endSlice id slice (Sparse.set 0 l.left slice 0)) := by
  change execLeaseExpiry slice id s = _
  rw [execLeaseExpiry, hl]
  exact congrArg _ (if_congr List.isEmpty_iff rfl rfl)

theorem State.id_endLease (s : State) {id : Nat} {q : Lease} (h : q ∈ (s.endLease id).fab.leases) : q.id ≠ id := by
  simpa using (List.mem_filter.1 h).2

theorem State.left_endSlice (s : State) {id slice : Nat} {left : Sparse Nat} {q : Lease} (h : q ∈ (s.endSlice id slice left).fab.leases) (hid : q.id = id) :
    q.left = left := by
  obtain ⟨p, -, rfl⟩ := List.mem_map.1 h
  by_cases hp : p.id = id
  · rw [if_pos hp]
  · rw [if_neg hp] at hid
    exact absurd hid hp

/-- Settles O29: the dword replaced is that of the image, a handle is free by counting, and a lease's end pins nothing more. -/
theorem descriptorsComplete : Obligations.DescriptorsComplete := by
  unfold Obligations.DescriptorsComplete
  refine ⟨⟨?dset, ?dsetW⟩, ?lease, ?unlease, ?expiry⟩
  case dset => exact fun s f h => exec_dset h
  case dsetW =>
    intro s f x k old v d hd h hused hfault
    rw [exec_dsetW h hused, ofNat_spliceBits_dword old d v hd, State.putDesc_done hfault, State.endWith_done]
  case lease =>
    intro s f x r hi life slices rcb st h
    have hexec : exec (.lease f) s = .next (s.doneWith (.lease f) ((if st.1 ≠ 0 then s
      else s.grantLease (leaseOf s.nextId rcb st.2 (fieldN hi 16 4) life slices)).putOnce x 1 f.d (BitVec.ofNat 64 (256 * st.1 + st.2)))) := exec_lease h
    obtain ⟨n, hn, hst⟩ | ⟨hroom, hst⟩ := s.fab.leaseStatus_cases rcb slices (fieldN hi 20 12) (fieldN hi 16 4) life
    · have hst : st = (n, 0) := hst
      rw [hst] at hexec ⊢
      rw [if_pos (show ((n, 0) : Nat × Nat).1 ≠ 0 from hn)] at hexec
      exact ⟨s, hexec, sameRegs_of_cores_eq rfl, fun _ _ => rfl, rfl, fun _ => ⟨rfl, rfl, rfl⟩, fun h0 => absurd h0 hn⟩
    · have hst : st = (0, s.fab.freeHandle rcb) := hst
      obtain ⟨hlo, hhi, hfree⟩ := Fab.freeHandle_spec hroom
      rw [hst] at hexec ⊢
      rw [if_neg (not_not.2 rfl)] at hexec
      exact ⟨_, hexec, sameRegs_of_cores_eq rfl, fun _ _ => rfl, rfl, fun h0 => absurd rfl h0, fun _ => ⟨hlo, hhi, hfree, _, rfl, rfl, rfl, rfl,
        fun line hh hw hp => Mem.l2_emptyWays hh hw hp, fun m _ => get_left_leaseOf _ _ _ _ _ _ m⟩⟩
  case unlease =>
    intro s f x n h
    split
    · next hnone => exact exec_unlease_none h hnone
    · next l hsome =>
      exact ⟨s.endLease l.id, exec_unlease_some h hsome, rfl, fun _ _ => Mem.byte_unpin _ _ _ _ _, sameRegs_of_cores_eq rfl,
        fun line => s.mem.pin_unpin l.id (.inl rfl)⟩
  case expiry =>
    intro s slice id l hl
    have hexec := exec_leaseExpiry slice hl
    by_cases hlast : Sparse.set 0 l.left slice 0 = []
    · refine ⟨s.endLease id, hexec.trans (by rw [if_pos hlast]), fun _ _ => Mem.byte_unpin _ _ _ _ _, rfl, fun line _ => s.mem.pin_unpin id (.inl rfl), ?_, ?_⟩
      · exact fun q hq hid => absurd hid (s.id_endLease hq)
      · exact fun _ q hq => s.id_endLease hq
    · refine ⟨s.endSlice id slice (Sparse.set 0 l.left slice 0), hexec.trans (by rw [if_neg hlast]), fun _ _ => Mem.byte_unpin _ _ _ _ _, rfl,
        fun line hline => s.mem.pin_unpin id (.inr (congrArg some hline.symm)), ?_, fun h0 => absurd h0 hlast⟩
      intro q hq hid
      rw [s.left_endSlice hq hid, Sparse.get_set_self]

end Sys2Proof.Machine
end

section
/-!
PROOFS. Reads of a tile (R126, R151, R366): an element written, tiles that agree but for SATX, and what the lanes of a read find and leave.
-/

namespace Sys2Proof.Machine

/-! ## One element written (R79, R84) -/

theorem rowKey_acc_inj {bank row bank' row' : Nat} (h : row < 512) (h' : row' < 512) :
    rowKey .acc bank row = rowKey .acc bank' row' ↔ bank = bank' ∧ row = row' := by
  simp only [rowKey, bankKey]
  omega

/-- The rows of two elements are one row exactly when the elements are a pair (R90). -/
theorem accRow_eq_iff (e n : Nat) : (n / 1024 = e / 1024 ∧ n % 1024 / 2 = e % 1024 / 2) ↔ n / 2 = e / 2 := by omega

theorem Core.freshRow_putAcc (k : Core) (e : Nat) (v : DWord) (n : Nat) :
    (k.putAcc e v).freshRow .acc (n / 1024) (n % 1024 / 2) = (k.freshRow .acc (n / 1024) (n % 1024 / 2) && !decide (n / 2 = e / 2)) := by
  have hkey : rowKey .acc (n / 1024) (n % 1024 / 2) = rowKey .acc (e / 1024) (e % 1024 / 2) ↔ n / 2 = e / 2 := by
    rw [rowKey_acc_inj (by omega) (by omega), accRow_eq_iff]
  have hput : (k.putAcc e v).freshRow .acc (n / 1024) (n % 1024 / 2) = (Sparse.get false k.clean (bankKey .acc (n / 1024))
      && !Sparse.get false (Sparse.set false k.touched (rowKey .acc (e / 1024) (e % 1024 / 2)) true) (rowKey .acc (n / 1024) (n % 1024 / 2))) := by
    unfold Core.putAcc
    dsimp only
    split <;> rfl
  rw [hput, Sparse.get_set, Core.freshRow]
  by_cases h : n / 2 = e / 2
  · rw [if_pos (hkey.2 h)]
    simp [h]
  · rw [if_neg (mt hkey.1 h)]
    simp [h]

theorem Core.accElem_putAcc (k : Core) (e : Nat) (v : DWord) (n : Nat) : (k.putAcc e v).accElem n = if n = e then v else k.accElem n := by
  have hacc : (k.putAcc e v).acc = Sparse.set 0 (if k.freshRow .acc (e / 1024) (e % 1024 / 2) then
      Sparse.set 0 k.acc (if e % 2 = 0 then e + 1 else e - 1) 0 else k.acc) e v := by
    unfold Core.putAcc
    dsimp only
    split <;> rfl
  rw [Core.accElem, Core.freshRow_putAcc, hacc, Sparse.get_set, Core.accElem]
  by_cases hne : n = e
  · subst hne
    simp
  · rw [if_neg hne, if_neg hne]
    by_cases hrow : n / 2 = e / 2
    · have htwin : n = if e % 2 = 0 then e + 1 else e - 1 := by split <;> omega
      have hfresh : k.freshRow .acc (n / 1024) (n % 1024 / 2) = k.freshRow .acc (e / 1024) (e % 1024 / 2) := by
        rw [((accRow_eq_iff e n).2 hrow).1, ((accRow_eq_iff e n).2 hrow).2]
      rw [hfresh, ← htwin]
      cases k.freshRow .acc (e / 1024) (e % 1024 / 2) <;> simp [hrow]
    · have htwin : n ≠ if e % 2 = 0 then e + 1 else e - 1 := by split <;> omega
      cases k.freshRow .acc (e / 1024) (e % 1024 / 2) <;> simp [hrow, Sparse.get_set_ne _ _ _ htwin]

theorem Core.putAcc_keeps (k : Core) (e : Nat) (v : DWord) : (k.putAcc e v).tiles = k.tiles ∧ (k.putAcc e v).blocks = k.blocks
    ∧ (k.putAcc e v).scr = k.scr ∧ (k.putAcc e v).tags = k.tags := by
  unfold Core.putAcc
  dsimp only
  split <;> exact ⟨rfl, rfl, rfl, rfl⟩

/-! ## Tiles but for SATX -/

def Tile.unsat (t : Tile) : Tile := { t with satx := false }

theorem Tile.fields_of_unsat {t u : Tile} (h : u.unsat = t.unsat) :
    u.state = t.state ∧ u.i32 = t.i32 ∧ u.satm = t.satm ∧ u.first = t.first ∧ u.extent = t.extent := by
  unfold Tile.unsat at h
  unfold Tile.extent
  simp only [Tile.mk.injEq] at h
  obtain ⟨hstate, hi32, -, hsatm, -, hfirst, -, hrows, hcols, -⟩ := h
  exact ⟨hstate, hi32, hsatm, hfirst, by rw [hrows, hcols]⟩

/-- A core's tiles with SATX clear in each. -/
def Core.unsat (k : Core) : Sparse Tile := k.tiles.map fun p => (p.1, p.2.unsat)

theorem Core.get_unsat (k : Core) (n : Nat) : Sparse.get Tile.free k.unsat n = (Sparse.get Tile.free k.tiles n).unsat := by
  unfold Core.unsat
  induction k.tiles with
  | nil => rfl
  | cons p r ih =>
    obtain ⟨a, t⟩ := p
    rw [List.map_cons, Sparse.get, Sparse.get, ih]
    split <;> rfl

/-- A listed value replaced by one that `g` does not tell from it. -/
theorem Sparse.map_insert_of_get {α β : Type} [DecidableEq α] {d : α} {m : Sparse α} {lo n : Nat} {x : α} {g : α → β}
    (h : Sparse.wfFrom d lo m = true) (hn : Sparse.get d m n ≠ d) (hx : g x = g (Sparse.get d m n)) :
    (Sparse.insert m n x).map (fun p => (p.1, g p.2)) = m.map fun p => (p.1, g p.2) := by
  induction m generalizing lo with
  | nil => exact absurd rfl hn
  | cons p r ih =>
    obtain ⟨a, v⟩ := p
    simp only [Sparse.wfFrom, Bool.and_eq_true, decide_eq_true_eq] at h
    obtain ⟨-, hr⟩ := h
    by_cases ha : a = n
    · subst ha
      rw [Sparse.get, if_pos rfl] at hx
      rw [Sparse.insert, if_neg (Nat.lt_irrefl a), if_pos rfl, List.map_cons, List.map_cons, hx]
    · rw [Sparse.get, if_neg ha] at hn hx
      by_cases hlt : n < a
      · exact absurd (Sparse.get_of_wfFrom hr (by omega)) hn
      · rw [Sparse.insert, if_neg hlt, if_neg (Ne.symm ha), List.map_cons, List.map_cons, ih hr hn hx]

/-- The tiles of two cores are listed alike, but for SATX. -/
def Core.tilesLike (k k' : Core) : Prop := Sparse.wf Tile.free k'.tiles = true ∧ k'.unsat = k.unsat

theorem Core.tile_like {k k' : Core} (h : k.tilesLike k') (b n : Nat) : (k'.tile b n).unsat = (k.tile b n).unsat := by
  rw [Core.tile, Core.tile, ← Core.get_unsat, ← Core.get_unsat, h.2]

/-- A fold sets SATX at most, of a tile that is listed. -/
theorem Core.foldElem_like {k : Core} (hwf : Sparse.wf Tile.free k.tiles = true) {b n : Nat} (hn : (k.tile b n).state ≠ 0) (e : Nat) :
    k.tilesLike (k.foldElem b n e).2 := by
  have hfree : ∀ t : Tile, t.state ≠ 0 → t ≠ Tile.free := fun t h h' => h (congrArg Tile.state h')
  unfold Core.foldElem
  dsimp only
  split
  · refine ⟨Sparse.wf_set _ _ hwf, ?_⟩
    rw [Core.unsat, Core.setTile, Sparse.set, if_neg (hfree { k.tile b n with satx := true } hn)]
    exact Sparse.map_insert_of_get hwf (hfree _ hn) rfl
  · exact ⟨hwf, rfl⟩

theorem Core.foldElem_keeps (k : Core) (b n e : Nat) : let k' := (k.foldElem b n e).2
    (∀ m, k'.accElem m = k.accElem m) ∧ k'.blocks = k.blocks ∧ k'.scr = k.scr ∧ k'.tags = k.tags := by
  unfold Core.foldElem
  dsimp only
  split <;> exact ⟨fun _ => rfl, rfl, rfl, rfl⟩

/-! ## What a read finds (R151) -/

/-- The tile of the bank of an element, but for SATX. -/
theorem Core.bankTile_unsat (k : Core) (b : Nat) (t : Tile) (e : Nat) : (k.bankTile b t e).map (fun q => (q.1, q.2.unsat))
    = (k.unsat.find? fun p => p.1 / 16 == b && p.2.overlaps (t.first + e / 1024) 1).map fun p => (p.1 % 16, p.2) := by
  rw [Core.bankTile, Core.unsat, List.find?_map, Option.map_map, Option.map_map]
  rfl

/-- The element that a read returns, but for SATX of its tile. -/
theorem Core.readFrom_like {k k' : Core} (h : k.tilesLike k') (b n : Nat) (t : Tile) (e : Nat) :
    (k'.readFrom b n t e).map (fun q => (q.1, q.2.1.unsat, q.2.2)) = (k.readFrom b n t e).map fun q => (q.1, q.2.1.unsat, q.2.2) := by
  have hbank : (k'.bankTile b t e).map (fun q => (q.1, q.2.unsat)) = (k.bankTile b t e).map fun q => (q.1, q.2.unsat) := by
    rw [Core.bankTile_unsat, Core.bankTile_unsat, h.2]
  unfold Core.readFrom
  split
  · rfl
  · cases hk : k.bankTile b t e with
    | none =>
      rw [hk] at hbank
      rw [Option.map_eq_none_iff.1 hbank]
    | some q =>
      rw [hk] at hbank
      obtain ⟨q', hk', hq⟩ := Option.map_eq_some_iff.1 hbank
      obtain ⟨n', o⟩ := q
      obtain ⟨n'', o'⟩ := q'
      obtain ⟨rfl, ho⟩ := Prod.mk.inj hq
      have ho : o'.unsat = o.unsat := ho
      obtain ⟨-, -, -, hfirst, hextent⟩ := Tile.fields_of_unsat ho
      rw [hk']
      simp only [hfirst, hextent]
      by_cases hin : n'' ≠ n ∧ (t.first + e / 1024 - o.first) * 1024 + e % 1024 < o.extent
      · simp only [if_pos hin, Option.map_some, ho]
      · simp only [if_neg hin, Option.map_none]

end Sys2Proof.Machine
end

section
/-!
PROOFS. The lanes of a read of a tile, one after another (R126, R151, R366), and ACRD and ACRDCLR.
-/

namespace Sys2Proof.Machine

/-! ## One lane -/

/-- The value that a read of an element index returns (R151): the fold of what it finds, or zero. -/
def Core.readVal (k : Core) (b n : Nat) (t : Tile) (e : Nat) : Word :=
  match k.readFrom b n t e with
  | some (m, _, x) => (foldChains (k.tile b m).i32 (k.tile b m).satm (k.accElem ((k.tile b m).at_ x))).1
  | none => 0

theorem Core.readVal_none {k : Core} {b n : Nat} {t : Tile} {e : Nat} (h : k.readFrom b n t e = none) : k.readVal b n t e = 0 := by
  rw [Core.readVal, h]

theorem Core.readVal_some {k : Core} {b n : Nat} {t : Tile} {e m x : Nat} {o : Tile} (h : k.readFrom b n t e = some (m, o, x)) :
    k.readVal b n t e = (foldChains (k.tile b m).i32 (k.tile b m).satm (k.accElem ((k.tile b m).at_ x))).1 := by
  rw [Core.readVal, h]

theorem Core.readLane_none {k : Core} {b n : Nat} {t : Tile} {clr : Bool} {e : Nat} (h : k.readFrom b n t e = none) :
    k.readLane b n t clr e = (0, k.modBlock b fun q => { q with ua := true }) := by
  rw [Core.readLane, h]

theorem Core.readLane_some {k : Core} {b n : Nat} {t : Tile} {clr : Bool} {e m x : Nat} {o : Tile} (h : k.readFrom b n t e = some (m, o, x)) :
    k.readLane b n t clr e = (k.readVal b n t e, if clr then (k.foldElem b m x).2.putAcc (o.at_ x) 0 else (k.foldElem b m x).2) := by
  rw [Core.readLane, h, Core.readVal_some h]
  rfl

theorem Core.readLane_value (k : Core) (b n : Nat) (t : Tile) (clr : Bool) (e : Nat) : (k.readLane b n t clr e).1 = k.readVal b n t e := by
  cases h : k.readFrom b n t e with
  | none => rw [Core.readLane_none h, Core.readVal_none h]
  | some q => rw [Core.readLane_some h]

theorem Core.readFrom_within {k : Core} {b n : Nat} {t : Tile} {e : Nat} (h : e < t.extent) : k.readFrom b n t e = some (n, t, e) := if_pos h

/-- A read finds an element of a tile that is listed. -/
theorem Core.state_of_readFrom {k : Core} (hwf : Sparse.wf Tile.free k.tiles = true) {b n : Nat} {t : Tile} (hn : (k.tile b n).state ≠ 0) {e m x : Nat}
    {o : Tile} (h : k.readFrom b n t e = some (m, o, x)) : (k.tile b m).state ≠ 0 := by
  unfold Core.readFrom at h
  split at h
  · obtain ⟨rfl, -⟩ := Prod.mk.inj (Option.some.inj h)
    exact hn
  · split at h
    · next m' o' hbank =>
      dsimp only at h
      split at h
      · obtain ⟨rfl, hrest⟩ := Prod.mk.inj (Option.some.inj h)
        obtain ⟨p, hp, hq⟩ := Option.map_eq_some_iff.1 hbank
        obtain ⟨rfl, rfl⟩ := Prod.mk.inj hq
        have hfind := List.find?_some hp
        simp only [Bool.and_eq_true, beq_iff_eq, Tile.overlaps, bne_iff_ne] at hfind
        obtain ⟨hb, ⟨hstate, -⟩, -⟩ := hfind
        have hmem := (Sparse.mem_iff hwf p.1 p.2).1 (List.mem_of_find?_eq_some hp)
        rw [Core.tile, show 16 * b + p.1 % 16 = p.1 by omega, hmem.2]
        exact hstate
      · exact absurd h nofun
    · exact absurd h nofun

/-- A read of one element in cores whose tiles are alike, and whose elements are where the read finds one. -/
theorem Core.readVal_like {k k' : Core} (h : k.tilesLike k') {b n : Nat} {t : Tile} {e : Nat}
    (helem : ∀ m o x, k.readFrom b n t e = some (m, o, x) → k'.accElem ((k.tile b m).at_ x) = k.accElem ((k.tile b m).at_ x)) :
    k'.readVal b n t e = k.readVal b n t e := by
  have hfrom := Core.readFrom_like h b n t e
  cases hk : k.readFrom b n t e with
  | none =>
    rw [hk] at hfrom
    rw [Core.readVal_none hk, Core.readVal_none (Option.map_eq_none_iff.1 hfrom)]
  | some q =>
    obtain ⟨m, o, x⟩ := q
    rw [hk] at hfrom
    obtain ⟨⟨m', o', x'⟩, hk', hq⟩ := Option.map_eq_some_iff.1 hfrom
    obtain ⟨rfl, hq⟩ := Prod.mk.inj hq
    obtain ⟨-, rfl⟩ := Prod.mk.inj hq
    obtain ⟨-, hi32, hsatm, hfirst, -⟩ := Tile.fields_of_unsat (Core.tile_like h b m')
    have hat : (k'.tile b m').at_ x' = (k.tile b m').at_ x' := by rw [Tile.at_, Tile.at_, hfirst]
    rw [Core.readVal_some hk, Core.readVal_some hk', hi32, hsatm, hat, helem _ _ _ hk]

/-- What the reads of elements `es` of a tile leave of a core. -/
structure Core.readsLeave (k k' : Core) (b n : Nat) (t : Tile) (clr : Bool) (es : List Nat) : Prop where
  like : k.tilesLike k'
  elems : ∀ m, k'.accElem m = if clr = true ∧ m ∈ es.map t.at_ then 0 else k.accElem m
  ua : (k'.block b).ua = ((k.block b).ua || es.any fun e => (k.readFrom b n t e).isNone)
  scr : k'.scr = k.scr
  tags : k'.tags = k.tags

theorem Core.readsLeave_nil {k : Core} (hwf : Sparse.wf Tile.free k.tiles = true) (b n : Nat) (t : Tile) (clr : Bool) :
    k.readsLeave k b n t clr [] where
  like := ⟨hwf, rfl⟩
  elems := fun m => by simp
  ua := by simp
  scr := rfl
  tags := rfl

theorem Core.isNone_readFrom_like {k k' : Core} (h : k.tilesLike k') (b n : Nat) (t : Tile) (e : Nat) :
    (k'.readFrom b n t e).isNone = (k.readFrom b n t e).isNone := by
  rw [← Option.isNone_map, Core.readFrom_like h, Option.isNone_map]

theorem Core.readsLeave.lane {k k' : Core} {b n : Nat} {t : Tile} {clr : Bool} {es : List Nat} (h : k.readsLeave k' b n t clr es) {e : Nat}
    (hn : (k.tile b n).state ≠ 0) (hclr : clr = true → e < t.extent) : k.readsLeave (k'.readLane b n t clr e).2 b n t clr (es ++ [e]) := by
  obtain ⟨hstate, -⟩ := Tile.fields_of_unsat (Core.tile_like h.like b n)
  have hnone := Core.isNone_readFrom_like h.like b n t e
  cases hk : k'.readFrom b n t e with
  | none =>
    have hkeep : clr = false := by
      cases clr
      · rfl
      · rw [Core.readFrom_within (hclr rfl)] at hk
        exact absurd hk nofun
    rw [Core.readLane_none hk]
    exact {
      like := h.like
      elems := fun m => by simp [h.elems, hkeep]
      ua := by
        rw [Core.block_modBlock, if_pos rfl, List.any_append, List.any_cons, ← hnone, hk]
        simp
      scr := h.scr
      tags := h.tags }
  | some q =>
    obtain ⟨m, o, x⟩ := q
    have hlisted : (k'.tile b m).state ≠ 0 := Core.state_of_readFrom h.like.1 (by rwa [hstate]) hk
    have hfold := Core.foldElem_like h.like.1 hlisted x
    obtain ⟨helem, hblocks, hscr, htags⟩ := k'.foldElem_keeps b m x
    have hua : (Sparse.get Block.absent (k'.foldElem b m x).2.blocks b).ua
        = ((k.block b).ua || (es ++ [e]).any fun e => (k.readFrom b n t e).isNone) := by
      rw [hblocks, List.any_append, List.any_cons, ← hnone, hk]
      exact h.ua.trans (by simp)
    rw [Core.readLane_some hk]
    cases clr with
    | false =>
      exact {
        like := ⟨hfold.1, hfold.2.trans h.like.2⟩
        elems := fun m => by simpa using (helem m).trans (h.elems m)
        ua := hua
        scr := hscr.trans h.scr
        tags := htags.trans h.tags }
    | true =>
      rw [Core.readFrom_within (hclr rfl)] at hk
      obtain ⟨rfl, hq⟩ := Prod.mk.inj (Option.some.inj hk)
      obtain ⟨rfl, rfl⟩ := Prod.mk.inj hq
      obtain ⟨htiles, hblocks', hscr', htags'⟩ := (k'.foldElem b n e).2.putAcc_keeps (t.at_ e) 0
      exact {
        like := ⟨by rw [if_pos rfl, htiles]; exact hfold.1, by rw [if_pos rfl, Core.unsat, htiles]; exact hfold.2.trans h.like.2⟩
        elems := fun m => by
          rw [if_pos rfl, Core.accElem_putAcc, helem, h.elems]
          by_cases hm : m = t.at_ e
          · simp [hm]
          · simp [hm]
        ua := by rw [if_pos rfl, Core.block, hblocks']; exact hua
        scr := (hscr'.trans hscr).trans h.scr
        tags := (htags'.trans htags).trans h.tags }

/-! ## All lanes, in order (R366) -/

/-- The fold of a read over lanes with their element indices. -/
def Core.readLanes (k : Core) (b n : Nat) (t : Tile) (clr : Bool) (ps : List (Nat × Nat)) : Core × List (Nat × Word) :=
  ps.foldl (fun acc p => ((acc.1.readLane b n t clr p.2).2, acc.2 ++ [(p.1, (acc.1.readLane b n t clr p.2).1)])) (k, [])

theorem Core.readLanes_spec {k : Core} (hwf : Sparse.wf Tile.free k.tiles = true) {b n : Nat} {t : Tile} (ht : k.tile b n = t) (hn : t.state ≠ 0)
    {clr : Bool} {ps : List (Nat × Nat)} (hclr : clr = true → (∀ p ∈ ps, p.2 < t.extent) ∧ (ps.map Prod.snd).Nodup) :
    (k.readLanes b n t clr ps).2 = ps.map (fun p => (p.1, k.readVal b n t p.2))
      ∧ k.readsLeave (k.readLanes b n t clr ps).1 b n t clr (ps.map Prod.snd) := by
  induction ps using List.reverseRecOn with
  | nil => exact ⟨rfl, Core.readsLeave_nil hwf b n t clr⟩
  | append_singleton ps p ih =>
    have hinit : clr = true → (∀ p ∈ ps, p.2 < t.extent) ∧ (ps.map Prod.snd).Nodup := fun hc => by
      obtain ⟨hlt, hnd⟩ := hclr hc
      rw [List.map_append] at hnd
      exact ⟨fun r hr => hlt r (List.mem_append_left _ hr), hnd.of_append_left⟩
    obtain ⟨hvals, hleave⟩ := ih hinit
    have hfold : k.readLanes b n t clr (ps ++ [p]) = (((k.readLanes b n t clr ps).1.readLane b n t clr p.2).2,
        (k.readLanes b n t clr ps).2 ++ [(p.1, ((k.readLanes b n t clr ps).1.readLane b n t clr p.2).1)]) := by
      rw [Core.readLanes, List.foldl_append]
      rfl
    have hval : (k.readLanes b n t clr ps).1.readVal b n t p.2 = k.readVal b n t p.2 := by
      refine Core.readVal_like hleave.like fun m o x hk => (hleave.elems _).trans (if_neg ?_)
      rintro ⟨hc, hm⟩
      obtain ⟨hlt, hnd⟩ := hclr hc
      rw [Core.readFrom_within (hlt p (by simp))] at hk
      obtain ⟨rfl, hq⟩ := Prod.mk.inj (Option.some.inj hk)
      obtain ⟨rfl, rfl⟩ := Prod.mk.inj hq
      rw [ht] at hm
      obtain ⟨e, he, heq⟩ := List.mem_map.1 hm
      have heq : e = p.2 := Nat.add_left_cancel heq
      rw [List.map_append, List.nodup_append] at hnd
      exact hnd.2.2 e he p.2 (by simp) heq
    rw [hfold, hvals, Core.readLane_value, hval, List.map_append, List.map_append]
    exact ⟨rfl, hleave.lane (by rwa [ht]) fun hc => (hclr hc).1 p (by simp)⟩

/-! ## ACRD and ACRDCLR (R366) -/

/-- The lanes that a read goes through, with their element indices. -/
def readIdx (f : FmtA) (t : Tile) (r : RF) (acting : List Nat) : List (Nat × Nat) :=
  (if !isG f.a && !isG f.b then acting.take 1 else acting).map fun l => (l, elemIndex f t r l)

/-- The value of a lane among those read: a lane that is not read has the first one's. -/
def laneValue (vs : List (Nat × Word)) (l : Nat) : DWord :=
  match vs.find? fun p => p.1 == l with
  | some p => p.2.setWidth 64
  | none => ((vs.map Prod.snd).headD 0).setWidth 64

theorem RF.read1_lane (r : RF) {c : BitVec 8} (h : isG c = false) (l m : Nat) : r.read1 c l = r.read1 c m := by
  rw [RF.read1, RF.read1, h]
  rfl

section Lanes

variable {f : FmtA} {t : Tile} {r : RF} {acting : List Nat}

/-- Where both operands are k registers or gz, every lane names one element (R95). -/
theorem elemIndex_once (h : isG f.a = false ∧ isG f.b = false) (l m : Nat) : elemIndex f t r l = elemIndex f t r m := by
  rw [elemIndex, elemIndex, r.read1_lane h.1 l m, r.read1_lane h.2 l m]

theorem once_iff : (!isG f.a && !isG f.b) = true ↔ isG f.a = false ∧ isG f.b = false := by simp

theorem mem_readIdx {p : Nat × Nat} (h : p ∈ readIdx f t r acting) : p.1 ∈ acting ∧ p.2 = elemIndex f t r p.1 := by
  obtain ⟨l, hl, rfl⟩ := List.mem_map.1 h
  split at hl
  · exact ⟨List.mem_of_mem_take hl, rfl⟩
  · exact ⟨hl, rfl⟩

/-- The element of every acting lane is among those read. -/
theorem exists_mem_readIdx {l : Nat} (h : l ∈ acting) : ∃ p ∈ readIdx f t r acting, p.2 = elemIndex f t r l := by
  unfold readIdx
  split
  · next ho =>
    obtain ⟨a, rest, rfl⟩ := List.exists_cons_of_ne_nil (List.ne_nil_of_mem h)
    exact ⟨(a, elemIndex f t r a), by simp, elemIndex_once (once_iff.1 ho) a l⟩
  · exact ⟨(l, elemIndex f t r l), List.mem_map.2 ⟨l, h, rfl⟩, rfl⟩

theorem mem_snd_readIdx {e : Nat} : e ∈ (readIdx f t r acting).map Prod.snd ↔ ∃ l ∈ acting, elemIndex f t r l = e := by
  constructor
  · intro h
    obtain ⟨p, hp, rfl⟩ := List.mem_map.1 h
    obtain ⟨hl, he⟩ := mem_readIdx hp
    exact ⟨p.1, hl, he.symm⟩
  · rintro ⟨l, hl, rfl⟩
    obtain ⟨p, hp, he⟩ := exists_mem_readIdx (f := f) (t := t) (r := r) hl
    exact List.mem_map.2 ⟨p, hp, he⟩

theorem nodup_snd_readIdx (h : (isG f.a = false ∧ isG f.b = false) ∨ (acting.map (elemIndex f t r)).Nodup) :
    ((readIdx f t r acting).map Prod.snd).Nodup := by
  have hmap : (readIdx f t r acting).map Prod.snd
      = (if !isG f.a && !isG f.b then acting.take 1 else acting).map (elemIndex f t r) := by rw [readIdx, List.map_map]; rfl
  rw [hmap]
  split
  · cases acting <;> simp
  · next ho => exact h.resolve_left (mt once_iff.2 ho)

/-- Every acting lane has the value of its own element. -/
theorem laneValue_readIdx (val : Nat → Word) {l : Nat} (h : l ∈ acting) :
    laneValue ((readIdx f t r acting).map fun p => (p.1, val p.2)) l = (val (elemIndex f t r l)).setWidth 64 := by
  unfold laneValue
  split
  · next p hp =>
    obtain ⟨q, hq, rfl⟩ := List.mem_map.1 (List.mem_of_find?_eq_some hp)
    have hl := List.find?_some hp
    rw [(mem_readIdx hq).2, eq_of_beq hl]
  · next hnone =>
    have hlane : ∀ p ∈ readIdx f t r acting, p.1 ≠ l := fun p hp => by
      simpa using List.find?_eq_none.1 hnone _ (List.mem_map.2 ⟨p, hp, rfl⟩)
    unfold readIdx at hlane ⊢
    split at hlane
    · next ho =>
      obtain ⟨a, rest, rfl⟩ := List.exists_cons_of_ne_nil (List.ne_nil_of_mem h)
      rw [if_pos ho, elemIndex_once (once_iff.1 ho) l a]
      rfl
    · exact absurd rfl (hlane (l, elemIndex f t r l) (List.mem_map.2 ⟨l, h, rfl⟩))

theorem readK_writeLanes_one (r : RF) {d : BitVec 8} (hd : isK d = true) (h : acting ≠ []) (v : Nat → DWord) :
    (r.writeLanes 1 d acting v).readK (kIdx d) = (v (acting.headD 0)).setWidth 32 := by
  obtain ⟨a, rest, rfl⟩ := List.exists_cons_of_ne_nil h
  rw [RF.writeLanes, if_pos hd, RF.writeD, if_pos rfl, RF.write1_of_isK _ _ _ hd, RF.readK_writeK, if_pos rfl]
  rfl

end Lanes

section Read

variable {s : State} {c w j : Nat} {f : FmtA} {i : Instr} {clr : Bool} (h : s.gangReady c w j i = true) (ha : s.acts c w j i = true)
include h ha

theorem State.tileRead_free (h0 : ((s.core c).tile (s.gangIssue c w j i).block (fieldN f.c 0 4)).state = 0) : let x := s.gangIssue c w j i
    s.tileRead i f clr = .next (s.finishGang x (s.warp c w).pmsel (.fault (actingSlices x.acting x.slices) cAU (tileFva 0 (fieldN f.c 0 4)))) := by
  refine (s.issueLane_gang c w j i _ h).trans (congrArg (fun a => Host.Outcome.next (s.finishGang _ _ a)) ?_)
  rw [if_neg (by simpa [State.acts] using ha)]
  exact if_pos h0

theorem State.tileRead_wrong (h0 : ((s.core c).tile (s.gangIssue c w j i).block (fieldN f.c 0 4)).state ≠ 0)
    (h2 : ((s.core c).tile (s.gangIssue c w j i).block (fieldN f.c 0 4)).state ≠ 2
      ∨ f.ty ≠ (if ((s.core c).tile (s.gangIssue c w j i).block (fieldN f.c 0 4)).i32 then 1#4 else 3#4)) : let x := s.gangIssue c w j i
    s.tileRead i f clr = .next (s.finishGang x (s.warp c w).pmsel (.fault (actingSlices x.acting x.slices) cAB (tileFva 0 (fieldN f.c 0 4)))) := by
  refine (s.issueLane_gang c w j i _ h).trans (congrArg (fun a => Host.Outcome.next (s.finishGang _ _ a)) ?_)
  rw [if_neg (by simpa [State.acts] using ha)]
  exact (if_neg h0).trans (if_pos h2)

/-- The read of a closed tile of the type named, where no element is poisoned and no lane is refused. -/
theorem State.tileRead_reads : let x := s.gangIssue c w j i
    let k := s.core c
    let r := (s.warp c w).rf
    let q := k.tile x.block (fieldN f.c 0 4)
    let ps := readIdx f q r x.acting
    let out := k.readLanes x.block (fieldN f.c 0 4) q clr ps
    q.state = 2 → f.ty = (if q.i32 then 1#4 else 3#4) →
    (∀ p ∈ ps, ∀ n o e, k.readFrom x.block (fieldN f.c 0 4) q p.2 = some (n, o, e) → k.accPoison (o.at_ e) = false) →
    (clr = true → ∀ p ∈ ps, k.clearFault x.block w q (r.read1 f.a p.1).toNat p.2 = none) →
    s.tileRead i f clr = .next (s.gangDone c w j i ((s.setCore c out.1).setRF c w (r.writeLanes 1 f.d x.acting (laneValue out.2)))) := by
  intro x k r q ps out h2 hty hpois hclr
  have hsound : s.sound = true := by
    obtain ⟨-, -, -, -, -, -, -, hsound⟩ := (s.gangReady_iff c w j i).1 h
    exact hsound
  refine s.issueLane_done _ c w j i _ h ?_
  rw [if_neg (by simpa [State.acts] using ha)]
  refine (if_neg (show ¬ q.state = 0 by simp [h2])).trans ((if_neg (show ¬ (q.state ≠ 2 ∨ f.ty ≠ (if q.i32 then 1#4 else 3#4)) by simp [h2, hty])).trans ?_)
  split
  · next p hp =>
    cases clr with
    | false => exact absurd hp nofun
    | true =>
      have hfind : (k.clearFault x.block w q (r.read1 f.a p.1).toNat p.2).isSome = true := by
        have hsome := List.find?_some hp
        exact hsome
      rw [hclr rfl p (List.mem_of_find?_eq_some hp)] at hfind
      exact absurd hfind nofun
  · simp only [State.meetAcc_sound hsound]
    split
    · next b rest hb =>
      obtain ⟨p, hp, hbad⟩ := List.mem_filterMap.1 (hb ▸ List.mem_cons_self : b ∈ _)
      split at hbad
      · next n o e hfrom =>
        exact absurd ((if_neg (ne_true_of_eq_false (hpois p hp n o e hfrom))).symm.trans hbad) nofun
      · exact absurd hbad nofun
    · rfl

end Read

/-- The device after a read: the core as its lanes leave it, and the values in the destination. -/
theorem State.read_spec (s : State) (c w : Nat) {k' : Core} (r : RF) (hscr : k'.scr = (s.core c).scr) (htags : k'.tags = (s.core c).tags) :
    let t := (s.setCore c k').setRF c w r
    t.mem = s.mem ∧ sameScratch s t ∧ (t.warp c w).rf = r ∧ (∀ e, (t.core c).accElem e = k'.accElem e) ∧ ∀ b, (t.core c).block b = k'.block b := by
  intro t
  have hcore : ∀ d, t.core d = if d = c then k'.modWarp w fun x => { x with rf := r } else s.core d := fun d => by
    change ((s.setCore c k').modCore c fun k => k.modWarp w fun x => { x with rf := r }).core d = _
    rw [State.core_modCore, State.core_setCore_self, State.core_setCore]
    split <;> rfl
  refine ⟨rfl, fun d => ?_, ?_, fun e => ?_, fun b => ?_⟩
  · rw [hcore]
    split
    · next hd => rw [hd]; exact ⟨hscr, htags⟩
    · exact ⟨rfl, rfl⟩
  · rw [State.rf_setRF, if_pos ⟨rfl, rfl⟩]
  · rw [hcore, if_pos rfl]; rfl
  · rw [hcore, if_pos rfl]; rfl

theorem lt_of_mem_acting {s : State} {c w j : Nat} {i : Instr} {l : Nat} (h : l ∈ (s.gangIssue c w j i).acting) : l < 32 := by
  have hms : l / 4 ∈ (s.warp c w).gangOf j := Warp.slice_of_mem_actingLanes h
  have := List.mem_range.1 (List.mem_of_mem_filter hms)
  omega

/-- What ACRDCLR does not refuse (R366). -/
theorem Core.clearFault_none {k : Core} {b w : Nat} {t : Tile} {n e : Nat} (he : e < t.rows * t.cols)
    (hband : ∃ q ∈ t.bands, q.warp = w ∧ q.row0 ≤ n ∧ n < q.row0 + q.nrows) : k.clearFault b w t n e = none := by
  rw [Core.clearFault, if_neg (show ¬ t.extent ≤ e from Nat.not_le.2 he), if_pos (by simpa [and_assoc] using hband)]

/-- Settles O46: the lanes go one after another, each in a core whose tiles are alike and whose other elements stand. -/
theorem tileReads : Obligations.TileReads := by
  unfold Obligations.TileReads
  intro s c w j f i clr hi x k v h q once idx hready hacts hwf
  have hexec : exec i s = s.tileRead i f clr := by
    simp only [List.mem_cons, Prod.mk.injEq, List.not_mem_nil, or_false] at hi
    obtain ⟨rfl, rfl⟩ | ⟨rfl, rfl⟩ := hi <;> rfl
  refine ⟨fun h0 => hexec.trans (State.tileRead_free hready hacts h0), fun h0 h2 => hexec.trans (State.tileRead_wrong hready hacts h0 h2), ?_⟩
  intro h2 hty hpois hclr value
  have hvalue : ∀ l, value l = k.readVal x.block h q (idx l) := fun _ => rfl
  have hps : ∀ p ∈ readIdx f q v.rf x.acting, p.1 ∈ x.acting ∧ p.2 = idx p.1 := fun p => mem_readIdx
  have hrun := State.tileRead_reads (clr := clr) hready hacts h2 hty (fun p hp n o e hfrom => ?poison) (fun hc p hp => ?band)
  case poison => exact hpois p.1 (hps p hp).1 n o e (by rw [← (hps p hp).2]; exact hfrom)
  case band =>
    obtain ⟨he, hband⟩ := (hclr hc).1 p.1 (hps p hp).1
    rw [(hps p hp).2]
    exact Core.clearFault_none he hband
  obtain ⟨hvals, hleave⟩ := Core.readLanes_spec (clr := clr) (ps := readIdx f q v.rf x.acting) hwf (t := q) (n := h) (b := x.block) rfl (by simp [h2])
    fun hc => ⟨fun p hp => by rw [(hps p hp).2]; exact ((hclr hc).1 p.1 (hps p hp).1).1, nodup_snd_readIdx (hclr hc).2⟩
  obtain ⟨hmem, hscr, hrf, helem, hblock⟩ := s.read_spec c w (v.rf.writeLanes 1 f.d x.acting
    (laneValue (k.readLanes x.block h q clr (readIdx f q v.rf x.acting)).2)) hleave.scr hleave.tags
  have hlane : ∀ l ∈ x.acting, (laneValue (k.readLanes x.block h q clr (readIdx f q v.rf x.acting)).2 l).setWidth 32 = value l := fun l hl => by
    rw [hvals, laneValue_readIdx (fun e => k.readVal x.block h q e) hl, hvalue, BitVec.setWidth_setWidth_of_le _ (by decide), BitVec.setWidth_eq]
    rfl
  refine ⟨_, hexec.trans hrun, hmem, hscr, fun hd l hl => ?g, fun hd => ?k, fun hc l hl => ?cleared, fun e he => ?kept, ?ua⟩
  case g => rw [hrf, RF.readG_writeLanes _ _ _ _ (fun l => lt_of_mem_acting) hd _ (lt_of_mem_acting hl), if_pos hl, hlane l hl]
  case k =>
    have hne : x.acting ≠ [] := by simpa [State.acts] using hacts
    rw [hrf, readK_writeLanes_one _ hd hne]
    obtain ⟨a, rest, hcons⟩ := List.exists_cons_of_ne_nil hne
    exact hlane _ (by rw [hcons]; exact List.mem_cons_self)
  case cleared =>
    rw [helem, hleave.elems, if_pos ⟨hc, List.mem_map.2 ⟨idx l, mem_snd_readIdx.2 ⟨l, hl, rfl⟩, rfl⟩⟩]
  case kept =>
    rw [helem, hleave.elems, if_neg]
    rintro ⟨hc, hm⟩
    obtain ⟨n, hn, rfl⟩ := List.mem_map.1 hm
    obtain ⟨l, hl, rfl⟩ := mem_snd_readIdx.1 hn
    exact he.elim (by simp [hc]) fun hne => hne l hl rfl
  case ua =>
    rw [hblock, hleave.ua]
    congr 1
    rw [Bool.eq_iff_iff, List.any_eq_true, List.any_eq_true]
    constructor
    · rintro ⟨e, he, hnone⟩
      obtain ⟨l, hl, rfl⟩ := mem_snd_readIdx.1 he
      exact ⟨l, hl, hnone⟩
    · rintro ⟨l, hl, hnone⟩
      exact ⟨idx l, mem_snd_readIdx.2 ⟨l, hl, rfl⟩, hnone⟩

end Sys2Proof.Machine
end

section
/-!
PROOFS. Charges and pre-emption (R201, R238, R239): that observing use only lets charges grow, which regions stay listed below another, and which
contexts a pre-emption stops.
-/

namespace Sys2Proof.Machine

/-! ## A context pre-empted (R238, R239) -/

/-- A context whose pre-emption is requested, for a launch or for none. -/
def State.preemptedCtx (s : State) (l : Option Nat) (x : Ctx) : Ctx :=
  let q := match l with
    | none => x.queued
    | some l => s.rankIn (if x.st = .running then [] else x.queued) l
  match x.st with
  | .running => { x.halt 0 with queued := q }
  | .halting | .waiting => { x with queued := q }
  | .none | .saved => x

theorem State.ctx_preempt (s : State) (n : Nat) (l : Option Nat) (m : Nat) :
    (s.preempt n l).ctx m = if m = n then s.preemptedCtx l (s.ctx n) else s.ctx m := State.ctx_modCtx s n (s.preemptedCtx l) m

theorem State.st_preemptedCtx (s : State) (l : Option Nat) (x : Ctx) :
    (s.preemptedCtx l x).st = if x.st = .running then .halting else x.st := by
  unfold State.preemptedCtx
  dsimp only
  split
  · next h => simp [Ctx.halt, h]
  all_goals next h => simp [h]

/-! ## Use observed -/

/-- What observing use makes of a region: its charges may grow, and what it may use and where it stands are the same. -/
structure Region.grows (p q : Region) : Prop where
  live : q.live = p.live
  parent : q.parent = p.parent
  ctx : q.ctx = p.ctx
  fdom : q.fdom = p.fdom
  budget : q.budget = p.budget
  preempted : q.preempted = p.preempted
  charge : ∀ k, k < 5 → p.chargeOf k ≤ q.chargeOf k

theorem Region.grows.refl (p : Region) : p.grows p := ⟨rfl, rfl, rfl, rfl, rfl, rfl, fun _ _ => Nat.le_refl _⟩

theorem Region.grows.trans {p q r : Region} (h : p.grows q) (h' : q.grows r) : p.grows r :=
  ⟨h'.live.trans h.live, h'.parent.trans h.parent, h'.ctx.trans h.ctx, h'.fdom.trans h.fdom, h'.budget.trans h.budget,
    h'.preempted.trans h.preempted, fun k hk => (h.charge k hk).trans (h'.charge k hk)⟩

/-- What observing use and writing records keeps: no region's charges fall, no context runs that did not, and scratchpads and event queues
stand. -/
structure observes (s t : State) : Prop where
  regions : ∀ r, (s.region r).grows (t.region r)
  stopped : ∀ n, (s.ctx n).st ≠ .running → (t.ctx n).st ≠ .running
  scratch : sameScratch s t
  evq : t.io.evq = s.io.evq

namespace observes

theorem refl (s : State) : observes s s := ⟨fun _ => .refl _, fun _ h => h, fun _ => ⟨rfl, rfl⟩, rfl⟩

theorem trans {s t u : State} (h : observes s t) (h' : observes t u) : observes s u :=
  ⟨fun r => (h.regions r).trans (h'.regions r), fun n hn => h'.stopped n (h.stopped n hn), h.scratch.trans h'.scratch, h'.evq.trans h.evq⟩

theorem foldl {α : Type} (l : List α) (f : State → α → State) (h : ∀ t x, observes t (f t x)) (s : State) : observes s (l.foldl f s) := by
  induction l generalizing s with
  | nil => exact refl s
  | cons x l ih => exact (h s x).trans (ih _)

/-- What changes no core, region, context or event queue. -/
theorem of_eq {s t : State} (hc : t.cores = s.cores) (hr : t.regions = s.regions) (hx : t.ctxs = s.ctxs) (hq : t.io.evq = s.io.evq) : observes s t :=
  ⟨fun r => by rw [show t.region r = s.region r from congrArg (Sparse.get Region.none · r) hr]; exact .refl _, fun n h => by rw [State.ctx, hx]; exact h,
    fun c => by rw [State.core, hc]; exact ⟨rfl, rfl⟩, hq⟩

theorem modRegion (s : State) (r : Nat) {f : Region → Region} (h : (s.region r).grows (f (s.region r))) : observes s (s.modRegion r f) := by
  refine ⟨fun q => ?_, fun _ h => h, fun _ => ⟨rfl, rfl⟩, rfl⟩
  rw [State.region_modRegion]
  split
  · next e => rw [e]; exact h
  · exact .refl _

theorem modRoot (s : State) (n : Nat) (f : Root → Root) : observes s (s.modRoot n f) := of_eq rfl rfl rfl rfl

theorem preempt (s : State) (n : Nat) (l : Option Nat) : observes s (s.preempt n l) := by
  refine ⟨fun _ => .refl _, fun m h => ?_, fun _ => ⟨rfl, rfl⟩, rfl⟩
  rw [State.ctx_preempt]
  split
  · next e =>
    subst e
    rw [State.st_preemptedCtx, if_neg h]
    exact h
  · exact h

end observes

/-- A region with a use added to its charges. -/
def Region.charged (q : Region) (l : List Nat) : Region := { q with charge := (List.range 5).map fun i => q.chargeOf i + l.getD i 0 }

theorem Region.chargeOf_charged (q : Region) (l : List Nat) {k : Nat} (hk : k < 5) : (q.charged l).chargeOf k = q.chargeOf k + l.getD k 0 := by
  rw [Region.chargeOf, Region.charged, List.getD_eq_getElem _ _ (by simpa using hk), List.getElem_map, List.getElem_range]

theorem Region.grows_charged (q : Region) (l : List Nat) : q.grows (q.charged l) :=
  ⟨rfl, rfl, rfl, rfl, rfl, rfl, fun _ hk => by rw [Region.chargeOf_charged q l hk]; exact Nat.le_add_right _ _⟩

theorem State.observes_addCharge (s : State) (rcb : Nat) (l : List Nat) : observes s (s.addCharge rcb l) :=
  observes.foldl _ _ (fun t r => observes.modRegion t r ((t.region r).grows_charged l)) s

theorem State.observes_coreCharge (s : State) (c : Nat) : observes s (s.coreCharge c) := by
  unfold State.coreCharge
  dsimp only
  split
  · exact observes.refl s
  · split
    · exact observes.refl s
    · refine (s.observes_addCharge _ _).trans ⟨fun _ => .refl _, fun _ h => h, fun d => ?_, rfl⟩
      rw [State.core_modCore]
      split
      · next e => rw [e]; exact ⟨rfl, rfl⟩
      · exact ⟨rfl, rfl⟩

theorem State.observes_coreCharges (s : State) : observes s s.coreCharges := observes.foldl _ _ State.observes_coreCharge s

theorem State.observes_chargeMoved (s : State) (rcb : Nat) : observes s (s.chargeMoved rcb) := by
  unfold State.chargeMoved
  dsimp only
  split
  · exact observes.refl s
  · have hmarks := observes.modRegion (s.addCharge rcb [0, 0, s.movedBy rcb 2 (s.region rcb).hbm, s.movedBy rcb 3 (s.region rcb).link, 0]) rcb
      (f := fun r => { r with hbm := false, link := false }) ⟨rfl, rfl, rfl, rfl, rfl, rfl, fun _ _ => Nat.le_refl _⟩
    exact ((s.observes_addCharge _ _).trans hmarks).trans (observes.of_eq rfl rfl rfl rfl)

theorem State.observes_chargeUp (s : State) (rcb : Nat) : observes s (s.chargeUp rcb) :=
  s.observes_coreCharges.trans (observes.foldl _ _ State.observes_chargeMoved _)

theorem State.observes_writeMem (s : State) (loc a : Nat) (bs : List Byte) : observes s (s.writeMem loc a bs) :=
  observes.of_eq (by simp) (by simp) (by simp) (by simp)

theorem State.observes_drainRecords (s : State) (q : Root) (fuel : Nat) : observes s (s.drainRecords q fuel).1 := by
  induction fuel generalizing s q with
  | zero => exact observes.refl s
  | succ n ih =>
    unfold State.drainRecords
    split
    · exact observes.refl s
    · split
      · exact (s.observes_writeMem _ _ _).trans (ih _ _)
      · exact observes.refl s

theorem State.observes_postFw (s : State) (ty v : Nat) : observes s (s.postFw ty v) := by
  unfold State.postFw
  dsimp only
  split <;> exact observes.of_eq rfl rfl rfl rfl

theorem State.observes_preemptAll (s : State) (l : List Nat) : observes s (s.preemptAll l) :=
  observes.foldl _ _ (fun t _ => observes.preempt t _ none) s

theorem State.observes_checkHeld (s : State) (n : Nat) : observes s (s.checkHeld n) := by
  unfold State.checkHeld
  dsimp only
  split
  · exact (observes.modRoot s n fun q => { q with full := true }).trans ((State.observes_preemptAll _ _).trans (State.observes_postFw _ _ _))
  · split
    · exact (observes.modRoot s n fun q => { q with full := false }).trans (State.observes_postFw _ _ _)
    · exact observes.refl s

theorem State.observes_drainRoot (s : State) (n : Nat) : observes s (s.drainRoot n) :=
  (s.observes_drainRecords _ _).trans ((observes.modRoot _ n _).trans (State.observes_checkHeld _ n))

theorem State.observes_emitUsage (s : State) (rcb rsn : Nat) : observes s (s.emitUsage rcb rsn) :=
  (s.observes_chargeUp rcb).trans ((observes.modRoot _ _ _).trans
    ((observes.modRegion _ rcb ⟨rfl, rfl, rfl, rfl, rfl, rfl, fun _ _ => Nat.le_refl _⟩).trans (State.observes_drainRoot _ _)))

/-! ## Regions listed below another -/

theorem Sparse.exists_mem_insert {α : Type} {m : Sparse α} {n : Nat} {x d : α} {p : Nat × α} (h : p ∈ m) :
    p ∈ Sparse.insert m n x ∨ (p.1 = n ∧ p.2 = Sparse.get d m n ∧ (n, x) ∈ Sparse.insert m n x) := by
  induction m with
  | nil => exact absurd h List.not_mem_nil
  | cons a r ih =>
    obtain ⟨k, v⟩ := a
    unfold Sparse.insert
    split
    · exact .inl (List.mem_cons_of_mem _ h)
    · split
      · next hk =>
        rcases List.mem_cons.1 h with rfl | hr
        · exact .inr ⟨hk.symm, (if_pos hk.symm).symm, List.mem_cons_self⟩
        · exact .inl (List.mem_cons_of_mem _ hr)
      · next hk =>
        rcases List.mem_cons.1 h with rfl | hr
        · exact .inl List.mem_cons_self
        · refine (ih hr).imp (List.mem_cons_of_mem _) fun ⟨h1, h2, h3⟩ => ⟨h1, ?_, List.mem_cons_of_mem _ h3⟩
          rw [h2, Sparse.get, if_neg (Ne.symm hk)]

theorem Sparse.length_le_insert {α : Type} (m : Sparse α) (n : Nat) (x : α) : m.length ≤ (Sparse.insert m n x).length := by
  induction m with
  | nil => exact Nat.zero_le _
  | cons a r ih =>
    obtain ⟨k, v⟩ := a
    unfold Sparse.insert
    split
    · exact Nat.le_succ _
    · split
      · exact Nat.le_refl _
      · exact Nat.succ_le_succ ih

/-- Every live region of a state is listed as a live one in another, whose list is no shorter. -/
structure keepsListed (s t : State) : Prop where
  listed : ∀ p ∈ s.regions, p.2.live = true → ∃ q ∈ t.regions, q.1 = p.1 ∧ q.2.live = true
  length : s.regions.length ≤ t.regions.length

namespace keepsListed

theorem of_eq {s t : State} (h : t.regions = s.regions) : keepsListed s t := ⟨fun p hp hl => ⟨p, h ▸ hp, rfl, hl⟩, by rw [h]⟩

theorem trans {s t u : State} (h : keepsListed s t) (h' : keepsListed t u) : keepsListed s u := by
  refine ⟨fun p hp hl => ?_, h.length.trans h'.length⟩
  obtain ⟨q, hq, hqp, hql⟩ := h.listed p hp hl
  obtain ⟨r, hr, hrq, hrl⟩ := h'.listed q hq hql
  exact ⟨r, hr, hrq.trans hqp, hrl⟩

theorem foldl {α : Type} (l : List α) (f : State → α → State) (h : ∀ t x, keepsListed t (f t x)) (s : State) : keepsListed s (l.foldl f s) := by
  induction l generalizing s with
  | nil => exact of_eq rfl
  | cons x l ih => exact (h s x).trans (ih _)

/-- A region changed into one that is listed, live as it was. -/
theorem modRegion (s : State) (r : Nat) {f : Region → Region} (hne : f (s.region r) ≠ Region.none) (hl : (f (s.region r)).live = (s.region r).live) :
    keepsListed s (s.modRegion r f) := by
  have hregions : (s.modRegion r f).regions = Sparse.insert s.regions r (f (s.region r)) := if_neg hne
  refine ⟨fun p hp hlive => ?_, by rw [hregions]; exact Sparse.length_le_insert _ _ _⟩
  rw [hregions]
  obtain h | ⟨h1, h2, h3⟩ := Sparse.exists_mem_insert (n := r) (x := f (s.region r)) (d := Region.none) hp
  · exact ⟨p, h, rfl, hlive⟩
  · exact ⟨_, h3, h1.symm, by rw [hl, State.region, ← h2]; exact hlive⟩

end keepsListed

theorem Region.charged_ne_none (q : Region) (l : List Nat) : q.charged l ≠ Region.none := fun h => absurd (congrArg Region.charge h) (by simp [Region.charged, Region.none])

theorem State.keepsListed_addCharge (s : State) (rcb : Nat) (l : List Nat) : keepsListed s (s.addCharge rcb l) :=
  keepsListed.foldl _ _ (fun t r => keepsListed.modRegion t r ((t.region r).charged_ne_none l) rfl) s

theorem State.keepsListed_coreCharges (s : State) : keepsListed s s.coreCharges := by
  refine keepsListed.foldl _ _ (fun t c => ?_) s
  unfold State.coreCharge
  dsimp only
  split
  · exact keepsListed.of_eq rfl
  · split
    · exact keepsListed.of_eq rfl
    · exact (t.keepsListed_addCharge _ _).trans (keepsListed.of_eq rfl)

/-- A descent of one state is one of another with the same parents, and with no less fuel. -/
theorem State.descends_mono {s t : State} (h : ∀ r, (t.region r).parent = (s.region r).parent) {anc n m : Nat} (hnm : n ≤ m) {r : Nat}
    (hd : s.descends anc n r = true) : t.descends anc m r = true := by
  induction n generalizing m r with
  | zero => exact absurd hd nofun
  | succ n ih =>
    obtain ⟨m, rfl⟩ := Nat.exists_eq_add_of_le' (Nat.lt_of_lt_of_le (Nat.succ_pos n) hnm)
    simp only [State.descends, h, Bool.and_eq_true, Bool.or_eq_true] at hd ⊢
    exact ⟨hd.1, hd.2.imp id (ih (Nat.le_of_succ_le_succ hnm))⟩

theorem State.mem_below {s : State} {rcb q : Nat} :
    q ∈ s.below rcb ↔ (∃ p ∈ s.regions, p.1 = q ∧ p.2.live = true) ∧ (q = rcb ∨ s.descends rcb s.regions.length q = true) := by
  simp only [State.below, List.mem_map, List.mem_filter, Bool.and_eq_true, Bool.or_eq_true, beq_iff_eq]
  constructor
  · rintro ⟨p, ⟨hp, hl, hd⟩, rfl⟩
    exact ⟨⟨p, hp, rfl, hl⟩, hd⟩
  · rintro ⟨⟨p, hp, rfl, hl⟩, hd⟩
    exact ⟨p, ⟨hp, hl, hd⟩, rfl⟩

theorem State.below_subset {s t : State} (h : ∀ r, (t.region r).parent = (s.region r).parent) (hl : keepsListed s t) (rcb : Nat) :
    s.below rcb ⊆ t.below rcb := by
  intro q hq
  rw [State.mem_below] at hq ⊢
  obtain ⟨⟨p, hp, hpq, hlive⟩, hd⟩ := hq
  obtain ⟨p', hp', hpp, hlive'⟩ := hl.listed p hp hlive
  exact ⟨⟨p', hp', hpp.trans hpq, hlive'⟩, hd.imp id (State.descends_mono h hl.length)⟩

/-! ## A charge reaches the ancestors (R201) -/

theorem State.mem_chain_self (s : State) (n r : Nat) : r ∈ s.chain n r := by
  cases n with
  | zero => exact List.mem_singleton_self r
  | succ n =>
    unfold State.chain
    split
    · exact List.mem_singleton_self r
    · exact List.mem_cons_self

theorem State.mem_chain_of_descends {s : State} {anc n r : Nat} (h : s.descends anc n r = true) : anc ∈ s.chain n r := by
  induction n generalizing r with
  | zero => exact absurd h nofun
  | succ n ih =>
    simp only [State.descends, Bool.and_eq_true, Bool.or_eq_true, bne_iff_ne, beq_iff_eq] at h
    obtain ⟨hp, hd⟩ := h
    rw [State.chain, if_neg hp]
    refine List.mem_cons_of_mem _ (hd.elim (fun e => ?_) ih)
    rw [← e]
    exact s.mem_chain_self n _

theorem State.charge_foldl {L : List Nat} {r k : Nat} (hk : k < 5) (hr : r ∈ L) (l : List Nat) (s : State) : (s.region r).chargeOf k + l.getD k 0 ≤
    ((L.foldl (fun t r => t.modRegion r fun q => q.charged l) s).region r).chargeOf k := by
  induction L generalizing s with
  | nil => exact absurd hr List.not_mem_nil
  | cons a L ih =>
    rw [List.foldl_cons]
    by_cases ha : r = a
    · subst ha
      have hrest := observes.foldl L (fun t r => t.modRegion r fun q => q.charged l)
        (fun t r => observes.modRegion t r ((t.region r).grows_charged l)) (s.modRegion r fun q => q.charged l)
      refine le_trans (le_of_eq ?_) ((hrest.regions r).charge k hk)
      rw [State.region_modRegion_self, Region.chargeOf_charged _ _ hk]
    · have hstep := ih ((List.mem_cons.1 hr).resolve_left ha) (s.modRegion a fun q => q.charged l)
      rwa [State.region_modRegion, if_neg ha] at hstep

/-- A charge to a region at or below another reaches it. -/
theorem State.charge_addCharge {s : State} {rcb q k : Nat} (hk : k < 5) (hq : q ∈ s.below rcb) (l : List Nat) :
    (s.region rcb).chargeOf k + l.getD k 0 ≤ ((s.addCharge q l).region rcb).chargeOf k := by
  obtain ⟨-, hd⟩ := State.mem_below.1 hq
  refine State.charge_foldl hk ?_ l s
  obtain rfl | hd := hd
  · exact s.mem_chain_self _ _
  · exact State.mem_chain_of_descends hd

/-! ## The contexts of regions pre-empted -/

theorem State.stopped_preempt (s : State) (n : Nat) (l : Option Nat) : ((s.preempt n l).ctx n).st ≠ .running := by
  rw [State.ctx_preempt, if_pos rfl, State.st_preemptedCtx]
  split
  · nofun
  · next h => exact h

theorem State.stopped_preemptAll {L : List Nat} {r : Nat} (hr : r ∈ L) (s : State) : ((s.preemptAll L).ctx (s.region r).ctx).st ≠ .running := by
  induction L generalizing s with
  | nil => exact absurd hr List.not_mem_nil
  | cons a L ih =>
    by_cases ha : r = a
    · subst ha
      exact (State.observes_preemptAll (s.preempt (s.region r).ctx none) L).stopped _ (s.stopped_preempt _ _)
    · exact ih ((List.mem_cons.1 hr).resolve_left ha) (s.preempt (s.region a).ctx none)

end Sys2Proof.Machine
end

section
/-!
PROOFS. The event of a region's budget (R201, R232), activation (R198 to R200), retirement and held usage records (R261, R262).
-/

namespace Sys2Proof.Machine

/-! ## An event posted (R232) -/

theorem State.post_keeps (s : State) (dom : Nat) (d0 d1 d2 d3 : DWord) : let t := s.post dom d0 d1 d2 d3
    t.cores = s.cores ∧ t.regions = s.regions ∧ t.ctxs = s.ctxs ∧ t.mon.roots = s.mon.roots := by
  unfold State.post
  dsimp only
  split
  · exact ⟨State.writeMem_cores _ _ _ _, State.writeMem_regions _ _ _ _, State.writeMem_ctxs _ _ _ _, State.writeMem_roots _ _ _ _⟩
  · exact ⟨rfl, rfl, rfl, rfl⟩

theorem State.wi_post {s : State} {dom : Nat} (d0 d1 d2 d3 : DWord) (ho : (Sparse.get EvQ.reset s.io.evq dom).open? = true)
    (hf : ((Sparse.get EvQ.reset s.io.evq dom).wi - (Sparse.get EvQ.reset s.io.evq dom).ri).toNat
      ≠ 2 ^ fieldN (Sparse.get EvQ.reset s.io.evq dom).b 58 5) :
    (Sparse.get EvQ.reset (s.post dom d0 d1 d2 d3).io.evq dom).wi = (Sparse.get EvQ.reset s.io.evq dom).wi + 1 := by
  unfold State.post
  dsimp only
  rw [if_pos (Bool.and_eq_true_iff.2 ⟨ho, bne_iff_ne.2 hf⟩)]
  dsimp only
  rw [State.writeMem_io, Sparse.get_set_self]

/-! ## The event of a budget (R201) -/

/-- The regions at or below a region whose budget is reached, pre-empted, with the event. -/
def State.budgetEvent (s : State) (rcb kind : Nat) : State :=
  let u := s.modRegion rcb fun q => { q with preempted := true }
  (u.preemptAll (u.below rcb)).postRegion rcb 0x84 (BitVec.ofNat 64 rcb) (BitVec.ofNat 64 kind) 0 0

theorem State.budgetHit_eq (s : State) (rcb kind : Nat) : s.budgetHit rcb kind = (s.budgetEvent rcb kind).emitUsage rcb 2 := rfl

theorem State.preemptAll_keeps (s : State) (l : List Nat) : (s.preemptAll l).cores = s.cores ∧ (s.preemptAll l).regions = s.regions
    ∧ (s.preemptAll l).mon = s.mon ∧ (s.preemptAll l).io = s.io := by
  refine ⟨?_, ?_, ?_, ?_⟩
  · exact State.foldl_keeps (·.cores) l (fun t r => t.preempt (t.region r).ctx none) (fun _ _ => rfl) s
  · exact State.foldl_keeps (·.regions) l (fun t r => t.preempt (t.region r).ctx none) (fun _ _ => rfl) s
  · exact State.foldl_keeps (·.mon) l (fun t r => t.preempt (t.region r).ctx none) (fun _ _ => rfl) s
  · exact State.foldl_keeps (·.io) l (fun t r => t.preempt (t.region r).ctx none) (fun _ _ => rfl) s

/-- What the event changes: the region is pre-empted, the contexts at or below it stop, and the event is in the region's queue. -/
theorem State.budgetEvent_spec (s : State) (rcb kind : Nat) : let t := s.budgetEvent rcb kind
    t.cores = s.cores ∧ (∀ r, t.region r = if r = rcb then { s.region rcb with preempted := true } else s.region r) ∧ t.mon.roots = s.mon.roots
      ∧ (∀ q ∈ s.below rcb, (t.ctx (s.region q).ctx).st ≠ .running)
      ∧ (let q := Sparse.get EvQ.reset s.io.evq (s.region rcb).fdom
        q.open? = true → (q.wi - q.ri).toNat ≠ 2 ^ fieldN q.b 58 5 → (Sparse.get EvQ.reset t.io.evq (s.region rcb).fdom).wi = q.wi + 1) := by
  intro t
  have hregion : ∀ r, (s.modRegion rcb fun q => { q with preempted := true }).region r
      = if r = rcb then { s.region rcb with preempted := true } else s.region r := fun r => State.region_modRegion _ _ _ _
  have hparent : ∀ r, ((s.modRegion rcb fun q => { q with preempted := true }).region r).parent = (s.region r).parent ∧
      ((s.modRegion rcb fun q => { q with preempted := true }).region r).ctx = (s.region r).ctx := fun r => by
    rw [hregion]
    split
    · next h => subst h; exact ⟨rfl, rfl⟩
    · exact ⟨rfl, rfl⟩
  have hlisted : keepsListed s (s.modRegion rcb fun q => { q with preempted := true }) :=
    keepsListed.modRegion s rcb (fun h => absurd (congrArg Region.preempted h) nofun) rfl
  have hbelow := State.below_subset (fun r => (hparent r).1) hlisted rcb
  have hctx := fun q => (hparent q).2
  have hfdom : ((s.modRegion rcb fun q => { q with preempted := true }).region rcb).fdom = (s.region rcb).fdom := by rw [hregion, if_pos rfl]
  have hsame : (s.modRegion rcb fun q => { q with preempted := true }).cores = s.cores
      ∧ (s.modRegion rcb fun q => { q with preempted := true }).mon.roots = s.mon.roots
      ∧ (s.modRegion rcb fun q => { q with preempted := true }).io = s.io := ⟨rfl, rfl, rfl⟩
  simp only [t, State.budgetEvent]
  generalize s.modRegion rcb (fun q => { q with preempted := true }) = u at *
  obtain ⟨hcores, hroots, hio⟩ := hsame
  obtain ⟨hpc, hpr, hpm, hpio⟩ := u.preemptAll_keeps (u.below rcb)
  have hpregion : ∀ r, (u.preemptAll (u.below rcb)).region r = u.region r := fun r => congrArg (Sparse.get Region.none · r) hpr
  obtain ⟨hc, hr, hx, hm⟩ := (u.preemptAll (u.below rcb)).post_keeps ((u.preemptAll (u.below rcb)).region rcb).fdom (BitVec.ofNat 64 rcb)
    (BitVec.ofNat 64 kind) (evDword2 0x84 ((u.preemptAll (u.below rcb)).region rcb).asn ((u.preemptAll (u.below rcb)).region rcb).fdom 0) 0
  refine ⟨hc.trans (hpc.trans hcores), fun r => ?region, hm.trans ((congrArg Mon.roots hpm).trans hroots), fun q hq => ?stopped, fun ho hf => ?event⟩
  case region => exact (congrArg (Sparse.get Region.none · r) hr).trans ((hpregion r).trans (hregion r))
  case stopped =>
    have hstop := u.stopped_preemptAll (hbelow hq)
    rw [hctx] at hstop
    exact fun h => hstop ((congrArg (fun m => (Sparse.get Ctx.none m _).st) hx).symm.trans h)
  case event =>
    rw [State.postRegion, hpregion, hfdom, ← hio, ← hpio]
    exact State.wi_post _ _ _ _ (by rw [hpio, hio]; exact ho) (by rw [hpio, hio]; exact hf)

/-- The event of a budget, from a state whose charges have reached it. -/
theorem State.budgetHit_spec (u : State) (rcb : Nat) {kind : Nat} (hk : kind < 5) : let t := u.budgetHit rcb kind
    let r := u.region rcb
    (t.region rcb).budgetOf kind = r.budgetOf kind ∧ r.chargeOf kind ≤ (t.region rcb).chargeOf kind ∧ (t.region rcb).preempted = true
      ∧ (∀ q ∈ u.below rcb, (t.ctx (u.region q).ctx).st ≠ .running) ∧ (t.root r.root).seq = (u.root r.root).seq + 1 ∧ sameRegs u t ∧ sameScratch u t
      ∧ (let q := Sparse.get EvQ.reset u.io.evq r.fdom
        q.open? = true → (q.wi - q.ri).toNat ≠ 2 ^ fieldN q.b 58 5 → (Sparse.get EvQ.reset t.io.evq r.fdom).wi = q.wi + 1) := by
  obtain ⟨hcores, hregion, hroots, hstop, hevent⟩ := u.budgetEvent_spec rcb kind
  have hemit := (u.budgetEvent rcb kind).observes_emitUsage rcb 2
  obtain ⟨hregs, hseq⟩ := (u.budgetEvent rcb kind).emitUsage_spec rcb 2
  rw [State.budgetHit_eq]
  generalize u.budgetEvent rcb kind = e at *
  generalize e.emitUsage rcb 2 = t at *
  have hrcb : e.region rcb = { u.region rcb with preempted := true } := (hregion rcb).trans (if_pos rfl)
  have hroot : ∀ n, e.root n = u.root n := fun n => congrArg (Sparse.get Root.none · n) hroots
  have hgrows := hemit.regions rcb
  rw [hrcb] at hgrows hseq
  have hcore : ∀ c, e.core c = u.core c := fun c => congrArg (Sparse.get Core.reset · c) hcores
  refine ⟨congrArg (fun l : List Nat => l.getD kind 0) hgrows.budget, hgrows.charge kind hk, hgrows.preempted, fun q hq => hemit.stopped _ (hstop q hq),
    hseq.trans (by rw [hroot]), sameRegs.trans (sameRegs_of_cores fun c => by rw [hcore]; exact ⟨rfl, rfl⟩) hregs,
    sameScratch.trans (fun c => by rw [hcore]; exact ⟨rfl, rfl⟩) hemit.scratch, fun ho hf => ?_⟩
  rw [hemit.evq]
  exact hevent ho hf

/-- The event of a budget, of a state in which use has been observed since. -/
theorem State.budgetHit_since {s e : State} {rcb kind : Nat} (ho : observes s e) (hu : keepsUsers s e) (hl : keepsListed s e) (hk : kind < 5)
    (hreach : (s.region rcb).budgetOf kind ≤ (e.region rcb).chargeOf kind) : let t := e.budgetHit rcb kind
    let r := s.region rcb
    (t.region rcb).budgetOf kind = r.budgetOf kind ∧ r.budgetOf kind ≤ (t.region rcb).chargeOf kind ∧ (t.region rcb).preempted = true
      ∧ (∀ q ∈ s.below rcb, (t.ctx (s.region q).ctx).st ≠ .running) ∧ (t.root r.root).seq = (s.root r.root).seq + 1 ∧ sameRegs s t ∧ sameScratch s t
      ∧ (let q := Sparse.get EvQ.reset s.io.evq r.fdom
        q.open? = true → (q.wi - q.ri).toNat ≠ 2 ^ fieldN q.b 58 5 → (Sparse.get EvQ.reset t.io.evq r.fdom).wi = q.wi + 1) := by
  obtain ⟨hbudget, hcharge, hpre, hstop, hseq, hregs, hscr, hevent⟩ := e.budgetHit_spec rcb hk
  have hgrows := ho.regions rcb
  have hbud : (e.region rcb).budgetOf kind = (s.region rcb).budgetOf kind := congrArg (fun l : List Nat => l.getD kind 0) hgrows.budget
  rw [hu.root rcb, hu.seq] at hseq
  rw [hgrows.fdom, ho.evq] at hevent
  refine ⟨hbudget.trans hbud, hreach.trans hcharge, hpre, fun q hq => ?_, hseq, ?_, ho.scratch.trans hscr, hevent⟩
  · rw [← (ho.regions q).ctx]
    exact hstop q (State.below_subset (fun r => (ho.regions r).parent) hl rcb hq)
  · exact sameRegs.trans (sameRegs_of_cores fun c => ⟨hu.warps c, hu.blocks c⟩) hregs

theorem State.keepsUsers_coreCharges (s : State) : keepsUsers s s.coreCharges := keepsUsers.foldl _ _ State.keepsUsers_coreCharge s

/-- The state in which `q` has moved what was left of a budget of `rcb`. -/
def State.movedUp (u : State) (rcb q kind : Nat) : State :=
  (u.addCharge q ((List.range 5).map fun i => if i = kind then (u.region rcb).budgetOf kind - (u.region rcb).chargeOf kind else 0)).bump

theorem State.observes_movedUp (u : State) (rcb q kind : Nat) : observes u (u.movedUp rcb q kind) :=
  (u.observes_addCharge _ _).trans (observes.of_eq rfl rfl rfl rfl)

theorem State.keepsUsers_movedUp (u : State) (rcb q kind : Nat) : keepsUsers u (u.movedUp rcb q kind) :=
  (u.keepsUsers_addCharge _ _).trans (keepsUsers.of_eq rfl rfl rfl)

theorem State.keepsListed_movedUp (u : State) (rcb q kind : Nat) : keepsListed u (u.movedUp rcb q kind) :=
  (u.keepsListed_addCharge _ _).trans (keepsListed.of_eq rfl)

theorem State.reached_movedUp {u : State} {rcb q kind : Nat} (hk : kind < 5) (hq : q ∈ u.below rcb) :
    (u.region rcb).budgetOf kind ≤ ((u.movedUp rcb q kind).region rcb).chargeOf kind := by
  have hcharge := State.charge_addCharge hk hq ((List.range 5).map fun i => if i = kind then (u.region rcb).budgetOf kind - (u.region rcb).chargeOf kind else 0)
  rw [List.getD_eq_getElem _ _ (by simpa using hk), List.getElem_map, List.getElem_range, if_pos rfl] at hcharge
  refine le_trans ?_ hcharge
  omega

section Budget

variable {s : State} {rcb kind : Nat} (hlive : (s.coreCharges.region rcb).live = true) (hk : kind < 4) (hfull : s.usageFull rcb = false)
include hlive hk hfull

theorem exec_budgetReached : let u := s.coreCharges
    let r := u.region rcb
    exec (.budgetReached rcb kind) s = .next (if r.budgetOf kind ≤ r.chargeOf kind then (if r.preempted then s else u.budgetHit rcb kind)
      else ((u.movers rcb kind)[s.free.toNat % (u.movers rcb kind).length]?).elim s
        fun q => if u.passes rcb q kind (r.budgetOf kind - r.chargeOf kind) then s else (u.movedUp rcb q kind).budgetHit rcb kind) := by
  intro u r
  change execBudgetReached rcb kind s = _
  unfold execBudgetReached
  dsimp only
  have hkind : ¬ budgetKinds ≤ kind := Nat.not_le.2 hk
  rw [if_neg (by simp [hlive, hfull, hkind])]
  congr 2
  cases (u.movers rcb kind)[s.free.toNat % (u.movers rcb kind).length]? <;> rfl

theorem exec_budgetReached_hit (hr : (s.coreCharges.region rcb).budgetOf kind ≤ (s.coreCharges.region rcb).chargeOf kind) :
    exec (.budgetReached rcb kind) s = .next (if (s.coreCharges.region rcb).preempted then s else s.coreCharges.budgetHit rcb kind) :=
  (exec_budgetReached hlive hk hfull).trans (congrArg _ (if_pos hr))

variable (hr : ¬ (s.coreCharges.region rcb).budgetOf kind ≤ (s.coreCharges.region rcb).chargeOf kind)
include hr

theorem exec_budgetReached_still (hm : s.coreCharges.movers rcb kind = []) : exec (.budgetReached rcb kind) s = .next s := by
  refine (exec_budgetReached hlive hk hfull).trans ((congrArg _ (if_neg hr)).trans ?_)
  rw [hm]
  rfl

/-- One of the regions that moved bytes brings the charge to the budget. -/
theorem exec_budgetReached_moved (hm : s.coreCharges.movers rcb kind ≠ [])
    (hp : ∀ q ∈ s.coreCharges.movers rcb kind, s.coreCharges.passes rcb q kind
      ((s.coreCharges.region rcb).budgetOf kind - (s.coreCharges.region rcb).chargeOf kind) = false) :
    ∃ q ∈ s.coreCharges.below rcb, exec (.budgetReached rcb kind) s = .next ((s.coreCharges.movedUp rcb q kind).budgetHit rcb kind) := by
  have hlt : s.free.toNat % (s.coreCharges.movers rcb kind).length < (s.coreCharges.movers rcb kind).length :=
    Nat.mod_lt _ (List.length_pos_of_ne_nil hm)
  have hmem := List.getElem_mem hlt
  refine ⟨_, List.mem_of_mem_filter hmem, (exec_budgetReached hlive hk hfull).trans ((congrArg _ (if_neg hr)).trans ?_)⟩
  rw [List.getElem?_eq_getElem hlt, Option.elim_some, if_neg (ne_true_of_eq_false (hp _ hmem))]

end Budget

/-! ## Records written (R262) -/

theorem State.byte_gcmLine (s : State) (l loc a : Nat) : (s.gcmLine l).mem.byte loc a = s.mem.byte loc a := by
  simp only [State.gcmLine]
  split <;> rfl

theorem State.late_gcmLine (s : State) (l : Nat) : (s.gcmLine l).mon.late = s.mon.late := by
  simp only [State.gcmLine]
  split
  · rfl
  · cases (s.tag (l / 512)).sv <;> rfl

/-- What an agent writes, where no memory is closed to it, reads back. -/
theorem State.read_writeMem {s : State} (ho : s.openMem = true) (a : Nat) (bs : List Byte) : (s.writeMem 0 a bs).mem.read 0 a bs.length = bs := by
  have hgcm : ∀ (t : State) (b : Nat), (t.gcmWrote 0 a bs.length).mem.byte 0 b = t.mem.byte 0 b := fun t b => by
    rw [State.gcmWrote]
    split
    · exact State.foldl_keeps (·.mem.byte 0 b) _ _ (fun t l => t.byte_gcmLine l 0 b) t
    · rfl
  have hopen : s.closed 0 a bs.length = false := by rw [State.closed, ho]; rfl
  refine List.ext_getElem (by simp [Mem.read]) fun i _ hi => ?_
  simp only [Mem.read, List.getElem_map, List.getElem_range]
  rw [State.writeMem, if_neg (ne_true_of_eq_false hopen), hgcm,
    Mem.byte_write _ _ _ _ _ _ (by decide) (by decide), if_pos ⟨rfl, Nat.le_add_right _ _, Nat.add_lt_add_left hi _⟩, Nat.add_sub_cancel_left,
    List.getD_eq_getElem _ _ hi]

theorem State.late_writeMem (s : State) (loc a : Nat) (bs : List Byte) : (s.writeMem loc a bs).mon.late = s.mon.late := by
  have hgcm : ∀ t : State, (t.gcmWrote loc a bs.length).mon.late = t.mon.late := fun t => by
    rw [State.gcmWrote]
    split
    · exact State.foldl_keeps (·.mon.late) _ _ State.late_gcmLine t
    · rfl
  rw [State.writeMem]
  split <;> exact hgcm _

/-- A root whose one held record has gone to its ring. -/
def Root.wroteOne (q : Root) : Root := { q with records := [], written := q.written + 1 }

/-- The slot of a root's ring that its next record takes. -/
def Root.slot (q : Root) : Nat := q.ring + 4096 * (q.written % 2 ^ q.logn)

theorem State.drainRecords_one {s : State} {q : Root} {u : List Byte} (hu : q.records = [u])
    (hroom : q.written < (s.mem.dword q.cblk).toNat + 2 ^ q.logn) : s.drainRecords q q.records.length = (s.writeMem 0 q.slot u, q.wroteOne) := by
  rw [hu]
  simp only [List.length_singleton, State.drainRecords, hu, if_pos hroom]
  rfl

theorem State.drainRecords_full {s : State} {q : Root} {u : List Byte} (hu : q.records = [u])
    (hfull : (s.mem.dword q.cblk).toNat + 2 ^ q.logn ≤ q.written) : s.drainRecords q q.records.length = (s, q) := by
  rw [hu]
  simp only [List.length_singleton, State.drainRecords, hu, if_neg (Nat.not_lt.2 hfull)]

/-- A root that holds few records, and held few, is as it was found. -/
theorem State.checkHeld_few {s : State} {n : Nat} (hf : (s.root n).full = false) (hr : (s.root n).records.length < 64) : s.checkHeld n = s := by
  simp only [State.checkHeld, hf, Bool.not_false, Bool.true_and, Bool.false_and, Bool.false_eq_true, if_false]
  rw [if_neg (by simpa using hr)]

theorem exec_usageRecordWrite {s : State} (hl : s.mon.late = []) (n : Nat) :
    exec (.usageRecordWrite n) s = .next (if (s.root n).held then s.drainRoot n else s) := by
  change execUsageRecordWrite n s = _
  simp only [execUsageRecordWrite, hl, List.isEmpty_nil, if_true]

theorem Sparse.set_get_self {α : Type} [DecidableEq α] {d : α} {m : Sparse α} {lo : Nat} (h : Sparse.wfFrom d lo m = true) (n : Nat) :
    Sparse.set d m n (Sparse.get d m n) = m := by
  induction m generalizing lo with
  | nil => exact if_pos rfl
  | cons p r ih =>
    obtain ⟨k, v⟩ := p
    simp only [Sparse.wfFrom, Bool.and_eq_true, decide_eq_true_eq] at h
    obtain ⟨⟨-, hv⟩, hr⟩ := h
    have hrec := ih hr
    by_cases hk : k = n
    · subst hk
      rw [Sparse.get, if_pos rfl, Sparse.set, if_neg hv, Sparse.insert, if_neg (Nat.lt_irrefl k), if_pos rfl]
    · rw [Sparse.get, if_neg hk]
      unfold Sparse.set at hrec ⊢
      by_cases hd : Sparse.get d r n = d
      · rw [if_pos hd] at hrec ⊢
        rw [Sparse.erase, if_neg hk, hrec]
      · have hlt : ¬ n < k := fun hlt => hd (Sparse.get_of_wfFrom hr (by omega))
        rw [if_neg hd] at hrec ⊢
        rw [Sparse.insert, if_neg hlt, if_neg (Ne.symm hk), hrec]

theorem State.modRoot_self {s : State} (hwf : Sparse.wf Root.none s.mon.roots = true) (n : Nat) : (s.modRoot n fun _ => s.root n) = s := by
  have hset : Sparse.modify Root.none s.mon.roots n (fun _ => s.root n) = s.mon.roots := Sparse.set_get_self hwf n
  rw [State.modRoot, hset]

/-- The one held record of a root written. -/
theorem State.drainRoot_one {s : State} {n : Nat} {u : List Byte} (hf : (s.root n).full = false) (hu : (s.root n).records = [u])
    (hroom : (s.root n).written < (s.mem.dword (s.root n).cblk).toNat + 2 ^ (s.root n).logn) :
    s.drainRoot n = (s.writeMem 0 (s.root n).slot u).modRoot n fun _ => (s.root n).wroteOne := by
  have hroot : ((s.writeMem 0 (s.root n).slot u).modRoot n fun _ => (s.root n).wroteOne).root n = (s.root n).wroteOne :=
    (State.root_modRoot _ _ _ _).trans (if_pos rfl)
  simp only [State.drainRoot, State.drainRecords_one hu hroom]
  exact State.checkHeld_few (by rw [hroot]; exact hf) (by rw [hroot]; exact Nat.zero_lt_succ _)

theorem State.drainRoot_full {s : State} {n : Nat} {u : List Byte} (hwf : Sparse.wf Root.none s.mon.roots = true) (hf : (s.root n).full = false)
    (hu : (s.root n).records = [u]) (hfull : (s.mem.dword (s.root n).cblk).toNat + 2 ^ (s.root n).logn ≤ (s.root n).written) :
    s.drainRoot n = s := by
  simp only [State.drainRoot, State.drainRecords_full hu hfull, State.modRoot_self hwf]
  exact State.checkHeld_few hf (by rw [hu]; exact Nat.lt_of_sub_eq_succ rfl)

/-- No deleted root has left a record. -/
def State.noLate (s : State) : State := { s with mon := { s.mon with late := [] } }

/-- The last record of a deleted root written. -/
theorem exec_usageRecordWrite_late {s : State} {n : Nat} {q : Root} {u : List Byte} (hl : s.mon.late = [(n, q)]) (hu : q.records = [u])
    (hh : (s.root n).held = false) (hroom : q.written < (s.mem.dword q.cblk).toNat + 2 ^ q.logn) :
    exec (.usageRecordWrite n) s = .next (s.noLate.writeMem 0 q.slot u) := by
  have hdrain : s.drainLate n = s.noLate.writeMem 0 q.slot u := by
    rw [State.drainLate, hl, List.foldl_cons, List.foldl_nil, if_neg (not_not.2 rfl)]
    have hone := State.drainRecords_one (s := s.noLate) hu hroom
    change (let t := s.noLate.drainRecords q q.records.length; if t.2.records.isEmpty then t.1 else _) = _
    simp only [hone, Root.wroteOne, List.isEmpty_nil, if_true]
  have hroot : (s.drainLate n).root n = s.root n := by
    rw [hdrain]
    exact congrArg (Sparse.get Root.none · n) (State.writeMem_roots _ _ _ _)
  change execUsageRecordWrite n s = _
  simp only [execUsageRecordWrite, hl, List.isEmpty_cons, Bool.false_eq_true, if_false, hroot, hh]
  rw [hdrain]

end Sys2Proof.Machine
end

section
/-!
PROOFS. The activation of a region (R198 to R200).
-/

namespace Sys2Proof.Machine

/-! ## The checks of an activation (R200) -/

/-- What a region that is no root keeps to, once its activation answers 0. -/
structure State.withinParent (s : State) (rcb : Nat) (d : List DWord) (r p : Region) : Prop where
  live : p.live = true
  budget : ∀ n, n < budgetKinds → bitAt (d.getD 1 0) (48 + (4 + n)) = true → r.budgetOf n ≤ p.budgetOf n
  prio : r.prio ≤ p.prio
  keys : r.keys &&& ~~~ p.keys = 0
  imgs : ∀ k ∈ r.imgs, k ∈ p.imgs
  inside : r.inside p = true
  factor : (s.region rcb).live = true → r.pgf = (s.region rcb).pgf
  chk : ¬ (r.chk = 1 ∧ p.chk = 0)

theorem State.withinParent_of_status {s : State} {rcb : Nat} {d : List DWord} {r p : Region} (h : s.activateStatus rcb d false r p = 0) :
    s.withinParent rcb d r p := by
  unfold State.activateStatus at h
  dsimp only at h
  split_ifs at h with h1 h2 h3 h4 h5 h6 h7 h8
  have hkid : (r.parent == 0 || !p.live || r.parent == rcb || s.descends rcb s.regions.length r.parent) = false := by simpa using h8
  simp only [hkid, Bool.not_false, Bool.true_and] at h2 h3 h4 h5 h6 h7
  simp only [Bool.or_eq_false_iff, Bool.not_eq_false'] at hkid
  obtain ⟨⟨⟨-, hlive⟩, -⟩, -⟩ := hkid
  simp only [Bool.or_eq_true, not_or, Bool.not_eq_true, Bool.not_eq_false', Bool.and_eq_false_imp, bne_eq_false_iff_eq] at h6
  obtain ⟨⟨-, hinside⟩, hfactor⟩ := h6
  refine ⟨hlive, fun n hn hown => ?budget, by simpa using h3, by simpa using h4, by simpa using h5, hinside, fun hl => (hfactor hl).symm,
    by simpa using h7⟩
  case budget =>
    by_contra hlt
    exact h2 (List.any_eq_true.2 ⟨n, List.mem_range.2 hn, Bool.and_eq_true_iff.2 ⟨hown, decide_eq_true (Nat.not_le.1 hlt)⟩⟩)

/-! ## A region made live -/

/-- The region that an activation makes live of the effective values `r`: a live region keeps its context and what it has used (R260). -/
def State.activated (s : State) (rcb ctx : Nat) (r : Region) : Region :=
  let old := s.region rcb
  let q := if old.live then
      { r with ctx := old.ctx, charge := old.charge, fbcnt := old.fbcnt, fbsat := old.fbsat, lost := old.lost, hbm := old.hbm, link := old.link, tags := old.tags }
    else { r with ctx := ctx }
  { q with preempted := !q.withinBudget && old.live && old.preempted }

/-- What a region may use and where it stands. -/
structure Region.sameValues (p q : Region) : Prop where
  live : q.live = p.live
  root : q.root = p.root
  parent : q.parent = p.parent
  prio : q.prio = p.prio
  fdom : q.fdom = p.fdom
  chk : q.chk = p.chk
  asn : q.asn = p.asn
  troot : q.troot = p.troot
  budget : q.budget = p.budget
  keys : q.keys = p.keys
  imgs : q.imgs = p.imgs
  px : q.px = p.px
  py : q.py = p.py
  pw : q.pw = p.pw
  ph : q.ph = p.ph
  pgf : q.pgf = p.pgf

theorem Region.sameValues.budgetOf {p q : Region} (h : p.sameValues q) (n : Nat) : q.budgetOf n = p.budgetOf n :=
  congrArg (fun l : List Nat => l.getD n 0) h.budget

/-- The checks are about what a region may use and where it stands. -/
theorem State.withinParent.congr {s : State} {rcb : Nat} {d : List DWord} {r p q : Region} (h : s.withinParent rcb d r p) (hq : r.sameValues q) :
    s.withinParent rcb d q p where
  live := h.live
  budget n hn hown := hq.budgetOf n ▸ h.budget n hn hown
  prio := hq.prio ▸ h.prio
  keys := hq.keys ▸ h.keys
  imgs := hq.imgs ▸ h.imgs
  inside := by rw [Region.inside, hq.px, hq.pw, hq.py, hq.ph]; exact h.inside
  factor hl := hq.pgf.trans (h.factor hl)
  chk := hq.chk ▸ h.chk

theorem State.sameValues_activated (s : State) (rcb ctx : Nat) (r : Region) : r.sameValues (s.activated rcb ctx r) := by
  unfold State.activated
  dsimp only
  split <;> exact ⟨rfl, rfl, rfl, rfl, rfl, rfl, rfl, rfl, rfl, rfl, rfl, rfl, rfl, rfl, rfl, rfl⟩

theorem State.activated_ctx {s : State} {rcb : Nat} (h : (s.region rcb).live = false) (ctx : Nat) (r : Region) : (s.activated rcb ctx r).ctx = ctx := by
  simp only [State.activated, h, Bool.false_eq_true, if_false]

theorem State.makeLive_eq (s : State) (rcb ctx : Nat) (r : Region) : s.makeLive rcb ctx r =
    let u := s.modRegion rcb fun _ => s.activated rcb ctx r
    if (s.region rcb).live then u else if u.held rcb then u.orphanImages rcb else (u.orphanImages rcb).modCtx ctx ((s.activated rcb ctx r).startCtx rcb) := by
  unfold State.makeLive State.activated
  dsimp only
  cases (s.region rcb).live <;> rfl

theorem State.makeLive_keeps (s : State) (rcb ctx : Nat) (r : Region) : let t := s.makeLive rcb ctx r
    t.region rcb = s.activated rcb ctx r ∧ t.cores = s.cores ∧ t.io = s.io := by
  rw [State.makeLive_eq]
  have hself := State.region_modRegion_self s rcb fun _ => s.activated rcb ctx r
  dsimp only
  split
  · exact ⟨hself, rfl, rfl⟩
  · split <;> exact ⟨hself, rfl, rfl⟩

theorem State.heldBy_congr {s t : State} (h : t.regions = s.regions) (fuel rcb : Nat) : t.heldBy fuel rcb = s.heldBy fuel rcb := by
  have hregion : ∀ r, t.region r = s.region r := fun r => congrArg (Sparse.get Region.none · r) h
  induction fuel generalizing rcb with
  | zero => rfl
  | succ n ih => rw [State.heldBy, State.heldBy, hregion, ih]

theorem State.held_congr {s t : State} (h : t.regions = s.regions) (hm : t.mon.roots = s.mon.roots) (rcb : Nat) : t.held rcb = s.held rcb := by
  rw [State.held, State.held, State.overBudget, State.overBudget, State.heldBy_congr h, h, hm, State.region, State.region, h]

/-- The context of a region that was not live: it starts, where the region is not held pre-empted. -/
theorem State.makeLive_ctx {s : State} {rcb : Nat} (h : (s.region rcb).live = false) (ctx : Nat) (r : Region) : let t := s.makeLive rcb ctx r
    (t.held rcb = true → t.ctx ctx = s.ctx ctx) ∧ (t.held rcb = false → t.ctx ctx = (s.activated rcb ctx r).startCtx rcb (s.ctx ctx)) := by
  rw [State.makeLive_eq]
  simp only [h, Bool.false_eq_true, if_false]
  generalize hu : (s.modRegion rcb fun _ => s.activated rcb ctx r) = u
  have hctx : u.ctx ctx = s.ctx ctx := by rw [← hu]; rfl
  by_cases hheld : u.held rcb = true
  · rw [if_pos hheld, State.held_congr (s := u) (t := u.orphanImages rcb) rfl rfl, hheld]
    exact ⟨fun _ => hctx, nofun⟩
  · rw [if_neg hheld, State.held_congr (s := u) (t := (u.orphanImages rcb).modCtx ctx _) rfl rfl, Bool.eq_false_iff.2 hheld]
    refine ⟨nofun, fun _ => (State.ctx_modCtx _ _ _ _).trans ((if_pos rfl).trans ?_)⟩
    rw [← hctx]
    rfl

/-! ## REGION_ACTIVATION -/

theorem State.ctxTaken_eq_false_iff (s : State) (ctx : Nat) :
    s.ctxTaken ctx = false ↔ (s.ctx ctx).st = .none ∧ ∀ q ∈ s.regions, q.2.live = true → q.2.ctx ≠ ctx := by
  simp [State.ctxTaken]

/-- What an activation must name: an RCB that lies in HBM, a context of its own, a parent whose function is not being reset. -/
def State.namesRegion (s : State) (rcb ctx : Nat) : Prop :=
  rcb % 128 = 0 ∧ rcb + 128 ≤ Config.hbmBytes ∧ ctx < 65536
    ∧ ((s.region rcb).live = true ∨ ((s.ctx ctx).st = .none ∧ ∀ q ∈ s.regions, q.2.live = true → q.2.ctx ≠ ctx))
    ∧ s.resetting (fieldN ((s.rcbWords rcb).getD 0 0) 0 53) = false

/-- The region whose values one that is activated falls back to. -/
def State.rcbParent (s : State) (rcb : Nat) : Region := s.region (fieldN ((s.rcbWords rcb).getD 0 0) 0 53)

/-- The values that an activation gives a region. -/
def State.rcbValues (s : State) (rcb : Nat) : Region := s.effective (s.rcbWords rcb) false (s.rcbParent rcb)

/-- The status that an activation answers. -/
def State.rcbStatus (s : State) (rcb : Nat) : Nat := s.activateStatus rcb (s.rcbWords rcb) false (s.rcbValues rcb) (s.rcbParent rcb)

/-- A status answered to the firmware. -/
def State.answered (s : State) (st : Nat) : State := { s with io := { s.io with fwReply := BitVec.ofNat 64 st } }

theorem exec_regionActivation (s : State) (rcb ctx : Nat) : exec (.regionActivation rcb ctx) s = .next (
    if rcb % 128 ≠ 0 ∨ Config.hbmBytes < rcb + 128 ∨ 65536 ≤ ctx ∨ (!(s.region rcb).live ∧ s.ctxTaken ctx)
        ∨ s.resetting (fieldN ((s.rcbWords rcb).getD 0 0) 0 53) then s
    else if s.rcbStatus rcb = 0 then (s.answered (s.rcbStatus rcb)).makeLive rcb ctx (s.rcbValues rcb) else s.answered (s.rcbStatus rcb)) := rfl

theorem State.namesRegion_iff (s : State) (rcb ctx : Nat) : s.namesRegion rcb ctx ↔
    ¬ (rcb % 128 ≠ 0 ∨ Config.hbmBytes < rcb + 128 ∨ 65536 ≤ ctx ∨ ((!(s.region rcb).live) = true ∧ s.ctxTaken ctx = true)
        ∨ s.resetting (fieldN ((s.rcbWords rcb).getD 0 0) 0 53) = true) := by
  rw [State.namesRegion, ← State.ctxTaken_eq_false_iff]
  simp only [not_or, not_and, not_not, Nat.not_lt, Nat.not_le, Bool.not_eq_true', Bool.not_eq_true]
  refine and_congr_right' (and_congr_right' (and_congr_right' (and_congr_left' ?_)))
  cases (s.region rcb).live <;> simp

theorem exec_regionActivation_ignored {s : State} {rcb ctx : Nat} (h : ¬ s.namesRegion rcb ctx) : exec (.regionActivation rcb ctx) s = .next s := by
  rw [exec_regionActivation, if_pos (not_not.1 ((s.namesRegion_iff rcb ctx).not.1 h))]

theorem exec_regionActivation_refused {s : State} {rcb ctx : Nat} (h : s.namesRegion rcb ctx) (hst : s.rcbStatus rcb ≠ 0) :
    exec (.regionActivation rcb ctx) s = .next (s.answered (s.rcbStatus rcb)) := by
  rw [exec_regionActivation, if_neg ((s.namesRegion_iff rcb ctx).1 h), if_neg hst]

theorem exec_regionActivation_live {s : State} {rcb ctx : Nat} (h : s.namesRegion rcb ctx) (hst : s.rcbStatus rcb = 0) :
    exec (.regionActivation rcb ctx) s = .next ((s.answered (s.rcbStatus rcb)).makeLive rcb ctx (s.rcbValues rcb)) := by
  rw [exec_regionActivation, if_neg ((s.namesRegion_iff rcb ctx).1 h), if_pos hst]

/-- A budget is the region's own or its parent's. -/
theorem State.budgetOf_effective (s : State) (d : List DWord) (p : Region) {n : Nat} (hn : n < budgetKinds) :
    (s.effective d false p).budgetOf n = if bitAt (d.getD 1 0) (48 + (4 + n)) = true then (d.getD (3 + n) 0).toNat else p.budgetOf n := by
  simp only [Region.budgetOf, State.effective, Bool.false_or]
  rw [List.getD_eq_getElem _ _ (by simpa using hn), List.getElem_map, List.getElem_range]

/-- Where an activation answers 0, every budget is within the parent's. -/
theorem State.withinParent.budget_le {s : State} {rcb : Nat} {d : List DWord} {p : Region} (h : s.withinParent rcb d (s.effective d false p) p) {n : Nat}
    (hn : n < budgetKinds) : (s.effective d false p).budgetOf n ≤ p.budgetOf n := by
  by_cases hown : bitAt (d.getD 1 0) (48 + (4 + n)) = true
  · exact h.budget n hn hown
  · rw [State.budgetOf_effective s d p hn, if_neg hown]

theorem Region.inside_iff (r p : Region) :
    r.inside p = true ↔ p.px ≤ r.px ∧ r.px + r.pw ≤ p.px + p.pw ∧ p.py ≤ r.py ∧ r.py + r.ph ≤ p.py + p.ph := by
  simp only [Region.inside, Bool.and_eq_true, decide_eq_true_eq, and_assoc]

end Sys2Proof.Machine
end

section
/-!
PROOFS. Regions complete (R158, R198 to R201, R238, R239, R261, R262): retirement and pre-emption, and the obligation.
-/

namespace Sys2Proof.Machine

/-! ## REGION_RETIREMENT and FALLBACK_COUNTER_CLEAR -/

/-- A retirement ends the region's context, and counts no more records than the one that it emits. -/
theorem State.retireRegion_ends (s : State) (rcb rsn : Nat) : let t := s.retireRegion rcb rsn
    (t.ctx (s.region rcb).ctx).st = .none ∧ (t.root (s.region rcb).root).seq = (s.root (s.region rcb).root).seq + 1 := by
  obtain ⟨-, hseq⟩ := s.emitUsage_spec rcb rsn
  have hctx := ((s.observes_emitUsage rcb rsn).regions rcb).ctx
  simp only [State.retireRegion]
  generalize s.emitUsage rcb rsn = u at *
  have hregions := State.foldl_keeps (·.regions) (u.fab.leases.filter fun l => l.rcb = rcb) (fun t l => t.endLease l.id) (fun _ _ => rfl) u
  have hroots := State.foldl_keeps (·.mon.roots) (u.fab.leases.filter fun l => l.rcb = rcb) (fun t l => t.endLease l.id) (fun _ _ => rfl) u
  generalize (u.fab.leases.filter fun l => l.rcb = rcb).foldl (fun t l => t.endLease l.id) u = v at *
  have hvctx : (v.region rcb).ctx = (s.region rcb).ctx := (congrArg (fun m => (Sparse.get Region.none m rcb).ctx) hregions).trans hctx
  refine ⟨?_, (congrArg (fun m => (Sparse.get Root.none m (s.region rcb).root).seq) hroots).trans hseq⟩
  rw [hvctx]
  have hgone := (State.ctx_modCtx (v.modRegion rcb fun r => { r with live := false }) (s.region rcb).ctx Ctx.gone (s.region rcb).ctx).trans (if_pos rfl)
  exact congrArg Ctx.st hgone

/-- Whether a region can retire: no root, none below it, its context without work, and room for its record. -/
def State.retires (s : State) (rcb : Nat) : Prop :=
  (s.region rcb).live = true ∧ (s.region rcb).parent ≠ 0 ∧ (∀ q ∈ s.regions, q.2.live = true → q.2.parent ≠ rcb)
    ∧ s.idleCtx (s.region rcb).ctx = true ∧ s.usageFull rcb = false

theorem State.retires_iff (s : State) (rcb : Nat) : s.retires rcb ↔ ¬ (!(s.region rcb).live || (s.region rcb).parent = 0
    || s.regions.any (fun p => p.2.live && p.2.parent = rcb) || !s.idleCtx (s.region rcb).ctx || s.usageFull rcb) = true := by
  simp [State.retires, and_assoc]

theorem exec_regionRetirement_waits {s : State} {rcb : Nat} (h : ¬ s.retires rcb) : exec (.regionRetirement rcb) s = .next s := by
  change execRegionRetirement rcb s = _
  unfold execRegionRetirement
  dsimp only
  rw [if_pos (not_not.1 ((s.retires_iff rcb).not.1 h))]

theorem exec_regionRetirement_ends {s : State} {rcb : Nat} (h : s.retires rcb) :
    exec (.regionRetirement rcb) s = .next (s.retireRegion rcb 0) := by
  change execRegionRetirement rcb s = _
  unfold execRegionRetirement
  dsimp only
  rw [if_neg ((s.retires_iff rcb).1 h)]

theorem exec_fallbackCounterClear {s : State} {rcb : Nat} (h : (s.region rcb).live = true) :
    exec (.fallbackCounterClear rcb) s = .next ((s.answered (s.region rcb).fbcnt).modRegion rcb fun r => { r with fbcnt := 0, fbsat := false }) := by
  change execFallbackCounterClear rcb s = _
  simp only [execFallbackCounterClear, h]
  rfl

/-! ## PREEMPT_REQUEST (R238, R239) -/

theorem State.preemptedCtx_running {s : State} {x : Ctx} (h : x.st = .running) (l : Option Nat) : let y := s.preemptedCtx l x
    y.st = .halting ∧ y.flt = x.flt ∧ ∀ m, l = some m → y.queued = [m] := by
  simp only [State.preemptedCtx, h, if_true]
  refine ⟨by simp [Ctx.halt, h], by simp [Ctx.halt], ?_⟩
  rintro m rfl
  rfl

theorem State.preemptedCtx_stopped {s : State} {x : Ctx} (h : x.st = .none ∨ x.st = .saved) (l : Option Nat) : s.preemptedCtx l x = x := by
  obtain h | h := h <;> simp only [State.preemptedCtx, h]

/-- A launch of no higher priority is ranked behind the others. -/
theorem State.rankIn_last {s : State} {q : List Nat} {m : Nat} (hm : m ∉ q) (hle : ∀ k ∈ q, s.launchPrio m ≤ s.launchPrio k) : s.rankIn q m = q ++ [m] := by
  have htake : (q.takeWhile fun k => s.launchPrio m ≤ s.launchPrio k) = q := List.takeWhile_eq_self_iff.2 fun k hk => decide_eq_true (hle k hk)
  have hdrop : (q.dropWhile fun k => s.launchPrio m ≤ s.launchPrio k) = [] := List.dropWhile_eq_nil_iff.2 fun k hk => decide_eq_true (hle k hk)
  rw [State.rankIn, if_neg (by simpa using hm), htake, hdrop]

theorem State.preemptedCtx_waiting {s : State} {x : Ctx} (h : x.st = .halting ∨ x.st = .waiting) {m : Nat} (hm : m ∉ x.queued)
    (hle : ∀ k ∈ x.queued, s.launchPrio m ≤ s.launchPrio k) : (s.preemptedCtx (some m) x).queued = x.queued ++ [m] := by
  have hrank := State.rankIn_last hm hle
  obtain h | h := h <;> simpa [State.preemptedCtx, h] using hrank

/-! ## The obligation -/

/-- Settles O53: an activation by the checks that a status of 0 passes (`State.withinParent_of_status`), a retirement and the event of a budget
because observing use only lets charges grow (`observes`, `State.budgetHit_since`), a write of records by the ring's one free slot. -/
theorem regionsComplete : Obligations.RegionsComplete := by
  unfold Obligations.RegionsComplete
  refine ⟨fun s rcb ctx => ⟨exec_regionActivation_ignored, fun hnames => ?activation⟩, fun s rcb => ⟨exec_regionRetirement_waits, fun hends => ?retirement,
    fun hlive => ?clear⟩, ?budget, ?held, ?late, ?preempt⟩
  case activation =>
    obtain hst | hst := eq_or_ne (s.rcbStatus rcb) 0
    · obtain ⟨hregion, hcores, hio⟩ := (s.answered (s.rcbStatus rcb)).makeLive_keeps rcb ctx (s.rcbValues rcb)
      have hq := (s.answered (s.rcbStatus rcb)).sameValues_activated rcb ctx (s.rcbValues rcb)
      have hchecks := State.withinParent_of_status hst
      have hw := hchecks.congr hq
      obtain ⟨hleft, hright, htop, hbottom⟩ := (Region.inside_iff _ _).1 hw.inside
      refine ⟨_, exec_regionActivation_live hnames hst, congrArg (·.fwReply) hio, State.makeLive_mem _ _ _ _, hcores, fun h => absurd hst h, fun _ => ?_⟩
      dsimp only
      rw [hregion]
      refine ⟨hq.live, hq.root, hq.parent, hq.prio, hq.fdom, hq.chk, hq.asn, hq.troot,
        fun n hn => (hq.budgetOf n).trans (State.budgetOf_effective _ _ _ hn), hq.keys, hw.live, hw.prio, hw.keys, hw.imgs,
        fun n hn => hq.budgetOf n ▸ hchecks.budget_le hn, hleft, hright, htop, hbottom, hw.chk, hw.factor, fun hnew => ?_⟩
      obtain ⟨hheld, hstarts⟩ := State.makeLive_ctx (s := s.answered (s.rcbStatus rcb)) hnew ctx (s.rcbValues rcb)
      refine ⟨State.activated_ctx hnew ctx _, hheld, fun h => ?_⟩
      rw [hstarts h]
      exact ⟨rfl, rfl, rfl, rfl, rfl, rfl, rfl⟩
    · exact ⟨_, exec_regionActivation_refused hnames hst, rfl, rfl, rfl, fun _ => ⟨rfl, rfl⟩, fun h => absurd h hst⟩
  case retirement =>
    obtain ⟨hregs, hlive⟩ := s.retireRegion_spec rcb 0
    obtain ⟨hctx, hseq⟩ := s.retireRegion_ends rcb 0
    exact ⟨_, exec_regionRetirement_ends hends, hlive, hctx, hseq, hregs⟩
  case clear => exact ⟨_, exec_fallbackCounterClear hlive, rfl, State.region_modRegion_self _ _ _, rfl, rfl, rfl⟩
  case budget =>
    intro s rcb kind u r movers reached hlive hk hfull
    have ho := s.observes_coreCharges
    have hu := s.keepsUsers_coreCharges
    have hl := s.keepsListed_coreCharges
    have hsame := ho.regions rcb
    have hbud : r.budgetOf kind = (s.region rcb).budgetOf kind := congrArg (fun l : List Nat => l.getD kind 0) hsame.budget
    have hk5 : kind < 5 := by omega
    refine ⟨fun hr hp => ?again, fun hr hm => exec_budgetReached_still hlive hk hfull hr hm, ?hit⟩
    case again => rw [exec_budgetReached_hit hlive hk hfull hr, if_pos hp]
    case hit =>
      rw [hbud, show r.root = _ from hu.root rcb, show r.fdom = _ from hsame.fdom]
      rintro (⟨hr, hp⟩ | ⟨hr, hm, hpass⟩)
      · have hr' : (s.region rcb).budgetOf kind ≤ (s.coreCharges.region rcb).chargeOf kind := hbud ▸ hr
        exact ⟨_, (exec_budgetReached_hit hlive hk hfull hr).trans (congrArg _ (if_neg (ne_true_of_eq_false hp))), State.budgetHit_since ho hu hl hk5 hr'⟩
      · rw [← hbud] at hpass
        obtain ⟨q, hq, hexec⟩ := exec_budgetReached_moved hlive hk hfull hr hm hpass
        have hr' : (s.region rcb).budgetOf kind ≤ ((u.movedUp rcb q kind).region rcb).chargeOf kind := hbud ▸ State.reached_movedUp hk5 hq
        exact ⟨_, hexec, State.budgetHit_since (ho.trans (u.observes_movedUp rcb q kind)) (hu.trans (u.keepsUsers_movedUp rcb q kind))
          (hl.trans (u.keepsListed_movedUp rcb q kind)) hk5 hr'⟩
  case held =>
    intro s n q hlate hwf
    have hexec := exec_usageRecordWrite hlate n
    refine ⟨fun hh => ?none, fun hh hopen hf u hu hroom => ⟨_, hexec.trans (congrArg _ (if_pos hh)), ?_⟩, fun hh hf u hu hno => ?full⟩
    case none => rw [hexec, if_neg (ne_true_of_eq_false hh)]
    case full => rw [hexec, if_pos hh, State.drainRoot_full hwf hf hu hno]
    rw [State.drainRoot_one hf hu hroom]
    exact ⟨(State.root_modRoot _ _ _ _).trans (if_pos rfl), State.writeMem_cores _ _ _ _, State.read_writeMem hopen _ _⟩
  case late =>
    intro s n q u hlate hu hheld hopen hroom
    exact ⟨_, exec_usageRecordWrite_late hlate hu hheld hroom, State.late_writeMem _ _ _ _, State.writeMem_cores _ _ _ _,
      State.read_writeMem (s := s.noLate) hopen q.slot u⟩
  case preempt =>
    intro s n l x
    have hctx := s.ctx_preempt n l
    have hn : (s.preempt n l).ctx n = s.preemptedCtx l x := (hctx n).trans (if_pos rfl)
    refine ⟨s.preempt n l, rfl, rfl, rfl, fun m hm => (hctx m).trans (if_neg hm), ?_⟩
    rw [hn]
    refine ⟨fun h => State.preemptedCtx_running h l, fun h => (s.st_preemptedCtx l x).trans (if_neg h), fun h => State.preemptedCtx_stopped h l, ?_⟩
    rintro h m rfl hm hle
    exact State.preemptedCtx_waiting h hm hle

end Sys2Proof.Machine
end

section
/-!
PROOFS. Combiner waves (R172, R173, R175, R176): what an object holds after a change of one, the start and the end of a wave, and the registers
with which its lanes enter the method.
-/

namespace Sys2Proof.Machine

/-! ## Objects (R168) -/

theorem State.obj_modObj (s : State) (pa : Nat) (f : CObj → CObj) (n : Nat) : (s.modObj pa f).obj n = if n = pa then f (s.obj pa) else s.obj n :=
  Sparse.get_modify _ _ _ _ _

@[simp] theorem State.obj_modObj_self (s : State) (pa : Nat) (f : CObj → CObj) : (s.modObj pa f).obj pa = f (s.obj pa) := by
  rw [State.obj_modObj, if_pos rfl]

/-! ## The start of a wave (R172) -/

/-- The method that a pending request asks for. -/
def State.methodOf (s : State) (q : Nat × Nat) : Nat := ((s.findReq q.2).map Req.meth).getD 0

/-- The requests that a wave of method `m` takes: those that ask for it, in their order of arrival, up to 32. -/
def State.waveIds (s : State) (pa m : Nat) : List Nat := (((s.obj pa).trug.filter fun q => s.methodOf q == m).map Prod.snd).take 32

/-- A wave started: its requests have left the trug, and the engine is taken. -/
def State.startWave (s : State) (slice pa m : Nat) : State :=
  let ids := s.waveIds pa m
  let t := s.modObj pa fun b => { b with trug := b.trug.filter fun q => !ids.contains q.2, wave := some (m, ids) }
  { t with fab := { t.fab with engines := Sparse.set none t.fab.engines slice (some pa) } }

theorem exec_combinerWaveStart_starts {s : State} {slice pa m : Nat} (hidle : Sparse.get none s.fab.engines slice = none)
    (hhalted : s.answerHalted = s) (hnext : s.nextObj slice = some pa) (hm : s.methodOf ((s.obj pa).trug.headD (0, 0)) = m) :
    exec (.combinerWaveStart slice) s = .next (s.startWave slice pa m) := by
  change execCombinerWaveStart slice s = _
  subst hm
  simp only [execCombinerWaveStart, hidle, Option.isSome_none, Bool.false_eq_true, if_false, hhalted, hnext]
  rfl

theorem State.engine_startWave (s : State) (slice pa m : Nat) : Sparse.get none (s.startWave slice pa m).fab.engines slice = some pa :=
  Sparse.get_set_self none s.fab.engines slice (some pa)

theorem State.obj_startWave (s : State) (slice pa m : Nat) : (s.startWave slice pa m).obj pa =
    { s.obj pa with trug := (s.obj pa).trug.filter fun q => !(s.waveIds pa m).contains q.2, wave := some (m, s.waveIds pa m) } :=
  s.obj_modObj_self pa fun b => { b with trug := b.trug.filter fun q => !(s.waveIds pa m).contains q.2, wave := some (m, s.waveIds pa m) }

/-! ## The end of a wave (R173, R175) -/

/-- The engine and the object freed. -/
def State.freeEngine (s : State) (slice pa : Nat) : State :=
  ({ s with fab := { s.fab with engines := Sparse.set none s.fab.engines slice none } } : State).modObj pa fun b => { b with wave := none }

/-- The method of a wave run on the payload as memory holds it, one lane for each request. -/
def State.runWave (s : State) (pa m : Nat) (rs : List Req) : Option Wave :=
  Wave.run { mem := s.mem, base := pa + 64, size := 64 * hdrPlen s.mem pa } rs.length (Sparse.get [] (s.obj pa).methods m) 0 false
    (Wave.start m (rs.map fun r => (r.parts.map Part.opr).headD 0))

/-- The stores of a wave committed and its lanes' replies sent (R173). -/
def State.endWave (s : State) (pa : Nat) (rs : List Req) (v : Wave) : State :=
  ((List.range rs.length).zip rs).foldl (fun t q => t.answer q.2 stOK ((Sparse.get none v.out q.1).getD 0)) (s.commitWave pa v)

section WaveEnd

variable {s : State} {slice pa m : Nat} {ids : List Nat} (hbusy : Sparse.get none s.fab.engines slice = some pa)
  (hwave : (s.obj pa).wave = some (m, ids))
include hbusy hwave

/-- A residue mismatch that recurs aborts the wave, whatever its method did. -/
theorem exec_combinerWaveEnd_residue : exec (.combinerWaveEnd slice true) s = .next ((s.freeEngine slice pa).abortWave pa m ids true) := by
  change Host.Outcome.next (s.waveEnd slice true) = _
  simp only [State.waveEnd, hbusy, hwave, if_true]
  rfl

theorem exec_combinerWaveEnd_commits {v : Wave} (hv : s.runWave pa m (ids.filterMap s.findReq) = some v) :
    exec (.combinerWaveEnd slice false) s = .next ((s.freeEngine slice pa).endWave pa (ids.filterMap s.findReq) v) := by
  change Host.Outcome.next (s.waveEnd slice false) = _
  rw [State.runWave] at hv
  simp only [State.waveEnd, hbusy, hwave, Bool.false_eq_true, if_false, hv]
  rfl

theorem exec_combinerWaveEnd_aborts (hv : s.runWave pa m (ids.filterMap s.findReq) = none) :
    exec (.combinerWaveEnd slice false) s = .next ((s.freeEngine slice pa).abortWave pa m ids false) := by
  change Host.Outcome.next (s.waveEnd slice false) = _
  rw [State.runWave] at hv
  simp only [State.waveEnd, hbusy, hwave, Bool.false_eq_true, if_false, hv]
  rfl

end WaveEnd

/-! ## The registers of a wave at its entry (R172) -/

/-- A lane's registers at the entry: its argument, its number, the method's number. -/
def RF.enterLane (r : RF) (meth : Nat) (args : List DWord) (l : Nat) : RF :=
  ((r.write2 0 l (args.getD l 0)).write1 2 l (BitVec.ofNat 32 l)).write1 3 l (BitVec.ofNat 32 meth)

section EnterLane

variable (r : RF) (meth : Nat) (args : List DWord) {l m : Nat} (hl : l < 32) (hm : m < 32)
include hl hm

theorem RF.read2_enterLane : (r.enterLane meth args m).read2 0 l = if l = m then args.getD l 0 else r.read2 0 l := by
  have hpair : ∀ (q : RF) (c : BitVec 8) (v : Word), 2 ≤ c.toNat → (q.write1 c m v).read2 0 l = q.read2 0 l := by
    intro q c v hc
    have h0 : c ≠ 0 := by rintro rfl; exact absurd hc (by decide)
    have h1 : c ≠ 0 + 1 := by rintro rfl; exact absurd hc (by decide)
    rw [RF.read2_of_not_gz _ _ rfl, RF.read2_of_not_gz _ _ rfl, RF.read1_write1_ne _ _ h1 hm hl, RF.read1_write1_ne _ _ h0 hm hl]
  rw [RF.enterLane, hpair _ 3 _ (by decide), hpair _ 2 _ (by decide), RF.read2_write2_of_isG _ _ rfl rfl hm hl]
  split
  · next h => rw [h]
  · rfl

theorem RF.read1_two_enterLane : (r.enterLane meth args m).read1 2 l = if l = m then BitVec.ofNat 32 l else r.read1 2 l := by
  rw [RF.enterLane, RF.read1_write1_ne _ _ (by decide) hm hl, RF.read1_write1_of_isG _ _ rfl hm hl, RF.read1_write2_ne _ _ (by decide) (by decide) hm hl]
  split
  · next h => rw [h]
  · rfl

theorem RF.read1_three_enterLane : (r.enterLane meth args m).read1 3 l = if l = m then BitVec.ofNat 32 meth else r.read1 3 l := by
  rw [RF.enterLane, RF.read1_write1_of_isG _ _ rfl hm hl, RF.read1_write1_ne _ _ (by decide) hm hl, RF.read1_write2_ne _ _ (by decide) (by decide) hm hl]

end EnterLane

/-- Lanes enter one after another, and none changes what another was given. -/
theorem RF.foldl_enterLane {n : Nat} (hn : n ≤ 32) (r : RF) (meth : Nat) (args : List DWord) {l : Nat} (hl : l < n) :
    let q := (List.range n).foldl (fun r l => r.enterLane meth args l) r
    q.read2 0 l = args.getD l 0 ∧ q.read1 2 l = BitVec.ofNat 32 l ∧ q.read1 3 l = BitVec.ofNat 32 meth := by
  induction n with
  | zero => omega
  | succ n ih =>
    simp only [List.range_succ, List.foldl_append, List.foldl_cons, List.foldl_nil]
    rw [RF.read2_enterLane _ _ _ (by omega) (by omega), RF.read1_two_enterLane _ _ _ (by omega) (by omega),
      RF.read1_three_enterLane _ _ _ (by omega) (by omega)]
    by_cases h : l = n
    · simp only [if_pos h, and_self]
    · simp only [if_neg h]
      exact ih (by omega) (by omega)

theorem Wave.start_eq (meth : Nat) (args : List DWord) : Wave.start meth args =
    { rf := ((List.range args.length).foldl (fun r l => r.enterLane meth args l) RF.zero).writeK 0 (BitVec.ofNat 32 args.length)
      stored := [], resume := [], out := [] } := rfl

/-- Settles O33: a start and an end are each one state, and every lane of a wave enters with registers that no other lane's entry changes. -/
theorem waves : Obligations.Waves := by
  refine ⟨?start, ?finish, ?entry⟩
  case start =>
    intro s slice pa m r hidle hhalted hnext _ hm sameMethod
    have hmeth : s.methodOf ((s.obj pa).trug.headD (0, 0)) = m := by rw [State.methodOf, hm]; rfl
    exact ⟨_, s.waveIds pa m, exec_combinerWaveStart_starts hidle hhalted hnext hmeth, s.engine_startWave slice pa m,
      congrArg CObj.wave (s.obj_startWave slice pa m), rfl, congrArg CObj.trug (s.obj_startWave slice pa m), rfl, rfl, rfl⟩
  case finish =>
    intro s slice pa m ids hbusy hwave rs start result idle
    exact ⟨fun _ => exec_combinerWaveEnd_commits hbusy hwave, exec_combinerWaveEnd_aborts hbusy hwave, exec_combinerWaveEnd_residue hbusy hwave⟩
  case entry =>
    intro meth args l hl hlen _ v
    obtain ⟨harg, hlane, hmeth⟩ := RF.foldl_enterLane hlen RF.zero meth args hl
    exact ⟨harg, hlane, hmeth, Sparse.get_set_self _ _ _ _, rfl⟩

end Sys2Proof.Machine
end

section
/-!
PROOFS. Writes of memory where none is closed (R244, R248): the bytes that a write leaves, with some of them discarded or none, and the doublewords
read back.
-/

namespace Sys2Proof.Machine

/-! ## Bytes after a write -/

/-- A write some of whose bytes are discarded: the others hold what was written. -/
theorem Mem.byte_writeBut (hid : Nat → Bool) (m : Mem) (loc a : Nat) (bs : List Byte) (loc' b : Nat) (h : loc < 3) (h' : loc' < 3) :
    (m.writeBut hid loc a bs).byte loc' b =
      if loc' = loc ∧ a ≤ b ∧ b < a + bs.length ∧ hid b = false then bs.getD (b - a) 0 else m.byte loc' b := by
  have hfold : (m.writeBut hid loc a bs).byte loc' b =
      (((List.range bs.length).zip bs).foldl (fun m p => if hid (a + p.1) then m else m.put loc (a + p.1) p.2) m).byte loc' b := by
    unfold Mem.writeBut
    split
    all_goals exact Mem.foldl_byte _ _ (fun m g loc' b => Mem.byte_setPoison m loc g false loc' b) _ loc' b
  rw [hfold]
  clear hfold
  induction bs using List.reverseRecOn with
  | nil => rw [if_neg (by simp only [List.length_nil]; omega)]; rfl
  | append_singleton l x ih =>
    rw [List.length_append, List.length_singleton, List.range_succ, List.zip_append (by simp), List.foldl_append]
    simp only [List.zip_cons_cons, List.zip_nil_right, List.foldl_cons, List.foldl_nil]
    by_cases hlast : loc' = loc ∧ b = a + l.length
    · obtain ⟨rfl, rfl⟩ := hlast
      cases hh : hid (a + l.length) with
      | true =>
        rw [if_pos rfl, ih, if_neg (by rintro ⟨-, -, hlt, -⟩; omega), if_neg (by rintro ⟨-, -, -, hf⟩; cases hf)]
      | false =>
        rw [if_neg Bool.false_ne_true, Mem.byte_put _ _ _ _ _ _ h h, if_pos ⟨rfl, rfl⟩, if_pos ⟨rfl, by omega, by omega, rfl⟩]
        simp
    · have hstep : ∀ q : Mem, (if hid (a + l.length) = true then q else q.put loc (a + l.length) x).byte loc' b = q.byte loc' b := by
        intro q
        split
        · rfl
        · rw [Mem.byte_put _ _ _ _ _ _ h h', if_neg hlast]
      rw [hstep, ih]
      by_cases hin : loc' = loc ∧ a ≤ b ∧ b < a + l.length ∧ hid b = false
      · obtain ⟨hl, hlo, hhi, hf⟩ := hin
        rw [if_pos ⟨hl, hlo, hhi, hf⟩, if_pos ⟨hl, hlo, by omega, hf⟩, List.getD_append _ _ _ _ (by omega)]
      · rw [if_neg hin, if_neg]
        rintro ⟨hl, hlo, hhi, hf⟩
        have hne : b ≠ a + l.length := fun e => hlast ⟨hl, e⟩
        exact hin ⟨hl, hlo, by omega, hf⟩

theorem State.byte_gcmWrote (s : State) (loc a len loc' b : Nat) : (s.gcmWrote loc a len).mem.byte loc' b = s.mem.byte loc' b := by
  rw [State.gcmWrote]
  split
  · exact State.foldl_keeps (·.mem.byte loc' b) _ _ (fun t l => t.byte_gcmLine l loc' b) s
  · rfl

/-! ## Where no memory is closed -/

section Open

variable {s : State} (ho : s.openMem = true)
include ho

theorem State.closed_of_openMem (loc a len : Nat) : s.closed loc a len = false := by rw [State.closed, ho]; rfl

theorem State.inFirmware_of_openMem (loc a : Nat) : s.inFirmware loc a = false := by
  simp only [State.openMem, Bool.and_eq_true, Option.isNone_iff_eq_none, List.isEmpty_iff] at ho
  simp [State.inFirmware, ho]

theorem State.byte_writeMem {loc loc' : Nat} (a : Nat) (bs : List Byte) (b : Nat) (h : loc < 3) (h' : loc' < 3) :
    (s.writeMem loc a bs).mem.byte loc' b = if loc' = loc ∧ a ≤ b ∧ b < a + bs.length then bs.getD (b - a) 0 else s.mem.byte loc' b := by
  rw [State.writeMem, if_neg (ne_true_of_eq_false (State.closed_of_openMem ho _ _ _)), State.byte_gcmWrote, Mem.byte_write _ _ _ _ _ _ h h']

/-- A write whose writer may write every byte. -/
theorem State.byte_writeHid {hid : Nat → Bool} (hh : ∀ b, hid b = false) (a : Nat) (bs : List Byte) {loc : Nat} (b : Nat) (h : loc < 3) :
    (s.writeHid hid a bs).mem.byte loc b = if loc = 0 ∧ a ≤ b ∧ b < a + bs.length then bs.getD (b - a) 0 else s.mem.byte loc b := by
  rw [State.writeHid, State.closed_of_openMem ho, if_neg Bool.false_ne_true, State.byte_gcmWrote, Mem.byte_writeBut _ _ _ _ _ _ _ (by decide) h]
  simp [hh, State.inFirmware_of_openMem ho]

end Open

/-! ## Doublewords read back -/

/-- A doubleword whose bytes are those of a number. -/
theorem Mem.dword_of_bytes {m : Mem} {a v : Nat} (h : ∀ i, i < 8 → m.byte 0 (a + i) = BitVec.ofNat 8 (v / 256 ^ i)) : m.dword a = BitVec.ofNat 64 v := by
  have hread : m.read 0 a 8 = leBytes 8 v := by
    refine List.ext_getElem (by simp [Mem.read]) fun i hi hi' => ?_
    have hi8 : i < 8 := by simpa using hi'
    rw [← List.getD_eq_getElem _ 0 hi', getD_leBytes v hi8, ← h i hi8]
    simp [Mem.read]
  rw [Mem.dword, Mem.readNat, hread, leNat_leBytes]
  exact BitVec.eq_of_toNat_eq (by simp)

/-- The bytes of a list of doublewords, one after another. -/
theorem getD_flatMap_leBytes (l : List DWord) {n i : Nat} (hn : n < l.length) (hi : i < 8) :
    (l.flatMap fun q => leBytes 8 q.toNat).getD (8 * n + i) 0 = BitVec.ofNat 8 ((l.getD n 0).toNat / 256 ^ i) := by
  induction l generalizing n with
  | nil => simp at hn
  | cons q l ih =>
    rw [List.flatMap_cons]
    cases n with
    | zero => rw [Nat.mul_zero, Nat.zero_add, List.getD_append _ _ _ _ (by simpa using hi), getD_leBytes _ hi]; rfl
    | succ n =>
      rw [List.getD_append_right _ _ _ _ (by rw [length_leBytes]; omega), length_leBytes, show 8 * (n + 1) + i - 8 = 8 * n + i by omega,
        ih (by simpa using hn), List.getD_cons_succ]

theorem length_flatMap_leBytes (l : List DWord) : (l.flatMap fun q => leBytes 8 q.toNat).length = 8 * l.length := by
  simp [List.length_flatMap, Nat.mul_comm]

end Sys2Proof.Machine
end

section
/-!
PROOFS. COBJ.INIT, COBJ.ARM and COBJ.QUERY (R169, R370 to R373): the bytes that an object's home writes to its header, what a header then reads as,
and each instruction completed.
-/

namespace Sys2Proof.Machine

/-! ## Writes of an object's home (R169) -/

/-- No object but the one at `pa` is armed. -/
def State.armsOnly (s : State) (pa : Nat) : Prop := ∀ o ∈ s.fab.objs, o.2.armed = true → o.1 = pa

theorem State.inHeader_of_armsOnly {s : State} {pa : Nat} (h : s.armsOnly pa) (loc a : Nat) : s.inHeader (some pa) loc a = false := by
  rw [State.inHeader, Bool.and_eq_false_iff]
  right
  rw [List.any_eq_false]
  intro o ho hc
  simp only [Bool.and_eq_true, bne_iff_ne, ne_eq, Option.some.injEq] at hc
  obtain ⟨⟨⟨harmed, hne⟩, -⟩, -⟩ := hc
  exact hne (h o ho harmed).symm

theorem State.byte_objWrite {s : State} {pa : Nat} (ho : s.openMem = true) (h : s.armsOnly pa) (a : Nat) (bs : List Byte) {loc : Nat} (b : Nat)
    (hloc : loc < 3) :
    (s.objWrite pa false a bs).mem.byte loc b = if loc = 0 ∧ a ≤ b ∧ b < a + bs.length then bs.getD (b - a) 0 else s.mem.byte loc b :=
  State.byte_writeHid ho (State.inHeader_of_armsOnly h 0) a bs b hloc

/-! ## INIT (R169, R371) -/

/-- The header that INIT writes for an image: valid, its numbers of methods and of payload lines, its methods. -/
def initHeader (d : List DWord) : List DWord :=
  [BitVec.ofNat 64 (2 ^ 63 + fieldN (d.getD 0 0) 56 5 * 2 ^ 56 + fieldN (d.getD 0 0) 32 7 * 2 ^ 32), 0, d.getD 2 0 &&& 0x1FFFFFFFFFFFFFF,
    d.getD 3 0, d.getD 4 0, d.getD 5 0, d.getD 6 0, 0]

/-- The bytes that INIT writes: the header and a zero payload. -/
def initBytes (d : List DWord) : List Byte :=
  ((initHeader d).flatMap fun q => leBytes 8 q.toNat) ++ List.replicate (64 * fieldN (d.getD 0 0) 32 7) 0

theorem length_initBytes (d : List DWord) : (initBytes d).length = 64 + 64 * fieldN (d.getD 0 0) 32 7 := by
  rw [initBytes, List.length_append, length_flatMap_leBytes, List.length_replicate]
  rfl

theorem getD_initBytes_header (d : List DWord) {n i : Nat} (hn : n < 8) (hi : i < 8) :
    (initBytes d).getD (8 * n + i) 0 = BitVec.ofNat 8 (((initHeader d).getD n 0).toNat / 256 ^ i) := by
  have hlen : ((initHeader d).flatMap fun q => leBytes 8 q.toNat).length = 64 := length_flatMap_leBytes _
  rw [initBytes, List.getD_append _ _ _ _ (by omega), getD_flatMap_leBytes _ (by exact hn) hi]

theorem getD_initBytes_payload (d : List DWord) {i : Nat} (hi : i < 64 * fieldN (d.getD 0 0) 32 7) : (initBytes d).getD (64 + i) 0 = 0 := by
  have hlen : ((initHeader d).flatMap fun q => leBytes 8 q.toNat).length = 64 := length_flatMap_leBytes _
  rw [initBytes, List.getD_append_right _ _ _ _ (by omega), hlen, Nat.add_sub_cancel_left, List.getD_replicate _ hi]

section Init

variable {s : State} {leaf : DWord} {pa : Nat} (d : List DWord)

theorem State.initObj_mem : (s.initObj leaf pa d).mem = (s.objWrite pa (eMir leaf) pa (initBytes d)).mem := rfl

theorem State.obj_initObj : (s.initObj leaf pa d).obj pa = CObj.none := State.obj_modObj_self _ _ _

variable (ho : s.openMem = true) (hmir : eMir leaf = false) (harm : s.armsOnly pa)
include ho hmir harm

theorem State.byte_initObj {loc : Nat} (b : Nat) (hloc : loc < 3) : (s.initObj leaf pa d).mem.byte loc b =
    if loc = 0 ∧ pa ≤ b ∧ b < pa + (initBytes d).length then (initBytes d).getD (b - pa) 0 else s.mem.byte loc b := by
  rw [State.initObj_mem, hmir, State.byte_objWrite ho harm _ _ _ hloc]

theorem State.dword_initObj {n : Nat} (hn : n < 8) : (s.initObj leaf pa d).mem.dword (pa + 8 * n) = (initHeader d).getD n 0 := by
  have hbytes : ∀ i, i < 8 → (s.initObj leaf pa d).mem.byte 0 (pa + 8 * n + i) = BitVec.ofNat 8 (((initHeader d).getD n 0).toNat / 256 ^ i) := by
    intro i hi
    rw [State.byte_initObj d ho hmir harm _ (by decide), if_pos ⟨rfl, by omega, by rw [length_initBytes]; omega⟩,
      show pa + 8 * n + i - pa = 8 * n + i by omega, getD_initBytes_header d hn hi]
  rw [Mem.dword_of_bytes hbytes, BitVec.ofNat_toNat, BitVec.setWidth_eq]

/-- The header reads as the image says, with VLD set and POIS and ARM clear (R168, R169). -/
theorem State.header_initObj : let m := (s.initObj leaf pa d).mem
    hdrVld m pa = true ∧ hdrPois m pa = false ∧ bitAt (m.dword pa) 61 = false
    ∧ hdrNmeth m pa = fieldN (d.getD 0 0) 56 5 ∧ hdrPlen m pa = fieldN (d.getD 0 0) 32 7 ∧ hdrMbase m pa = fieldN (d.getD 2 0) 0 57 := by
  intro m
  have hnm : fieldN (d.getD 0 0) 56 5 < 2 ^ 5 := Nat.mod_lt _ (by decide)
  have hpl : fieldN (d.getD 0 0) 32 7 < 2 ^ 7 := Nat.mod_lt _ (by decide)
  have h0 : m.dword pa = BitVec.ofNat 64 (2 ^ 63 + fieldN (d.getD 0 0) 56 5 * 2 ^ 56 + fieldN (d.getD 0 0) 32 7 * 2 ^ 32) :=
    State.dword_initObj d ho hmir harm (n := 0) (by decide)
  have h2 : m.dword (pa + 16) = d.getD 2 0 &&& 0x1FFFFFFFFFFFFFF := State.dword_initObj d ho hmir harm (n := 2) (by decide)
  rw [hdrVld, hdrPois, hdrNmeth, hdrPlen, hdrMbase, h0, h2]
  generalize fieldN (d.getD 0 0) 56 5 = nm at hnm ⊢
  generalize fieldN (d.getD 0 0) 32 7 = pl at hpl ⊢
  have hlt : 2 ^ 63 + nm * 2 ^ 56 + pl * 2 ^ 32 < 2 ^ 64 := by omega
  refine ⟨bitAt_ofNat hlt _ _ ?_, bitAt_ofNat hlt _ _ ?_, bitAt_ofNat hlt _ _ ?_, ?_, ?_, ?_⟩
  · show _ = 1; omega
  · show _ = 0; omega
  · show _ = 0; omega
  · rw [fieldN_ofNat hlt]; omega
  · rw [fieldN_ofNat hlt]; omega
  · have hmask : (0x1FFFFFFFFFFFFFF : DWord).toNat = 2 ^ 57 - 1 := by decide
    rw [fieldN, fieldN, BitVec.toNat_and, hmask, Nat.and_two_pow_sub_one_eq_mod]
    omega

theorem State.byte_initObj_payload {i : Nat} (hi : i < 64 * fieldN (d.getD 0 0) 32 7) : (s.initObj leaf pa d).mem.byte 0 (pa + 64 + i) = 0 := by
  rw [State.byte_initObj d ho hmir harm _ (by decide), if_pos ⟨rfl, by omega, by rw [length_initBytes]; omega⟩,
    show pa + 64 + i - pa = 64 + i by omega, getD_initBytes_payload d hi]

theorem State.byte_initObj_outside {loc b : Nat} (hloc : loc < 3) (h : loc ≠ 0 ∨ b < pa ∨ pa + 64 + 64 * fieldN (d.getD 0 0) 32 7 ≤ b) :
    (s.initObj leaf pa d).mem.byte loc b = s.mem.byte loc b := by
  rw [State.byte_initObj d ho hmir harm _ hloc, if_neg]
  rw [length_initBytes]
  omega

end Init

/-- The ground on which INIT refuses a place of its own (R169): a page that is not local HBM, not readable and writable, or of CRYPT 2. -/
def badPlace (leaf : DWord) : Bool := eLoc leaf != 0 || !bitAt leaf 2 || !bitAt leaf 3 || eCrypt leaf == 2

section InitCompletes

variable {s : State} {f : FmtS} {leaf va : DWord} {pa : Nat} {x : Issue} {img : Word} (hready : s.readyFor (.cobjInit f) = true)
  (hx : s.issueOf (.cobjInit f) = x) (hva : (s.rfOf x).read2 f.a x.low = va) (himg : (s.rfOf x).read1 (f.a + 2) x.low = img)

/-- The status of the image that INIT names. -/
def State.initStatusAt (s : State) (x : Issue) (leaf : DWord) (pa : Nat) (img : Word) : Nat :=
  s.initStatus pa (badPlace leaf) ((s.core x.core).objImage (fieldN img 0 24))

/-- The object written, where the status is 0, and the issuer's reports of failed walks used. -/
def State.inited (s : State) (x : Issue) (leaf : DWord) (pa : Nat) (img : Word) : State :=
  x.settled (if s.initStatusAt x leaf pa img = 0 then s.initObj leaf pa ((s.core x.core).objImage (fieldN img 0 24)) else s)

include hready hx hva himg

/-- An INIT with a cached, permitted header and nothing to wait for completes with the status of its image (R371). -/
theorem exec_cobjInit (hlt : va.toNat < 2 ^ 57) (hal : va.toNat % 64 = 0) (hmiss : s.translate x.core x.who (s.regionOf x) va .read ≠ .miss)
    (hpage : s.cachedPage x.core (s.regionOf x) va = some (leaf, pa)) (hleaf : s.leafFault (s.regionOf x) leaf pa .update = none)
    (hown : (s.core x.core).ownScr img 64 = true) (hrow : fieldN img 0 24 % 16 = 0) (hbusy : s.busyBefore x = false)
    (htracks : s.coreTracks x.core = false) (hwave : (s.obj pa).wave = none) (hpois : s.poisonIn x (fieldN img 0 24) 64 = none) :
    exec (.cobjInit f) s = .next (s.doneWith (.cobjInit f)
      ((s.inited x leaf pa img).putOnce x 1 f.d (BitVec.ofNat 64 (s.initStatusAt x leaf pa img)))) := by
  refine State.issueOnce_done hready ?_
  have hfault : (if badPlace leaf = true then none else s.leafFault (s.regionOf x) leaf pa .update) = none := by rw [hleaf, ite_self]
  rw [badPlace] at hfault
  simp only [hx, hva, himg, Nat.not_le.2 hlt, if_false, hal, ne_eq, not_true_eq_false]
  cases htr : s.translate x.core x.who (s.regionOf x) va .read with
  | miss => exact absurd htr hmiss
  | _ =>
    simp only [hpage, hfault, hown, Bool.not_true, Bool.false_eq_true, if_false, hrow, not_true_eq_false, hbusy, htracks, hwave,
      Option.isSome_none, Bool.or_self, State.meetScr_sound (State.readyFor_sound hready), hpois]
    rfl

end InitCompletes

/-! ## ARM (R169, R372) -/

theorem bitAt_setBit_false {w : Nat} (m : BitVec w) (i : Nat) {n : Nat} (hn : n < w) : bitAt (setBit m i false) n = (bitAt m n && decide (i ≠ n)) := by
  simp only [bitAt, setBit, Bool.false_eq_true, if_false, BitVec.getLsbD_and, BitVec.getLsbD_not, BitVec.getLsbD_ofNat, Nat.testBit_two_pow, hn,
    decide_true, Bool.true_and, ne_eq, decide_not]

section Arm

variable {s : State} {f : FmtS} {x : Issue} {va : DWord} {a : LaneAcc}

/-- The header of an armed object: ARM set and POIS cleared. -/
def State.armedHdr (s : State) (a : LaneAcc) : DWord := setBit (setBit (s.mem.dword a.home.addr) 61 true) 62 false

/-- An object armed, its methods as they are now. -/
def State.armObj (s : State) (x : Issue) (va : DWord) (a : LaneAcc) (ms : Sparse (List (DWord × DWord))) : State :=
  let t := s.objWrite a.home.addr (eMir a.leaf) a.home.addr (leBytes 8 (s.armedHdr a).toNat)
  t.modObj a.home.addr fun o => { o with armed := true, methods := ms, armRcb := (t.ctx (t.ctxOf x)).rcb, armVa := va, mir := eMir a.leaf }

theorem State.obj_armObj (s : State) (x : Issue) (va : DWord) (a : LaneAcc) (ms : Sparse (List (DWord × DWord))) :
    let o := (s.armObj x va a ms).obj a.home.addr
    o.armed = true ∧ o.methods = ms ∧ o.armVa = va := by
  intro o
  have ho : o = _ := State.obj_modObj_self _ _ _
  rw [ho]
  exact ⟨rfl, rfl, rfl⟩

theorem State.header_armObj (ms : Sparse (List (DWord × DWord))) (ho : s.openMem = true) (hmir : eMir a.leaf = false) (harm : s.armsOnly a.home.addr) :
    bitAt ((s.armObj x va a ms).mem.dword a.home.addr) 61 = true ∧ hdrPois (s.armObj x va a ms).mem a.home.addr = false := by
  have hd : (s.armObj x va a ms).mem.dword a.home.addr = s.armedHdr a := by
    have hmem : (s.armObj x va a ms).mem = (s.objWrite a.home.addr false a.home.addr (leBytes 8 (s.armedHdr a).toNat)).mem := by rw [← hmir]; rfl
    have hbytes : ∀ i, i < 8 → (s.armObj x va a ms).mem.byte 0 (a.home.addr + i) = BitVec.ofNat 8 ((s.armedHdr a).toNat / 256 ^ i) := by
      intro i hi
      rw [hmem, State.byte_objWrite ho harm _ _ _ (by decide), if_pos ⟨rfl, by omega, by rw [length_leBytes]; omega⟩, Nat.add_sub_cancel_left,
        getD_leBytes _ hi]
    rw [Mem.dword_of_bytes hbytes, BitVec.ofNat_toNat, BitVec.setWidth_eq]
  rw [hdrPois, hd, State.armedHdr, bitAt_setBit_false _ _ (by decide), bitAt_setBit_false _ _ (by decide), bitAt_setBit_true _ _ _ (by decide)]
  simp

variable (hready : s.readyFor (.cobjArm f) = true) (hx : s.issueOf (.cobjArm f) = x) (hva : (s.rfOf x).read2 f.a x.low = va)
  (hcheck : s.checkHeader x .update x.low va = .ok a) (hbusy : s.busyBefore x = false) (htracks : s.coreTracks x.core = false)
  (hwave : (s.obj a.home.addr).wave = none)
include hready hx hva hcheck hbusy htracks hwave

theorem exec_cobjArm_invalid (hbad : hdrVld s.mem a.home.addr = false ∨ eCrypt a.leaf = 2) :
    exec (.cobjArm f) s = .next (s.doneWith (.cobjArm f) ((x.settled s).putOnce x 1 f.d 1)) := by
  have hbad' : (!hdrVld s.mem a.home.addr) = true ∨ eCrypt a.leaf = 2 := by simpa using hbad
  refine State.issueOnce_done hready ?_
  simp only [hx, hva, hcheck, hbusy, htracks, hwave, Option.isSome_none, Bool.or_self, Bool.false_eq_true, if_false, if_pos hbad']

section Valid

variable (hvld : hdrVld s.mem a.home.addr = true) (hcrypt : eCrypt a.leaf ≠ 2)
include hvld hcrypt

theorem exec_cobjArm_refused {n : Nat} (hms : s.takeMethods x a.home.addr = .error (n, none)) :
    exec (.cobjArm f) s = .next (s.doneWith (.cobjArm f) ((x.settled s).putOnce x 1 f.d (BitVec.ofNat 64 (3 + 256 * n)))) := by
  refine State.issueOnce_done hready ?_
  simp only [hx, hva, hcheck, hbusy, htracks, hwave, Option.isSome_none, Bool.or_self, Bool.false_eq_true, if_false, hvld, Bool.not_true, hcrypt, or_self,
    hms]

theorem exec_cobjArm_arms {ms : Sparse (List (DWord × DWord))} (hms : s.takeMethods x a.home.addr = .ok ms) :
    exec (.cobjArm f) s = .next (s.doneWith (.cobjArm f) ((x.settled (s.armObj x va a ms)).putOnce x 1 f.d 0)) := by
  refine State.issueOnce_done hready ?_
  simp only [hx, hva, hcheck, hbusy, htracks, hwave, Option.isSome_none, Bool.or_self, Bool.false_eq_true, if_false, hvld, Bool.not_true, hcrypt, or_self,
    hms]
  rfl

end Valid

end Arm

/-! ## QUERY (R373) -/

/-- With nothing on its way, an access comes after nothing. -/
theorem State.quiet.orderAfter {s : State} (h : s.quiet) (l : Req) : s.orderAfter l = [] := by
  obtain ⟨hreqs, hfences, -⟩ := h
  simp [State.orderAfter, hreqs, hfences]

theorem exec_cobjQuery {s : State} {f : FmtS} {x : Issue} {a : LaneAcc} (hready : s.readyFor (.cobjQuery f) = true)
    (hx : s.issueOf (.cobjQuery f) = x) (hcheck : s.checkHeader x .read x.low ((s.rfOf x).read2 f.a x.low) = .ok a) (hquiet : s.quiet)
    (hwave : (s.obj a.home.addr).wave = none) (hpois : s.mem.poisoned 0 a.home.addr 16 = false) (hd : isGz f.d = false)
    (hcrypt : eCrypt a.leaf ≠ 2) :
    exec (.cobjQuery f) s = .next (s.doneWith (.cobjQuery f)
      (((x.settled s).putOnce x 2 f.d (s.mem.dword a.home.addr)).putOnce x 2 (f.d + 2) (s.mem.dword (a.home.addr + 8)))) := by
  refine State.issueOnce_done hready ?_
  simp only [hx, hcheck, hquiet.orderAfter, List.any_nil, hwave, Option.isSome_none, Bool.or_self, Bool.false_eq_true, if_false, hpois, false_and, hd,
    hcrypt]

/-- Settles O34: each of the three is the instruction completed, and the bytes of an INIT and of an ARM read back from the header they write. -/
theorem objectsComplete : Obligations.ObjectsComplete := by
  refine ⟨?init, ?arm, ?query⟩
  case init =>
    intro s f leaf pa x r va img k d st hready hlt hal hmiss hpage hleaf hown hrow hbusy htracks hwave hpois
    refine ⟨s.inited x leaf pa img, exec_cobjInit hready rfl rfl rfl hlt hal hmiss hpage hleaf hown hrow hbusy htracks hwave hpois, ?_, ?_⟩
    · intro hst loc b
      have hinit : s.inited x leaf pa img = x.settled s := congrArg x.settled (if_neg hst)
      rw [hinit, Issue.settled_mem]
    · intro hst ho hmir harm
      have hinit : s.inited x leaf pa img = x.settled (s.initObj leaf pa d) := congrArg x.settled (if_pos hst)
      rw [hinit, Issue.settled_mem]
      obtain ⟨hvld, hpoisoned, harmed, hnm, hpl, hmb⟩ := State.header_initObj d ho hmir harm
      refine ⟨hvld, hpoisoned, harmed, hnm, hpl, hmb, fun b hb => ?_, fun loc b hloc hb => ?_, ?_⟩
      · exact State.byte_initObj_payload d ho hmir harm (hpl ▸ hb)
      · exact State.byte_initObj_outside d ho hmir harm hloc (hpl ▸ hb)
      · exact congrArg CObj.armed (State.obj_initObj d)
  case arm =>
    intro s f a x va pa hready hcheck hbusy htracks hwave
    refine ⟨exec_cobjArm_invalid hready rfl rfl hcheck hbusy htracks hwave, fun hvld hcrypt n hms => ?_, fun hvld hcrypt ms hms => ?_⟩
    · exact exec_cobjArm_refused hready rfl rfl hcheck hbusy htracks hwave hvld hcrypt hms
    · obtain ⟨harmed, hmethods, hva⟩ := s.obj_armObj x va a ms
      exact ⟨_, exec_cobjArm_arms hready rfl rfl hcheck hbusy htracks hwave hvld hcrypt hms, harmed, hmethods, hva, State.header_armObj (x := x) (va := va) ms⟩
  case query =>
    intro s f a x pa hready hcheck hquiet hwave hpois hd hcrypt
    exact exec_cobjQuery hready rfl hcheck hquiet hwave hpois hd hcrypt

end Sys2Proof.Machine
end

section
/-!
PROOFS. Requests on their way (R165, R180, R185): a request found again after a change of the list, and what a request that completes leaves alone.
-/

namespace Sys2Proof.Machine

/-! ## A request found -/

theorem State.id_of_findReq {s : State} {id : Nat} {r : Req} (h : s.findReq id = some r) : r.id = id := by
  simpa using List.find?_some h

/-- A change of the requests that keeps their names changes the one found. -/
theorem find?_map_id {l : List Req} {f : Req → Req} (hf : ∀ r, (f r).id = r.id) (id : Nat) :
    (l.map f).find? (fun r => r.id == id) = (l.find? fun r => r.id == id).map f := by
  rw [List.find?_map]
  congr 2
  funext r
  simp [hf]

theorem State.findReq_modReq (s : State) (n : Nat) {f : Req → Req} (hf : ∀ r, (f r).id = r.id) (id : Nat) :
    (s.modReq n f).findReq id = (s.findReq id).map fun r => if r.id == n then f r else r :=
  find?_map_id (fun r => by split <;> simp [hf]) id

theorem State.findReq_modReq_self {s : State} {f : Req → Req} (hf : ∀ r, (f r).id = r.id) {id : Nat} {r : Req} (h : s.findReq id = some r) :
    (s.modReq id f).findReq id = some (f r) := by
  rw [s.findReq_modReq _ hf, h, Option.map_some, if_pos (by simpa using State.id_of_findReq h)]

theorem State.findReq_modReq_ne {s : State} {n : Nat} {f : Req → Req} (hf : ∀ r, (f r).id = r.id) {id : Nat} {r : Req} (h : s.findReq id = some r)
    (hn : id ≠ n) : (s.modReq n f).findReq id = some r := by
  rw [s.findReq_modReq _ hf, h, Option.map_some, if_neg (by simpa [State.id_of_findReq h] using hn)]

theorem State.findReq_dropReq_self (s : State) (id : Nat) : (s.dropReq id).findReq id = none := by
  simp [State.findReq, State.dropReq]

/-- What leaves the core is marked so, and no more. -/
theorem State.findReq_leave (s : State) (ids : List Nat) {r : Req} (h : s.findReq r.id = some r) :
    ∃ b, (s.leave ids).findReq r.id = some { r with left := b } := by
  unfold State.leave
  split
  · exact ⟨r.left, h⟩
  · refine ⟨if ids.contains r.id && (r.left || s.clear r) then true else r.left, ?_⟩
    rw [State.findReq, find?_map_id (fun q => by split <;> rfl), show s.fab.reqs.find? (fun q => q.id == r.id) = some r from h, Option.map_some]
    split <;> rfl

/-- What a request of its own leaves behind lies among the requests alone. -/
theorem State.leave_eq (s : State) (ids : List Nat) : ∃ l, s.leave ids = { s with fab := { s.fab with reqs := l } } := by
  unfold State.leave
  split
  · exact ⟨s.fab.reqs, rfl⟩
  · exact ⟨_, rfl⟩

/-! ## A request that completes (R180, R207) -/

/-- The cores of two states differ in their job windows at most. -/
def keepsCores (s t : State) : Prop := ∀ d, ∃ win, t.core d = { s.core d with window := win }

theorem keepsCores_of_eq {s t : State} (h : t.cores = s.cores) : keepsCores s t := fun d => ⟨(s.core d).window, by rw [State.core, h]; rfl⟩

theorem keepsCores.trans {s t u : State} (h : keepsCores s t) (h' : keepsCores t u) : keepsCores s u := by
  intro d
  obtain ⟨win, e⟩ := h d
  obtain ⟨win', e'⟩ := h' d
  exact ⟨win', by rw [e', e]⟩

theorem keepsCores.same {s t : State} (h : keepsCores s t) : sameRegs s t ∧ sameScratch s t := by
  refine sameRegs_of_keepsCore fun d => ?_
  obtain ⟨win, e⟩ := h d
  rw [e]
  exact ⟨rfl, rfl, rfl, rfl⟩

theorem keepsCores.warps {s t : State} (h : keepsCores s t) (c b : Nat) : ((t.core c).block b).warps = ((s.core c).block b).warps := by
  obtain ⟨win, e⟩ := h c
  rw [e]
  rfl

/-- An access that is no load takes nothing back for a copy but its end. -/
theorem State.copyTook_keeps (s : State) {r : Req} (hk : r.kind ≠ .load) (v : BitVec 128) (pois : Bool) :
    (s.copyTook r v pois).mem = s.mem ∧ (s.copyTook r v pois).fab = s.fab ∧ keepsCores s (s.copyTook r v pois) := by
  unfold State.copyTook
  split
  · exact ⟨rfl, rfl, keepsCores_of_eq rfl⟩
  · split
    · exact ⟨rfl, rfl, keepsCores_of_eq rfl⟩
    · exact s.copyDone_keeps _ _

/-- The request as it waits for its write-back. -/
def Req.answered (r : Req) (pois : Bool) (replies : List (BitVec 128)) : Req := { r with done := true, pois := pois, replies := replies }

/-- What a request moved is counted, and an acquire at system scope discards the peer-read cache (R44, R201). -/
def State.moved (s : State) (r : Req) : State :=
  if r.acq && r.sco == 3 then (s.moves (s.ctx r.ctx).rcb r.home.loc).dropPeerReads else s.moves (s.ctx r.ctx).rcb r.home.loc

theorem State.moved_keeps (s : State) (r : Req) :
    (s.moved r).fab = s.fab ∧ (s.moved r).cores = s.cores ∧ ∀ loc b, (s.moved r).mem.byte loc b = s.mem.byte loc b := by
  obtain ⟨rs, hmoves⟩ := s.moves_eq (s.ctx r.ctx).rcb r.home.loc
  rw [State.moved, hmoves]
  split
  · exact ⟨rfl, rfl, fun _ _ => rfl⟩
  · exact ⟨rfl, rfl, fun _ _ => rfl⟩

/-- A request that waits for its write-back where a part awaits its reply, and is gone where none does. -/
def State.settleReq (s : State) (r : Req) (pois : Bool) (replies : List (BitVec 128)) : State :=
  if r.parts.any r.wants then s.modReq r.id fun q => q.answered pois replies else s.dropReq r.id

theorem State.settleReq_keeps (s : State) (r : Req) (pois : Bool) (replies : List (BitVec 128)) :
    (s.settleReq r pois replies).mem = s.mem ∧ (s.settleReq r pois replies).cores = s.cores := by
  unfold State.settleReq
  split <;> exact ⟨rfl, rfl⟩

theorem State.complete_eq (s : State) {r : Req} (hk : r.kind ≠ .load) (pois : Bool) (replies : List (BitVec 128)) : s.complete r pois replies =
    (((s.moved r).settleReq r pois replies).copyTook r (replies.headD 0) pois).retire r.core r.block := by
  unfold State.complete
  simp only [if_neg hk]
  rfl

/-- A request that completes while its block holds a warp. -/
theorem State.complete_spec (s : State) {r : Req} (hk : r.kind ≠ .load) (hw : ((s.core r.core).block r.block).warps ≠ []) (pois : Bool)
    (replies : List (BitVec 128)) : let t := s.complete r pois replies
    (∀ loc b, t.mem.byte loc b = s.mem.byte loc b) ∧ keepsCores s t ∧ t.fab = ((s.moved r).settleReq r pois replies).fab := by
  obtain ⟨-, hmc, hmb⟩ := s.moved_keeps r
  obtain ⟨hsm, hsc⟩ := (s.moved r).settleReq_keeps r pois replies
  obtain ⟨htm, htf, htc⟩ := ((s.moved r).settleReq r pois replies).copyTook_keeps hk (replies.headD 0) pois
  have hkeeps := (keepsCores_of_eq (hsc.trans hmc)).trans htc
  rw [s.complete_eq hk, State.retire_of_warps (by rwa [hkeeps.warps])]
  exact ⟨fun loc b => by rw [htm, hsm, hmb], hkeeps, htf⟩

/-- The request that completes, where it is found afterwards, has its replies. -/
theorem State.findReq_settleReq {s : State} {r r' q : Req} (h : s.findReq r.id = some r') {pois : Bool} {replies : List (BitVec 128)}
    (hq : (s.settleReq r pois replies).findReq r.id = some q) : q = r'.answered pois replies := by
  unfold State.settleReq at hq
  split at hq
  · rw [State.findReq_modReq_self (f := fun q => q.answered pois replies) (fun _ => rfl) h] at hq
    exact (Option.some.inj hq).symm
  · rw [State.findReq_dropReq_self] at hq
    cases hq

end Sys2Proof.Machine
end

section
/-!
PROOFS. ATOMs at their homes (R162, R163, R167, R180): the parts of a request applied one after another, the operations on integers, and the access
performed.
-/

namespace Sys2Proof.Machine

/-! ## The parts of an ATOM (R163, R167) -/

/-- Parts applied to a value go on from what the parts before left. -/
theorem foldl_atomNew (op : Nat) (ty : BitVec 4) (ps : List Part) (v : DWord) (l : List DWord) :
    ps.foldl (fun acc p => (atomNew op ty acc.1 p.opr p.cmp, acc.2 ++ [acc.1])) (v, l) = ((atomRun op ty v ps).1, l ++ (atomRun op ty v ps).2) := by
  induction ps generalizing v l with
  | nil => simp [atomRun]
  | cons p ps ih =>
    have h : atomRun op ty v (p :: ps) = _ := ih _ ([] ++ [v])
    rw [List.foldl_cons, ih, h, List.append_assoc, List.nil_append]

theorem atomRun_cons (op : Nat) (ty : BitVec 4) (v : DWord) (p : Part) (ps : List Part) : atomRun op ty v (p :: ps) =
    ((atomRun op ty (atomNew op ty v p.opr p.cmp) ps).1, v :: (atomRun op ty (atomNew op ty v p.opr p.cmp) ps).2) :=
  foldl_atomNew op ty ps _ _

/-- A request into which none has merged is its own one member. -/
theorem runMembers_alone (r : Req) (v : DWord) : runMembers r v [r] = ((atomRun r.op r.ty v r.parts).1, [(r, (atomRun r.op r.ty v r.parts).2)]) := rfl

/-! ## The operations on integers (R162) -/

theorem isFloat_of_isInt {ty : BitVec 4} (h : isInt ty = true) : isFloat ty = false := by revert ty; decide

/-- What the bits of an integer type stand for lies in its range. -/
theorem intOf_mem_range (ty : BitVec 4) {x : Nat} (hx : x < 2 ^ elemW ty) : intLo ty ≤ intOf ty x ∧ intOf ty x ≤ intHi ty := by
  obtain ⟨w, hw⟩ := Nat.exists_eq_add_one.mpr (elemW_pos ty)
  have hcast : (x : Int) < 2 ^ w * 2 := by rw [hw, pow_succ] at hx; exact_mod_cast hx
  have hpow : (2 : Int) ^ (w + 1) = 2 ^ w * 2 := pow_succ 2 w
  simp only [intLo, intHi, intOf, hw, Nat.add_sub_cancel, hpow]
  cases isSigned ty with
  | false => simp only [Bool.false_and, Bool.false_eq_true, if_false]; omega
  | true =>
    simp only [Bool.true_and, decide_eq_true_eq, if_true]
    split
    · next h => have h' : (2 : Int) ^ w ≤ x := by exact_mod_cast h
                omega
    · next h => have h' : (x : Int) < 2 ^ w := by exact_mod_cast not_le.1 h
                omega

section Ints

variable {ty : BitVec 4} (op : Int → Int → Int) (a b : DWord) {e : Nat} (he : e < elemN ty)
include he

/-- An operation that wraps gives each element the bits of its exact result. -/
theorem elem_intOp2 : elem ty (intOp2 ty 0 op a b) e = wrapInt (elemW ty) (op (intOf ty (elem ty a e)) (intOf ty (elem ty b e))) :=
  elem_pack_of_lt ty _ he (wrapInt_lt _ _)

theorem intOf_intOp2 (hop : ∀ m n, op m n = m ∨ op m n = n) :
    intOf ty (elem ty (intOp2 ty 0 op a b) e) = op (intOf ty (elem ty a e)) (intOf ty (elem ty b e)) := by
  have hrange : ∀ v : DWord, intLo ty ≤ intOf ty (elem ty v e) ∧ intOf ty (elem ty v e) ≤ intHi ty := fun v =>
    intOf_mem_range ty (Nat.mod_lt _ (by positivity))
  rw [elem_intOp2 op a b he]
  obtain h | h := hop (intOf ty (elem ty a e)) (intOf ty (elem ty b e))
  · rw [h, intOf_wrapInt ty (hrange a).1 (hrange a).2]
  · rw [h, intOf_wrapInt ty (hrange b).1 (hrange b).2]

end Ints

theorem cast_wrapInt (w : Nat) (x : Int) : ((wrapInt w x : Nat) : Int) = x % 2 ^ w := Int.toNat_of_nonneg (Int.emod_nonneg _ (by positivity))

/-- ADD, MIN and MAX of an integer type, element by element. -/
theorem atomNew_int {ty : BitVec 4} (hty : isInt ty = true) (a b d : DWord) {e : Nat} (he : e < elemN ty) :
    (elem ty (atomNew 0 ty a b d) e : Int) = (intOf ty (elem ty a e) + intOf ty (elem ty b e)) % 2 ^ elemW ty
    ∧ intOf ty (elem ty (atomNew 1 ty a b d) e) = min (intOf ty (elem ty a e)) (intOf ty (elem ty b e))
    ∧ intOf ty (elem ty (atomNew 2 ty a b d) e) = max (intOf ty (elem ty a e)) (intOf ty (elem ty b e)) := by
  simp only [atomNew, isFloat_of_isInt hty, Bool.false_eq_true, if_false]
  refine ⟨?_, intOf_intOp2 min a b he fun m n => ?_, intOf_intOp2 max a b he fun m n => ?_⟩
  · rw [elem_intOp2 _ a b he, cast_wrapInt]
  · exact min_choice m n
  · exact max_choice m n

/-! ## The access performed (R167, R180) -/

section Perform

variable {s : State} {r : Req} (ho : s.openMem = true) (harm : ∀ o ∈ s.fab.objs, o.2.armed = false) (hloc : r.home.loc < 3)

/-- The state in which an ATOM has written its word. -/
def State.atomWrote (s : State) (r : Req) (v : DWord) : State :=
  ((s.homeWrite r.home (leBytes r.len v.toNat)).mirrorSend r [r] (leBytes r.len v.toNat)).homeTouch r true

theorem State.mirrorSend_keeps (s : State) (r : Req) (rs : List Req) (bs : List Byte) :
    (s.mirrorSend r rs bs).cores = s.cores ∧ (s.mirrorSend r rs bs).fab.reqs = s.fab.reqs := by
  unfold State.mirrorSend
  split
  · exact ⟨State.mirrorPut_cores _ _ _ _ _, State.mirrorPut_reqs _ _ _ _ _⟩
  · exact ⟨rfl, rfl⟩

theorem State.homeTouch_keeps (s : State) (r : Req) (d : Bool) :
    (s.homeTouch r d).cores = s.cores ∧ (s.homeTouch r d).fab = s.fab ∧ ∀ loc b, (s.homeTouch r d).mem.byte loc b = s.mem.byte loc b := by
  unfold State.homeTouch
  split
  · exact ⟨rfl, rfl, fun loc b => Mem.byte_touchLine _ _ _ _ _ _⟩
  · exact ⟨rfl, rfl, fun _ _ => rfl⟩

include harm in
theorem State.storeGlobal_unarmed (loc a : Nat) (bs : List Byte) : s.storeGlobal loc a bs = s.writeMem loc a bs := by
  have h : s.armedHeader loc a bs.length = false := by
    rw [State.armedHeader, Bool.and_eq_false_iff]
    right
    rw [List.any_eq_false]
    intro o hmem hc
    simp [harm o hmem] at hc
  rw [State.storeGlobal, h, if_neg Bool.false_ne_true]

include ho harm hloc in
/-- The word holds the value and no other byte changes. -/
theorem State.atomWrote_spec (v : DWord) : (s.atomWrote r v).cores = s.cores ∧ (s.atomWrote r v).fab.reqs = s.fab.reqs
    ∧ ∀ loc b, loc < 3 → (s.atomWrote r v).mem.byte loc b =
      if loc = r.home.loc ∧ r.home.addr ≤ b ∧ b < r.home.addr + r.len then BitVec.ofNat 8 (v.toNat / 256 ^ (b - r.home.addr)) else s.mem.byte loc b := by
  have hwrite : s.homeWrite r.home (leBytes r.len v.toNat) = s.writeMem r.home.loc r.home.addr (leBytes r.len v.toNat) := by
    rw [State.homeWrite, if_neg (by omega), State.storeGlobal_unarmed harm]
  obtain ⟨hc, hf, hb⟩ := State.homeTouch_keeps ((s.writeMem r.home.loc r.home.addr (leBytes r.len v.toNat)).mirrorSend r [r] (leBytes r.len v.toNat)) r true
  obtain ⟨hc', hr'⟩ := (s.writeMem r.home.loc r.home.addr (leBytes r.len v.toNat)).mirrorSend_keeps r [r] (leBytes r.len v.toNat)
  rw [State.atomWrote, hwrite]
  refine ⟨by rw [hc, hc', State.writeMem_cores], by rw [hf, hr', State.writeMem_fab], fun loc b h => ?_⟩
  rw [hb, State.mirrorSend_mem, State.byte_writeMem ho _ _ _ hloc h, length_leBytes]
  split
  · next h => rw [getD_leBytes _ (by omega)]
  · rfl

/-- An ATOM into which none has merged, on a word that is not poisoned, writes its word and is performed. -/
theorem State.performAtom_alone (old : DWord) (hloc : r.home.loc < 3) (hmerge : r.merge = []) (hpois : s.homePoison r.home r.len = false) :
    s.performAtom r old = (s.atomWrote r (atomRun r.op r.ty old r.parts).1).performed r false
      ((atomRun r.op r.ty old r.parts).2.map fun d => d.setWidth 128)
      ((atomRun r.op r.ty old r.parts).2.flatMap fun d => leBytes r.len d.toNat) := by
  have hmembers : s.members r = [r] := by rw [State.members, hmerge]; rfl
  have hconf : ∀ t : State, t.countConf r = t := fun t => if_pos (.inl (by omega))
  simp only [State.performAtom, hpois, hmembers, runMembers_alone, Bool.false_eq_true, if_false, hconf, List.foldl_cons, List.foldl_nil]
  rfl

/-- An unmerged ATOM that may be performed, has a way to its home and need not cross a link first is one access there (R162, R167). -/
theorem exec_atomHomePerform (hfound : s.findReq r.id = some r) (hkind : r.kind = .atom) (hdone : r.done = false) (hans : r.ans = none)
    (hinto : r.into = false) (hsplit : r.split = none) (hmay : s.mayPerform r = true) (hheld : s.waveHolds r.home r.len = false)
    (hloc : r.home.loc < 3) (hsa : r.home.loc = 2 → r.sa = true) (hcut : s.cutOff r = false) (hsent : s.unsent r = false) (ho : s.openMem = true) :
    exec (.atomHomePerform r.id) s = .next ((s.leaveFirst r).performAtom r (BitVec.ofNat 64 (s.mem.readNat r.home.loc r.home.addr r.len))) := by
  obtain ⟨l, hleave⟩ := s.leave_eq (r.leaves.filter (· != r.id))
  have hmem : (s.leaveFirst r).mem = s.mem := s.leaveFirst_mem r
  have hopen : (s.leaveFirst r).openMem = true := by rw [State.leaveFirst, hleave]; exact ho
  have hmeet : (s.leaveFirst r).homeMeet r.home r.len = s.leaveFirst r := if_neg (by omega)
  have hread : (s.leaveFirst r).denyRead r.home.loc r.home.addr r.len = s.leaveFirst r := by
    rw [State.denyRead, State.closed_of_openMem hopen, if_neg Bool.false_ne_true]
  have hnat : (s.leaveFirst r).homeNat r.home r.len = s.mem.readNat r.home.loc r.home.addr r.len := by
    rw [State.homeNat, if_neg (by omega), State.readGlobal, if_pos hopen, hmem]
  have hnow : (r.kind != .atom || r.into || s.notYet r) = false := by simp [hkind, hinto, State.notYet, hdone, hans, hmay, hheld]
  have hone : ¬ (r.home.loc = 2 ∧ (!r.sa) = true) := by
    rintro ⟨h, hn⟩
    simp [hsa h] at hn
  change Host.Outcome.next _ = _
  simp only [hfound, hnow, hcut, hsent, Bool.false_eq_true, if_false, hmeet, hread, hnat, hsplit, if_neg hone]

/-- One at a peer has crossed its link. -/
theorem State.sent_of_unsent (hkind : r.kind = .atom) (hsent : s.unsent r = false) (h : r.home.loc = 1) : r.sent.isSome = true := by
  cases he : r.sent with
  | some p => rfl
  | none => simp [State.unsent, h, State.peerHit, hkind, he] at hsent

/-- A request that its peer has performed, and whose answer is on its way back (R180). -/
def Req.atPeer (q : Req) (pois : Bool) (replies : List (BitVec 128)) (raw : List Byte) : Req :=
  { q with ans := some raw, pois := pois, replies := replies }

/-- What performing an unmerged ATOM leaves: its word, its replies, and, at a peer, the request that waits for the answer (R180). -/
theorem State.performAtom_spec (ho : s.openMem = true) (harm : ∀ o ∈ s.fab.objs, o.2.armed = false) (hloc : r.home.loc < 3) {r' : Req}
    (hfound : s.findReq r.id = some r') (hdone : r'.done = false) (hkind : r.kind = .atom) (hmerge : r.merge = [])
    (hpois : s.homePoison r.home r.len = false) (hwarps : ((s.core r.core).block r.block).warps ≠ []) (hsent : r.home.loc = 1 → r.sent.isSome = true)
    (old : DWord) : let t := s.performAtom r old
    let run := atomRun r.op r.ty old r.parts
    (∀ loc b, loc < 3 → t.mem.byte loc b = if loc = r.home.loc ∧ r.home.addr ≤ b ∧ b < r.home.addr + r.len
        then BitVec.ofNat 8 (run.1.toNat / 256 ^ (b - r.home.addr)) else s.mem.byte loc b)
    ∧ (∀ q, t.findReq r.id = some q → q.replies = run.2.map (fun d => d.setWidth 128) ∧ (r.home.loc ≠ 1 → q.done = true))
    ∧ (r.home.loc = 1 → ∃ q, t.findReq r.id = some q ∧ q.done = false ∧ q.ans.isSome = true)
    ∧ keepsCores s t := by
  intro t run
  have ht : t = _ := State.performAtom_alone old hloc hmerge hpois
  obtain ⟨hc, hr, hb⟩ := State.atomWrote_spec ho harm hloc run.1
  have hw : (s.atomWrote r run.1).findReq r.id = some r' := by rw [State.findReq, hr]; exact hfound
  have hkeeps := keepsCores_of_eq hc
  rw [ht, State.performed]
  by_cases h1 : r.home.loc = 1
  · have hq := State.findReq_modReq_self (f := fun q => q.atPeer false (run.2.map fun d => d.setWidth 128)
      (run.2.flatMap fun d => leBytes r.len d.toNat)) (fun _ => rfl) hw
    rw [if_pos ⟨h1, hsent h1⟩]
    refine ⟨hb, fun q hq' => ?_, fun _ => ⟨_, hq, hdone, rfl⟩, hkeeps⟩
    obtain rfl := Option.some.inj (hq'.symm.trans hq)
    exact ⟨rfl, fun h => absurd h1 h⟩
  · rw [if_neg fun h => h1 h.1]
    have hne : r.kind ≠ .load := by rw [hkind]; nofun
    obtain ⟨htb, htk, htf⟩ := (s.atomWrote r run.1).complete_spec hne (by rwa [hkeeps.warps]) false (run.2.map fun d => d.setWidth 128)
    refine ⟨fun loc b h => (htb loc b).trans (hb loc b h), fun q hq => ?_, fun h => absurd h h1, hkeeps.trans htk⟩
    have hmoved : ((s.atomWrote r run.1).moved r).findReq r.id = some r' := by
      rw [State.findReq, ((s.atomWrote r run.1).moved_keeps r).1]
      exact hw
    rw [State.findReq, htf] at hq
    rw [State.findReq_settleReq hmoved hq]
    exact ⟨rfl, fun _ => rfl⟩

end Perform

end Sys2Proof.Machine
end

section
/-!
PROOFS. Requests that arrive (R165, R170, R185): two ATOMs that merge at a router, a CMB at its object, and the statement on ATOMs performed.
-/

namespace Sys2Proof.Machine

/-! ## What fewer requests let through (R185) -/

section Fewer

variable {s t : State} (hsub : ∀ q ∈ t.fab.reqs, q ∈ s.fab.reqs)
include hsub

theorem State.awaited_of_subset {id : Nat} (h : t.awaited id = true) : s.awaited id = true := by
  obtain ⟨q, hq, hid⟩ := List.any_eq_true.1 h
  exact List.any_eq_true.2 ⟨q, hsub q hq, hid⟩

theorem State.clear_of_subset {r : Req} (h : s.clear r = true) : t.clear r = true := by
  simp only [State.clear, Bool.and_eq_true, Bool.not_eq_true', List.all_eq_true, List.any_eq_false] at h ⊢
  obtain ⟨hafter, hheld⟩ := h
  refine ⟨fun id hid => ?_, fun q hq => hheld q (hsub q hq)⟩
  exact Bool.eq_false_iff.2 fun ht => absurd (State.awaited_of_subset hsub ht) (ne_true_of_eq_false (hafter id hid))

theorem State.ahead_of_subset {r : Req} (h : s.ahead r = true) : t.ahead r = true := by
  simp only [State.ahead, List.all_eq_true, Bool.or_eq_true] at h ⊢
  intro id hid q hq
  exact (h id hid q (hsub q hq)).imp_right (State.clear_of_subset hsub)

/-- A request that may be performed may be performed where fewer are on their way. -/
theorem State.mayPerform_of_subset {r : Req} (h : s.mayPerform r = true) : t.mayPerform r = true := by
  simp only [State.mayPerform, Bool.or_eq_true, Bool.and_eq_true] at h ⊢
  exact h.imp_right fun h => ⟨State.clear_of_subset hsub h.1, State.ahead_of_subset hsub h.2⟩

end Fewer

/-! ## Merging (R165) -/

/-- An entry with the tags of a request that merges into it. -/
def Req.taking (a q : Req) : Req := { q with merge := q.merge ++ a.id :: a.merge }

/-- A request that has merged into another. -/
def Req.merged (q : Req) : Req := { q with into := true, merge := [] }

/-- Two ATOMs merged: the entry has the tags of both, in merge order. -/
def State.mergeReqs (s : State) (e a : Req) : State := (s.modReq e.id a.taking).modReq a.id Req.merged

section Merge

variable {s : State} {e a : Req} (he : s.findReq e.id = some e) (ha : s.findReq a.id = some a)
include he ha

theorem exec_routerRequestArrival_merges (hne : e.id ≠ a.id) (hem : e.mergeable = true) (ham : a.mergeable = true) (hhome : e.home = a.home)
    (hop : e.op = a.op) (hty : e.ty = a.ty) (hlen : e.len = a.len) (hpe : s.mayPerform e = true) (hpa : s.mayPerform a = true)
    (htags : e.merge.length + a.merge.length + 2 ≤ 8) : exec (.routerRequestArrival e.id a.id) s = .next (s.mergeReqs e a) := by
  have hfollow : s.mayFollow e a = true := State.mayPerform_of_subset (fun _ hq => List.mem_of_mem_filter hq) hpa
  change Host.Outcome.next _ = _
  simp only [he, ha]
  rw [if_pos (by simp only [hne, hem, ham, hhome, hop, hty, hlen, hpe, htags, hfollow, ne_eq, not_false_eq_true, decide_true, beq_self_eq_true,
    Bool.and_self])]
  rfl

theorem exec_routerRequestArrival_passes (htags : ¬ e.merge.length + a.merge.length + 2 ≤ 8) : exec (.routerRequestArrival e.id a.id) s = .next s := by
  change Host.Outcome.next _ = _
  simp only [he, ha]
  rw [if_neg (by simp only [htags, decide_false, Bool.and_false, Bool.false_and, Bool.false_eq_true, not_false_eq_true])]

theorem State.findReq_mergeReqs (hne : e.id ≠ a.id) :
    (s.mergeReqs e a).findReq e.id = some (a.taking e) ∧ (s.mergeReqs e a).findReq a.id = some a.merged := by
  have htaking : ∀ q, (a.taking q).id = q.id := fun _ => rfl
  have hmerged : ∀ q, (Req.merged q).id = q.id := fun _ => rfl
  exact ⟨State.findReq_modReq_ne hmerged (State.findReq_modReq_self htaking he) hne,
    State.findReq_modReq_self hmerged (State.findReq_modReq_ne htaking ha hne.symm)⟩

end Merge

/-! ## A CMB arrives (R170) -/

/-- A lone request has nothing ahead of it to leave the core. -/
theorem State.leaveFirst_alone {s : State} {r : Req} (h : s.fab.reqs = [r]) : s.leaveFirst r = s := by
  unfold State.leaveFirst State.leave
  split
  · rfl
  · have hself : (r.leaves.filter (· != r.id)).contains r.id = false := by simp
    simp only [h, List.map_cons, List.map_nil, hself, Bool.false_and, Bool.false_eq_true, if_false]
    rw [← h]

theorem exec_cmbRequestArrival_alone {s : State} {r : Req} (h : s.fab.reqs = [r]) (hk : r.kind = .cmb) (hdone : r.done = false)
    (hnew : (s.obj r.home.addr).holds r.id = false) (hmay : s.mayArrive r = true) : exec (.cmbRequestArrival r.id) s = .next (s.cmbArrive r) := by
  have hfound : s.findReq r.id = some r := by simp [State.findReq, h]
  have hmates : (s.fab.reqs.filter fun q => q.kind == .cmb && q.inst == r.inst && q.uid == r.uid && !q.done
      && objSlice q.home.addr == objSlice r.home.addr && !(s.obj q.home.addr).holds q.id) = [r] := by
    rw [h, List.filter_singleton]
    simp [hk, hdone, hnew]
  change Host.Outcome.next _ = _
  simp only [hfound, hmates, List.any_cons, List.any_nil, beq_self_eq_true, Bool.true_or, List.all_cons, List.all_nil, hmay, Bool.and_self, if_true,
    List.foldl_cons, List.foldl_nil, State.leaveFirst_alone h]

theorem State.cmbArrive_answers {s : State} {r : Req} {st : Nat} (h : s.cmbStatus r = some st) : s.cmbArrive r = s.answer r st 0 := by
  rw [State.cmbArrive, h]

theorem State.cmbArrive_waits {s : State} {r : Req} (h : s.cmbStatus r = none) : s.cmbArrive r =
    { s.modObj r.home.addr fun o => { o with trug := o.trug ++ [(s.nextId, r.id)] } with nextId := s.nextId + 1 } := by
  rw [State.cmbArrive, h]

/-- Settles O31: an ATOM performed is its word written and its replies kept; what may be performed alone may follow the entry into which it merges;
and a lone CMB arrives as its object's status says. -/
theorem atomsPerform : Obligations.AtomsPerform := by
  refine ⟨⟨?perform, ?run, ?new⟩, ?merge, ?arrive⟩
  case perform =>
    intro s r hfound hkind hdone hans hinto hmerge hsplit hmay hheld hloc hsa hpois hcut hunsent hwarps ho harm _ run
    have hexec := exec_atomHomePerform hfound hkind hdone hans hinto hsplit hmay hheld hloc hsa hcut hunsent ho
    obtain ⟨l, hleave⟩ := s.leave_eq (r.leaves.filter (· != r.id))
    obtain ⟨b, hfound'⟩ := s.findReq_leave (r.leaves.filter (· != r.id)) hfound
    rw [State.leaveFirst] at hexec
    rw [hleave] at hexec hfound'
    have hpois' : ({ s with fab := { s.fab with reqs := l } } : State).homePoison r.home r.len = false := hpois
    obtain ⟨hbytes, hreply, hpeer, hkeeps⟩ := State.performAtom_spec (s := { s with fab := { s.fab with reqs := l } }) ho harm hloc hfound' hdone hkind
      hmerge hpois' hwarps (State.sent_of_unsent hkind hunsent) (BitVec.ofNat 64 (s.mem.readNat r.home.loc r.home.addr r.len))
    exact ⟨_, hexec, hbytes, hreply, hpeer, hkeeps.same.2, hkeeps.same.1⟩
  case run =>
    intro op ty v p ps
    rw [atomRun_cons]
    exact ⟨rfl, rfl, rfl⟩
  case new =>
    intro ty a b d _ int
    exact ⟨fun hty e he => atomNew_int hty a b d he, rfl, rfl, rfl, rfl, rfl⟩
  case merge =>
    intro s e a he ha hne hem ham hhome hop hty hlen hpe hpa
    split
    · next htags =>
      obtain ⟨hentry, harriving⟩ := State.findReq_mergeReqs he ha hne
      exact ⟨_, exec_routerRequestArrival_merges he ha hne hem ham hhome hop hty hlen hpe hpa htags, hentry, harriving, rfl, rfl⟩
    · next htags => exact exec_routerRequestArrival_passes he ha htags
  case arrive =>
    intro s r h hk hdone hnew hmay
    rw [exec_cmbRequestArrival_alone h hk hdone hnew hmay]
    refine ⟨fun st hst => by rw [State.cmbArrive_answers hst], fun hst => ?_⟩
    rw [State.cmbArrive_waits hst]
    refine ⟨_, rfl, ?_, rfl, rfl, rfl⟩
    exact congrArg CObj.trug (s.obj_modObj_self r.home.addr fun o => { o with trug := o.trug ++ [(s.nextId, r.id)] })

end Sys2Proof.Machine
end

section
/-!
PROOFS. Requests sent (R161, R180, R267): what an instruction sends stands behind the requests on their way, as it was made but for its name and for
what it waits for.
-/

namespace Sys2Proof.Machine

/-- A request, wherever it has got to on its way. -/
def Req.wherever (r : Req) : Req := { r with tracked := false, sent := none, left := false }

/-- A request as its instruction made it: without its name, the bank cycles that it counts and what it waits for. -/
def Req.asMade (r : Req) : Req := { r with id := 0, conf := 0, after := [], leaves := [], wide := false }

/-! ## On the way -/

theorem map_wherever {l : List Req} {f : Req → Req} (hf : ∀ r, (f r).wherever = r.wherever) : (l.map f).map Req.wherever = l.map Req.wherever := by
  rw [List.map_map]
  exact List.map_congr_left fun r _ => hf r

/-- What only moves requests on their way, and changes no core. -/
def movesReqs (s t : State) : Prop := t.cores = s.cores ∧ t.fab.reqs.map Req.wherever = s.fab.reqs.map Req.wherever

theorem Fab.wherever_sentOn (f : Fab) (id p : Nat) : (f.sentOn id p).reqs.map Req.wherever = f.reqs.map Req.wherever :=
  map_wherever fun r => by split <;> rfl

theorem State.movesReqs_transmit (s : State) (r : Req) : movesReqs s (s.transmit r) := by
  unfold State.transmit
  split
  · exact ⟨rfl, rfl⟩
  split
  · cases s.hostPort with
    | none => exact ⟨rfl, rfl⟩
    | some p => exact ⟨rfl, s.fab.wherever_sentOn r.id p⟩
  · cases s.routePort (r.home.addr / 2 ^ 40) with
    | none => exact ⟨rfl, rfl⟩
    | some p => exact ⟨rfl, s.fab.wherever_sentOn r.id p⟩

theorem State.movesReqs_leave (s : State) (ids : List Nat) : movesReqs s (s.leave ids) := by
  unfold State.leave
  split
  · exact ⟨rfl, rfl⟩
  · exact ⟨rfl, map_wherever fun r => by split <;> rfl⟩

theorem State.movesReqs_track (s : State) (uid : Nat) (m : BitVec 8) (upTo : Nat) : movesReqs s (s.track uid m upTo) := by
  obtain ⟨hc, hr⟩ := State.movesReqs_leave { s with fab := s.fab.track uid m upTo } (s.fab.covered uid m upTo)
  exact ⟨hc, hr.trans (map_wherever fun r => by split <;> rfl)⟩

/-! ## Sending -/

/-- The requests of a list have been sent, each behind those before it. -/
def sends (s t : State) (rs : List Req) : Prop :=
  t.cores = s.cores ∧ ∃ new, t.fab.reqs.map Req.wherever = (s.fab.reqs ++ new).map Req.wherever ∧ new.map Req.asMade = rs.map Req.asMade

theorem sends_nil (s : State) : sends s s [] := ⟨rfl, [], by rw [List.append_nil], rfl⟩

theorem sends.cons {s t u : State} {q r : Req} {rs : List Req} (hc : t.cores = s.cores)
    (hr : t.fab.reqs.map Req.wherever = (s.fab.reqs ++ [q]).map Req.wherever) (hq : q.asMade = r.asMade) (h : sends t u rs) : sends s u (r :: rs) := by
  obtain ⟨huc, new, hur, hnew⟩ := h
  refine ⟨huc.trans hc, q :: new, ?_, by rw [List.map_cons, List.map_cons, hq, hnew]⟩
  rw [hur, List.map_append, hr, ← List.map_append, List.append_assoc, List.singleton_append]

theorem sends.moved {s t u : State} {rs : List Req} (h : sends s t rs) (hm : movesReqs t u) : sends s u rs := by
  obtain ⟨hc, new, hr, hnew⟩ := h
  exact ⟨hm.1.trans hc, new, hm.2.trans hr, hnew⟩

/-- One request sent after another. -/
theorem sends_foldl {step : State → Req → State}
    (hstep : ∀ t r, (step t r).cores = t.cores ∧ ∃ q : Req, (step t r).fab.reqs.map Req.wherever = (t.fab.reqs ++ [q]).map Req.wherever ∧ q.asMade = r.asMade)
    (rs : List Req) (t : State) : sends t (rs.foldl step t) rs := by
  induction rs generalizing t with
  | nil => exact sends_nil t
  | cons r rs ih =>
    obtain ⟨hc, q, hr, hq⟩ := hstep t r
    exact sends.cons hc hr hq (ih _)

/-- A request queued behind the others, and out on its link at once where it may be. -/
def State.queue (t : State) (q : Req) : State :=
  let u : State := { t with nextId := t.nextId + 1, fab := { t.fab with reqs := t.fab.reqs ++ [q] } }
  if (q.home.loc = 1 ∨ q.home.loc = 2) ∧ u.mayPerform q then u.transmit q else u

theorem State.queue_keeps (t : State) (q : Req) :
    (t.queue q).cores = t.cores ∧ (t.queue q).fab.reqs.map Req.wherever = (t.fab.reqs ++ [q]).map Req.wherever := by
  unfold State.queue
  dsimp only
  split
  · exact State.movesReqs_transmit _ _
  · exact ⟨rfl, rfl⟩

/-- The request that is queued for one made: with its name, and what it waits for among the requests `s` already has and those of `t` of its own
instruction. -/
def State.named (s : State) (all : BitVec 8) (t : State) (r : Req) : Req :=
  let same := (t.fab.reqs.filter fun e => e.inst == r.inst && e.kind == .store && r.kind == .store && e.meets r).map Req.id
  { r with
    id := t.nextId, after := (s.orderAfter r ++ same).dedup, wide := s.wideRelease r
    leaves := if s.narrowRelease r then s.fab.covered r.uid all s.nextId else [] }

/-- The requests of a list queued, each as it is named. -/
def State.queueEach (s : State) (all : BitVec 8) (rs : List Req) : State := rs.foldl (fun t r => t.queue (s.named all t r)) s

theorem State.sends_queueEach (s : State) (all : BitVec 8) (rs : List Req) : sends s (s.queueEach all rs) rs :=
  sends_foldl (fun t r => ⟨(t.queue_keeps _).1, s.named all t r, (t.queue_keeps _).2, rfl⟩) rs s

theorem State.send_eq (s : State) (rs : List Req) :
    s.send rs = ((rs.find? s.narrowRelease).map fun r =>
      (s.queueEach (rs.foldl (fun m q => m ||| q.slices) 0#8) rs).track r.uid (rs.foldl (fun m q => m ||| q.slices) 0#8) s.nextId).getD
        (s.queueEach (rs.foldl (fun m q => m ||| q.slices) 0#8) rs) := by
  unfold State.send
  dsimp only
  cases rs.find? s.narrowRelease <;> rfl

theorem State.sends_send (s : State) (rs : List Req) : sends s (s.send rs) rs := by
  have hall := s.sends_queueEach (rs.foldl (fun m q => m ||| q.slices) 0#8) rs
  rw [State.send_eq]
  cases rs.find? s.narrowRelease with
  | none => exact hall
  | some r => exact hall.moved (State.movesReqs_track _ _ _ _)

section Sent

variable {s t : State} {rs : List Req}

theorem sends.length (h : sends s t rs) : t.fab.reqs.length = s.fab.reqs.length + rs.length := by
  obtain ⟨-, new, hr, hnew⟩ := h
  have hlen := congrArg List.length hr
  have hlen' := congrArg List.length hnew
  simp only [List.length_map, List.length_append] at hlen hlen'
  omega

/-- A request sent is one of those made. -/
theorem exists_asMade_of_mem {new : List Req} (h : new.map Req.asMade = rs.map Req.asMade) {q : Req} (hq : q ∈ new) : ∃ r ∈ rs, q.asMade = r.asMade := by
  obtain ⟨r, hr, he⟩ := List.mem_map.1 (h ▸ List.mem_map_of_mem hq)
  exact ⟨r, hr, he.symm⟩

/-- Of each home as many are sent as were made. -/
theorem length_filter_home {new : List Req} (h : new.map Req.asMade = rs.map Req.asMade) (a : Home) :
    (new.filter fun r => r.home == a).length = (rs.filter fun r => r.home == a).length := by
  have hmap : ∀ l : List Req, ((l.map Req.asMade).filter fun r => r.home == a).length = (l.filter fun r => r.home == a).length := by
    intro l
    rw [List.filter_map, List.length_map]
    rfl
  rw [← hmap, h, hmap]

end Sent

theorem State.map_asMade_withConf (s : State) (rs : List Req) : (s.withConf rs).map Req.asMade = rs.map Req.asMade := by
  cases rs <;> rfl

end Sys2Proof.Machine
end

section
/-!
PROOFS. ATOM and CMB as they issue (R162 to R164, R367 to R369): the lanes checked, one request for each word that they name, and V pending.
-/

namespace Sys2Proof.Machine

/-! ## The lanes that act and pass (R92, R94, R297) -/

theorem Warp.nodup_actingLanes (v : Warp) {ms : List Nat} (hms : ms.Nodup) (gd : BitVec 4) : (v.actingLanes ms gd).Nodup := by
  refine List.nodup_flatMap.2 ⟨fun n _ => ?_, hms.imp fun {m n} hne l hm hn => hne ?_⟩
  · refine List.Nodup.filter _ (List.Nodup.map (fun a b hab => ?_) (List.nodup_range.filter _))
    exact Nat.add_left_cancel hab
  · have hslice : ∀ k, l ∈ (v.activeLanes k).filter (fun l => v.rf.guard gd l) → l / 4 = k := fun k hk => by
      obtain ⟨q, hq, rfl⟩ := List.mem_map.1 (List.mem_of_mem_filter hk)
      have hq4 := List.mem_range.1 (List.mem_of_mem_filter hq)
      omega
    rw [← hslice m hm, ← hslice n hn]

theorem nodup_atomLanes (f : FmtM) {acting : List Nat} (h : acting.Nodup) : (atomLanes f acting).Nodup := by
  unfold atomLanes
  split
  · exact h.sublist (List.take_sublist 1 acting)
  · exact h

/-- What a check answers for a lane that passes is of that lane. -/
def Chk.names (k : Chk) (n : Nat) : Prop := ∀ a, k = .ok a → a.lane = n

section Names

variable {n : Nat}

theorem Chk.names_fault {code : BitVec 8} {fva : DWord} : (Chk.fault code fva).names n := fun _ h => by cases h

theorem Chk.names_absent {va : DWord} : (Chk.absent va).names n := fun _ h => by cases h

theorem Chk.names_ok {a : LaneAcc} (ha : a.lane = n) : (Chk.ok a).names n := fun _ h => Chk.ok.inj h ▸ ha

theorem Chk.names_ite {p : Prop} [Decidable p] {k m : Chk} (hk : k.names n) (hm : m.names n) : (if p then k else m).names n := by
  split
  · exact hk
  · exact hm

theorem State.names_checkGlobal (s : State) (c : Nat) (who : Agent) (r : Region) (w : Want) (eltW bytes : Nat) (va : DWord) :
    (s.checkGlobal c who r w eltW bytes n va).names n := by
  unfold State.checkGlobal
  refine Chk.names_ite Chk.names_fault (Chk.names_ite Chk.names_fault ?_)
  generalize s.translate c who r _ w = tr
  cases tr with
  | fault code => exact Chk.names_fault
  | miss => exact Chk.names_absent
  | ok leaf pa => exact Chk.names_ite Chk.names_fault (Chk.names_ok rfl)

theorem State.names_checkScr (s : State) (c : Nat) (x : Ctx) (eltW bytes : Nat) (va : DWord) : (s.checkScr c x eltW bytes n va).names n := by
  unfold State.checkScr
  cases scrTarget x c (va.setWidth 32) with
  | none => exact Chk.names_fault
  | some p => exact Chk.names_ite Chk.names_fault (Chk.names_ite Chk.names_fault (Chk.names_ite Chk.names_fault (Chk.names_ok rfl)))

theorem State.names_checkLane (s : State) (x : Issue) (f : FmtM) (w : Want) : (s.checkLane x f w n).names n :=
  Chk.names_ite (s.names_checkGlobal _ _ _ _ _ _ _) (s.names_checkScr _ _ _ _ _)

theorem State.names_checkAtom (s : State) (x : Issue) (f : FmtM) (op : Nat) : (s.checkAtom x f op n).names n := by
  have hlane := s.names_checkLane (n := n) x f .update
  unfold State.checkAtom
  cases hc : s.checkLane x f .update n with
  | ok a => exact Chk.names_ite Chk.names_fault (Chk.names_ok (hlane a hc))
  | fault code fva => exact Chk.names_fault
  | absent va => exact Chk.names_absent

end Names

/-- Lanes that pass their checks each stand for themselves. -/
theorem State.lanes_of_checkLanes {s : State} {x : Issue} {lanes : List Nat} {chk : Nat → Chk} {l : List LaneAcc}
    (h : s.checkLanes x lanes chk = .ok l) (hchk : ∀ n, (chk n).names n) : l.map LaneAcc.lane = lanes := by
  unfold State.checkLanes at h
  split at h
  · next hnone =>
    have hall : ∀ n ∈ lanes, ∃ a, chk n = .ok a := fun n hn => by
      have hn' := List.find?_eq_none.1 hnone n hn
      cases hc : chk n with
      | ok a => exact ⟨a, rfl⟩
      | fault code fva => simp [hc] at hn'
      | absent va => simp [hc] at hn'
    rw [← Checked.ok.inj h, List.map_filterMap]
    refine Eq.trans (List.filterMap_congr fun n hn => ?_) List.filterMap_some
    obtain ⟨a, ha⟩ := hall n hn
    simp only [ha, Option.map_some, hchk n a ha]
  · split at h <;> cases h

/-- The lanes of an ATOM that pass are listed once each. -/
theorem State.nodup_of_checkAtom {s : State} {c w j op : Nat} {i : Instr} {f : FmtM} {l : List LaneAcc}
    (h : s.checkLanes (s.gangIssue c w j i) (atomLanes f (s.gangIssue c w j i).acting) (s.checkAtom (s.gangIssue c w j i) f op) = .ok l) : l.Nodup := by
  refine List.Nodup.of_map LaneAcc.lane ?_
  rw [State.lanes_of_checkLanes h fun n => s.names_checkAtom _ f op]
  exact nodup_atomLanes f (Warp.nodup_actingLanes _ (Warp.nodup_gangOf _ _) _)

/-! ## The requests (R162, R163, R368) -/

/-- The lane that a request of an ATOM is made for: the first of its address. -/
def firstOfHome (l : List LaneAcc) (a : LaneAcc) : Bool := (l.find? fun b => b.home == a.home) == some a

/-- The request of an ATOM for the address of a lane. -/
def State.atomReq (s : State) (x : Issue) (f : FmtM) (op inst : Nat) (l : List LaneAcc) (a : LaneAcc) : Req :=
  let ls := l.filter fun b => b.home == a.home
  { s.request x f .atom a x.acting inst with slices := atomMask f x.acting ls, op := op, parts := s.atomParts x f op inst ls }

theorem State.atomReqs_eq (s : State) (x : Issue) (f : FmtM) (op inst : Nat) (l : List LaneAcc) :
    s.atomReqs x f op inst l = (l.filter (firstOfHome l)).map (s.atomReq x f op inst l) := rfl

/-- The first lane of a home is no other. -/
theorem filter_firstOfHome {l : List LaneAcc} (hl : l.Nodup) {a : LaneAcc} (ha : a ∈ l) :
    ((l.filter (firstOfHome l)).filter fun b => b.home == a.home).length = 1 := by
  obtain ⟨b, hb⟩ := Option.isSome_iff_exists.1 (List.find?_isSome (p := fun b : LaneAcc => b.home == a.home) |>.2 ⟨a, ha, beq_self_eq_true _⟩)
  have hhome : b.home = a.home := eq_of_beq (List.find?_some (p := fun b : LaneAcc => b.home == a.home) hb)
  have hiff : ∀ d : LaneAcc, (d.home == a.home && firstOfHome l d) = (d == b) := by
    intro d
    by_cases hd : d.home = a.home
    · rw [firstOfHome, hd, hb, beq_self_eq_true, Bool.true_and, Bool.eq_iff_iff, beq_iff_eq, beq_iff_eq, Option.some_inj, eq_comm]
    · have hdb : d ≠ b := fun e => hd (e ▸ hhome)
      rw [beq_eq_false_iff_ne.2 hd, beq_eq_false_iff_ne.2 hdb, Bool.false_and]
  rw [List.filter_filter, List.filter_congr fun d _ => hiff d, ← List.count_eq_length_filter]
  exact List.count_eq_one_of_mem hl (List.mem_of_find?_eq_some hb)

/-- Of each address that a lane names there is one request (R163). -/
theorem State.length_atomReqs_home (s : State) (x : Issue) (f : FmtM) (op inst : Nat) {l : List LaneAcc} (hl : l.Nodup) {a : LaneAcc} (ha : a ∈ l) :
    ((s.atomReqs x f op inst l).filter fun r => r.home == a.home).length = 1 := by
  rw [State.atomReqs_eq, List.filter_map, List.length_map]
  exact filter_firstOfHome hl ha

/-- What a request of an ATOM carries (R162, R163). -/
def atomMade (f : FmtM) (op : Nat) (rf : RF) (l : List LaneAcc) (r : Req) : Prop :=
  r.kind = .atom ∧ r.op = op ∧ r.ty = f.ty ∧ r.done = false ∧ r.merge = []
    ∧ r.parts.map Part.lane = (l.filter fun a => a.home == r.home).map LaneAcc.lane
    ∧ ∀ p ∈ r.parts, p.v = f.v ∧ (p.opr, p.cmp) = atomOperands f op rf p.lane

theorem atomMade_of_asMade {f : FmtM} {op : Nat} {rf : RF} {l : List LaneAcc} {q r : Req} (h : q.asMade = r.asMade) (hr : atomMade f op rf l r) :
    atomMade f op rf l q := by
  have same {β : Type} (field : Req → β) : field q.asMade = field r.asMade := congrArg field h
  have hparts : q.parts = r.parts := same Req.parts
  have hhome : q.home = r.home := same Req.home
  obtain ⟨hkind, hop, hty, hdone, hmerge, hlanes, hopr⟩ := hr
  exact ⟨(same Req.kind).trans hkind, (same Req.op).trans hop, (same Req.ty).trans hty, (same Req.done).trans hdone,
    (same Req.merge).trans hmerge, by rw [hparts, hhome, hlanes], by rw [hparts]; exact hopr⟩

theorem State.atomMade_of_mem_atomReqs {s : State} {x : Issue} {f : FmtM} {op inst : Nat} {l : List LaneAcc} {r : Req}
    (h : r ∈ s.atomReqs x f op inst l) : atomMade f op (s.warp x.core x.warp).rf l r := by
  rw [State.atomReqs_eq] at h
  obtain ⟨a, -, rfl⟩ := List.mem_map.1 h
  refine ⟨rfl, rfl, rfl, rfl, rfl, ?_, fun p hp => ?_⟩
  · exact List.map_map
  · obtain ⟨b, -, rfl⟩ := List.mem_map.1 hp
    exact ⟨rfl, rfl⟩

/-- The operands of a part, by the operation (R162). -/
theorem operands_of_atomMade {f : FmtM} {op : Nat} {rf : RF} {p : Part} (h : (p.opr, p.cmp) = atomOperands f op rf p.lane) :
    if op = 7 then
      (if isGz f.opr then p.cmp = 0 ∧ p.opr = 0
       else p.cmp = rf.readD (nregSz f.sz) f.opr p.lane ∧ p.opr = rf.readD (nregSz f.sz) (f.opr + BitVec.ofNat 8 (nregSz f.sz)) p.lane)
    else p.opr = rf.readD (nregSz f.sz) f.opr p.lane := by
  unfold atomOperands at h
  by_cases hop : op = 7
  · by_cases hgz : isGz f.opr = true
    · rw [if_pos ⟨hop, hgz⟩] at h
      obtain ⟨hopr, hcmp⟩ := Prod.mk.inj h
      rw [if_pos hop, if_pos hgz]
      exact ⟨hcmp, hopr⟩
    · rw [if_neg fun e => hgz e.2, if_pos hop] at h
      obtain ⟨hopr, hcmp⟩ := Prod.mk.inj h
      rw [if_pos hop, if_neg hgz]
      exact ⟨hcmp, hopr⟩
  · rw [if_neg fun e => hop e.1, if_neg hop] at h
    rw [if_neg hop]
    exact (Prod.mk.inj h).1

/-! ## V pending (R96, R103) -/

theorem Warp.mark_gz (v : Warp) {c : BitVec 8} (hc : isGz c = true) (n : Nat) (sls : List Nat) (b : Bool) : v.mark c n sls b = v := by
  rw [Warp.mark, if_pos hc]

/-- A g register marked is pending in every slice marked. -/
theorem Warp.pg_mark (v : Warp) {c : BitVec 8} (hc : isG c = true) {n m k : Nat} {sls : List Nat} (hm : m < n) (hk : k ∈ sls) :
    Sparse.get false (v.mark c n sls true).pg (8 * (c.toNat + m) + k) = true := by
  rw [Warp.mark, if_neg (by rw [isGz_of_isG hc]; exact Bool.false_ne_true), if_pos hc]
  refine (Sparse.get_foldl_set_true id _ v.pg _).trans (Bool.or_eq_true_iff.2 (.inr (List.any_eq_true.2 ⟨_, ?_, beq_self_eq_true _⟩)))
  exact List.mem_flatMap.2 ⟨m, List.mem_range.2 hm, List.mem_map.2 ⟨k, hk, rfl⟩⟩

/-! ## What is left as it was -/

theorem Issue.warp_settled (x : Issue) (s : State) (c w : Nat) : (x.settled s).warp c w = s.warp c w := by
  rw [Issue.settled, State.warp, State.core_modCore]
  split
  · next h => rw [h]; rfl
  · rfl

theorem Issue.sameScratch_settled (x : Issue) (s : State) : sameScratch s (x.settled s) := by
  intro c
  rw [Issue.settled, State.core_modCore]
  split
  · next h => rw [h]; exact ⟨rfl, rfl⟩
  · exact ⟨rfl, rfl⟩

theorem sameScratch_of_cores {s t : State} (h : t.cores = s.cores) : sameScratch s t := by
  intro c
  rw [State.core, h]
  exact ⟨rfl, rfl⟩

theorem sameScratch_modWarp (s : State) (c w : Nat) (f : Warp → Warp) : sameScratch s (s.modWarp c w f) := by
  intro d
  obtain ⟨_, _, _, h⟩ := besideScr_modWarp s c w f d
  rw [h]
  exact ⟨rfl, rfl⟩

theorem State.warp_of_cores {s t : State} (h : t.cores = s.cores) (c w : Nat) : t.warp c w = s.warp c w := by rw [State.warp, State.core, h]; rfl

/-! ## The state that an ATOM goes on from -/

/-- The requests of an ATOM sent, with V pending (R368). -/
def State.atomSent (s : State) (x : Issue) (f : FmtM) (op : Nat) (l : List LaneAcc) : State :=
  let u := s.fresh.2
  (x.settled (u.send (u.withConf (u.atomReqs x f op s.fresh.1 l)))).modWarp x.core x.warp fun w => w.mark f.v (nregSz f.sz) (slicesOf x.acting) true

theorem State.atomIssue_sends {s : State} {c w j op : Nat} {i : Instr} {f : FmtM} {l : List LaneAcc} (hready : s.gangReady c w j i = true)
    (hacts : s.acts c w j i = true)
    (hl : s.checkLanes (s.gangIssue c w j i) (atomLanes f (s.gangIssue c w j i).acting) (s.checkAtom (s.gangIssue c w j i) f op) = .ok l) :
    s.atomIssue i f op = .next (s.gangDone c w j i (s.atomSent (s.gangIssue c w j i) f op l)) := by
  refine s.issueLane_done _ c w j i _ hready ?_
  rw [if_neg (by rwa [State.acts, Bool.not_eq_true', ← Bool.not_eq_true] at hacts), hl]
  rfl

section AtomSent

variable (s : State) (x : Issue) (f : FmtM) (op : Nat) (l : List LaneAcc)

theorem State.sends_atomSent : ∃ new, (s.atomSent x f op l).fab.reqs.map Req.wherever = (s.fab.reqs ++ new).map Req.wherever
    ∧ new.map Req.asMade = (s.fresh.2.atomReqs x f op s.fresh.1 l).map Req.asMade := by
  obtain ⟨-, new, hreqs, hnew⟩ := s.fresh.2.sends_send (s.fresh.2.withConf (s.fresh.2.atomReqs x f op s.fresh.1 l))
  exact ⟨new, hreqs, hnew.trans (State.map_asMade_withConf _ _)⟩

theorem State.warp_atomSent (d v : Nat) : (s.atomSent x f op l).warp d v =
    if d = x.core ∧ v = x.warp then (s.warp d v).mark f.v (nregSz f.sz) (slicesOf x.acting) true else s.warp d v := by
  have hkeep : ∀ d v, (x.settled (s.fresh.2.send (s.fresh.2.withConf (s.fresh.2.atomReqs x f op s.fresh.1 l)))).warp d v = s.warp d v := fun d v =>
    (Issue.warp_settled x _ d v).trans (State.warp_of_cores (State.sends_send _ _).1 d v)
  rw [State.atomSent, State.warp_modWarp, hkeep, hkeep]
  split
  · next h => rw [h.1, h.2]
  · rfl

theorem State.sameScratch_atomSent : sameScratch s (s.atomSent x f op l) :=
  ((sameScratch_of_cores (s.fresh.2.sends_send _).1).trans (Issue.sameScratch_settled x _)).trans (sameScratch_modWarp _ _ _ _)

theorem State.mem_atomSent : (s.atomSent x f op l).mem = s.mem := State.send_mem _ _

end AtomSent

/-- An ATOM's instructions issue by one rule, with the number of the operation (R162). -/
theorem exec_eq_atomIssue {f : FmtM} {i : Instr} {op : Nat} (h : (i, op) ∈ [(Instr.atomAdd f, 0), (.atomMin f, 1), (.atomMax f, 2), (.atomAnd f, 3),
    (.atomOr f, 4), (.atomXor f, 5), (.atomExch f, 6), (.atomCas f, 7)]) (s : State) : exec i s = s.atomIssue i f op := by
  simp only [List.mem_cons, Prod.mk.injEq, List.not_mem_nil, or_false] at h
  rcases h with ⟨rfl, rfl⟩ | ⟨rfl, rfl⟩ | ⟨rfl, rfl⟩ | ⟨rfl, rfl⟩ | ⟨rfl, rfl⟩ | ⟨rfl, rfl⟩ | ⟨rfl, rfl⟩ | ⟨rfl, rfl⟩ <;> rfl

/-! ## CMB (R369) -/

/-- The request of a CMB for a lane. -/
def State.cmbReq (s : State) (x : Issue) (f : FmtM) (inst : Nat) (a : LaneAcc) : Req :=
  { s.request x f .cmb a x.acting inst with
    len := 64, n := 2, slices := atomMask f x.acting [a]
    parts := [{ s.part x f.v inst a.lane ((s.warp x.core x.warp).rf.read2 f.opr a.lane) 0 with lanes := if atomOnce f then x.acting else [a.lane] }] }

/-- The requests of a CMB sent, with V and the status predicate pending (R369). -/
def State.cmbSent (s : State) (x : Issue) (f : FmtM) (l : List LaneAcc) : State :=
  let u := s.fresh.2
  (x.settled (u.send (l.map (u.cmbReq x f s.fresh.1)))).modWarp x.core x.warp fun w =>
    (w.mark f.v 2 (slicesOf x.acting) true).markP f.sprd.toNat (slicesOf x.acting) true

theorem exec_cmb_idle {s : State} {c w j : Nat} {f : FmtM} (hready : s.gangReady c w j (.cmb f) = true) (hacts : s.acts c w j (.cmb f) = false) :
    exec (.cmb f) s = .next (s.gangDone c w j (.cmb f) s) := by
  refine s.issueLane_done s c w j (.cmb f) _ hready ?_
  rw [if_pos (by rwa [State.acts, Bool.not_eq_false'] at hacts)]

theorem exec_cmb_sends {s : State} {c w j : Nat} {f : FmtM} {l : List LaneAcc} (hready : s.gangReady c w j (.cmb f) = true)
    (hacts : s.acts c w j (.cmb f) = true)
    (hl : s.checkLanes (s.gangIssue c w j (.cmb f)) (atomLanes f (s.gangIssue c w j (.cmb f)).acting)
      (fun n => s.checkHeader (s.gangIssue c w j (.cmb f)) .update n (laneAddr f (s.warp c w).rf n)) = .ok l) :
    exec (.cmb f) s = .next (s.gangDone c w j (.cmb f) (s.cmbSent (s.gangIssue c w j (.cmb f)) f l)) := by
  have hcheck : s.checkLanes (s.gangIssue c w j (.cmb f)) (atomLanes f (s.gangIssue c w j (.cmb f)).acting) (fun n =>
      s.checkHeader (s.gangIssue c w j (.cmb f)) .update n
        (laneAddr f (s.warp (s.gangIssue c w j (.cmb f)).core (s.gangIssue c w j (.cmb f)).warp).rf n)) = .ok l := hl
  refine s.issueLane_done _ c w j (.cmb f) _ hready ?_
  rw [if_neg (by rwa [State.acts, Bool.not_eq_true', ← Bool.not_eq_true] at hacts)]
  dsimp only
  rw [hcheck]
  rfl

theorem State.length_cmbSent (s : State) (x : Issue) (f : FmtM) (l : List LaneAcc) : (s.cmbSent x f l).fab.reqs.length = s.fab.reqs.length + l.length :=
  (s.fresh.2.sends_send _).length.trans (by rw [List.length_map]; rfl)

theorem State.mem_cmbSent (s : State) (x : Issue) (f : FmtM) (l : List LaneAcc) : (s.cmbSent x f l).mem = s.mem := State.send_mem _ _

/-! ## O30 -/

/-- Settles O30: the lanes that pass are listed once each, so one request stands for each address that they name, and what is sent is what the
instruction made. -/
theorem atomsComplete : Obligations.AtomsComplete := by
  refine ⟨?atom, ?cmb⟩
  case atom =>
    intro s c w j f i op l hi x rf n hready hacts hl
    have hdistinct := State.nodup_of_checkAtom hl
    obtain ⟨new, hreqs, hmade⟩ := s.sends_atomSent x f op l
    refine ⟨s.atomSent x f op l, new, (exec_eq_atomIssue hi s).trans (State.atomIssue_sends hready hacts hl), hreqs, fun r hr => ?_, fun a ha => ?_,
      fun hg k hk m hm => ?_, fun hz => ?_, s.mem_atomSent x f op l, s.sameScratch_atomSent x f op l, fun d v => ?_⟩
    · obtain ⟨q, hq, hqr⟩ := exists_asMade_of_mem hmade hr
      obtain ⟨hkind, hop, hty, hdone, hmerge, hlanes, hparts⟩ := atomMade_of_asMade hqr (State.atomMade_of_mem_atomReqs hq)
      exact ⟨hkind, hop, hty, hdone, hmerge, hlanes, fun p hp => ⟨(hparts p hp).1, operands_of_atomMade (hparts p hp).2⟩⟩
    · exact (length_filter_home hmade a.home).trans (State.length_atomReqs_home _ x f op _ hdistinct ha)
    · rw [State.warp_atomSent, if_pos ⟨rfl, rfl⟩]
      exact Warp.pg_mark _ hg hm hk
    · rw [State.warp_atomSent, if_pos ⟨rfl, rfl⟩, Warp.mark_gz _ hz]
      exact ⟨rfl, rfl⟩
    · rw [State.warp_atomSent]
      split
      · exact Warp.rf_mark _ _ _ _ _
      · rfl
  case cmb =>
    rintro s c w j f i rfl hready x
    exact ⟨exec_cmb_idle hready, fun hacts l hl => ⟨s.cmbSent x f l, exec_cmb_sends hready hacts hl, s.length_cmbSent x f l, s.mem_cmbSent x f l⟩⟩

end Sys2Proof.Machine
end

section
/-!
PROOFS. Loads and stores at their homes (R58, R180, R190, R296): what an access changes there, and what it leaves when it completes.
-/

namespace Sys2Proof.Machine

/-! ## The end of a load (R180, R190, R306) -/

/-- The cores of two states differ at most in the LDA16 lanes and the copies that await data. -/
def awaitersOnly (s t : State) : Prop := ∀ d, ∃ lda copies, t.core d = { s.core d with lda := lda, copies := copies }

theorem awaitersOnly_of_cores {s t : State} (h : t.cores = s.cores) : awaitersOnly s t := fun d => ⟨_, _, by rw [State.core, h]; rfl⟩

theorem awaitersOnly.trans {s t u : State} (h : awaitersOnly s t) (h' : awaitersOnly t u) : awaitersOnly s u := by
  intro d
  obtain ⟨_, _, e⟩ := h d
  obtain ⟨lda, copies, e'⟩ := h' d
  exact ⟨lda, copies, by rw [e', e]⟩

theorem awaitersOnly.same {s t : State} (h : awaitersOnly s t) : sameRegs s t ∧ sameScratch s t := by
  refine sameRegs_of_keepsCore fun d => ?_
  obtain ⟨_, _, e⟩ := h d
  rw [e]
  exact ⟨rfl, rfl, rfl, rfl⟩

theorem awaitersOnly.warps {s t : State} (h : awaitersOnly s t) (c b : Nat) : ((t.core c).block b).warps = ((s.core c).block b).warps := by
  obtain ⟨_, _, e⟩ := h c
  rw [e]
  rfl

/-- The core of a load gives its data to the LDA16 lanes that asked for it: a lane that did not ask is as it was. -/
theorem State.ldaRead_keeps (s : State) (r : Req) (v : BitVec 128) (pois : Bool) : (s.ldaRead r v pois).fab = s.fab
    ∧ awaitersOnly s (s.ldaRead r v pois) ∧ ((s.ldaRead r v pois).core r.core).lda = (s.core r.core).lda.map fun d => d.took r v pois := by
  unfold State.ldaRead
  split
  · refine ⟨rfl, fun d => ?_, by rw [State.core_modCore_self]⟩
    rw [State.core_modCore]
    split
    · next h => exact ⟨_, _, by rw [h]⟩
    · exact ⟨_, _, rfl⟩
  · next hnone =>
    refine ⟨rfl, awaitersOnly_of_cores rfl, ?_⟩
    rw [List.any_eq_true] at hnone
    conv_lhs => rw [← List.map_id (s.core r.core).lda]
    exact List.map_congr_left fun d hd => (if_neg fun h => hnone ⟨d, hd, h⟩).symm

/-- A load that completes gives a copy its data, or the I/O die. -/
theorem State.copyTook_load (s : State) {r : Req} (hk : r.kind = .load) (v : BitVec 128) (pois : Bool) : (s.copyTook r v pois).fab = s.fab
    ∧ awaitersOnly s (s.copyTook r v pois) ∧ ((s.copyTook r v pois).core r.core).lda = (s.core r.core).lda := by
  unfold State.copyTook
  split
  · exact ⟨rfl, awaitersOnly_of_cores rfl, rfl⟩
  · split
    · exact ⟨rfl, awaitersOnly_of_cores rfl, rfl⟩
    · refine ⟨rfl, fun d => ?_, by rw [State.core_modCore_self]; rfl⟩
      rw [State.core_modCore]
      split
      · next h => exact ⟨_, _, by rw [h]; rfl⟩
      · exact ⟨_, _, rfl⟩

theorem State.complete_load (s : State) {r : Req} (hk : r.kind = .load) (pois : Bool) (replies : List (BitVec 128)) : s.complete r pois replies =
    ((((s.moved r).ldaRead r (replies.headD 0) pois).settleReq r pois replies).copyTook r (replies.headD 0) pois).retire r.core r.block := by
  unfold State.complete
  simp only [if_pos hk]
  rfl

/-- A load that completes while its block holds a warp. -/
theorem State.complete_load_spec (s : State) {r r' : Req} (hk : r.kind = .load) (hfound : s.findReq r.id = some r')
    (hw : ((s.core r.core).block r.block).warps ≠ []) (pois : Bool) (v : BitVec 128) : let t := s.complete r pois [v]
    (∀ loc b, t.mem.byte loc b = s.mem.byte loc b) ∧ awaitersOnly s t ∧ (∀ q, t.findReq r.id = some q → q = r'.answered pois [v])
    ∧ (t.core r.core).lda = (s.core r.core).lda.map fun d => d.took r v pois := by
  obtain ⟨hmf, hmc, hmb⟩ := s.moved_keeps r
  obtain ⟨hlf, hlk, hll⟩ := (s.moved r).ldaRead_keeps r v pois
  obtain ⟨hsm, hsc⟩ := ((s.moved r).ldaRead r v pois).settleReq_keeps r pois [v]
  obtain ⟨htf, htk, htl⟩ := (((s.moved r).ldaRead r v pois).settleReq r pois [v]).copyTook_load hk v pois
  have hkeeps := (((awaitersOnly_of_cores hmc).trans hlk).trans (awaitersOnly_of_cores hsc)).trans htk
  have hmoved : ((s.moved r).ldaRead r v pois).findReq r.id = some r' := by rw [State.findReq, hlf, hmf]; exact hfound
  intro t
  have ht : t = (((s.moved r).ldaRead r v pois).settleReq r pois [v]).copyTook r v pois :=
    (s.complete_load hk pois [v]).trans (State.retire_of_warps (by rw [List.headD_cons, hkeeps.warps]; exact hw))
  rw [ht]
  refine ⟨fun loc b => ?_, hkeeps, fun q hq => ?_, ?_⟩
  · rw [State.copyTook_mem, hsm, State.ldaRead_mem, hmb]
  · rw [State.findReq, htf] at hq
    exact State.findReq_settleReq hmoved hq
  · rw [htl, State.core, hsc, ← State.core, hll, State.core, hmc, ← State.core]

/-! ## An access carried to a peer (R180) -/

/-- It is performed there, and completes with the peer's answer. -/
theorem State.performed_peer {s : State} {r r' : Req} (hfound : s.findReq r.id = some r') (hdone : r'.done = false) (hloc : r.home.loc = 1)
    (hsent : r.sent.isSome = true) (pois : Bool) (replies : List (BitVec 128)) (raw : List Byte) : let t := s.performed r pois replies raw
    t.mem = s.mem ∧ t.cores = s.cores ∧ ∃ q, t.findReq r.id = some q ∧ q.done = false ∧ q.ans.isSome = true := by
  intro t
  have ht : t = s.modReq r.id fun q => q.atPeer pois replies raw := if_pos ⟨hloc, hsent⟩
  rw [ht]
  exact ⟨rfl, rfl, _, State.findReq_modReq_self (f := fun q => q.atPeer pois replies raw) (fun _ => rfl) hfound, hdone, rfl⟩

/-! ## A load (R44, R180, R300) -/

/-- The state in which a load of a memory has its line recorded (R43, R44). -/
def State.loadTouched (s : State) (r : Req) : State := (s.peerFill r.home r.pol).homeTouch r false

theorem State.peerFill_keeps (s : State) (h : Home) (pol : Nat) : (s.peerFill h pol).cores = s.cores ∧ (s.peerFill h pol).fab = s.fab
    ∧ (s.peerFill h pol).mon = s.mon ∧ (∀ loc b, (s.peerFill h pol).mem.byte loc b = s.mem.byte loc b) ∧ (h.loc ≠ 1 → s.peerFill h pol = s) := by
  unfold State.peerFill
  split
  · exact ⟨rfl, rfl, rfl, fun _ _ => rfl, fun _ => rfl⟩
  · next hloc =>
    have hne : ∀ t : State, h.loc ≠ 1 → t = s := fun _ hn => absurd hn hloc
    split
    · exact ⟨rfl, rfl, rfl, fun _ _ => rfl, hne _⟩
    · split
      · exact ⟨rfl, rfl, rfl, fun _ _ => rfl, hne _⟩
      · exact ⟨rfl, rfl, rfl, fun _ _ => rfl, hne _⟩

theorem State.loadTouched_keeps (s : State) (r : Req) : (s.loadTouched r).cores = s.cores ∧ (s.loadTouched r).fab = s.fab
    ∧ ∀ loc b, (s.loadTouched r).mem.byte loc b = s.mem.byte loc b := by
  obtain ⟨hc, hf, -, hb, -⟩ := s.peerFill_keeps r.home r.pol
  obtain ⟨hc', hf', hb'⟩ := (s.peerFill r.home r.pol).homeTouch_keeps r false
  exact ⟨hc'.trans hc, hf'.trans hf, fun loc b => (hb' loc b).trans (hb loc b)⟩

section Load

variable {s : State} {r : Req} (ho : s.openMem = true) (hloc : r.home.loc < 3)
include ho hloc

/-- A load of a memory of which nothing is closed: its line is recorded and its value fixed. -/
theorem State.performLoad_eq : let u := s.peerFill r.home r.pol
    let n := u.loadNat r.home r.pol r.len
    s.performLoad r = (s.loadTouched r).performed r (u.homePoison r.home r.len) [BitVec.ofNat 128 (r.pick n)] (leBytes r.len n) := by
  intro u n
  obtain ⟨-, -, hmon, -, -⟩ := s.peerFill_keeps r.home r.pol
  have hopen : u.openMem = true := by rw [State.openMem, hmon]; exact ho
  have hmeet : u.homeMeet r.home r.len = u := if_neg (by omega)
  have hread : u.denyRead r.home.loc r.home.addr r.len = u := by
    rw [State.denyRead, State.closed_of_openMem hopen, if_neg Bool.false_ne_true]
  have hconf : ∀ t : State, t.countConf r = t := fun t => if_pos (.inl (by omega))
  change ((((u.homeMeet r.home r.len).denyRead r.home.loc r.home.addr r.len).homeTouch r false).countConf r).performed r _ _ _ = _
  rw [hmeet, hread, hconf]
  rfl

/-- What a load not at a peer reads. -/
theorem State.loadNat_local (hl : r.home.loc ≠ 1) : s.loadNat r.home r.pol r.len = s.mem.readNat r.home.loc r.home.addr r.len := by
  rw [State.loadNat, if_neg fun h => hl h.1]
  change s.homeNat r.home r.len = _
  rw [State.homeNat, if_neg (by omega), State.readGlobal, if_pos ho]

/-- What a load changes: no byte, no register, no scratchpad; its value stands in its reply and in the LDA16 lane that asked for it. -/
theorem State.performLoad_spec (hk : r.kind = .load) {r' : Req} (hfound : s.findReq r.id = some r') (hdone : r'.done = false)
    (hw : ((s.core r.core).block r.block).warps ≠ []) : let t := s.performLoad r
    let v := BitVec.ofNat 128 (r.pick (s.mem.readNat r.home.loc r.home.addr r.len))
    (∀ loc b, t.mem.byte loc b = s.mem.byte loc b) ∧ awaitersOnly s t
    ∧ (r.home.loc ≠ 1 → (∀ q, t.findReq r.id = some q → q.done = true ∧ q.replies = [v])
      ∧ (t.core r.core).lda = (s.core r.core).lda.map fun d => d.took r v (s.mem.poisoned r.home.loc r.home.addr r.len))
    ∧ (r.home.loc = 1 → r.sent.isSome = true → ∃ q, t.findReq r.id = some q ∧ q.done = false ∧ q.ans.isSome = true) := by
  intro t v
  have ht : t = _ := State.performLoad_eq ho hloc
  obtain ⟨hc, hf, hb⟩ := s.loadTouched_keeps r
  have hfound' : (s.loadTouched r).findReq r.id = some r' := by rw [State.findReq, hf]; exact hfound
  by_cases hpeer : r.home.loc = 1 ∧ r.sent.isSome = true
  · obtain ⟨hpm, hpc, hanswer⟩ := State.performed_peer hfound' hdone hpeer.1 hpeer.2 _ _ _
    rw [ht]
    exact ⟨fun loc b => by rw [hpm, hb], awaitersOnly_of_cores (hpc.trans hc), fun hl => absurd hpeer.1 hl, fun _ _ => hanswer⟩
  · rw [State.performed, if_neg hpeer] at ht
    have hw' : (((s.loadTouched r).core r.core).block r.block).warps ≠ [] := by rw [State.core, hc]; exact hw
    obtain ⟨htb, htk, htq, htl⟩ := (s.loadTouched r).complete_load_spec hk hfound' hw' _ _
    rw [ht]
    refine ⟨fun loc b => (htb loc b).trans (hb loc b), (awaitersOnly_of_cores hc).trans htk, fun hl => ?_, fun h1 h2 => absurd ⟨h1, h2⟩ hpeer⟩
    obtain ⟨-, -, -, -, hfill⟩ := s.peerFill_keeps r.home r.pol
    have hpois : s.homePoison r.home r.len = s.mem.poisoned r.home.loc r.home.addr r.len := if_neg (by omega)
    have hcore : (s.loadTouched r).core r.core = s.core r.core := by rw [State.core, hc]; rfl
    rw [hfill hl, State.loadNat_local ho hloc hl, hpois] at htq htl ⊢
    rw [hcore] at htl
    exact ⟨fun q hq => by rw [htq q hq]; exact ⟨rfl, rfl⟩, htl⟩

end Load

/-! ## A store (R58, R180, R296) -/

/-- The byte of a memory once a store has written those that it computes. -/
def State.byteStored (s : State) (r : Req) (loc b : Nat) : Byte :=
  if loc = r.home.loc ∧ r.home.addr ≤ b ∧ b < r.home.addr + (s.storeBytes r).length then (s.storeBytes r).getD (b - r.home.addr) 0
  else s.mem.byte loc b

/-- The state in which a store has written its bytes, and their poison. -/
def State.storeWrote (s : State) (r : Req) : State :=
  let t := s.homeWrite r.home (s.storeBytes r)
  if r.pois then t.poisonMem r.home.loc (r.home.addr / 16) else t

/-- The state in which they have gone to the mirror, and the line and the bank cycles are counted. -/
def State.storeCounted (s : State) (r : Req) : State :=
  (((s.storeWrote r).mirrorSend r [r] (s.storeBytes r)).homeTouch r true).countConf r

/-- A store that leaves the tags alone. -/
theorem State.performStore_eq (s : State) {r : Req} (hop : r.op = 0) : s.performStore r = (s.storeCounted r).performed r false [] [] := by
  simp only [State.performStore, hop, if_true, show ¬ (0 : Nat) = 2 by omega, if_false]
  rfl

theorem State.byte_poisonMem (s : State) (loc g loc' b : Nat) : (s.poisonMem loc g).mem.byte loc' b = s.mem.byte loc' b := by
  unfold State.poisonMem
  split
  · rfl
  · exact Mem.byte_setPoison _ _ _ _ _ _

section StoreMemory

variable {s : State} {r : Req} (ho : s.openMem = true) (harm : ∀ o ∈ s.fab.objs, o.2.armed = false) (hloc : r.home.loc < 3)
include ho harm hloc

theorem State.storeWrote_spec : (s.storeWrote r).cores = s.cores ∧ (s.storeWrote r).fab = s.fab
    ∧ ∀ loc b, loc < 3 → (s.storeWrote r).mem.byte loc b = s.byteStored r loc b := by
  have hwrite : s.homeWrite r.home (s.storeBytes r) = s.writeMem r.home.loc r.home.addr (s.storeBytes r) := by
    rw [State.homeWrite, if_neg (by omega), State.storeGlobal_unarmed harm]
  have hbyte : ∀ loc b, loc < 3 → (s.writeMem r.home.loc r.home.addr (s.storeBytes r)).mem.byte loc b = s.byteStored r loc b :=
    fun loc b h => State.byte_writeMem ho r.home.addr (s.storeBytes r) b hloc h
  rw [State.storeWrote, hwrite]
  split
  · refine ⟨?_, ?_, fun loc b h => ?_⟩
    · rw [State.poisonMem_cores, State.writeMem_cores]
    · rw [State.poisonMem_fab, State.writeMem_fab]
    · rw [State.byte_poisonMem, hbyte loc b h]
  · exact ⟨State.writeMem_cores .., State.writeMem_fab .., hbyte⟩

/-- The bytes of a store stand at its home and nowhere else. -/
theorem State.storeCounted_spec : (s.storeCounted r).cores = s.cores ∧ (s.storeCounted r).fab.reqs = s.fab.reqs
    ∧ ∀ loc b, loc < 3 → (s.storeCounted r).mem.byte loc b = s.byteStored r loc b := by
  obtain ⟨hc, hf, hb⟩ := State.storeWrote_spec ho harm hloc
  obtain ⟨hmc, hmf⟩ := (s.storeWrote r).mirrorSend_keeps r [r] (s.storeBytes r)
  obtain ⟨htc, htf, htb⟩ := ((s.storeWrote r).mirrorSend r [r] (s.storeBytes r)).homeTouch_keeps r true
  have hconf : s.storeCounted r = ((s.storeWrote r).mirrorSend r [r] (s.storeBytes r)).homeTouch r true := if_pos (.inl (by omega))
  rw [hconf]
  exact ⟨by rw [htc, hmc, hc], by rw [htf, hmf, hf], fun loc b h => by rw [htb, State.mirrorSend_mem, hb loc b h]⟩

/-- What a store of a memory changes: the bytes that it computes, no register, no scratchpad. -/
theorem State.performStore_spec (hk : r.kind = .store) (hop : r.op = 0) {r' : Req} (hfound : s.findReq r.id = some r') (hdone : r'.done = false)
    (hw : ((s.core r.core).block r.block).warps ≠ []) : let t := s.performStore r
    (∀ loc b, loc < 3 → t.mem.byte loc b = s.byteStored r loc b)
    ∧ keepsCores s t
    ∧ (r.home.loc = 1 → r.sent.isSome = true → ∃ q, t.findReq r.id = some q ∧ q.done = false ∧ q.ans.isSome = true) := by
  obtain ⟨hc, hf, hb⟩ := State.storeCounted_spec ho harm hloc
  have hfound' : (s.storeCounted r).findReq r.id = some r' := by rw [State.findReq, hf]; exact hfound
  have hkeeps := keepsCores_of_eq hc
  rw [s.performStore_eq hop]
  by_cases hpeer : r.home.loc = 1 ∧ r.sent.isSome = true
  · obtain ⟨hpm, hpc, hanswer⟩ := State.performed_peer hfound' hdone hpeer.1 hpeer.2 false [] []
    exact ⟨fun loc b h => by rw [hpm, hb loc b h], keepsCores_of_eq (hpc.trans hc), fun _ _ => hanswer⟩
  · rw [State.performed, if_neg hpeer]
    have hne : r.kind ≠ .load := by rw [hk]; nofun
    obtain ⟨htb, htk, -⟩ := (s.storeCounted r).complete_spec hne (by rwa [hkeeps.warps]) false []
    exact ⟨fun loc b h => (htb loc b).trans (hb loc b h), hkeeps.trans htk, fun h1 h2 => absurd ⟨h1, h2⟩ hpeer⟩

end StoreMemory

end Sys2Proof.Machine
end

section
/-!
PROOFS. Stores to scratchpads, the bytes that a store computes (R56, R58, R296), the write-back of a load (R95, R99), and the statement on both.
-/

namespace Sys2Proof.Machine

/-! ## A store to a scratchpad (R25, R180) -/

theorem besideScr.scr {k k' : Core} (h : besideScr k k') : k'.scr = k.scr := by obtain ⟨_, _, _, rfl⟩ := h; rfl
theorem besideScr.blocks {k k' : Core} (h : besideScr k k') : k'.blocks = k.blocks := by obtain ⟨_, _, _, rfl⟩ := h; rfl

/-- Bank cycles counted change a warp's counter at most. -/
theorem State.besideScr_countConf (s : State) (r : Req) (d : Nat) : besideScr (s.core d) ((s.countConf r).core d) := by
  rw [State.countConf]
  dsimp only
  split
  · exact ⟨_, _, _, rfl⟩
  · exact besideScr_modWarp _ _ _ _ _

section StoreScratch

variable {s : State} {r : Req} (hloc : r.home.loc = 3)
include hloc

/-- The scratchpad is written; neither a memory nor its poison is concerned. -/
theorem State.storeWrote_scratch : (s.storeWrote r).mem = s.mem
    ∧ (s.storeWrote r).cores = (s.modCore r.home.core fun k => k.writeScr r.home.addr (s.storeBytes r)).cores := by
  have hwrite : s.homeWrite r.home (s.storeBytes r) = s.modCore r.home.core fun k => k.writeScr r.home.addr (s.storeBytes r) := if_pos hloc
  have hpoison : ∀ (t : State) g, (t.poisonMem r.home.loc g).mem = t.mem := by
    intro t g
    rw [State.poisonMem, hloc]
    split
    · rfl
    · rfl
  rw [State.storeWrote, hwrite]
  split
  · exact ⟨hpoison _ _, State.poisonMem_cores _ _ _⟩
  · exact ⟨rfl, rfl⟩

/-- No mirror and no line is concerned; bank cycles are counted. -/
theorem State.storeCounted_scratch : s.storeCounted r = (s.storeWrote r).countConf r := by
  have hput : ∀ (t : State) makers bs, t.mirrorPut r.id makers r.home bs = t := fun t makers bs => if_neg (by simp [hloc])
  have htouch : ∀ t : State, t.homeTouch r true = t := fun t => if_neg (by omega)
  rw [State.storeCounted, State.mirrorSend, hput, ite_self, htouch]

/-- A store to a scratchpad moves no bytes over a link. -/
theorem State.moved_scratch (hk : r.kind = .store) : s.moved r = s := by
  have hacq : r.acq = false := by simp [Req.acq, Req.isLd, hk]
  rw [State.moved, hacq, Bool.false_and, if_neg Bool.false_ne_true, State.moves, hloc]
  rfl

/-- Completing it changes no memory. -/
theorem State.complete_scratch_mem (hk : r.kind = .store) (hw : ((s.core r.core).block r.block).warps ≠ []) (replies : List (BitVec 128)) :
    (s.complete r false replies).mem = s.mem := by
  have hne : r.kind ≠ .load := by rw [hk]; nofun
  obtain ⟨hsm, hsc⟩ := s.settleReq_keeps r false replies
  obtain ⟨htm, -, htc⟩ := (s.settleReq r false replies).copyTook_keeps hne (replies.headD 0) false
  rw [s.complete_eq hne, State.moved_scratch hloc hk,
    State.retire_of_warps (by rwa [((keepsCores_of_eq hsc).trans htc).warps]), htm, hsm]

/-- What a store of a scratchpad changes: the bytes that it computes, in that scratchpad. -/
theorem State.performStore_scratch (hk : r.kind = .store) (hop : r.op = 0)
    (hw : ((s.core r.core).block r.block).warps ≠ []) (hbars : (s.core r.home.core).bars = [])
    (hsize : r.home.addr + (s.storeBytes r).length ≤ (s.core r.home.core).scrSize) : let t := s.performStore r
    t.mem = s.mem
    ∧ (∀ b, b < (s.core r.home.core).scrSize → (t.core r.home.core).scrByte b =
      if r.home.addr ≤ b ∧ b < r.home.addr + (s.storeBytes r).length then (s.storeBytes r).getD (b - r.home.addr) 0
      else (s.core r.home.core).scrByte b)
    ∧ ∀ d, d ≠ r.home.core → (t.core d).scr = (s.core d).scr := by
  obtain ⟨hmem, hcores⟩ := State.storeWrote_scratch (s := s) hloc
  have hcore : ∀ d, (s.storeWrote r).core d = if d = r.home.core then (s.core r.home.core).writeScr r.home.addr (s.storeBytes r) else s.core d :=
    fun d => by rw [State.core, hcores]; exact State.core_modCore s r.home.core _ d
  have hbeside := fun d => State.besideScr_countConf (s.storeWrote r) r d
  rw [← State.storeCounted_scratch hloc] at hbeside
  have hw' : (((s.storeCounted r).core r.core).block r.block).warps ≠ [] := by
    rw [Core.block, (hbeside r.core).blocks, ← Core.block, hcore]
    split
    · next e => rw [(scratchOnly_writeScr _ _ _).block, ← e]; exact hw
    · exact hw
  have hne : r.kind ≠ .load := by rw [hk]; nofun
  obtain ⟨-, hkept, -⟩ := (s.storeCounted r).complete_spec hne hw' false []
  rw [s.performStore_eq hop, State.performed, if_neg (by omega)]
  refine ⟨?_, fun b hb => ?_, fun d hd => ?_⟩
  · rw [State.complete_scratch_mem hloc hk hw', State.storeCounted_scratch hloc, State.countConf_mem, hmem]
  · obtain ⟨win, e⟩ := hkept r.home.core
    rw [e, ← Core.scrByte_writeScr hbars hsize hb]
    refine Eq.trans (b := ((s.storeCounted r).core r.home.core).scrByte b) rfl ?_
    rw [(hbeside r.home.core).scrByte, hcore, if_pos rfl]
  · obtain ⟨win, e⟩ := hkept d
    rw [e]
    refine Eq.trans (b := ((s.storeCounted r).core d).scr) rfl ?_
    rw [(hbeside d).scr, hcore, if_neg hd]

end StoreScratch

/-! ## The bytes that a store computes (R56, R58, R296) -/

/-- A bit of a number written as bytes. -/
theorem bitAt_leNat_leBytes {w n v b : Nat} (hb : b < w) (hn : w ≤ 8 * n) : bitAt (BitVec.ofNat w (leNat (leBytes n v))) b = v.testBit b := by
  rw [bitAt, BitVec.getLsbD_ofNat, leNat_leBytes, show (256 : Nat) = 2 ^ 8 from rfl, ← Nat.pow_mul, Nat.testBit_mod_two_pow]
  simp [hb, show b < 8 * n by omega]

theorem State.storeBytes_plain (s : State) {r : Req} (hm : r.mask = 0) (hw : r.width = 0) : s.storeBytes r = leBytes r.len r.data.toNat := by
  rw [State.storeBytes, if_neg (by simp [hm]), if_pos hw]

/-- A masked store changes the bits of its mask (R58). -/
theorem State.bitAt_storeBytes_mask (s : State) {r : Req} (hm : r.mask ≠ 0) (hlen : r.len = 16) {b : Nat} (hb : b < 128) :
    bitAt (BitVec.ofNat 128 (leNat (s.storeBytes r))) b =
      if bitAt r.mask b then bitAt r.data b else bitAt (BitVec.ofNat 128 (s.homeNat r.home 16)) b := by
  rw [State.storeBytes, if_pos hm, hlen, bitAt_leNat_leBytes hb (by omega), BitVec.testBit_toNat]
  simp only [bitAt, BitVec.getLsbD_or, BitVec.getLsbD_and, BitVec.getLsbD_not, hb, decide_true, Bool.true_and]
  by_cases hbit : r.mask.getLsbD b = true
  · simp [hbit]
  · simp [hbit]

/-- A store of an element keeps the others of its unit (R56, R296). -/
theorem State.bitAt_storeBytes_element (s : State) {r : Req} (hm : r.mask = 0) (hw : r.width ≠ 0) {b : Nat} (hb : b < 64) :
    bitAt (BitVec.ofNat 64 (leNat (s.storeBytes r))) b =
      if r.bit ≤ b ∧ b < r.bit + r.width then bitAt r.data (b - r.bit) else bitAt (BitVec.ofNat 64 (s.homeNat r.home 8)) b := by
  have hbytes : s.storeBytes r = leBytes 8 (spliceBits (s.homeNat r.home 8) r.bit r.width r.data.toNat) := by
    rw [State.storeBytes, if_neg (by simp [hm]), if_neg hw]
    rfl
  rw [hbytes, bitAt_leNat_leBytes hb (by omega), testBit_spliceBits, BitVec.testBit_toNat]
  congr 1
  rw [bitAt, BitVec.getLsbD_ofNat, decide_eq_true hb, Bool.true_and]

/-! ## The write-back (R95, R99) -/

theorem Sparse.get_foldl_set_false (l : List Nat) (m : Sparse Bool) (n : Nat) :
    Sparse.get false (l.foldl (fun m k => Sparse.set false m k false) m) n = (Sparse.get false m n && !l.contains n) := by
  induction l generalizing m with
  | nil => simp
  | cons a l ih =>
    rw [List.foldl_cons, ih, Sparse.get_set]
    by_cases hn : n = a
    · simp [hn]
    · simp [hn]

/-- A g register whose mark is cleared is pending in no slice of the list. -/
theorem Warp.pg_mark_false (v : Warp) {c : BitVec 8} (hc : isG c = true) {n m k : Nat} {sls : List Nat} (hm : m < n) (hk : k ∈ sls) :
    Sparse.get false (v.mark c n sls false).pg (8 * (c.toNat + m) + k) = false := by
  rw [Warp.mark, if_neg (by rw [isGz_of_isG hc]; exact Bool.false_ne_true), if_pos hc]
  refine (Sparse.get_foldl_set_false _ v.pg _).trans (Bool.and_eq_false_iff.2 (.inr ?_))
  rw [Bool.not_eq_false', List.contains_iff_mem]
  exact List.mem_flatMap.2 ⟨m, List.mem_range.2 hm, List.mem_map.2 ⟨k, hk, rfl⟩⟩

/-- The slices of an instruction's requests. -/
def replySlices (rs : List Req) : List Nat := (rs.flatMap fun q => bitsOf q.slices 8).dedup

/-- The lanes whose replies are written: a k register receives the lowest one's (R95). -/
def writtenLanes (rs : List Req) (v : BitVec 8) : List Nat := if isK v then (replyLanes rs).take 1 else replyLanes rs

/-- A warp whose registers have received the replies. -/
def Warp.withReplies (w : Warp) (rs : List Req) (r : Req) (v : BitVec 8) : Warp :=
  { w with rf := (writtenLanes rs v).foldl (fun rf l => rf.writeQ r.n v l (replyOf rs l)) w.rf }

/-- The replies of a load or of an ATOM written: V alone, and the bits that say what of it is pending. -/
theorem Warp.writeReplies_eq (w : Warp) (rs : List Req) {r : Req} (hk : r.kind = .load ∨ r.kind = .atom) (v : BitVec 8) :
    ∃ rp tch bad, w.writeReplies rs r v = { (w.withReplies rs r v).mark v r.n (replySlices rs) false with rp := rp, tch := tch, bad := bad } := by
  have hno : (r.kind == .cmb || r.kind == .svc) = false := by rcases hk with h | h <;> rw [h] <;> rfl
  obtain ⟨tch, bad, hwrote⟩ := Warp.wrote_eq ((w.withReplies rs r v).mark v r.n (replySlices rs) false) (regLanes v r.n (replyLanes rs))
  have hbody : w.writeReplies rs r v = if isG v then
        (((w.withReplies rs r v).mark v r.n (replySlices rs) false).wrote (regLanes v r.n (replyLanes rs))).rowsDone
          ((List.range r.n).flatMap fun n => (slicesWhole (replyLanes rs)).map fun j => 8 * (v.toNat + n) + j)
      else ((w.withReplies rs r v).mark v r.n (replySlices rs) false).wrote (regLanes v r.n (replyLanes rs)) := by
    simp only [Warp.writeReplies, hno, Bool.false_eq_true, if_false]
    rfl
  rw [hbody, hwrote]
  split
  · obtain ⟨rp, hrows⟩ := Warp.rowsDone_eq { (w.withReplies rs r v).mark v r.n (replySlices rs) false with tch := tch, bad := bad }
      ((List.range r.n).flatMap fun n => (slicesWhole (replyLanes rs)).map fun j => 8 * (v.toNat + n) + j)
    exact ⟨rp, tch, bad, hrows⟩
  · exact ⟨_, tch, bad, rfl⟩

theorem Warp.rf_writeReplies (w : Warp) (rs : List Req) {r : Req} (hk : r.kind = .load ∨ r.kind = .atom) (v : BitVec 8) :
    (w.writeReplies rs r v).rf = (writtenLanes rs v).foldl (fun rf l => rf.writeQ r.n v l (replyOf rs l)) w.rf := by
  obtain ⟨rp, tch, bad, h⟩ := w.writeReplies_eq rs hk v
  rw [h]
  exact Warp.rf_mark _ _ _ _ _

/-- V is no longer pending in the slices of the requests. -/
theorem Warp.pg_writeReplies (w : Warp) {rs : List Req} {r : Req} (hk : r.kind = .load ∨ r.kind = .atom) {v : BitVec 8} (hg : isG v = true) {q : Req}
    (hq : q ∈ rs) {j : Nat} (hj : j ∈ bitsOf q.slices 8) {n : Nat} (hn : n < r.n) :
    Sparse.get false (w.writeReplies rs r v).pg (8 * (v.toNat + n) + j) = false := by
  obtain ⟨rp, tch, bad, h⟩ := w.writeReplies_eq rs hk v
  rw [h]
  exact Warp.pg_mark_false _ hg hn (List.mem_dedup.2 (List.mem_flatMap.2 ⟨q, hq, hj⟩))

/-- The requests of the instruction that made a request. -/
def State.instReqs (s : State) (r : Req) : List Req := s.fab.reqs.filter fun q => q.inst == r.inst && q.uid == r.uid && q.kind == r.kind

/-- The state in which the requests of a list are gone. -/
def State.withoutReqs (s : State) (rs : List Req) : State := { s with fab := { s.fab with reqs := s.fab.reqs.filter fun q => !rs.contains q } }

/-- Every request of the instruction performed, none poisoned: the replies are written and the requests gone. -/
theorem exec_loadWriteback_writes {s : State} {r : Req} {p : Part} (hfound : s.findReq r.id = some r) (hk : r.kind = .load ∨ r.kind = .atom)
    (hdone : ∀ q ∈ s.instReqs r, q.done = true ∧ q.pois = false) (hp : r.parts.find? r.wants = some p) :
    exec (.loadWriteback r.id) s =
      .next ((s.withoutReqs (s.instReqs r)).modWarp r.core r.warp fun w => w.writeReplies (s.instReqs r) r p.v) := by
  have hserve : s.serveCall r = s := by
    rw [State.serveCall, if_pos]
    rcases hk with h | h <;> simp [h]
  have hready : (r.kind == .store || !(s.instReqs r).all Req.done) = false := by
    have hall : (s.instReqs r).all Req.done = true := List.all_eq_true.2 fun q hq => (hdone q hq).1
    rcases hk with h | h <;> rw [h, hall] <;> rfl
  have hclean : s.poisonedLanes (s.instReqs r) = [] := by
    have hnone : (s.instReqs r).filter Req.pois = [] := List.filter_eq_nil_iff.2 fun q hq => by simp [(hdone q hq).2]
    rw [State.poisonedLanes, hnone]
    rfl
  unfold State.instReqs at hready hclean ⊢
  change Host.Outcome.next _ = _
  simp only [hfound, hserve, State.writeBack, hready, hp, hclean, Bool.false_eq_true, if_false, List.mergeSort_nil]
  rfl

/-! ## The statement -/

/-- What the home does with a request: atomics have events of their own. -/
def State.performHere (s : State) (r : Req) : State :=
  match r.kind with
  | .load => s.performLoad r
  | .store => s.performStore r
  | .atom | .cmb | .svc => s

/-- A request that may be performed, has a way to its home and need not cross a link first is performed there. -/
theorem exec_homeAccessPerform_here {s : State} {r : Req} (hfound : s.findReq r.id = some r) (hdone : r.done = false) (hans : r.ans = none)
    (hmay : s.mayPerform r = true) (hheld : s.waveHolds r.home r.len = false) (hcut : s.cutOff r = false) (hsent : s.unsent r = false) :
    exec (.homeAccessPerform r.id) s = .next ((s.leaveFirst r).performHere r) := by
  have hnow : s.notYet r = false := by simp [State.notYet, hdone, hans, hmay, hheld]
  change Host.Outcome.next _ = _
  simp only [hfound, hnow, hcut, hsent, Bool.false_eq_true, if_false]
  rfl

/-- Settles O22: an access is performed where it is let through, and ends as a load or as a store does (`State.performLoad_spec`,
`State.performStore_spec`); a write-back writes V and takes the requests away. -/
theorem homeAccess : Obligations.HomeAccess := by
  refine ⟨⟨?memory, ?scratchpad, fun s r => ⟨s.storeBytes_plain, fun hm hlen b hb => s.bitAt_storeBytes_mask hm hlen hb,
    fun hm hw _ b hb => s.bitAt_storeBytes_element hm hw hb⟩⟩, ?writeBack⟩
  case memory =>
    intro s r hfound hdone hans hmay hheld hcut hunsent hwarps ho harm hloc hop
    have hexec := exec_homeAccessPerform_here hfound hdone hans hmay hheld hcut hunsent
    obtain ⟨l, hleave⟩ := s.leave_eq (r.leaves.filter (· != r.id))
    obtain ⟨b, hfound'⟩ := s.findReq_leave (r.leaves.filter (· != r.id)) hfound
    rw [State.leaveFirst, hleave] at hexec
    rw [hleave] at hfound'
    refine ⟨_, hexec, ?_⟩
    cases hk : r.kind with
    | load =>
      rw [State.performHere, hk]
      obtain ⟨hbytes, hcores, hvalue, hpeer⟩ := State.performLoad_spec (s := { s with fab := { s.fab with reqs := l } }) ho hloc hk hfound' hdone hwarps
      obtain ⟨hregs, hscr⟩ := hcores.same
      exact ⟨nofun, fun _ => ⟨fun loc b _ => hbytes loc b, fun q hq hl => (hvalue hl).1 q hq⟩, fun _ => hpeer, fun _ hl => (hvalue hl).2,
        fun _ d => ⟨(hscr d).1, hregs.1 d⟩⟩
    | store =>
      rw [State.performHere, hk]
      obtain ⟨hbytes, hcores, hpeer⟩ := State.performStore_spec (s := { s with fab := { s.fab with reqs := l } }) ho harm hloc hk (hop hk) hfound' hdone
        hwarps
      obtain ⟨hregs, hscr⟩ := hcores.same
      exact ⟨fun _ => hbytes, nofun, fun _ => hpeer, nofun, fun _ d => ⟨(hscr d).1, hregs.1 d⟩⟩
    | atom | cmb | svc => exact ⟨nofun, nofun, nofun, nofun, nofun⟩
  case scratchpad =>
    intro s r hfound hk hop hdone hans hmay hloc hwarps hbars hsize
    have hexec := exec_homeAccessPerform_here hfound hdone hans hmay (by simp [State.waveHolds, hloc]) (by simp [State.cutOff, hloc])
      (by simp [State.unsent, hloc])
    obtain ⟨l, hleave⟩ := s.leave_eq (r.leaves.filter (· != r.id))
    rw [State.leaveFirst, hleave, State.performHere, hk] at hexec
    exact ⟨_, hexec, State.performStore_scratch (s := { s with fab := { s.fab with reqs := l } }) hloc hk hop hwarps hbars hsize⟩
  case writeBack =>
    intro s r p hfound hk rs hdone hp lanes
    have hexec : exec (.loadWriteback r.id) s = .next ((s.withoutReqs rs).modWarp r.core r.warp fun w => w.writeReplies rs r p.v) :=
      exec_loadWriteback_writes hfound hk hdone hp
    have hwarp : ∀ d v, ((s.withoutReqs rs).modWarp r.core r.warp fun w => w.writeReplies rs r p.v).warp d v =
        if d = r.core ∧ v = r.warp then (s.warp r.core r.warp).writeReplies rs r p.v else s.warp d v :=
      State.warp_modWarp (s.withoutReqs rs) r.core r.warp _
    refine ⟨_, hexec, ?_, fun q hq hmem => ?_, fun q hq hne => ?_, fun hg q hq j hj n hn => ?_, rfl, fun d v hne => ?_⟩
    · rw [hwarp, if_pos ⟨rfl, rfl⟩]
      exact Warp.rf_writeReplies _ _ hk _
    · exact absurd hq (by simpa using (List.mem_filter.1 hmem).2)
    · exact List.mem_filter.2 ⟨hq, by simpa using hne⟩
    · rw [hwarp, if_pos ⟨rfl, rfl⟩]
      exact Warp.pg_writeReplies _ hk hg hq hj hn
    · rw [hwarp, if_neg (by rintro ⟨hd, hv⟩; exact hne.elim (· hd) (· hv))]

end Sys2Proof.Machine
end

section
/-!
PROOFS. The instruction boundary of a slice (R213): one round of the boundary rule in each of its cases, and the statement.
-/

namespace Sys2Proof.Machine

/-! ## One round (R213) -/

section Settle

variable (n : Nat) {x : Slice}

/-- A slice without an entry has exited once no lane of it is active. -/
theorem Slice.settle_of_no_entry (hs : x.stack = []) :
    Slice.settle (n + 1) x = if x.mask = 0 then { x with st := .exited, park := .none } else x := by
  rw [Slice.settle, hs]

variable {top : DivEntry} {rest : List DivEntry} (hs : x.stack = top :: rest)
include hs

theorem Slice.settle_before_join (hj : x.pc ≠ top.join) (hm : x.mask ≠ 0) : Slice.settle (n + 1) x = x := by
  simp only [Slice.settle, hs]
  exact if_neg (by simpa [hj] using hm)

/-- At the join the lanes that have not run the other path do so. -/
theorem Slice.settle_other_path (hj : x.pc = top.join) (hp : top.pend ≠ 0) :
    Slice.settle (n + 1) x = Slice.settle n { x with pc := top.ppc, mask := top.pend, stack := { top with pend := 0 } :: rest } := by
  simp only [Slice.settle, hs]
  rw [if_pos (by simp [hj]), if_pos hp]

/-- At the join with no other path left all the lanes of the entry go on together. -/
theorem Slice.settle_rejoin (hj : x.pc = top.join) (hp : top.pend = 0) :
    Slice.settle (n + 1) x = Slice.settle n { x with pc := top.join, mask := top.m, stack := rest } := by
  simp [Slice.settle, hs, hj, hp]

end Settle

/-! ## The boundary -/

/-- A slice as it starts from an address, before the boundary rule. -/
def Slice.atPc (x : Slice) (pc : DWord) : Slice :=
  { x with pc := pc &&& 0x1FFFFFFFFFFFFFF, st := .running, park := .none, served := 0, tok := none, ready := false }

theorem Slice.goto_eq (x : Slice) (pc : DWord) : x.goto pc = Slice.settle 24 (x.atPc pc) := rfl

/-- Settles O37: the boundary is at most two rounds of the rule, each of one case. -/
theorem sliceBoundary : Obligations.SliceBoundary := by
  intro y pc
  refine ⟨fun hs => ?exit, fun top rest hs hm hj => ?before, fun top rest hs hj hp hne => ?other, fun top hs hj hp hm => ?rejoin⟩
  case exit =>
    rw [Slice.goto_eq, Slice.settle_of_no_entry 23 (x := y.atPc pc) hs]
    split
    · next h => exact ⟨rfl, rfl, hs, (if_pos h).symm⟩
    · next h => exact ⟨rfl, rfl, hs, (if_neg h).symm⟩
  case before =>
    rw [Slice.goto_eq, Slice.settle_before_join 23 (x := y.atPc pc) hs (Ne.symm hj) hm]
    exact ⟨rfl, rfl, rfl, rfl⟩
  case other =>
    rw [Slice.goto_eq, Slice.settle_other_path 23 (x := y.atPc pc) hs hj.symm hp, Slice.settle_before_join 22 rfl hne hp]
    exact ⟨rfl, rfl, rfl, rfl⟩
  case rejoin =>
    rw [Slice.goto_eq, Slice.settle_rejoin 23 (x := y.atPc pc) hs hj.symm hp, Slice.settle_of_no_entry 22 rfl, if_neg hm]
    exact ⟨hj, rfl, rfl, rfl⟩

end Sys2Proof.Machine
end

section
/-!
PROOFS. Control transfer of gangs and sequencers (R212, R213, R381, R382): the lanes of a slice that act, a branch whose lanes disagree, and the
transfers that a slice's lanes must agree on.
-/

namespace Sys2Proof.Machine

/-! ## What is left as it was -/

theorem sameRegs_refl (s : State) : sameRegs s s := ⟨fun _ _ => rfl, fun _ _ _ => rfl⟩

/-- A change of a warp that keeps its registers changes no register. -/
theorem sameRegs_modWarp (s : State) (c w : Nat) {f : Warp → Warp} (h : (f (s.warp c w)).rf = (s.warp c w).rf) : sameRegs s (s.modWarp c w f) := by
  refine sameRegs_setCore ⟨fun v => ?_, fun _ => rfl, fun _ _ => rfl⟩
  rw [Core.warp_modWarp]
  split
  · next e => rw [e]; exact h
  · rfl

theorem State.warp_modWarp_self (s : State) (c w : Nat) (f : Warp → Warp) : (s.modWarp c w f).warp c w = f (s.warp c w) := by
  rw [State.warp_modWarp, if_pos ⟨rfl, rfl⟩]

theorem Warp.rf_foldl_modSlice (l : List Nat) (f : Nat → Slice → Slice) (w : Warp) : (l.foldl (fun v j => v.modSlice j (f j)) w).rf = w.rf :=
  Warp.foldl_keeps Warp.rf l (fun v j => v.modSlice j (f j)) (fun _ _ => rfl) w

/-! ## The lanes of one slice (R92, R94) -/

theorem Warp.mem_activeLanes {v : Warp} {k l : Nat} : l ∈ v.activeLanes k ↔ ∃ i, i < 4 ∧ bitAt (v.slice k).mask i = true ∧ 4 * k + i = l := by
  simp [Warp.activeLanes, and_assoc]

/-- Of the lanes that act, those of a slice are its active lanes whose guard holds. -/
theorem Warp.filter_actingLanes (v : Warp) {ms : List Nat} (hms : ms.Nodup) {k : Nat} (hk : k ∈ ms) (gd : BitVec 4) :
    ((v.actingLanes ms gd).filter fun l => l / 4 == k) = (v.activeLanes k).filter fun l => v.rf.guard gd l := by
  have hslice : ∀ j, ((v.activeLanes j).filter fun l => v.rf.guard gd l).filter (fun l => l / 4 == k) =
      if j = k then (v.activeLanes k).filter fun l => v.rf.guard gd l else [] := by
    intro j
    have hdiv : ∀ l ∈ (v.activeLanes j).filter fun l => v.rf.guard gd l, l / 4 = j := by
      intro l hl
      obtain ⟨i, hi, -, rfl⟩ := Warp.mem_activeLanes.1 (List.mem_of_mem_filter hl)
      omega
    split
    · next e => subst e; exact List.filter_eq_self.2 fun l hl => by simpa using hdiv l hl
    · next e => exact List.filter_eq_nil_iff.2 fun l hl => by simpa [hdiv l hl] using e
  rw [Warp.actingLanes, List.filter_flatMap]
  simp only [hslice]
  induction ms with
  | nil => exact absurd hk List.not_mem_nil
  | cons j ms ih =>
    obtain ⟨hj, hms⟩ := List.nodup_cons.1 hms
    rw [List.flatMap_cons]
    rcases List.mem_cons.1 hk with rfl | hk
    · rw [if_pos rfl, List.flatMap_eq_nil_iff.2 fun i hi => if_neg (ne_of_mem_of_not_mem hi hj), List.append_nil]
    · rw [if_neg fun (e : j = k) => hj (e ▸ hk), List.nil_append, ih hms hk]

theorem bitAt_laneMask (acting : List Nat) (k : Nat) {i : Nat} (hi : i < 4) : bitAt (laneMask acting k) i = decide (4 * k + i ∈ acting) := by
  rw [laneMask, bitAt_maskOf _ hi]
  refine decide_eq_decide.2 ⟨fun h => ?_, fun h => ?_⟩
  · obtain ⟨l, hl, rfl⟩ := List.mem_map.1 h
    obtain ⟨hl, hk⟩ := List.mem_filter.1 hl
    have hk := beq_iff_eq.1 hk
    rwa [show 4 * k + l % 4 = l by omega]
  · refine List.mem_map.2 ⟨4 * k + i, List.mem_filter.2 ⟨h, ?_⟩, by omega⟩
    exact beq_iff_eq.2 (by omega)

/-- Every active lane of a slice acts just where the mask of those that act is the slice's. -/
theorem Warp.laneMask_eq_mask_iff (v : Warp) {ms : List Nat} (hms : ms.Nodup) {k : Nat} (hk : k ∈ ms) (gd : BitVec 4) :
    laneMask (v.actingLanes ms gd) k = (v.slice k).mask ↔ ((v.actingLanes ms gd).filter fun l => l / 4 == k) = v.activeLanes k := by
  have hmem : ∀ l, l ∈ v.actingLanes ms gd ∧ l / 4 = k ↔ l ∈ v.activeLanes k ∧ v.rf.guard gd l = true := by
    intro l
    rw [← List.mem_filter (p := fun l => v.rf.guard gd l), ← v.filter_actingLanes hms hk gd, List.mem_filter, beq_iff_eq]
  constructor
  · intro h
    rw [v.filter_actingLanes hms hk gd]
    refine List.filter_eq_self.2 fun l hl => ?_
    obtain ⟨i, hi, hbit, rfl⟩ := Warp.mem_activeLanes.1 hl
    rw [← h, bitAt_laneMask _ k hi, decide_eq_true_eq] at hbit
    exact ((hmem _).1 ⟨hbit, by omega⟩).2
  · intro h
    refine BitVec.eq_of_getLsbD_eq fun i hi => ?_
    change bitAt _ i = bitAt _ i
    rw [bitAt_laneMask _ k hi]
    have hiff : 4 * k + i ∈ v.actingLanes ms gd ↔ 4 * k + i ∈ v.activeLanes k := by
      rw [← h, List.mem_filter, beq_iff_eq]
      exact ⟨fun hl => ⟨hl, by omega⟩, And.left⟩
    rw [decide_eq_decide.2 (hiff.trans Warp.mem_activeLanes), Bool.eq_iff_iff, decide_eq_true_eq]
    refine ⟨?_, fun hb => ⟨i, hi, hb, rfl⟩⟩
    rintro ⟨n, -, hb, he⟩
    obtain rfl : n = i := by omega
    exact hb

/-! ## BRA (R213, R381) -/

theorem branchBad_eq (f : FmtC) (y : Slice) (t : BitVec 4) :
    branchBad f y t = (t != 0 && t != y.mask && (f.j20 == 0 || decide (8 ≤ y.stack.length))) := by
  simp only [branchBad, ne_eq, decide_not, bne]
  rfl

theorem Slice.diverge_of_agree {y : Slice} {t : BitVec 4} (h : ¬ (t ≠ 0 ∧ t ≠ y.mask)) (f : FmtC) (pc next : DWord) : y.diverge f pc next t = y :=
  if_pos (by tauto)

theorem Slice.diverge_of_split {y : Slice} {t : BitVec 4} (h : t ≠ 0 ∧ t ≠ y.mask) (f : FmtC) (pc next : DWord) :
    y.diverge f pc next t =
      { y with mask := t, stack := ⟨(pc + 8 * f.j20.signExtend 64) &&& 0x1FFFFFFFFFFFFFF, y.mask, next, y.mask &&& ~~~ t⟩ :: y.stack } :=
  if_neg (by tauto)

/-- Whether a slice of an issue raises BD at a branch. -/
def State.branchFaults (s : State) (x : Issue) (f : FmtC) (k : Nat) : Bool := branchBad f ((s.warp x.core x.warp).slice k) (laneMask x.acting k)

section Branch

variable {s : State} {x : Issue} (f : FmtC)

theorem State.branch_bad (h : ∃ k ∈ x.slices, s.branchFaults x f k = true) : s.branch x f = .fault (x.slices.filter (s.branchFaults x f)) cBD 0 := by
  obtain ⟨k, hk, hbad⟩ := h
  refine if_pos ?_
  rw [Bool.not_eq_true', List.isEmpty_eq_false_iff]
  exact List.ne_nil_of_mem (List.mem_filter.2 ⟨hk, hbad⟩)

/-- The slices whose lanes disagree have pushed their entries. -/
def State.diverged (s : State) (x : Issue) (f : FmtC) : State :=
  s.modWarp x.core x.warp fun v => x.slices.foldl (fun v k => v.modSlice k fun y => y.diverge f x.pc x.next (laneMask x.acting k)) v

theorem State.branch_go (h : ∀ k ∈ x.slices, s.branchFaults x f k = false) :
    s.branch x f = .go (s.diverged x f) (x.slices.map fun k => (k, if laneMask x.acting k = 0 then x.next else x.pc + 8 * f.t20.signExtend 64)) := by
  refine if_neg ?_
  rw [Bool.not_eq_true', List.isEmpty_eq_false_iff, not_not]
  exact List.filter_eq_nil_iff.2 fun k hk => Bool.eq_false_iff.1 (h k hk)

theorem State.sameRegs_diverged : sameRegs s (s.diverged x f) := sameRegs_modWarp _ _ _ (Warp.rf_foldl_modSlice _ _ _)

theorem State.slice_diverged (hx : x.slices.Nodup) {k : Nat} (hk : k ∈ x.slices) : ((s.diverged x f).warp x.core x.warp).slice k =
    ((s.warp x.core x.warp).slice k).diverge f x.pc x.next (laneMask x.acting k) := by
  rw [State.diverged, State.warp_modWarp_self, Warp.slice_foldl_modSlice hx, if_pos hk]

end Branch

/-! ## BRX, CALL, RET (R382) -/

/-- The acting lanes of a slice are all of its active ones and name one address, unless none acts. -/
def Warp.agrees (v : Warp) (acting : List Nat) (tgt : Nat → DWord) (k : Nat) : Prop :=
  let mine := acting.filter fun l => l / 4 == k
  mine = [] ∨ (mine = v.activeLanes k ∧ ∀ l ∈ mine, tgt l = tgt (mine.headD 0))

theorem Warp.nonUniform_iff (v : Warp) {ms : List Nat} (hms : ms.Nodup) {k : Nat} (hk : k ∈ ms) (gd : BitVec 4) (tgt : Nat → DWord) :
    nonUniform v (v.actingLanes ms gd) tgt k = true ↔ ¬ v.agrees (v.actingLanes ms gd) tgt k := by
  have hmask := v.laneMask_eq_mask_iff hms hk gd
  simp only [nonUniform, Warp.agrees, Bool.and_eq_true, Bool.or_eq_true, Bool.not_eq_true', List.isEmpty_eq_false_iff, bne_iff_ne, ne_eq, hmask,
    List.any_eq_true]
  push Not
  exact and_congr_right fun _ => imp_iff_not_or.symm

section Transfer

variable (s : State) (c w j : Nat) (i : Instr) (tgt : Nat → DWord) (eff : State → State)

theorem State.transfer_bad (h : ¬ ∀ k ∈ (s.gangIssue c w j i).slices, (s.warp c w).agrees (s.gangIssue c w j i).acting tgt k) :
    ∃ sls, (∀ k, k ∈ sls ↔ k ∈ (s.gangIssue c w j i).slices ∧ ¬ (s.warp c w).agrees (s.gangIssue c w j i).acting tgt k)
      ∧ s.transfer (s.gangIssue c w j i) tgt eff = .fault sls cBD 0 := by
  have hmem : ∀ k, k ∈ (s.gangIssue c w j i).slices.filter (nonUniform (s.warp c w) (s.gangIssue c w j i).acting tgt)
      ↔ k ∈ (s.gangIssue c w j i).slices ∧ ¬ (s.warp c w).agrees (s.gangIssue c w j i).acting tgt k := fun k =>
    List.mem_filter.trans (and_congr_right fun hk => (s.warp c w).nonUniform_iff ((s.warp c w).nodup_gangOf j) hk _ tgt)
  refine ⟨_, hmem, if_pos ?_⟩
  rw [Bool.not_eq_true', List.isEmpty_eq_false_iff]
  push Not at h
  obtain ⟨k, hk, hno⟩ := h
  exact List.ne_nil_of_mem ((hmem k).2 ⟨hk, hno⟩)

theorem State.transfer_go (h : ∀ k ∈ (s.gangIssue c w j i).slices, (s.warp c w).agrees (s.gangIssue c w j i).acting tgt k) :
    s.transfer (s.gangIssue c w j i) tgt eff = .go (eff s) ((s.gangIssue c w j i).slices.map fun k =>
      (k, if (s.gangIssue c w j i).acting.filter (fun l => l / 4 == k) = [] then (s.gangIssue c w j i).next
        else tgt (((s.gangIssue c w j i).acting.filter fun l => l / 4 == k).headD 0))) := by
  have hnone : (s.gangIssue c w j i).slices.filter (nonUniform (s.warp c w) (s.gangIssue c w j i).acting tgt) = [] :=
    List.filter_eq_nil_iff.2 fun k hk hbad => ((s.warp c w).nonUniform_iff ((s.warp c w).nodup_gangOf j) hk _ tgt).1 hbad (h k hk)
  refine (if_neg ?_).trans ?_
  · rw [Bool.not_eq_true', List.isEmpty_eq_false_iff, not_not]
    exact hnone
  · congr 2
    funext k
    rw [← List.head?_filter]
    cases (s.gangIssue c w j i).acting.filter fun l => l / 4 == k <;> rfl

end Transfer

/-- A ready gang holds a slice. -/
theorem State.slices_of_gangReady {s : State} {c w j : Nat} {i : Instr} (h : s.gangReady c w j i = true) : j ∈ (s.gangIssue c w j i).slices := by
  obtain ⟨-, hruns, -⟩ := (s.gangReady_iff c w j i).1 h
  simp only [State.gangRuns, Bool.and_eq_true, List.contains_iff_mem] at hruns
  exact hruns.1.1.2

theorem State.link_gang {s : State} {c w j : Nat} {i : Instr} (h : s.gangReady c w j i = true) (f : FmtC) :
    s.link (s.gangIssue c w j i) f =
      s.setRF c w ((s.warp c w).rf.writeLanes 2 f.l (s.gangIssue c w j i).acting fun _ => (s.gangIssue c w j i).pc + 8) := by
  have hne : (s.gangIssue c w j i).slices.isEmpty = false := List.isEmpty_eq_false_iff.2 (List.ne_nil_of_mem (State.slices_of_gangReady h))
  simp only [State.link, State.setRfOf, State.rfOf, hne, Bool.false_eq_true, if_false]
  rfl

theorem State.link_seq {s : State} {c b : Nat} {cp : Bool} {i : Instr} (h : s.seqReady c b cp i = true) (f : FmtC) :
    s.link (s.seqIssue c b cp i) f =
      s.setSeq c b cp { (s.core c).seq b cp with rf := ((s.core c).seq b cp).rf.write2 f.l 0 (((s.core c).seq b cp).pc + 8) } := by
  have hw : ∀ (r : RF) (v : DWord), r.writeLanes 2 f.l [0] (fun _ => v) = r.write2 f.l 0 v := fun r v => by
    unfold RF.writeLanes
    split <;> rfl
  rw [State.link, s.seqIssue_acting c b cp i h, hw]
  rfl

/-- Where a slice-uniform transfer goes in a lane: the address of the instruction itself, of a CALL that has one, or the pair L (R382). -/
def State.uniformTarget (s : State) (c w j : Nat) (i : Instr) (f : FmtC) (call : Bool) (l : Nat) : DWord :=
  if call && f.t20 != 0 then (s.gangIssue c w j i).pc + 8 * f.t20.signExtend 64 else (s.warp c w).rf.read2 f.l l &&& 0x1FFFFFFFFFFFFFF

/-- BRX, CALL and RET of a ready gang are the transfer to that target, CALL with its link. -/
theorem exec_uniform {s : State} {c w j : Nat} {i : Instr} {f : FmtC} {call : Bool} (hi : (i, call) ∈ [(.brx f, false), (.call f, true), (.ret f, false)])
    (h : s.gangReady c w j i = true) :
    exec i s = .next (s.finishGang (s.gangIssue c w j i) (s.warp c w).pmsel
      (s.transfer (s.gangIssue c w j i) (s.uniformTarget c w j i f call) fun t => if call then t.link (s.gangIssue c w j i) f else t)) := by
  simp only [List.mem_cons, Prod.mk.injEq, List.not_mem_nil, or_false] at hi
  obtain ⟨rfl, rfl⟩ | ⟨rfl, rfl⟩ | ⟨rfl, rfl⟩ := hi
  · exact s.issue_gang c w j _ _ _ h
  · refine (s.issue_gang c w j _ _ _ h).trans ?_
    have htgt : callTarget f (s.warp c w).rf (s.gangIssue c w j (.call f)).pc = s.uniformTarget c w j (.call f) f true := by
      funext l
      simp only [callTarget, State.uniformTarget, Bool.true_and, bne_iff_ne, ne_eq, ite_not]
      rfl
    rw [← htgt]
    rfl
  · exact s.issue_gang c w j _ _ _ h

end Sys2Proof.Machine
end

section
/-!
PROOFS. EXIT and REGANG of a gang (R213, R214, R383, R384), and the statement on control transfer.
-/

namespace Sys2Proof.Machine

/-! ## EXIT (R213, R374, R383) -/

theorem Block.foldl_setBar_eq (l : List Nat) (f : Bar → Bar) (b : Block) :
    ∃ nbar, l.foldl (fun x n => x.setBar n (f (x.bar n))) b = { b with nbar := nbar } := by
  induction l generalizing b with
  | nil => exact ⟨_, rfl⟩
  | cons n l ih => exact ih (b.setBar n (f (b.bar n)))

/-- A barrier that a function leaves alone is left alone where it is applied to barriers of a block. -/
theorem Block.bar_foldl_setBar {f : Bar → Bar} {n : Nat} {b : Block} (h : f (b.bar n) = b.bar n) (l : List Nat) :
    (l.foldl (fun x n => x.setBar n (f (x.bar n))) b).bar n = b.bar n := by
  induction l generalizing b with
  | nil => rfl
  | cons m l ih =>
    have hset : (b.setBar m (f (b.bar m))).bar n = b.bar n := by
      refine (Sparse.get_set _ _ m n _).trans ?_
      split
      · next e => rw [← e, h]
      · rfl
    rw [List.foldl_cons, ih (by rw [hset, h]), hset]

theorem Core.block_modBars (k : Core) (b : Nat) (f : Bar → Bar) (a : Nat) :
    (k.modBars b f).block a = if a = b then (List.range 16).foldl (fun x n => x.setBar n (f (x.bar n))) (k.block b) else k.block a :=
  Core.block_modBlock k b (fun x => (List.range 16).foldl (fun x n => x.setBar n (f (x.bar n))) x) a

theorem keepsIssuers_modBars (k : Core) (b : Nat) (f : Bar → Bar) : keepsIssuers k (k.modBars b f) := by
  have hblock : ∀ a, ∃ nbar, (k.modBars b f).block a = { k.block a with nbar := nbar } := by
    intro a
    rw [Core.block_modBars]
    split
    · next e => rw [e]; exact Block.foldl_setBar_eq _ _ _
    · exact ⟨_, rfl⟩
  refine ⟨fun _ => rfl, fun a => ?_, fun a cp => ?_⟩
  · obtain ⟨_, h⟩ := hblock a
    rw [h]
  · obtain ⟨_, h⟩ := hblock a
    rw [Core.seq, h]
    rfl

/-- An arrival that no slice has recorded does not take effect. -/
theorem Bar.take_of_none {b : Bar} {w : Nat} (h : Sparse.get 0 b.recd w = 0) (left : BitVec 8) : b.take w left = b :=
  if_neg fun hr => hr.1 h

section Exit

variable (s : State) (x : Issue)

/-- The acting lanes of every slice have ended. -/
def State.lanesEnded : State :=
  s.modWarp x.core x.warp fun v => x.slices.foldl (fun v k => v.modSlice k fun y => y.endLanes (laneMask x.acting k)) v

/-- The slices of the warp that have not exited once the gang goes on. -/
def State.leftAfter : BitVec 8 :=
  let v := (s.lanesEnded x).warp x.core x.warp
  maskOf 8 ((List.range 8).filter fun k => if x.slices.contains k then ((v.slice k).goto x.next).st != .exited else (v.slice k).st != .exited)

/-- The state from which the gang of an EXIT goes on: lanes have ended, and the arrivals that waited for them alone have taken effect. -/
def State.exitEffect : State :=
  (s.lanesEnded x).modCore x.core fun k => k.modBars x.block fun b => b.take x.warp (s.leftAfter x)

theorem State.exitLanes_eq : s.exitLanes x = .go (s.exitEffect x) (x.slices.map fun k => (k, x.next)) := rfl

theorem State.sameRegs_exitEffect : sameRegs s (s.exitEffect x) :=
  (sameRegs_modWarp s _ _ (Warp.rf_foldl_modSlice _ _ _)).trans (sameRegs_setCore (keepsIssuers_modBars _ _ _))

theorem State.slice_exitEffect {k : Nat} (hx : x.slices.Nodup) (hk : k ∈ x.slices) :
    ((s.exitEffect x).warp x.core x.warp).slice k = ((s.warp x.core x.warp).slice k).endLanes (laneMask x.acting k) := by
  have hwarp : (s.exitEffect x).warp x.core x.warp = (s.lanesEnded x).warp x.core x.warp := by
    rw [State.exitEffect, State.warp, State.core_modCore_self]
    rfl
  rw [hwarp, State.lanesEnded, State.warp_modWarp_self, Warp.slice_foldl_modSlice hx, if_pos hk]

/-- A barrier with no arrival of the warp that waits is as it was. -/
theorem State.bar_exitEffect {n : Nat} (h : Sparse.get 0 (((s.core x.core).block x.block).bar n).recd x.warp = 0) :
    (((s.exitEffect x).core x.core).block x.block).bar n = ((s.core x.core).block x.block).bar n := by
  have hblock : ((s.lanesEnded x).core x.core).block x.block = (s.core x.core).block x.block := State.block_modWarp s _ _ _ _ _
  rw [State.exitEffect, State.core_modCore_self, Core.block_modBars, if_pos rfl, hblock]
  exact Block.bar_foldl_setBar (f := fun b => b.take x.warp (s.leftAfter x)) (Bar.take_of_none h _) _

end Exit

/-! ## REGANG (R214, R384) -/

theorem Slice.regangs_iff (y : Slice) : y.regangs = true ↔ y.st = .parked ∧ y.park = .regang := by simp [Slice.regangs]

theorem Slice.atRegang_iff (y : Slice) (pc : DWord) (m : BitVec 8) :
    y.atRegang pc m = true ↔ (y.st = .parked ∧ y.park = .regang) ∧ y.pc = pc ∧ y.rgMask = m := by
  simp [Slice.atRegang, and_assoc]

section Regang

variable {s : State} {x : Issue} {m : BitVec 8}

theorem State.entersRegang_iff : s.entersRegang x = true ↔ x.again = false ∨ ∃ k ∈ x.slices, ((s.warp x.core x.warp).slice k).ready = true := by
  simp [State.entersRegang]

/-- A slice of the gang is not in the mask. -/
theorem State.regang_outside (h : ∃ k ∈ x.slices, bitAt m k = false) : s.regang x m = .fault (x.slices.filter fun k => !bitAt m k) cGM 0 := by
  obtain ⟨k, hk, hbit⟩ := h
  refine if_pos ?_
  rw [Bool.not_eq_true', List.isEmpty_eq_false_iff]
  exact List.ne_nil_of_mem (List.mem_filter.2 ⟨hk, by rw [hbit]; rfl⟩)

/-- The gang enters, and a slice of the mask waits at a different REGANG. -/
def State.regangDiffers (s : State) (x : Issue) (m : BitVec 8) : Bool :=
  s.entersRegang x && (List.range 8).any fun k =>
    bitAt m k && ((s.warp x.core x.warp).slice k).regangs && !((s.warp x.core x.warp).slice k).atRegang x.pc m

theorem State.regangDiffers_iff : s.regangDiffers x m = true ↔ s.entersRegang x = true ∧ ∃ k, k < 8 ∧ bitAt m k = true
    ∧ ((s.warp x.core x.warp).slice k).regangs = true ∧ ¬ ((s.warp x.core x.warp).slice k).atRegang x.pc m = true := by
  simp [State.regangDiffers, and_assoc]

/-- The other slices of the mask, which the gang waits for. -/
def State.regangOthers (s : State) (x : Issue) (m : BitVec 8) : List Nat :=
  (List.range 8).filter fun k => bitAt m k && !x.slices.contains k && ((s.warp x.core x.warp).slice k).st != .exited

theorem State.mem_regangOthers {k : Nat} : k ∈ s.regangOthers x m ↔
    k < 8 ∧ bitAt m k = true ∧ k ∉ x.slices ∧ ((s.warp x.core x.warp).slice k).st ≠ .exited := by
  simp [State.regangOthers, and_assoc]

/-- The slices that form one gang. -/
def State.regangAll (s : State) (x : Issue) (m : BitVec 8) : List Nat :=
  (List.range 8).filter fun k => x.slices.contains k || (s.regangOthers x m).contains k

theorem State.mem_regangAll (hx : ∀ k ∈ x.slices, k < 8) {k : Nat} : k ∈ s.regangAll x m ↔ k ∈ x.slices ∨ k ∈ s.regangOthers x m := by
  simp only [State.regangAll, List.mem_filter, List.mem_range, Bool.or_eq_true, List.contains_iff_mem]
  refine and_iff_right_of_imp fun h => h.elim (hx k) fun h => ?_
  obtain ⟨hk, -⟩ := State.mem_regangOthers.1 h
  exact hk

theorem State.nodup_regangAll : (s.regangAll x m).Nodup := List.nodup_range.filter _

/-- The slices of the mask go on as one gang. -/
def State.regangFormed (s : State) (x : Issue) (m : BitVec 8) : State :=
  (s.counted x (s.warp x.core x.warp).pmsel).advance x.core x.warp (s.regangAll x m) ((s.regangAll x m).map fun k => (k, x.next)) true

/-- With every slice of the gang in the mask, the gang meets a different REGANG, forms one with the others, or waits for them. -/
theorem State.regang_inside (hin : ∀ k ∈ x.slices, bitAt m k = true) : s.regang x m =
    if s.regangDiffers x m = true then Act.fault x.slices cGM 0
    else if ((s.regangOthers x m).all fun k => ((s.warp x.core x.warp).slice k).atRegang x.pc m) = true then Act.miss (s.regangFormed x m)
    else Act.go (s.waitRegang x m) [] := by
  refine if_neg ?_
  rw [Bool.not_eq_true', List.isEmpty_eq_false_iff, not_not]
  exact List.filter_eq_nil_iff.2 fun k hk => by simp [hin k hk]

end Regang

/-! ### Waiting -/

section Wait

variable (s : State) (x : Issue)

theorem State.sameRegs_park (sls : List Nat) (p : Park) : sameRegs s (s.park x sls p) :=
  sameRegs_modWarp s _ _ (Warp.rf_foldl_modSlice sls (fun _ y => { y with st := .parked, park := p }) _)

/-- A slice parked stands where it stood. -/
theorem State.slice_park {sls : List Nat} (hs : sls.Nodup) (p : Park) {k : Nat} (hk : k ∈ sls) :
    ((s.park x sls p).warp x.core x.warp).slice k = { (s.warp x.core x.warp).slice k with st := .parked, park := p } := by
  rw [State.park, State.warp_modWarp_self]
  exact (Warp.slice_foldl_modSlice hs _ _ k).trans (if_pos hk)

/-- The slices of the gang parked at a REGANG, unless they wait there already. -/
def State.parkedAtRegang : State := if x.again then s else s.park x x.slices .regang

theorem State.sameRegs_waitRegang (m : BitVec 8) : sameRegs s (s.waitRegang x m) := by
  have hpark : sameRegs s (s.parkedAtRegang x) := by
    unfold State.parkedAtRegang
    split
    · exact sameRegs_refl s
    · exact s.sameRegs_park x _ _
  exact hpark.trans (sameRegs_modWarp _ _ _ (Warp.rf_foldl_modSlice _ (fun _ y => { y with rgMask := m, ready := false }) _))

theorem State.slice_waitRegang (m : BitVec 8) (hx : x.slices.Nodup)
    (hagain : x.again = true → ∀ k ∈ x.slices, ((s.warp x.core x.warp).slice k).st = .parked ∧ ((s.warp x.core x.warp).slice k).park = .regang)
    {k : Nat} (hk : k ∈ x.slices) : let y := ((s.waitRegang x m).warp x.core x.warp).slice k
    y.st = .parked ∧ y.park = .regang ∧ y.rgMask = m ∧ y.pc = ((s.warp x.core x.warp).slice k).pc := by
  have hparked : let y := ((s.parkedAtRegang x).warp x.core x.warp).slice k
      y.st = .parked ∧ y.park = .regang ∧ y.pc = ((s.warp x.core x.warp).slice k).pc := by
    unfold State.parkedAtRegang
    split
    · next h => exact ⟨(hagain h k hk).1, (hagain h k hk).2, rfl⟩
    · rw [s.slice_park x hx _ hk]
      exact ⟨rfl, rfl, rfl⟩
  have hslice : ((s.waitRegang x m).warp x.core x.warp).slice k =
      { ((s.parkedAtRegang x).warp x.core x.warp).slice k with rgMask := m, ready := false } := by
    refine (congrArg (Warp.slice · k) (State.warp_modWarp_self _ _ _ _)).trans ?_
    exact (Warp.slice_foldl_modSlice hx (fun _ y => { y with rgMask := m, ready := false }) _ k).trans (if_pos hk)
  obtain ⟨hst, hpark, hpc⟩ := hparked
  rw [hslice]
  exact ⟨hst, hpark, rfl, hpc⟩

end Wait

/-! ### Forming one gang -/

/-- What differs beside no warp but one, whose registers are the same, has the same registers. -/
theorem besideWarp.sameRegs {c w : Nat} {s t : State} (h : besideWarp c w s t) (hrf : (t.warp c w).rf = (s.warp c w).rf) : sameRegs s t := by
  refine ⟨fun d v => ?_, fun d b cp => ?_⟩
  · by_cases hd : d = c
    · subst hd
      by_cases hv : v = w
      · rw [hv, hrf]
      · rw [h.warp v hv]
    · rw [State.warp, h.core d hd, State.warp]
  · by_cases hd : d = c
    · have hrest := congrArg Core.blocks h.rest
      have hblocks : (t.core c).blocks = (s.core c).blocks := hrest
      rw [hd, Core.seq, Core.block, hblocks]
      rfl
    · rw [h.core d hd]

theorem State.sameRegs_counted (s : State) (x : Issue) (p : Word) : sameRegs s (s.counted x p) := by
  obtain ⟨_, h⟩ := s.warp_counted x p
  exact (besideWarp_counted s x p).sameRegs (by rw [h]; rfl)

section Advance

variable {ms : List Nat} (hms : ms.Nodup)
include hms

/-- The slices that go on, before they part into gangs. -/
theorem Warp.slice_gone (w : Warp) (pc : DWord) (k : Nat) :
    ((ms.map fun j => (j, pc)).foldl (fun v p => v.modSlice p.1 fun x => x.goto p.2) w).slice k =
      if k ∈ ms then (w.slice k).goto pc else w.slice k := by
  rw [List.foldl_map]
  exact Warp.slice_foldl_modSlice hms (fun _ x => x.goto pc) w k

/-- Slices of one gang that go on at one address are of one gang where the boundary leaves them at one address (R212). -/
theorem Warp.bitAt_gang_advance (w : Warp) (pc now : DWord) (first : Bool) {k m : Nat} (hk : k ∈ ms) (hm : m < 8)
    (hrun : ((w.slice k).goto pc).st ≠ .exited) :
    bitAt ((w.advance ms (ms.map fun j => (j, pc)) now first).slice k).gang m = true ↔
      m ∈ ms ∧ ((w.slice m).goto pc).st ≠ .exited ∧ ((w.slice m).goto pc).pc = ((w.slice k).goto pc).pc := by
  rw [Warp.advance, Warp.part, Warp.slice_foldl_modSlice hms, if_pos hk]
  dsimp only
  rw [bitAt_maskOf _ hm, decide_eq_true_eq, List.mem_filter]
  refine and_congr_right fun hmem => ?_
  rw [Warp.slice_gone hms, if_pos hmem, Warp.slice_gone hms, if_pos hk]
  simp [hrun]

/-- A warp one of whose slices goes on is still resident. -/
theorem State.advance_of_running (s : State) (c w : Nat) (pc : DWord) (first : Bool) {k : Nat} (hk : k ∈ ms) (h8 : k < 8)
    (hrun : (((s.warp c w).slice k).goto pc).st ≠ .exited) :
    s.advance c w ms (ms.map fun j => (j, pc)) first =
      s.modWarp c w fun x => x.advance ms (ms.map fun j => (j, pc)) (s.core c).cycle first := by
  refine if_neg fun hdone => ?_
  rw [State.warp_modWarp_self, Warp.done, List.all_eq_true] at hdone
  obtain ⟨_, _, h⟩ := Warp.slice_advance hms (s.warp c w) pc (s.core c).cycle first k
  have hst := hdone k (List.mem_range.2 h8)
  rw [h, if_pos hk, beq_iff_eq] at hst
  exact hrun hst

end Advance

section Formed

variable (s : State) (x : Issue) (m : BitVec 8) (hx : ∀ k ∈ x.slices, k < 8)
include hx

/-- A gang formed, of which a slice goes on: no memory and no register changes, each slice of the mask goes on at the next instruction, and those
that the boundary leaves at one address are of one gang. -/
theorem State.regangFormed_spec {k₀ : Nat} (hk₀ : k₀ ∈ x.slices) (hrun : (((s.warp x.core x.warp).slice k₀).goto x.next).st ≠ .exited) :
    let t := s.regangFormed x m
    let y := fun k => ((s.warp x.core x.warp).slice k).goto x.next
    let z := fun k => (t.warp x.core x.warp).slice k
    t.mem = s.mem ∧ sameRegs s t ∧ ∀ k, k ∈ x.slices ∨ k ∈ s.regangOthers x m →
      ((z k).pc = (y k).pc ∧ (z k).mask = (y k).mask ∧ (z k).stack = (y k).stack ∧ (z k).st = (y k).st)
      ∧ ((y k).st ≠ .exited → ∀ n, n < 8 → (bitAt (z k).gang n = true ↔
          (n ∈ x.slices ∨ n ∈ s.regangOthers x m) ∧ (y n).st ≠ .exited ∧ (y n).pc = (y k).pc)) := by
  intro t y z
  obtain ⟨p, hcounted⟩ := s.warp_counted x (s.warp x.core x.warp).pmsel
  have hslice : ∀ k, ((s.counted x (s.warp x.core x.warp).pmsel).warp x.core x.warp).slice k = (s.warp x.core x.warp).slice k := fun k => by
    rw [hcounted]
    rfl
  have hmem : ∀ k, k ∈ s.regangAll x m ↔ k ∈ x.slices ∨ k ∈ s.regangOthers x m := fun k => State.mem_regangAll hx
  have ht : t = (s.counted x (s.warp x.core x.warp).pmsel).modWarp x.core x.warp _ :=
    State.advance_of_running State.nodup_regangAll _ _ _ x.next true ((hmem k₀).2 (.inl hk₀)) (hx k₀ hk₀) (by rw [hslice]; exact hrun)
  have hwarp := congrArg (fun u => State.warp u x.core x.warp) ht
  rw [State.warp_modWarp_self] at hwarp
  refine ⟨?_, ?_, fun k hk => ⟨?_, fun hst n hn => ?_⟩⟩
  · obtain ⟨_, _, h⟩ := (besideWarp_counted s x (s.warp x.core x.warp).pmsel).device
    rw [ht, State.modWarp_mem, h]
  · rw [ht]
    refine (s.sameRegs_counted x _).trans (sameRegs_modWarp _ _ _ ?_)
    obtain ⟨_, h⟩ := Warp.advance_eq ((s.counted x (s.warp x.core x.warp).pmsel).warp x.core x.warp) (s.regangAll x m)
      ((s.regangAll x m).map fun k => (k, x.next)) ((s.counted x (s.warp x.core x.warp).pmsel).core x.core).cycle true
    rw [h]
  · obtain ⟨gang, issued, h⟩ := Warp.slice_advance (State.nodup_regangAll (s := s) (x := x) (m := m))
      ((s.counted x (s.warp x.core x.warp).pmsel).warp x.core x.warp) x.next
      ((s.counted x (s.warp x.core x.warp).pmsel).core x.core).cycle true k
    rw [if_pos ((hmem k).2 hk), hslice] at h
    simp only [z, hwarp, h]
    exact ⟨rfl, rfl, rfl, rfl⟩
  · simp only [z, hwarp]
    rw [Warp.bitAt_gang_advance State.nodup_regangAll _ _ _ _ ((hmem k).2 hk) hn (by rw [hslice]; exact hst), hmem, hslice, hslice]

end Formed

end Sys2Proof.Machine
end

section
/-!
PROOFS. The statement on control transfer (R212 to R214, R380 to R385), one lemma for each of its parts.
-/

namespace Sys2Proof.Machine

theorem exec_bra_gang {s : State} {c w j : Nat} {f : FmtC} (h : s.gangReady c w j (.bra f) = true) :
    exec (.bra f) s = .next (s.finishGang (s.gangIssue c w j (.bra f)) (s.warp c w).pmsel (s.branch (s.gangIssue c w j (.bra f)) f)) :=
  s.issue_gang c w j _ _ _ h

theorem exec_exit_gang {s : State} {c w j : Nat} {f : FmtC} (h : s.gangReady c w j (.exit f) = true) :
    exec (.exit f) s = .next (s.gangGoes c w j (.exit f) (s.exitEffect (s.gangIssue c w j (.exit f)))
      ((s.gangIssue c w j (.exit f)).slices.map fun k => (k, (s.gangIssue c w j (.exit f)).next))) :=
  s.issue_gang c w j _ _ _ h

theorem exec_regang_gang {s : State} {c w j : Nat} {f : FmtC} (h : s.gangReady c w j (.regang f) = true) :
    exec (.regang f) s =
      .next (s.finishGang (s.gangIssue c w j (.regang f)) (s.warp c w).pmsel (s.regang (s.gangIssue c w j (.regang f)) f.l)) :=
  s.issue_gang c w j _ _ _ h

/-- A slice of a gang is one of eight. -/
theorem State.slice_lt_of_gangIssue {s : State} {c w j : Nat} {i : Instr} {k : Nat} (h : k ∈ (s.gangIssue c w j i).slices) : k < 8 := by
  obtain ⟨hk, -⟩ := List.mem_filter.1 h
  exact List.mem_range.1 hk

/-- The transfers of a sequencer go to their targets (R381, R382). -/
theorem exec_transfer_seq {s : State} {c b : Nat} {cp : Bool} (f : FmtC) :
    let q := (s.core c).seq b cp
    let pair := q.rf.read2 f.l 0 &&& 0x1FFFFFFFFFFFFFF
    (s.seqReady c b cp (.bra f) = true →
      exec (.bra f) s = .next (s.finishSeq (s.seqIssue c b cp (.bra f)) (.go s [(0, q.pc + 8 * f.t20.signExtend 64)])))
    ∧ (∀ i ∈ [Instr.brx f, .ret f], s.seqReady c b cp i = true → exec i s = .next (s.finishSeq (s.seqIssue c b cp i) (.go s [(0, pair)])))
    ∧ (s.seqReady c b cp (.call f) = true → exec (.call f) s = .next (s.finishSeq (s.seqIssue c b cp (.call f))
        (.go (s.setSeq c b cp { q with rf := q.rf.write2 f.l 0 (q.pc + 8) }) [(0, if f.t20 = 0 then pair else q.pc + 8 * f.t20.signExtend 64)])))
    ∧ (s.seqReady c b cp (.nop f) = true → exec (.nop f) s = .next (s.seqDone c b cp (.nop f) s)) := by
  refine ⟨fun h => s.issue_seq c b cp _ _ _ h, fun i hi h => ?_, fun h => ?_, fun h => s.issue_seq c b cp _ _ _ h⟩
  · simp only [List.mem_cons, List.not_mem_nil, or_false] at hi
    obtain rfl | rfl := hi
    · exact s.issue_seq c b cp _ _ _ h
    · exact s.issue_seq c b cp _ _ _ h
  · refine (s.issue_seq c b cp _ _ _ h).trans ?_
    rw [State.link_seq h]
    rfl

/-- Settles O38: each instruction is its meaning, completed; a slice's lanes agree as `Warp.agrees` says, and the slices of a REGANG's mask form one gang
by `State.regangFormed_spec`. -/
theorem controlTransfers : Obligations.ControlTransfers := by
  refine ⟨fun s c w j f => ?bra, fun s c w j i f call hi => ?uniform, fun s c b cp f => exec_transfer_seq f, fun s c w j f => ?exit,
    fun s c w j f h => s.issue_gang c w j _ _ _ h, fun s c w j f => ?regang⟩
  case bra =>
    intro i x v lanes splits bad h
    have hbad : s.branchFaults x f = bad := funext fun k => branchBad_eq f _ _
    have hx : x.slices.Nodup := (s.warp c w).nodup_gangOf j
    refine ⟨fun hex => ?_, fun hall => ⟨s.diverged x f, ?_, rfl, s.sameRegs_diverged f, fun k hk => ⟨fun hs => ?_, fun hs => ?_⟩⟩⟩
    · rw [exec_bra_gang h, State.branch_bad f (by rw [hbad]; exact hex), hbad]
    · rw [exec_bra_gang h, State.branch_go f (by rw [hbad]; exact hall)]
      rfl
    · exact (s.slice_diverged f hx hk).trans (Slice.diverge_of_agree hs f _ _)
    · exact (s.slice_diverged f hx hk).trans (Slice.diverge_of_split hs f _ _)
  case uniform =>
    intro x v pair tgt mine agrees h
    refine ⟨fun hno => ?_, fun hall => ?_⟩
    · obtain ⟨sls, hsls, hbad⟩ := s.transfer_bad c w j i tgt (fun t => if call then t.link x f else t) hno
      exact ⟨sls, hsls, (exec_uniform hi h).trans (congrArg (fun a => Host.Outcome.next (s.finishGang x v.pmsel a)) hbad)⟩
    · rw [exec_uniform hi h, s.transfer_go c w j i (s.uniformTarget c w j i f call) _ hall, State.link_gang h]
      rfl
  case exit =>
    intro i x h
    have hx : x.slices.Nodup := (s.warp c w).nodup_gangOf j
    refine ⟨s.exitEffect x, exec_exit_gang h, rfl, s.sameRegs_exitEffect x, fun k hk => ?_, fun n _ hn => s.bar_exitEffect x hn⟩
    exact congrArg Slice.mask (s.slice_exitEffect x hx hk)
  case regang =>
    intro i x v waits here other enters h hagain
    have hhere : ∀ k, ((s.warp x.core x.warp).slice k).atRegang x.pc f.l = true ↔ here k := fun k => Slice.atRegang_iff _ _ _
    have hothers : ∀ k, k ∈ s.regangOthers x f.l ↔ other k := fun k => State.mem_regangOthers
    have hdiffers : s.regangDiffers x f.l = true ↔ enters ∧ ∃ k, k < 8 ∧ bitAt f.l k = true ∧ waits k ∧ ¬ here k := by
      rw [State.regangDiffers_iff, State.entersRegang_iff]
      refine and_congr_right fun _ => exists_congr fun k => and_congr_right fun _ => and_congr_right fun _ => ?_
      exact and_congr (Slice.regangs_iff _) (not_congr (hhere k))
    have hsame : (¬ enters ∨ ∀ k, k < 8 → bitAt f.l k = true → waits k → here k) → ¬ s.regangDiffers x f.l = true := by
      rw [hdiffers]
      rintro hor ⟨hent, k, hk, hbit, hw, hno⟩
      exact hor.elim (fun hn => hn hent) fun hall => hno (hall k hk hbit hw)
    have hall : ((s.regangOthers x f.l).all fun k => ((s.warp x.core x.warp).slice k).atRegang x.pc f.l) = true ↔ ∀ k, other k → here k := by
      rw [List.all_eq_true]
      exact forall_congr' fun k => by rw [hothers, hhere]
    refine ⟨fun hout => ?_, fun hin hent hex => ?_, fun hin hor hex => ?_, fun hin hor hoth hrun => ?_⟩
    · rw [exec_regang_gang h, State.regang_outside hout]
    · rw [exec_regang_gang h, State.regang_inside hin, if_pos (hdiffers.2 ⟨hent, hex⟩)]
    · have hno : ¬ ((s.regangOthers x f.l).all fun k => ((s.warp x.core x.warp).slice k).atRegang x.pc f.l) = true := fun ha => by
        obtain ⟨k, hk, hn⟩ := hex
        exact hn (hall.1 ha k hk)
      refine ⟨s.waitRegang x f.l, ?_, s.waitRegang_mem x f.l, s.sameRegs_waitRegang x f.l, fun k hk => ?_⟩
      · rw [exec_regang_gang h, State.regang_inside hin, if_neg (hsame hor), if_neg hno]
        rfl
      · exact s.slice_waitRegang x f.l ((s.warp c w).nodup_gangOf j) hagain hk
    · obtain ⟨k₀, hk₀, hrun⟩ := hrun
      obtain ⟨hmem, hregs, hslices⟩ := s.regangFormed_spec x f.l (fun k hk => State.slice_lt_of_gangIssue hk) hk₀ hrun
      refine ⟨s.regangFormed x f.l, ?_, hmem, hregs, fun k hk => ?_⟩
      · rw [exec_regang_gang h, State.regang_inside hin, if_neg (hsame hor), if_pos (hall.2 hoth)]
        rfl
      · simp only [hothers] at hslices
        obtain ⟨⟨hpc, hmask, hstack, hst⟩, hgang⟩ := hslices k hk
        exact ⟨hpc, hmask, hstack, hst, hgang⟩

end Sys2Proof.Machine
end

section
/-!
PROOFS. Sequencers (R211, R386) and the end of a task (R207): what FORK starts, what it parks, and a block that retires with its last sequencer.
-/

namespace Sys2Proof.Machine

/-! ## A sequencer started (R211) -/

/-- Registers copied from one file into another. -/
theorem RF.readK_foldl_copy (l : List Nat) (r q : RF) (n : Nat) :
    (l.foldl (fun t m => t.writeK m (r.readK m)) q).readK n = if n ∈ l then r.readK n else q.readK n := by
  induction l generalizing q with
  | nil => rfl
  | cons m l ih =>
    rw [List.foldl_cons, ih, RF.readK_writeK]
    by_cases hl : n ∈ l
    · simp [hl]
    · by_cases hm : n = m
      · subst hm; simp
      · simp [hl, hm]

theorem Seq.readK_startAt (q : Seq) (r : RF) (pc : DWord) {n : Nat} (hn : n < 16) : (q.startAt r pc).rf.readK n = r.readK n :=
  (RF.readK_foldl_copy (List.range 16) r q.rf n).trans (if_pos (List.mem_range.2 hn))

/-- The 57 bits at which a forked stream starts. -/
theorem forkStart_cut (f : FmtS) (r : RF) (pc : DWord) : forkStart f r pc &&& 0x1FFFFFFFFFFFFFF =
    (if isGz f.a then pc + 8 * f.imm16.signExtend 64 else r.read2 f.a 0) &&& 0x1FFFFFFFFFFFFFF := by
  unfold forkStart
  split
  · rfl
  · rw [RF.target, BitVec.and_assoc, BitVec.and_self]

theorem sameScratch_setSeq (s : State) (c b : Nat) (cp : Bool) (q : Seq) : sameScratch s (s.setSeq c b cp q) := by
  intro d
  rw [State.setSeq, State.core_modCore]
  split
  · next e => rw [e]; exact ⟨rfl, rfl⟩
  · exact ⟨rfl, rfl⟩

section Fork

variable {s : State} {c w j : Nat} {f : FmtS} (h : s.gangReady c w j (.fork f) = true) (ha : s.acts c w j (.fork f) = true)

/-- The sequencer that a FORK names. -/
def State.forked (s : State) (c w j : Nat) (f : FmtS) : Seq := (s.core c).seq (s.gangIssue c w j (.fork f)).block (bitAt f.sel 0)

/-- The state in which a FORK has started it; a release of the acting slices goes with it. -/
def State.forkStarted (s : State) (c w j : Nat) (f : FmtS) : State :=
  let x := s.gangIssue c w j (.fork f)
  (s.setSeq c x.block (bitAt f.sel 0) ((s.forked c w j f).startAt (s.warp c w).rf (forkStart f (s.warp c w).rf x.pc))).trackSlices c w x.mask

include h ha

theorem exec_fork_starts (hst : (s.forked c w j f).st = .exited) :
    exec (.fork f) s = .next (s.gangDone c w j (.fork f) (s.forkStarted c w j f)) :=
  State.issueLane_done s _ c w j _ _ h ((if_neg (by simpa [State.acts] using ha)).trans (if_pos hst))

variable (hst : (s.forked c w j f).st ≠ .exited)
include hst

/-- The slices that act park, the others of the gang go on (log 56). -/
theorem exec_fork_parks (hagain : (s.gangIssue c w j (.fork f)).again = false) : let x := s.gangIssue c w j (.fork f)
    exec (.fork f) s = .next (s.gangGoes c w j (.fork f) (s.park x (actingSlices x.acting x.slices) .fork)
      ((x.slices.filter fun k => !(actingSlices x.acting x.slices).contains k).map fun k => (k, x.next))) :=
  State.issueLane_go s _ c w j _ _ _ h
    ((if_neg (by simpa [State.acts] using ha)).trans ((if_neg hst).trans (if_neg (by rw [hagain]; exact Bool.false_ne_true))))

theorem exec_fork_waits (hagain : (s.gangIssue c w j (.fork f)).again = true) : exec (.fork f) s = .next s :=
  (s.issueLane_gang c w j _ _ h).trans (congrArg (fun a => Host.Outcome.next (s.finishGang (s.gangIssue c w j (.fork f)) (s.warp c w).pmsel a))
    ((if_neg (by simpa [State.acts] using ha)).trans ((if_neg hst).trans (if_pos hagain))))

end Fork

theorem State.seq_forkStarted (s : State) (c w j : Nat) (f : FmtS) :
    ((s.forkStarted c w j f).core c).seq (s.gangIssue c w j (.fork f)).block (bitAt f.sel 0) =
      (s.forked c w j f).startAt (s.warp c w).rf (forkStart f (s.warp c w).rf (s.gangIssue c w j (.fork f)).pc) := by
  rw [State.forkStarted, State.core, State.cores_trackSlices, ← State.core, State.seq_setSeq, if_pos ⟨rfl, rfl, rfl⟩]

theorem State.forkStarted_keeps (s : State) (c w j : Nat) (f : FmtS) : (s.forkStarted c w j f).mem = s.mem ∧ sameScratch s (s.forkStarted c w j f)
    ∧ ∀ d v, ((s.forkStarted c w j f).warp d v).rf = (s.warp d v).rf := by
  refine ⟨State.trackSlices_mem _ _ _ _, (sameScratch_setSeq s _ _ _ _).trans (sameScratch_of_cores (State.cores_trackSlices _ _ _ _)), fun d v => ?_⟩
  rw [State.forkStarted, State.warp_of_cores (State.cores_trackSlices _ _ _ _), State.warp_setSeq]

theorem exec_rdv {s : State} {c w j : Nat} {f : FmtS} (h : s.gangReady c w j (.rdv f) = true) (ha : s.acts c w j (.rdv f) = true) :
    exec (.rdv f) s =
      .next (if ((s.core c).seq (s.warp c w).block (bitAt f.sel 0)).st = .exited then s.gangDone c w j (.rdv f) s else s) := by
  refine (s.issueLane_gang c w j _ _ h).trans ?_
  rw [if_neg (by simpa [State.acts] using ha)]
  by_cases hst : ((s.core c).seq (s.warp c w).block (bitAt f.sel 0)).st = .exited
  · rw [if_pos hst]
    exact congrArg (fun a => Host.Outcome.next (s.finishGang (s.gangIssue c w j (.rdv f)) (s.warp c w).pmsel a)) (if_pos hst)
  · rw [if_neg hst]
    exact congrArg (fun a => Host.Outcome.next (s.finishGang (s.gangIssue c w j (.rdv f)) (s.warp c w).pmsel a)) (if_neg hst)

/-! ## The end of a task (R204, R207) -/

theorem State.storePage_launches (s : State) (ctx : Nat) (leaf : DWord) (pa : Nat) (bs : List Byte) :
    (s.storePage ctx leaf pa bs).launches = s.launches := by
  have hstore : (s.storeGlobal 0 pa bs).launches = s.launches := by
    unfold State.storeGlobal State.writeHid
    split
    · simp only [State.gcmWrote_launches]
      split <;> rfl
    · exact State.writeMem_launches s 0 pa bs
  unfold State.storePage
  split
  · dsimp only
    split
    · rw [State.mirrorPut_launches]; exact hstore
    · exact hstore
  · rfl

/-- The launch whose signal word is written has ended; its counts stand. -/
theorem State.launch_signal (s : State) (lid st : Nat) : let l := (s.signal lid st).launch lid
    l.phase = 2 ∧ l.counter = (s.launch lid).counter ∧ l.retired = (s.launch lid).retired := by
  unfold State.signal
  dsimp only
  split
  · next h => exact ⟨h, rfl, rfl⟩
  · rw [State.launch_modLaunch, if_pos rfl, State.launch, State.storePage_launches]
    exact ⟨rfl, rfl, rfl⟩

theorem State.coreCharge_launches (s : State) (c : Nat) : (s.coreCharge c).launches = s.launches := by
  have hcharge : ∀ r l, (s.addCharge r l).launches = s.launches := fun r l =>
    State.foldl_keeps (·.launches) _ _ (fun t q => State.modRegion_launches t q _) s
  unfold State.coreCharge
  dsimp only
  split
  · rfl
  · split
    · rfl
    · exact hcharge _ _

theorem Core.block_endBlock (k : Core) (b : Nat) : (k.endBlock b).block b = Block.absent := by
  have hset : ∀ m : Sparse Block, Sparse.get Block.absent (Sparse.set Block.absent m b Block.absent) b = Block.absent := fun m =>
    Sparse.get_set_self _ _ _ _
  unfold Core.endBlock
  dsimp only
  split
  · exact hset _
  · exact hset _

section Retire

variable {s : State} {c b : Nat}

/-- The block has ended on its core and its task is counted as retired. -/
def State.blockEnded (s : State) (c b : Nat) : State :=
  ((s.coreCharge c).modCore c fun k => k.endBlock b).modLaunch ((s.core c).block b).launch fun l =>
    { l with counter := l.counter - 1, retired := l.retired + 1 }

/-- A block that holds a warp or a sequencer that is not idle stays. -/
theorem State.retire_of_held (h : ((s.core c).block b).warps ≠ [] ∨ ∃ d, (((s.core c).block b).seq d).st ≠ .exited) : s.retire c b = s := by
  refine if_neg fun hret => ?_
  simp only [Bool.and_eq_true, List.isEmpty_iff, beq_iff_eq] at hret
  obtain ⟨⟨⟨⟨-, hw⟩, hmx⟩, hcp⟩, -⟩ := hret
  obtain hne | ⟨d, hd⟩ := h
  · exact hne hw
  · cases d
    · exact hd hmx
    · exact hd hcp

theorem State.retire_of_idle (hl : ((s.core c).block b).live = true) (hw : ((s.core c).block b).warps = [])
    (hs : ∀ d, (((s.core c).block b).seq d).st = .exited) (hb : s.blockBusy c b = false) :
    s.retire c b = if ((s.blockEnded c b).launch ((s.core c).block b).launch).counter = 0
      then (s.blockEnded c b).signal ((s.core c).block b).launch 0 else s.blockEnded c b := by
  have hmx : ((s.core c).block b).mx.st = .exited := hs false
  have hcp : ((s.core c).block b).cp.st = .exited := hs true
  refine if_pos ?_
  rw [hl, hw, hmx, hcp, hb]
  rfl

theorem State.launch_blockEnded : (s.blockEnded c b).launch ((s.core c).block b).launch =
    let l := s.launch ((s.core c).block b).launch
    { l with counter := l.counter - 1, retired := l.retired + 1 } := by
  rw [State.blockEnded, State.launch_modLaunch, if_pos rfl, State.launch, State.modCore_launches, State.coreCharge_launches]
  rfl

theorem State.block_blockEnded : ((s.blockEnded c b).core c).block b = Block.absent := by
  have hcore : (s.blockEnded c b).core c = ((s.coreCharge c).core c).endBlock b :=
    State.core_modCore_self (s.coreCharge c) c fun k => k.endBlock b
  rw [hcore, Core.block_endBlock]

theorem State.blockEnded_mem : (s.blockEnded c b).mem = s.mem := State.coreCharge_mem s c

/-- A task that retires: its block is gone and its launch counts it; the last one ends the launch. -/
theorem State.retire_spec (hl : ((s.core c).block b).live = true) (hw : ((s.core c).block b).warps = [])
    (hs : ∀ d, (((s.core c).block b).seq d).st = .exited) (hb : s.blockBusy c b = false) : let t := s.retire c b
    let n := ((s.core c).block b).launch
    let l := s.launch n
    ((t.core c).block b).live = false ∧ (t.launch n).counter = l.counter - 1 ∧ (t.launch n).retired = l.retired + 1
    ∧ (1 < l.counter → (t.launch n).phase = l.phase ∧ t.mem = s.mem) ∧ (l.counter ≤ 1 → (t.launch n).phase = 2) := by
  intro t n l
  have hlaunch : (s.blockEnded c b).launch n = { l with counter := l.counter - 1, retired := l.retired + 1 } := State.launch_blockEnded
  have ht : t = _ := State.retire_of_idle hl hw hs hb
  rw [hlaunch] at ht
  by_cases hc : l.counter ≤ 1
  · obtain ⟨hphase, hcounter, hretired⟩ := (s.blockEnded c b).launch_signal n 0
    rw [if_pos (show l.counter - 1 = 0 by omega)] at ht
    rw [ht, State.core, State.cores_signal, ← State.core, State.block_blockEnded, hcounter, hretired, hlaunch]
    exact ⟨rfl, rfl, rfl, fun h => absurd h (by omega), fun _ => hphase⟩
  · rw [if_neg (show ¬ l.counter - 1 = 0 by omega)] at ht
    rw [ht, State.block_blockEnded, hlaunch, State.blockEnded_mem]
    exact ⟨rfl, rfl, rfl, fun _ => ⟨rfl, rfl⟩, fun h => absurd h hc⟩

end Retire

/-! ## SEQEND, and EXIT in a sequencer (R211, R386) -/

section SeqEnd

variable {s : State} {c b : Nat} {cp : Bool} {i : Instr}

/-- The sequencer is idle, past its instruction. -/
def State.seqIdled (s : State) (c b : Nat) (cp : Bool) (i : Instr) : State :=
  s.setSeq c b cp { (s.core c).seq b cp with st := .exited, pc := (s.seqIssue c b cp i).next, park := .none, tok := none }

theorem State.block_seqIdled : ((s.seqIdled c b cp i).core c).block b =
    ((s.core c).block b).setSeq cp { (s.core c).seq b cp with st := .exited, pc := (s.seqIssue c b cp i).next, park := .none, tok := none } := by
  rw [State.seqIdled, State.setSeq, State.core_modCore_self, Core.setSeq, Core.block_modBlock, if_pos rfl]

theorem Block.setSeq_fields (y : Block) (cp : Bool) (q : Seq) :
    (y.setSeq cp q).live = y.live ∧ (y.setSeq cp q).warps = y.warps ∧ (y.setSeq cp q).launch = y.launch := by
  cases cp <;> exact ⟨rfl, rfl, rfl⟩

/-- What is on the way for a block is so whatever its sequencer does. -/
theorem State.blockBusy_seqIdled : (s.seqIdled c b cp i).blockBusy c b = s.blockBusy c b := by
  rw [State.blockBusy, State.seqIdled, State.setSeq, State.core_modCore_self]
  rfl

theorem exec_seqEnd {f : FmtS} {g : FmtC} (hi : i ∈ [Instr.seqend f, .exit g]) (h : s.seqReady c b cp i = true) :
    exec i s = .next (s.finishSeq (s.seqIssue c b cp i) (s.seqEnd (s.seqIssue c b cp i))) := by
  simp only [List.mem_cons, List.not_mem_nil, or_false] at hi
  obtain rfl | rfl := hi
  · exact s.issue_seq c b cp _ _ _ h
  · exact s.issue_seq c b cp _ _ _ h

/-- A matrix stream whose jobs are not complete waits. -/
theorem State.seqEnd_waits (hcp : cp = false) (hjob : ∃ q ∈ (s.core c).jobs, q.block = b) : s.seqEnd (s.seqIssue c b cp i) = .wait := by
  refine if_pos ?_
  have hjobs : (s.core c).jobsOf b = true := by simpa [Core.jobsOf] using hjob
  subst hcp
  exact hjobs

theorem State.seqEnd_ends (hno : cp = true ∨ ∀ q ∈ (s.core c).jobs, q.block ≠ b) :
    s.seqEnd (s.seqIssue c b cp i) = .miss ((s.seqIdled c b cp i).retire c b) := by
  refine if_neg fun hjobs => ?_
  rw [Bool.and_eq_true] at hjobs
  obtain ⟨hcp, hany⟩ := hjobs
  obtain h | h := hno
  · subst h
    exact Bool.false_ne_true hcp
  · obtain ⟨q, hq, he⟩ := List.any_eq_true.1 hany
    exact h q hq (beq_iff_eq.1 he)

end SeqEnd

/-- Settles O39: FORK and RDV by the state of the sequencer that they name; SEQEND idles its own, whose block then stays or retires
(`State.retire_spec`). -/
theorem sequencersComplete : Obligations.SequencersComplete := by
  refine ⟨fun s c w j f => ?fork, fun s c w j f h ha => exec_rdv h ha, fun s c b cp i f g hi h => ?seqend⟩
  case fork =>
    intro i x q rf h ha
    have hx : x.slices.Nodup := (s.warp c w).nodup_gangOf j
    refine ⟨fun hst => ⟨s.forkStarted c w j f, exec_fork_starts h ha hst, ?_, s.forkStarted_keeps c w j f⟩,
      fun hst hagain => ⟨s.park x (actingSlices x.acting x.slices) .fork, exec_fork_parks h ha hst hagain, rfl, s.sameRegs_park x _ _, fun k hk => ?_⟩,
      fun hst hagain => exec_fork_waits h ha hst hagain⟩
    · dsimp only
      rw [s.seq_forkStarted c w j f]
      exact ⟨rfl, forkStart_cut f _ _, fun n hn => Seq.readK_startAt _ _ _ hn, rfl⟩
    · have hslice : ((s.park x (actingSlices x.acting x.slices) .fork).warp c w).slice k =
          { (s.warp c w).slice k with st := .parked, park := .fork } := s.slice_park x (hx.filter _) .fork hk
      rw [hslice]
      exact ⟨rfl, rfl, rfl⟩
  case seqend =>
    intro y l
    have hblock : ((s.seqIdled c b cp i).core c).block b = y.setSeq cp _ := State.block_seqIdled
    obtain ⟨hlive, hwarps, hlaunch⟩ := y.setSeq_fields cp
      { (s.core c).seq b cp with st := .exited, pc := (s.seqIssue c b cp i).next, park := .none, tok := none }
    rw [← hblock] at hlive hwarps hlaunch
    have hseq : ∀ d, (((s.seqIdled c b cp i).core c).block b).seq d = if d = cp then _ else y.seq d := fun d => by rw [hblock, Block.seq_setSeq]
    refine ⟨fun hjob => ?_, fun hno => ⟨fun hheld => ?_, fun hl hw hother hbusy => ?_⟩⟩
    · rw [exec_seqEnd hi h, State.seqEnd_waits hjob.1 hjob.2]
      rfl
    · refine ⟨s.seqIdled c b cp i, ?_, ?_, ?_, rfl, rfl⟩
      · have hstays : (s.seqIdled c b cp i).retire c b = s.seqIdled c b cp i := by
          refine State.retire_of_held (hheld.imp (fun hw => by rwa [hwarps]) fun hs => ⟨!cp, ?_⟩)
          rwa [hseq, if_neg (by simp)]
        rw [exec_seqEnd hi h, State.seqEnd_ends hno, hstays]
        rfl
      · rw [State.seqIdled, State.seq_setSeq, if_pos ⟨rfl, rfl, rfl⟩]
      · rw [State.seqIdled, State.seq_setSeq, if_pos ⟨rfl, rfl, rfl⟩]
        rfl
    · have hidle : ∀ d, ((((s.seqIdled c b cp i).core c).block b).seq d).st = .exited := fun d => by
        rw [hseq]
        split
        · rfl
        · next hd => rwa [Bool.eq_not_of_ne hd]
      have hret := State.retire_spec (hlive.trans hl) (hwarps.trans hw) hidle (State.blockBusy_seqIdled.trans hbusy)
      rw [hlaunch] at hret
      refine ⟨(s.seqIdled c b cp i).retire c b, ?_, hret⟩
      rw [exec_seqEnd hi h, State.seqEnd_ends hno]
      rfl

end Sys2Proof.Machine
end

section
/-!
PROOFS. A block placed on a core (R205, R206, R208, R409): there is room for its warps, and they start as the rules say.
-/

namespace Sys2Proof.Machine

/-! ## Free numbers -/

/-- Below a bound there are free numbers enough where the used ones leave room. -/
theorem length_lowestFree {used : Nat → Bool} {bound n : Nat} (h : ((List.range bound).filter used).length + n ≤ bound) :
    (lowestFree used bound n).length = n := by
  have hsplit := List.length_eq_length_filter_add (l := List.range bound) used
  rw [List.length_range] at hsplit
  rw [lowestFree, List.length_take]
  exact Nat.min_eq_left (by omega)

theorem nodup_lowestFree (used : Nat → Bool) (bound n : Nat) : (lowestFree used bound n).Nodup :=
  (List.nodup_range.filter _).sublist (List.take_sublist _ _)

/-- The live warps found by number are among the resident ones. -/
theorem Core.live_le_residents (k : Core) (bound : Nat) : ((List.range bound).filter fun i => (k.warp i).live).length ≤ k.residents := by
  have hsub : ((List.range bound).filter fun i => (k.warp i).live) ⊆ (k.warps.filter fun p => p.2.live).map Prod.fst := by
    intro i hi
    obtain ⟨-, hlive⟩ := List.mem_filter.1 hi
    obtain habsent | hmem := Sparse.get_mem Warp.absent k.warps i
    · rw [Core.warp, habsent] at hlive
      exact absurd hlive Bool.false_ne_true
    · exact List.mem_map.2 ⟨_, List.mem_filter.2 ⟨hmem, hlive⟩, rfl⟩
  simpa [Core.residents] using (List.subperm_of_subset (List.nodup_range.filter _) hsub).length_le

/-! ## A core that a launch may use (R409) -/

theorem Core.enter_warps (k : Core) (l : Launch) : (k.enter l).warps = k.warps := by
  unfold Core.enter
  split <;> rfl

theorem Core.enter_pword {k : Core} {l : Launch} (h : k.admits l = true) : (k.enter l).pword = l.pword := by
  cases huse : k.use with
  | none => simp [Core.enter, huse, Core.handOver]
  | some r =>
    simp only [Core.admits, huse, Bool.and_eq_true, beq_iff_eq] at h
    simp [Core.enter, huse, h.2]

/-- The numbers that the warps of a block take. -/
def Core.warpsFor (k : Core) (n : Nat) : List Nat := lowestFree (fun i => (k.warp i).live) (64 * k.gf) n

/-- Where `n` warps of a launch fit, they find numbers. -/
theorem Core.length_warpsFor {k : Core} {l : Launch} {n : Nat} (h : k.fits l n = true) : ((k.enter l).warpsFor n).length = n := by
  simp only [Core.fits, Bool.and_eq_true, decide_eq_true_eq] at h
  obtain ⟨⟨⟨hadmits, -⟩, hroom⟩, -⟩ := h
  refine length_lowestFree ?_
  have hgf : (k.enter l).gf = gfOf (pwGF l.pword) := by rw [Core.gf, Core.enter_pword hadmits]
  have hlive := (k.enter l).live_le_residents (64 * (k.enter l).gf)
  have hres : (k.enter l).residents = k.residents := by rw [Core.residents, Core.enter_warps, Core.residents]
  rw [hres] at hlive
  rw [hgf] at hlive ⊢
  omega

/-! ## The warps of a block (R205, R206, R212, R390) -/

theorem RF.read2_C0 (r : RF) : r.read2 0xC0 0 = r.readK 1 ++ r.readK 0 := rfl

/-- The registers and slices of a warp as it starts. -/
theorem newWarp_spec (l : Launch) (t : TaskRec) (uid b rank : Nat) (now : DWord) (runs : List Nat) :
    let v := newWarp l t uid b rank now runs
    v.live = true ∧ v.block = b ∧ v.rank = rank ∧ v.nregs = l.regs ∧ v.rf.read2 0xC0 0 = t.arg ∧ v.rf.readK 2 = BitVec.ofNat 32 l.ltag
    ∧ v.rf.readK 3 = t.num ∧ v.rf.readK 4 = BitVec.ofNat 32 rank ∧ v.instret = 0
    ∧ ∀ j, j < 8 → (v.slice j).pc = t.entry ∧ (v.slice j).mask = 0xF ∧ (v.slice j).gang = 0xFF ∧ (v.slice j).st = .running ∧ (v.slice j).stack = [] := by
  have hpair : (RF.zero.write2 0xC0 0 t.arg).read2 0xC0 0 = t.arg := RF.read2_write2_same _ _ rfl (by decide) rfl
  have hslice : ∀ (ls : List Nat) (m : Sparse Slice) (j : Nat), Sparse.get Slice.init
      (ls.foldl (fun m j => Sparse.set Slice.init m j { Slice.init with pc := t.entry, issued := now }) m) j =
        if j ∈ ls then { Slice.init with pc := t.entry, issued := now } else Sparse.get Slice.init m j := by
    intro ls
    induction ls with
    | nil => exact fun _ _ => rfl
    | cons n ls ih =>
      intro m j
      rw [List.foldl_cons, ih, Sparse.get_set]
      by_cases hj : j ∈ ls
      · simp [hj]
      · by_cases hn : j = n <;> simp [hj, hn]
  refine ⟨rfl, rfl, rfl, rfl, ?_, ?_, ?_, ?_, rfl, fun j hj => ?_⟩
  · rw [RF.read2_C0] at hpair ⊢
    simpa [newWarp, RF.readK_writeK] using hpair
  · simp [newWarp, RF.readK_writeK]
  · simp [newWarp, RF.readK_writeK]
  · simp [newWarp, RF.readK_writeK]
  · have h := hslice (List.range 8) [] j
    rw [if_pos (List.mem_range.2 hj)] at h
    rw [show (newWarp l t uid b rank now runs).slice j = _ from h]
    exact ⟨rfl, rfl, rfl, rfl, rfl⟩

section Start

variable (l : Launch) (t : TaskRec) (id b : Nat)

/-- The warps of a block started one after the other, each with the next rank. -/
def Core.startWarps (k : Core) (ps : List (Nat × Nat)) : Core :=
  ps.foldl (fun k p =>
    (k.handOverRuns (k.freeRuns l.regs)).setWarp p.2 (newWarp l t (id + p.1) b p.1 k.cycle (k.freeRuns l.regs))) k

theorem Core.block_startWarps (k : Core) (ps : List (Nat × Nat)) (a : Nat) : (k.startWarps l t id b ps).block a = k.block a := by
  induction ps generalizing k with
  | nil => rfl
  | cons p ps ih => exact (ih _).trans rfl

theorem Core.warp_startWarps_of_not_mem {ps : List (Nat × Nat)} {w : Nat} (hw : w ∉ ps.map Prod.snd) (k : Core) :
    (k.startWarps l t id b ps).warp w = k.warp w := by
  induction ps generalizing k with
  | nil => rfl
  | cons p ps ih =>
    obtain ⟨hp, hps⟩ := not_or.1 fun h => hw (List.mem_cons.2 h)
    refine (ih hps _).trans ?_
    rw [Core.warp_setWarp, if_neg hp]
    rfl

theorem Core.warp_startWarps {ps : List (Nat × Nat)} (hnodup : (ps.map Prod.snd).Nodup) {p : Nat × Nat} (hp : p ∈ ps) (k : Core) :
    ∃ now runs, (k.startWarps l t id b ps).warp p.2 = newWarp l t (id + p.1) b p.1 now runs := by
  induction ps generalizing k with
  | nil => exact absurd hp List.not_mem_nil
  | cons q ps ih =>
    rw [List.map_cons, List.nodup_cons] at hnodup
    rcases List.mem_cons.1 hp with rfl | hp
    · refine ⟨k.cycle, k.freeRuns l.regs, (Core.warp_startWarps_of_not_mem l t id b hnodup.1 _).trans ?_⟩
      rw [Core.warp_setWarp, if_pos rfl]
    · exact ih hnodup.2 hp _

end Start

/-! ## The block placed -/

/-- The block of a task. -/
def taskBlock (lid : Nat) (l : Launch) (t : TaskRec) (ws : List Nat) : Block :=
  { Block.absent with live := true, ctx := l.ctx, launch := lid, task := t.num, stage := t.stage, nwarps := l.warpsOf t, warps := ws }

/-- A core of a launch that has been given the block of a task, its warps named from `id` on. -/
def Core.placed (k : Core) (id lid : Nat) (l : Launch) (t : TaskRec) : Core :=
  let ws := k.warpsFor (l.warpsOf t)
  (k.setBlock (k.freeBlocks.headD 0) (taskBlock lid l t ws)).startWarps l t id (k.freeBlocks.headD 0) ((List.range ws.length).zip ws)

theorem State.placeBlock_eq (s : State) (c lid : Nat) (l : Launch) (t : TaskRec) :
    s.placeBlock c lid l t = { s.modCore c (fun k => (k.enter l).placed s.nextId lid l t) with nextId := s.nextId + 64 } := rfl

theorem Core.blockStarted_placed {k : Core} {l : Launch} {t : TaskRec} (h : k.fits l (l.warpsOf t) = true) (id lid : Nat) :
    blockStarted ((k.enter l).placed id lid l t) l lid t (l.warpsOf t) := by
  have hlen := Core.length_warpsFor h
  have hblock : ((k.enter l).placed id lid l t).block ((k.enter l).freeBlocks.headD 0) = taskBlock lid l t ((k.enter l).warpsFor (l.warpsOf t)) := by
    rw [Core.placed, Core.block_startWarps, Core.block_setBlock, if_pos rfl]
  refine ⟨(k.enter l).freeBlocks.headD 0, (k.enter l).warpsFor (l.warpsOf t), ?_⟩
  rw [hblock]
  refine ⟨rfl, rfl, rfl, rfl, rfl, rfl, rfl, hlen, rfl, rfl, fun i hi => ?_⟩
  have hi' : i < ((k.enter l).warpsFor (l.warpsOf t)).length := by rwa [hlen]
  have hmem : (i, ((k.enter l).warpsFor (l.warpsOf t)).getD i 0) ∈
      (List.range ((k.enter l).warpsFor (l.warpsOf t)).length).zip ((k.enter l).warpsFor (l.warpsOf t)) := by
    refine List.mem_iff_getElem.2 ⟨i, by simpa using hi', ?_⟩
    rw [List.getElem_zip, List.getElem_range, List.getD_eq_getElem _ _ hi']
  have hnodup : (((List.range ((k.enter l).warpsFor (l.warpsOf t)).length).zip ((k.enter l).warpsFor (l.warpsOf t))).map Prod.snd).Nodup := by
    rw [List.map_snd_zip (by simp)]
    exact nodup_lowestFree _ _ _
  obtain ⟨now, runs, hwarp⟩ := Core.warp_startWarps l t id ((k.enter l).freeBlocks.headD 0) hnodup hmem
    ((k.enter l).setBlock ((k.enter l).freeBlocks.headD 0) (taskBlock lid l t ((k.enter l).warpsFor (l.warpsOf t))))
  intro v
  have hv : v = newWarp l t (id + i) ((k.enter l).freeBlocks.headD 0) i now runs := hwarp
  rw [hv]
  exact newWarp_spec l t _ _ i now runs

/-- A task placed as a block where it fits: its core has been given the block, and the rest of the device stands. -/
theorem State.placeBlock_spec (s : State) {c : Nat} (lid : Nat) {l : Launch} {t : TaskRec} (h : (s.core c).fits l (l.warpsOf t) = true) :
    let u := s.placeBlock c lid l t
    u.launches = s.launches ∧ u.mem = s.mem ∧ blockStarted (u.core c) l lid t (l.warpsOf t) ∧ ∀ d, d ≠ c → u.core d = s.core d := by
  have hcore : ∀ d, (s.placeBlock c lid l t).core d = if d = c then ((s.core c).enter l).placed s.nextId lid l t else s.core d :=
    fun d => by
      rw [State.placeBlock_eq]
      exact State.core_modCore s c (fun k => (k.enter l).placed s.nextId lid l t) d
  refine ⟨rfl, rfl, ?_, fun d hd => by rw [hcore, if_neg hd]⟩
  rw [hcore, if_pos rfl]
  exact Core.blockStarted_placed h _ _

end Sys2Proof.Machine
end

section
/-!
PROOFS. The placement of launches and of tasks (R203, R205, R208, R209): the best of a list, what the checks of a launch answer, and the statement.
-/

namespace Sys2Proof.Machine

/-! ## The best of a list -/

/-- The better of the best so far and the next. -/
def better {α : Type} (lt : α → α → Bool) (best : Option α) (a : α) : Option α :=
  match best with
  | none => some a
  | some b => if lt a b then some a else best

section Better

variable {α : Type} {lt : α → α → Bool} (hirr : ∀ a, lt a a = false) (htrans : ∀ a b c, lt a b = true → lt b c = true → lt a c = true)
include hirr htrans

/-- A fold under a strict order ends at its start or at something better, and at nothing to which an element is preferred. -/
theorem foldl_better_some (l : List α) (b : α) :
    ∃ m, l.foldl (better lt) (some b) = some m ∧ (m = b ∨ (m ∈ l ∧ lt m b = true)) ∧ ∀ a ∈ l, lt a m = false := by
  induction l generalizing b with
  | nil => exact ⟨b, rfl, .inl rfl, fun _ h => absurd h List.not_mem_nil⟩
  | cons a l ih =>
    by_cases hlt : lt a b = true
    · obtain ⟨m, hm, hor, hbest⟩ := ih a
      refine ⟨m, by rw [List.foldl_cons, better, if_pos hlt, hm], .inr ?_, fun q hq => ?_⟩
      · rcases hor with rfl | ⟨hmem, hma⟩
        · exact ⟨List.mem_cons_self, hlt⟩
        · exact ⟨List.mem_cons_of_mem a hmem, htrans _ _ _ hma hlt⟩
      · rcases List.mem_cons.1 hq with rfl | hq
        · rcases hor with rfl | ⟨-, hma⟩
          · exact hirr _
          · exact Bool.eq_false_iff.2 fun h => Bool.eq_false_iff.1 (hirr _) (htrans _ _ _ h hma)
        · exact hbest q hq
    · obtain ⟨m, hm, hor, hbest⟩ := ih b
      refine ⟨m, by rw [List.foldl_cons, better, if_neg hlt, hm], hor.imp_right (And.imp_left (List.mem_cons_of_mem a)), fun q hq => ?_⟩
      rcases List.mem_cons.1 hq with rfl | hq
      · rcases hor with rfl | ⟨-, hmb⟩
        · exact Bool.eq_false_iff.2 hlt
        · exact Bool.eq_false_iff.2 fun h => hlt (htrans _ _ _ h hmb)
      · exact hbest q hq

/-- The best of a list with an element is one of its elements. -/
theorem foldl_better {l : List α} (hl : l ≠ []) : ∃ m, l.foldl (better lt) none = some m ∧ m ∈ l ∧ ∀ a ∈ l, lt a m = false := by
  obtain ⟨b, l, rfl⟩ := List.exists_cons_of_ne_nil hl
  obtain ⟨m, hm, hor, hbest⟩ := foldl_better_some hirr htrans l b
  refine ⟨m, hm, ?_, fun a ha => ?_⟩
  · rcases hor with rfl | ⟨hmem, -⟩
    · exact List.mem_cons_self
    · exact List.mem_cons_of_mem b hmem
  · rcases List.mem_cons.1 ha with rfl | ha
    · rcases hor with rfl | ⟨-, hmb⟩
      · exact hirr _
      · exact Bool.eq_false_iff.2 fun h => Bool.eq_false_iff.1 (hirr _) (htrans _ _ _ h hmb)
    · exact hbest a ha

end Better

/-! ## The core of a seed group (R205) -/

/-- Whether a core has more free warp slots than another, or as many and the lower index. -/
def State.freer (s : State) (c b : Nat) : Bool :=
  (s.core c).residents < (s.core b).residents || ((s.core c).residents == (s.core b).residents && c < b)

theorem State.freer_iff (s : State) (c b : Nat) : s.freer c b = true ↔
    (s.core c).residents < (s.core b).residents ∨ ((s.core c).residents = (s.core b).residents ∧ c < b) := by
  simp [State.freer]

theorem State.seedCore_eq (s : State) (l : Launch) : s.seedCore l =
    ((s.ctx l.ctx).cores.filter fun c => (s.core c).fits l 1 && s.groupFree c (pwGF l.pword)).foldl (better s.freer) none := by
  rw [State.seedCore]
  congr 1
  funext best c
  cases best <;> rfl

/-- The core that a seed group is given has room for it, and no other with room has more free warp slots. -/
theorem State.seedCore_spec {s : State} {l : Launch} {c : Nat} (h : s.seedCore l = some c) : (s.core c).fits l 1 = true
    ∧ ∀ d ∈ (s.ctx l.ctx).cores, (s.core d).fits l 1 = true → s.groupFree d (pwGF l.pword) = true → (s.core c).residents ≤ (s.core d).residents := by
  rw [State.seedCore_eq] at h
  have hne : ((s.ctx l.ctx).cores.filter fun c => (s.core c).fits l 1 && s.groupFree c (pwGF l.pword)) ≠ [] := by
    intro hnil
    rw [hnil] at h
    cases h
  obtain ⟨m, hm, hmem, hbest⟩ := foldl_better (lt := s.freer)
    (fun a => Bool.eq_false_iff.2 (by rw [ne_eq, State.freer_iff]; omega))
    (fun a b c => by simp only [State.freer_iff]; omega) hne
  obtain rfl := Option.some.inj (hm.symm.trans h)
  obtain ⟨-, hfits⟩ := List.mem_filter.1 hmem
  refine ⟨(Bool.and_eq_true_iff.1 hfits).1, fun d hd hf hg => ?_⟩
  have hno := Bool.eq_false_iff.1 (hbest d (List.mem_filter.2 ⟨hd, Bool.and_eq_true_iff.2 ⟨hf, hg⟩⟩))
  rw [ne_eq, State.freer_iff] at hno
  omega

/-! ## The queue that the balancer chooses (R209) -/

/-- How far a candidate's queue exceeds its mark, and the number of its head task. -/
def State.excessOf (s : State) (a : Nat × Nat) : Nat := (s.launch a.1).excess a.2
def State.headSeq (s : State) (a : Nat × Nat) : Nat := (((s.launch a.1).queue a.2).head?.map TaskRec.seq).getD 0

/-- The order of candidates: the larger excess; of queues that do not exceed their marks the earlier head task; the lower stage; the lower launch. -/
theorem State.prefers_iff (s : State) (a b : Nat × Nat) : s.prefers a b = true ↔
    s.excessOf b < s.excessOf a ∨ (s.excessOf a = s.excessOf b ∧
      ((s.excessOf a = 0 ∧ s.headSeq a < s.headSeq b) ∨ ((s.excessOf a ≠ 0 ∨ s.headSeq a = s.headSeq b) ∧
        (a.2 < b.2 ∨ (a.2 = b.2 ∧ a.1 < b.1))))) := by
  have hdef : s.prefers a b = if s.excessOf a ≠ s.excessOf b then decide (s.excessOf b < s.excessOf a)
      else if s.excessOf a = 0 ∧ s.headSeq a ≠ s.headSeq b then decide (s.headSeq a < s.headSeq b)
      else if a.2 ≠ b.2 then decide (a.2 < b.2) else decide (a.1 < b.1) := rfl
  rw [hdef]
  split
  · rw [decide_eq_true_eq]; omega
  · split
    · rw [decide_eq_true_eq]; omega
    · split
      · rw [decide_eq_true_eq]; omega
      · rw [decide_eq_true_eq]; omega

/-- The candidate that the balancer chooses. -/
theorem State.exists_preferred {s : State} {c : Nat} (h : s.candidates c ≠ []) :
    ∃ m, (s.candidates c).foldl (better s.prefers) none = some m ∧ m ∈ s.candidates c ∧ ∀ q ∈ s.candidates c, s.prefers q m = false :=
  foldl_better (fun a => Bool.eq_false_iff.2 (by rw [ne_eq, State.prefers_iff]; omega))
    (fun a b c => by simp only [State.prefers_iff]; omega) h

/-- A candidate's queue holds a task, whose block fits the core. -/
theorem State.of_mem_candidates {s : State} {c lid st : Nat} (hlist : ∀ p ∈ s.launches, s.launch p.1 = p.2) (h : (lid, st) ∈ s.candidates c) :
    ∃ t rest, (s.launch lid).queue st = t :: rest ∧ (s.core c).fits (s.launch lid) ((s.launch lid).warpsOf t) = true := by
  obtain ⟨p, hp, hst⟩ := List.mem_flatMap.1 h
  obtain ⟨hp, -⟩ := List.mem_filter.1 hp
  obtain ⟨st', hst', he⟩ := List.mem_map.1 hst
  obtain ⟨rfl, rfl⟩ := Prod.mk.inj he
  obtain ⟨-, hq⟩ := List.mem_filter.1 hst'
  rw [hlist p hp]
  cases hqueue : p.2.queue st' with
  | nil => simp [hqueue] at hq
  | cons t rest =>
    simp only [hqueue, Bool.and_eq_true] at hq
    exact ⟨t, rest, rfl, hq.1.1⟩

/-- The candidate chosen is placed, if there is one. -/
def State.placeChosen (s : State) (c : Nat) : Option (Nat × Nat) → State
  | none => s
  | some (lid, st) =>
    match (s.launch lid).queue st with
    | [] => s
    | t :: rest => (s.placeBlock c lid (s.launch lid) t).modLaunch lid fun x => x.setQueue st rest

theorem exec_blockPlacement (s : State) (c : Nat) :
    exec (.blockPlacement c) s = .next (s.placeChosen c ((s.candidates c).foldl (better s.prefers) none)) := by
  have hbetter : ∀ f : Option (Nat × Nat) → Nat × Nat → Option (Nat × Nat), (∀ best q, f best q = better s.prefers best q) →
      (s.candidates c).foldl (better s.prefers) none = (s.candidates c).foldl f none := fun f hf => by
    rw [funext fun best => funext fun q => hf best q]
  change execBlockPlacement c s = _
  rw [execBlockPlacement]
  congr 1
  rw [hbetter _ fun best q => ?_]
  · rfl
  · cases best <;> rfl

theorem State.placeChosen_some {s : State} {lid st : Nat} {t : TaskRec} {rest : List TaskRec} (hq : (s.launch lid).queue st = t :: rest) (c : Nat) :
    s.placeChosen c (some (lid, st)) = (s.placeBlock c lid (s.launch lid) t).modLaunch lid fun x => x.setQueue st rest := by
  simp only [State.placeChosen, hq]

end Sys2Proof.Machine
end

section
/-!
PROOFS. LAUNCH_PLACEMENT by the checks of a launch (R203, R205), and the statement on placement.
-/

namespace Sys2Proof.Machine

/-! ## Reads of the I/O die (R253, R267) -/

/-- Only the monitor's count of denials differs. -/
def deniesOnly (s t : State) : Prop := ∃ n, t = { s with mon := { s.mon with deny := n } }

theorem deniesOnly_refl (s : State) : deniesOnly s s := ⟨s.mon.deny, rfl⟩

theorem deniesOnly.trans {s t u : State} (h : deniesOnly s t) (h' : deniesOnly t u) : deniesOnly s u := by
  obtain ⟨_, rfl⟩ := h
  obtain ⟨n, rfl⟩ := h'
  exact ⟨n, rfl⟩

theorem deniesOnly_foldl {α : Type} (l : List α) (f : State → α → State) (h : ∀ t x, deniesOnly t (f t x)) (s : State) :
    deniesOnly s (l.foldl f s) := by
  induction l generalizing s with
  | nil => exact deniesOnly_refl s
  | cons x l ih => exact (h s x).trans (ih _)

theorem deniesOnly_denySched (s : State) (a len : Nat) : deniesOnly s (s.denySched a len) := by
  unfold State.denySched
  split
  · exact ⟨_, rfl⟩
  · exact deniesOnly_refl s

theorem deniesOnly_ioDenied (s : State) (r : Region) (ws : List (Nat × Nat)) : deniesOnly s (s.ioDenied r ws) := by
  unfold State.ioDenied
  split
  · exact deniesOnly_refl s
  · refine deniesOnly_foldl _ _ (fun t w => ?_) s
    have hwalk : deniesOnly t (t.walkDenied r.troot w.1) := t.walkDenied_eq r.troot w.1
    dsimp only
    split
    · split
      · exact hwalk.trans (deniesOnly_denySched _ _ _)
      · exact hwalk
    · exact hwalk

theorem State.forget_keeps (s : State) (who : Nat) : (s.forget who).cores = s.cores ∧ (s.forget who).launches = s.launches := by
  unfold State.forget
  split <;> exact ⟨rfl, rfl⟩

/-! ## LAUNCH_PLACEMENT (R203, R205) -/

section Launch

variable {s : State} {lid : Nat} (hphase : (s.launch lid).phase = 0) (hctx : (s.region (s.launch lid).rcb).ctx = (s.launch lid).ctx)
  (hrun : (s.ctx (s.launch lid).ctx).st = .running) (hrank : s.outranked lid = false)
include hphase hctx hrun hrank

/-- A launch that may be placed is, once its stage table has been read. -/
theorem exec_launchPlacement : exec (.launchPlacement lid) s =
    .next (s.withRead (agentOf lid) (s.region (s.launch lid).rcb) (s.launch lid).stageReads fun t => t.placeSeed lid) := by
  have hstart : s.startCtx (s.launch lid).rcb = s := by
    refine if_neg fun h => ?_
    rw [hctx, hrun, Bool.and_eq_true] at h
    exact absurd h.2 (by decide)
  change Host.Outcome.next _ = _
  simp only [hphase, hstart, hrank, hrun, Bool.false_eq_true, if_true, if_false, ne_eq, not_true_eq_false, or_self]

end Launch

section Seed

variable {s : State} {lid : Nat} {l : Launch} (hl : s.launch lid = l)
include hl

theorem State.placeSeed_unread (h : s.readStages lid l = none) : s.placeSeed lid = s.signal lid 1 := by
  subst hl
  simp only [State.placeSeed, h]

variable {st : List (DWord × DWord)} (h : s.readStages lid l = some st)
include h

theorem State.placeSeed_refused (hr : ({ l with stages := st } : Launch).refused (s.region l.rcb).pgf = true) :
    s.placeSeed lid = s.signal lid 1 := by
  subst hl
  simp only [State.placeSeed, h]
  exact if_pos hr

variable (hr : ({ l with stages := st } : Launch).refused (s.region l.rcb).pgf = false)
include hr

theorem State.placeSeed_waits (hc : s.seedCore { l with stages := st } = none) : s.placeSeed lid = s := by
  subst hl
  simp only [State.placeSeed, h]
  rw [if_neg (Bool.eq_false_iff.1 hr)]
  simp only [hc]

/-- The state in which a launch has started on a core: its seed group is placed. -/
def State.seedPlaced (s : State) (c lid : Nat) (m : Launch) : State :=
  (s.placeBlock c lid m ⟨lid, m.entry, m.args, 0, 0, 0, true⟩).modLaunch lid fun x => { x with stages := m.stages, phase := 1 }

theorem State.placeSeed_places {c : Nat} (hc : s.seedCore { l with stages := st } = some c) :
    s.placeSeed lid = s.seedPlaced c lid { l with stages := st } := by
  subst hl
  simp only [State.placeSeed, h]
  rw [if_neg (Bool.eq_false_iff.1 hr)]
  simp only [hc]
  rfl

end Seed

/-- What the start of a launch leaves, and where its seed group runs. -/
theorem State.seedPlaced_spec (s : State) {c : Nat} (lid who : Nat) {m : Launch} (h : (s.core c).fits m 1 = true) :
    let t := (s.seedPlaced c lid m).forget who
    (t.launch lid).phase = 1 ∧ (t.launch lid).stages = m.stages ∧ t.mem = s.mem
    ∧ blockStarted (t.core c) m lid ⟨lid, m.entry, m.args, 0, 0, 0, true⟩ 1 ∧ ∀ d, d ≠ c → t.core d = s.core d := by
  obtain ⟨-, hmem, hstarted, hothers⟩ := s.placeBlock_spec lid (t := ⟨lid, m.entry, m.args, 0, 0, 0, true⟩) h
  obtain ⟨hcores, hlaunches⟩ := (s.seedPlaced c lid m).forget_keeps who
  have hcore : ∀ d, ((s.seedPlaced c lid m).forget who).core d = (s.placeBlock c lid m ⟨lid, m.entry, m.args, 0, 0, 0, true⟩).core d := fun d => by
    rw [State.core, hcores, State.seedPlaced, State.modLaunch_cores, ← State.core]
  have hlaunch : ((s.seedPlaced c lid m).forget who).launch lid =
      { (s.placeBlock c lid m ⟨lid, m.entry, m.args, 0, 0, 0, true⟩).launch lid with stages := m.stages, phase := 1 } := by
    rw [State.launch, hlaunches, ← State.launch, State.seedPlaced, State.launch_modLaunch, if_pos rfl]
  have hm : ((s.seedPlaced c lid m).forget who).mem = s.mem := by rw [State.forget_mem, State.seedPlaced, State.modLaunch_mem, hmem]
  dsimp only
  simp only [hlaunch, hcore, hm, true_and]
  exact ⟨hstarted, hothers⟩

/-- Settles O41: a launch by the checks of its placement, a task by the order of the candidates; what is placed has its block by
`State.placeBlock_spec`. -/
theorem placement : Obligations.Placement := by
  refine ⟨fun s lid => ?launch, fun s c hlist => ⟨fun hnone => ?none, fun hne _ => ?task⟩⟩
  case launch =>
    intro l who gs u hphase hctx hrun hrank
    have hexec := exec_launchPlacement hphase hctx hrun hrank
    have hread : gs = [] → exec (.launchPlacement lid) s = .next ((u.placeSeed lid).forget who) := fun hgs => by
      rw [hexec, State.withRead]
      split
      · rfl
      · next hno => exact absurd hgs hno
    obtain ⟨n, hu⟩ : deniesOnly s u := deniesOnly_ioDenied _ _ _
    have hl : u.launch lid = l := by rw [hu]; rfl
    have hregion : u.region l.rcb = s.region l.rcb := by rw [hu]; rfl
    refine ⟨fun hgs => ?asked, fun hgs hst => ?unread, fun st hgs hst => ⟨fun hr => ?refused, fun hr hc => ?waits, fun hr c hc _ => ?places⟩⟩
    case asked =>
      rw [hexec, State.withRead]
      split
      · next hno => exact absurd hno hgs
      · rw [hctx]
    case unread => rw [hread hgs, State.placeSeed_unread hl hst]
    case refused => rw [hread hgs, State.placeSeed_refused hl hst (by rw [hregion]; exact hr)]
    case waits => rw [hread hgs, State.placeSeed_waits hl hst (by rw [hregion]; exact hr) hc]
    case places =>
      obtain ⟨hfits, hleast⟩ := State.seedCore_spec hc
      obtain ⟨hp, hs, hm, hstarted, hothers⟩ := u.seedPlaced_spec lid who hfits
      refine ⟨by rw [hu] at hleast; exact hleast, _, ?_, hp, hs, hm.trans (by rw [hu]), hstarted, fun d hd => (hothers d hd).trans (by rw [hu]; rfl)⟩
      rw [hread hgs, State.placeSeed_places hl hst (by rw [hregion]; exact hr) hc]
  case none =>
    rw [exec_blockPlacement, hnone]
    rfl
  case task =>
    obtain ⟨⟨lid, st⟩, hbest, hmem, hpref⟩ := State.exists_preferred hne
    obtain ⟨t, rest, hq, hfits⟩ := State.of_mem_candidates hlist hmem
    obtain ⟨-, hm, hstarted, hothers⟩ := s.placeBlock_spec lid hfits
    refine ⟨lid, st, (s.placeBlock c lid (s.launch lid) t).modLaunch lid fun x => x.setQueue st rest, t, rest, hmem, hpref, hq, ?_, ?_, hm,
      hstarted, hothers⟩
    · rw [exec_blockPlacement, hbest, State.placeChosen_some hq]
    · rw [State.launch_modLaunch, if_pos rfl]
      exact Sparse.get_set_self _ _ _ _

end Sys2Proof.Machine
end
